-- ==== Sys2Proof/Word.lean ====
section
/-! DEFINITION. The word types of the device and of a stall, and the plain list memory they are kept in. -/
namespace Sys2Proof

/-- One byte of stall memory, device memory or a packet. -/
abbrev Byte := BitVec 8

/-- A stall word (R48): 16 bits, little-endian in memory. -/
abbrev Word := BitVec 16

/-- An accumulator (R52): 40 bits, two's complement. -/
abbrev Acc := BitVec 40

/-- One aligned 8-byte slot of the register space of BAR0. -/
abbrev QWord := BitVec 64

/-- Bytes received or sent, first byte first. -/
abbrev Bytes := List Byte

/-- A memory: (address, byte) pairs, addresses strictly rising, no zero byte listed; an unlisted address reads 0. -/
abbrev Mem := List (Nat × Byte)

end Sys2Proof
end

