-- ==== Sys2Proof/Syntax.lean ====
section
/-! DEFINITION. The commands of the device: one constructor per row of the table of operations and events. -/
namespace Sys2Proof

/-- The commands and events of the device, one constructor per row of the table of operations, in its order. An operation of
a session core names only the stall: the instruction it executes stands in the stall's program. -/
inductive Instr
  /-- Executes the NOP instruction, which advances TICK by its cost and does nothing else (R64). -/
  | nop (stall : Nat)
  /-- Executes MOV, which copies the source to the destination and sets N and Z (R64). -/
  | mov (stall : Nat)
  /-- Executes XCH, which swaps destination and source, with the later operand prevailing where they overlap (R64). -/
  | xch (stall : Nat)
  /-- Executes LEA, which writes the effective address of its operand into pointer cell Pn (R65). -/
  | lea (stall : Nat)
  /-- Executes PUSH, which writes a word at P15 - 2 and sets P15 to that value (R66). -/
  | push (stall : Nat)
  /-- Executes POP, which reads the word at P15, adds 2 to P15 and writes the destination (R66). -/
  | pop (stall : Nat)
  /-- Executes CLR, which writes 0 to the destination (R64). -/
  | clr (stall : Nat)
  /-- Executes SWPB, which swaps the two bytes of the destination word (R64). -/
  | swpb (stall : Nat)
  /-- Executes ADD, which adds the source to the destination and sets all four flags (R65). -/
  | add (stall : Nat)
  /-- Executes ADC, which adds the source and the carry to the destination (R65). -/
  | adc (stall : Nat)
  /-- Executes SUB, which subtracts the source from the destination, with C set on borrow (R65). -/
  | sub (stall : Nat)
  /-- Executes SBC, which subtracts the source and the borrow from the destination (R65). -/
  | sbc (stall : Nat)
  /-- Executes CMP, which sets the flags of destination minus source and writes nothing (R65). -/
  | cmp (stall : Nat)
  /-- Executes NEG, which negates the destination, with the edge results of R70 (R70). -/
  | neg (stall : Nat)
  /-- Executes INC, which adds 1 to the destination and leaves C unchanged (R65). -/
  | inc (stall : Nat)
  /-- Executes DEC, which subtracts 1 from the destination and leaves C unchanged (R65). -/
  | dec (stall : Nat)
  /-- Executes AND, the bitwise AND of destination and source (R65). -/
  | and (stall : Nat)
  /-- Executes OR, the bitwise OR of destination and source (R65). -/
  | or (stall : Nat)
  /-- Executes XOR, the bitwise exclusive OR of destination and source (R65). -/
  | xor (stall : Nat)
  /-- Executes NOT, which inverts the destination (R65). -/
  | not (stall : Nat)
  /-- Executes TST, which sets the flags of destination AND source and writes nothing (R65). -/
  | tst (stall : Nat)
  /-- Executes SEXT, which sign-extends the low byte of the destination into the whole word (R64). -/
  | sext (stall : Nat)
  /-- Executes MUL, which writes the signed 32-bit product at d and d + 2 (R67). -/
  | mul (stall : Nat)
  /-- Executes MULU, which writes the unsigned 32-bit product at d and d + 2 (R67). -/
  | mulu (stall : Nat)
  /-- Executes DIV, an unsigned division that writes the quotient, the remainder and DZ (R67). -/
  | div (stall : Nat)
  /-- Executes DIVS, a signed division truncating towards zero, with the zero-divisor results of R68 (R67). -/
  | divs (stall : Nat)
  /-- Executes SHL, which shifts the destination left by s[4:0] (R69). -/
  | shl (stall : Nat)
  /-- Executes SHR, a logical shift right by s[4:0] (R69). -/
  | shr (stall : Nat)
  /-- Executes SAR, an arithmetic shift right by s[4:0] (R69). -/
  | sar (stall : Nat)
  /-- Executes ROL, which rotates the destination left (R69). -/
  | rol (stall : Nat)
  /-- Executes ROR, which rotates the destination right (R69). -/
  | ror (stall : Nat)
  /-- Executes BIT, which tests, sets, clears or inverts bit k of the destination and sets Z from the old bit (R64). -/
  | bit (stall : Nat)
  /-- Executes LDA, which loads an accumulator with place(s) (R71). -/
  | lda (stall : Nat)
  /-- Executes STA, which stores the selected part of an accumulator (R71). -/
  | sta (stall : Nat)
  /-- Executes ADDA, which adds place(s) to an accumulator (R71). -/
  | adda (stall : Nat)
  /-- Executes SUBA, which subtracts place(s) from an accumulator (R71). -/
  | suba (stall : Nat)
  /-- Executes MPY, which sets an accumulator to prod(a, b) (R72). -/
  | mpy (stall : Nat)
  /-- Executes MAC, which adds prod(a, b) to an accumulator (R72). -/
  | mac (stall : Nat)
  /-- Executes MSU, which subtracts prod(a, b) from an accumulator (R72). -/
  | msu (stall : Nat)
  /-- Executes RND, which stores round16 of an accumulator, saturating when CTL.SAT = 1 (R72). -/
  | rnd (stall : Nat)
  /-- Executes SHA, which shifts an accumulator left or right by a signed count (R71). -/
  | sha (stall : Nat)
  /-- Executes ABS, which writes the absolute value of the destination (R65). -/
  | abs (stall : Nat)
  /-- Executes MVC, which loads or stores FLAGS or CTL (R76). -/
  | mvc (stall : Nat)
  /-- Executes BR, a branch relative to the next instruction (R74). -/
  | br (stall : Nat)
  /-- Executes JMP, which loads PC with its target (R74). -/
  | jmp (stall : Nat)
  /-- Executes CALL, which pushes a 32-bit return address and jumps to the target (R66). -/
  | call (stall : Nat)
  /-- Executes RET, which pops the return address into PC (R66). -/
  | ret (stall : Nat)
  /-- Executes RETI, which restores PC, FLAGS, CTL and REP from the frame, clears INSV and re-samples the interrupt lines (R99). -/
  | reti (stall : Nat)
  /-- Executes DBNZ, which decrements d and branches if the result is nonzero (R74). -/
  | dbnz (stall : Nat)
  /-- Executes DBRC, which decrements RC and branches while RC stays nonzero (R75). -/
  | dbrc (stall : Nat)
  /-- Executes LDRC, which loads RC from s or stores RC to d (R75). -/
  | ldrc (stall : Nat)
  /-- Executes RPT, which latches a repeat count for the following instruction (R84). -/
  | rpt (stall : Nat)
  /-- Executes LOCK, which makes the next n instructions a locked sequence (R88). -/
  | lock (stall : Nat)
  /-- Executes SWI, which enters software interrupt vector 16 + n (R104). -/
  | swi (stall : Nat)
  /-- Executes WAIT, which spends its base cost and then idles until an enabled interrupt line is set (R77). -/
  | wait (stall : Nat)
  /-- Executes SYNC, which spends its base cost and then idles to the next line boundary (R78). -/
  | sync (stall : Nat)
  /-- Executes a user opcode U0-U7 by running its bound micro-ops (R117). -/
  | userOpcode (stall : Nat)
  /-- Executes one further repetition of a repeated instruction, at its full cost (R85). -/
  | repetition (stall : Nat)
  /-- The sequencer advances the idle ticks of WAIT or SYNC by one step, up to the next line boundary, wake tick or R22 bar (R152). -/
  | idleStep (stall : Nat)
  /-- Accepts the highest-priority eligible line at a boundary and runs the 6-tick entry (R96). -/
  | interruptEntry (stall : Nat)
  /-- A failed static check of the next instruction enters vector ILLEGAL and writes ECAUSE (R574). -/
  | illegalEntry (stall : Nat)
  /-- Enters the DIVZERO exception at the boundary after a division by zero when CTL.DZE = 1 (R68). -/
  | divzeroEntry (stall : Nat)
  /-- A read of VID_COLL or VID_STAT completes once rendering has reached the read's start tick (R31). -/
  | catchUpRead (stall : Nat)
  /-- A writer held on a full stamp queue and spill area resumes once entries have been consumed (R29). -/
  | stampQueueRelease (stall : Nat)
  /-- A failed translation is reported for the oldest instruction or an agent access, and the stall enters FAULT_WAIT (R372). -/
  | translationFault (stall : Nat) (index : Nat) (entry : Nat) (agent : Nat) (write : Bool) (fetch : Bool) (page : Nat)
  /-- Firmware resolves a translation fault, and the waiting accesses restart (R382). -/
  | faultResolve (stall : Nat) (index : Nat) (page : Option Bytes)
  /-- The checkpoint writer copies a frame with K = 1 and releases the write held on it (R377). -/
  | ckptPageCopy (stall : Nat) (index : Nat)
  /-- The tick count reaches the first tick of the first blanking line, and ISTAT bit VBL is set (R20). -/
  | vblAssert (stall : Nat)
  /-- The tick count reaches the match position, and VID_LSRC.LM and possibly LINE are set (R194). -/
  | lineMatch (stall : Nat)
  /-- A stall timer reaches an expiry tick and sets its ISTAT bit (R101). -/
  | timerExpiry (stall : Nat) (timer : Nat)
  /-- A beam sample whose index is a multiple of SND_PERIOD.N sets line SND (R276). -/
  | sndPeriodExpiry (stall : Nat)
  /-- Latched inputs become visible at the first line boundary not yet begun, are logged, and assert INPUT (R35). -/
  | inputVisible (stall : Nat)
  /-- A placed stall reset takes effect at reset tick b and returns registers, voices and subchannels to their reset values (R485). -/
  | stallResetApply (stall : Nat)
  /-- At a 16-line boundary the sequencer captures a checkpoint of the stall (R160). -/
  | checkpointCapture (stall : Nat)
  /-- The checkpoint writer finishes writing a checkpoint to the CKPT shed (R162). -/
  | checkpointComplete (stall : Nat)
  /-- The raster unit processes a renderable dot, applying the stamped writes before it (R172). -/
  | renderDot (stall : Nat)
  /-- At a slice deadline the raster unit hands the slice over, or raises RAS_UNDERRUN (R173). -/
  | sliceDeadline (stall : Nat)
  /-- A free hot slot is granted to the runnable stall of highest priority (R150). -/
  | sliceGrant (slot : Nat) (core : Nat)
  /-- The execution slice ends after STB_QUANTUM cycles (R149). -/
  | quantumExpiry (stall : Nat)
  /-- A hold that lasts beyond STB_HOLD_EVICT writes the context back, and the stall becomes HELD (R153). -/
  | holdEvict (stall : Nat)
  /-- The cause of a hold clears, and a HELD stall becomes runnable (R153). -/
  | holdClear (stall : Nat)
  /-- At a real line boundary a BLOCKED stall becomes runnable once R22 permits it (R151). -/
  | blockedRelease (stall : Nat)
  /-- A fault still unresolved after STB_PARK_TIMEOUT parks the stall with reason PAGE_FAULT (R157). -/
  | parkTimeout (stall : Nat)
  /-- A write of STB_CTL.DRAIN parks, or releases, every stall of the slot with reason DRAIN (R156). -/
  | stbDrain (slot : Nat) (drain : Bool)
  /-- A write of STB_CTL.FENCE stops the slot's cores and raster unit and fences the slot (R166). -/
  | stbFence (slot : Nat)
  /-- A session core or raster unit failure fences the slot and starts a spare takeover (R496). -/
  | coreFault (slot : Nat) (unit : Nat) (lost : Nat)
  /-- A stall-store parity failure fences the slot and starts a spare takeover (R496). -/
  | storeFault (slot : Nat) (lost : Nat)
  /-- Every replayed stall reaches lag 0, and slot 16 becomes ACTIVE (R166). -/
  | takeoverComplete
  /-- A replayed stall reaches its fault-point TICK, and a RECOVERED notice is written (R498). -/
  | faultPointReached (stall : Nat)
  /-- Firmware resets an empty, unfenced slot, which then runs self-test (R486). -/
  | stableReset (slot : Nat) (pass : Bool)
  /-- UCS_CMD VALIDATE checks a microcode set and sets LOADED, or reports UCS_ERR (R118). -/
  | ucsValidate (slot : Nat) (set : Nat)
  /-- UCS_CMD RELEASE clears LOADED on a set that no stall uses (R120). -/
  | ucsRelease (slot : Nat) (set : Nat)
  /-- A write of CMP_COMMIT takes a copy of the shadow descriptor and starts its validation (R216). -/
  | cmpCommit (stream : Nat)
  /-- Validation of a commit ends with acceptance, or with a refusal and CMP_COMMIT_REJECT (R217). -/
  | commitValidated (bedRoom : Bool)
  /-- At the chosen frame boundary an accepted commit is written to the active descriptor, and APPLIED is set (R217). -/
  | commitTakeEffect (stream : Nat)
  /-- A bed rebuild finishes its second copy (R215). -/
  | bedRebuildComplete (stream : Nat)
  /-- The composer composes a stream slice and writes its stream hint map (R220). -/
  | composeSlice (stream : Nat)
  /-- 100 us after the due time the slice is composed from frame k - 1 lines, with REPEAT (R221). -/
  | sliceLateLimit (stream : Nat)
  /-- A write of MON_COMMIT.GO requests that the monitor shadow registers be applied (R230). -/
  | monCommit
  /-- At the next vertical blanking the monitor shadows are checked and applied, or TERR is set (R227). -/
  | monTimingApply
  /-- A write of MON_CTL.EN stops the monitor port at once or starts it at the next cadence boundary (R230). -/
  | monEnable (en : Bool)
  /-- A monitor frame begins at the first pixel-clock edge at or after a cadence boundary (R228). -/
  | monFrameStart (fills : List Nat)
  /-- A pixel due while the monitor line buffer is empty starts an underrun (R229). -/
  | monUnderrun (line : Nat) (pixel : Nat)
  /-- At the end of the active region the internal and pin CRCs are compared (R231). -/
  | monFrameEnd (pads : Option Bytes)
  /-- An ACTIVE encoder core takes the next coding row from the device queue (R235). -/
  | codingRowStart (core : Nat)
  /-- The encoder writes a coding row's record into the output ring, or discards it (R241). -/
  | codingRowDone (core : Nat)
  /-- The 400 us watchdog of a coding row expires and counts as an encoder core failure (R262). -/
  | encRowWatchdog (core : Nat)
  /-- A failed encoder core is fenced, and its rows are re-queued (R262). -/
  | encCoreFault (core : Nat) (cause : Nat)
  /-- The spare encoder core becomes ACTIVE after a core fault (R262). -/
  | encSpareActivate
  /-- The voice engines apply the pending sound writes, compute the voices and form the game mix for one beam sample (R267). -/
  | beamSample (stall : Nat)
  /-- The mix cores run the lane's routing graph for one beam sample (R282). -/
  | graphSample (stall : Nat)
  /-- A write of AUD_SWAP.GO requests that a stall's inactive graph copy be validated and swapped in (R284). -/
  | audSwap (stall : Nat) (ramp : Bool)
  /-- Validation of a graph swap ends with acceptance or with a refusal recorded in AUD_SWAP_ERR (R284). -/
  | audSwapValidated
  /-- At its formation time a 10 ms stream audio frame is formed, mixed and written as a record (R288). -/
  | audioFrameForm (stall : Nat) (op : Bytes)
  /-- HOD_CMD START begins a stall program at HOD_PROG (R316). -/
  | hodStart (stall : Nat) (sub : Nat)
  /-- HOD_CMD HALT ends the program at tick w with CODE HALTED (R316). -/
  | hodHalt (stall : Nat) (sub : Nat)
  /-- HOD_CMD RESUME continues a suspended program (R316). -/
  | hodResume (stall : Nat) (sub : Nat)
  /-- HOD_CMD CLEAR sets CODE and RESID to 0 (R316). -/
  | hodClear (stall : Nat) (sub : Nat)
  /-- A READ brick transfers bytes from the device to memory (R303). -/
  | brickRead (stall : Nat) (sub : Nat)
  /-- A WRITE brick transfers bytes from memory to the device (R303). -/
  | brickWrite (stall : Nat) (sub : Nat)
  /-- A BLIT WRITE with PARAM COPY copies bytes to the BLIT destination (R308). -/
  | blitCopy (stall : Nat) (sub : Nat)
  /-- A BLIT WRITE with PARAM FILL writes one byte COUNT times (R308). -/
  | blitFill (stall : Nat) (sub : Nat)
  /-- A QUERY brick writes device status data to memory (R322). -/
  | brickQuery (stall : Nat) (sub : Nat)
  /-- A CONTROL SETPOS brick sets the device position (R307). -/
  | setpos (stall : Nat) (sub : Nat)
  /-- A CONTROL SEEK brick sets the MEDIA position to a sector, with the seek time of R310 (R307). -/
  | seek (stall : Nat) (sub : Nat)
  /-- A CONTROL FLUSH brick empties the LINK receive buffer (R307). -/
  | flush (stall : Nat) (sub : Nat)
  /-- A CONTROL SETDST brick sets the BLIT destination (R307). -/
  | setdst (stall : Nat) (sub : Nat)
  /-- A GOTO brick continues the program at ADDR (R303). -/
  | brickGoto (stall : Nat) (sub : Nat)
  /-- A WAIT brick starts waiting for its condition (R315). -/
  | brickWait (stall : Nat) (sub : Nat)
  /-- The condition of a WAIT brick holds, and the brick completes (R315). -/
  | waitComplete (stall : Nat) (sub : Nat)
  /-- A NOP brick does nothing and continues by its LINK field (R303). -/
  | brickNop (stall : Nat) (sub : Nat)
  /-- A POST brick posts status with CODE OK and continues (R303). -/
  | brickPost (stall : Nat) (sub : Nat)
  /-- A PAUSE brick suspends the program and posts SUSPENDED (R303). -/
  | brickPause (stall : Nat) (sub : Nat)
  /-- A brick reaches its completion tick, and the next brick starts or the program ends (R309). -/
  | brickComplete (stall : Nat) (sub : Nat)
  /-- The count of idle bricks reaches 256, and the program ends with CODE LOOP (R319). -/
  | hodLoop (stall : Nat) (sub : Nat)
  /-- The sequencer performs a Hod unit's stall-memory access at the boundary that its access tick fixes (R313). -/
  | hodUnit (stall : Nat) (sub : Nat)
  /-- A LINK delivery reaches its release time, or arrives after it, and is latched at the receiver (R409). -/
  | linkRelease
  /-- A latched delivery becomes visible at a line boundary: appended or discarded, logged, and LINK possibly asserted (R322). -/
  | linkDeliveryVisible (stall : Nat)
  /-- HOD_HCMD START begins a host program at HOD_HPROG (R326). -/
  | hodHstart (h : Nat)
  /-- HOD_HCMD HALT ends a host program at its next unit boundary (R326). -/
  | hodHhalt (h : Nat)
  /-- HOD_HCMD RESUME continues a suspended host program (R321). -/
  | hodHresume (h : Nat)
  /-- HOD_HCMD CLEAR clears a host subchannel's CODE and residual (R326). -/
  | hodHclear (h : Nat)
  /-- A host program moves one unit after the grant, seal and bus checks (R328). -/
  | hodHostUnit (h : Nat) (host : Option Bytes) (fault : Bool)
  /-- A write of HOD_HGRANT changes the host grant, and clearing HOST ends every host program on H16-H63 (R328). -/
  | hodHgrantWrite (host : Bool) (sheds : Nat)
  /-- HOD_ASSIGN GO assigns a device type to subchannel 3-7, or records the refusal (R299). -/
  | hodAssign (stall : Nat) (sub : Nat) (ty : Nat)
  /-- A write of MOV_CHn_PI makes descriptors available, and the channel executes them in ring order (R336). -/
  | movChPi (ch : Nat) (pi : Nat)
  /-- A DMA descriptor moves LEN bytes through the funnel (R341). -/
  | dma (ch : Nat) (host : Option Bytes)
  /-- A PLANE_PACK descriptor packs index tiles into 4bpp planar tiles (R343). -/
  | planePack (ch : Nat) (host : Option Bytes)
  /-- A PLANE_UNPACK descriptor unpacks 4bpp planar tiles into indices (R343). -/
  | planeUnpack (ch : Nat) (host : Option Bytes)
  /-- An INTERLEAVE descriptor interleaves W planes of elements (R343). -/
  | interleave (ch : Nat) (host : Option Bytes)
  /-- A DEINTERLEAVE descriptor splits interleaved data into planes (R343). -/
  | deinterleave (ch : Nat) (host : Option Bytes)
  /-- A FILL blit writes the fill pixel to every destination pixel (R347). -/
  | fill (ch : Nat) (host : Option Bytes)
  /-- A BCOPY blit copies a rectangle row segment by row segment (R345). -/
  | bcopy (ch : Nat) (host : Option Bytes)
  /-- A BCONVERT blit copies a rectangle, converting its pixel format (R347). -/
  | bconvert (ch : Nat) (host : Option Bytes)
  /-- A stall-side burst or segment is performed at an instruction boundary of the stall at tick T (R351). -/
  | moverStallAccess (ch : Nat)
  /-- A channel in FAULT resumes at the same burst or segment once the fault is resolved (R352). -/
  | movFaultResume (ch : Nat)
  /-- A write of MOV_CHn_CTL.HALT ends the descriptor in progress with HALTED and clears RUN (R354). -/
  | movHalt (ch : Nat)
  /-- A write of MEM_INVAL.GO invalidates translation cache entries (R380). -/
  | memInval (stall : Nat) (index : Nat) (all : Bool) (global : Bool)
  /-- The invalidation completes, and GO clears (R380). -/
  | memInvalDone
  /-- An uncorrectable HBM error is delivered poisoned and contained according to the shed of its frame (R363). -/
  | hbmUe (addr : Nat) (agent : Nat) (who : Nat)
  /-- The patrol scrubber reads a burst and corrects or reports its errors (R364). -/
  | scrubRead (addr : Nat) (result : Nat)
  /-- A read of MEM_XFAULT pops a translation fault record (R381). -/
  | memXfaultPop
  /-- Auto-negotiation and link training bring a yard port UP (R384). -/
  | portTrained (port : Nat)
  /-- A port that loses lock for 20 us becomes FAILED, and its paths and streams are moved (R385). -/
  | portFail (port : Nat)
  /-- The ingress classifier gives a received frame to its destination (R386). -/
  | frameReceive (port : Nat) (uncorr : Nat) (frame : Bytes)
  /-- An input datagram is checked for format, tag and sequence (R388). -/
  | inputDatagram
  /-- A received RR or SR report block writes ESD LOSS (R398). -/
  | rtcpReport
  /-- A received TMMBR writes ESD CAP, and a TMMBN is sent (R398). -/
  | tmmbr
  /-- A received PLI or FIR sets ESD KEYREQ (R398). -/
  | pli
  /-- Every 1 s a compound SR and SDES packet is sent for the stream (R398). -/
  | rtcpSrSend (stream : Nat)
  /-- A media packet leaves through the token bucket and the port priority (R396). -/
  | packetSend (audio : Bool) (num : Nat)
  /-- The packet engine reads a record from an output ring, packetizes it or discards it as stale (R397). -/
  | recordRead (audio : Bool) (num : Nat)
  /-- Every 100 us each UP port sends a yard HELLO (R404). -/
  | helloSend (port : Nat)
  /-- A received HELLO updates the routes, or raises YRD_CONFLICT (R405). -/
  | helloReceive
  /-- A 1-hop path is removed after 3 missed HELLOs (R405). -/
  | routeTimeout (port : Nat) (yard : Nat)
  /-- A yard DATA packet is authenticated and delivered in SEQ order, held or discarded (R407). -/
  | yardDataReceive
  /-- A received ACK advances the sender's window (R407). -/
  | yardAckReceive
  /-- A received NAK makes the sender retransmit the missing packets (R407). -/
  | yardNakReceive
  /-- 20 us after the first packet not yet acknowledged, the receiver sends an ACK (R407). -/
  | ackTimer (yard : Nat)
  /-- A gap that has stood for 20 us makes the receiver send a NAK (R407). -/
  | nakTimer (yard : Nat)
  /-- After 200 us with no advancing ACK, all unacknowledged packets are retransmitted (R407). -/
  | retransmitTimeout (yard : Nat)
  /-- After 10 ms without a route or ACK progress, the peer is declared unreachable (R408). -/
  | peerUnreachable (yard : Nat)
  /-- A received PTP Sync exchange corrects CAD_TIME by step or frequency (R401). -/
  | ptpSync (offset : Int)
  /-- Loss of the master puts PTP in HOLDOVER (R401). -/
  | ptpHoldover
  /-- A write of YRD_LOAD.GO loads a flow, stream or route entry into the classifier (R391). -/
  | yrdLoad (table : Nat) (index : Nat)
  /-- A write of YRD_CTL.ATTACH = 0 sends LEAVING HELLOs and stops yard traffic (R415). -/
  | yrdDetach
  /-- At a checkpoint boundary the source parks the stall with MIGRATE and sends the final record (R412). -/
  | migrationPark (stall : Nat)
  /-- The destination has restored the stall and replies READY, and the source replies COMMIT (R412). -/
  | migrateReady (source : Bool) (stall : Nat) (yard : Nat) (verdict : Nat) (snap : Bytes) (room : Bool) (image : Option Bytes)
  /-- On COMMIT the destination resumes the stall, and YRD_MIGRATE_DONE is raised (R412). -/
  | migrateCommit (stall : Nat)
  /-- The destination's acknowledgement of COMMIT lets the source destroy the stall (R412). -/
  | commitAck (stall : Nat)
  /-- A read of CAD_TIME_LO latches HI for the next read (R416). -/
  | cadTimeRead
  /-- A write of MBX_H2M_DOORBELL.GO submits a mailbox request (R422). -/
  | mbxDoorbell (go : Bool)
  /-- A read of MBX_M2H_DATA0 clears M2H_VALID and H2M_BUSY (R422). -/
  | m2hData0Read (mp0 : Bool)
  /-- A request with an undefined command code is answered UNKNOWN (R452). -/
  | unknownCommand
  /-- A write of RNG_SQ_TAILr makes the device fetch submission entries (R432). -/
  | rngSqTail (ring : Nat) (tail : Nat)
  /-- A write of RNG_CQ_HEADr frees completion slots and re-arms the CQ vector (R434). -/
  | rngCqHead (ring : Nat) (head : Nat)
  /-- Every 100 us the device re-reads an entry that stopped fetching (R432). -/
  | sqRepoll (ring : Nat)
  /-- An SQ entry of the current phase is checked and taken, and SQHEAD advances (R432). -/
  | sqEntryFetch (ring : Nat) (entry : Option Bytes)
  /-- A taken job starts in SQ order, after its FENCE and CQ space allow (R433). -/
  | jobStart (ring : Nat)
  /-- A NOP job completes with OK (R429). -/
  | ringNop (ring : Nat)
  /-- A CONTROL job performs a mailbox command from the admin ring (R430). -/
  | ringControl (host : Option Bytes) (put : Bool) (room : Bool) (verdict : Nat) (image : Option Bytes)
  /-- A LATCH_INPUT job writes a player's latch in host-assisted input mode (R430). -/
  | latchInput
  /-- A TO_DEVICE job copies host elements to device memory (R430). -/
  | toDevice (ring : Nat) (data : Bytes)
  /-- A FROM_DEVICE job copies device memory to host elements (R430). -/
  | fromDevice (ring : Nat) (taken : Nat)
  /-- An RX_BUFFER job offers host buffers for deliveries of the ring's class (R430). -/
  | rxBuffer (ring : Nat)
  /-- A HOSTIO_TX job appends bytes to a HOSTIO receive buffer (R430). -/
  | hostioTx (ring : Nat) (data : Option Bytes)
  /-- A job's completion entry is written to the CQ and the vector is sent (R434). -/
  | jobComplete (ring : Nat)
  /-- A captured delivery is written into the open RX_BUFFER job of its class, or dropped (R465). -/
  | ringDelivery (cls : Nat) (put : Bool)
  /-- 500 us after its first delivery an RX_BUFFER job completes (R465). -/
  | rxJobTimeout (ring : Nat)
  /-- PERST# with scope FULL resets the device as DEVRST together with the link (R440). -/
  | perstFull
  /-- PERST# PORT_ONLY, Hot Reset, FLR or link loss resets the host port only (R442). -/
  | portReset (kind : Nat)
  /-- The orphan timer reaches HOST_ORPHAN.SECONDS, and firmware continues or parks every stall (R443). -/
  | orphanTimeout
  /-- Returns the device identity, mode and versions (R457). -/
  | identify
  /-- Returns the mode, the split state, the epochs and the counts (R457). -/
  | fwStatus
  /-- Copies log entries to a host buffer (R458). -/
  | logRead (put : Bool)
  /-- Responds and then performs DEVRST or WARMRST (R458). -/
  | deviceReset
  /-- Abandons the package and returns to BOOT, or acts as WARMRST outside LOAD and REJECT (R458). -/
  | abortToBoot
  /-- Starts a package download and opens BAR2 on the staging area (R447). -/
  | fwBegin
  /-- Closes BAR2 and enters LOAD to check the package (R447). -/
  | fwCommit
  /-- LOAD ends with the package checks: the firmware starts or the device enters REJECT (R450). -/
  | packageCheck (poison : Nat)
  /-- The started firmware completes self-test and re-adoption, and serves in its mode (R505). -/
  | firmwareReady (slots : Nat) (cores : Nat)
  /-- Changes the device mode to SERVICE, SERVE, DROWSE, SLUMBER or CONFORMANCE (R458). -/
  | modeSet
  /-- Writes a device setting item (R459). -/
  | deviceSet
  /-- Changes split functions between hardware and host-assisted mode (R467). -/
  | setSplit
  /-- Creates a ring pair (R425). -/
  | ringCreate
  /-- Deletes a ring pair and aborts its jobs (R426). -/
  | ringDelete
  /-- Reads and checks a title image and registers it under a handle (R460). -/
  | titleRegister (host : Option Bytes) (room : Bool)
  /-- Removes a registered title that is not in use (R460). -/
  | titleRemove
  /-- Maps a host-supplied title page for every stall waiting on it (R460). -/
  | pageSupply (host : Option Bytes)
  /-- Creates a stall, parked with reason OPERATOR (R461). -/
  | stallCreate (room : Bool)
  /-- Sets F0 and clears OPERATOR so that the stall starts (R147). -/
  | stallStart
  /-- Adds reason OPERATOR and parks the stall (R158). -/
  | stallPark
  /-- Clears reason OPERATOR from a parked stall (R158). -/
  | stallResume
  /-- Places a stall reset at the first line boundary not yet begun (R38). -/
  | stallReset
  /-- Changes a stall's LEAD or CORECFG (R146). -/
  | stallSet
  /-- Moves a stall to another stable of the device (R164). -/
  | stallMove
  /-- Destroys a stall with its streams, lane, flows, pages and checkpoints (R461). -/
  | stallDestroy
  /-- Returns a stall's state, park reasons, TICK and F0 (R461). -/
  | stallQuery
  /-- Assigns a device type to a stall subchannel (R299). -/
  | subchAssign
  /-- Sets the LINK peer address of a subchannel (R409). -/
  | linkPeer
  /-- Replays stalls parked with reason RECOVER and clears the reason (R461). -/
  | resumeFromCheckpoint
  /-- Creates or configures a stream and its ESD, subject to the budget checks (R237). -/
  | streamConfig (host : Option Bytes)
  /-- Sets a stream's network descriptor (R396). -/
  | streamNet (host : Option Bytes)
  /-- Writes a course descriptor into the shadow descriptor (R462). -/
  | courseSet
  /-- Writes a guarded region descriptor into the shadow descriptor (R462). -/
  | regionSet
  /-- Requests a composer commit and responds after its validation (R462). -/
  | streamCommit (room : Bool)
  /-- Sets KEYREQ for a stream (R462). -/
  | streamKeyframe
  /-- Returns a stream's APPLIED, RATE_NOW and SENT (R462). -/
  | streamQuery
  /-- Destroys a stream and discards its queued rows (R460). -/
  | streamDestroy
  /-- Configures a stall's audio lane (R462). -/
  | laneConfig
  /-- Sets the operator ring write offset OP_WR (R289). -/
  | laneOpwr
  /-- Writes the inactive graph copy and requests the swap (R462). -/
  | graphLoad (host : Option Bytes)
  /-- Installs a flow, stream or yard key (R463). -/
  | keySet
  /-- Writes and loads an input flow descriptor (R391). -/
  | flowSet (host : Option Bytes)
  /-- Removes an input flow (R391). -/
  | flowClear
  /-- Sets the yard number, port and link latency, and attaches to the yard (R463). -/
  | yardSet
  /-- Sets a service address (R463). -/
  | addrSet
  /-- Writes a route entry in host-assisted routing (R463). -/
  | routeSet (host : Option Bytes)
  /-- Starts the live migration of a stall to another device (R412). -/
  | migrate (verdict : Nat)
  /-- Resumes or destroys a stall whose migration is in doubt (R414). -/
  | migrateResolve
  /-- Exports a stall snapshot, without keys, to a host buffer (R410). -/
  | snapshotExport (put : Bool)
  /-- Imports a snapshot as a parked stall (R411). -/
  | snapshotImport (host : Option Bytes) (room : Bool) (image : Option Bytes)
  /-- Grants L1 debug for a stall when its token verifies (R511). -/
  | debugToken
  /-- Ends a stall's L1 grant (R511). -/
  | debugRevoke
  /-- Applying VDD_AON, or losing it, resets the whole device (R482). -/
  | por (on : Bool)
  /-- A device reset by mailbox, MGMT or RESET_N discards everything except the always-on domain and the link (R482). -/
  | devrst (pin : Bool) (mp0 : Bool)
  /-- A warm reset keeps HBM in self-refresh and resets every other domain (R484). -/
  | warmrst (mp0 : Bool)
  /-- A wake pin or a PERST_N edge wakes the device from SLUMBER (R491). -/
  | slumberWake (pin : Nat)
  /-- Once every supply is good, the Slumber-exit reset runs and the boot ROM starts (R491). -/
  | slumberExitReset (mp0 : Bool)
  /-- A rail that is not good for 5 us resets every domain except the always-on domain (R547). -/
  | railLoss
  /-- A reference clock stops, with the effect of its absence (R549). -/
  | refclkLoss (clk : Nat)
  /-- A write of 0xA5 to MPW_KICKn reloads the watchdog (R492). -/
  | mpwKick (n : Nat) (key : Nat)
  /-- An MP watchdog count reaches 0, and MPW_EXPIRED is raised (R492). -/
  | mpwExpiry (n : Nat) (lost : Nat)
  /-- A failure of the active MP core fences it and fails over to the standby core (R494). -/
  | mpFailure (cause : Nat) (lost : Nat)
  /-- An uncontainable fault puts the device in FAIL_STOP (R502). -/
  | unrecoverableFault (reason : Nat) (unit : Nat)
  /-- Every 4 CLK_MP cycles the event controller finds the eligible sources and notifies the targets (R471). -/
  | evtArbitration
  /-- A read of EVT_CLAIMt claims the highest-priority eligible source (R473). -/
  | evtClaim (target : Nat)
  /-- A write of EVT_DONEt completes a source in service, or counts a stray completion (R474). -/
  | evtDone (target : Nat) (source : Nat)
  /-- DBG_UNLOCK OP NONCE draws a 32-byte nonce (R509). -/
  | dbgNonce
  /-- DBG_UNLOCK OP UNLOCK verifies the response and raises the debug level (R509). -/
  | dbgUnlock (level : Nat)
  /-- DBG_UNLOCK OP LOCK returns the debug level to L0 (R510). -/
  | dbgLock
  /-- A nonce expires 10 s after it was drawn (R509). -/
  | nonceExpiry
  /-- A write of DAM_CTL.GO makes one debug access master access (R520). -/
  | damAccess (host : Option Bytes) (unmapped : Bool)
  /-- A DAM access to a running stall is performed at an instruction boundary of the stall (R521). -/
  | damStallAccess (unmapped : Bool)
  /-- DBG_SCTL OP HALT halts a stall at its next boundary (R523). -/
  | dbgSctlHalt (stall : Nat) (force : Bool)
  /-- DBG_SCTL OP RESUME returns a halted stall to RUNNABLE (R525). -/
  | dbgSctlResume (stall : Nat)
  /-- DBG_SCTL OP STEP executes one instruction, repetition or entry, then halts (R525). -/
  | dbgSctlStep (stall : Nat)
  /-- DBG_SCTL OP FEED executes the instruction held in DBG_FEED (R526). -/
  | dbgSctlFeed (stall : Nat) (flen : Nat)
  /-- A write of DBG_FREEZE enters or releases DEBUG_FREEZE (R529). -/
  | dbgFreeze (freeze : Bool)
  /-- A write of DBG_MPCTL halts or releases an MP core (R530). -/
  | dbgMpctl (halt0 : Bool) (halt1 : Bool)
  /-- OTP_CMD ADVANCE blows SEC_EPOCH fuses (R516). -/
  | advance (epoch : Nat)
  /-- OTP_CMD REVOKE revokes a firmware key (R516). -/
  | revoke (key : Nat)
  /-- TRST_N, Test-Logic-Reset or DBG_CTL.DCRST resets the TAP, the DAM and the breakpoints (R519). -/
  | debugCoreReset (tap : Bool)
  /-- A write of CNF_CTL.END ends Conformance mode, or sets ERR while a stall exists (R531). -/
  | cnfEnd
  /-- The TAP instruction IDCODE selects the 32-bit IDCODE register (R518). -/
  | idcode
  /-- The TAP instruction SAMPLE/PRELOAD selects the boundary scan register (R518). -/
  | samplePreload
  /-- The TAP instruction EXTEST drives the pins from boundary scan (R518). -/
  | extest
  /-- The TAP instruction CLAMP holds the pins with bypass selected (R518). -/
  | clamp
  /-- The TAP instruction HIGHZ places the outputs in high impedance (R518). -/
  | highz
  /-- The TAP instruction DBGREG reads or writes a DBG block register (R518). -/
  | dbgreg (off : Nat) (data : Nat) (write : Bool) (host : Option Bytes) (unmapped : Bool)
  /-- The TAP instruction BYPASS selects the 1-bit bypass register (R518). -/
  | bypass
  /-- A write of BRD_GPIO_CFGp or BRD_GPIO_OUT takes effect at one CLK_PIN edge (R557). -/
  | gpioCfgWrite (reg : Nat) (value : Nat)
  /-- An edge on a pin sets BRD_GPIO_ISTAT (R561). -/
  | gpioEdge (pin : Nat) (level : Bool)
  /-- THROTTLE_N changes level and starts or ends throttling (R569). -/
  | throttlePin (low : Bool)
  /-- Every 1 ms the hottest sensor is reported, updating TEMP_HIGH and throttling (R568). -/
  | tempSample (temp : Int) (sensor : Nat) (watts : Nat)
  /-- CHAIN_IN rises, and 100 us later an unaddressed device answers at 0x3C (R564). -/
  | chainInRise
  /-- SCL held low for 30 ms resets the MGMT target interface (R565). -/
  | smbusTimeout
  /-- An Alert Response read that returns the device's address releases MGMT_ALERT_N (R565). -/
  | alertResponse
  /-- Gives an unaddressed device a chain address and releases CHAIN_OUT (R564). -/
  | assignAddr (addr : Nat) (pec : Bool) (value : Nat)
  /-- Returns a device to unaddressed and drives CHAIN_OUT low (R564). -/
  | releaseAddr (addr : Nat) (pec : Bool)
  /-- Returns the result of the last MGMT command (R567). -/
  | lastStatus (addr : Nat) (pec : Bool)
  /-- Returns the identity block over MGMT (R566). -/
  | readId (addr : Nat) (pec : Bool)
  /-- Returns DEV_MODE over MGMT (R566). -/
  | readMode (addr : Nat) (pec : Bool)
  /-- Returns RST_CAUSE over MGMT (R566). -/
  | readRst (addr : Nat) (pec : Bool)
  /-- Returns FSTOP_CAUSE and FSTOP_TIME over MGMT (R566). -/
  | readFstop (addr : Nat) (pec : Bool)
  /-- Returns BRD_TEMP over MGMT (R566). -/
  | readTemp (addr : Nat) (pec : Bool)
  /-- Returns BRD_POWER over MGMT (R566). -/
  | readPower (addr : Nat) (pec : Bool)
  /-- The MGMT command performs DEVRST (R566). -/
  | devReset (addr : Nat) (pec : Bool) (value : Nat) (mp0 : Bool)
  /-- The MGMT command performs WARMRST (R566). -/
  | warmReset (addr : Nat) (pec : Bool) (value : Nat) (mp0 : Bool)
  /-- The MGMT command makes firmware enter SLUMBER (R490). -/
  | sleep (addr : Nat) (pec : Bool) (value : Nat)
  /-- The MGMT command wakes the device from SLUMBER (R491). -/
  | wake (addr : Nat) (pec : Bool) (value : Nat)
  /-- The MGMT command asserts or releases throttling (R566). -/
  | throttle (addr : Nat) (pec : Bool) (value : Nat)
  /-- The MGMT command writes or reads BRD_WAKE (R566). -/
  | wakeCfg (addr : Nat) (pec : Bool) (write : Bool) (value : Nat)
  /-- A write to a register with no row of its own acts by the access types of its fields (R7). -/
  | registerWrite (byHost : Bool) (bar : Nat) (off : Nat) (data : Bytes) (host : Option Bytes) (unmapped : Bool)
  /-- The rising edge of RESET_N ends the DEVRST held while the pin was low, and the boot ROM runs (R482). -/
  | resetNRelease (mp0 : Bool)
  /-- PERST_N deasserts, the link begins training within 20 ms, and the device reaches BOOT (R441). -/
  | perstDeassert (mp0 : Bool)
  /-- The PCI Express link returns after loss or reset, and one MSI-X message is sent for each vector with an eligible, unclaimed source (R476). -/
  | pcieLinkUp
  /-- After POR the always-on domain releases the other domains once every rail is good, REFCLK25 runs and XTAL32 oscillates, and the boot ROM starts (R544). -/
  | resetRelease (mp0 : Bool)
  /-- TEST_EN goes high, and the device holds every domain except the always-on domain in reset and serves only the TAP (R542). -/
  | testEnAssert
  /-- CHAIN_IN falls on an unaddressed device, which stops answering at 0x3C and drives CHAIN_OUT low (R564). -/
  | chainInFall
  /-- An MGMT command with an unlisted code is refused, and LAST_STATUS reads UNKNOWN (R567). -/
  | mgmtUnknownCommand (addr : Nat) (pec : Bool) (code : Nat)
  /-- A read of a register field of type RC returns its value and clears it (R7). -/
  | rcRead (byHost : Bool) (debug : Bool) (bar : Nat) (off : Nat) (size : Nat) (host : Option Bytes)
  deriving DecidableEq, Repr

end Sys2Proof
end

