-- ==== Sys2Proof/Machine/Bits.lean ====
section
/-! DEFINITION. Bit fields, byte order, signed readings, sparse maps and the CRC-32 that the chapters share. -/
namespace Sys2Proof.Machine

/-- Bit `n` of a number. -/
def bitAt (x n : Nat) : Bool := (x >>> n) % 2 == 1

/-- Field [lo + w - 1 : lo] of a number. -/
def field (x lo w : Nat) : Nat := (x >>> lo) % 2 ^ w

/-- `x` with field [lo + w - 1 : lo] replaced by the low bits of `v`. -/
def putField (x lo w v : Nat) : Nat :=
  x - (field x lo w) * 2 ^ lo + (v % 2 ^ w) * 2 ^ lo

/-- 1 for true, 0 for false. -/
def b2n (b : Bool) : Nat := if b then 1 else 0

/-- The signed reading of the low `w` bits of a number. -/
def toSigned (w x : Nat) : Int :=
  let v := x % 2 ^ w
  if v < 2 ^ (w - 1) then (v : Int) else (v : Int) - (2 ^ w : Nat)

/-- The low `w` bits of an integer in two's complement. -/
def ofSigned (w : Nat) (i : Int) : Nat := (i % ((2 ^ w : Nat) : Int)).toNat

/-- `ceil (a / b)`. -/
def ceilDiv (a b : Nat) : Nat := (a + b - 1) / b

/-- `n` bytes of a number, least significant first. -/
def leBytes : Nat → Nat → Bytes
  | 0, _ => []
  | n + 1, x => BitVec.ofNat 8 x :: leBytes n (x / 256)

/-- The number that little-endian bytes spell. -/
def ofLE : Bytes → Nat
  | [] => 0
  | b :: bs => b.toNat + 256 * ofLE bs

/-- `n` bytes of a number, most significant first (network order). -/
def beBytes (n x : Nat) : Bytes := (leBytes n x).reverse

/-- The number that big-endian bytes spell. -/
def ofBE (bs : Bytes) : Nat := ofLE bs.reverse

/-- `n` bytes of a list from offset `o`, bytes past the end read as 0. -/
def sliceBytes (bs : Bytes) (o n : Nat) : Bytes :=
  let r := (bs.drop o).take n
  r ++ List.replicate (n - r.length) 0

/-- The little-endian number in the `n` bytes from offset `o`. -/
def leAt (bs : Bytes) (o n : Nat) : Nat := ofLE (sliceBytes bs o n)

/-- The big-endian number in the `n` bytes from offset `o`. -/
def beAt (bs : Bytes) (o n : Nat) : Nat := ofBE (sliceBytes bs o n)

/-- Look a key up in a list of (key, value) pairs. -/
def lookupN {α : Type} (k : Nat) : List (Nat × α) → Option α
  | [] => none
  | (j, v) :: r => if j == k then some v else lookupN k r

/-- Set a key of a list of pairs, keys kept rising. -/
def insertN {α : Type} (k : Nat) (v : α) : List (Nat × α) → List (Nat × α)
  | [] => [(k, v)]
  | (j, w) :: r => if j == k then (k, v) :: r else if k < j then (k, v) :: (j, w) :: r else (j, w) :: insertN k v r

/-- Remove a key of a list of pairs. -/
def eraseN {α : Type} (k : Nat) (l : List (Nat × α)) : List (Nat × α) := l.filter fun p => p.1 != k

/-- The byte a memory holds at an address; 0 where nothing is listed. -/
def Memory.get (m : Mem) (a : Nat) : Byte := (lookupN a m).getD 0

/-- A memory with one byte written; writing 0 removes the entry, so the form stays canonical. -/
def Memory.set (m : Mem) (a : Nat) (v : Byte) : Mem := if v == 0 then eraseN a m else insertN a v m

/-- Addresses strictly above `lo`, strictly rising, no zero byte listed. -/
def Memory.wfFrom : Option Nat → Mem → Bool
  | _, [] => true
  | lo, (k, v) :: r =>
    (match lo with | none => true | some l => decide (l < k)) && !(v == 0) && Memory.wfFrom (some k) r

/-- The canonical form of a memory. -/
def Memory.wf (m : Mem) : Bool := Memory.wfFrom none m

/-- Write a list of bytes from an address upwards. -/
def Memory.setBytes : Mem → Nat → Bytes → Mem
  | m, _, [] => m
  | m, a, b :: bs => Memory.setBytes (Memory.set m a b) (a + 1) bs

/-- Read `n` bytes from an address upwards. -/
def Memory.getBytes (m : Mem) (a : Nat) : Nat → Bytes
  | 0 => []
  | n + 1 => Memory.get m a :: Memory.getBytes m (a + 1) n

/-- Clear every byte of [lo, hi). -/
def Memory.clearRange (m : Mem) (lo hi : Nat) : Mem := m.filter fun c => decide (c.1 < lo) || decide (hi ≤ c.1)

/-- The little-endian number in `n` bytes of memory. -/
def Memory.getLE (m : Mem) (a n : Nat) : Nat := ofLE (Memory.getBytes m a n)

/-- Element `i` of a list, or `d`. -/
def nthD {α : Type} (l : List α) (i : Nat) (d : α) : α := l.getD i d

/-- A list with element `i` replaced (unchanged where there is none). -/
def setNth {α : Type} : List α → Nat → α → List α
  | [], _, _ => []
  | _ :: r, 0, v => v :: r
  | x :: r, i + 1, v => x :: setNth r i v

/-- The numbers 0 … n - 1. -/
def upto (n : Nat) : List Nat := List.range n

/-- Insert by a key, after the entries whose key is not greater (a stable insertion). -/
def insertBy {α : Type} (key : α → Nat) (x : α) : List α → List α
  | [] => [x]
  | y :: r => if key x < key y then x :: y :: r else y :: insertBy key x r

/-- Reverse the low 16 bits (R57). -/
def rev16 (x : Nat) : Nat := (upto 16).foldl (fun a i => a + (if bitAt x i then 2 ^ (15 - i) else 0)) 0

/-- The reverse-carry addition of mode 7 (R57). -/
def revadd (a b : Nat) : Nat := rev16 ((rev16 a + rev16 b) % 65536)

/-- One bit of the reflected CRC-32 of IEEE 802.3. -/
def crcBit (c : BitVec 32) : BitVec 32 := if c.getLsbD 0 then (c >>> 1) ^^^ 0xEDB88320#32 else c >>> 1

/-- One byte of the CRC-32 of IEEE 802.3. -/
def crcByte (c : BitVec 32) (b : Byte) : BitVec 32 :=
  let x := c ^^^ b.setWidth 32
  crcBit (crcBit (crcBit (crcBit (crcBit (crcBit (crcBit (crcBit x)))))))

/-- CRC-32 with the IEEE 802.3 polynomial (R42, R231, R535). -/
def crc32 (bs : Bytes) : BitVec 32 := (bs.foldl crcByte 0xFFFFFFFF#32) ^^^ 0xFFFFFFFF#32

/-- Add 1 to a count that saturates at `m`. -/
def satInc (m x : Nat) : Nat := if x < m then x + 1 else m

end Sys2Proof.Machine
end

