-- ==== Sys2Proof/Machine/Pritum.lean ====
section
/-! DEFINITION. The encodings of the Pritum instruction set: the opcode table of R64, operand words (R54, R55), the
static checks that raise ILLEGAL (R53, R56, R59, R574) and the entries of a microcode set (R108 – R114). -/
namespace Sys2Proof.Machine

/-- The opcodes of R64; `user` stands for U0 – U7. -/
inductive Op
  | nop | mov | xch | lea | push | pop | clr | swpb | add | adc | sub | sbc | cmp | neg | inc | dec
  | and | or | xor | not | tst | sext | mul | mulu | div | divs | shl | shr | sar | rol | ror | bit
  | lda | sta | adda | suba | mpy | mac | msu | rnd | sha | abs | mvc | br | jmp | call | ret | reti
  | dbnz | dbrc | ldrc | rpt | lock | swi | wait | sync | user
  deriving DecidableEq, Repr

/-- The opcodes 0x00 – 0x37 in code order (R64). -/
def opList : List Op :=
  [.nop, .mov, .xch, .lea, .push, .pop, .clr, .swpb, .add, .adc, .sub, .sbc, .cmp, .neg, .inc, .dec,
   .and, .or, .xor, .not, .tst, .sext, .mul, .mulu, .div, .divs, .shl, .shr, .sar, .rol, .ror, .bit,
   .lda, .sta, .adda, .suba, .mpy, .mac, .msu, .rnd, .sha, .abs, .mvc, .br, .jmp, .call, .ret, .reti,
   .dbnz, .dbrc, .ldrc, .rpt, .lock, .swi, .wait, .sync]

/-- The opcode of a 6-bit code. -/
def opOf (code : Nat) : Op := nthD opList code .user

/-- The causes of ILLEGAL with their ECAUSE values (R103). -/
inductive Cause | fetch | form | operand | unbound | rep | locked
  deriving DecidableEq, Repr

/-- The ECAUSE value of a cause (R103). -/
def causeCode : Cause → Nat
  | .fetch => 1 | .form => 2 | .operand => 3 | .unbound => 4 | .rep => 5 | .locked => 6

/-- An operand as encoded: mode, field and, for mode 5, the low 14 address bits (R54, R55). -/
structure Operand where
  mode  : Nat
  field : Nat
  far   : Nat
  deriving DecidableEq, Repr

/-- What an operand position allows: is it written (R56), and bit m of `modes` = mode m permitted (R64, R110). -/
structure OpdSpec where
  dest  : Bool
  modes : Nat
  deriving DecidableEq, Repr

/-- An opcode entry of a microcode set (R109). -/
structure UEntry where
  attr    : Nat
  nops    : Nat
  fmask   : Nat
  formuse : Nat
  opds    : List Nat
  base    : List Nat
  start   : Nat
  len     : Nat
  rsvd    : Bool
  allZero : Bool
  deriving DecidableEq, Repr

/-- The 32 bytes of an opcode entry (R109). -/
def UEntry.ofBytes (b : Bytes) : UEntry :=
  { attr := leAt b 0 1, nops := leAt b 1 1, fmask := leAt b 2 1, formuse := leAt b 3 1
    opds := [leAt b 4 2, leAt b 6 2, leAt b 8 2], base := [leAt b 10 1, leAt b 11 1, leAt b 12 1]
    start := leAt b 14 1, len := leAt b 15 1
    rsvd := leAt b 13 1 != 0 || (upto 16).any fun i => leAt b (16 + i) 1 != 0
    allZero := (upto 32).all fun i => leAt b i 1 == 0 }

/-- ATTR.V, RPT, BYTE, DUAL (R109). -/
def UEntry.valid (e : UEntry) : Bool := bitAt e.attr 0
def UEntry.rpt (e : UEntry) : Bool := bitAt e.attr 1
def UEntry.byteOk (e : UEntry) : Bool := bitAt e.attr 2
def UEntry.dual (e : UEntry) : Bool := bitAt e.attr 3

/-- MODES and ROLE of operand k (R110). -/
def UEntry.modes (e : UEntry) (k : Nat) : Nat := (nthD e.opds k 0) % 256
def UEntry.role (e : UEntry) (k : Nat) : Nat := field (nthD e.opds k 0) 8 2

/-- A micro-op word (R114). -/
structure UOp where
  uop : Nat
  d   : Nat
  a   : Nat
  b   : Nat
  bi  : Bool
  w   : Nat
  k   : Nat
  fl  : Bool
  fin : Bool
  rsvd : Nat
  imm : Nat
  deriving DecidableEq, Repr

/-- The fields of a micro-op (R114). -/
def UOp.ofNat (x : Nat) : UOp :=
  { uop := field x 0 6, d := field x 6 3, a := field x 9 3, b := field x 12 3, bi := bitAt x 15, w := field x 16 2
    k := field x 18 2, fl := bitAt x 20, fin := bitAt x 21, rsvd := field x 22 10, imm := field x 32 32 }

/-- A decoded instruction. -/
structure Inst where
  op   : Op
  code : Nat
  cond : Nat
  form : Nat
  opds : List Operand
  len  : Nat
  ent  : Option UEntry
  deriving DecidableEq, Repr

/-- A source position and a destination position of any mode (R56: no mode 4 in a destination). -/
def sAny : OpdSpec := ⟨false, 0xFF⟩
def dAny : OpdSpec := ⟨true, 0xEF⟩
/-- A position that takes mode 4 only. -/
def immOnly : OpdSpec := ⟨false, 0x10⟩
/-- A position that takes any mode but 4 and is not written. -/
def noImm : OpdSpec := ⟨false, 0xEF⟩

/-- The operand positions of an opcode under its form bits (R56, R64, R65, R74, R84, R88, R104). -/
def opdSpecs (op : Op) (form : Nat) : List OpdSpec :=
  match op with
  | .nop | .ret | .reti | .wait | .sync | .user => []
  | .mov | .add | .adc | .sub | .sbc | .and | .or | .xor | .mul | .mulu | .div | .divs
  | .shl | .shr | .sar | .rol | .ror => [dAny, sAny]
  | .xch => [dAny, dAny]
  | .cmp | .tst | .mpy | .mac | .msu => [sAny, sAny]
  | .bit => [if form % 4 = 0 then sAny else dAny, sAny]
  | .lea => [noImm]
  | .push | .lda | .adda | .suba | .sha | .rpt => [sAny]
  | .pop | .clr | .swpb | .neg | .inc | .dec | .not | .sext | .sta | .rnd | .abs => [dAny]
  | .mvc => [if bitAt form 2 then sAny else dAny]
  | .ldrc => [if bitAt form 0 then dAny else sAny]
  | .br | .dbrc | .lock | .swi => [immOnly]
  | .jmp | .call => [noImm]
  | .dbnz => [dAny, immOnly]

/-- How many operands an opcode has (R54, R64). -/
def opCount (op : Op) : Nat := (opdSpecs op 0).length

/-- The form bits to which R64 gives a meaning; bit 3 is byte form B. -/
def formMask : Op → Nat
  | .mov | .xch | .clr | .add | .adc | .sub | .sbc | .cmp | .neg | .inc | .dec | .and | .or | .xor | .not | .tst
  | .shl | .shr | .sar | .rol | .ror | .abs => 8
  | .bit => 11
  | .lea => 15
  | .lda | .adda | .suba => 5
  | .sta | .mvc => 7
  | .mpy | .mac | .msu | .rnd | .sha => 4
  | .ldrc => 1
  | _ => 0

/-- The base costs in Classes L, X and N (R64). -/
def baseCost : Op → List Nat
  | .nop | .mov | .lea | .clr | .cmp | .tst | .lda | .adda | .suba | .sha | .rpt | .lock => [1, 1, 1]
  | .xch => [3, 2, 1]
  | .push | .pop | .swpb | .add | .adc | .sub | .sbc | .neg | .inc | .dec | .and | .or | .xor | .not | .sext
  | .shl | .shr | .sar | .rol | .ror | .bit | .sta | .mpy | .mac | .msu | .rnd | .abs | .mvc | .dbrc | .ldrc
  | .wait | .sync => [2, 1, 1]
  | .mul | .mulu => [8, 3, 2]
  | .div | .divs => [20, 10, 6]
  | .br | .jmp => [2, 2, 1]
  | .call | .ret => [4, 2, 2]
  | .reti => [6, 3, 2]
  | .dbnz => [3, 2, 1]
  | .swi | .user => [0, 0, 0]

/-- The operand costs of a mode in Classes L, X and N (R63). -/
def operandCost (mode : Nat) : List Nat :=
  match mode with
  | 0 => [1, 1, 0] | 1 => [2, 1, 0] | 2 => [2, 1, 0] | 3 => [2, 1, 0] | 4 => [1, 0, 0]
  | 5 => [3, 2, 1] | 6 => [3, 2, 0] | _ => [2, 1, 0]

/-- Opcodes not permitted in a locked sequence (R90). -/
def notLockable : Op → Bool
  | .rpt | .lock | .swi | .wait | .sync | .reti => true
  | _ => false

/-- Opcodes before which RPT is refused (R86). -/
def notRepeatable : Op → Bool
  | .rpt | .lock | .br | .jmp | .call | .ret | .reti | .dbnz | .dbrc | .swi | .wait | .sync | .ldrc => true
  | _ => false

/-- Read `n` operands from program word `pc` on; `false` where a container fails FETCH (R53, R54). -/
def readOperands (f : Nat → Nat) : Nat → Nat → List Operand × Nat × Bool
  | 0, pc => ([], pc, true)
  | n + 1, pc =>
    let w := f (pc % 2 ^ 22)
    let m := field w 11 3
    if m = 5 then
      let w2 := f ((pc + 1) % 2 ^ 22)
      let (r, e, ok) := readOperands f n (pc + 2)
      (⟨5, w % 2048, w2 % 16384⟩ :: r, e, ok && decide (w < 16384) && decide (w2 < 16384))
    else
      let (r, e, ok) := readOperands f n (pc + 1)
      (⟨m, w % 2048, 0⟩ :: r, e, ok && decide (w < 16384))

/-- The entry bound to a user opcode code, if it is defined (R111). -/
def boundEntry (ucs : Nat → Option UEntry) (code : Nat) : Option UEntry :=
  match ucs (code % 8) with
  | some e => if e.valid then some e else none
  | none => none

/-- The words of the instruction at `pc`, without any check but the count of its words (R54, R85). A container that fails FETCH is read
as its bits stand, and a user opcode without an entry has no operand: that is the length that a count of 0 skips (DESIGN CHOICE, log
entry 94). -/
def parseAt (f : Nat → Nat) (ucs : Nat → Option UEntry) (pc : Nat) : Inst × Bool :=
  let w := f pc
  let code := field w 4 6
  let op := opOf code
  let ent := if op = .user then boundEntry ucs code else none
  let n := match ent with | some e => e.nops % 4 | none => opCount op
  let (os, e, ok) := readOperands f n (pc + 1)
  ({ op, code, cond := field w 10 4, form := w % 16, opds := os, len := e - pc, ent }, ok)

/-- The form check of R59, R71, R76 and R111; `true` when it passes. -/
def formOk (i : Inst) : Bool :=
  match i.op, i.ent with
  | .user, some e => (!bitAt i.form 3 || e.byteOk) && ((i.form % 8) &&& (7 - e.formuse % 8)) == 0
  | .user, none => true
  | .sta, _ => (i.form &&& 8) == 0 && i.form % 4 != 3
  | .mvc, _ => (i.form &&& 8) == 0 && i.form % 4 < 2
  | op, _ => (i.form &&& (15 - formMask op)) == 0

/-- The fields marked 0 in R55 are 0. -/
def fieldOk (o : Operand) : Bool :=
  match o.mode with
  | 5 => !bitAt o.field 10
  | 6 | 7 => o.field % 8 == 0
  | _ => true

/-- The signed 11-bit field of mode 4 (R55). -/
def immOf (o : Operand) : Int := toSigned 11 o.field

/-- The 24-bit address of mode 5 (R55). -/
def farAddr (o : Operand) : Nat := (o.field % 1024) * 16384 + o.far % 16384

/-- The extra field conditions of JMP, CALL, RPT, LOCK and SWI (R74, R84, R88, R104). -/
def rangeOk (op : Op) (o : Operand) : Bool :=
  match op with
  | .jmp | .call => o.mode != 5 || farAddr o < 2 ^ 22
  | .rpt => o.mode != 4 || decide (0 ≤ immOf o)
  | .lock => decide (1 ≤ immOf o ∧ immOf o ≤ 8)
  | .swi => decide (0 ≤ immOf o ∧ immOf o ≤ 15)
  | _ => true

/-- The operand check of one position: its mode, then its field (R56, R574). -/
def operandOk (op : Op) (sp : OpdSpec) (o : Operand) : Bool :=
  bitAt sp.modes o.mode && (!sp.dest || o.mode != 4) && fieldOk o && rangeOk op o

/-- The operand positions of a user opcode (R56, R110). -/
def userSpecs (e : UEntry) : List OpdSpec :=
  (upto (e.nops % 4)).map fun k => ⟨e.role k == 1 || e.role k == 2, e.modes k⟩

/-- The operand positions of a decoded instruction. -/
def specsOf (i : Inst) : List OpdSpec :=
  match i.op, i.ent with
  | .user, some e => userSpecs e
  | op, _ => opdSpecs op i.form

/-- The OPERAND check of R574: every operand in encoding order. -/
def operandsOk (i : Inst) : Bool := ((specsOf i).zip i.opds).all fun p => operandOk i.op p.1 p.2

/-- The REPEAT check of an RPT prefix against the first word that follows it (R86). -/
def repeatOk (f : Nat → Nat) (ucs : Nat → Option UEntry) (next : Nat) : Bool :=
  let w := f (next % 2 ^ 22)
  if 16384 ≤ w then true
  else
    let code := field w 4 6
    match opOf code with
    | .user => match boundEntry ucs code with | some e => e.rpt | none => false
    | op => !notRepeatable op

/-- The static checks of R574 in their order: the decoded instruction, or the cause of ILLEGAL. -/
def decodeAt (f : Nat → Nat) (ucs : Nat → Option UEntry) (lock : Nat) (pc : Nat) : Except Cause Inst :=
  if 16384 ≤ f pc then .error .fetch
  else
    let (i, ok) := parseAt f ucs pc
    if i.op = .user ∧ i.ent = none then .error .unbound
    else if !ok then .error .fetch
    else if !formOk i then .error .form
    else if !operandsOk i then .error .operand
    else if 0 < lock ∧ notLockable i.op then .error .locked
    else if i.op = .rpt ∧ !repeatOk f ucs (pc + i.len) then .error .rep
    else .ok i

end Sys2Proof.Machine
end

