-- ==== Sys2Proof/Machine/StallState.lean ====
section
/-! DEFINITION. The state of one stall: processor, beam sources, stamp queue, raster unit, voices, Hod subchannels,
audio lane, checkpoints and input log (R13, R40, R43, R52, R198, R271, R293, R325). -/
namespace Sys2Proof.Machine

/-- The beam classes (R14, R15). -/
inductive BeamClass | L | X | N
  deriving DecidableEq, Repr

/-- STB_POS.STATE (R170); EMPTY is the absence of a stall. -/
inductive Sched | runnable | running | blocked | held | faultWait | parked | halted
  deriving DecidableEq, Repr

/-- What holds a stall (R29, R31, R129, R162, R313); `write` is a write on a page whose checkpoint copy is pending (R377),
`store` a read that stores in the store buffer overlap in part (R127, R129), `agent` an agent access that comes before the end of
the next instruction and is not yet performed (R313, R575). -/
inductive Hold | none | catchUp | stamps | checkpoint | write | store | agent
  deriving DecidableEq, Repr

/-- Idle ticks in progress: those of WAIT or of SYNC (R77, R78). -/
inductive Idle | none | wait | sync
  deriving DecidableEq, Repr

/-- The processor context (R52) with the bookkeeping that the rules on repetition, locks and shadows need. -/
structure Cpu where
  pc      : BitVec 22
  a0      : Acc
  a1      : Acc
  flags   : Word
  ctl     : Word
  rc      : Word
  rep     : Nat   -- repeat latch, 10 bits
  lock    : Nat   -- lock count
  repFirst : Bool -- the prefix has executed and no repetition has (R84)
  shadowOff : Bool -- the next instruction or repetition reads all earlier writes (R82)
  dzDue   : Bool  -- a DIVZERO exception is due at this boundary (R68)
  idle    : Idle
  lockFrom : Nat  -- start tick of the first instruction of the last locked sequence (R89)
  lockEnd : Nat   -- tick after its last tick; 0 while it is in progress
  deriving DecidableEq, Repr

/-- Every register of R52 is 0 and execution begins at program address 0. -/
def Cpu.reset : Cpu :=
  { pc := 0, a0 := 0, a1 := 0, flags := 0, ctl := 0, rc := 0, rep := 0, lock := 0, repFirst := false
    shadowOff := true, dzDue := false, idle := .none, lockFrom := 0, lockEnd := 0 }

/-- A byte that an agent, or the raster unit, has written since the last instruction began: the write's tick and subchannel (9
the raster unit), the byte's key, and the value it held before (R312). -/
structure PastByte where
  tick : Nat
  ord  : Nat
  key  : Nat
  old  : Byte
  deriving DecidableEq, Repr

/-- The values that the bytes and accumulators written by the last instruction hold with its writes left out (R81, R576), and what
agents have written since it began, in order of tick and subchannel (R312). -/
structure Shadow where
  bytes : List (Nat × Byte)
  a0    : Option Acc
  a1    : Option Acc
  past  : List PastByte := []
  deriving DecidableEq, Repr

def Shadow.empty : Shadow := { bytes := [], a0 := none, a1 := none, past := [] }

/-- A stamp entry (R30): stamp, source, first address, bytes; for a block, where its bytes lie in the spill area in 4 KiB
units. -/
structure Stamp where
  tick : Nat
  src  : Nat
  addr : Nat
  data : Bytes
  off  : Nat := 0
  deriving DecidableEq, Repr

/-- An entry of a core's store buffer (R128): the core by its slot and number, the stall that tags it, at most 8 contiguous bytes
within one 64-byte block, their stamp, and the contents they overwrite. -/
structure StoreEntry where
  slot  : Nat
  core  : Nat
  stall : Nat
  addr  : Nat
  data  : Bytes
  stamp : Nat
  prior : Bytes
  deriving DecidableEq, Repr

/-- One timer (R101): the next expiry, the PRE and the period in progress, and expiries fixed but not yet performed. -/
structure Timer where
  next : Nat
  pre  : Nat
  due  : List Nat
  deriving DecidableEq, Repr

/-- The tick-derived sources (R20, R101, R194, R276): what has been performed and what is due. -/
structure Sources where
  vblFrame : Nat           -- the first frame whose VBL is not yet performed
  lmFrom   : Nat           -- line matches below this tick are settled
  lmDue    : List (Nat × Bool) -- settled matches not yet performed, with LMIE
  sndFrom  : Nat           -- SND ticks below this tick are settled
  sndDue   : List Nat
  tmr0     : Timer
  tmr1     : Timer
  cleared  : List Nat      -- per ISTAT line: 1 + last tick of the last write that cleared it
  lmCleared : Nat          -- the same for VID_LSRC.LM
  collDue  : List Nat      -- collision assertions (R33) whose tick TICK has not reached
  deriving DecidableEq, Repr

def Timer.reset : Timer := { next := 0, pre := 0, due := [] }

def Sources.reset (vblFrame from_ : Nat) : Sources :=
  { vblFrame, lmFrom := from_, lmDue := [], sndFrom := from_, sndDue := [], tmr0 := .reset, tmr1 := .reset
    cleared := List.replicate 8 0, lmCleared := 0, collDue := [] }

/-- A sprite latched for a line (R186): its number, left dot, the colour indices of its row and its attributes. -/
structure SpriteRow where
  num   : Nat
  x     : Int
  idx   : List Nat
  base  : Nat
  prio  : Nat
  coll  : Bool
  math  : Bool
  deriving DecidableEq, Repr

/-- What a 16 × 16 block has gathered for its hint map entry (R196). -/
structure BlockStat where
  wins   : List Nat          -- winning pixels per layer
  other  : Bool              -- a sprite, the backdrop or colour maths won a pixel
  scroll : List (Nat × Nat)  -- effective scroll of each layer at the first pixel
  deriving DecidableEq, Repr

/-- What a dot at or above TICK has added to VID_COLL or VID_STAT: the dot's first tick, the kinds of collision with the sprite, or
the first sprite dropped (R186, R191, R193). -/
structure RasMark where
  tick : Nat
  ss   : Bool
  sl   : Bool
  num  : Nat
  ovf  : Bool
  deriving DecidableEq, Repr

/-- The raster unit's state for a stall (R171, R198). -/
structure Raster where
  rpos   : Nat                         -- tick of the first dot not yet rendered
  eff    : List (Nat × Nat)            -- effective (HS, VS) per layer
  cur    : List SpriteRow              -- sprites latched for the line of RPOS
  nxt    : List SpriteRow              -- sprites latched for the next line
  ovfNxt : Option Nat                  -- the first sprite dropped on the next line
  lines  : List (Nat × BitVec 16)      -- line area, two frames; unlisted pixels 0
  blocks : List (Nat × BlockStat)      -- block statistics, two frames
  ovfHeld : Bool                       -- VID_STAT.OVFSPR holds a number since its last clear (R186)
  ahead  : List RasMark                -- what dots at or above TICK have accumulated (R193)
  firstFrame : Nat                     -- the frame whose previous frame is not in the line area (R196)
  made   : List (Nat × (Bool × Bytes)) -- slices drawn and not handed over: FIRST, hint entries (R196)
  handed : Nat                         -- slices handed over since frame 0
  underrun : Nat                       -- slices reported late: 1 + the last one
  hints : List (Nat × Bytes)           -- hint maps handed over, two frames (R197)
  deriving DecidableEq, Repr

def Raster.reset : Raster :=
  { rpos := 0, eff := List.replicate 8 (0, 0), cur := [], nxt := [], ovfNxt := none, lines := [], blocks := []
    ovfHeld := false, ahead := [], firstFrame := 0, made := [], handed := 0, underrun := 0, hints := [] }

/-- Envelope phases (R274). -/
inductive Phase | off | attack | decay | sustain | release
  deriving DecidableEq, Repr

/-- One voice (R271). -/
structure Voice where
  p     : Nat      -- position, 20.12
  e     : Nat      -- envelope level, 0–2047
  phase : Phase
  h1    : Int
  h2    : Int
  last  : Int      -- last decoded ADPCM index, -1 for none
  vl    : Int      -- left and right outputs of the last computed sample
  vr    : Int
  deriving DecidableEq, Repr

def Voice.reset : Voice := { p := 0, e := 0, phase := .off, h1 := 0, h2 := 0, last := -1, vl := 0, vr := 0 }

/-- A node of a routing graph (R280). -/
structure GNode where
  ty     : Nat
  rsvd   : Nat       -- bytes 1, 6 and 7
  ins    : List Nat
  param  : Bytes
  deriving DecidableEq, Repr

/-- A routing graph copy, with its bytes in the FW shed (R280, R296). -/
structure Graph where
  img   : Bytes
  nodes : List GNode
  nNodes : Nat
  out   : Nat
  route : Nat
  rsvd  : Bool
  deriving DecidableEq, Repr

/-- A new lane's copy: ROUTE = FIXED (R294). -/
def Graph.fixed : Graph := { img := [], nodes := [], nNodes := 0, out := 0, route := 0, rsvd := false }

/-- The state of a BIQUAD node per channel: x1, x2, y1, y2 (R281). -/
structure Biquad where
  l : List Int
  r : List Int
  deriving DecidableEq, Repr

/-- The audio lane of a stall: descriptor, graphs, swap state and the routed samples the bridge reads (R285 – R294). -/
structure Lane where
  codec    : Nat
  channels : Nat
  active   : Nat
  fallback : Bool
  streams  : Nat
  bitrate  : Nat
  gameGain : Nat
  opGain   : Nat
  swapState : Nat
  graphCost : Nat
  outAddr  : Nat
  outSize  : Nat
  wr       : Nat
  rd       : Nat
  pcm      : List Nat             -- offsets of its unread records formed with SPLIT_AUDIO = 1 (R467)
  opAddr   : Nat
  opSize   : Nat
  opWr     : Nat
  opRd     : Nat
  applied  : Nat
  g0       : Graph
  g1       : Graph
  st0      : List (Nat × Biquad)  -- BIQUAD state of copy 0 and copy 1
  st1      : List (Nat × Biquad)
  swapRamp : Bool
  rampJ    : Nat                  -- next ramp sample, 1–64; 0 when not ramping
  gpos     : Nat                  -- next beam sample to route
  x        : List (Nat × (Int × Int)) -- routed samples kept for the bridge
  frame    : Nat                  -- next stream frame q
  exts     : List Nat             -- STREAM extents of its output ring (R367)
  deriving DecidableEq, Repr

/-- Where a stall program stands between its steps (R303, R309). -/
inductive HPhase | idle | fetch | fetched | list | units | waiting | suspended
  deriving DecidableEq, Repr

/-- A unit of a brick (R311): 0 reads stall memory, 1 writes it, 2 discards; address, length, access tick, bytes to write. -/
structure HUnit where
  kind  : Nat
  addr  : Nat
  len   : Nat
  e     : Nat
  data  : Bytes
  deriving DecidableEq, Repr

/-- A stall subchannel: device, registers of the last post and the program in progress (R298, R306, R317, R325). -/
structure Sub where
  ty     : Nat
  state  : Nat
  code   : Nat
  cerr   : Nat
  resid  : Nat
  baddr  : Nat
  dev    : Nat
  seq    : Nat
  pos    : Nat            -- SAVE and MEDIA position, BLIT destination
  rx     : Bytes          -- LINK or HOSTIO receive buffer
  overruns : Nat
  overrun : Bool          -- OVERRUN latched for the next post
  peer   : Option (Nat × Nat × Nat)  -- yard, stall, subchannel of the LINK peer
  noPeer : Bool           -- no peer was set when the brick was fetched (R322)
  linkSeq : Nat           -- deliveries sent
  postAt : Nat            -- 1 + tick of the last post, and of the one before it (R322)
  prevAt : Nat
  later  : Option Nat     -- a TYPE assigned after the checkpoint that a replay began from, due when the program ends (R299, R325)
  cmds   : List (Nat × Nat) -- HOD_CMD writes not yet performed: op, last tick w
  phase  : HPhase
  b      : Nat            -- start tick of the brick
  addr   : Nat            -- address of the brick
  brick  : Nat            -- its 64 bits
  joinOp : Nat            -- OP of the brick this one joins, 0 if none
  idleN  : Nat            -- consecutive idle bricks (R319)
  units  : List HUnit
  moved  : Nat            -- bytes of the brick moved
  n      : Nat            -- bytes the brick moves in all
  buf    : Bytes          -- bytes read by WRITE, CONTROL and BLIT units
  compl  : Nat            -- completion tick
  endDev : Nat            -- DEV bits with which the brick ends its program, 0 if none
  endCode : Nat           -- the code it ends with when `ends`
  ends   : Bool
  deriving DecidableEq, Repr

def Sub.reset : Sub :=
  { ty := 0, state := 0, code := 0, cerr := 0, resid := 0, baddr := 0, dev := 0, seq := 0, pos := 0, rx := []
    overruns := 0, overrun := false, peer := none, noPeer := false, linkSeq := 0, postAt := 0, prevAt := 0, later := none, cmds := [], phase := .idle, b := 0, addr := 0
    brick := 0, joinOp := 0, idleN := 0, units := [], moved := 0, n := 0, buf := [], compl := 0, endDev := 0
    endCode := 0, ends := false }

/-- A post (R317): code, flags, device status, residual and brick address. -/
structure Post where
  code  : Nat
  flags : Nat
  dev   : Nat
  resid : Nat
  baddr : Nat
  deriving DecidableEq, Repr

/-- An effect of an agent fixed at tick `tick`, to be seen by instructions that start above it (R26, R312, R314): bytes
written, a subchannel's new STATE, or a post. `ord` is the subchannel, 8 for other agents. -/
structure Pend where
  tick  : Nat
  ord   : Nat
  src   : Nat
  addr  : Nat
  data  : Bytes
  state : Option Nat
  post  : Option Post
  entered : Bool := false -- its stamp entries are in the stamp queue
  deriving DecidableEq, Repr

/-- An entry of the input log (R43). -/
structure LogEntry where
  tick   : Nat
  kind   : Nat
  source : Nat
  seq    : Nat
  payload : Bytes
  deriving DecidableEq, Repr

/-- An input or delivery latched and not yet visible (R35, R322). -/
structure Latched where
  bound  : Nat     -- line-boundary tick at which it becomes visible
  link   : Bool    -- false: input of a player; true: delivery to a subchannel
  who    : Nat
  seq    : Nat
  data   : Bytes
  at_    : Nat     -- CAD_TIME of the latch (R389)
  deriving DecidableEq, Repr

/-- What a checkpoint holds of a stall (R40, R160, R198, R279, R325): the context area with the pacing state, the near page and
both views as the base image with the overlays up to this record gives them (R378), the unapplied stamps, RPOS and what the
units and the Hod engine have in progress. -/
structure CkptBody where
  cls    : BeamClass
  ucset  : Nat
  tainted : Bool
  lead   : Nat
  corecfg : Nat
  f0     : Option Nat
  freeRun : Bool
  cpu    : Cpu
  shadow : Shadow
  tick   : Nat
  mem    : Mem
  rview  : Mem
  stamps : List Stamp
  src    : Sources
  ras    : Raster
  voices : List Voice
  spos   : Nat
  subs   : List Sub
  pend   : List Pend
  save   : Bytes
  deriving DecidableEq, Repr

/-- A checkpoint record: the header of R42, where it lies in the CKPT shed, the near-page lines and 4 KiB pages written since
the record before (line or page-table entry, contents), and the state that it gives with those before it. -/
structure Ckpt where
  stall    : Nat
  cls      : BeamClass
  place    : Nat
  near     : List (Nat × Bytes)
  copies   : List (Nat × Bytes)
  conf     : Nat
  freeRun  : Bool
  repeating : Bool
  seq      : Nat
  boundary : Nat
  logpos   : Nat
  nearmap  : Nat
  pages    : Nat
  complete : Bool
  body     : CkptBody
  deriving DecidableEq, Repr

/-- One stall. `mem` is the processor view and `rview` the render view (R374); both are keyed by data address, video
RAM by 0x100_0000 + video address. -/
structure Stall where
  num     : Nat
  title   : Nat               -- handle
  cls     : BeamClass
  freeRun : Bool
  ucset   : Nat               -- 0x1F: none bound (R105)
  lead    : Nat
  leadNext : Nat
  corecfg : Nat
  corecfgNext : Nat
  f0      : Option Nat        -- anchor frame, none before the first start (R147)
  sched   : Sched
  hold    : Hold
  holdTick : Nat              -- start tick of the access that holds
  holdAt  : Nat               -- CAD_TIME at which the hold began
  reasons : List Nat          -- park reasons held (R156)
  parkedAt : Nat              -- CAD_TIME of the last park
  faultAt : Nat               -- CAD_TIME at which FAULT_WAIT began
  faults  : List (Nat × Nat)  -- unresolved faults: entry index (0x2000 + B >> 12 for the cartridge table), agent in the code of MEM_UE_LOG
  waits   : List (Nat × Nat)  -- title pages waited for: entry index, page of the image (R382)
  runAt   : Nat               -- CAD_TIME at which the execution slice began
  core    : Nat
  hot     : Nat               -- hot context slot of the core (R132)
  loaded  : Bool              -- its context is in that slot: it stays there when a slice ends (R132)
  lineArea : Nat              -- HBM addresses of its line area and hint maps, in the context area (R171, R197)
  hintArea : Nat
  exts    : List Nat          -- the STALL extents that hold its pages, on its home stack (R367, R368)
  ckExts  : List Nat          -- the CKPT extents that hold its base image and records, on the other stack (R367, R368)
  ooo     : Bool
  replayTo : Option Nat       -- fault-point tick of a replay in progress (R498)
  replayHalt : Bool           -- the stall was halted at the fault point (R524)
  quiet   : Bool              -- the replay is that of re-adoption: no RECOVERED notice (R505)
  replayLog : List LogEntry   -- input log entries still to be applied again (R43)
  cpu     : Cpu
  shadow  : Shadow
  tick    : Nat
  last    : Nat               -- start tick of the last instruction + 1; 0 before any (R35)
  mem     : Mem
  rview   : Mem
  stamps  : List Stamp
  src     : Sources
  latched : List Latched
  begun   : Nat               -- line boundaries below this tick count as begun (R35, R38, R39)
  resetAt : List Nat          -- boundary ticks of placed stall resets, rising (R38)
  ras     : Raster
  voices  : List Voice
  spos    : Nat               -- next beam sample to render (R279)
  mixL    : Int
  mixR    : Int
  lane    : Option Lane
  subs    : List Sub
  save    : Bytes             -- save memory (R306)
  pend    : List Pend         -- agent effects fixed at ticks that TICK has not passed
  log     : List LogEntry
  logBase : Nat               -- number of the first entry still held
  ckptSeq : Nat
  ckptBound : Nat             -- tick of the next 16-line boundary
  ckpts   : List Ckpt         -- oldest first
  ckptFull : Bool             -- the next capture is full (R378)
  fresh   : Bool              -- no full capture has completed: the creation state is the base image (R498)
  dirty   : List Nat          -- page-table entries with D = 1 since the last capture (R377)
  copying : List Nat          -- page-table entries with K = 1
  acc     : List Nat          -- page-table entries with A = 1
  pt      : List (Nat × Nat)  -- page-table entries, D, A and K apart, that differ from what firmware maps them to
  nearDirty : Nat             -- near-page lines written since the last capture
  tainted : Bool
  haltPend : Option Bool      -- a debugger halt is pending; true: with FORCE
  haltCause : Nat             -- DBG_SSTAT.CAUSE
  haltWhy : Nat               -- the cause that the pending halt records
  stepping : Bool             -- DBG_SCTL STEP in progress
  bpSkip  : Bool              -- EXEC breakpoints do not hit at this boundary again (R527)
  dbgHalt : Bool              -- a halt waits for the last park reason to clear (R524)
  imported : Bool             -- a replay stall of Conformance mode (R534)
  trunc   : Bool              -- R533
  sigCrc  : BitVec 32         -- CRC register over the beam samples of the frame being sounded (R535)
  sigSnd  : List (Nat × BitVec 32) -- frames wholly sounded and not yet recorded, with their ACRC
  sigNext : Nat               -- the next frame to be recorded
  sigPos  : Nat               -- the next beam sample to enter the CRC register
  l1      : Bool              -- an L1 debug grant is in force (R511)
  deriving DecidableEq, Repr

end Sys2Proof.Machine
end

