-- ==== Sys2Proof/Machine/Beam.lean ====
section
/-! DEFINITION. The beam classes, the beam position of a tick, and real time against CAD_TIME (R15 – R22). -/
namespace Sys2Proof.Machine

/-- Processor rate in ticks per second (R15). -/
def rate : BeamClass → Nat
  | .L => 6336000 | .X => 50688000 | .N => 202752000

/-- Ticks per dot (R15). -/
def tpd : BeamClass → Nat
  | .L => 1 | .X => 2 | .N => 8

/-- Dots per line and lines per frame (R15). -/
def dpl : BeamClass → Nat
  | .L => 400 | _ => 800
def lpf : BeamClass → Nat
  | .L => 264 | _ => 528

/-- Visible dots and lines (R15). -/
def visW : BeamClass → Nat
  | .L => 320 | _ => 640
def visH : BeamClass → Nat
  | .L => 240 | _ => 480

/-- Ticks per line, per frame and per beam sample (R16). -/
def tpl (c : BeamClass) : Nat := tpd c * dpl c
def tpf (c : BeamClass) : Nat := tpl c * lpf c
def tps : BeamClass → Nat
  | .L => 200 | .X => 800 | .N => 3200

/-- Weight in beam units (R15). -/
def weight : BeamClass → Nat
  | .L => 1 | .X => 4 | .N => 8

/-- Index of a class in the cost tables and in SCH_PLACE.CLASS. -/
def clsIdx : BeamClass → Nat
  | .L => 0 | .X => 1 | .N => 2

/-- The class of an encoded class field. -/
def clsOf : Nat → Option BeamClass
  | 0 => some .L | 1 => some .X | 2 => some .N | _ => none

/-- The factor of the Hod rate model (R309). -/
def hodF : BeamClass → Nat
  | .L => 1 | .X => 8 | .N => 32

/-- Default LEAD (R22). -/
def leadDefault : BeamClass → Nat
  | .L => 16 | _ => 8

/-- The beam position of a tick (R18). -/
def dotOf (c : BeamClass) (t : Nat) : Nat := (t / tpd c) % dpl c
def absline (c : BeamClass) (t : Nat) : Nat := (t / tpd c) / dpl c
def lineOf (c : BeamClass) (t : Nat) : Nat := absline c t % lpf c
def frameOf (c : BeamClass) (t : Nat) : Nat := absline c t / lpf c

/-- The line at a tick is a vertical blanking line (R60). -/
def inVbl (c : BeamClass) (t : Nat) : Bool := decide (visH c ≤ lineOf c t)

/-- VID_BEAM at a tick (R19, R200). -/
def vidBeam (c : BeamClass) (t : Nat) : Nat :=
  dotOf c t + b2n (decide (visW c ≤ dotOf c t)) * 2 ^ 10 + lineOf c t * 2 ^ 16 + b2n (inVbl c t) * 2 ^ 26

/-- The start of cadence frame F in CAD_TIME ns (chapter on stalls). -/
def cadFrame (f : Nat) : Nat := f * 50000000 / 3

/-- The cadence frame that contains a CAD_TIME: the largest F with T(F) at or below it. -/
def frameAt (time : Nat) : Nat := (3 * time + 2) / 50000000

/-- Real time of a tick against an anchor, in ns, rounding towards minus infinity; negative ticks serve too (R21). -/
def realTime (c : BeamClass) (f0 : Nat) (t : Int) : Int :=
  (cadFrame f0 : Int) + (t * 1000000000) / (rate c : Int)

/-- The real line at a CAD_TIME: the largest n whose beginning is at or before it (R21). The beginning of line n is
T(F0) + floor(n · tpl · 10⁹ / rate), so n is the floor of ((time − T(F0) + 1) · rate − 1) / (tpl · 10⁹). -/
def realLine (c : BeamClass) (f0 time : Nat) : Int :=
  (((time : Int) - (cadFrame f0 : Int) + 1) * (rate c : Int) - 1) / ((tpl c * 1000000000 : Nat) : Int)

/-- R22: an instruction or entry may start at tick t. -/
def r22 (c : BeamClass) (f0 : Option Nat) (lead time t : Nat) : Bool :=
  match f0 with
  | none => false
  | some f => decide ((absline c t : Int) ≤ realLine c f time + (lead : Int))

/-- Lag: real line minus absline(TICK) (R150). -/
def lagOf (c : BeamClass) (f0 time t : Nat) : Int := realLine c f0 time - (absline c t : Int)

/-- The first line-boundary tick at or above a tick. -/
def lineUp (c : BeamClass) (t : Nat) : Nat := ceilDiv t (tpl c) * tpl c

/-- The assertion tick of VBL in frame k (R20). -/
def vblTick (c : BeamClass) (k : Nat) : Nat := k * tpf c + visH c * tpl c

/-- The tick of the first dot of a 16-line checkpoint boundary at or above a tick (R39). -/
def ckptUp (c : BeamClass) (t : Nat) : Nat := ceilDiv t (16 * tpl c) * (16 * tpl c)

end Sys2Proof.Machine
end

