-- ==== Sys2Proof/Machine/Flags.lean ====
section
/-! DEFINITION. Every flag computation of the Pritum instruction set: FLAGS fields, conditions, integer, shift,
multiply, divide and accumulator arithmetic (R52, R60, R65 – R72). -/
namespace Sys2Proof.Machine

/-- A result with the flags it produces; `none` leaves the flag unchanged. -/
structure Alu where
  r : Nat
  n : Option Bool := none
  z : Option Bool := none
  v : Option Bool := none
  c : Option Bool := none
  deriving DecidableEq, Repr

/-- The bit positions of FLAGS (R52). -/
def flagC : Nat := 0
def flagV : Nat := 1
def flagZ : Nat := 2
def flagN : Nat := 3
def flagDZ : Nat := 4
def flagLKB : Nat := 5

/-- Replace flag bit `i` where a value is given. -/
def setFlag (f : Nat) (i : Nat) : Option Bool → Nat
  | none => f
  | some b => putField f i 1 (b2n b)

/-- FLAGS with the flags of a result. -/
def withAlu (f : Nat) (a : Alu) : Nat :=
  setFlag (setFlag (setFlag (setFlag f flagN a.n) flagZ a.z) flagV a.v) flagC a.c

/-- Condition `cond` on N, Z, V, C and on being in vertical blanking (R60). -/
def condHolds (cond : Nat) (f : Nat) (vb : Bool) : Bool :=
  let c := bitAt f flagC
  let v := bitAt f flagV
  let z := bitAt f flagZ
  let n := bitAt f flagN
  match cond with
  | 0 => true
  | 1 => z
  | 2 => !z
  | 3 => c
  | 4 => !c
  | 5 => n
  | 6 => !n
  | 7 => v
  | 8 => !v
  | 9 => !c && !z
  | 10 => c || z
  | 11 => n == v
  | 12 => n != v
  | 13 => !z && (n == v)
  | 14 => z || (n != v)
  | _ => vb

/-- N and Z of a result at width `w`. -/
def nOf (w r : Nat) : Option Bool := some (bitAt r (w - 1))
def zOf (w r : Nat) : Option Bool := some (r % 2 ^ w == 0)

/-- A result that sets N and Z and clears V, C unchanged (MOV, AND, OR, XOR, NOT, TST, SWPB, SEXT, POP). -/
def aluLogic (w r : Nat) : Alu :=
  let r := r % 2 ^ w
  { r, n := nOf w r, z := zOf w r, v := some false }

/-- `a + b + cin` with carry and signed overflow (R65). -/
def aluAdd (w a b cin : Nat) : Alu :=
  let s := a + b + cin
  let r := s % 2 ^ w
  let si := toSigned w a + toSigned w b + (cin : Int)
  { r, n := nOf w r, z := zOf w r, v := some (decide (toSigned w r ≠ si)), c := some (decide (2 ^ w ≤ s)) }

/-- `a - b - cin`; C is the borrow (R65). -/
def aluSub (w a b cin : Nat) : Alu :=
  let si := toSigned w a - toSigned w b - (cin : Int)
  let r := (a + 2 ^ (w + 1) - b - cin) % 2 ^ w
  { r, n := nOf w r, z := zOf w r, v := some (decide (toSigned w r ≠ si)), c := some (decide (a < b + cin)) }

/-- NEG (R65, R70). -/
def aluNeg (w a : Nat) : Alu := aluSub w 0 a 0

/-- INC and DEC: as ADD and SUB of 1, C unchanged (R65). -/
def aluInc (w a : Nat) : Alu := { aluAdd w a 1 0 with c := none }
def aluDec (w a : Nat) : Alu := { aluSub w a 1 0 with c := none }

/-- ABS: the most negative value is left unchanged with V = 1 (R65, R70). -/
def aluAbs (w a : Nat) : Alu :=
  let r := if bitAt a (w - 1) then (2 ^ w - a) % 2 ^ w else a
  { r, n := nOf w r, z := zOf w r, v := some (a == 2 ^ (w - 1)) }

/-- Sign fill of `w` bits. -/
def signFill (w a : Nat) : Nat := if bitAt a (w - 1) then 2 ^ w - 1 else 0

/-- SHL by c = s[4:0] (R69). -/
def aluShl (w a c : Nat) : Alu :=
  if c = 0 then aluLogic w a
  else if c < w then { aluLogic w (a * 2 ^ c) with c := some (bitAt a (w - c)) }
  else { aluLogic w 0 with c := some (if c = w then bitAt a 0 else false) }

/-- SHR by c (R69). -/
def aluShr (w a c : Nat) : Alu :=
  if c = 0 then aluLogic w a
  else if c < w then { aluLogic w (a / 2 ^ c) with c := some (bitAt a (c - 1)) }
  else { aluLogic w 0 with c := some (if c = w then bitAt a (w - 1) else false) }

/-- SAR by c (R69). -/
def aluSar (w a c : Nat) : Alu :=
  if c = 0 then aluLogic w a
  else if c < w then { aluLogic w (ofSigned w (toSigned w a / (2 ^ c : Nat))) with c := some (bitAt a (c - 1)) }
  else { aluLogic w (signFill w a) with c := some (bitAt a (w - 1)) }

/-- ROL by c (R69). -/
def aluRol (w a c : Nat) : Alu :=
  if c = 0 then aluLogic w a
  else
    let k := c % w
    let r := (a * 2 ^ k + a / 2 ^ (w - k)) % 2 ^ w
    { aluLogic w r with c := some (bitAt r 0) }

/-- ROR by c (R69). -/
def aluRor (w a c : Nat) : Alu :=
  if c = 0 then aluLogic w a
  else
    let k := c % w
    let r := (a / 2 ^ k + a * 2 ^ (w - k)) % 2 ^ w
    { aluLogic w r with c := some (bitAt r (w - 1)) }

/-- The 32-bit product of MUL (signed) or MULU, N and Z from 32 bits, V = C = 0 (R64, R67). -/
def aluMul (signed : Bool) (a b : Nat) : Alu :=
  let r := if signed then ofSigned 32 (toSigned 16 a * toSigned 16 b) else (a * b) % 2 ^ 32
  { r, n := nOf 32 r, z := zOf 32 r, v := some false, c := some false }

/-- Quotient, remainder, overflow and zero divisor of DIV and DIVS (R67, R68, R70). -/
def divide (signed : Bool) (a b : Nat) : Nat × Nat × Bool × Bool :=
  if b = 0 then
    ((if signed then (if bitAt a 15 then 0x8000 else 0x7FFF) else 0xFFFF), a, false, true)
  else if signed then
    let q := Int.tdiv (toSigned 16 a) (toSigned 16 b)
    let m := Int.tmod (toSigned 16 a) (toSigned 16 b)
    (ofSigned 16 q, ofSigned 16 m, decide (q = 32768), false)
  else (a / b, a % b, false, false)

/-- The flags of DIV and DIVS: N and Z from the quotient, C = 0 (R64, R68). -/
def divFlags (q : Nat) (v : Bool) : Alu :=
  { r := q, n := nOf 16 q, z := zOf 16 q, v := some v, c := some false }

/-- place(s) (R71). -/
def place (pos s : Nat) : Nat :=
  if pos = 0 then ofSigned 40 (toSigned 16 s * 65536) else ofSigned 40 (toSigned 16 s)

/-- prod(a, b) (R72). -/
def prod (frac : Bool) (a b : Nat) : Nat :=
  ofSigned 40 (toSigned 16 a * toSigned 16 b * (if frac then 2 else 1))

/-- A 40-bit accumulator result: N and Z from 40 bits, V as given, C unchanged (R71). -/
def accRes (i : Int) : Alu :=
  let r := ofSigned 40 i
  { r, n := nOf 40 r, z := zOf 40 r, v := some (decide (toSigned 40 r ≠ i)) }

/-- SHA: left by k in 0 … 31, arithmetically right by -k (R71). -/
def aluSha (a s : Nat) : Alu :=
  let k := toSigned 6 s
  if 0 ≤ k then
    let r := (a * 2 ^ k.toNat) % 2 ^ 40
    let back := toSigned 40 r / ((2 ^ k.toNat : Nat) : Int)
    { r, n := nOf 40 r, z := zOf 40 r, v := some (decide (back ≠ toSigned 40 a)) }
  else
    let r := ofSigned 40 (toSigned 40 a / ((2 ^ (-k).toNat : Nat) : Int))
    { r, n := nOf 40 r, z := zOf 40 r, v := some false }

/-- round16(A) with CTL.SAT (R72). -/
def round16 (sat : Bool) (a : Nat) : Alu :=
  let x := (a + 0x8000) % 2 ^ 40
  let top := field x 31 9
  let fits := top == 0 || top == 511
  let r := if fits || !sat then field x 16 16 else if bitAt x 39 then 0x8000 else 0x7FFF
  { r, n := nOf 16 r, z := zOf 16 r, v := some (!fits) }

end Sys2Proof.Machine
end

