-- ==== Sys2Proof/Machine/RegTable.lean ====
section
/-! DEFINITION. The registers of BAR0 and of stall data space as the register tables of the chapters give them: for each
its offset, its array strides, and its fields with access type and reset value; and one name per field of BAR0. -/
namespace Sys2Proof.Machine

/-- The access types of R7. -/
inductive AccTy | ro | rw | wo | w1c | w1s | rc
  deriving DecidableEq, Repr

/-- A field of a register: bits [lo + w - 1 : lo], access type, reset value. -/
structure FieldDef where
  lo  : Nat
  w   : Nat
  ty  : AccTy
  rst : Nat
  deriving DecidableEq, Repr

/-- A register or an array of registers: offset, up to two (stride, count) pairs, size in bytes, fields. -/
structure RegDef where
  off  : Nat
  s1   : Nat
  n1   : Nat
  s2   : Nat
  n2   : Nat
  size : Nat
  fields : List FieldDef
  deriving DecidableEq, Repr

/-- Offset of an address within a register of the definition, if it lies in one. -/
def RegDef.hit (d : RegDef) (a : Nat) : Option Nat :=
  if a < d.off then none
  else
    let r := a - d.off
    let i := if d.n1 = 1 then 0 else r / d.s1
    let r1 := r - i * d.s1
    let j := if d.n2 = 1 then 0 else r1 / d.s2
    let r2 := r1 - j * d.s2
    if i < d.n1 ∧ j < d.n2 ∧ r2 < d.size then some r2 else none

/-- A named field of a BAR0 register. -/
structure Fld where
  off : Nat
  lo  : Nat
  w   : Nat
  deriving DecidableEq, Repr

/-- The same field of element `i` of an array with the given stride. -/
def Fld.nth (f : Fld) (stride i : Nat) : Fld := { f with off := f.off + stride * i }

/-! Fields of the PCI Express function. -/

/-- The mask bit and the pending bit of MSI-X vector v, the function mask, MSI-X Enable and the power state (R417, R418, R439). -/
def msixMask (v : Nat) : Fld := ⟨0x400000C + 16 * v, 0, 1⟩
def msixPend (v : Nat) : Fld := ⟨0x4000800 + 4 * (v / 32), v % 32, 1⟩
def MSIX_FMASK : Fld := ⟨0x4010050, 30, 1⟩
def MSIX_EN : Fld := ⟨0x4010050, 31, 1⟩
def PCI_POWER : Fld := ⟨0x4010044, 0, 2⟩

/-! Fields of the STB block. -/

def UCS_CMD_SET : Fld := ⟨0x107F00, 0, 4⟩
def UCS_CMD_OP : Fld := ⟨0x107F00, 4, 2⟩
def UCS_STATE_LOADED : Fld := ⟨0x107F04, 0, 16⟩
def UCS_STATE_INUSE : Fld := ⟨0x107F04, 16, 16⟩
def UCS_ERR_SET : Fld := ⟨0x107F08, 0, 4⟩
def UCS_ERR_CODE : Fld := ⟨0x107F08, 4, 4⟩
def UCS_ERR_OPC : Fld := ⟨0x107F08, 8, 3⟩
def UCS_ERR_UOP : Fld := ⟨0x107F08, 11, 8⟩
def CORE_STAT_OOO : Fld := ⟨0x107F10, 0, 1⟩
def CORE_STAT_HOT : Fld := ⟨0x107F10, 4, 4⟩
def STB_STATE_STATE : Fld := ⟨0x100000, 0, 3⟩
def STB_STATE_LSTABLE : Fld := ⟨0x100000, 4, 4⟩
def STB_STATE_MAPPED : Fld := ⟨0x100000, 8, 1⟩
def STB_CTL_RUN : Fld := ⟨0x100004, 0, 1⟩
def STB_CTL_DRAIN : Fld := ⟨0x100004, 1, 1⟩
def STB_CTL_FENCE : Fld := ⟨0x100004, 2, 1⟩
def STB_QUANTUM_CYCLES : Fld := ⟨0x100008, 0, 20⟩
def STB_HOLD_EVICT_CYCLES : Fld := ⟨0x10000C, 0, 16⟩
def STB_PARK_TIMEOUT_MICROS : Fld := ⟨0x100010, 0, 16⟩
def STB_LOAD_UNITS : Fld := ⟨0x100014, 0, 8⟩
def STB_LOAD_STALLS : Fld := ⟨0x100014, 8, 8⟩
def STB_LOAD_RUNNABLE : Fld := ⟨0x100014, 16, 8⟩
def STB_LOAD_LAGGING : Fld := ⟨0x100014, 24, 8⟩
def STB_CORE_UNITS_CORE0 : Fld := ⟨0x100018, 0, 8⟩
def STB_CORE_UNITS_CORE1 : Fld := ⟨0x100018, 8, 8⟩
def STB_CORE_UNITS_CORE2 : Fld := ⟨0x100018, 16, 8⟩
def STB_CORE_UNITS_CORE3 : Fld := ⟨0x100018, 24, 8⟩
def STB_CKPT_STAT_CAPTURED : Fld := ⟨0x10001C, 0, 24⟩
def STB_CKPT_STAT_LATE : Fld := ⟨0x10001C, 24, 8⟩
def STB_POS_STALL : Fld := ⟨0x101000, 0, 12⟩
def STB_POS_VALID : Fld := ⟨0x101000, 12, 1⟩
def STB_POS_STATE : Fld := ⟨0x101000, 13, 3⟩
def STB_POS_REASON : Fld := ⟨0x101000, 16, 4⟩
def STB_POS_CORE : Fld := ⟨0x101000, 20, 2⟩
def STB_POS_LOCKSTEP : Fld := ⟨0x101000, 22, 1⟩
def STB_POS_LAG : Fld := ⟨0x101000, 23, 1⟩
def RAS_CTL_EN : Fld := ⟨0x100400, 0, 1⟩
def RAS_CTL_HINT : Fld := ⟨0x100400, 1, 1⟩
def RAS_UNDERRUN_COUNT : Fld := ⟨0x100404, 0, 16⟩
def RAS_UNDERRUN_STALL : Fld := ⟨0x100404, 16, 12⟩
def RAS_LINES_LINES : Fld := ⟨0x100408, 0, 32⟩

/-! Fields of the SCH block. -/

def SCH_LMAP_SLOT0 : Fld := ⟨0x210000, 0, 5⟩
def SCH_LMAP_VALID0 : Fld := ⟨0x210000, 7, 1⟩
def SCH_LMAP_SLOT1 : Fld := ⟨0x210000, 8, 5⟩
def SCH_LMAP_VALID1 : Fld := ⟨0x210000, 15, 1⟩
def SCH_LMAP_SLOT2 : Fld := ⟨0x210000, 16, 5⟩
def SCH_LMAP_VALID2 : Fld := ⟨0x210000, 23, 1⟩
def SCH_LMAP_SLOT3 : Fld := ⟨0x210000, 24, 5⟩
def SCH_LMAP_VALID3 : Fld := ⟨0x210000, 31, 1⟩
def SCH_UNITS_UNITS : Fld := ⟨0x210010, 0, 12⟩
def SCH_UNITS_STALLS : Fld := ⟨0x210010, 12, 12⟩
def SCH_PLACE_VALID : Fld := ⟨0x211000, 0, 1⟩
def SCH_PLACE_LSTABLE : Fld := ⟨0x211000, 1, 4⟩
def SCH_PLACE_POS : Fld := ⟨0x211000, 5, 8⟩
def SCH_PLACE_CLASS : Fld := ⟨0x211000, 13, 2⟩

/-! Fields of the CMP block. -/

def CMP_DESC_BASE_BASE : Fld := ⟨0x300000, 0, 31⟩
def CMP_COMMIT_STREAM : Fld := ⟨0x300004, 0, 14⟩
def CMP_COMMIT_GO : Fld := ⟨0x300004, 14, 1⟩
def CMP_COMMIT_BUSY : Fld := ⟨0x300004, 16, 1⟩
def CMP_COMMIT_ERR_STREAM : Fld := ⟨0x300008, 0, 14⟩
def CMP_COMMIT_ERR_INDEX : Fld := ⟨0x300008, 14, 3⟩
def CMP_COMMIT_ERR_RGN : Fld := ⟨0x300008, 17, 1⟩
def CMP_COMMIT_ERR_REASON : Fld := ⟨0x300008, 18, 4⟩
def CMP_COMMIT_ERR_VALID : Fld := ⟨0x300008, 31, 1⟩
def CMP_SIG_ERR_STREAM : Fld := ⟨0x30000C, 0, 14⟩
def CMP_SIG_ERR_REGION : Fld := ⟨0x30000C, 14, 3⟩
def CMP_SIG_ERR_COUNT : Fld := ⟨0x30000C, 24, 8⟩
def CMP_LATE_COUNT : Fld := ⟨0x300010, 0, 16⟩
def CMP_LATE_STREAM : Fld := ⟨0x300010, 16, 14⟩

/-! Fields of the MON block. -/

def MON_CTL_EN : Fld := ⟨0x40000, 0, 1⟩
def MON_CTL_MODE : Fld := ⟨0x40000, 1, 1⟩
def MON_CTL_HSPOL : Fld := ⟨0x40000, 2, 1⟩
def MON_CTL_VSPOL : Fld := ⟨0x40000, 3, 1⟩
def MON_SRC_STREAM : Fld := ⟨0x40004, 0, 14⟩
def MON_SRC_STALL : Fld := ⟨0x40004, 16, 12⟩
def MON_CLK_MUL_VALUE : Fld := ⟨0x40008, 0, 20⟩
def MON_CLK_DIV_VALUE : Fld := ⟨0x4000C, 0, 20⟩
def MON_HTIM0_HACTIVE : Fld := ⟨0x40010, 0, 13⟩
def MON_HTIM0_HTOTAL : Fld := ⟨0x40010, 16, 13⟩
def MON_HTIM1_HSSTART : Fld := ⟨0x40014, 0, 13⟩
def MON_HTIM1_HSWIDTH : Fld := ⟨0x40014, 16, 10⟩
def MON_VTIM0_VACTIVE : Fld := ⟨0x40018, 0, 12⟩
def MON_VTIM0_VTOTAL : Fld := ⟨0x40018, 16, 12⟩
def MON_VTIM1_VSSTART : Fld := ⟨0x4001C, 0, 12⟩
def MON_VTIM1_VSWIDTH : Fld := ⟨0x4001C, 16, 6⟩
def MON_COMMIT_GO : Fld := ⟨0x40020, 0, 1⟩
def MON_WMARK_LEVEL : Fld := ⟨0x40024, 0, 13⟩
def MON_STAT_UNDER : Fld := ⟨0x40028, 0, 16⟩
def MON_STAT_LOW : Fld := ⟨0x40028, 16, 1⟩
def MON_STAT_TERR : Fld := ⟨0x40028, 17, 1⟩
def MON_STAT_PINERR : Fld := ⟨0x40028, 18, 1⟩
def MON_STAT_ACTIVE : Fld := ⟨0x40028, 19, 1⟩
def MON_BORDER_COLOUR : Fld := ⟨0x4002C, 0, 24⟩
def MON_CRC_INT_CRC : Fld := ⟨0x40030, 0, 32⟩
def MON_CRC_PIN_CRC : Fld := ⟨0x40034, 0, 32⟩

/-! Fields of the ENC block. -/

def ENC_CTL_EN : Fld := ⟨0x400000, 0, 1⟩
def ENC_CTL_HINT : Fld := ⟨0x400000, 1, 1⟩
def ENC_DESC_BASE_BASE : Fld := ⟨0x400004, 0, 31⟩
def ENC_BUDGET_TOTAL_TOTAL : Fld := ⟨0x400008, 0, 32⟩
def ENC_BUDGET_USED_USED : Fld := ⟨0x40000C, 0, 32⟩
def ENC_LATE_COUNT : Fld := ⟨0x400010, 0, 16⟩
def ENC_LATE_STREAM : Fld := ⟨0x400010, 16, 14⟩
def ENC_DROP_COUNT : Fld := ⟨0x400014, 0, 16⟩
def ENC_DROP_STREAM : Fld := ⟨0x400014, 16, 14⟩
def ENC_CORE_STATE : Fld := ⟨0x400100, 0, 2⟩
def ENC_CORE_CAUSE : Fld := ⟨0x400100, 2, 2⟩
def ENC_CORE_ROWS : Fld := ⟨0x400100, 4, 28⟩

/-! Fields of the AUD block. -/

def AUD_CTL_EN : Fld := ⟨0x500000, 0, 1⟩
def AUD_DESC_BASE_BASE : Fld := ⟨0x500004, 0, 31⟩
def AUD_GRAPH_BASE_BASE : Fld := ⟨0x500008, 0, 31⟩
def AUD_SWAP_STALL : Fld := ⟨0x50000C, 0, 12⟩
def AUD_SWAP_RAMP : Fld := ⟨0x50000C, 12, 1⟩
def AUD_SWAP_GO : Fld := ⟨0x50000C, 13, 1⟩
def AUD_SWAP_BUSY : Fld := ⟨0x50000C, 16, 1⟩
def AUD_SWAP_ERR_STALL : Fld := ⟨0x500010, 0, 12⟩
def AUD_SWAP_ERR_REASON : Fld := ⟨0x500010, 12, 4⟩
def AUD_SWAP_ERR_VALID : Fld := ⟨0x500010, 31, 1⟩
def AUD_GAP_COUNT : Fld := ⟨0x500014, 0, 16⟩
def AUD_GAP_STALL : Fld := ⟨0x500014, 16, 12⟩
def AUD_DROP_COUNT : Fld := ⟨0x500018, 0, 16⟩
def AUD_DROP_STALL : Fld := ⟨0x500018, 16, 12⟩
def AUD_OPUNDER_COUNT : Fld := ⟨0x50001C, 0, 16⟩
def AUD_OPUNDER_STALL : Fld := ⟨0x50001C, 16, 12⟩
def AUD_RAMP_UNITS : Fld := ⟨0x500020, 0, 9⟩

/-! Fields of the HOD block. -/

def HOD_CTL_EN : Fld := ⟨0x600000, 0, 1⟩
def HOD_CACHE_RESIDENT : Fld := ⟨0x600004, 0, 12⟩
def HOD_CACHE_LOADS : Fld := ⟨0x600004, 16, 16⟩
def HOD_ENDS_LOOP : Fld := ⟨0x600008, 0, 16⟩
def HOD_ENDS_MALFORMED : Fld := ⟨0x600008, 16, 16⟩
def HOD_FAULT_SUB : Fld := ⟨0x60000C, 0, 15⟩
def HOD_FAULT_VALID : Fld := ⟨0x60000C, 15, 1⟩
def HOD_FAULT_COUNT : Fld := ⟨0x60000C, 16, 16⟩
def HOD_ASSIGN_STALL : Fld := ⟨0x600020, 0, 12⟩
def HOD_ASSIGN_SUB : Fld := ⟨0x600020, 12, 3⟩
def HOD_ASSIGN_TYPE : Fld := ⟨0x600020, 15, 4⟩
def HOD_ASSIGN_GO : Fld := ⟨0x600020, 31, 1⟩
def HOD_ASSIGN_ERR_REASON : Fld := ⟨0x600024, 0, 4⟩
def HOD_ASSIGN_ERR_VALID : Fld := ⟨0x600024, 31, 1⟩
def HOD_HGRANT_HOST : Fld := ⟨0x600030, 0, 1⟩
def HOD_HGRANT_SHEDS : Fld := ⟨0x600030, 1, 6⟩
def HOD_HPEND0_POSTED : Fld := ⟨0x600040, 0, 32⟩
def HOD_HPEND1_POSTED : Fld := ⟨0x600044, 0, 32⟩
def HOD_HPROG_ADDR : Fld := ⟨0x601000, 0, 40⟩
def HOD_HCSA_ADDR : Fld := ⟨0x601008, 0, 40⟩
def HOD_HCMD_OP : Fld := ⟨0x601010, 0, 3⟩
def HOD_HSTAT_STATE : Fld := ⟨0x601014, 0, 2⟩
def HOD_HSTAT_CODE : Fld := ⟨0x601014, 2, 8⟩
def HOD_HSTAT_CERR : Fld := ⟨0x601014, 10, 2⟩
def HOD_HRESID_RESID : Fld := ⟨0x601018, 0, 32⟩

/-! Fields of the MOV block. -/

def MOV_CTL_EN : Fld := ⟨0x700000, 0, 1⟩
def MOV_GRANT_HOST : Fld := ⟨0x700004, 0, 1⟩
def MOV_GRANT_SHEDS : Fld := ⟨0x700004, 1, 6⟩
def MOV_FAULT_CH : Fld := ⟨0x700008, 0, 3⟩
def MOV_FAULT_VALID : Fld := ⟨0x700008, 15, 1⟩
def MOV_FAULT_COUNT : Fld := ⟨0x700008, 16, 16⟩
def MOV_DONE_CH : Fld := ⟨0x70000C, 0, 8⟩
def MOV_CH_BASE_ADDR : Fld := ⟨0x700100, 6, 34⟩
def MOV_CH_SIZE_LOG2 : Fld := ⟨0x700108, 0, 4⟩
def MOV_CH_PI_INDEX : Fld := ⟨0x70010C, 0, 12⟩
def MOV_CH_CI_INDEX : Fld := ⟨0x700110, 0, 12⟩
def MOV_CH_CTL_RUN : Fld := ⟨0x700114, 0, 1⟩
def MOV_CH_CTL_HALT : Fld := ⟨0x700114, 1, 1⟩
def MOV_CH_STAT_STATE : Fld := ⟨0x700118, 0, 2⟩
def MOV_CH_STAT_LAST : Fld := ⟨0x700118, 2, 8⟩
def MOV_CH_STAT_CFGERR : Fld := ⟨0x700118, 10, 1⟩

/-! Fields of the MEM block. -/

def MEM_CTL_EN : Fld := ⟨0x800000, 0, 1⟩
def MEM_CTL_SCRUB : Fld := ⟨0x800000, 1, 1⟩
def MEM_CTL_XLAT : Fld := ⟨0x800000, 2, 1⟩
def MEM_STAT_TRAINED0 : Fld := ⟨0x800004, 0, 1⟩
def MEM_STAT_TRAINED1 : Fld := ⟨0x800004, 1, 1⟩
def MEM_STAT_SELFREF : Fld := ⟨0x800004, 2, 1⟩
def MEM_SCRUB_HOURS : Fld := ⟨0x800008, 0, 8⟩
def MEM_SCRUB_EXTENT : Fld := ⟨0x800008, 8, 15⟩
def MEM_SCRUB_STACK : Fld := ⟨0x800008, 23, 1⟩
def MEM_CE0_COUNT : Fld := ⟨0x800010, 0, 16⟩
def MEM_CE1_COUNT : Fld := ⟨0x800014, 0, 16⟩
def MEM_CE_RETIRE_LIMIT : Fld := ⟨0x800018, 0, 8⟩
def MEM_UE_LOG_ADDR : Fld := ⟨0x800020, 0, 40⟩
def MEM_UE_LOG_AGENT : Fld := ⟨0x800020, 40, 3⟩
def MEM_UE_LOG_VALID : Fld := ⟨0x800020, 63, 1⟩
def MEM_UE_COUNT_COUNT : Fld := ⟨0x800028, 0, 16⟩
def MEM_RETIRED_STACK0 : Fld := ⟨0x80002C, 0, 11⟩
def MEM_RETIRED_STACK1 : Fld := ⟨0x80002C, 16, 11⟩
def MEM_PTDIR_BASE_ADDR : Fld := ⟨0x800040, 16, 24⟩
def MEM_INVAL_STALL : Fld := ⟨0x800048, 0, 12⟩
def MEM_INVAL_INDEX : Fld := ⟨0x800048, 12, 13⟩
def MEM_INVAL_STALLALL : Fld := ⟨0x800048, 25, 1⟩
def MEM_INVAL_GLOBAL : Fld := ⟨0x800048, 26, 1⟩
def MEM_INVAL_GO : Fld := ⟨0x800048, 31, 1⟩
def MEM_XFAULT_VALID : Fld := ⟨0x800050, 0, 1⟩
def MEM_XFAULT_KIND : Fld := ⟨0x800050, 1, 3⟩
def MEM_XFAULT_AGENT : Fld := ⟨0x800050, 4, 3⟩
def MEM_XFAULT_WRITE : Fld := ⟨0x800050, 7, 1⟩
def MEM_XFAULT_STALL : Fld := ⟨0x800050, 8, 12⟩
def MEM_XFAULT_INDEX : Fld := ⟨0x800050, 20, 13⟩
def MEM_XFAULT_CNT_DEPTH : Fld := ⟨0x800058, 0, 7⟩
def MEM_XFAULT_CNT_FULL : Fld := ⟨0x800058, 16, 16⟩
def MEM_HOSTWIN_BASE : Fld := ⟨0x800060, 12, 52⟩
def MEM_EXT_SHED0 : Fld := ⟨0x810000, 0, 3⟩
def MEM_EXT_SHED1 : Fld := ⟨0x810000, 8, 3⟩
def MEM_EXT_SHED2 : Fld := ⟨0x810000, 16, 3⟩
def MEM_EXT_SHED3 : Fld := ⟨0x810000, 24, 3⟩
def MEM_SEAL_SEALED : Fld := ⟨0x820000, 0, 32⟩

/-! Fields of the YRD block. -/

def YRD_CTL_EN : Fld := ⟨0x900000, 0, 1⟩
def YRD_CTL_ATTACH : Fld := ⟨0x900000, 1, 1⟩
def YRD_CTL_MISS_HOST : Fld := ⟨0x900000, 2, 1⟩
def YRD_NUMBER_YARD : Fld := ⟨0x900004, 0, 20⟩
def YRD_NUMBER_CONFLICT : Fld := ⟨0x900004, 31, 1⟩
def YRD_UDPPORT_PORT : Fld := ⟨0x900008, 0, 16⟩
def YRD_LINKLAT_MICROS : Fld := ⟨0x90000C, 0, 14⟩
def YRD_FLOW_BASE_BASE : Fld := ⟨0x900010, 0, 31⟩
def YRD_SND_BASE_BASE : Fld := ⟨0x900014, 0, 31⟩
def YRD_ROUTE_BASE_BASE : Fld := ⟨0x900018, 0, 31⟩
def YRD_LOAD_INDEX : Fld := ⟨0x900020, 0, 14⟩
def YRD_LOAD_TABLE : Fld := ⟨0x900020, 14, 2⟩
def YRD_LOAD_GO : Fld := ⟨0x900020, 16, 1⟩
def YRD_IN_DROP_FORMAT : Fld := ⟨0x900030, 0, 8⟩
def YRD_IN_DROP_AUTH : Fld := ⟨0x900030, 8, 8⟩
def YRD_IN_DROP_STALE : Fld := ⟨0x900030, 16, 8⟩
def YRD_IN_DROP_QFULL : Fld := ⟨0x900030, 24, 8⟩
def YRD_RTCP_DROP_AUTH : Fld := ⟨0x900034, 0, 16⟩
def YRD_RTCP_DROP_FORMAT : Fld := ⟨0x900034, 16, 8⟩
def YRD_RTCP_DROP_IGNORED : Fld := ⟨0x900034, 24, 8⟩
def YRD_YARD_DROP_AUTH : Fld := ⟨0x900038, 0, 16⟩
def YRD_YARD_DROP_HOPS : Fld := ⟨0x900038, 16, 8⟩
def YRD_STALE_COUNT : Fld := ⟨0x90003C, 0, 16⟩
def YRD_LINK_LOST_COUNT : Fld := ⟨0x900040, 0, 16⟩
def YRD_LINK_LATE_COUNT : Fld := ⟨0x900044, 0, 16⟩
def CAD_TIME_LO_TIME : Fld := ⟨0x900080, 0, 32⟩
def CAD_TIME_HI_TIME : Fld := ⟨0x900084, 0, 32⟩
def PTP_CTL_EN : Fld := ⟨0x900088, 0, 1⟩
def PTP_CTL_BC : Fld := ⟨0x900088, 1, 1⟩
def PTP_CTL_IPV6 : Fld := ⟨0x900088, 2, 1⟩
def PTP_CTL_DOMAIN : Fld := ⟨0x900088, 3, 8⟩
def PTP_CTL_PORTMASK : Fld := ⟨0x900088, 11, 8⟩
def PTP_STAT_STATE : Fld := ⟨0x90008C, 0, 2⟩
def PTP_STAT_FAR : Fld := ⟨0x90008C, 2, 1⟩
def PTP_STAT_OFFSET : Fld := ⟨0x90008C, 8, 24⟩
def YRD_PORT_CTL_EN : Fld := ⟨0x900100, 0, 1⟩
def YRD_PORT_CTL_MEDIA : Fld := ⟨0x900100, 1, 1⟩
def YRD_PORT_STAT_STATE : Fld := ⟨0x900104, 0, 2⟩
def YRD_PORT_STAT_PEERS : Fld := ⟨0x900104, 8, 8⟩
def YRD_PORT_STAT_UNCORR : Fld := ⟨0x900104, 16, 16⟩
def YRD_PORT_DROP_LONG : Fld := ⟨0x900108, 0, 8⟩
def YRD_PORT_DROP_PAUSE : Fld := ⟨0x900108, 8, 8⟩
def YRD_PORT_DROP_MISS : Fld := ⟨0x900108, 16, 16⟩

/-! Fields of the MBX block. -/

def DEV_ID_ID : Fld := ⟨0x0, 0, 32⟩
def DEV_STEP_STEP : Fld := ⟨0x4, 0, 8⟩
def DEV_CONF_LEVEL : Fld := ⟨0x8, 0, 8⟩
def DEV_SERIAL_SERIAL : Fld := ⟨0x10, 0, 64⟩
def DEV_MODE_MODE : Fld := ⟨0x18, 0, 4⟩
def DEV_MODE_DETAIL : Fld := ⟨0x18, 8, 8⟩
def RST_CAUSE_CAUSES : Fld := ⟨0x1C, 0, 32⟩
def FSTOP_CAUSE_REASON : Fld := ⟨0x20, 0, 8⟩
def FSTOP_CAUSE_RING : Fld := ⟨0x20, 8, 4⟩
def FSTOP_CAUSE_INDEX : Fld := ⟨0x20, 12, 12⟩
def FSTOP_CAUSE_VALID : Fld := ⟨0x20, 31, 1⟩
def FSTOP_TIME_TIME : Fld := ⟨0x28, 0, 64⟩
def FSTOP_ENTRY_DWORD : Fld := ⟨0x40, 0, 32⟩
def PERST_SCOPE_SCOPE : Fld := ⟨0x80, 0, 1⟩
def HOST_ORPHAN_SECONDS : Fld := ⟨0x84, 0, 16⟩
def HOST_ORPHAN_ACTION : Fld := ⟨0x84, 16, 1⟩
def HOST_ORPHAN_RUNNING : Fld := ⟨0x84, 17, 1⟩
def HOST_DENIED_OFFSET : Fld := ⟨0x88, 0, 24⟩
def HOST_DENIED_COUNT : Fld := ⟨0x88, 24, 8⟩
def BAR2_WIN_BASE : Fld := ⟨0x90, 0, 16⟩
def BAR2_WIN_EN : Fld := ⟨0x90, 63, 1⟩
def MBX_H2M_DATA_DATA : Fld := ⟨0x100, 0, 32⟩
def MBX_H2M_DOORBELL_GO : Fld := ⟨0x140, 0, 1⟩
def MBX_M2H_DATA_DATA : Fld := ⟨0x180, 0, 32⟩
def MBX_M2H_DOORBELL_VALID : Fld := ⟨0x1C0, 0, 1⟩
def MBX_M2H_DOORBELL_SEQ : Fld := ⟨0x1C0, 8, 8⟩
def MBX_STATE_READY : Fld := ⟨0x1C4, 0, 1⟩
def MBX_STATE_ROM : Fld := ⟨0x1C4, 1, 1⟩
def MBX_STATE_H2M_BUSY : Fld := ⟨0x1C4, 2, 1⟩
def MBX_STATE_M2H_VALID : Fld := ⟨0x1C4, 3, 1⟩
def MBX_STATE_OVERRUN : Fld := ⟨0x1C4, 4, 1⟩
def MBX_STATE_MAJOR : Fld := ⟨0x1C4, 8, 4⟩
def MBX_STATE_MINOR : Fld := ⟨0x1C4, 12, 8⟩
def SPLIT_STATE_MODE : Fld := ⟨0xA0, 0, 7⟩
def SPLIT_STATE_DIS_ENCODE : Fld := ⟨0xA0, 8, 1⟩
def MP_STATE_ACTIVE : Fld := ⟨0x200, 0, 1⟩
def MP_STATE_MP0 : Fld := ⟨0x200, 2, 2⟩
def MP_STATE_MP1 : Fld := ⟨0x200, 4, 2⟩
def MP_STATE_MIRROR_AGE : Fld := ⟨0x200, 8, 8⟩
def MP_STATE_FAILOVERS : Fld := ⟨0x200, 16, 16⟩
def MPW_CTL0_EN : Fld := ⟨0x208, 0, 1⟩
def MPW_CTL0_LIMIT : Fld := ⟨0x208, 4, 20⟩
def MPW_CTL1_EN : Fld := ⟨0x20C, 0, 1⟩
def MPW_CTL1_LIMIT : Fld := ⟨0x20C, 4, 20⟩
def MPW_KICK0_KEY : Fld := ⟨0x210, 0, 8⟩
def MPW_KICK1_KEY : Fld := ⟨0x214, 0, 8⟩
def MPW_COUNT0_REMAIN : Fld := ⟨0x218, 0, 24⟩
def MPW_COUNT0_FROZEN : Fld := ⟨0x218, 24, 1⟩
def MPW_COUNT1_REMAIN : Fld := ⟨0x21C, 0, 24⟩
def MPW_COUNT1_FROZEN : Fld := ⟨0x21C, 24, 1⟩
def FLT_DEGRADE_STABLE_SPARE : Fld := ⟨0x220, 0, 1⟩
def FLT_DEGRADE_STABLE_LOST : Fld := ⟨0x220, 1, 1⟩
def FLT_DEGRADE_ENC_SPARE : Fld := ⟨0x220, 2, 1⟩
def FLT_DEGRADE_ENC_LOST : Fld := ⟨0x220, 3, 1⟩
def FLT_DEGRADE_MP_STANDBY : Fld := ⟨0x220, 4, 1⟩
def FLT_DEGRADE_PORT : Fld := ⟨0x220, 5, 1⟩
def FLT_DEGRADE_HBM : Fld := ⟨0x220, 6, 1⟩
def FLT_DEGRADE_PCHAN : Fld := ⟨0x220, 7, 1⟩
def FLT_LAST_KIND : Fld := ⟨0x224, 0, 4⟩
def FLT_LAST_UNIT : Fld := ⟨0x224, 4, 12⟩
def FLT_LAST_VALID : Fld := ⟨0x224, 31, 1⟩
def FLT_TIME_TIME : Fld := ⟨0x228, 0, 64⟩
def FLT_RECOVER_LAST_US : Fld := ⟨0x230, 0, 16⟩
def FLT_RECOVER_COUNT : Fld := ⟨0x230, 16, 16⟩

/-! Fields of the RNG block. -/

def RNG_SQ_TAIL_TAIL : Fld := ⟨0x1000, 0, 12⟩
def RNG_CQ_HEAD_HEAD : Fld := ⟨0x1004, 0, 12⟩
def RNG_STATE_CREATED : Fld := ⟨0x1008, 0, 1⟩
def RNG_STATE_SQHEAD : Fld := ⟨0x1008, 1, 12⟩
def RNG_STATE_SQPHASE : Fld := ⟨0x1008, 13, 1⟩
def RNG_STATE_CQTAIL : Fld := ⟨0x1008, 14, 12⟩
def RNG_STATE_CQPHASE : Fld := ⟨0x1008, 26, 1⟩
def RNG_STATE_OPEN : Fld := ⟨0x1008, 27, 1⟩
def RNG_GRANT_SHEDS : Fld := ⟨0x1100, 1, 6⟩
def RNG_DB_ERR_COUNT : Fld := ⟨0x1104, 0, 16⟩
def RNG_DB_ERR_RING : Fld := ⟨0x1104, 16, 4⟩

/-! Fields of the EVT block. -/

def EVT_CTL_EN : Fld := ⟨0x10000, 0, 1⟩
def EVT_FALLBACK_TARGET : Fld := ⟨0x10004, 0, 2⟩
def EVT_THRESH_LEVEL : Fld := ⟨0x10010, 0, 4⟩
def EVT_CLAIM_SOURCE : Fld := ⟨0x10020, 0, 9⟩
def EVT_CLAIM_PRIO : Fld := ⟨0x10020, 12, 4⟩
def EVT_CLAIM_VALID : Fld := ⟨0x10020, 31, 1⟩
def EVT_DONE_SOURCE : Fld := ⟨0x10030, 0, 9⟩
def EVT_STRAY_COUNT_COUNT : Fld := ⟨0x10040, 0, 16⟩
def EVT_STRAY_LAST_SOURCE : Fld := ⟨0x10044, 0, 9⟩
def EVT_STRAY_LAST_TARGET : Fld := ⟨0x10044, 9, 2⟩
def EVT_LEVEL_BITS : Fld := ⟨0x10100, 0, 32⟩
def EVT_LATCH_BITS : Fld := ⟨0x10140, 0, 32⟩
def EVT_SWSET_BITS : Fld := ⟨0x10180, 0, 32⟩
def EVT_PEND_BITS : Fld := ⟨0x101C0, 0, 32⟩
def EVT_INSV_BITS : Fld := ⟨0x10200, 0, 32⟩
def EVT_ROUTE_TARGET : Fld := ⟨0x11000, 0, 2⟩
def EVT_ROUTE_PRIO : Fld := ⟨0x11000, 4, 4⟩
def EVT_ROUTE_VECTOR : Fld := ⟨0x11000, 8, 6⟩

/-! Fields of the DBG block. -/

def DBG_ID_IDCODE : Fld := ⟨0xF00000, 0, 32⟩
def DBG_CTL_WDT_FREEZE : Fld := ⟨0xF00004, 0, 1⟩
def DBG_CTL_DCRST : Fld := ⟨0xF00004, 1, 1⟩
def DBG_STATUS_LEVEL : Fld := ⟨0xF00008, 0, 2⟩
def DBG_STATUS_LOCK_BROKEN : Fld := ⟨0xF00008, 2, 1⟩
def DBG_STATUS_ATTN : Fld := ⟨0xF00008, 3, 1⟩
def DBG_STATUS_FREEZE : Fld := ⟨0xF00008, 4, 1⟩
def DBG_STATUS_LOCKOUT : Fld := ⟨0xF00008, 5, 1⟩
def DBG_STATUS_FAILS : Fld := ⟨0xF00008, 6, 6⟩
def DBG_NONCE_DATA : Fld := ⟨0xF00020, 0, 32⟩
def DBG_RESP_DATA : Fld := ⟨0xF00040, 0, 32⟩
def DBG_UNLOCK_OP : Fld := ⟨0xF00060, 0, 2⟩
def DBG_UNLOCK_LEVEL : Fld := ⟨0xF00060, 2, 2⟩
def DAM_CTL_SPACE : Fld := ⟨0xF00100, 0, 1⟩
def DAM_CTL_SIZE : Fld := ⟨0xF00100, 1, 2⟩
def DAM_CTL_WRITE : Fld := ⟨0xF00100, 3, 1⟩
def DAM_CTL_SIDEFX : Fld := ⟨0xF00100, 4, 1⟩
def DAM_CTL_STALL : Fld := ⟨0xF00100, 16, 12⟩
def DAM_CTL_GO : Fld := ⟨0xF00100, 31, 1⟩
def DAM_ADDR_VALUE : Fld := ⟨0xF00108, 0, 64⟩
def DAM_DATA_VALUE : Fld := ⟨0xF00110, 0, 64⟩
def DAM_STAT_CODE : Fld := ⟨0xF00118, 0, 4⟩
def DBG_SCTL_STALL : Fld := ⟨0xF00200, 0, 12⟩
def DBG_SCTL_OP : Fld := ⟨0xF00200, 12, 3⟩
def DBG_SCTL_FORCE : Fld := ⟨0xF00200, 15, 1⟩
def DBG_SCTL_FLEN : Fld := ⟨0xF00200, 16, 3⟩
def DBG_SSTAT_HALTED : Fld := ⟨0xF00204, 0, 1⟩
def DBG_SSTAT_PENDING : Fld := ⟨0xF00204, 1, 1⟩
def DBG_SSTAT_TAINTED : Fld := ⟨0xF00204, 2, 1⟩
def DBG_SSTAT_FERR : Fld := ⟨0xF00204, 3, 1⟩
def DBG_SSTAT_CAUSE : Fld := ⟨0xF00204, 4, 4⟩
def DBG_FEED_WORDLO : Fld := ⟨0xF00210, 0, 16⟩
def DBG_FEED_WORDHI : Fld := ⟨0xF00210, 16, 16⟩
def DBG_BP_ADDR : Fld := ⟨0xF00300, 0, 24⟩
def DBG_BP_STALL : Fld := ⟨0xF00300, 24, 12⟩
def DBG_BP_KIND : Fld := ⟨0xF00300, 36, 3⟩
def DBG_BP_FORCE : Fld := ⟨0xF00300, 39, 1⟩
def DBG_FREEZE_FREEZE : Fld := ⟨0xF00400, 0, 1⟩
def DBG_MPCTL_HALT0 : Fld := ⟨0xF00404, 0, 1⟩
def DBG_MPCTL_HALT1 : Fld := ⟨0xF00404, 1, 1⟩
def OTP_CMD_OP : Fld := ⟨0xF00500, 0, 2⟩
def OTP_CMD_EPOCH : Fld := ⟨0xF00500, 2, 7⟩
def OTP_CMD_ERR : Fld := ⟨0xF00500, 31, 1⟩
def OTP_STATE_EPOCH : Fld := ⟨0xF00504, 0, 7⟩
def OTP_STATE_REVOKED : Fld := ⟨0xF00504, 7, 2⟩
def CNF_CTL_END : Fld := ⟨0xF00700, 0, 1⟩
def CNF_CTL_ERR : Fld := ⟨0xF00700, 1, 1⟩
def CNF_SIG_BASE_VALUE : Fld := ⟨0xF00708, 0, 40⟩
def CNF_SIG_SIZE_VALUE : Fld := ⟨0xF00710, 0, 32⟩
def CNF_SIG_WR_VALUE : Fld := ⟨0xF00714, 0, 32⟩
def CNF_SIG_RD_VALUE : Fld := ⟨0xF00718, 0, 32⟩

/-! Fields of the BRD block. -/

def BRD_GPIO_CFG_FUNC : Fld := ⟨0x20000, 0, 4⟩
def BRD_GPIO_CFG_OE : Fld := ⟨0x20000, 4, 1⟩
def BRD_GPIO_CFG_OD : Fld := ⟨0x20000, 5, 1⟩
def BRD_GPIO_CFG_DRIVE : Fld := ⟨0x20000, 6, 2⟩
def BRD_GPIO_CFG_PULL : Fld := ⟨0x20000, 8, 2⟩
def BRD_GPIO_CFG_IMODE : Fld := ⟨0x20000, 10, 3⟩
def BRD_GPIO_OUT_OUT : Fld := ⟨0x20080, 0, 32⟩
def BRD_GPIO_IN_IN : Fld := ⟨0x20084, 0, 32⟩
def BRD_GPIO_ISTAT_EDGE : Fld := ⟨0x20088, 0, 32⟩
def BRD_WAKE_EN : Fld := ⟨0x20090, 0, 8⟩
def BRD_WAKE_LEVEL : Fld := ⟨0x20090, 8, 8⟩
def BRD_TEMP_TEMP : Fld := ⟨0x200A0, 0, 16⟩
def BRD_TEMP_SENSOR : Fld := ⟨0x200A0, 16, 5⟩
def BRD_TEMP_HIGH_LIMIT : Fld := ⟨0x200A4, 0, 8⟩
def BRD_THERM_THROTTLING : Fld := ⟨0x200A8, 0, 1⟩
def BRD_THERM_PIN : Fld := ⟨0x200A8, 1, 1⟩
def BRD_THERM_MGMT : Fld := ⟨0x200A8, 2, 1⟩
def BRD_THERM_COUNT : Fld := ⟨0x200A8, 16, 16⟩
def BRD_POWER_WATTS : Fld := ⟨0x200B0, 0, 16⟩
def BRD_CHAIN_ADDR : Fld := ⟨0x200C0, 0, 7⟩
def BRD_CHAIN_ASSIGNED : Fld := ⟨0x200C0, 7, 1⟩
def BRD_CHAIN_IN : Fld := ⟨0x200C0, 8, 1⟩
def BRD_CHAIN_RELEASED : Fld := ⟨0x200C0, 9, 1⟩

/-- The registers of the STB block (R120, R169, R201). -/
def regsStb : List RegDef :=
  [⟨0x107F00, 0x10000, 17, 0x0, 1, 4, [⟨0, 4, .wo, 0x0⟩, ⟨4, 2, .wo, 0x0⟩]⟩,
   ⟨0x107F04, 0x10000, 17, 0x0, 1, 4, [⟨0, 16, .ro, 0x0⟩, ⟨16, 16, .ro, 0x0⟩]⟩,
   ⟨0x107F08, 0x10000, 17, 0x0, 1, 4, [⟨0, 4, .ro, 0x0⟩, ⟨4, 4, .ro, 0x0⟩, ⟨8, 3, .ro, 0x0⟩, ⟨11, 8, .ro, 0x0⟩]⟩,
   ⟨0x107F10, 0x10000, 17, 0x4, 4, 4, [⟨0, 1, .ro, 0x0⟩, ⟨4, 4, .ro, 0x0⟩]⟩,
   ⟨0x100000, 0x10000, 17, 0x0, 1, 4, [⟨0, 3, .rw, 0x0⟩, ⟨4, 4, .rw, 0x0⟩, ⟨8, 1, .rw, 0x0⟩]⟩,
   ⟨0x100004, 0x10000, 17, 0x0, 1, 4, [⟨0, 1, .rw, 0x0⟩, ⟨1, 1, .rw, 0x0⟩, ⟨2, 1, .w1s, 0x0⟩]⟩,
   ⟨0x100008, 0x10000, 17, 0x0, 1, 4, [⟨0, 20, .rw, 0x4E20⟩]⟩,
   ⟨0x10000C, 0x10000, 17, 0x0, 1, 4, [⟨0, 16, .rw, 0x7D0⟩]⟩,
   ⟨0x100010, 0x10000, 17, 0x0, 1, 4, [⟨0, 16, .rw, 0x1F4⟩]⟩,
   ⟨0x100014, 0x10000, 17, 0x0, 1, 4, [⟨0, 8, .ro, 0x0⟩, ⟨8, 8, .ro, 0x0⟩, ⟨16, 8, .ro, 0x0⟩, ⟨24, 8, .ro, 0x0⟩]⟩,
   ⟨0x100018, 0x10000, 17, 0x0, 1, 4, [⟨0, 8, .ro, 0x0⟩, ⟨8, 8, .ro, 0x0⟩, ⟨16, 8, .ro, 0x0⟩, ⟨24, 8, .ro, 0x0⟩]⟩,
   ⟨0x10001C, 0x10000, 17, 0x0, 1, 4, [⟨0, 24, .ro, 0x0⟩, ⟨24, 8, .rc, 0x0⟩]⟩,
   ⟨0x101000, 0x10000, 17, 0x4, 192, 4, [⟨0, 12, .ro, 0x0⟩, ⟨12, 1, .ro, 0x0⟩, ⟨13, 3, .ro, 0x0⟩, ⟨16, 4, .ro, 0x0⟩, ⟨20, 2, .ro, 0x0⟩, ⟨22, 1, .ro, 0x0⟩, ⟨23, 1, .ro, 0x0⟩]⟩,
   ⟨0x100400, 0x10000, 17, 0x0, 1, 4, [⟨0, 1, .rw, 0x0⟩, ⟨1, 1, .rw, 0x0⟩]⟩,
   ⟨0x100404, 0x10000, 17, 0x0, 1, 4, [⟨0, 16, .rc, 0x0⟩, ⟨16, 12, .ro, 0x0⟩]⟩,
   ⟨0x100408, 0x10000, 17, 0x0, 1, 4, [⟨0, 32, .ro, 0x0⟩]⟩]

/-- The registers of the SCH block (R169). -/
def regsSch : List RegDef :=
  [⟨0x210000, 0x4, 4, 0x0, 1, 4, [⟨0, 5, .rw, 0x0⟩, ⟨7, 1, .rw, 0x0⟩, ⟨8, 5, .rw, 0x0⟩, ⟨15, 1, .rw, 0x0⟩, ⟨16, 5, .rw, 0x0⟩, ⟨23, 1, .rw, 0x0⟩, ⟨24, 5, .rw, 0x0⟩, ⟨31, 1, .rw, 0x0⟩]⟩,
   ⟨0x210010, 0x0, 1, 0x0, 1, 4, [⟨0, 12, .rw, 0x0⟩, ⟨12, 12, .rw, 0x0⟩]⟩,
   ⟨0x211000, 0x4, 3072, 0x0, 1, 4, [⟨0, 1, .rw, 0x0⟩, ⟨1, 4, .rw, 0x0⟩, ⟨5, 8, .rw, 0x0⟩, ⟨13, 2, .rw, 0x0⟩]⟩]

/-- The registers of the CMP block (R233). -/
def regsCmp : List RegDef :=
  [⟨0x300000, 0x0, 1, 0x0, 1, 4, [⟨0, 31, .rw, 0x0⟩]⟩,
   ⟨0x300004, 0x0, 1, 0x0, 1, 4, [⟨0, 14, .wo, 0x0⟩, ⟨14, 1, .wo, 0x0⟩, ⟨16, 1, .ro, 0x0⟩]⟩,
   ⟨0x300008, 0x0, 1, 0x0, 1, 4, [⟨0, 14, .ro, 0x0⟩, ⟨14, 3, .ro, 0x0⟩, ⟨17, 1, .ro, 0x0⟩, ⟨18, 4, .ro, 0x0⟩, ⟨31, 1, .w1c, 0x0⟩]⟩,
   ⟨0x30000C, 0x0, 1, 0x0, 1, 4, [⟨0, 14, .ro, 0x0⟩, ⟨14, 3, .ro, 0x0⟩, ⟨24, 8, .rc, 0x0⟩]⟩,
   ⟨0x300010, 0x0, 1, 0x0, 1, 4, [⟨0, 16, .rc, 0x0⟩, ⟨16, 14, .ro, 0x0⟩]⟩]

/-- The registers of the MON block (R233). -/
def regsMon : List RegDef :=
  [⟨0x40000, 0x0, 1, 0x0, 1, 4, [⟨0, 1, .rw, 0x0⟩, ⟨1, 1, .rw, 0x0⟩, ⟨2, 1, .rw, 0x0⟩, ⟨3, 1, .rw, 0x0⟩]⟩,
   ⟨0x40004, 0x0, 1, 0x0, 1, 4, [⟨0, 14, .rw, 0x0⟩, ⟨16, 12, .rw, 0x0⟩]⟩,
   ⟨0x40008, 0x0, 1, 0x0, 1, 4, [⟨0, 20, .rw, 0x1⟩]⟩,
   ⟨0x4000C, 0x0, 1, 0x0, 1, 4, [⟨0, 20, .rw, 0x1⟩]⟩,
   ⟨0x40010, 0x0, 1, 0x0, 1, 4, [⟨0, 13, .rw, 0x0⟩, ⟨16, 13, .rw, 0x0⟩]⟩,
   ⟨0x40014, 0x0, 1, 0x0, 1, 4, [⟨0, 13, .rw, 0x0⟩, ⟨16, 10, .rw, 0x0⟩]⟩,
   ⟨0x40018, 0x0, 1, 0x0, 1, 4, [⟨0, 12, .rw, 0x0⟩, ⟨16, 12, .rw, 0x0⟩]⟩,
   ⟨0x4001C, 0x0, 1, 0x0, 1, 4, [⟨0, 12, .rw, 0x0⟩, ⟨16, 6, .rw, 0x0⟩]⟩,
   ⟨0x40020, 0x0, 1, 0x0, 1, 4, [⟨0, 1, .w1s, 0x0⟩]⟩,
   ⟨0x40024, 0x0, 1, 0x0, 1, 4, [⟨0, 13, .rw, 0x400⟩]⟩,
   ⟨0x40028, 0x0, 1, 0x0, 1, 4, [⟨0, 16, .rc, 0x0⟩, ⟨16, 1, .w1c, 0x0⟩, ⟨17, 1, .w1c, 0x0⟩, ⟨18, 1, .w1c, 0x0⟩, ⟨19, 1, .ro, 0x0⟩]⟩,
   ⟨0x4002C, 0x0, 1, 0x0, 1, 4, [⟨0, 24, .rw, 0x0⟩]⟩,
   ⟨0x40030, 0x0, 1, 0x0, 1, 4, [⟨0, 32, .ro, 0x0⟩]⟩,
   ⟨0x40034, 0x0, 1, 0x0, 1, 4, [⟨0, 32, .ro, 0x0⟩]⟩]

/-- The registers of the ENC block (R266). -/
def regsEnc : List RegDef :=
  [⟨0x400000, 0x0, 1, 0x0, 1, 4, [⟨0, 1, .rw, 0x0⟩, ⟨1, 1, .rw, 0x0⟩]⟩,
   ⟨0x400004, 0x0, 1, 0x0, 1, 4, [⟨0, 31, .rw, 0x0⟩]⟩,
   ⟨0x400008, 0x0, 1, 0x0, 1, 4, [⟨0, 32, .ro, 0x0⟩]⟩,
   ⟨0x40000C, 0x0, 1, 0x0, 1, 4, [⟨0, 32, .rw, 0x0⟩]⟩,
   ⟨0x400010, 0x0, 1, 0x0, 1, 4, [⟨0, 16, .rc, 0x0⟩, ⟨16, 14, .ro, 0x0⟩]⟩,
   ⟨0x400014, 0x0, 1, 0x0, 1, 4, [⟨0, 16, .rc, 0x0⟩, ⟨16, 14, .ro, 0x0⟩]⟩,
   ⟨0x400100, 0x4, 25, 0x0, 1, 4, [⟨0, 2, .rw, 0x0⟩, ⟨2, 2, .ro, 0x0⟩, ⟨4, 28, .ro, 0x0⟩]⟩]

/-- The registers of the AUD block (R296). -/
def regsAud : List RegDef :=
  [⟨0x500000, 0x0, 1, 0x0, 1, 4, [⟨0, 1, .rw, 0x0⟩]⟩,
   ⟨0x500004, 0x0, 1, 0x0, 1, 4, [⟨0, 31, .rw, 0x0⟩]⟩,
   ⟨0x500008, 0x0, 1, 0x0, 1, 4, [⟨0, 31, .rw, 0x0⟩]⟩,
   ⟨0x50000C, 0x0, 1, 0x0, 1, 4, [⟨0, 12, .wo, 0x0⟩, ⟨12, 1, .wo, 0x0⟩, ⟨13, 1, .wo, 0x0⟩, ⟨16, 1, .ro, 0x0⟩]⟩,
   ⟨0x500010, 0x0, 1, 0x0, 1, 4, [⟨0, 12, .ro, 0x0⟩, ⟨12, 4, .ro, 0x0⟩, ⟨31, 1, .w1c, 0x0⟩]⟩,
   ⟨0x500014, 0x0, 1, 0x0, 1, 4, [⟨0, 16, .rc, 0x0⟩, ⟨16, 12, .ro, 0x0⟩]⟩,
   ⟨0x500018, 0x0, 1, 0x0, 1, 4, [⟨0, 16, .rc, 0x0⟩, ⟨16, 12, .ro, 0x0⟩]⟩,
   ⟨0x50001C, 0x0, 1, 0x0, 1, 4, [⟨0, 16, .rc, 0x0⟩, ⟨16, 12, .ro, 0x0⟩]⟩,
   ⟨0x500020, 0x0, 1, 0x0, 1, 4, [⟨0, 9, .ro, 0x0⟩]⟩]

/-- The registers of the HOD block (R334). -/
def regsHod : List RegDef :=
  [⟨0x600000, 0x0, 1, 0x0, 1, 4, [⟨0, 1, .rw, 0x0⟩]⟩,
   ⟨0x600004, 0x0, 1, 0x0, 1, 4, [⟨0, 12, .ro, 0x0⟩, ⟨16, 16, .rc, 0x0⟩]⟩,
   ⟨0x600008, 0x0, 1, 0x0, 1, 4, [⟨0, 16, .rc, 0x0⟩, ⟨16, 16, .rc, 0x0⟩]⟩,
   ⟨0x60000C, 0x0, 1, 0x0, 1, 4, [⟨0, 15, .ro, 0x0⟩, ⟨15, 1, .w1c, 0x0⟩, ⟨16, 16, .rc, 0x0⟩]⟩,
   ⟨0x600020, 0x0, 1, 0x0, 1, 4, [⟨0, 12, .wo, 0x0⟩, ⟨12, 3, .wo, 0x0⟩, ⟨15, 4, .wo, 0x0⟩, ⟨31, 1, .wo, 0x0⟩]⟩,
   ⟨0x600024, 0x0, 1, 0x0, 1, 4, [⟨0, 4, .ro, 0x0⟩, ⟨31, 1, .w1c, 0x0⟩]⟩,
   ⟨0x600030, 0x0, 1, 0x0, 1, 4, [⟨0, 1, .rw, 0x0⟩, ⟨1, 6, .rw, 0x0⟩]⟩,
   ⟨0x600040, 0x0, 1, 0x0, 1, 4, [⟨0, 32, .w1c, 0x0⟩]⟩,
   ⟨0x600044, 0x0, 1, 0x0, 1, 4, [⟨0, 32, .w1c, 0x0⟩]⟩,
   ⟨0x601000, 0x20, 64, 0x0, 1, 8, [⟨0, 40, .rw, 0x0⟩]⟩,
   ⟨0x601008, 0x20, 64, 0x0, 1, 8, [⟨0, 40, .rw, 0x0⟩]⟩,
   ⟨0x601010, 0x20, 64, 0x0, 1, 4, [⟨0, 3, .wo, 0x0⟩]⟩,
   ⟨0x601014, 0x20, 64, 0x0, 1, 4, [⟨0, 2, .ro, 0x0⟩, ⟨2, 8, .ro, 0x0⟩, ⟨10, 2, .ro, 0x0⟩]⟩,
   ⟨0x601018, 0x20, 64, 0x0, 1, 4, [⟨0, 32, .ro, 0x0⟩]⟩]

/-- The registers of the MOV block (R357). -/
def regsMov : List RegDef :=
  [⟨0x700000, 0x0, 1, 0x0, 1, 4, [⟨0, 1, .rw, 0x0⟩]⟩,
   ⟨0x700004, 0x0, 1, 0x0, 1, 4, [⟨0, 1, .rw, 0x0⟩, ⟨1, 6, .rw, 0x0⟩]⟩,
   ⟨0x700008, 0x0, 1, 0x0, 1, 4, [⟨0, 3, .ro, 0x0⟩, ⟨15, 1, .w1c, 0x0⟩, ⟨16, 16, .rc, 0x0⟩]⟩,
   ⟨0x70000C, 0x0, 1, 0x0, 1, 4, [⟨0, 8, .w1c, 0x0⟩]⟩,
   ⟨0x700100, 0x40, 8, 0x0, 1, 8, [⟨6, 34, .rw, 0x0⟩]⟩,
   ⟨0x700108, 0x40, 8, 0x0, 1, 4, [⟨0, 4, .rw, 0x0⟩]⟩,
   ⟨0x70010C, 0x40, 8, 0x0, 1, 4, [⟨0, 12, .rw, 0x0⟩]⟩,
   ⟨0x700110, 0x40, 8, 0x0, 1, 4, [⟨0, 12, .ro, 0x0⟩]⟩,
   ⟨0x700114, 0x40, 8, 0x0, 1, 4, [⟨0, 1, .rw, 0x0⟩, ⟨1, 1, .w1s, 0x0⟩]⟩,
   ⟨0x700118, 0x40, 8, 0x0, 1, 4, [⟨0, 2, .ro, 0x0⟩, ⟨2, 8, .ro, 0x0⟩, ⟨10, 1, .ro, 0x0⟩]⟩]

/-- The registers of the MEM block (R383). -/
def regsMem : List RegDef :=
  [⟨0x800000, 0x0, 1, 0x0, 1, 4, [⟨0, 1, .rw, 0x0⟩, ⟨1, 1, .rw, 0x0⟩, ⟨2, 1, .rw, 0x0⟩]⟩,
   ⟨0x800004, 0x0, 1, 0x0, 1, 4, [⟨0, 1, .ro, 0x0⟩, ⟨1, 1, .ro, 0x0⟩, ⟨2, 1, .ro, 0x0⟩]⟩,
   ⟨0x800008, 0x0, 1, 0x0, 1, 4, [⟨0, 8, .rw, 0x18⟩, ⟨8, 15, .ro, 0x0⟩, ⟨23, 1, .ro, 0x0⟩]⟩,
   ⟨0x800010, 0x0, 1, 0x0, 1, 4, [⟨0, 16, .rc, 0x0⟩]⟩,
   ⟨0x800014, 0x0, 1, 0x0, 1, 4, [⟨0, 16, .rc, 0x0⟩]⟩,
   ⟨0x800018, 0x0, 1, 0x0, 1, 4, [⟨0, 8, .rw, 0x4⟩]⟩,
   ⟨0x800020, 0x0, 1, 0x0, 1, 8, [⟨0, 40, .ro, 0x0⟩, ⟨40, 3, .ro, 0x0⟩, ⟨63, 1, .w1c, 0x0⟩]⟩,
   ⟨0x800028, 0x0, 1, 0x0, 1, 4, [⟨0, 16, .rc, 0x0⟩]⟩,
   ⟨0x80002C, 0x0, 1, 0x0, 1, 4, [⟨0, 11, .rw, 0x0⟩, ⟨16, 11, .rw, 0x0⟩]⟩,
   ⟨0x800040, 0x0, 1, 0x0, 1, 8, [⟨16, 24, .rw, 0x0⟩]⟩,
   ⟨0x800048, 0x0, 1, 0x0, 1, 4, [⟨0, 12, .rw, 0x0⟩, ⟨12, 13, .rw, 0x0⟩, ⟨25, 1, .rw, 0x0⟩, ⟨26, 1, .rw, 0x0⟩, ⟨31, 1, .w1s, 0x0⟩]⟩,
   ⟨0x800050, 0x0, 1, 0x0, 1, 8, [⟨0, 1, .rc, 0x0⟩, ⟨1, 3, .rc, 0x0⟩, ⟨4, 3, .rc, 0x0⟩, ⟨7, 1, .rc, 0x0⟩, ⟨8, 12, .rc, 0x0⟩, ⟨20, 13, .rc, 0x0⟩]⟩,
   ⟨0x800058, 0x0, 1, 0x0, 1, 4, [⟨0, 7, .ro, 0x0⟩, ⟨16, 16, .rc, 0x0⟩]⟩,
   ⟨0x800060, 0x0, 1, 0x0, 1, 8, [⟨12, 52, .rw, 0x0⟩]⟩,
   ⟨0x810000, 0x4, 6144, 0x0, 1, 4, [⟨0, 3, .rw, 0x0⟩, ⟨8, 3, .rw, 0x0⟩, ⟨16, 3, .rw, 0x0⟩, ⟨24, 3, .rw, 0x0⟩]⟩,
   ⟨0x820000, 0x4, 768, 0x0, 1, 4, [⟨0, 32, .rw, 0x0⟩]⟩]

/-- The registers of the YRD block (R416). -/
def regsYrd : List RegDef :=
  [⟨0x900000, 0x0, 1, 0x0, 1, 4, [⟨0, 1, .rw, 0x0⟩, ⟨1, 1, .rw, 0x0⟩, ⟨2, 1, .rw, 0x0⟩]⟩,
   ⟨0x900004, 0x0, 1, 0x0, 1, 4, [⟨0, 20, .rw, 0x0⟩, ⟨31, 1, .w1c, 0x0⟩]⟩,
   ⟨0x900008, 0x0, 1, 0x0, 1, 4, [⟨0, 16, .rw, 0xB8C4⟩]⟩,
   ⟨0x90000C, 0x0, 1, 0x0, 1, 4, [⟨0, 14, .rw, 0xFA⟩]⟩,
   ⟨0x900010, 0x0, 1, 0x0, 1, 4, [⟨0, 31, .rw, 0x0⟩]⟩,
   ⟨0x900014, 0x0, 1, 0x0, 1, 4, [⟨0, 31, .rw, 0x0⟩]⟩,
   ⟨0x900018, 0x0, 1, 0x0, 1, 4, [⟨0, 31, .rw, 0x0⟩]⟩,
   ⟨0x900020, 0x0, 1, 0x0, 1, 4, [⟨0, 14, .rw, 0x0⟩, ⟨14, 2, .rw, 0x0⟩, ⟨16, 1, .w1s, 0x0⟩]⟩,
   ⟨0x900030, 0x0, 1, 0x0, 1, 4, [⟨0, 8, .rc, 0x0⟩, ⟨8, 8, .rc, 0x0⟩, ⟨16, 8, .rc, 0x0⟩, ⟨24, 8, .rc, 0x0⟩]⟩,
   ⟨0x900034, 0x0, 1, 0x0, 1, 4, [⟨0, 16, .rc, 0x0⟩, ⟨16, 8, .rc, 0x0⟩, ⟨24, 8, .rc, 0x0⟩]⟩,
   ⟨0x900038, 0x0, 1, 0x0, 1, 4, [⟨0, 16, .rc, 0x0⟩, ⟨16, 8, .rc, 0x0⟩]⟩,
   ⟨0x90003C, 0x0, 1, 0x0, 1, 4, [⟨0, 16, .rc, 0x0⟩]⟩,
   ⟨0x900040, 0x0, 1, 0x0, 1, 4, [⟨0, 16, .rc, 0x0⟩]⟩,
   ⟨0x900044, 0x0, 1, 0x0, 1, 4, [⟨0, 16, .rc, 0x0⟩]⟩,
   ⟨0x900080, 0x0, 1, 0x0, 1, 4, [⟨0, 32, .ro, 0x0⟩]⟩,
   ⟨0x900084, 0x0, 1, 0x0, 1, 4, [⟨0, 32, .ro, 0x0⟩]⟩,
   ⟨0x900088, 0x0, 1, 0x0, 1, 4, [⟨0, 1, .rw, 0x0⟩, ⟨1, 1, .rw, 0x0⟩, ⟨2, 1, .rw, 0x0⟩, ⟨3, 8, .rw, 0x0⟩, ⟨11, 8, .rw, 0x0⟩]⟩,
   ⟨0x90008C, 0x0, 1, 0x0, 1, 4, [⟨0, 2, .ro, 0x0⟩, ⟨2, 1, .w1c, 0x0⟩, ⟨8, 24, .ro, 0x0⟩]⟩,
   ⟨0x900100, 0x20, 8, 0x0, 1, 4, [⟨0, 1, .rw, 0x0⟩, ⟨1, 1, .rw, 0x0⟩]⟩,
   ⟨0x900104, 0x20, 8, 0x0, 1, 4, [⟨0, 2, .ro, 0x0⟩, ⟨8, 8, .ro, 0x0⟩, ⟨16, 16, .rc, 0x0⟩]⟩,
   ⟨0x900108, 0x20, 8, 0x0, 1, 4, [⟨0, 8, .rc, 0x0⟩, ⟨8, 8, .rc, 0x0⟩, ⟨16, 16, .rc, 0x0⟩]⟩]

/-- The registers of the MBX block (R444, R467, R507). -/
def regsMbx : List RegDef :=
  [⟨0x0, 0x0, 1, 0x0, 1, 4, [⟨0, 32, .ro, 0x5CE73072⟩]⟩,
   ⟨0x4, 0x0, 1, 0x0, 1, 4, [⟨0, 8, .ro, 0xA1⟩]⟩,
   ⟨0x8, 0x0, 1, 0x0, 1, 4, [⟨0, 8, .ro, 0x1⟩]⟩,
   ⟨0x10, 0x0, 1, 0x0, 1, 8, [⟨0, 64, .ro, 0x0⟩]⟩,
   ⟨0x18, 0x0, 1, 0x0, 1, 4, [⟨0, 4, .ro, 0x2⟩, ⟨8, 8, .ro, 0x0⟩]⟩,
   ⟨0x1C, 0x0, 1, 0x0, 1, 4, [⟨0, 32, .ro, 0x1⟩]⟩,
   ⟨0x20, 0x0, 1, 0x0, 1, 4, [⟨0, 8, .ro, 0x0⟩, ⟨8, 4, .ro, 0x0⟩, ⟨12, 12, .ro, 0x0⟩, ⟨31, 1, .w1c, 0x0⟩]⟩,
   ⟨0x28, 0x0, 1, 0x0, 1, 8, [⟨0, 64, .ro, 0x0⟩]⟩,
   ⟨0x40, 0x4, 16, 0x0, 1, 4, [⟨0, 32, .ro, 0x0⟩]⟩,
   ⟨0x80, 0x0, 1, 0x0, 1, 4, [⟨0, 1, .rw, 0x0⟩]⟩,
   ⟨0x84, 0x0, 1, 0x0, 1, 4, [⟨0, 16, .rw, 0x1E⟩, ⟨16, 1, .rw, 0x1⟩, ⟨17, 1, .ro, 0x0⟩]⟩,
   ⟨0x88, 0x0, 1, 0x0, 1, 4, [⟨0, 24, .ro, 0x0⟩, ⟨24, 8, .rc, 0x0⟩]⟩,
   ⟨0x90, 0x0, 1, 0x0, 1, 8, [⟨0, 16, .rw, 0x0⟩, ⟨63, 1, .rw, 0x0⟩]⟩,
   ⟨0x100, 0x4, 16, 0x0, 1, 4, [⟨0, 32, .rw, 0x0⟩]⟩,
   ⟨0x140, 0x0, 1, 0x0, 1, 4, [⟨0, 1, .wo, 0x0⟩]⟩,
   ⟨0x180, 0x4, 16, 0x0, 1, 4, [⟨0, 32, .ro, 0x0⟩]⟩,
   ⟨0x1C0, 0x0, 1, 0x0, 1, 4, [⟨0, 1, .ro, 0x0⟩, ⟨8, 8, .ro, 0x0⟩]⟩,
   ⟨0x1C4, 0x0, 1, 0x0, 1, 4, [⟨0, 1, .ro, 0x0⟩, ⟨1, 1, .ro, 0x1⟩, ⟨2, 1, .ro, 0x0⟩, ⟨3, 1, .ro, 0x0⟩, ⟨4, 1, .w1c, 0x0⟩, ⟨8, 4, .ro, 0x3⟩, ⟨12, 8, .ro, 0x0⟩]⟩,
   ⟨0xA0, 0x0, 1, 0x0, 1, 4, [⟨0, 7, .ro, 0x0⟩, ⟨8, 1, .ro, 0x0⟩]⟩,
   ⟨0x200, 0x0, 1, 0x0, 1, 4, [⟨0, 1, .ro, 0x0⟩, ⟨2, 2, .ro, 0x1⟩, ⟨4, 2, .ro, 0x2⟩, ⟨8, 8, .ro, 0x0⟩, ⟨16, 16, .rc, 0x0⟩]⟩,
   ⟨0x208, 0x0, 1, 0x0, 1, 4, [⟨0, 1, .rw, 0x0⟩, ⟨4, 20, .rw, 0xFA⟩]⟩,
   ⟨0x20C, 0x0, 1, 0x0, 1, 4, [⟨0, 1, .rw, 0x0⟩, ⟨4, 20, .rw, 0xFA⟩]⟩,
   ⟨0x210, 0x0, 1, 0x0, 1, 4, [⟨0, 8, .wo, 0x0⟩]⟩,
   ⟨0x214, 0x0, 1, 0x0, 1, 4, [⟨0, 8, .wo, 0x0⟩]⟩,
   ⟨0x218, 0x0, 1, 0x0, 1, 4, [⟨0, 24, .ro, 0x0⟩, ⟨24, 1, .ro, 0x0⟩]⟩,
   ⟨0x21C, 0x0, 1, 0x0, 1, 4, [⟨0, 24, .ro, 0x0⟩, ⟨24, 1, .ro, 0x0⟩]⟩,
   ⟨0x220, 0x0, 1, 0x0, 1, 4, [⟨0, 1, .ro, 0x0⟩, ⟨1, 1, .ro, 0x0⟩, ⟨2, 1, .ro, 0x0⟩, ⟨3, 1, .ro, 0x0⟩, ⟨4, 1, .ro, 0x0⟩, ⟨5, 1, .ro, 0x0⟩, ⟨6, 1, .ro, 0x0⟩, ⟨7, 1, .ro, 0x0⟩]⟩,
   ⟨0x224, 0x0, 1, 0x0, 1, 4, [⟨0, 4, .ro, 0x0⟩, ⟨4, 12, .ro, 0x0⟩, ⟨31, 1, .w1c, 0x0⟩]⟩,
   ⟨0x228, 0x0, 1, 0x0, 1, 8, [⟨0, 64, .ro, 0x0⟩]⟩,
   ⟨0x230, 0x0, 1, 0x0, 1, 4, [⟨0, 16, .ro, 0x0⟩, ⟨16, 16, .rc, 0x0⟩]⟩]

/-- The registers of the RNG block (R445). -/
def regsRng : List RegDef :=
  [⟨0x1000, 0x10, 9, 0x0, 1, 4, [⟨0, 12, .rw, 0x0⟩]⟩,
   ⟨0x1004, 0x10, 9, 0x0, 1, 4, [⟨0, 12, .rw, 0x0⟩]⟩,
   ⟨0x1008, 0x10, 9, 0x0, 1, 4, [⟨0, 1, .ro, 0x0⟩, ⟨1, 12, .ro, 0x0⟩, ⟨13, 1, .ro, 0x1⟩, ⟨14, 12, .ro, 0x0⟩, ⟨26, 1, .ro, 0x1⟩, ⟨27, 1, .ro, 0x0⟩]⟩,
   ⟨0x1100, 0x0, 1, 0x0, 1, 4, [⟨1, 6, .rw, 0x0⟩]⟩,
   ⟨0x1104, 0x0, 1, 0x0, 1, 4, [⟨0, 16, .rc, 0x0⟩, ⟨16, 4, .ro, 0x0⟩]⟩]

/-- The registers of the EVT block (R478). -/
def regsEvt : List RegDef :=
  [⟨0x10000, 0x0, 1, 0x0, 1, 4, [⟨0, 1, .rw, 0x0⟩]⟩,
   ⟨0x10004, 0x0, 1, 0x0, 1, 4, [⟨0, 2, .rw, 0x1⟩]⟩,
   ⟨0x10010, 0x4, 4, 0x0, 1, 4, [⟨0, 4, .rw, 0x0⟩]⟩,
   ⟨0x10020, 0x4, 4, 0x0, 1, 4, [⟨0, 9, .ro, 0x0⟩, ⟨12, 4, .ro, 0x0⟩, ⟨31, 1, .ro, 0x0⟩]⟩,
   ⟨0x10030, 0x4, 4, 0x0, 1, 4, [⟨0, 9, .wo, 0x0⟩]⟩,
   ⟨0x10040, 0x0, 1, 0x0, 1, 4, [⟨0, 16, .w1c, 0x0⟩]⟩,
   ⟨0x10044, 0x0, 1, 0x0, 1, 4, [⟨0, 9, .ro, 0x0⟩, ⟨9, 2, .ro, 0x0⟩]⟩,
   ⟨0x10100, 0x4, 16, 0x0, 1, 4, [⟨0, 32, .ro, 0x0⟩]⟩,
   ⟨0x10140, 0x4, 16, 0x0, 1, 4, [⟨0, 32, .w1c, 0x0⟩]⟩,
   ⟨0x10180, 0x4, 16, 0x0, 1, 4, [⟨0, 32, .w1s, 0x0⟩]⟩,
   ⟨0x101C0, 0x4, 16, 0x0, 1, 4, [⟨0, 32, .ro, 0x0⟩]⟩,
   ⟨0x10200, 0x4, 16, 0x0, 1, 4, [⟨0, 32, .ro, 0x0⟩]⟩,
   ⟨0x11000, 0x4, 512, 0x0, 1, 4, [⟨0, 2, .rw, 0x0⟩, ⟨4, 4, .rw, 0x0⟩, ⟨8, 6, .rw, 0x0⟩]⟩]

/-- The registers of the DBG block (R537). -/
def regsDbg : List RegDef :=
  [⟨0xF00000, 0x0, 1, 0x0, 1, 4, [⟨0, 32, .ro, 0x130729AF⟩]⟩,
   ⟨0xF00004, 0x0, 1, 0x0, 1, 4, [⟨0, 1, .rw, 0x1⟩, ⟨1, 1, .w1s, 0x0⟩]⟩,
   ⟨0xF00008, 0x0, 1, 0x0, 1, 4, [⟨0, 2, .ro, 0x0⟩, ⟨2, 1, .w1c, 0x0⟩, ⟨3, 1, .ro, 0x0⟩, ⟨4, 1, .ro, 0x0⟩, ⟨5, 1, .ro, 0x0⟩, ⟨6, 6, .ro, 0x0⟩]⟩,
   ⟨0xF00020, 0x4, 8, 0x0, 1, 4, [⟨0, 32, .ro, 0x0⟩]⟩,
   ⟨0xF00040, 0x4, 8, 0x0, 1, 4, [⟨0, 32, .wo, 0x0⟩]⟩,
   ⟨0xF00060, 0x0, 1, 0x0, 1, 4, [⟨0, 2, .wo, 0x0⟩, ⟨2, 2, .wo, 0x0⟩]⟩,
   ⟨0xF00100, 0x0, 1, 0x0, 1, 4, [⟨0, 1, .rw, 0x0⟩, ⟨1, 2, .rw, 0x0⟩, ⟨3, 1, .rw, 0x0⟩, ⟨4, 1, .rw, 0x0⟩, ⟨16, 12, .rw, 0x0⟩, ⟨31, 1, .w1s, 0x0⟩]⟩,
   ⟨0xF00108, 0x0, 1, 0x0, 1, 8, [⟨0, 64, .rw, 0x0⟩]⟩,
   ⟨0xF00110, 0x0, 1, 0x0, 1, 8, [⟨0, 64, .rw, 0x0⟩]⟩,
   ⟨0xF00118, 0x0, 1, 0x0, 1, 4, [⟨0, 4, .ro, 0x0⟩]⟩,
   ⟨0xF00200, 0x0, 1, 0x0, 1, 4, [⟨0, 12, .rw, 0x0⟩, ⟨12, 3, .wo, 0x0⟩, ⟨15, 1, .wo, 0x0⟩, ⟨16, 3, .rw, 0x0⟩]⟩,
   ⟨0xF00204, 0x0, 1, 0x0, 1, 4, [⟨0, 1, .ro, 0x0⟩, ⟨1, 1, .ro, 0x0⟩, ⟨2, 1, .ro, 0x0⟩, ⟨3, 1, .w1c, 0x0⟩, ⟨4, 4, .ro, 0x0⟩]⟩,
   ⟨0xF00210, 0x4, 3, 0x0, 1, 4, [⟨0, 16, .rw, 0x0⟩, ⟨16, 16, .rw, 0x0⟩]⟩,
   ⟨0xF00300, 0x8, 8, 0x0, 1, 8, [⟨0, 24, .rw, 0x0⟩, ⟨24, 12, .rw, 0x0⟩, ⟨36, 3, .rw, 0x0⟩, ⟨39, 1, .rw, 0x0⟩]⟩,
   ⟨0xF00400, 0x0, 1, 0x0, 1, 4, [⟨0, 1, .rw, 0x0⟩]⟩,
   ⟨0xF00404, 0x0, 1, 0x0, 1, 4, [⟨0, 1, .rw, 0x0⟩, ⟨1, 1, .rw, 0x0⟩]⟩,
   ⟨0xF00500, 0x0, 1, 0x0, 1, 4, [⟨0, 2, .wo, 0x0⟩, ⟨2, 7, .wo, 0x0⟩, ⟨31, 1, .w1c, 0x0⟩]⟩,
   ⟨0xF00504, 0x0, 1, 0x0, 1, 4, [⟨0, 7, .ro, 0x0⟩, ⟨7, 2, .ro, 0x0⟩]⟩,
   ⟨0xF00700, 0x0, 1, 0x0, 1, 4, [⟨0, 1, .w1s, 0x0⟩, ⟨1, 1, .w1c, 0x0⟩]⟩,
   ⟨0xF00708, 0x0, 1, 0x0, 1, 8, [⟨0, 40, .rw, 0x0⟩]⟩,
   ⟨0xF00710, 0x0, 1, 0x0, 1, 4, [⟨0, 32, .rw, 0x0⟩]⟩,
   ⟨0xF00714, 0x0, 1, 0x0, 1, 4, [⟨0, 32, .ro, 0x0⟩]⟩,
   ⟨0xF00718, 0x0, 1, 0x0, 1, 4, [⟨0, 32, .rw, 0x0⟩]⟩]

/-- The registers of the BRD block (R572). -/
def regsBrd : List RegDef :=
  [⟨0x20000, 0x4, 32, 0x0, 1, 4, [⟨0, 4, .rw, 0x0⟩, ⟨4, 1, .rw, 0x0⟩, ⟨5, 1, .rw, 0x0⟩, ⟨6, 2, .rw, 0x1⟩, ⟨8, 2, .rw, 0x1⟩, ⟨10, 3, .rw, 0x0⟩]⟩,
   ⟨0x20080, 0x0, 1, 0x0, 1, 4, [⟨0, 32, .rw, 0x0⟩]⟩,
   ⟨0x20084, 0x0, 1, 0x0, 1, 4, [⟨0, 32, .ro, 0x0⟩]⟩,
   ⟨0x20088, 0x0, 1, 0x0, 1, 4, [⟨0, 32, .w1c, 0x0⟩]⟩,
   ⟨0x20090, 0x0, 1, 0x0, 1, 4, [⟨0, 8, .rw, 0x0⟩, ⟨8, 8, .rw, 0x0⟩]⟩,
   ⟨0x200A0, 0x0, 1, 0x0, 1, 4, [⟨0, 16, .ro, 0x0⟩, ⟨16, 5, .ro, 0x0⟩]⟩,
   ⟨0x200A4, 0x0, 1, 0x0, 1, 4, [⟨0, 8, .rw, 0x5A⟩]⟩,
   ⟨0x200A8, 0x0, 1, 0x0, 1, 4, [⟨0, 1, .ro, 0x0⟩, ⟨1, 1, .ro, 0x0⟩, ⟨2, 1, .ro, 0x0⟩, ⟨16, 16, .rc, 0x0⟩]⟩,
   ⟨0x200B0, 0x0, 1, 0x0, 1, 4, [⟨0, 16, .ro, 0x0⟩]⟩,
   ⟨0x200C0, 0x0, 1, 0x0, 1, 4, [⟨0, 7, .ro, 0x0⟩, ⟨7, 1, .ro, 0x0⟩, ⟨8, 1, .ro, 0x0⟩, ⟨9, 1, .ro, 0x0⟩]⟩]

/-- Past BAR0's 64 MiB, where no offset of BAR0 reaches: BAR4 at 0x400_0000, with the MSI-X table and its pending bits, and the
configuration space at 0x401_0000 (R417, R418; the layout and its reset values are the PCI Express base specification's: PRESUMED,
log entry 31). -/
def regsPci : List RegDef :=
  [⟨0x4000000, 0x10, 64, 0x0, 1, 4, [⟨2, 30, .rw, 0x0⟩]⟩,
   ⟨0x4000004, 0x10, 64, 0x0, 1, 4, [⟨0, 32, .rw, 0x0⟩]⟩,
   ⟨0x4000008, 0x10, 64, 0x0, 1, 4, [⟨0, 32, .rw, 0x0⟩]⟩,
   ⟨0x400000C, 0x10, 64, 0x0, 1, 4, [⟨0, 1, .rw, 0x1⟩]⟩,
   ⟨0x4000800, 0x4, 2, 0x0, 1, 4, [⟨0, 32, .ro, 0x0⟩]⟩,
   ⟨0x4010000, 0x0, 1, 0x0, 1, 4, [⟨0, 32, .ro, 0x3072EB5C⟩]⟩,
   ⟨0x4010004, 0x0, 1, 0x0, 1, 4, [⟨0, 32, .ro, 0x100000⟩]⟩,
   ⟨0x4010008, 0x0, 1, 0x0, 1, 4, [⟨0, 32, .ro, 0x120000A1⟩]⟩,
   ⟨0x4010034, 0x0, 1, 0x0, 1, 4, [⟨0, 8, .ro, 0x40⟩]⟩,
   ⟨0x4010040, 0x0, 1, 0x0, 1, 4, [⟨0, 32, .ro, 0x35001⟩]⟩,
   ⟨0x4010044, 0x0, 1, 0x0, 1, 4, [⟨0, 2, .rw, 0x0⟩]⟩,
   ⟨0x4010050, 0x0, 1, 0x0, 1, 4, [⟨0, 30, .ro, 0x3F0011⟩, ⟨30, 1, .rw, 0x0⟩, ⟨31, 1, .rw, 0x0⟩]⟩,
   ⟨0x4010054, 0x0, 1, 0x0, 1, 4, [⟨0, 32, .ro, 0x4⟩]⟩,
   ⟨0x4010058, 0x0, 1, 0x0, 1, 4, [⟨0, 32, .ro, 0x804⟩]⟩]

/-- Every register of BAR0 (R358, R416 – R418), and past them those of the PCI Express function. -/
def barRegs : List RegDef :=
  regsPci ++ regsStb ++ regsSch ++ regsCmp ++ regsMon ++ regsEnc ++ regsAud ++ regsHod ++ regsMov ++ regsMem ++ regsYrd ++ regsMbx ++ regsRng ++ regsEvt ++ regsDbg ++ regsBrd

/-- The registers of BAR0 with a reset value that is not 0. -/
def rstRegs : List RegDef :=
  [⟨0x100008, 0x10000, 17, 0x0, 1, 4, [⟨0, 20, .rw, 0x4E20⟩]⟩,
   ⟨0x10000C, 0x10000, 17, 0x0, 1, 4, [⟨0, 16, .rw, 0x7D0⟩]⟩,
   ⟨0x100010, 0x10000, 17, 0x0, 1, 4, [⟨0, 16, .rw, 0x1F4⟩]⟩,
   ⟨0x40008, 0x0, 1, 0x0, 1, 4, [⟨0, 20, .rw, 0x1⟩]⟩,
   ⟨0x4000C, 0x0, 1, 0x0, 1, 4, [⟨0, 20, .rw, 0x1⟩]⟩,
   ⟨0x40024, 0x0, 1, 0x0, 1, 4, [⟨0, 13, .rw, 0x400⟩]⟩,
   ⟨0x800008, 0x0, 1, 0x0, 1, 4, [⟨0, 8, .rw, 0x18⟩, ⟨8, 15, .ro, 0x0⟩, ⟨23, 1, .ro, 0x0⟩]⟩,
   ⟨0x800018, 0x0, 1, 0x0, 1, 4, [⟨0, 8, .rw, 0x4⟩]⟩,
   ⟨0x900008, 0x0, 1, 0x0, 1, 4, [⟨0, 16, .rw, 0xB8C4⟩]⟩,
   ⟨0x90000C, 0x0, 1, 0x0, 1, 4, [⟨0, 14, .rw, 0xFA⟩]⟩,
   ⟨0x0, 0x0, 1, 0x0, 1, 4, [⟨0, 32, .ro, 0x5CE73072⟩]⟩,
   ⟨0x4, 0x0, 1, 0x0, 1, 4, [⟨0, 8, .ro, 0xA1⟩]⟩,
   ⟨0x8, 0x0, 1, 0x0, 1, 4, [⟨0, 8, .ro, 0x1⟩]⟩,
   ⟨0x18, 0x0, 1, 0x0, 1, 4, [⟨0, 4, .ro, 0x2⟩, ⟨8, 8, .ro, 0x0⟩]⟩,
   ⟨0x1C, 0x0, 1, 0x0, 1, 4, [⟨0, 32, .ro, 0x1⟩]⟩,
   ⟨0x84, 0x0, 1, 0x0, 1, 4, [⟨0, 16, .rw, 0x1E⟩, ⟨16, 1, .rw, 0x1⟩, ⟨17, 1, .ro, 0x0⟩]⟩,
   ⟨0x1C4, 0x0, 1, 0x0, 1, 4, [⟨0, 1, .ro, 0x0⟩, ⟨1, 1, .ro, 0x1⟩, ⟨2, 1, .ro, 0x0⟩, ⟨3, 1, .ro, 0x0⟩, ⟨4, 1, .w1c, 0x0⟩, ⟨8, 4, .ro, 0x3⟩, ⟨12, 8, .ro, 0x0⟩]⟩,
   ⟨0x1008, 0x10, 9, 0x0, 1, 4, [⟨0, 1, .ro, 0x0⟩, ⟨1, 12, .ro, 0x0⟩, ⟨13, 1, .ro, 0x1⟩, ⟨14, 12, .ro, 0x0⟩, ⟨26, 1, .ro, 0x1⟩, ⟨27, 1, .ro, 0x0⟩]⟩,
   ⟨0x10004, 0x0, 1, 0x0, 1, 4, [⟨0, 2, .rw, 0x1⟩]⟩,
   ⟨0x200, 0x0, 1, 0x0, 1, 4, [⟨0, 1, .ro, 0x0⟩, ⟨2, 2, .ro, 0x1⟩, ⟨4, 2, .ro, 0x2⟩, ⟨8, 8, .ro, 0x0⟩, ⟨16, 16, .rc, 0x0⟩]⟩,
   ⟨0x208, 0x0, 1, 0x0, 1, 4, [⟨0, 1, .rw, 0x0⟩, ⟨4, 20, .rw, 0xFA⟩]⟩,
   ⟨0x20C, 0x0, 1, 0x0, 1, 4, [⟨0, 1, .rw, 0x0⟩, ⟨4, 20, .rw, 0xFA⟩]⟩,
   ⟨0xF00000, 0x0, 1, 0x0, 1, 4, [⟨0, 32, .ro, 0x130729AF⟩]⟩,
   ⟨0xF00004, 0x0, 1, 0x0, 1, 4, [⟨0, 1, .rw, 0x1⟩, ⟨1, 1, .w1s, 0x0⟩]⟩,
   ⟨0x20000, 0x4, 32, 0x0, 1, 4, [⟨0, 4, .rw, 0x0⟩, ⟨4, 1, .rw, 0x0⟩, ⟨5, 1, .rw, 0x0⟩, ⟨6, 2, .rw, 0x1⟩, ⟨8, 2, .rw, 0x1⟩, ⟨10, 3, .rw, 0x0⟩]⟩,
   ⟨0x200A4, 0x0, 1, 0x0, 1, 4, [⟨0, 8, .rw, 0x5A⟩]⟩,
   ⟨0x400000C, 0x10, 64, 0x0, 1, 4, [⟨0, 1, .rw, 0x1⟩]⟩,
   ⟨0x4010000, 0x0, 1, 0x0, 1, 4, [⟨0, 32, .ro, 0x3072EB5C⟩]⟩,
   ⟨0x4010004, 0x0, 1, 0x0, 1, 4, [⟨0, 32, .ro, 0x100000⟩]⟩,
   ⟨0x4010008, 0x0, 1, 0x0, 1, 4, [⟨0, 32, .ro, 0x120000A1⟩]⟩,
   ⟨0x4010034, 0x0, 1, 0x0, 1, 4, [⟨0, 8, .ro, 0x40⟩]⟩,
   ⟨0x4010040, 0x0, 1, 0x0, 1, 4, [⟨0, 32, .ro, 0x35001⟩]⟩,
   ⟨0x4010050, 0x0, 1, 0x0, 1, 4, [⟨0, 30, .ro, 0x3F0011⟩, ⟨30, 1, .rw, 0x0⟩, ⟨31, 1, .rw, 0x0⟩]⟩,
   ⟨0x4010054, 0x0, 1, 0x0, 1, 4, [⟨0, 32, .ro, 0x4⟩]⟩,
   ⟨0x4010058, 0x0, 1, 0x0, 1, 4, [⟨0, 32, .ro, 0x804⟩]⟩]

/-- Every register of stall data space (R94, R101, R200, R295, R333, R373). -/
def stallRegs : List RegDef :=
  [⟨0x240100, 0x0, 1, 0x0, 1, 2, [⟨0, 8, .w1c, 0x0⟩]⟩,
   ⟨0x240102, 0x0, 1, 0x0, 1, 2, [⟨0, 8, .rw, 0x0⟩]⟩,
   ⟨0x240104, 0x0, 1, 0x0, 1, 2, [⟨0, 8, .ro, 0x0⟩]⟩,
   ⟨0x240106, 0x0, 1, 0x0, 1, 2, [⟨0, 8, .ro, 0x0⟩]⟩,
   ⟨0x240108, 0x0, 1, 0x0, 1, 2, [⟨0, 4, .ro, 0x0⟩]⟩,
   ⟨0x240120, 0x0, 1, 0x0, 1, 2, [⟨0, 1, .rw, 0x0⟩, ⟨1, 3, .rw, 0x0⟩, ⟨4, 1, .rw, 0x0⟩]⟩,
   ⟨0x240130, 0x0, 1, 0x0, 1, 2, [⟨0, 1, .rw, 0x0⟩, ⟨1, 3, .rw, 0x0⟩, ⟨4, 1, .rw, 0x0⟩]⟩,
   ⟨0x240122, 0x0, 1, 0x0, 1, 2, [⟨0, 16, .rw, 0x0⟩]⟩,
   ⟨0x240132, 0x0, 1, 0x0, 1, 2, [⟨0, 16, .rw, 0x0⟩]⟩,
   ⟨0x240124, 0x0, 1, 0x0, 1, 2, [⟨0, 16, .ro, 0x0⟩]⟩,
   ⟨0x240134, 0x0, 1, 0x0, 1, 2, [⟨0, 16, .ro, 0x0⟩]⟩,
   ⟨0x210800, 0x0, 1, 0x0, 1, 4, [⟨0, 10, .ro, 0x0⟩, ⟨10, 1, .ro, 0x0⟩, ⟨16, 10, .ro, 0x0⟩, ⟨26, 1, .ro, 0x0⟩]⟩,
   ⟨0x210804, 0x0, 1, 0x0, 1, 2, [⟨0, 1, .rw, 0x0⟩, ⟨1, 1, .rw, 0x0⟩]⟩,
   ⟨0x210806, 0x0, 1, 0x0, 1, 2, [⟨0, 2, .rw, 0x0⟩]⟩,
   ⟨0x210808, 0x0, 1, 0x0, 1, 2, [⟨0, 7, .rw, 0x0⟩]⟩,
   ⟨0x21080A, 0x0, 1, 0x0, 1, 2, [⟨0, 1, .rw, 0x0⟩, ⟨1, 1, .rw, 0x0⟩]⟩,
   ⟨0x21080C, 0x0, 1, 0x0, 1, 2, [⟨0, 10, .rw, 0x0⟩]⟩,
   ⟨0x21080E, 0x0, 1, 0x0, 1, 2, [⟨0, 10, .rw, 0x0⟩]⟩,
   ⟨0x210810, 0x10, 8, 0x0, 1, 2, [⟨0, 10, .rw, 0x0⟩]⟩,
   ⟨0x210812, 0x10, 8, 0x0, 1, 2, [⟨0, 10, .rw, 0x0⟩]⟩,
   ⟨0x210814, 0x10, 8, 0x0, 1, 2, [⟨0, 1, .rw, 0x0⟩, ⟨1, 1, .rw, 0x0⟩, ⟨2, 3, .rw, 0x0⟩, ⟨5, 2, .rw, 0x0⟩, ⟨7, 1, .rw, 0x0⟩]⟩,
   ⟨0x210816, 0x10, 8, 0x0, 1, 2, [⟨0, 7, .rw, 0x0⟩]⟩,
   ⟨0x210818, 0x10, 8, 0x0, 1, 2, [⟨0, 7, .rw, 0x0⟩]⟩,
   ⟨0x21081A, 0x10, 8, 0x0, 1, 2, [⟨0, 9, .rw, 0x0⟩]⟩,
   ⟨0x210890, 0x0, 1, 0x0, 1, 2, [⟨0, 1, .w1c, 0x0⟩]⟩,
   ⟨0x210892, 0x0, 1, 0x0, 1, 2, [⟨0, 1, .rc, 0x0⟩, ⟨1, 1, .rc, 0x0⟩, ⟨8, 7, .rc, 0x0⟩]⟩,
   ⟨0x210894, 0x0, 1, 0x0, 1, 2, [⟨0, 8, .rw, 0x0⟩]⟩,
   ⟨0x210896, 0x0, 1, 0x0, 1, 2, [⟨0, 1, .rc, 0x0⟩, ⟨8, 7, .rc, 0x0⟩]⟩,
   ⟨0x2108A0, 0x0, 1, 0x0, 1, 2, [⟨0, 10, .rw, 0x0⟩]⟩,
   ⟨0x2108A2, 0x0, 1, 0x0, 1, 2, [⟨0, 10, .rw, 0x0⟩]⟩,
   ⟨0x2108A4, 0x0, 1, 0x0, 1, 2, [⟨0, 10, .rw, 0x0⟩]⟩,
   ⟨0x2108A6, 0x0, 1, 0x0, 1, 2, [⟨0, 10, .rw, 0x0⟩]⟩,
   ⟨0x2108B0, 0x2, 10, 0x0, 1, 2, [⟨0, 1, .rw, 0x0⟩, ⟨1, 1, .rw, 0x0⟩, ⟨2, 1, .rw, 0x0⟩, ⟨3, 1, .rw, 0x0⟩, ⟨4, 2, .rw, 0x0⟩]⟩,
   ⟨0x2108D0, 0x0, 1, 0x0, 1, 2, [⟨0, 1, .rw, 0x0⟩, ⟨1, 1, .rw, 0x0⟩, ⟨2, 1, .rw, 0x0⟩]⟩,
   ⟨0x2108D2, 0x0, 1, 0x0, 1, 2, [⟨0, 8, .rw, 0x0⟩, ⟨8, 1, .rw, 0x0⟩, ⟨9, 1, .rw, 0x0⟩]⟩,
   ⟨0x2108D4, 0x0, 1, 0x0, 1, 2, [⟨0, 15, .rw, 0x0⟩]⟩,
   ⟨0x220000, 0x10, 8, 0x0, 1, 2, [⟨0, 1, .rw, 0x0⟩, ⟨1, 1, .rw, 0x0⟩, ⟨2, 2, .rw, 0x0⟩]⟩,
   ⟨0x220002, 0x10, 8, 0x0, 1, 2, [⟨0, 16, .rw, 0x0⟩]⟩,
   ⟨0x220004, 0x10, 8, 0x0, 1, 2, [⟨0, 16, .rw, 0x0⟩]⟩,
   ⟨0x220006, 0x10, 8, 0x0, 1, 2, [⟨0, 16, .rw, 0x0⟩]⟩,
   ⟨0x220008, 0x10, 8, 0x0, 1, 2, [⟨0, 16, .rw, 0x0⟩]⟩,
   ⟨0x22000A, 0x10, 8, 0x0, 1, 2, [⟨0, 8, .rw, 0x0⟩, ⟨8, 8, .rw, 0x0⟩]⟩,
   ⟨0x22000C, 0x10, 8, 0x0, 1, 2, [⟨0, 4, .rw, 0x0⟩, ⟨4, 4, .rw, 0x0⟩, ⟨8, 4, .rw, 0x0⟩, ⟨12, 4, .rw, 0x0⟩]⟩,
   ⟨0x220080, 0x0, 1, 0x0, 1, 2, [⟨0, 1, .rw, 0x0⟩]⟩,
   ⟨0x220082, 0x0, 1, 0x0, 1, 2, [⟨0, 8, .rw, 0x80⟩, ⟨8, 8, .rw, 0x80⟩]⟩,
   ⟨0x220084, 0x0, 1, 0x0, 1, 2, [⟨0, 10, .rw, 0x0⟩]⟩,
   ⟨0x220086, 0x0, 1, 0x0, 1, 2, [⟨0, 16, .ro, 0x0⟩]⟩,
   ⟨0x240200, 0x20, 8, 0x0, 1, 2, [⟨0, 3, .wo, 0x0⟩]⟩,
   ⟨0x240202, 0x20, 8, 0x0, 1, 2, [⟨0, 16, .rw, 0x0⟩]⟩,
   ⟨0x240204, 0x20, 8, 0x0, 1, 2, [⟨0, 8, .rw, 0x0⟩]⟩,
   ⟨0x240206, 0x20, 8, 0x0, 1, 2, [⟨0, 16, .rw, 0x0⟩]⟩,
   ⟨0x240208, 0x20, 8, 0x0, 1, 2, [⟨0, 8, .rw, 0x0⟩]⟩,
   ⟨0x24020A, 0x20, 8, 0x0, 1, 2, [⟨0, 1, .rw, 0x0⟩, ⟨1, 1, .rw, 0x0⟩, ⟨2, 1, .rw, 0x0⟩]⟩,
   ⟨0x24020C, 0x20, 8, 0x0, 1, 2, [⟨0, 2, .ro, 0x0⟩, ⟨2, 8, .ro, 0x0⟩, ⟨10, 2, .ro, 0x0⟩, ⟨12, 4, .ro, 0x0⟩]⟩,
   ⟨0x24020E, 0x20, 8, 0x0, 1, 2, [⟨0, 16, .ro, 0x0⟩]⟩,
   ⟨0x240210, 0x20, 8, 0x0, 1, 2, [⟨0, 16, .ro, 0x0⟩]⟩,
   ⟨0x240212, 0x20, 8, 0x0, 1, 2, [⟨0, 8, .ro, 0x0⟩]⟩,
   ⟨0x240214, 0x20, 8, 0x0, 1, 2, [⟨0, 8, .ro, 0x0⟩]⟩,
   ⟨0x240300, 0x0, 1, 0x0, 1, 2, [⟨0, 8, .w1c, 0x0⟩]⟩,
   ⟨0x240400, 0x2, 12, 0x0, 1, 2, [⟨0, 12, .rw, 0x0⟩]⟩]

end Sys2Proof.Machine
end

