-- ==== Sys2Proof/Machine/StallMem.lean ====
section
/-! DEFINITION. The data space of a stall: populated addresses, register bytes, reads and writes of the processor view,
stamped writes, the write shadow's old values, and the tick-derived sources (R25 – R30, R48 – R50, R81, R94, R101, R176,
R194, R200, R276, R333, R373, R573, R576). -/
namespace Sys2Proof.Machine

/-- The register that holds an address, with the offset within it. -/
def findReg : List RegDef → Nat → Option (RegDef × Nat)
  | [], _ => none
  | d :: r, a => match d.hit a with
    | some k => some (d, k)
    | none => findReg r a

/-- The bits of byte `k` of a register that lie in fields of an access type. -/
def byteMask (d : RegDef) (ty : AccTy) (k : Nat) : Nat :=
  d.fields.foldl (fun m f => if f.ty = ty then m ||| field ((2 ^ f.w - 1) * 2 ^ f.lo) (8 * k) 8 else m) 0

/-- The reset value of byte `k` of a register. -/
def byteReset (d : RegDef) (k : Nat) : Nat :=
  d.fields.foldl (fun m f => m ||| field (f.rst * 2 ^ f.lo) (8 * k) 8) 0

/-- Registers that Class L does not have: layers 4–7, WSEL4–WSEL7 and VID_VBANK (R195). -/
def absentInL (a : Nat) : Bool :=
  (decide (0x210850 ≤ a) && decide (a < 0x210890)) || (decide (0x2108B8 ≤ a) && decide (a < 0x2108C0)) ||
    a == 0x210806 || a == 0x210807

/-- The RW and W1C bits of a register byte of stall data space, `none` where no register lies (R7, R49, R195). -/
def regByte (c : BeamClass) (a : Nat) : Option (Nat × Nat) :=
  match findReg stallRegs a with
  | none => none
  | some (d, k) => if c = .L ∧ absentInL a then some (0, 0) else some (byteMask d .rw k, byteMask d .w1c k)

/-- Addresses from `lo` to below `hi`. -/
def inRange (lo hi a : Nat) : Bool := decide (lo ≤ a) && decide (a < hi)

/-- The stamped range (R25). -/
def stamped (a : Nat) : Bool := inRange 0x200000 0x240000 a

/-- Plain memory of a stall: near page, work RAM, video RAM window, sprite table, palette, sound RAM (R48). -/
def isRam (c : BeamClass) (a : Nat) : Bool :=
  a < (match c with | .L => 0x20800 | _ => 0x200000) || inRange 0x200000 0x210000 a || inRange 0x210000 0x210600 a ||
    inRange 0x230000 0x240000 a

/-- Populated addresses outside the cartridge window (R48, R49). -/
def populated (c : BeamClass) (a : Nat) : Bool :=
  isRam c a || inRange 0x240000 0x240040 a || inRange 0x240F00 0x240F08 a || (findReg stallRegs a).isSome

/-- The key of a data address in the view maps: video RAM is keyed by video address (R176, R374). -/
def keyOf (m : Mem) (c : BeamClass) (a : Nat) : Nat :=
  if inRange 0x200000 0x210000 a then
    0x1000000 + (match c with | .L => 0 | _ => (Memory.get m 0x210806).toNat % 4 * 0x10000) + a % 0x10000
  else a

/-- A stored word of the processor view. -/
def Stall.word (st : Stall) (a : Nat) : Nat := Memory.getLE st.mem a 2

/-- ISTAT, IEN and INSV (R94). -/
def aISTAT : Nat := 0x240100
def aIEN : Nat := 0x240102
def aINSV : Nat := 0x240106
def aECAUSE : Nat := 0x240108
def aLSRC : Nat := 0x210890
def aCOLL : Nat := 0x210892
def aSTAT : Nat := 0x210896
def aPEND : Nat := 0x240300

/-- Control and reload addresses of timer n (R101). -/
def aTCTL (n : Nat) : Nat := 0x240120 + 16 * n
def aTRELOAD (n : Nat) : Nat := 0x240122 + 16 * n

/-- The timer record n. -/
def Sources.tmr (s : Sources) (n : Nat) : Timer := if n = 0 then s.tmr0 else s.tmr1
def Sources.setTmr (s : Sources) (n : Nat) (t : Timer) : Sources :=
  if n = 0 then { s with tmr0 := t } else { s with tmr1 := t }

/-- A subchannel of a stall; an index past 7 gives the reset subchannel. -/
def Stall.sub (st : Stall) (i : Nat) : Sub := nthD st.subs i .reset
def Stall.setSub (st : Stall) (i : Nat) (x : Sub) : Stall := { st with subs := setNth st.subs i x }

/-- COUNT of a timer at start tick r (R101). -/
def timerCount (st : Stall) (n r : Nat) : Nat :=
  if bitAt (st.word (aTCTL n)) 0 then ((st.src.tmr n).next - r - 1) / 4 ^ (st.src.tmr n).pre % 65536 else 0

/-- The bytes of a subchannel's read-only registers (R333): STAT, RESID, BADDR, DEV at offsets 0x0C – 0x15. -/
def subRegs (x : Sub) : Bytes :=
  leBytes 2 (x.state % 4 + x.code % 256 * 4 + x.cerr % 4 * 1024 + x.ty % 16 * 4096) ++ leBytes 2 x.resid ++
    leBytes 2 x.baddr ++ leBytes 2 (x.baddr / 65536 % 256) ++ leBytes 2 (x.dev % 256)

/-- Bytes of I/O and register space whose value is computed at the start tick `t` (R19, R46, R94, R101, R277, R333). -/
def computedByte (st : Stall) (time t a : Nat) : Option Byte :=
  let b (x k : Nat) : Option Byte := some (BitVec.ofNat 8 (x / 256 ^ k))
  if inRange 0x210800 0x210804 a then b (vidBeam st.cls t) (a - 0x210800)
  else if inRange 0x220086 0x220088 a then b (t / tps st.cls) (a - 0x220086)
  else if a = 0x240104 then b (st.word aISTAT &&& st.word aIEN) 0
  else if inRange 0x240124 0x240126 a then b (timerCount st 0 t) (a - 0x240124)
  else if inRange 0x240134 0x240136 a then b (timerCount st 1 t) (a - 0x240134)
  else if inRange 0x240200 0x240300 a then
    let o := a % 32
    if o < 2 then some 0
    else if inRange 0x0C 0x16 o then some (nthD (subRegs (st.sub ((a - 0x240200) / 32))) (o - 0x0C) 0)
    else none
  else if inRange 0x240F00 0x240F08 a then (if st.freeRun then b time (a - 0x240F00) else some 0)
  else none

/-- The cartridge image byte of a data address, by the bank registers (R373). -/
def cartOffset (st : Stall) (a : Nat) : Nat :=
  let w := (a - 0x400000) / 0x100000
  st.word (0x240400 + 2 * w) % 4096 * 0x100000 + a % 0x100000

/-- One byte of the processor view at start tick `t`, without the shadow (R49). `cart` is the title's cartridge image. -/
def readView (cart : Bytes) (st : Stall) (time t a : Nat) : Byte :=
  if 0x400000 ≤ a then cart.getD (cartOffset st a) 0xFF
  else match computedByte st time t a with
    | some b => b
    | none => if populated st.cls a then Memory.get st.mem (keyOf st.mem st.cls a) else 0xFF

/-- A byte write to a key of a view with register access types: RW bits take the value, W1C bits written 1 clear,
others stay (R7, R11). -/
def maskedByte (attr : Option (Nat × Nat)) (old v : Byte) : Byte :=
  match attr with
  | none => v
  | some (rw, w1c) =>
    let o := old.toNat
    let x := v.toNat
    BitVec.ofNat 8 (((o &&& (255 - rw)) ||| (x &&& rw)) &&& (255 - (x &&& w1c)))

/-- Whether a write reaches a byte at all: unpopulated, cartridge, latch and CAD_TIME bytes are ignored (R49, R573). -/
def writable (c : BeamClass) (a : Nat) : Bool := isRam c a || (findReg stallRegs a).isSome

/-- The byte of a view written at a data address. -/
def putView (c : BeamClass) (m : Mem) (a : Nat) (v : Byte) : Mem :=
  let k := keyOf m c a
  Memory.set m k (maskedByte (if isRam c a then none else regByte c a) (Memory.get m k) v)

/-- The page-table entry index of a data address or view key (R370). -/
def pteIndex (k : Nat) : Nat := if 0x1000000 ≤ k then 0x1800 + (k - 0x1000000) / 4096 else k / 4096

/-- The entry index of a key in the render view (R370). -/
def pteIndexR (k : Nat) : Nat :=
  if 0x1000000 ≤ k then 0x1840 + (k - 0x1000000) / 4096 else if k < 0x220000 then 0x1880 else 0x1890 + (k - 0x230000) / 4096 % 16

/-- Keys that lie in translated private pages: work RAM, video RAM, page 0x210, sound RAM (R370, R372). -/
def translatedKey (k : Nat) : Bool :=
  inRange 0x800 0x200000 k || inRange 0x210000 0x210600 k || inRange 0x230000 0x240000 k || decide (0x1000000 ≤ k)

/-- Add a number to a list without repeats. -/
def addNew (x : Nat) (l : List Nat) : List Nat := if l.contains x then l else l ++ [x]

/-- Mark what a write to a key dirties: a near-page line, or a page-table entry with its bits D and A (R40, R377). -/
def markDirty (st : Stall) (k : Nat) : Stall :=
  if k < 0x800 then { st with nearDirty := st.nearDirty ||| 2 ^ (k / 256) }
  else if translatedKey k then { st with dirty := addNew (pteIndex k) st.dirty, acc := addNew (pteIndex k) st.acc }
  else st

/-- Record the value a key held before the instruction's first write to it (R81). -/
def noteOld (sh : Shadow) (k : Nat) (old : Byte) : Shadow :=
  if (lookupN k sh.bytes).isSome then sh else { sh with bytes := sh.bytes ++ [(k, old)] }

/-- A register byte on which every write is ignored: the next instruction reads it as it stands (R7, R81, R193). -/
def ignoredByte (c : BeamClass) (a : Nat) : Bool := !isRam c a && regByte c a == some (0, 0)

/-- One byte written by the processor: the view, the shadow and the dirty marks. -/
def procByte (st : Stall) (a : Nat) (v : Byte) : Stall :=
  if writable st.cls a then
    let k := keyOf st.mem st.cls a
    let old := Memory.get st.mem k
    let shadow := if ignoredByte st.cls a then st.shadow else noteOld st.shadow k old
    let st := { st with shadow, mem := putView st.cls st.mem a v }
    markDirty st k
  else st

/-- A run of bytes written by the processor from an address upwards, addresses wrapping (R48). -/
def procBytes : Stall → Nat → Bytes → Stall
  | st, _, [] => st
  | st, a, b :: bs => procBytes (procByte st (a % 2 ^ 24) b) (a + 1) bs

/-- Bytes that the stamp queue takes of a processor access: the populated ones in the stamped range, as runs (R25, R30). -/
def stampParts (c : BeamClass) (tick src : Nat) : Nat → Bytes → List Stamp
  | _, [] => []
  | a, b :: bs =>
    let a' := a % 2 ^ 24
    let rest := stampParts c tick src (a + 1) bs
    if stamped a' && writable c a' then
      match rest with
      | r :: rs => if r.addr == a' + 1 then { tick, src, addr := a', data := b :: r.data } :: rs
                   else { tick, src, addr := a', data := [b] } :: rest
      | [] => [{ tick, src, addr := a', data := [b] }]
    else rest

/-- Entries after those whose (stamp, SRC) is not greater (R28). -/
def stampLe (x y : Stamp) : Bool := decide (x.tick < y.tick) || (x.tick == y.tick && decide (x.src ≤ y.src))

def insertStamp (x : Stamp) : List Stamp → List Stamp
  | [] => [x]
  | y :: r => if stampLe y x then y :: insertStamp x r else x :: y :: r

/-- An entry is a block: every entry of an agent, which carries its unit whole (R30, R312). -/
def Stamp.block (x : Stamp) : Bool := x.src != 0 || decide (2 < x.data.length)

/-- The lowest 4 KiB unit of the spill area that holds no block of a queue. -/
def spillUnit (l : List Stamp) : Nat := ((upto 16).find? fun u => !(l.any fun x => x.block && x.off == u)).getD 16

/-- A stamp entry with the unit of the spill area that its block takes. -/
def placeStamp (l : List Stamp) (x : Stamp) : Stamp := if x.block then { x with off := spillUnit l } else x

/-- Enter stamp entries in the order of R28; the bytes of a block take a unit of the spill area. -/
def enterStamps (l : List Stamp) (xs : List Stamp) : List Stamp := xs.foldl (fun l x => insertStamp (placeStamp l x) l) l

/-- Entries past the first 256 lie in the spill area, 256 to a page, in the pages that hold no block (DESIGN CHOICE, log entry 100)
(R29, R30). -/
def recordUnits (l : List Stamp) : List Nat := (upto 16).filter fun u => !(l.any fun x => x.block && x.off == u)

/-- The units of the spill area that a change of the queue writes: those of new blocks, and the pages of the entries past the first
256. -/
def spillNew (old new : List Stamp) : List Nat :=
  let was := old.filterMap fun x => if x.block then some x.off else none
  (new.filterMap fun x => if x.block && !was.contains x.off then some x.off else none) ++
    (recordUnits new).take (ceilDiv (new.length - 256) 256)

/-- Enter stamp entries; the spill pages written to carry D and A (R28, R377). -/
def addStamps (st : Stall) (xs : List Stamp) : Stall :=
  if xs.isEmpty then st
  else
    let l := enterStamps st.stamps xs
    let new := (spillNew st.stamps l).map (0x18A0 + ·)
    { st with stamps := l, dirty := new.foldl (fun d i => addNew i d) st.dirty, acc := new.foldl (fun d i => addNew i d) st.acc }

/-- The 16 bytes of a stamp entry: TICK, ADDR, CTL, DATA (R30). -/
def Stamp.bytes (x : Stamp) : Bytes :=
  leBytes 8 x.tick ++ leBytes 3 x.addr ++
    leBytes 1 (x.src % 16 + 16 * (if x.block then 3 else if x.data.length = 2 then 1 else 0)) ++
    leBytes 4 (if x.block then x.off * 4096 + (x.data.length - 1) % 4096 else ofLE x.data)

/-- The block entries of bytes carried whole, at most 4,096 bytes each; bytes none of which is populated in the stamped range are no
stamped write (R25, R30). -/
def blockStamps (c : BeamClass) (tick src a : Nat) (bs : Bytes) : List Stamp :=
  if (upto bs.length).any fun i => stamped ((a + i) % 2 ^ 24) && writable c ((a + i) % 2 ^ 24) then
    (upto (ceilDiv bs.length 4096)).map fun j =>
      { tick, src, addr := (a + 4096 * j) % 2 ^ 24, data := (bs.drop (4096 * j)).take 4096 }
  else []

/-- The block entries of an agent's unit. A unit across 0x22_0000 makes entries on either side of it, since the raster unit applies those
below and the voice engines those from it on (R27, R267). -/
def agentStamps (c : BeamClass) (tick src a : Nat) (bs : Bytes) : List Stamp :=
  let n := 0x220000 - a
  if a < 0x220000 ∧ n < bs.length then blockStamps c tick src a (bs.take n) ++ blockStamps c tick src 0x220000 (bs.drop n)
  else blockStamps c tick src a bs

/-- Spill bytes an entry takes: 16 for its record, and its block rounded to 4 KiB (R30). -/
def spillCost (x : Stamp) : Nat := 16 + (if x.block then 4096 else 0)

/-- Room for more entries: 256 in the queue, 64 KiB in the spill area, none of whose pages to be written waits for a checkpoint copy
(R29, R377). -/
def stampRoom (st : Stall) (new : List Stamp) : Bool :=
  let all := st.stamps ++ new
  let blocks := (all.take 256).foldl (fun n x => n + (spillCost x - 16)) 0
  let spill := (all.drop 256).foldl (fun n x => n + spillCost x) 0
  decide (blocks + spill ≤ 65536) &&
    (st.copying.isEmpty || !((spillNew st.stamps (enterStamps st.stamps new)).any fun u => st.copying.contains (0x18A0 + u)))

/-- The stamp entries of one processor access: words, and a word at an odd address as two byte entries (R30, R92). -/
def procStamps (c : BeamClass) (w : Nat) (a : Nat) (bs : Bytes) : List Stamp :=
  if a % 2 = 1 then (bs.zipIdx).flatMap fun p => stampParts c w 0 (a + p.2) [p.1]
  else (upto (ceilDiv bs.length 2)).flatMap fun j => stampParts c w 0 (a + 2 * j) ((bs.drop (2 * j)).take 2)

/-! ### Tick-derived sources -/

/-- VID_LMATCH.LINE, VID_LMDOT.DOT, VID_IRQ.LMIE, SND_PERIOD.N. -/
def lmPos (st : Stall) : Nat × Nat := (st.word 0x21080C % 1024, st.word 0x21080E % 1024)
def lmie (st : Stall) : Bool := bitAt (st.word 0x21080A) 0
def sndN (st : Stall) : Nat := st.word 0x220084 % 1024

/-- The first line-match tick at or above `t` with the present values, if they can match (R194). -/
def lmNext (st : Stall) (t : Nat) : Option Nat :=
  let (l, d) := lmPos st
  if l < lpf st.cls ∧ d < dpl st.cls then
    let o := (l * dpl st.cls + d) * tpd st.cls
    let k := if t ≤ o then 0 else ceilDiv (t - o) (tpf st.cls)
    some (k * tpf st.cls + o)
  else none

/-- The first SND tick at or above `t`: a beam sample whose index is a nonzero multiple of N (R276). -/
def sndNext (st : Stall) (t : Nat) : Option Nat :=
  if sndN st = 0 then none
  else
    let p := sndN st * tps st.cls
    some (max 1 (ceilDiv t p) * p)

/-- The period that the present RELOAD and PRE fix for timer n (R101). -/
def timerPeriod (st : Stall) (n : Nat) : Nat :=
  (st.word (aTRELOAD n) + 1) * 4 ^ (field (st.word (aTCTL n)) 1 3)

/-- Clear EN of timer n as the device does at a one-shot expiry (R101). -/
def clearEn (st : Stall) (n : Nat) : Stall :=
  { st with mem := Memory.set st.mem (aTCTL n) (Memory.get st.mem (aTCTL n) &&& 0xFE) }

/-- The values in force before a write with last tick `w` stop timer n at an expiry that an instruction starting at `w` + 1
sees (R101, R576). -/
def stopsBy (st : Stall) (n w : Nat) : Bool :=
  bitAt (st.word (aTCTL n)) 0 && bitAt (st.word (aTCTL n)) 4 && decide ((st.src.tmr n).next ≤ w + 1)

/-- The next instruction reads EN of timer n as 0 where the timer would have stopped had the write not been made (R576). -/
def shadowStop (st : Stall) (n : Nat) (stops : Bool) : Stall :=
  if stops then
    { st with shadow := { st.shadow with bytes := st.shadow.bytes.map fun p => if p.1 == aTCTL n then (p.1, p.2 &&& 0xFE) else p } }
  else st

/-- Record the expiries of timer n below tick `w` as due (at most `fuel` of them). -/
def settleTimer : Nat → Stall → Nat → Nat → Stall
  | 0, st, _, _ => st
  | fuel + 1, st, n, w =>
    let t := st.src.tmr n
    if bitAt (st.word (aTCTL n)) 0 ∧ t.next < w then
      let one := bitAt (st.word (aTCTL n)) 4
      let t' := { t with due := t.due ++ [t.next], next := t.next + timerPeriod st n
                         pre := field (st.word (aTCTL n)) 1 3 }
      let st' := { st with src := st.src.setTmr n t' }
      if one then clearEn st' n else settleTimer fuel st' n w
    else st

/-- Fix the line match below tick `w` with the values in force before it (R83, R194). -/
def settleLm (st : Stall) (w : Nat) : Stall :=
  let due := match lmNext st st.src.lmFrom with
    | some x => if x < w then st.src.lmDue ++ [(x, lmie st)] else st.src.lmDue
    | none => st.src.lmDue
  { st with src := { st.src with lmDue := due, lmFrom := max st.src.lmFrom w } }

/-- Fix the SND tick below tick `w` with the values in force before it (R83, R276). -/
def settleSnd (st : Stall) (w : Nat) : Stall :=
  let due := match sndNext st st.src.sndFrom with
    | some x => if x < w then st.src.sndDue ++ [x] else st.src.sndDue
    | none => st.src.sndDue
  { st with src := { st.src with sndDue := due, sndFrom := max st.src.sndFrom w } }

/-- Settle what the tick-derived sources fix below tick `w` with the values in force before a write at `w` (R83). -/
def settle (st : Stall) (w : Nat) : Stall :=
  settleTimer (w + 1 - st.tick) (settleTimer (w + 1 - st.tick) (settleSnd (settleLm st w) w) 0 w) 1 w

/-- What a write at last tick `w` does to timer n, given EN before it (R101). -/
def timerWritten (st : Stall) (n w : Nat) (en0 : Bool) : Stall :=
  let en1 := bitAt (st.word (aTCTL n)) 0
  let t := st.src.tmr n
  if !en0 && en1 then
    { st with src := st.src.setTmr n { t with next := w + 1 + timerPeriod st n, pre := field (st.word (aTCTL n)) 1 3 } }
  else st

/-- Addresses whose writes the sources must see. -/
def touchesSources (a : Nat) : Bool :=
  inRange 0x21080A 0x210810 a || inRange 0x220084 0x220086 a || inRange 0x240120 0x240124 a ||
    inRange 0x240130 0x240134 a

/-- The HOD_CMD write of byte 0 of subchannel s (R316). -/
def hodCmdAt (a : Nat) : Option Nat :=
  if inRange 0x240200 0x240300 a && a % 32 == 0 then some ((a - 0x240200) / 32) else none

/-- What the bytes written by an access do beyond their values: W1C of ISTAT and of VID_LSRC at tick `w`, HOD_CMD (R94,
R194, R316). -/
def sideByte (st : Stall) (w a : Nat) (v : Byte) : Stall :=
  let st := if a = aISTAT then
      { st with src := { st.src with cleared := (st.src.cleared.zipIdx).map fun p => if bitAt v.toNat p.2 then w + 1 else p.1 } }
    else if a = aLSRC ∧ bitAt v.toNat 0 then { st with src := { st.src with lmCleared := w + 1 } }
    else st
  match hodCmdAt a with
  | some i =>
    let op := v.toNat % 8
    if 1 ≤ op ∧ op ≤ 4 then st.setSub i { st.sub i with cmds := (st.sub i).cmds ++ [(op, w)] } else st
  | none => st

def sideBytes : Stall → Nat → Nat → Bytes → Stall
  | st, _, _, [] => st
  | st, w, a, b :: bs => sideBytes (sideByte st w (a % 2 ^ 24) b) w (a + 1) bs

/-- One processor write access with last tick `w` (R25, R58). -/
def procWrite (st : Stall) (w a : Nat) (bs : Bytes) : Stall :=
  let ents := procStamps st.cls w a bs
  sideBytes (addStamps (procBytes st a bs) ents) w a bs

/-- All writes of an instruction with last tick `w`, the sources settled before them and told of them after (R83). -/
def procWrites (st : Stall) (w : Nat) (wrs : List (Nat × Bytes)) : Stall :=
  let touch := wrs.any fun p => (upto p.2.length).any fun i => touchesSources ((p.1 + i) % 2 ^ 24)
  let st := if touch then settle st w else st
  let e0 := bitAt (st.word (aTCTL 0)) 0
  let e1 := bitAt (st.word (aTCTL 1)) 0
  let x0 := stopsBy st 0 w
  let x1 := stopsBy st 1 w
  let st := wrs.foldl (fun s p => procWrite s w p.1 p.2) st
  if touch then shadowStop (shadowStop (timerWritten (timerWritten st 0 w e0) 1 w e1) 0 x0) 1 x1 else st

/-- The stamp entries that the writes of an instruction would make. -/
def writeStamps (st : Stall) (w : Nat) (wrs : List (Nat × Bytes)) : List Stamp :=
  wrs.flatMap fun p => procStamps st.cls w p.1 p.2

/-- Set a bit of a register byte as the device does, in the shadow too (R576). -/
def devSetBit (st : Stall) (k bit : Nat) : Stall :=
  let set (b : Byte) : Byte := b ||| BitVec.ofNat 8 (2 ^ bit)
  { st with mem := Memory.set st.mem k (set (Memory.get st.mem k))
            shadow := { st.shadow with bytes := st.shadow.bytes.map fun p => if p.1 == k then (p.1, set p.2) else p } }

/-- As `devSetBit`, in the shadow only: the bit was set and then cleared by the last instruction's own write. -/
def devSetOld (st : Stall) (k bit : Nat) : Stall :=
  { st with shadow := { st.shadow with bytes := st.shadow.bytes.map fun p =>
      if p.1 == k then (p.1, p.2 ||| BitVec.ofNat 8 (2 ^ bit)) else p } }

/-- ISTAT line `l` is asserted at tick `a` (R94): a write that cleared the bit at a later tick prevails (R11, R83). -/
def assertLine (st : Stall) (l a : Nat) : Stall :=
  if a + 1 < nthD st.src.cleared l 0 then devSetOld st aISTAT l else devSetBit st aISTAT l

/-- VID_LSRC.LM becomes 1 at tick `a` (R194). -/
def assertLM (st : Stall) (a : Nat) : Stall :=
  if a + 1 < st.src.lmCleared then devSetOld st aLSRC 0 else devSetBit st aLSRC 0

/-- Assert the collision line at each of its ticks that TICK has reached (R33). -/
def applyColl (st : Stall) : Stall :=
  let due := st.src.collDue.filter fun a => decide (a ≤ st.tick)
  due.foldl (fun s a => assertLine s 1 a)
    { st with src := { st.src with collDue := st.src.collDue.filter fun a => decide (st.tick < a) } }

/-- A collision asserts LINE from tick `a` (R33, R192). -/
def noteCollLine (st : Stall) (a : Nat) : Stall :=
  applyColl { st with src := { st.src with collDue := st.src.collDue ++ [a] } }

/-- A noted write comes after tick `t` and subchannel `o` (R312). -/
def PastByte.after (x : PastByte) (t o : Nat) : Bool := decide (t < x.tick) || (x.tick == t && decide (o < x.ord))

/-- Note a write in the order of tick and subchannel. -/
def insertPast (x : PastByte) : List PastByte → List PastByte
  | [] => [x]
  | y :: r => if y.after x.tick x.ord then x :: y :: r else y :: insertPast x r

/-- The first noted write of key `k` after tick `t` and subchannel `o` found the value `v`. -/
def patchPast (t o k : Nat) (v : Byte) : List PastByte → List PastByte
  | [] => []
  | y :: r => if y.key == k && y.after t o then { y with old := v } :: r else y :: patchPast t o k v r

/-- What the first noted write of key `k` after tick `t` and subchannel `o` found there. -/
def pastOld (l : List PastByte) (t o k : Nat) : Option Byte := (l.find? fun x => x.key == k && x.after t o).map (·.old)

/-- One byte written by an agent at tick `e` for subchannel `o`: the view, and the shadow's old value, which includes every write but
the last instruction's own. A write of a later tick that is already there prevails (R11, R26, R28, R81, R312). -/
def agentByte (st : Stall) (e o a : Nat) (v : Byte) : Stall :=
  if isRam st.cls a || (stamped a && writable st.cls a) then
    let k := keyOf st.mem st.cls a
    let attr := if isRam st.cls a then none else regByte st.cls a
    let st := markDirty st k
    match pastOld st.shadow.past e o k with
    | some old =>
      let past := insertPast ⟨e, o, k, old⟩ (patchPast e o k (maskedByte attr old v) st.shadow.past)
      { st with shadow := { st.shadow with past } }
    | none =>
      let own := lookupN k st.shadow.bytes
      let past := insertPast ⟨e, o, k, own.getD (Memory.get st.mem k)⟩ st.shadow.past
      let bytes : List (Nat × Byte) := st.shadow.bytes.map fun p => if p.1 == k then (p.1, maskedByte attr p.2 v) else p
      { st with mem := if own.isSome && decide (e + 1 < st.tick) then st.mem else putView st.cls st.mem a v
                shadow := { st.shadow with bytes, past } }
  else st

def agentBytes : Stall → Nat → Nat → Nat → Bytes → Stall
  | st, _, _, _, [] => st
  | st, e, o, a, b :: bs => agentBytes (agentByte st e o (a % 2 ^ 24) b) e o (a + 1) bs

/-- Settle the line match and the SND tick below tick `e` where an agent's write reaches their registers (R194, R276). -/
def settleAgent (st : Stall) (e a n : Nat) : Stall :=
  if (upto n).any fun i => touchesSources ((a + i) % 2 ^ 24) then settleSnd (settleLm st e) e else st

/-- A write by an agent of source `src` for subchannel `o`, 8 for an agent of none, at access tick `e`, with its block stamp entries
(R26, R30). -/
def agentWrite (st : Stall) (src e o a : Nat) (bs : Bytes) : Stall :=
  addStamps (agentBytes (settleAgent st e a bs.length) e o a bs) (agentStamps st.cls e src a bs)

/-- The channel status area of a post (R317). -/
def statusArea (i : Nat) (x : Sub) (p : Post) (tick : Nat) : Bytes :=
  leBytes 1 p.code ++ leBytes 1 p.flags ++ leBytes 1 x.dev ++ leBytes 1 i ++ leBytes 3 p.baddr ++ [0] ++
    leBytes 2 p.resid ++ leBytes 2 x.seq ++ leBytes 4 tick

/-- HOD_CFG and HOD_CSA of a subchannel (R333). -/
def hodCfg (st : Stall) (i : Nat) : Nat := st.word (0x24020A + 32 * i)
def hodCsa (st : Stall) (i : Nat) : Nat := st.word (0x240206 + 32 * i) + st.word (0x240208 + 32 * i) % 256 * 65536
def hodProg (st : Stall) (i : Nat) : Nat := st.word (0x240202 + 32 * i) + st.word (0x240204 + 32 * i) % 256 * 65536

/-- The access tick of an agent access that a locked sequence may move (R89); none while the sequence is in progress. -/
def lockedTick (st : Stall) (e : Nat) : Option Nat :=
  if st.cpu.lockFrom ≤ e ∧ 0 < st.cpu.lock then none
  else if st.cpu.lockFrom ≤ e ∧ e < st.cpu.lockEnd then some st.cpu.lockEnd
  else some e

/-- Agent effects in order of tick, then of subchannel, later ones after equal ones (R312). -/
def pendLe (x y : Pend) : Bool := decide (x.tick < y.tick) || (x.tick == y.tick && decide (x.ord ≤ y.ord))

def insertPend (x : Pend) : List Pend → List Pend
  | [] => [x]
  | y :: r => if pendLe y x then y :: insertPend x r else x :: y :: r

/-- A subchannel once it has made a post at a tick (R317, R322). -/
def Sub.posted (x : Sub) (p : Post) (tick : Nat) : Sub :=
  { x with code := p.code, resid := p.resid % 65536, baddr := p.baddr, dev := p.dev ||| (2 * b2n x.overrun), seq := (x.seq + 1) % 65536
           overrun := false, postAt := tick + 1, prevAt := x.postAt }

/-- Make a post of subchannel i at tick P: registers, HOD_PEND, line HOD at P + 1, and the write of the status area, which a locked
sequence, a full stamp queue or a failed translation holds back; `entered` where its stamp entries are in the queue (R29, R89, R309,
R317, R321, R322). -/
def makePost (st : Stall) (i : Nat) (p : Post) (tick : Nat) (entered : Bool) : Stall :=
  let x := (st.sub i).posted p tick
  let st := devSetBit (st.setSub i x) aPEND i
  let bs := statusArea i x p tick
  let st := if bitAt (hodCfg st i) 2 then
      { st with pend := insertPend { tick, ord := i, src := 1, addr := hodCsa st i, data := bs, state := none, post := none, entered } st.pend }
    else st
  if bitAt (hodCfg st i) 0 then assertLine st 5 (tick + 1) else st

/-- Apply one agent effect. -/
def applyPend (st : Stall) (p : Pend) : Stall :=
  let st := if p.data.isEmpty then st
    else if p.entered then agentBytes (settleAgent st p.tick p.addr p.data.length) p.tick p.ord p.addr p.data
    else agentWrite st p.src p.tick p.ord p.addr p.data
  let st := match p.state with
    | some v => st.setSub p.ord { st.sub p.ord with state := v }
    | none => st
  match p.post with
  | some q => makePost st p.ord q p.tick p.entered
  | none => st

/-- A write of memory at a tick inside the last locked sequence stands at the tick after it, once it has ended (R89). -/
def releasePend (st : Stall) (p : Pend) : Pend := if p.data.isEmpty then p else { p with tick := (lockedTick st p.tick).getD p.tick }

/-- A write of memory that the locked sequence in progress holds back (R89). -/
def pendHeld (st : Stall) (p : Pend) : Bool := !p.data.isEmpty && (lockedTick st p.tick).isNone

/-- The agent effects still to come, in order. -/
def pendNow (st : Stall) : List Pend := st.pend.foldl (fun l p => insertPend (releasePend st p) l) []

/-- The index is that of the PROG region, of work RAM, or of the cartridge table's entries, which follow 0x2000 here (R370, R373). -/
def inPROG (i : Nat) : Bool := inRange 0x1000 0x1800 i
def inWorkRAM (i : Nat) : Bool := decide (i < 0x200)
def inCART (i : Nat) : Bool := decide (0x2000 ≤ i)

/-- The checks of R372 on a page-table entry: 0 where all pass, else the kind in the code of MEM_XFAULT. -/
def pteKind (index entry : Nat) (write fetch : Bool) : Nat :=
  let b (n : Nat) : Bool := bitAt entry n
  if field entry 8 4 != 0 || field entry 36 28 != 0 || decide (0xC00000 ≤ field entry 12 24) || (b 2 && !inPROG index) ||
      (b 3 && b 1) || (b 4 && (!inWorkRAM index || b 1 || !b 3)) || ((b 5 || b 7) && b 3) then 4
  else if !b 0 then 1
  else if fetch && !b 2 then 3
  else if write && b 4 then 2
  else if write && !b 1 then 4
  else 0

/-- An access that selects entry `i` of the stall's table, or of its title's cartridge table, fails its checks; what firmware has
mapped as its records say passes them (R372). -/
def Stall.entryFails (st : Stall) (i : Nat) (write fetch : Bool) : Bool :=
  match lookupN i st.pt with
  | some e => pteKind i e write fetch != 0
  | none => false

/-- The entry that an access to a data address selects, where it is translated (R370 – R373). -/
def entryOf (st : Stall) (a : Nat) : Option Nat :=
  let k := keyOf st.mem st.cls a
  if 0x400000 ≤ a then (if a < 0x1000000 then some (0x2000 + cartOffset st a / 4096) else none)
  else if translatedKey k && isRam st.cls a then some (pteIndex k) else none

/-- The entries that the bytes of a range select. -/
def entriesOf (st : Stall) (a n : Nat) : List Nat := (upto n).filterMap fun i => entryOf st ((a + i) % 2 ^ 24)

/-- The translation of a byte that a write of a range reaches fails; writes to the cartridge window are ignored (R321, R372). -/
def rangeFaulted (st : Stall) (a n : Nat) : Bool :=
  !st.pt.isEmpty && (entriesOf st a n).any fun i => !inCART i && st.entryFails i true false

/-- The translation of a byte that a read of a range takes fails (R352, R372, R373). -/
def readFaulted (st : Stall) (a n : Nat) : Bool := !st.pt.isEmpty && (entriesOf st a n).any fun i => st.entryFails i false false

/-- The entries of a range carry A from a translated access on (R372, R377). -/
def Stall.accessed (st : Stall) (a n : Nat) : Stall := { st with acc := (entriesOf st a n).foldl (fun l i => addNew i l) st.acc }

/-- The stamp entries that a write of memory by an agent effect makes, but for those already in the queue. -/
def pendEnts (st : Stall) (p : Pend) : List Stamp :=
  if p.data.isEmpty || p.entered then [] else agentStamps st.cls p.tick p.src p.addr p.data

/-- The data addresses that a list of writes touches. -/
def touched (wrs : List (Nat × Bytes)) : List Nat := wrs.flatMap fun p => (upto p.2.length).map fun i => (p.1 + i) % 2 ^ 24

/-- A write lies on a page whose checkpoint copy is pending (R377). -/
def copyPending (st : Stall) (wrs : List (Nat × Bytes)) : Bool :=
  (touched wrs).any fun a =>
    let k := keyOf st.mem st.cls a
    writable st.cls a && translatedKey k && st.copying.contains (pteIndex k)

/-- An agent effect may be applied: its stamp entries find room, no translation of its bytes has failed, and no checkpoint copy
of their pages is pending (R29, R161, R321, R377). -/
def pendMay (st : Stall) (p : Pend) : Bool :=
  stampRoom st (pendEnts st p) && !rangeFaulted st p.addr p.data.length && !copyPending st [(p.addr, p.data)]

/-- Apply agent effects in order up to one that must wait; it and what follows stay pending (R29, R312, R321). -/
def applyDue : List Pend → Stall → Stall
  | [], st => st
  | p :: r, st => if pendMay st p then applyDue r (applyPend st p)
                  else { st with pend := (p :: r).foldl (fun l q => insertPend q l) st.pend }

/-- Apply every agent effect whose tick lies below `t`. -/
def flushOnce (st : Stall) (t : Nat) : Stall :=
  let l := pendNow st
  let due (p : Pend) : Bool := decide (p.tick < t) && !pendHeld st p
  applyDue (l.filter due) { st with pend := l.filter fun p => !due p }

/-- An agent effect that TICK has passed waits: the stall is held (R29, R321). -/
def pendStuck (st : Stall) : Bool := st.pend.any fun p => decide (p.tick < st.tick) && !pendHeld st p

/-- Apply them, and then the status areas of their posts. -/
def flushBelow (st : Stall) (t : Nat) : Stall := if st.pend.isEmpty then st else flushOnce (flushOnce st t) t

/-- Fix an agent effect; it is applied at once where TICK has passed its tick (R313). -/
def addPend (st : Stall) (p : Pend) : Stall := flushBelow { st with pend := insertPend p st.pend } st.tick

/-- Set a raster-derived register as the dot with first tick `s` leaves it; the value before is noted while the instruction in which
the dot lies is the last (R193, R575). -/
def rasSet (st : Stall) (s a v : Nat) : Stall :=
  let note (l : List PastByte) (j : Nat) : List PastByte := if st.last ≤ s + 1 then insertPast ⟨s, 9, a + j, Memory.get st.mem (a + j)⟩ l else l
  { st with mem := Memory.setBytes st.mem a (leBytes 2 v), shadow := { st.shadow with past := note (note st.shadow.past 0) 1 } }

/-- Add what a dot has found to VID_COLL or VID_STAT: SPR takes a number where VID_COLL held no collision, OVFSPR where it holds
none since its last clear (R186, R191). -/
def noteMark (st : Stall) (m : RasMark) : Stall :=
  if m.ovf then
    let old := st.word aSTAT ||| 1
    let v := if st.ras.ovfHeld then old else putField old 8 7 m.num
    let st := if v = st.word aSTAT then st else rasSet st m.tick aSTAT v
    { st with ras := { st.ras with ovfHeld := true } }
  else
    let old := st.word aCOLL
    let held := bitAt old 0 || bitAt old 1
    let v := old ||| b2n m.ss ||| (2 * b2n m.sl)
    let v := if held then v else putField v 8 7 m.num
    if v = old then st else rasSet st m.tick aCOLL v

/-- What the dots below tick `t` have found enters the registers (R31, R193). -/
def passMarks (st : Stall) (t : Nat) : Stall :=
  if st.ras.ahead.isEmpty then st
  else
    let due := st.ras.ahead.filter fun m => decide (m.tick < t)
    due.foldl noteMark { st with ras := { st.ras with ahead := st.ras.ahead.filter fun m => !decide (m.tick < t) } }

/-- A dot has found something: at once where TICK has passed it, since reads below it must not see it otherwise (R193). -/
def addMark (st : Stall) (m : RasMark) : Stall :=
  if m.tick < st.tick then noteMark st m else { st with ras := { st.ras with ahead := st.ras.ahead ++ [m] } }

/-- The stall's memory as a read of subchannel `ord` at a tick `e` below TICK finds it: the last instruction's writes and what came
at or after `e` left out (R312). -/
def Stall.asOf (st : Stall) (ord e : Nat) : Stall :=
  if e < st.tick then
    let m := st.shadow.bytes.foldl (fun m p => Memory.set m p.1 p.2) st.mem
    { st with mem := (st.shadow.past.filter fun x => x.after e ord).foldr (fun x m => Memory.set m x.key x.old) m }
  else st

/-- The stall as an agent read of subchannel `ord` with access tick `e` sees it (R312, R575). -/
def agentView (st : Stall) (ord e : Nat) : Stall :=
  let due := (pendNow st).filter fun p => decide (p.tick < e) || (p.tick == e && decide (p.ord ≤ ord))
  let v := due.foldl applyPend { st with pend := [] }
  let v := (pendNow v).foldl applyPend { v with pend := [] }
  (passMarks v e).asOf ord e

/-- An agent effect that is to be seen by a dot or sample with first tick `s` and is not yet in the stamp queue (R26, R27). -/
def pendAhead (st : Stall) (s : Nat) (p : Pend) : Bool :=
  !p.entered && decide ((releasePend st p).tick < s) && !pendHeld st p

/-- The stamp entries of such an effect, with those of a post's status area. -/
def aheadEnts (st : Stall) (p : Pend) : List Stamp :=
  pendEnts st (releasePend st p) ++ match p.post with
    | some q =>
      if bitAt (hodCfg st p.ord) 2 then
        agentStamps st.cls p.tick 1 (hodCsa st p.ord) (statusArea p.ord ((st.sub p.ord).posted q p.tick) q p.tick)
      else []
    | none => []

/-- Enter into the stamp queue the entries of agent effects fixed below tick `s` that still stand pending, where there is room, so that
the dot or sample at `s` is made with them (R26, R27, R178). -/
def enterAhead (st : Stall) (s : Nat) : Stall :=
  if st.pend.isEmpty then st
  else
    let l := st.pend.filter (pendAhead st s)
    let es := l.flatMap (aheadEnts st)
    if stampRoom st es then addStamps { st with pend := st.pend.map fun p => if pendAhead st s p then { p with entered := true } else p } es
    else st

/-- What follows an advance of TICK: raster results, agent effects and collision assertions that it has passed. -/
def afterTick (st : Stall) : Stall := applyColl (flushBelow (passMarks st st.tick) st.tick)

/-- Render-view page entries that a stamp entry touches. -/
def renderPages (c : BeamClass) (m : Mem) (x : Stamp) : List Nat :=
  (upto x.data.length).filterMap fun i =>
    let a := (x.addr + i) % 2 ^ 24
    let k := keyOf m c a
    if stamped a && writable c a && translatedKey k then some (pteIndexR k) else none

/-- Mark the render-view pages that a stamp entry writes (R377). -/
def markRender (c : BeamClass) (m : Mem) (x : Stamp) (dirty : List Nat) : List Nat :=
  (renderPages c m x).foldl (fun l p => addNew p l) dirty

/-- Apply one stamp entry to the render view (R27, R374). -/
def renderWrite (c : BeamClass) (m : Mem) : Nat → Bytes → Mem
  | _, [] => m
  | a, b :: bs => renderWrite c (if stamped (a % 2 ^ 24) && writable c (a % 2 ^ 24) then putView c m (a % 2 ^ 24) b else m) (a + 1) bs

end Sys2Proof.Machine
end

