-- ==== Sys2Proof/Machine/Voice.lean ====
section
/-! DEFINITION. The voice engines on one stall: key events, ADPCM, envelopes, voice playback and the game mix, sample by
sample (R267, R270 – R275, R278). -/
namespace Sys2Proof.Machine

/-- Clamp to 16 bits signed (R275). -/
def sat16 (x : Int) : Int := max (-32768) (min 32767 x)

/-- A word and a byte of the sound registers in the render view. -/
def sndWord (st : Stall) (a : Nat) : Nat := Memory.getLE st.rview a 2

/-- A byte of sound RAM in the render view (R272). -/
def sndRam (st : Stall) (o : Nat) : Nat := (Memory.get st.rview (0x230000 + o % 0x10000)).toNat

/-- The key event of a write that includes byte 0 of SND_VCTLv (R270). -/
def keyEvent (v : Voice) (key : Bool) : Voice :=
  if key then { v with p := 0, e := 0, phase := .attack, h1 := 0, h2 := 0, last := -1 }
  else match v.phase with
    | .attack | .decay | .sustain => { v with phase := .release }
    | _ => v

/-- Apply a sound entry: its bytes, and a key event for each SND_VCTL byte 0 it writes (R267, R270). -/
def applySound (st : Stall) (x : Stamp) : Stall :=
  let rv := renderWrite st.cls st.rview x.addr x.data
  let vs := (st.voices.zipIdx).map fun p =>
    let a := 0x220000 + 16 * p.2
    if x.addr ≤ a ∧ a < x.addr + x.data.length then keyEvent p.1 (bitAt (nthD x.data (a - x.addr) 0).toNat 0) else p.1
  { st with rview := rv, voices := vs, dirty := markRender st.cls st.rview x st.dirty }

/-- Entries of the voice engines (R267). -/
def soundEntry (x : Stamp) : Bool := decide (0x220000 ≤ x.addr)

/-- Apply every sound entry stamped below `s` (R27, R267). -/
def applySounds (st : Stall) (s : Nat) : Stall :=
  let due := st.stamps.filter fun x => soundEntry x && decide (x.tick < s)
  let st := { st with stamps := st.stamps.filter fun x => !(soundEntry x && decide (x.tick < s)) }
  due.foldl applySound st

/-- Decode ADPCM codes `j`, `j + 1`, … of the block at `blk` (R273). -/
def adpcmRun (st : Stall) (blk : Nat) : Nat → Nat → Int → Int → Int × Int
  | 0, _, h1, h2 => (h1, h2)
  | n + 1, j, h1, h2 =>
    let mode := sndRam st (blk + 2)
    let sh := min 12 (mode % 16)
    let byte := sndRam st (blk + 4 + j / 2)
    let code := toSigned 4 (if j % 2 = 0 then byte else byte / 16)
    let q := code * ((2 ^ sh : Nat) : Int)
    let s := match field mode 4 2 with
      | 1 => h1 + q
      | 2 => 2 * h1 - h2 + q
      | _ => q
    adpcmRun st blk n (j + 1) (sat16 s) h1

/-- fetch(k): the sample and the decoder state after it (R272, R273). -/
def fetchSample (st : Stall) (i : Nat) (v : Voice) (k : Nat) : Int × Voice :=
  let ctl := sndWord st (0x220000 + 16 * i)
  let start := sndWord st (0x220002 + 16 * i)
  match field ctl 2 2 with
  | 0 => (toSigned 8 (sndRam st (start + k)) * 256, v)
  | 1 => (toSigned 16 (sndRam st (start + 2 * k) + 256 * sndRam st (start + 2 * k + 1)), v)
  | 2 =>
    let b := k / 32
    let blk := start + 20 * b
    let seed := toSigned 16 (sndRam st blk + 256 * sndRam st (blk + 1))
    let cont := decide (((32 * b : Nat) : Int) ≤ v.last) && decide (v.last < (k : Int))
    let from_ := if cont then v.last.toNat + 1 - 32 * b else 0
    let (h1, h2) := if cont then (v.h1, v.h2) else (seed, seed)
    let (h1, h2) := adpcmRun st blk (k % 32 + 1 - from_) from_ h1 h2
    (h1, { v with h1, h2, last := k })
  | _ => (0, v)

/-- One envelope step (R274). -/
def envelope (env : Nat) (v : Voice) : Voice :=
  let slv := field env 8 4 * 2047 / 15
  match v.phase with
  | .attack =>
    let e := min (v.e + (2048 - v.e) / 2 ^ (env % 16) + 1) 2047
    { v with e, phase := if e = 2047 then .decay else .attack }
  | .decay =>
    let e := max ((v.e : Int) - (((v.e : Int) - (slv : Int)) / ((2 ^ field env 4 4 : Nat) : Int) + 1)) (slv : Int)
    { v with e := e.toNat, phase := if e = slv then .sustain else .decay }
  | .release =>
    let e := v.e - (v.e / 2 ^ field env 12 4 + 1)
    { v with e, phase := if e = 0 then .off else .release }
  | _ => v

/-- The end test (R271). -/
def endTest (st : Stall) (i : Nat) (v : Voice) : Voice :=
  let len := sndWord st (0x220004 + 16 * i)
  let lofs := sndWord st (0x220006 + 16 * i)
  if len ≤ v.p / 4096 then
    if bitAt (sndWord st (0x220000 + 16 * i)) 1 ∧ lofs < len then { v with p := v.p - (len - lofs) * 4096 }
    else { v with phase := .off }
  else v

/-- Voice i for one beam sample (R271). -/
def voiceStep (st : Stall) (i : Nat) (v0 : Voice) : Voice :=
  let v := if v0.phase = .off then v0 else endTest st i v0
  let (out, v) :=
    if v.phase = .off then (0, v)
    else
      let v := envelope (sndWord st (0x22000C + 16 * i)) v
      let off := decide (v.phase = .off)
      let (x, v) := fetchSample st i v (v.p / 4096)
      let v := endTest st i { v with p := (v.p + sndWord st (0x220008 + 16 * i)) % 2 ^ 32 }
      (if off then 0 else (x * (v.e : Int)) / 2048, v)
  let vol := sndWord st (0x22000A + 16 * i)
  { v with vl := out * (vol % 256 : Nat) / 128, vr := out * (vol / 256 : Nat) / 128 }

/-- The game mix (R275). -/
def gameMix (st : Stall) : Int × Int :=
  let mv := sndWord st 0x220082
  let l := st.voices.foldl (fun a v => a + v.vl) 0
  let r := st.voices.foldl (fun a v => a + v.vr) 0
  if bitAt (sndWord st 0x220080) 0 then
    (sat16 (l * (mv % 256 : Nat) / 128), sat16 (r * (mv / 256 : Nat) / 128))
  else (0, 0)

/-- The sound writes below tick `s` applied, with those of agents that still stand pending in their place (R26, R28, R267). -/
def soundsTo (st : Stall) (s : Nat) : Stall :=
  let t := (st.pend.filter (pendAhead st s)).foldl (fun m p => min m (releasePend st p).tick) s
  applySounds (enterAhead (applySounds st t) s) s

/-- One beam sample (R267): apply the sound writes below its first tick, compute the voices, form the mix. -/
def beamSample (st : Stall) : Stall :=
  let st := soundsTo st (st.spos * tps st.cls)
  let st := { st with voices := (st.voices.zipIdx).map fun p => voiceStep st p.2 p.1 }
  let (l, r) := gameMix st
  { st with spos := st.spos + 1, mixL := l, mixR := r }

end Sys2Proof.Machine
end

