-- ==== Sys2Proof/Machine/Graph.lean ====
section
/-! DEFINITION. Routing graphs, safe-load checks, ramps and the rate bridges of an audio lane (R280 – R287, R289). -/
namespace Sys2Proof.Machine

/-- A stereo pair of a lane signal. -/
abbrev Pair := Int × Int

/-- Saturate a node result to 24 bits (R281). -/
def sat24 (x : Int) : Int := max (-8388608) (min 8388607 x)

def pairMap (f : Int → Int) (p : Pair) : Pair := (f p.1, f p.2)

/-- A node of 24 bytes (R280). -/
def GNode.ofBytes (b : Bytes) : GNode :=
  { ty := leAt b 0 1, rsvd := leAt b 1 1 + leAt b 6 2, ins := (upto 4).map fun k => leAt b (2 + k) 1, param := sliceBytes b 8 16 }

/-- A graph copy from its bytes (R280). -/
def Graph.ofBytes (b : Bytes) : Graph :=
  { img := b, nodes := (upto (min 32 (leAt b 0 1))).map fun j => GNode.ofBytes (sliceBytes b (16 + 24 * j) 24)
    nNodes := leAt b 0 1, out := leAt b 1 1, route := leAt b 2 1
    rsvd := (upto 13).any fun k => leAt b (3 + k) 1 != 0 }

/-- Used inputs of a node, from IN0 upwards. -/
def GNode.used (n : GNode) : Nat := (n.ins.takeWhile fun x => x != 0xFF).length

/-- Cost of a node (R281). -/
def GNode.cost (n : GNode) : Nat :=
  match n.ty with
  | 1 => 1 | 2 => 1 | 3 => 2 | 4 => n.used | 5 => 10 | 6 => 2 | 7 => 1 | _ => 0

/-- Cost of a graph; ROUTE = FIXED costs 0 (R281). -/
def Graph.cost (g : Graph) : Nat := if g.route = 1 then g.nodes.foldl (fun n x => n + x.cost) 0 else 0

/-- The cost budget per beam sample (R282). -/
def graphBudget : BeamClass → Nat
  | .L => 48 | .X => 96 | .N => 192

/-- Parameter bytes a type uses (R281). -/
def paramBytes : Nat → Nat
  | 1 => 1 | 3 => 4 | 5 => 10 | 6 => 2 | _ => 0

/-- The inputs a type needs: least and most (R281). -/
def inputRange : Nat → Nat × Nat
  | 1 => (0, 0) | 2 => (0, 0) | 4 => (2, 4) | _ => (1, 1)

/-- The safe-load check of R284, in the order of its table from NODES on: 0 accepted. -/
def Graph.check (g : Graph) : Nat :=
  if 32 < g.nNodes ∨ g.rsvd ∨ 1 < g.route then 3
  else if g.route = 0 then (if 0 < g.nNodes ∧ g.nNodes ≤ g.out then 6 else 0)
  else
    let ns := g.nodes.zipIdx
    if g.nodes.any fun n => !(decide (1 ≤ n.ty) && decide (n.ty ≤ 7)) then 4
    else if ns.any fun p =>
        let u := p.1.used
        let (lo, hi) := inputRange p.1.ty
        u < lo || hi < u || (p.1.ins.drop u).any (fun x => x != 0xFF) || (p.1.ins.take u).any fun x => decide (p.2 ≤ x) then 5
    else if 0 < g.nNodes ∧ g.nNodes ≤ g.out then 6
    else if g.nodes.any fun n =>
        n.rsvd != 0 || (n.param.drop (paramBytes n.ty)).any (fun b => b != 0) || (n.ty == 1 && decide (7 < leAt n.param 0 1)) ||
          (n.ty == 6 && decide (32767 < leAt n.param 0 2)) then 7
    else 0

/-- A signed Q2.14 parameter. -/
def q14 (n : GNode) (k : Nat) : Int := toSigned 16 (leAt n.param (2 * k) 2)

/-- One BIQUAD channel: output and new state x1, x2, y1, y2 (R281). -/
def biquadStep (n : GNode) (x0 : Int) (s : List Int) : Int × List Int :=
  let x1 := nthD s 0 0
  let x2 := nthD s 1 0
  let y1 := nthD s 2 0
  let y2 := nthD s 3 0
  let y := sat24 ((q14 n 0 * x0 + q14 n 1 * x1 + q14 n 2 * x2 - q14 n 3 * y1 - q14 n 4 * y2) / 16384)
  (y, [x0, x1, y, y1])

/-- The output of a node given the outputs of lower nodes, and its new BIQUAD state (R281). -/
def nodeOut (voices : List Voice) (game : Pair) (outs : List Pair) (n : GNode) (s : Biquad) : Pair × Biquad :=
  let inp (k : Nat) : Pair := nthD outs (nthD n.ins k 255) (0, 0)
  match n.ty with
  | 1 =>
    let v := nthD voices (leAt n.param 0 1) .reset
    ((v.vl, v.vr), s)
  | 2 => (game, s)
  | 3 => ((sat24 ((inp 0).1 * q14 n 0 / 16384), sat24 ((inp 0).2 * q14 n 1 / 16384)), s)
  | 4 =>
    let t := (upto n.used).foldl (fun (a : Pair) k => (a.1 + (inp k).1, a.2 + (inp k).2)) (0, 0)
    (pairMap sat24 t, s)
  | 5 =>
    let (l, sl) := biquadStep n (inp 0).1 s.l
    let (r, sr) := biquadStep n (inp 0).2 s.r
    ((l, r), { l := sl, r := sr })
  | 6 =>
    let t : Int := (leAt n.param 0 2 : Nat)
    (pairMap (fun x => max (-t) (min t x)) (inp 0), s)
  | _ =>
    let m := ((inp 0).1 + (inp 0).2) / 2
    ((m, m), s)

/-- Run the nodes in order (R281). -/
def runNodes (voices : List Voice) (game : Pair) : List GNode → Nat → List Pair → List (Nat × Biquad) → List Pair × List (Nat × Biquad)
  | [], _, outs, st => (outs, st)
  | n :: ns, j, outs, st =>
    let (o, b) := nodeOut voices game outs n ((lookupN j st).getD { l := [], r := [] })
    runNodes voices game ns (j + 1) (outs ++ [o]) (if n.ty = 5 then insertN j b st else st)

/-- The output of a graph for one beam sample: the fixed path where ROUTE is FIXED or its cost exceeds the budget (R282,
R283). -/
def graphOut (c : BeamClass) (voices : List Voice) (game : Pair) (g : Graph) (st : List (Nat × Biquad)) :
    Pair × List (Nat × Biquad) :=
  if g.route = 0 ∨ graphBudget c < g.cost then (game, st)
  else
    let (outs, st) := runNodes voices game g.nodes 0 [] st
    (if g.nNodes = 0 then (0, 0) else pairMap sat16 (nthD outs g.out (0, 0)), st)

/-- The state that a new copy's BIQUAD nodes start from: kept where index, TYPE and inputs agree (R285). -/
def carryState (old new : Graph) (st : List (Nat × Biquad)) : List (Nat × Biquad) :=
  st.filter fun p =>
    match old.nodes[p.1]?, new.nodes[p.1]? with
    | some a, some b => a.ty == 5 && b.ty == 5 && a.ins == b.ins
    | _, _ => false

/-- The ramp between old and new at sample j (R286). -/
def rampMix (j : Nat) (old new : Int) : Int := (old * (64 - (j : Int)) + new * j + 32) / 64

/-- The graph copies of a lane: active and inactive. -/
def Lane.activeG (l : Lane) : Graph := if l.active = 0 then l.g0 else l.g1
def Lane.otherG (l : Lane) : Graph := if l.active = 0 then l.g1 else l.g0
def Lane.activeSt (l : Lane) : List (Nat × Biquad) := if l.active = 0 then l.st0 else l.st1
def Lane.setActiveSt (l : Lane) (s : List (Nat × Biquad)) : Lane := if l.active = 0 then { l with st0 := s } else { l with st1 := s }
def Lane.otherSt (l : Lane) : List (Nat × Biquad) := if l.active = 0 then l.st1 else l.st0
def Lane.setOtherSt (l : Lane) (s : List (Nat × Biquad)) : Lane := if l.active = 0 then { l with st1 := s } else { l with st0 := s }

/-- The swap sample: the new copy applies at once (R285, R286). -/
def swapNow (c : BeamClass) (l : Lane) : Lane :=
  let new := l.otherG
  let keep := carryState l.activeG new l.activeSt
  let l := { (l.setOtherSt keep) with active := 1 - l.active, graphCost := new.cost
                                      fallback := new.route == 1 && decide (graphBudget c < new.cost), applied := l.gpos }
  if l.swapRamp then { l with swapState := 2, rampJ := 1 } else { l with swapState := 0, rampJ := 0 }

/-- Route one beam sample (R282, R286): the lane input is kept for the bridge. -/
def routeSample (c : BeamClass) (voices : List Voice) (game : Pair) (l : Lane) : Lane :=
  let (o, st) := graphOut c voices game l.activeG l.activeSt
  let l := l.setActiveSt st
  let (y, l) :=
    if l.swapState = 2 then
      let (p, st2) := graphOut c voices game l.otherG l.otherSt
      let l := l.setOtherSt st2
      let j := l.rampJ
      ((rampMix j p.1 o.1, rampMix j p.2 o.2),
        if j = 64 then { l with swapState := 0, rampJ := 0 } else { l with rampJ := j + 1 })
    else (o, l)
  { l with x := insertN l.gpos y l.x, gpos := l.gpos + 1 }

/-! ### Rate bridges (R287) -/

/-- x[i] of the lane input, 0 below 0; none where it has not been routed. -/
def laneX (l : Lane) (i : Int) : Option Pair :=
  if i < 0 then some (0, 0) else lookupN i.toNat l.x

/-- The Class X and N filter y[i]. -/
def laneY (l : Lane) (i : Int) : Option Pair :=
  match laneX l (i - 3), laneX l (i - 1), laneX l i, laneX l (i + 1), laneX l (i + 3) with
  | some a, some b, some c, some d, some e =>
    let f (s : Pair → Int) : Int := (-(s a) + 9 * s b + 16 * s c + 9 * s d - s e) / 32
    some (f (·.1), f (·.2))
  | _, _, _, _, _ => none

/-- Stream sample m, none where the bridge needs an input not yet routed. -/
def bridge (c : BeamClass) (l : Lane) (m : Nat) : Option Pair :=
  match c with
  | .L =>
    let i := 33 * m / 50
    let f : Int := (33 * m % 50 : Nat)
    match laneX l i, (if f = 0 then some (0, 0) else laneX l (i + 1)) with
    | some a, some b => some ((a.1 * (50 - f) + b.1 * f + 25) / 50, (a.2 * (50 - f) + b.2 * f + 25) / 50)
    | _, _ => none
  | _ =>
    let i := 33 * m / 25
    let f : Int := (33 * m % 25 : Nat)
    match laneY l i, (if f = 0 then some (0, 0) else laneY l (i + 1)) with
    | some a, some b => some (sat16 ((a.1 * (25 - f) + b.1 * f + 12) / 25), sat16 ((a.2 * (25 - f) + b.2 * f + 12) / 25))
    | _, _ => none

/-- One output sample: game and operator gains (R289). -/
def laneMix (l : Lane) (b op : Pair) : Pair :=
  let g := toSigned 16 l.gameGain
  let o := toSigned 16 l.opGain
  (sat16 ((b.1 * g + op.1 * o) / 16384), sat16 ((b.2 * g + op.2 * o) / 16384))

/-- L16 payload of a frame (R290). -/
def l16Bytes (channels : Nat) (ps : List Pair) : Bytes :=
  ps.flatMap fun p =>
    if channels = 1 then beBytes 2 (ofSigned 16 ((p.1 + p.2) / 2)) else beBytes 2 (ofSigned 16 p.1) ++ beBytes 2 (ofSigned 16 p.2)

end Sys2Proof.Machine
end

