-- ==== Sys2Proof/Machine/Operands.lean ====
section
/-! DEFINITION. Operand forms: effective addresses, pointer updates, shadowed reads, split accesses, banks (R50, R51,
R55, R57, R58, R66, R81, R82, R92). -/
namespace Sys2Proof.Machine

/-- What an instruction reads through: the stall at its start, its start tick, CAD_TIME, the cartridge image, and the
pointer updates it has made so far. -/
structure Env where
  st   : Stall
  t    : Nat
  time : Nat
  cart : Bytes
  ov   : List (Nat × Byte)
  ptr  : List (Nat × Bytes)   -- pointer updates to be written, in order
  reads : List Nat            -- data addresses read
  splits : Nat
  accs  : List (Nat × Nat) := []  -- the reads as accesses: address and length (R129)

/-- The environment of an instruction at the stall's TICK. -/
def Env.start (st : Stall) (time : Nat) (cart : Bytes) : Env :=
  { st, t := st.tick, time, cart, ov := [], ptr := [], reads := [], splits := 0 }

/-- One byte as the instruction sees it: its own pointer updates, then the shadow, then the view (R58, R81).
DEDUCED (unsafe, log entry 108): a user opcode’s LDO or LDM of a pointer cell that its own operand updated reads the updated value, by
the last sentence of R58; R117 names as its only exception to the start-tick state a write of an earlier micro-op. -/
def Env.byte (e : Env) (a : Nat) : Byte :=
  let a := a % 2 ^ 24
  match lookupN a e.ov with
  | some b => b
  | none =>
    if e.st.cpu.shadowOff then readView e.cart e.st e.time e.t a
    else match lookupN (keyOf e.st.mem e.st.cls a) e.st.shadow.bytes with
      | some b => if (computedByte e.st e.time e.t a).isSome then readView e.cart e.st e.time e.t a else b
      | none => readView e.cart e.st e.time e.t a

/-- `n` bytes, addresses wrapping. -/
def Env.bytes (e : Env) (a : Nat) : Nat → Bytes
  | 0 => []
  | n + 1 => e.byte a :: Env.bytes e (a + 1) n

/-- Note an access of `n` bytes that is a read. -/
def Env.noteRead (e : Env) (a n : Nat) : Env :=
  { e with reads := e.reads ++ (upto n).map fun i => (a + i) % 2 ^ 24, accs := e.accs ++ [(a % 2 ^ 24, n)] }

/-- Note a split access where a word lies at an odd address (R92). -/
def Env.noteSplit (e : Env) (a : Nat) (words : Nat) : Env := if a % 2 = 1 then { e with splits := e.splits + words } else e

/-- Read a value of 1, 2 or 4 bytes, counted as accesses of bytes or words. -/
def Env.read (e : Env) (a n : Nat) : Nat × Env :=
  (ofLE (e.bytes a n), (e.noteRead a n).noteSplit a (n / 2))

/-- The address in pointer cell n (R50). -/
def Env.pointer (e : Env) (n : Nat) : Nat := ofLE (e.bytes (0x40 + 4 * n) 3)

/-- The bytes of a pointer cell that holds `v` (R50). -/
def cellBytes (v : Nat) : Bytes := leBytes 3 v ++ [0]

/-- Update a pointer cell; later reads of the instruction see the new value (R58). -/
def Env.setPointer (e : Env) (n v : Nat) : Env :=
  let a := 0x40 + 4 * n
  let bs := cellBytes (v % 2 ^ 24)
  { e with ov := (bs.zipIdx.map fun p => (a + p.2, p.1)) ++ e.ov, ptr := e.ptr ++ [(a, bs)] }

/-- The effective address of an operand, with its update applied; none for mode 4 (R55). -/
def Env.ea (e : Env) (size : Nat) (o : Operand) : Option Nat × Env :=
  let n := o.field / 128
  let m := field o.field 3 4
  let step := if o.field % 128 = 0 then size else o.field % 128
  match o.mode with
  | 0 => (some (o.field % 2048), e)
  | 1 => (some (((e.pointer n : Int) + toSigned 7 o.field) % (2 ^ 24 : Nat)).toNat, e)
  | 2 =>
    let p := e.pointer n
    (some p, e.setPointer n (p + step))
  | 3 =>
    let p := (e.pointer n + 2 ^ 24 - step) % 2 ^ 24
    (some p, e.setPointer n p)
  | 4 => (none, e)
  | 5 => (some (farAddr o), e)
  | 6 => (some ((e.pointer n + e.pointer m) % 2 ^ 24), e)
  | _ =>
    let p := e.pointer n
    (some p, e.setPointer n (p / 65536 * 65536 + revadd (p % 65536) (e.pointer m % 65536)))

/-- The effective addresses of all operands in order (R58 step 1). -/
def Env.eas (e : Env) (size : Nat) : List Operand → List (Option Nat) × Env
  | [] => ([], e)
  | o :: os =>
    let (a, e1) := e.ea size o
    let (as_, e2) := e1.eas size os
    (a :: as_, e2)

/-- The value of a mode 4 operand at a size (R55). -/
def immVal (size : Nat) (o : Operand) : Nat := ofSigned (8 * size) (immOf o)

/-- The value of a source operand whose effective address has been formed. -/
def Env.value (e : Env) (size : Nat) (o : Operand) : Option Nat → Nat × Env
  | none => (immVal size o, e)
  | some a => e.read a size

/-- The bank of an address: 0 X, 1 Y (R51). -/
def bankOf (a : Nat) : Nat := field a 12 1

/-- Both operands are memory operands in one bank (R73). -/
def sameBank : List (Option Nat) → Bool
  | some a :: some b :: _ => bankOf a == bankOf b
  | _ => false

/-- The accumulator that the next instruction sees (R81). -/
def Env.acc (e : Env) (i : Nat) : Nat :=
  let cpu := e.st.cpu
  let sh := e.st.shadow
  if i = 0 then (match sh.a0, cpu.shadowOff with | some v, false => v.toNat | _, _ => cpu.a0.toNat)
  else (match sh.a1, cpu.shadowOff with | some v, false => v.toNat | _, _ => cpu.a1.toNat)

end Sys2Proof.Machine
end

