-- ==== Sys2Proof/Machine/Cpu.lean ====
section
/-! DEFINITION. What one Pritum instruction computes and how its effects are committed: the operation of every opcode, the
micro-ops of user opcodes, cost, the frame of an entry and RETI (R58 – R79, R81 – R88, R95 – R99, R109 – R117). -/
namespace Sys2Proof.Machine

/-- What the title and the bound microcode set give a stall: program words, cartridge image, opcode entries, micro-ops. -/
structure Code where
  fetch : Nat → Nat
  cart  : Bytes
  ucs   : Nat → Option UEntry
  uop   : Nat → Nat

/-- What an instruction computes before it is committed. -/
structure Res where
  env   : Env
  wrs   : List (Nat × Bytes) := []   -- results in operand order
  sp    : Option Nat := none         -- the new P15 of PUSH, POP, CALL, RET, RETI (R66)
  pc    : Option Nat := none         -- where control goes, none: the next instruction
  flags : Nat
  ctl   : Nat
  rc    : Nat
  a0    : Option Nat := none
  a1    : Option Nat := none
  rep   : Option Nat := none         -- a repeat count that RPT latches or RETI restores
  lock  : Option Nat := none
  idle  : Idle := .none
  dz    : Bool := false              -- a division by zero happened
  swi   : Option Nat := none
  vec   : Option Nat := none         -- the VEC byte that RETI read
  skip  : Nat := 0                   -- words of the instruction skipped by RPT with count 0

/-- The result that changes nothing. -/
def Res.none (e : Env) : Res :=
  { env := e, flags := e.st.cpu.flags.toNat, ctl := e.st.cpu.ctl.toNat, rc := e.st.cpu.rc.toNat }

/-- Byte form (R54, R59). -/
def isByte (i : Inst) : Bool := i.op != .lea && bitAt i.form 3

/-- Operand size in bytes. -/
def sizeOf_ (i : Inst) : Nat := if isByte i then 1 else 2

/-- A result of `size` bytes at an effective address. -/
def Res.put (r : Res) (a : Option Nat) (size v : Nat) : Res :=
  match a with
  | some a => { r with wrs := r.wrs ++ [(a, leBytes size v)], env := r.env.noteSplit a (size / 2) }
  | Option.none => r

/-- Flags of a result (R64). -/
def Res.setAlu (r : Res) (a : Alu) : Res := { r with flags := withAlu r.flags a }

/-- An accumulator result (R71). -/
def Res.setAcc (r : Res) (i v : Nat) : Res := if i = 0 then { r with a0 := some v } else { r with a1 := some v }

/-- The address in P15 at the start of the instruction (R66). -/
def Env.p15 (e : Env) : Nat := ofLE (e.bytes 0x7C 3)

/-- d ← f d s, with d read first when `rd`. -/
def twoOp (e : Env) (i : Inst) (a b : Option Nat) (od os : Operand) (rd wr : Bool) (f : Nat → Nat → Alu) : Res :=
  let n := sizeOf_ i
  let (d, e1) := if rd then e.value n od a else (0, e)
  let (s, e2) := e1.value n os b
  let x := f d s
  let r := (Res.none e2).setAlu x
  if wr then r.put a n x.r else r

/-- d ← f d. -/
def oneOp (e : Env) (i : Inst) (a : Option Nat) (od : Operand) (rd : Bool) (f : Nat → Alu) : Res :=
  let n := sizeOf_ i
  let (d, e1) := if rd then e.value n od a else (0, e)
  let x := f d
  ((Res.none e1).setAlu x).put a n x.r

/-- Accumulator ← f acc. -/
def accOp (e : Env) (i : Inst) (f : Nat → Alu) : Res :=
  let k := b2n (bitAt i.form 2)
  let x := f (e.acc k)
  ((Res.none e).setAlu x).setAcc k x.r

/-- The branch target of mode 4 (R74). -/
def relTarget (next : Nat) (o : Operand) : Nat := (((next : Int) + immOf o) % (2 ^ 22 : Nat)).toNat

/-- The target of JMP and CALL (R74). -/
def farTarget (e : Env) (o : Operand) (a : Option Nat) : Nat × Env :=
  if o.mode = 5 then (farAddr o % 2 ^ 22, e)
  else match a with
    | some a =>
      let (v, e1) := e.read a 4
      (v % 2 ^ 22, e1)
    | Option.none => (0, e)

/-! ### User opcodes -/

/-- The state of an execution of micro-ops (R114 – R116). -/
structure UState where
  env   : Env
  ts    : List Nat
  mf    : Nat       -- micro-flags in the layout of FLAGS
  flags : Nat
  wrs   : List (Nat × Bytes)
  a0    : Option Nat
  a1    : Option Nat

/-- Width in bits of a W code (R114). -/
def uWidth : Nat → Nat
  | 0 => 8 | 1 => 16 | 2 => 32 | _ => 40

/-- Write bytes within an execution: seen by its later micro-ops (R117). -/
def UState.store (u : UState) (a : Nat) (bs : Bytes) : UState :=
  { u with wrs := u.wrs ++ [(a, bs)]
           env := { (u.env.noteSplit a (bs.length / 2)) with
                    ov := (bs.zipIdx.map fun p => ((a + p.2) % 2 ^ 24, p.1)) ++ u.env.ov } }

/-- The accumulator selected by K (R115). -/
def accSel (i : Inst) (k : Nat) : Nat := if k = 2 then b2n (bitAt i.form 2) else k % 2

def UState.acc (u : UState) (k : Nat) : Nat :=
  if k = 0 then u.a0.getD (u.env.acc 0) else u.a1.getD (u.env.acc 1)

/-- An ALU micro-op: its result in TD and the flags it produces (R115, R116). -/
def aluUop (o : UOp) (ta b tb mf : Nat) : Option Alu × Option Nat :=
  let w := uWidth o.w
  let x := ta % 2 ^ w
  let y := b % 2 ^ w
  let cnt := b % 64
  let nz (r : Nat) : Option Alu × Option Nat := (some { r, n := nOf w r, z := zOf w r }, some r)
  match o.uop with
  | 0x10 => let a := aluAdd w x y 0; (some a, some a.r)
  | 0x11 => let a := aluSub w x y 0; (some a, some a.r)
  | 0x12 => nz (x &&& y)
  | 0x13 => nz (x ||| y)
  | 0x14 => nz (x ^^^ y)
  | 0x15 => nz (if w ≤ cnt then 0 else x * 2 ^ cnt % 2 ^ w)
  | 0x16 => nz (x / 2 ^ cnt)
  | 0x17 => nz (ofSigned w (toSigned w x / (2 ^ cnt : Nat)))
  | 0x18 => nz (ofSigned 40 (toSigned 16 ta * toSigned 16 b))
  | 0x19 => nz (ta % 65536 * (b % 65536))
  | 0x1A => nz (if toSigned w x ≤ toSigned w y then x else y)
  | 0x1B => nz (if toSigned w y ≤ toSigned w x then x else y)
  | 0x1C => nz (ofSigned 40 (toSigned w ta))
  | 0x1D =>
    let v := toSigned 40 ta
    let hi : Int := (2 ^ (w - 1) : Nat) - 1
    let lo : Int := -((2 ^ (w - 1) : Nat) : Int)
    let c := max lo (min hi v)
    let r := ofSigned 40 c
    (some { r, n := nOf w r, z := zOf w r, v := some (decide (c ≠ v)) }, some r)
  | 0x1E => (none, some (if condHolds (o.imm % 16) mf false then ta else tb))
  | 0x1F => (some (aluSub w x y 0), none)
  | _ => (none, none)

/-- Copy the flags a micro-op produces into FLAGS under FMASK (R116). -/
def maskAlu (fm : Nat) (a : Alu) : Alu :=
  { a with c := if bitAt fm 0 then a.c else none, v := if bitAt fm 1 then a.v else none
           z := if bitAt fm 2 then a.z else none, n := if bitAt fm 3 then a.n else none }

/-- One micro-op (R115 – R117). -/
def runUop (i : Inst) (ent : UEntry) (eas : List (Option Nat)) (o : UOp) (u : UState) : UState :=
  let n := sizeOf_ i
  let imm := ofSigned 40 (toSigned 32 o.imm)
  let ta := nthD u.ts o.a 0
  let tb := nthD u.ts o.b 0
  let b := if o.bi then imm else tb
  let ea := nthD eas o.k none
  let opd := nthD i.opds o.k ⟨0, 0, 0⟩
  let setT (u : UState) (v : Nat) : UState := { u with ts := setNth u.ts o.d (v % 2 ^ 40) }
  let mem := (ea.getD 0 + b) % 2 ^ 24
  match o.uop with
  | 0x00 => u
  | 0x01 =>
    let (v, e) := u.env.value n opd ea
    setT { u with env := e } v
  | 0x02 => (match ea with | some a => u.store a (leBytes n ta) | none => u)
  | 0x03 => setT u (ea.getD 0)
  | 0x04 =>
    let (v, e) := u.env.read mem (if o.w = 0 then 1 else 2)
    setT { u with env := e } v
  | 0x05 => u.store mem (leBytes (if o.w = 0 then 1 else 2) ta)
  | 0x06 => setT u (u.acc (accSel i o.k))
  | 0x07 => if accSel i o.k = 0 then { u with a0 := some ta } else { u with a1 := some ta }
  | 0x08 => setT u (i.form % 8)
  | 0x09 => setT u imm
  | 0x20 =>
    if o.fl && bitAt ent.fmask 4 then { u with flags := putField u.flags flagDZ 1 (o.imm % 2) } else u
  | _ =>
    let (fl, r) := aluUop o ta b tb u.mf
    let u := match fl with
      | some a =>
        { u with mf := withAlu u.mf a, flags := if o.fl then withAlu u.flags (maskAlu ent.fmask a) else u.flags }
      | none => u
    match r with
    | some v => setT u v
    | none => u

/-- The micro-ops of an entry in order, from UOP_START (R114). -/
def runUops (c : Code) (i : Inst) (ent : UEntry) (eas : List (Option Nat)) : Nat → Nat → UState → UState
  | 0, _, u => u
  | n + 1, j, u =>
    let o := UOp.ofNat (c.uop j)
    let u := runUop i ent eas o u
    if o.fin then u else runUops c i ent eas n (j + 1) u

/-- A user opcode (R117). -/
def userOp (c : Code) (e : Env) (i : Inst) (ent : UEntry) (eas : List (Option Nat)) : Res :=
  let f := e.st.cpu.flags.toNat
  let u := runUops c i ent eas ent.len ent.start
    { env := e, ts := List.replicate 8 0, mf := f, flags := f, wrs := [], a0 := none, a1 := none }
  { Res.none u.env with wrs := u.wrs, flags := u.flags, a0 := u.a0, a1 := u.a1 }

/-! ### Built-in opcodes -/

/-- The operation of an instruction whose condition holds (R64 – R78). `next` is the address of the next instruction. -/
def operate (c : Code) (e0 : Env) (i : Inst) (next : Nat) : Res :=
  let n := sizeOf_ i
  let w := 8 * n
  let (eas, e) := e0.eas n i.opds
  let a := nthD eas 0 none
  let b := nthD eas 1 none
  let oa := nthD i.opds 0 ⟨0, 0, 0⟩
  let ob := nthD i.opds 1 ⟨0, 0, 0⟩
  let f := e.st.cpu.flags.toNat
  let cin := b2n (bitAt f flagC)
  let frac := bitAt e.st.cpu.ctl.toNat 3
  let p := e0.p15
  match i.op with
  | .nop => Res.none e
  | .mov => twoOp e i a b oa ob false true fun _ s => aluLogic w s
  | .xch =>
    let (d, e1) := e.value n oa a
    let (s, e2) := e1.value n ob b
    ((Res.none e2).put a n s).put b n d
  | .lea => { Res.none e with wrs := [(0x40 + 4 * (i.form % 16), cellBytes (a.getD 0 % 2 ^ 24))] }
  | .push =>
    let (s, e1) := e.value 2 oa a
    let q := (p + 2 ^ 24 - 2) % 2 ^ 24
    { ((Res.none e1).put (some q) 2 s) with sp := some q }
  | .pop =>
    let (v, e1) := e.read p 2
    { (((Res.none e1).setAlu (aluLogic 16 v)).put a 2 v) with sp := some ((p + 2) % 2 ^ 24) }
  | .clr => oneOp e i a oa false fun _ => aluLogic w 0
  | .swpb => oneOp e i a oa true fun d => aluLogic 16 (d % 256 * 256 + d / 256)
  | .add => twoOp e i a b oa ob true true fun d s => aluAdd w d s 0
  | .adc => twoOp e i a b oa ob true true fun d s => aluAdd w d s cin
  | .sub => twoOp e i a b oa ob true true fun d s => aluSub w d s 0
  | .sbc => twoOp e i a b oa ob true true fun d s => aluSub w d s cin
  | .cmp => twoOp e i a b oa ob true false fun d s => aluSub w d s 0
  | .neg => oneOp e i a oa true fun d => aluNeg w d
  | .inc => oneOp e i a oa true fun d => aluInc w d
  | .dec => oneOp e i a oa true fun d => aluDec w d
  | .and => twoOp e i a b oa ob true true fun d s => aluLogic w (d &&& s)
  | .or => twoOp e i a b oa ob true true fun d s => aluLogic w (d ||| s)
  | .xor => twoOp e i a b oa ob true true fun d s => aluLogic w (d ^^^ s)
  | .not => oneOp e i a oa true fun d => aluLogic w (2 ^ w - 1 - d)
  | .tst => twoOp e i a b oa ob true false fun d s => aluLogic w (d &&& s)
  | .sext => oneOp e i a oa true fun d => aluLogic 16 (ofSigned 16 (toSigned 8 d))
  | .mul | .mulu =>
    let (d, e1) := e.value 2 oa a
    let (s, e2) := e1.value 2 ob b
    let x := aluMul (decide (i.op = .mul)) d s
    (((Res.none e2).setAlu x).put a 2 (x.r % 65536)).put (a.map fun q => (q + 2) % 2 ^ 24) 2 (x.r / 65536)
  | .div | .divs =>
    let (d, e1) := e.value 2 oa a
    let (s, e2) := e1.value 2 ob b
    let (q, m, v, dz) := divide (decide (i.op = .divs)) d s
    let r := (((Res.none e2).setAlu (divFlags q v)).put a 2 q).put (a.map fun x => (x + 2) % 2 ^ 24) 2 m
    { r with flags := putField r.flags flagDZ 1 (b2n dz), dz }
  | .shl => twoOp e i a b oa ob true true fun d s => aluShl w d (s % 32)
  | .shr => twoOp e i a b oa ob true true fun d s => aluShr w d (s % 32)
  | .sar => twoOp e i a b oa ob true true fun d s => aluSar w d (s % 32)
  | .rol => twoOp e i a b oa ob true true fun d s => aluRol w d (s % 32)
  | .ror => twoOp e i a b oa ob true true fun d s => aluRor w d (s % 32)
  | .bit =>
    let (d, e1) := e.value n oa a
    let (s, e2) := e1.value n ob b
    let k := s % w
    let old := bitAt d k
    let r := { Res.none e2 with flags := setFlag f flagZ (some (!old)) }
    match i.form % 4 with
    | 0 => r
    | 1 => r.put a n (d ||| 2 ^ k)
    | 2 => r.put a n (if old then d - 2 ^ k else d)
    | _ => r.put a n (d ^^^ 2 ^ k)
  | .lda =>
    let (s, e1) := e.value 2 oa a
    (Res.none e1).setAcc (b2n (bitAt i.form 2)) (place (i.form % 2) s)
  | .sta =>
    let x := e.acc (b2n (bitAt i.form 2))
    let v := match i.form % 4 with
      | 0 => field x 16 16
      | 1 => field x 0 16
      | _ => ofSigned 16 (toSigned 8 (field x 32 8))
    (Res.none e).put a 2 v
  | .adda =>
    let (s, e1) := e.value 2 oa a
    accOp e1 i fun x => accRes (toSigned 40 x + toSigned 40 (place (i.form % 2) s))
  | .suba =>
    let (s, e1) := e.value 2 oa a
    accOp e1 i fun x => accRes (toSigned 40 x - toSigned 40 (place (i.form % 2) s))
  | .mpy =>
    let (x, e1) := e.value 2 oa a
    let (y, e2) := e1.value 2 ob b
    accOp e2 i fun _ => accRes (toSigned 40 (prod frac x y))
  | .mac =>
    let (x, e1) := e.value 2 oa a
    let (y, e2) := e1.value 2 ob b
    accOp e2 i fun z => accRes (toSigned 40 z + toSigned 40 (prod frac x y))
  | .msu =>
    let (x, e1) := e.value 2 oa a
    let (y, e2) := e1.value 2 ob b
    accOp e2 i fun z => accRes (toSigned 40 z - toSigned 40 (prod frac x y))
  | .rnd =>
    let x := round16 (bitAt e.st.cpu.ctl.toNat 1) (e.acc (b2n (bitAt i.form 2)))
    ((Res.none e).setAlu x).put a 2 x.r
  | .sha =>
    let (s, e1) := e.value 2 oa a
    accOp e1 i fun x => aluSha x s
  | .abs => oneOp e i a oa true fun d => aluAbs w d
  | .mvc =>
    if bitAt i.form 2 then
      let (s, e1) := e.value 2 oa a
      if i.form % 4 = 0 then { Res.none e1 with flags := s % 64 } else { Res.none e1 with ctl := s % 16 }
    else (Res.none e).put a 2 (if i.form % 4 = 0 then f else e.st.cpu.ctl.toNat)
  | .br => { Res.none e with pc := some (relTarget next oa) }
  | .jmp =>
    let (t, e1) := farTarget e oa a
    { Res.none e1 with pc := some t }
  | .call =>
    let (t, e1) := farTarget e oa a
    let q := (p + 2 ^ 24 - 4) % 2 ^ 24
    { (((Res.none e1).put (some q) 2 (next % 65536)).put (some ((q + 2) % 2 ^ 24)) 2 (next / 65536)) with
      sp := some q, pc := some t }
  | .ret =>
    let (v, e1) := e.read p 4
    { Res.none e1 with sp := some ((p + 4) % 2 ^ 24), pc := some (v % 2 ^ 22) }
  | .reti =>
    let fr := e.bytes p 12
    let e1 := e.noteRead p 12
    { Res.none e1 with
      sp := some ((p + 12) % 2 ^ 24), pc := some (leAt fr 0 4 % 2 ^ 22)
      flags := leAt fr 4 2 % 32 + f / 32 % 2 * 32, ctl := leAt fr 6 2 % 16
      rep := some (leAt fr 8 2 % 1024), vec := some (leAt fr 10 1) }
  | .dbnz =>
    let (d, e1) := e.value 2 oa a
    let v := (d + 65535) % 65536
    { (Res.none e1).put a 2 v with pc := if v = 0 then none else some (relTarget next ob) }
  | .dbrc =>
    let rc := e.st.cpu.rc.toNat
    if rc = 0 then Res.none e
    else { Res.none e with rc := rc - 1, pc := if rc - 1 = 0 then none else some (relTarget next oa) }
  | .ldrc =>
    if bitAt i.form 0 then (Res.none e).put a 2 e.st.cpu.rc.toNat
    else
      let (s, e1) := e.value 2 oa a
      { Res.none e1 with rc := s }
  | .rpt =>
    let (s, e1) := e.value 2 oa a
    let k := s % 1024
    if k = 0 then
      let (j, _) := parseAt c.fetch c.ucs next
      { Res.none e1 with skip := j.len, pc := some ((next + j.len) % 2 ^ 22) }
    else { Res.none e1 with rep := some k }
  | .lock => { Res.none e with lock := some (immVal 2 oa) }
  | .swi => { Res.none e with swi := some (immVal 2 oa) }
  | .wait => { Res.none e with idle := .wait }
  | .sync => { Res.none e with idle := .sync }
  | .user => match i.ent with
    | some ent => userOp c e i ent eas
    | none => Res.none e

/-! ### Cost and commit -/

/-- Base cost in a class (R64, R112). -/
def baseOf (c : BeamClass) (i : Inst) : Nat :=
  match i.op, i.ent with
  | .user, some e => nthD e.base (clsIdx c) 0
  | op, _ => nthD (baseCost op) (clsIdx c) 0

/-- Operand costs; an immediate of RPT, LOCK or SWI adds 0 (R62, R63). -/
def opdsCost (c : BeamClass) (i : Inst) : Nat :=
  i.opds.foldl (fun n o =>
    if o.mode = 4 ∧ (i.op = .rpt ∨ i.op = .lock ∨ i.op = .swi) then n else n + nthD (operandCost o.mode) (clsIdx c) 0) 0

/-- The opcode has the same-bank penalty (R62, R112). -/
def hasSameBank (i : Inst) : Bool :=
  match i.op, i.ent with
  | .mpy, _ | .mac, _ | .msu, _ => true
  | .user, some e => e.dual
  | _, _ => false

/-- The cost of an executed instruction without idle ticks (R62). -/
def costOf (c : BeamClass) (i : Inst) (e0 : Env) (r : Res) : Nat :=
  let eas := (e0.eas (sizeOf_ i) i.opds).1
  baseOf c i + opdsCost c i + (if hasSameBank i && sameBank eas then 1 else 0) +
    (match c with | .N => 0 | _ => r.env.splits)

/-- The cost of an instruction whose condition does not hold (R61). -/
def falseCost (c : BeamClass) (i : Inst) : Nat := match c with | .L => i.len | _ => 1

/-- The condition of an instruction at its start tick (R60). -/
def condOk (st : Stall) (i : Inst) : Bool := condHolds i.cond st.cpu.flags.toNat (inVbl st.cls st.tick)

/-- The address after an instruction. -/
def nextPc (st : Stall) (i : Inst) : Nat := (st.cpu.pc.toNat + i.len) % 2 ^ 22

/-- The effects of an instruction and its cost (R60 – R62). -/
def runInst (c : Code) (st : Stall) (time : Nat) (i : Inst) : Res × Nat :=
  let e := Env.start st time c.cart
  if condOk st i then
    let r := operate c e i (nextPc st i)
    (r, costOf st.cls i e r)
  else (Res.none e, falseCost st.cls i)

/-- Every write of an instruction in order: pointer updates, P15, results (R58, R66). -/
def allWrites (r : Res) : List (Nat × Bytes) :=
  r.env.ptr ++ (match r.sp with | some v => [(0x7C, cellBytes v)] | none => []) ++ r.wrs

/-- The instruction reads VID_COLL or VID_STAT (R31). -/
def readsRaster (reads : List Nat) : Bool := reads.any fun a => inRange 0x210892 0x210894 a || inRange 0x210896 0x210898 a

/-- Clear the RC fields read; the clear of OVFSPR lets it take a number again (R7, R186, R193). -/
def Stall.clearRead (st : Stall) (reads : List Nat) : Stall :=
  { st with
    mem := reads.foldl (fun m a => if inRange 0x210892 0x210894 a || inRange 0x210896 0x210898 a then Memory.set m a 0 else m) st.mem
    ras := { st.ras with ovfHeld := st.ras.ovfHeld && !reads.contains 0x210897 } }

/-- The tick from which ISTAT & IEN wakes WAIT (R77). -/
def wakeLine (st : Stall) : Bool := (st.word aISTAT &&& st.word aIEN) % 256 != 0

/-- Idle ticks remain at a tick (R77, R78). -/
def idleGoesOn (st : Stall) (idle : Idle) (t : Nat) : Bool :=
  match idle with
  | .none => false
  | .wait => !wakeLine st
  | .sync => t % tpl st.cls != 0

/-- The stall with the processor, TICK and last tick given. -/
def Stall.atTick (st : Stall) (t last : Nat) (cpu : Cpu) : Stall := { st with tick := t, last, cpu }

/-- The 12-byte frame of an entry: return address, FLAGS, CTL, REP, VEC (R98). -/
def frameBytes (st : Stall) (vec ret rep : Nat) : Bytes :=
  leBytes 4 ret ++ leBytes 2 st.cpu.flags.toNat ++ leBytes 2 st.cpu.ctl.toNat ++ leBytes 2 rep ++ leBytes 1 vec ++ [0]

/-- The new P15 of an entry (R96). -/
def frameAddr (st : Stall) : Nat := (ofLE (Memory.getBytes st.mem 0x7C 3) + 2 ^ 24 - 12) % 2 ^ 24

/-- The writes of an entry: P15 and the frame. -/
def frameWrites (st : Stall) (vec ret rep : Nat) : List (Nat × Bytes) :=
  [(0x7C, cellBytes (frameAddr st)), (frameAddr st, frameBytes st vec ret rep)]

/-- The stall once an entry at boundary tick `e` has written P15 and the frame. -/
def frameWritten (st : Stall) (e vec ret rep : Nat) : Stall :=
  procWrites (flushBelow { st with shadow := .empty } (e + 5)) (e + 5) (frameWrites st vec ret rep)

/-- The processor after an entry at boundary tick `e`. -/
def cpuEntered (cpu : Cpu) (e vec : Nat) : Cpu :=
  { cpu with
    pc := BitVec.ofNat 22 (4 * vec), rep := 0, repFirst := false, lock := 0
    lockEnd := if 0 < cpu.lock then e else cpu.lockEnd
    shadowOff := true, dzDue := false, idle := .none }

/-- The write of a frame and the move to a vector, from boundary tick `e` (R96, R98, R102). -/
def enter (st : Stall) (e vec ret rep : Nat) : Stall :=
  let st := frameWritten st e vec ret rep
  afterTick (st.atTick (e + 6) (e + 1) (cpuEntered st.cpu e vec))

/-- Where control is after an instruction: at the instruction again while repetitions remain (R85).
DESIGN CHOICE (log entry 78): so too where a frame that a handler rewrote gives REP ≥ 2 to an instruction that R84 does not let
repeat; its branch target is then not taken until one repetition remains. -/
def pcAfter (st : Stall) (i : Inst) (r : Res) : Nat :=
  if 2 ≤ st.cpu.rep then st.cpu.pc.toNat else r.pc.getD ((st.cpu.pc.toNat + i.len) % 2 ^ 22)

/-- The writes of an instruction with last tick `w`, after the agent effects below it; its reads set A (R17, R25, R58, R81, R372). -/
def written (st : Stall) (r : Res) (w : Nat) : Stall :=
  let sh : Shadow := { bytes := [], a0 := r.a0.map fun _ => st.cpu.a0, a1 := r.a1.map fun _ => st.cpu.a1 }
  let st := r.env.accs.foldl (fun x p => x.accessed p.1 p.2) st
  procWrites (flushBelow ({ st with shadow := sh }.clearRead r.env.reads) w) w (allWrites r)

/-- RETI clears the INSV bit of the line whose entry it ends (R99). -/
def endService (st : Stall) (vec : Option Nat) : Stall :=
  match vec with
  | some v =>
    if 4 ≤ v ∧ v ≤ 11 then
      { st with mem := Memory.set st.mem aINSV (Memory.get st.mem aINSV &&& BitVec.ofNat 8 (255 - 2 ^ (v - 4))) }
    else st
  | none => st

/-- The processor after an instruction of stall `st` that ends at tick `t` (R58, R82, R85, R88, R89). -/
def cpuAfter (st : Stall) (i : Inst) (r : Res) (t : Nat) : Cpu :=
  { st.cpu with
    pc := BitVec.ofNat 22 (pcAfter st i r)
    a0 := (r.a0.map (BitVec.ofNat 40)).getD st.cpu.a0, a1 := (r.a1.map (BitVec.ofNat 40)).getD st.cpu.a1
    flags := BitVec.ofNat 16 r.flags, ctl := BitVec.ofNat 16 r.ctl, rc := BitVec.ofNat 16 r.rc
    rep := (match r.rep with | some k => k | none => st.cpu.rep - 1), repFirst := i.op == Op.rpt && r.rep.isSome
    lock := (match r.lock with | some n => n | none => st.cpu.lock - 1)
    shadowOff := decide (2 ≤ st.cpu.rep) || (i.op == Op.reti && r.vec.isSome), dzDue := r.dz && bitAt st.cpu.ctl.toNat 0
    lockFrom := if r.lock.isSome then t else st.cpu.lockFrom
    lockEnd := if r.lock.isSome then 0 else if st.cpu.lock = 1 then t else st.cpu.lockEnd }

/-- Everything of an instruction but the entry that SWI adds: writes, registers, TICK, idle ticks (R25, R58, R77, R78, R85). -/
def retire (st : Stall) (i : Inst) (r : Res) (cost : Nat) : Stall :=
  let t := st.tick + cost
  let st := { st with acc := addNew (0x1000 + st.cpu.pc.toNat / 2048) (addNew (0x1000 + (st.cpu.pc.toNat + (i.len - 1)) % 2 ^ 22 / 2048) st.acc) }
  let y := (endService (written st r (t - 1)) r.vec).atTick t (st.tick + 1) (cpuAfter st i r t)
  y.atTick t (st.tick + 1) { cpuAfter st i r t with idle := if idleGoesOn y r.idle t then r.idle else .none }

/-- Commit an instruction; SWI goes on with its entry from the instruction's start tick (R104). -/
def commit (st : Stall) (i : Inst) (r : Res) (cost : Nat) : Stall :=
  let y := retire st i r cost
  match r.swi with
  | some n => enter (y.atTick st.tick y.last y.cpu) st.tick (16 + n) (pcAfter st i r) 0
  | none => afterTick y

/-! ### Interrupts (R95 – R99) -/

/-- Line `l` is eligible at a boundary (R95). -/
def eligible (st : Stall) (l : Nat) : Bool :=
  bitAt (st.word aISTAT &&& st.word aIEN) l && bitAt st.cpu.ctl.toNat 2 && st.cpu.lock == 0 &&
    !((upto (l + 1)).any fun j => bitAt (st.word aINSV) j)

/-- The highest-priority eligible line. -/
def topLine (st : Stall) : Option Nat := (upto 8).find? fun l => eligible st l

/-- Set the INSV bit of a line. -/
def setInsv (st : Stall) (l : Nat) : Stall :=
  { st with mem := Memory.set st.mem aINSV (Memory.get st.mem aINSV ||| BitVec.ofNat 8 (2 ^ l)) }

/-- Write the cause of an ILLEGAL entry to ECAUSE. -/
def setEcause (st : Stall) (c : Cause) : Stall := { st with mem := Memory.set st.mem aECAUSE (BitVec.ofNat 8 (causeCode c)) }

/-- Interrupt entry for a line at the stall's boundary; the frame holds PC and the repetitions still to run (R87, R96). -/
def enterLine (st : Stall) (l : Nat) : Stall := setInsv (enter st st.tick (4 + l) st.cpu.pc.toNat st.cpu.rep) l

/-- ILLEGAL entry with its cause in ECAUSE (R87, R102, R103). -/
def enterIllegal (st : Stall) (c : Cause) : Stall := setEcause (enter st st.tick 1 st.cpu.pc.toNat st.cpu.rep) c

/-- DIVZERO entry (R68, R87, R102). -/
def enterDivZero (st : Stall) : Stall := enter st st.tick 2 st.cpu.pc.toNat st.cpu.rep

end Sys2Proof.Machine
end

