-- ==== Sys2Proof/Machine/HodProg.lean ====
section
/-! DEFINITION. Stall programs of the Hod engine on one stall: bricks, the rate model, units, devices, WAIT, commands and
posts (R300 – R325). -/
namespace Sys2Proof.Machine

/-- What the title gives a stall's devices: the media image and the size of the save memory (R306). -/
structure Devs where
  media : Bytes
  save  : Nat

/-- Device types (R298). -/
def dNONE : Nat := 0
def dSAVE : Nat := 1
def dMEDIA : Nat := 2
def dLINK : Nat := 3
def dBLIT : Nat := 4
def dHOSTIO : Nat := 5

/-- Fields of a stall brick (R300). -/
def bOp (b : Nat) : Nat := field b 56 8
def bLink (b : Nat) : Nat := field b 48 2
def bDmode (b : Nat) : Nat := field b 50 2
def bReport (b : Nat) : Bool := bitAt b 52
def bCount (b : Nat) : Nat := field b 32 16
def bParam (b : Nat) : Nat := field b 24 8
def bAddr (b : Nat) : Nat := field b 0 24

/-- READ, WRITE, CONTROL and QUERY are data bricks (R301). -/
def isData (op : Nat) : Bool := decide (1 ≤ op) && decide (op ≤ 4)

/-- The argument length of a CONTROL of a device, if PARAM is permitted (R307). -/
def controlLen (ty param : Nat) : Option Nat :=
  if ty = dSAVE ∧ param = 1 then some 3 else if ty = dMEDIA ∧ param = 1 then some 3
  else if ty = dLINK ∧ param = 1 then some 0 else if ty = dBLIT ∧ param = 1 then some 3 else none

/-- PARAM is permitted for the opcode and the device (R307, R315). -/
def paramOk (ty op param : Nat) : Bool :=
  match op with
  | 1 => param == 0 && (ty == dSAVE || ty == dMEDIA || ty == dLINK || ty == dHOSTIO)
  | 2 => (param == 0 && (ty == dSAVE || ty == dLINK || ty == dBLIT || ty == dHOSTIO)) || (param == 1 && ty == dBLIT)
  | 3 => (controlLen ty param).isSome
  | 4 => param == 0 && (ty == dSAVE || ty == dMEDIA || ty == dLINK)
  | 9 => decide (param ≤ 3)
  | _ => param == 0

/-- A stall brick is malformed (R305), gather lists apart. -/
def malformed (ty joinOp b : Nat) : Bool :=
  let op := bOp b
  let dm := bDmode b
  !([1, 2, 3, 4, 8, 9, 10, 11, 12].contains op) || field b 53 3 != 0 || bLink b == 3 || dm == 3 ||
    (!isData op && (bLink b == 1 || dm != 0)) || (dm == 2 && (op != 1 || bAddr b != 0)) ||
    (op == 12 && bAddr b != 0) || (joinOp != 0 && joinOp != op) ||
    ([8, 10, 11, 12].contains op && bCount b != 0) || !paramOk ty op (bParam b) ||
    (op == 8 && bAddr b % 8 != 0)

/-- S of a brick that starts at tick b (R309). -/
def dataStart (c : BeamClass) (b : Nat) : Nat := b + 4 * hodF c

/-- Media units that bytes 0 … k of a brick touch from a media position (R310). -/
def mediaUnits (pos k : Nat) : Nat := (pos + k) / 256 - pos / 256 + 1

/-- D(k) (R310). -/
def dTick (ty op S f pos k : Nat) : Nat :=
  if op = 3 ∨ op = 4 then S + 16 * f - 1
  else if ty = dSAVE then S + (32 + (if op = 1 then 2 else 4) * (k + 1)) * f - 1
  else if ty = dMEDIA then S + 2640 * mediaUnits pos k * f - 1
  else if ty = dLINK then S + (if op = 2 then 4 * (k + 1) else k + 1) * f - 1
  else if ty = dBLIT then S + 4 * (k / 256 + 1) * f - 1
  else S + (if op = 1 then k + 1 else k / 64 + 1) * f - 1

/-- The length of the unit at brick offset `off` and address `a`, at most `n` bytes (R311). -/
def unitLen (off a n : Nat) : Nat := min n (min (256 - off % 256) (4096 - a % 4096))

/-- Cut segments (address, length) into units of offset, address and length; `base` aligns the 256-byte grid, and `dst` is where a
BLIT COPY writes, whose units cross no page on either side (R311). -/
def cutUnits (base : Nat) (dst : Option Nat) : Nat → Nat → List (Nat × Nat) → List (Nat × Nat × Nat)
  | 0, _, _ => []
  | _, _, [] => []
  | fuel + 1, off, (a, n) :: r =>
    if n = 0 then cutUnits base dst fuel off r
    else
      let k := unitLen (base + off) a n
      let k := match dst with
        | some d => min k (4096 - (d + off) % 4096)
        | none => k
      (off, a, k) :: cutUnits base dst fuel (off + k) (((a + k) % 2 ^ 24, n - k) :: r)

/-- The segments a gather list gives for `n` bytes, and whether every entry used is well formed (R304, R305). -/
def gather : List (Nat × Nat × Bool) → Nat → List (Nat × Nat) × Bool
  | _, 0 => ([], true)
  | [], _ => ([], false)
  | (a, c, ok) :: r, n =>
    let k := min c n
    let (s, g) := gather r (n - k)
    ((a, k) :: s, ok && g)

/-- How many entries of a gather list a brick of `n` bytes uses (R304). -/
def gatherUsed : List (Nat × Nat × Bool) → Nat → Nat
  | _, 0 => 0
  | [], _ => 0
  | (_, c, _) :: r, n => 1 + gatherUsed r (n - min c n)

/-- A stall gather entry of 8 bytes (R304). -/
def gatherEntry (x : Nat) : Nat × Nat × Bool := (x % 2 ^ 24, field x 32 16, field x 24 8 == 0 && field x 48 16 == 0)

/-- One byte as a Hod access at tick `e` reads it from the view that `agentView` gives: I/O space reads 0xFF (R312). -/
def hodByte (cart : Bytes) (st : Stall) (time e a : Nat) : Byte :=
  let a := a % 2 ^ 24
  if inRange 0x240000 0x250000 a then 0xFF else readView cart st time e a

def hodBytes (cart : Bytes) (st : Stall) (time e a : Nat) : Nat → Bytes
  | 0 => []
  | n + 1 => hodByte cart st time e a :: hodBytes cart st time e (a + 1) n

/-- What a WAIT brick waits for, as the tick at which its condition holds where that is known (R315). -/
def waitTick (st : Stall) (x : Sub) : Option Nat :=
  let c := st.cls
  let S := dataStart c x.b
  match bParam x.brick with
  | 0 => if x.ty = dLINK ∨ x.ty = dHOSTIO then (if x.rx.isEmpty then none else some (max S x.compl)) else some S
  | 1 =>
    let n := bCount x.brick
    if n = 0 then some S else some (max S ((x.b / tpl c + n) * tpl c))
  | 2 =>
    let k := frameOf c x.b
    let v := vblTick c k
    some (max S (if x.b < v then v else vblTick c (k + 1)))
  | _ => none

/-- The next tick at which a MATCH is read: `moved` holds the reads made (R315). -/
def matchTick (st : Stall) (x : Sub) : Nat :=
  let S := dataStart st.cls x.b
  if x.moved = 0 then S else (S / tpl st.cls + x.moved) * tpl st.cls

/-- The tick of the next access or step of a subchannel's program, if one is known (R309, R313). -/
def subNext (st : Stall) (i : Nat) : Option Nat :=
  let x := st.sub i
  match x.phase with
  | .fetch => some x.b
  | .fetched => some (if bOp x.brick = 9 ∧ !malformed x.ty x.joinOp x.brick then x.b else dataStart st.cls x.b)
  | .list => some (dataStart st.cls x.b)
  | .units => (match x.units with | u :: _ => some u.e | [] => some (x.compl - 1))
  | .waiting => if bParam x.brick = 3 then some (matchTick st x) else waitTick st x
  | _ => none

/-- The entries a LIST brick may use, as the view of a stall holds them at tick S (R304). -/
def listEntries (cart : Bytes) (v : Stall) (time S a : Nat) : List (Nat × Nat × Bool) :=
  (upto 256).map fun k => gatherEntry (ofLE (hodBytes cart v time S (a + 8 * k) 8))

/-- The next step of a subchannel reads stall memory. -/
def subReads (x : Sub) : Bool :=
  match x.phase with
  | .fetch | .list => true
  | .units => (match x.units with | u :: _ => u.kind == 0 | [] => false)
  | .waiting => bParam x.brick == 3
  | _ => false

/-- The tick at which the next step of a subchannel is performed: a read inside a locked sequence moves to the tick after it,
and is not known before its end; nothing else of a program moves (R89, R309). -/
def subEff (st : Stall) (i : Nat) : Option Nat :=
  (subNext st i).bind fun e => if subReads (st.sub i) then lockedTick st e else some e

/-- The tick at which a read with access tick `e` is performed once it may be: after a locked sequence that `e` lies inside (R89). -/
def heldTick (st : Stall) (e : Nat) : Nat := (lockedTick st e).getD e

/-- The bytes of stall memory that the next step of a subchannel may read, for a catch-up read: of a list every entry it may hold. -/
def subRange (st : Stall) (i : Nat) : Option (Nat × Nat) :=
  let x := st.sub i
  match x.phase with
  | .fetch => some (x.addr, 8)
  | .list => some (bAddr x.brick, 2048)
  | .units => (match x.units with | u :: _ => if u.kind == 0 then some (u.addr, u.len) else none | [] => none)
  | .waiting => if bParam x.brick = 3 then some (bAddr x.brick, 1) else none
  | _ => none

/-- READ, QUERY and FLUSH of a LINK subchannel take its receive buffer and overrun count as they are at S: where a line boundary, at
which deliveries become visible, lies between TICK and S, they act once TICK has passed S (R307, R311, R322). -/
def subAfter (st : Stall) (i : Nat) : Bool :=
  let x := st.sub i
  let S := dataStart st.cls x.b
  x.phase == .fetched && x.ty == dLINK && [1, 3, 4].contains (bOp x.brick) && !malformed x.ty x.joinOp x.brick &&
    decide (st.tick ≤ S) && decide (lineUp st.cls (st.tick + 1) ≤ S)

/-- Subchannel i's next step comes before that of every other subchannel (R312). -/
def subFirst (st : Stall) (i : Nat) : Bool :=
  match subEff st i with
  | none => false
  | some e => (upto 8).all fun j =>
    match subEff st j with
    | none => true
    | some e' => j == i || subAfter st j || decide (e < e') || (e == e' && decide (i < j))

/-- The next step of a subchannel may be taken at this boundary: its tick lies before the end `nextEnd` of the stall's
next instruction or idle tick (R313). -/
def subDue (st : Stall) (nextEnd i : Nat) : Bool :=
  match subEff st i with
  | none => false
  | some e => decide (e < nextEnd) && !subAfter st i && subFirst st i

/-- Fix an effect of subchannel i at a tick. -/
def subPend (st : Stall) (i tick src addr : Nat) (data : Bytes) (state : Option Nat) (post : Option Post) : Stall :=
  addPend st { tick, ord := i, src, addr, data, state, post }

/-- End the program of subchannel i at tick P with an end post (R317). -/
def endProgram (st : Stall) (i P code dev resid : Nat) (report : Bool) : Stall :=
  let x := st.sub i
  let st := st.setSub i { x with phase := .idle, units := [], idleN := 0, joinOp := 0, ty := x.later.getD x.ty, later := none }
  subPend st i P 1 0 [] (some 0) (some { code, flags := 1 + 4 * b2n report, dev, resid, baddr := x.addr })

/-- The brick ends its program with code MALFORMED, posted at b + 4f − 1 (R303, R305, R318). -/
def endMalformed (st : Stall) (i : Nat) : Stall :=
  let x := st.sub i
  endProgram st i (dataStart st.cls x.b - 1) 6 0 (if x.phase = .fetch then 0 else bCount x.brick)
    (x.phase != .fetch && (bReport x.brick || bOp x.brick == 11))

/-- The brick ends its program with a device condition at S − 1 (R307, R322). -/
def endDevice (st : Stall) (i dev : Nat) : Stall :=
  let x := st.sub i
  endProgram st i (dataStart st.cls x.b - 1) 7 dev (bCount x.brick) (bReport x.brick)

/-- The next brick of subchannel i starts at tick b. -/
def startBrick (st : Stall) (i addr b joinOp : Nat) : Stall :=
  st.setSub i { st.sub i with phase := .fetch, addr, b, joinOp, units := [], moved := 0, n := 0, buf := [], compl := 0
                              endDev := 0, endCode := 0, ends := false }

/-- Plan the units of a data transfer over the given segments (R310, R311). -/
def planTransfer (st : Stall) (i : Nat) (segs : List (Nat × Nat)) (data : Bytes) (n : Nat) (short : Bool) : Stall :=
  let x := st.sub i
  let c := st.cls
  let f := hodF c
  let S := dataStart c x.b
  let op := bOp x.brick
  let base := if x.ty = dMEDIA then x.pos else 0
  let copy := x.ty == dBLIT && op == 2 && bParam x.brick != 1
  let cuts := cutUnits base (if copy then some x.pos else none) (2 * n + 300) 0 segs
  let D (k : Nat) : Nat := dTick x.ty op S f x.pos k
  let rd (off : Nat) : Nat := if off = 0 then S else D (off - 1)
  let units : List HUnit :=
    if x.ty = dBLIT ∧ op = 2 ∧ bParam x.brick = 1 then
      (if n = 0 then [] else [⟨0, bAddr x.brick, 1, S, []⟩]) ++ (cutUnits 0 none (2 * n + 300) 0 [(x.pos, n)]).map fun (o, a, k) => ⟨1, a, k, D (o + k - 1), []⟩
    else if x.ty = dBLIT ∧ op = 2 then
      cuts.flatMap fun (o, a, k) => [⟨0, a, k, rd o, []⟩, ⟨1, (x.pos + o) % 2 ^ 24, k, D (o + k - 1), []⟩]
    else if op = 1 ∧ bDmode x.brick = 2 then cuts.map fun (o, a, k) => ⟨2, a, k, D (o + k - 1), []⟩
    else if op = 1 ∨ op = 4 then
      cuts.map fun (o, a, k) => ⟨1, a, k, D (o + k - 1), sliceBytes data o k⟩
    else cuts.map fun (o, a, k) => ⟨0, a, k, rd o, []⟩
  let compl := if n = 0 then S else D (n - 1) + 1
  st.setSub i { x with phase := .units, units, n, buf := [], moved := 0, compl
                       ends := short, endCode := if short then 7 else 0, endDev := if short then 1 else 0 }

/-- Device bytes of a READ of n bytes and whether fewer than COUNT are there (R306, R308, R311). -/
def readSource (dv : Devs) (st : Stall) (x : Sub) (count : Nat) : Bytes × Bool :=
  if x.ty = dSAVE then
    let n := min count (dv.save - x.pos)
    (sliceBytes st.save x.pos n, decide (n < count))
  else if x.ty = dMEDIA then
    let n := min count (dv.media.length - x.pos)
    (sliceBytes dv.media x.pos n, decide (n < count))
  else (x.rx.take count, false)

/-- The bytes a QUERY returns (R322). -/
def queryBytes (dv : Devs) (x : Sub) : Bytes :=
  if x.ty = dSAVE then leBytes 4 x.pos ++ leBytes 4 dv.save
  else if x.ty = dMEDIA then leBytes 4 (x.pos / 2048) ++ leBytes 4 (dv.media.length / 2048)
  else leBytes 2 x.rx.length ++ leBytes 2 (min 65535 x.overruns) ++ leBytes 4 0

/-- Start the transfer of a data brick over known segments. -/
def beginTransfer (dv : Devs) (st : Stall) (i : Nat) (segsOf : Nat → List (Nat × Nat)) : Stall :=
  let x := st.sub i
  let b := x.brick
  let count := bCount b
  match bOp b with
  | 1 =>
    let (data, short) := readSource dv st x count
    let st := if x.ty = dLINK ∨ x.ty = dHOSTIO then st.setSub i { x with rx := x.rx.drop data.length } else st
    planTransfer st i (segsOf data.length) data data.length short
  | 2 =>
    let n := if x.ty = dSAVE then min count (dv.save - x.pos) else count
    planTransfer st i (segsOf n) [] n (decide (n < count))
  | 4 =>
    let data := (queryBytes dv x).take count
    planTransfer st i (segsOf data.length) data data.length false
  | _ => planTransfer st i (segsOf count) [] count false

/-- Act on a fetched data brick at S: DIRECT and DISCARD at once, LIST after its entries are read (R304, R307, R322). -/
def dataBrick (dv : Devs) (st : Stall) (i : Nat) : Stall :=
  let x := st.sub i
  let b := x.brick
  let count := bCount b
  if x.ty = dLINK ∧ bOp b = 2 ∧ 0 < count ∧ 1024 < count then endDevice st i 4
  else if x.ty = dLINK ∧ bOp b = 2 ∧ 0 < count ∧ x.noPeer then endDevice st i 8
  else if bOp b = 3 ∧ count ≠ 0 ∧ controlLen x.ty (bParam b) ≠ some count then endDevice st i 16
  else if bDmode b = 1 ∧ 0 < count then st.setSub i { x with phase := .list }
  else beginTransfer dv st i fun n => [(bAddr b, n)]

/-- The bytes that a LIST brick's entries are to hold. DESIGN CHOICE (log entry 98): of a transfer that ends short, a READ counts the
bytes that are there, and a WRITE of a SAVE device past its SIZE its whole COUNT (R304). -/
def listNeed (dv : Devs) (st : Stall) (x : Sub) : Nat :=
  match bOp x.brick with
  | 1 => (readSource dv st x (bCount x.brick)).1.length
  | 4 => min 8 (bCount x.brick)
  | _ => bCount x.brick

/-- The bytes of its list that a LIST brick reads: the entries it uses (R304). -/
def listBytes (dv : Devs) (cart : Bytes) (st : Stall) (time i : Nat) : Nat :=
  let x := st.sub i
  let S := heldTick st (dataStart st.cls x.b)
  8 * gatherUsed (listEntries cart (agentView st i S) time S (bAddr x.brick)) (listNeed dv st x)

/-- Read the gather entries of a LIST brick at S (R89, R304, R311). -/
def readList (dv : Devs) (cart : Bytes) (st : Stall) (time i : Nat) : Stall :=
  let x := st.sub i
  let S := heldTick st (dataStart st.cls x.b)
  let ents := listEntries cart (agentView st i S) time S (bAddr x.brick)
  let need := listNeed dv st x
  if (gather ents need).2 then beginTransfer dv st i fun n => (gather ents n).1 else endMalformed st i

/-- Perform the next unit of subchannel i; a delivery is returned when a LINK WRITE or HOSTIO WRITE has its bytes (R89, R311, R312,
R322). -/
def doUnit (cart : Bytes) (st : Stall) (time i : Nat) : Stall × Option Bytes :=
  let x := st.sub i
  let op := bOp x.brick
  match x.units with
  | [] => (st, none)
  | u :: us =>
    let blit := x.ty == dBLIT && op == 2
    match u.kind with
    | 1 =>
      let data := if blit then (if bParam x.brick = 1 then List.replicate u.len (nthD x.buf 0 0) else x.buf) else u.data
      let src := if x.ty = dLINK ∧ op = 1 then 3 else 1
      let moves := op == 1 || blit
      let st := st.setSub i { x with units := us, moved := x.moved + u.len
                                     pos := if !moves then x.pos else if blit then (x.pos + u.len) % 2 ^ 24 else x.pos + u.len }
      (subPend st i u.e src u.addr data none none, none)
    | 0 =>
      let e := heldTick st u.e
      let bs := hodBytes cart (agentView st i e) time e u.addr u.len
      let st := st.accessed u.addr u.len
      if blit then (st.setSub i { x with units := us, buf := bs }, none)
      else
        let buf := x.buf ++ bs
        let x' := { x with units := us, buf, moved := x.moved + u.len }
        if op = 2 ∧ x.ty = dSAVE then
          let save := (st.save.take x.pos) ++ bs ++ st.save.drop (x.pos + bs.length)
          ({ st with save }.setSub i { x' with pos := x.pos + u.len }, none)
        else if op = 2 ∧ us.isEmpty then
          (st.setSub i { x' with linkSeq := if x.ty = dLINK then x.linkSeq + 1 else x.linkSeq }, some buf)
        else (st.setSub i x', none)
    | _ => (st.setSub i { x with units := us, moved := x.moved + u.len, pos := x.pos + u.len }, none)

/-- Continue after a completed brick by its LINK field, at tick `c` (R303). -/
def continueFrom (st : Stall) (i c : Nat) : Stall :=
  let x := st.sub i
  let b := x.brick
  let next := if bOp b = 8 then bAddr b else (x.addr + 8) % 2 ^ 24
  startBrick st i next c (if bLink b = 1 then bOp b else 0)

/-- The brick counts as idle for the loop rule (R319). -/
def idleBrick (x : Sub) : Bool := x.moved == 0 && bOp x.brick != 9 && bOp x.brick != 12

/-- The brick completes at tick `compl`: its last tick carries the post; the program ends or the next brick starts (R303,
R317). -/
def completeBrick (st : Stall) (i : Nat) : Stall :=
  let x := st.sub i
  let b := x.brick
  let P := x.compl - 1
  let resid := if isData (bOp b) then bCount b - x.moved else 0
  let rep := bReport b || bOp b == 11
  let x := { x with idleN := if idleBrick x then x.idleN + 1 else 0 }
  let st := st.setSub i x
  if x.ends then endProgram st i P x.endCode x.endDev resid rep
  else if bLink b = 0 ∧ bOp b ≠ 8 then endProgram st i P 0 0 resid rep
  else
    let st := if rep then subPend st i P 1 0 [] none (some { code := 0, flags := 4, dev := 0, resid, baddr := x.addr }) else st
    continueFrom st i x.compl

/-- A CONTROL brick has read its argument and not yet acted on it. -/
def controlReady (x : Sub) : Bool :=
  bOp x.brick == 3 && x.phase == .units && x.units.isEmpty && !x.buf.isEmpty

/-- Apply the argument of a CONTROL brick that has been read: a new position, or RANGE (R307, R310). -/
def controlEffect (dv : Devs) (st : Stall) (i : Nat) : Stall :=
  let arg := ofLE (st.sub i).buf
  let x := { st.sub i with buf := [] }
  let f := hodF st.cls
  if x.ty = dSAVE then
    if arg < dv.save then st.setSub i { x with pos := arg } else st.setSub i { x with ends := true, endCode := 7, endDev := 1 }
  else if x.ty = dMEDIA then
    if arg < dv.media.length / 2048 then
      let old := x.pos / 2048
      let d := if old ≤ arg then arg - old else old - arg
      st.setSub i { x with pos := arg * 2048, compl := x.compl + min 1267200 (42240 + 8 * d) * f }
    else st.setSub i { x with ends := true, endCode := 7, endDev := 1 }
  else st.setSub i { x with pos := arg }

/-! ### Commands (R316) -/

/-- Set CERR of subchannel i. -/
def setCerr (st : Stall) (i v : Nat) : Stall := st.setSub i { st.sub i with cerr := v }

/-- START with last tick w. -/
def hodStart (st : Stall) (i w : Nat) : Stall :=
  let x := st.sub i
  if x.state ≠ 0 then setCerr st i 1
  else if x.ty = dNONE then setCerr st i 3
  else
    let p := hodProg st i
    let st := st.setSub i { x with cerr := 0, state := 1, idleN := 0 }
    let st := startBrick st i p (w + 1) 0
    if p % 8 ≠ 0 then endMalformed st i else st

/-- HALT with last tick w. -/
def hodHalt (st : Stall) (i w : Nat) : Stall :=
  let x := st.sub i
  if x.state = 0 then setCerr st i 2
  else
    let begun := x.phase == .fetched || x.phase == .list || x.phase == .units
    let resid := if begun && isData (bOp x.brick) then bCount x.brick - x.moved else 0
    let st := { st with pend := st.pend.filter fun p => p.ord != i || !p.data.isEmpty || decide (p.tick ≤ w) }
    let st := st.setSub i { x with cerr := 0 }
    endProgram st i w 2 0 resid (x.phase != .fetch && (bReport x.brick || bOp x.brick == 11))

/-- RESUME with last tick w. -/
def hodResume (st : Stall) (i w : Nat) : Stall :=
  let x := st.sub i
  if x.state ≠ 3 then setCerr st i 2
  else
    let st := st.setSub i { x with cerr := 0 }
    if bLink x.brick = 0 then endProgram st i w 0 0 0 (bReport x.brick)
    else
      let st := if bReport x.brick then
          subPend st i w 1 0 [] none (some { code := 0, flags := 4, dev := 0, resid := 0, baddr := x.addr }) else st
      continueFrom (st.setSub i { st.sub i with state := 1 }) i (w + 1)

/-- CLEAR. -/
def hodClear (st : Stall) (i : Nat) : Stall :=
  let x := st.sub i
  if x.state ≠ 0 then setCerr st i 2 else st.setSub i { x with cerr := 0, code := 0, resid := 0 }

/-- A WAIT brick starts waiting: STATE WAITING from b (R315). -/
def startWait (st : Stall) (i : Nat) : Stall :=
  let x := st.sub i
  subPend (st.setSub i { x with phase := .waiting, moved := 0, compl := 0 }) i x.b 1 0 [] (some 2) none

/-- The WAIT of subchannel i completes at tick `c` (R315). -/
def endWait (st : Stall) (i c : Nat) : Stall :=
  let x := st.sub i
  let st := st.setSub i { x with phase := .units, units := [], compl := c, moved := 0 }
  subPend st i (c - 1) 1 0 [] (some 1) none

/-- A stall reset at boundary tick b ends every program without a post and resets the devices (R324). -/
def resetSub (x : Sub) : Sub :=
  { Sub.reset with ty := x.later.getD x.ty, seq := x.seq, peer := x.peer, linkSeq := x.linkSeq }

end Sys2Proof.Machine
end

