-- ==== Sys2Proof/Machine/Raster.lean ====
section
/-! DEFINITION. The raster unit on one stall: tiles, line lists, sprite latches, pixel decision, windows, colour maths,
collisions and hint maps, dot by dot (R27, R171, R178 – R192, R196 – R199). -/
namespace Sys2Proof.Machine

/-- A word of the render view at a data address. -/
def Stall.rword (st : Stall) (a : Nat) : Nat := Memory.getLE st.rview a 2

/-- Video RAM size (R176). -/
def vramSize : BeamClass → Nat
  | .L => 0x10000 | _ => 0x40000

/-- A byte and a word of the raster unit's video RAM (R176, R178). -/
def vram8 (st : Stall) (v : Nat) : Nat := (Memory.get st.rview (0x1000000 + v % vramSize st.cls)).toNat
def vram16 (st : Stall) (v : Nat) : Nat := vram8 st v + 256 * vram8 st (v + 1)

/-- A colour of the palette (R182). -/
def palette (st : Stall) (i : Nat) : Nat := st.rword (0x210400 + 2 * (i % 256)) % 32768

/-- The colour index of tile `t` at (rx, ry), tiles based at a video address (R179). -/
def tileIndex (st : Stall) (base t : Nat) (bpp8 : Bool) (rx ry : Nat) : Nat :=
  if bpp8 then vram8 st (base + t * 64 + 8 * ry + rx)
  else
    let o := base + t * 32
    let bit (a : Nat) : Nat := b2n (bitAt (vram8 st a) (7 - rx))
    bit (o + 2 * ry) + 2 * bit (o + 2 * ry + 1) + 4 * bit (o + 16 + 2 * ry) + 8 * bit (o + 17 + 2 * ry)

/-- Registers of layer k in the render view. -/
def lctl (st : Stall) (k : Nat) : Nat := st.rword (0x210814 + 16 * k)

/-- Layers of a class (R195). -/
def layers : BeamClass → Nat
  | .L => 4 | _ => 8

/-- Map size in tiles, if permitted (R181). -/
def mapSize (c : BeamClass) (m : Nat) : Option (Nat × Nat) :=
  match m, c with
  | 0, _ => some (32, 32) | 1, _ => some (64, 32) | 2, _ => some (32, 64) | 3, _ => some (64, 64)
  | 4, .L => none | 5, .L => none
  | 4, _ => some (128, 64) | 5, _ => some (64, 128)
  | _, _ => none

/-- The effective scroll of layer k (R183). -/
def effScroll (st : Stall) (k : Nat) : Nat × Nat :=
  if bitAt (lctl st k) 7 then nthD st.ras.eff k (0, 0)
  else (st.rword (0x210810 + 16 * k) % 1024, st.rword (0x210812 + 16 * k) % 1024)

/-- A candidate pixel: plane, colour, layer or sprite, and its colour-maths target bit (R187, R189). -/
structure Cand where
  plane  : Nat
  colour : Nat
  layer  : Option Nat
  sprite : Option Nat
  math   : Bool
  deriving DecidableEq, Repr

/-- The opaque pixel of enabled layer k at dot d of line l (R182). -/
def layerPixel (st : Stall) (k d l : Nat) : Option Cand :=
  let c := lctl st k
  if !bitAt c 0 then none
  else match mapSize st.cls (field c 2 3) with
    | none => none
    | some (wt, ht) =>
      let (hs, vs) := effScroll st k
      let u := (d + hs) % (wt * 8)
      let v := (l + vs) % (ht * 8)
      let ent := vram16 st (st.rword (0x210816 + 16 * k) % 128 * 0x800 + 2 * (v / 8 * wt + u / 8))
      let rx := if bitAt ent 14 then 7 - u % 8 else u % 8
      let ry := if bitAt ent 15 then 7 - v % 8 else v % 8
      let bpp := bitAt c 1
      let idx := tileIndex st (st.rword (0x210818 + 16 * k) % 128 * 0x800) (ent % 1024) bpp rx ry
      if idx = 0 then none
      else some { plane := 2 * field c 5 2 + b2n (bitAt ent 13)
                  colour := palette st (if bpp then idx else field ent 10 3 * 16 + idx)
                  layer := some k, sprite := none, math := bitAt (st.rword 0x2108D2) k }

/-! ### Sprites -/

/-- Width and height of a size code (R184). -/
def spriteSize : Nat → Nat
  | 0 => 8 | 1 => 16 | 2 => 32 | _ => 64

/-- The words of sprite n (R184). -/
def spriteWord (st : Stall) (n k : Nat) : Nat := st.rword (0x210000 + 8 * n + 2 * k)

/-- Sprite n is enabled and covers line l (R184, R186). -/
def spriteCovers (st : Stall) (n l : Nat) : Bool :=
  let a := spriteWord st n 3
  bitAt a 6 && decide ((l + 1024 - spriteWord st n 0 % 1024) % 1024 < spriteSize (field a 2 2))

/-- The latched row of sprite n on line l (R185). -/
def spriteRow (st : Stall) (n l : Nat) : SpriteRow :=
  let t := spriteWord st n 2
  let a := spriteWord st n 3
  let w := spriteSize (a % 4)
  let h := spriteSize (field a 2 2)
  let py0 := (l + 1024 - spriteWord st n 0 % 1024) % 1024
  let py := if bitAt t 14 then h - 1 - py0 else py0
  let bpp := bitAt t 15
  let base := st.rword 0x210808 % 128 * 0x800
  let pix (px0 : Nat) : Nat :=
    let px := if bitAt t 13 then w - 1 - px0 else px0
    tileIndex st base ((t % 1024 + py / 8 * (w / 8) + px / 8) % 1024) bpp (px % 8) (py % 8)
  { num := n, x := toSigned 11 (spriteWord st n 1), idx := (upto w).map pix
    base := if bpp then 0 else 128 + field t 10 3 * 16, prio := field a 4 2, coll := bitAt a 7, math := bitAt a 8 }

/-- Sprites drawn per line (R186). -/
def lineLimit : BeamClass → Nat
  | .L => 32 | _ => 64

/-- Latch the sprites for line l: the drawn rows and the first sprite dropped (R186). -/
def latchSprites (st : Stall) (l : Nat) : List SpriteRow × Option Nat :=
  let ctl := st.rword 0x210804
  if bitAt ctl 0 && bitAt ctl 1 then
    let cov := (upto 128).filter fun n => spriteCovers st n l
    ((cov.take (lineLimit st.cls)).map fun n => spriteRow st n l, (cov.drop (lineLimit st.cls)).head?)
  else ([], none)

/-- The colour index of a latched sprite at a dot. -/
def rowIndex (r : SpriteRow) (d : Nat) : Nat :=
  let o := (d : Int) - r.x
  if 0 ≤ o then nthD r.idx o.toNat 0 else 0

/-- The opaque sprites at a dot, lowest number first (R186). -/
def spritesAt (st : Stall) (d : Nat) : List SpriteRow :=
  let ctl := st.rword 0x210804
  if bitAt ctl 0 && bitAt ctl 1 then st.ras.cur.filter fun r => rowIndex r d != 0 else []

/-- The candidate of a sprite (R185, R187). -/
def spriteCand (st : Stall) (r : SpriteRow) (d : Nat) : Cand :=
  { plane := 2 * r.prio + 1, colour := palette st (r.base + rowIndex r d), layer := none, sprite := some r.num
    math := r.math && bitAt (st.rword 0x2108D2) 8 }

/-! ### Windows and the pixel -/

/-- A dot lies in the window with the given edge registers (R188). -/
def inWindow (st : Stall) (l r d : Nat) : Bool :=
  decide (st.rword l % 1024 ≤ d) && decide (d ≤ st.rword r % 1024)

/-- The window result of a target at a dot (R188). -/
def windowResult (st : Stall) (target d : Nat) : Bool :=
  let s := st.rword (0x2108B0 + 2 * target)
  let w0 := inWindow st 0x2108A0 0x2108A2 d != bitAt s 1
  let w1 := inWindow st 0x2108A4 0x2108A6 d != bitAt s 3
  match bitAt s 0, bitAt s 2 with
  | false, false => false
  | true, false => w0
  | false, true => w1
  | true, true => match field s 4 2 with
    | 0 => w0 || w1
    | 1 => w0 && w1
    | 2 => w0 != w1
    | _ => w0 == w1

/-- Candidate order: higher plane, then sprites before layers, then the lower number (R187). -/
def candBefore (x y : Cand) : Bool :=
  if x.plane ≠ y.plane then decide (y.plane < x.plane)
  else match x.sprite, y.sprite with
    | some a, some b => decide (a ≤ b)
    | some _, none => true
    | none, some _ => false
    | none, none => decide (x.layer.getD 0 ≤ y.layer.getD 0)

def insertCand (x : Cand) : List Cand → List Cand
  | [] => [x]
  | y :: r => if candBefore x y then x :: y :: r else y :: insertCand x r

/-- The candidates at a dot, winner first (R187, R188). -/
def candidates (st : Stall) (d l : Nat) : List Cand :=
  let ls := (upto (layers st.cls)).filterMap fun k => if windowResult st k d then none else layerPixel st k d l
  let ss := if windowResult st 8 d then [] else (spritesAt st d).map fun r => spriteCand st r d
  (ls ++ ss).foldl (fun acc x => insertCand x acc) []

/-- One channel of colour maths (R189). -/
def mathChannel (sub half : Bool) (a b : Nat) : Nat :=
  if sub then
    let r := a - b
    if half then r / 2 else r
  else
    let r := a + b
    min 31 (if half then r / 2 else r)

/-- The pixel of a dot, the layer that won, and whether anything but a plain layer decided it (R187 – R190, R196). -/
def pixelAt (st : Stall) (d l : Nat) : Nat × Option Nat × Bool :=
  let backdrop := palette st 0
  if !bitAt (st.rword 0x210804) 0 then (backdrop, none, true)
  else
    let cs := candidates st d l
    let win := cs.head?
    let colour := match win with | some c => c.colour | none => backdrop
    let math := (match win with | some c => c.math | none => bitAt (st.rword 0x2108D2) 9) && !windowResult st 9 d
    let layer := match win with | some c => c.layer | none => none
    if math then
      let cm := st.rword 0x2108D0
      let b := if bitAt cm 2 then (match cs.drop 1 with | c :: _ => c.colour | [] => backdrop) else st.rword 0x2108D4 % 32768
      let ch (k : Nat) : Nat := mathChannel (bitAt cm 0) (bitAt cm 1) (field colour (5 * k) 5) (field b (5 * k) 5)
      (ch 0 + 32 * ch 1 + 1024 * ch 2, layer, true)
    else (colour, layer, layer.isNone)

/-! ### Collisions -/

/-- Sprite-sprite, sprite-layer, and the lowest sprite involved, at a visible dot (R191). -/
def collision (st : Stall) (d l : Nat) : Bool × Bool × Nat :=
  let cs := (spritesAt st d).filter fun r => r.coll
  let ss := decide (2 ≤ cs.length)
  let mask := st.rword 0x210894
  let sl := !cs.isEmpty && (upto (layers st.cls)).any fun k => bitAt mask k && (layerPixel st k d l).isSome
  (ss, sl, match cs with | r :: _ => r.num | [] => 0)

/-- Set accumulated status bits of VID_COLL for the dot at RPOS (R191, R193). -/
def noteCollision (st : Stall) (d l : Nat) : Stall :=
  let (ss, sl, n) := collision st d l
  if ss || sl then addMark st { tick := st.ras.rpos, ss, sl, num := n, ovf := false } else st

/-- Count an overflow at dot 0 of its line, the dot at RPOS (R186, R193). -/
def noteOverflow (st : Stall) (first : Nat) : Stall :=
  addMark st { tick := st.ras.rpos, ss := false, sl := false, num := first, ovf := true }

/-! ### One dot -/

/-- Apply a stamp entry: the bytes, and the effective scroll of a layer whose HSCROLL or VSCROLL it writes, or whose LL is 0
(R183). -/
def applyStamp (st : Stall) (x : Stamp) : Stall :=
  let rv := renderWrite st.cls st.rview x.addr x.data
  let st := { st with rview := rv, dirty := markRender st.cls st.rview x st.dirty }
  let hit (a : Nat) : Bool := (upto x.data.length).any fun i => x.addr + i == a || x.addr + i == a + 1
  let upd := (upto 8).map fun k =>
    let (h, v) := nthD st.ras.eff k (0, 0)
    let follows := !bitAt (lctl st k) 7
    (if follows || hit (0x210810 + 16 * k) then st.rword (0x210810 + 16 * k) % 1024 else h,
     if follows || hit (0x210812 + 16 * k) then st.rword (0x210812 + 16 * k) % 1024 else v)
  { st with ras := { st.ras with eff := upd } }

/-- Entries that the raster unit applies; the voice engines apply those from 0x22_0000 on (R27, R267). -/
def rasterEntry (x : Stamp) : Bool := decide (x.addr < 0x220000)

/-- Apply every raster entry stamped below `s` (R27). -/
def applyRaster (st : Stall) (s : Nat) : Stall :=
  let due := st.stamps.filter fun x => rasterEntry x && decide (x.tick < s)
  let st := { st with stamps := st.stamps.filter fun x => !(rasterEntry x && decide (x.tick < s)) }
  due.foldl applyStamp st

/-- Read the line lists at dot 0 of line l (R183, R190). -/
def readLineLists (st : Stall) (l : Nat) : Stall :=
  let disp := bitAt (st.rword 0x210804) 0
  let eff := (upto 8).map fun k =>
    if bitAt (lctl st k) 7 && disp then
      let a := st.rword (0x21081A + 16 * k) % 512 * 0x200 + 4 * l
      (vram16 st a % 1024, vram16 st (a + 2) % 1024)
    else (st.rword (0x210810 + 16 * k) % 1024, st.rword (0x210812 + 16 * k) % 1024)
  { st with ras := { st.ras with eff } }

/-- Key of a pixel in the line area: two frames (R171). -/
def lineKey (c : BeamClass) (frame l d : Nat) : Nat := ((frame % 2) * visH c + l) * visW c + d

/-- Block number of a dot in a frame, two frames (R196). -/
def blockKey (c : BeamClass) (frame l d : Nat) : Nat :=
  ((frame % 2) * (visH c / 16) + l / 16) * (visW c / 16) + d / 16

/-- Add a pixel to its block's statistics. -/
def noteBlock (st : Stall) (frame l d : Nat) (layer : Option Nat) (other : Bool) : Stall :=
  let k := blockKey st.cls frame l d
  let fresh : BlockStat := { wins := List.replicate 8 0, other := false, scroll := (upto 8).map fun j => effScroll st j }
  let b := if l % 16 = 0 ∧ d % 16 = 0 then fresh else (lookupN k st.ras.blocks).getD fresh
  let b := { b with other := b.other || other
                    wins := match layer with | some j => setNth b.wins j (nthD b.wins j 0 + 1) | none => b.wins }
  { st with ras := { st.ras with blocks := insertN k b st.ras.blocks } }

/-- The visible part of a dot: pixel, collision, block statistics (R182 – R191). -/
def renderVisible (st : Stall) (d l frame : Nat) : Stall :=
  let (px, layer, other) := pixelAt st d l
  let st := { st with ras := { st.ras with lines := insertN (lineKey st.cls frame l d) (BitVec.ofNat 16 px) st.ras.lines } }
  let st := noteBlock st frame l d layer other
  let (ss, sl, _) := collision st d l
  let s := st.ras.rpos
  let st := noteCollision st d l
  if (ss || sl) && bitAt (st.rword 0x21080A) 1 then noteCollLine st (s + tpd st.cls) else st

/-- The lines rendered so far, counted when the last visible dot of a visible line has been rendered. -/
def lineDone (st : Stall) : Bool :=
  let s := st.ras.rpos
  decide (lineOf st.cls s < visH st.cls) && dotOf st.cls s == visW st.cls - 1

/-! ### Hint maps (R196, R197) -/

/-- A pixel of the line area. -/
def pixelOf (st : Stall) (frame l d : Nat) : BitVec 16 := (lookupN (lineKey st.cls frame l d) st.ras.lines).getD 0

/-- Block (bx, by) of frame k equals the block at offset (dx, dy) of frame k - 1. -/
def blockEq (st : Stall) (k bx by_ : Nat) (dx dy : Int) : Bool :=
  (upto 16).all fun j => (upto 16).all fun i =>
    let x := 16 * bx + i
    let y := 16 * by_ + j
    pixelOf st k y x == pixelOf st (k + 1) ((y : Int) + dy).toNat ((x : Int) + dx).toNat

/-- The layer that won most pixels, the lower on a tie. -/
def topLayer (wins : List Nat) : Nat :=
  (wins.zipIdx.foldl (fun (best : Nat × Nat) p => if best.1 < p.1 then p else best) (0, 0)).2

/-- Reduce a scroll difference modulo the map size into −size/2 … size/2 − 1 (R196). -/
def reduceDiff (size : Nat) (a b : Nat) : Int :=
  let m := ((a : Int) - (b : Int)) % (size : Int)
  if m < (size : Int) / 2 then m else m - (size : Int)

/-- The entry of a block as its 32 bits (R197): 2 is DIRTY. The map size that reduces the vector is that of LCTL.MAPSZ as the render
view holds it when the slice has been drawn (DESIGN CHOICE, log entry 79). -/
def hintEntry (st : Stall) (k bx by_ : Nat) (first : Bool) : Nat :=
  let c := st.cls
  if first then 2
  else if blockEq st k bx by_ 0 0 then 0
  else
    let bk (f : Nat) := lookupN (blockKey c f (16 * by_) (16 * bx)) st.ras.blocks
    match bk k, bk (k + 1) with
    | some b, some b0 =>
      if b.other then 2
      else
        let j := topLayer b.wins
        match mapSize c (field (lctl st j) 2 3) with
        | none => 2
        | some (wt, ht) =>
          let dx := reduceDiff (wt * 8) (nthD b.scroll j (0, 0)).1 (nthD b0.scroll j (0, 0)).1
          let dy := reduceDiff (ht * 8) (nthD b.scroll j (0, 0)).2 (nthD b0.scroll j (0, 0)).2
          let x0 := (16 * bx : Int) + dx
          let y0 := (16 * by_ : Int) + dy
          if (dx ≠ 0 ∨ dy ≠ 0) ∧ 0 ≤ x0 ∧ x0 + 16 ≤ visW c ∧ 0 ≤ y0 ∧ y0 + 16 ≤ visH c ∧ blockEq st k bx by_ dx dy then
            1 + j * 4 + ofSigned 12 dx * 256 + ofSigned 12 dy * 2 ^ 20
          else 2
    | _, _ => 2

/-- Slices in a frame, and the key of a slice counted from frame 0: two frames. -/
def slicesPer (c : BeamClass) : Nat := visH c / 16
def sliceKey (c : BeamClass) (n : Nat) : Nat := n % (2 * slicesPer c)

/-- Classify the blocks of slice j of frame k, whose last dot has been drawn; frame k − 1 is still whole (R196). -/
def makeHints (st : Stall) (k j : Nat) : Stall :=
  let first := decide (k = st.ras.firstFrame)
  let es := (upto (visW st.cls / 16)).flatMap fun bx => leBytes 4 (hintEntry st k bx j first)
  { st with ras := { st.ras with made := insertN (sliceKey st.cls (k * slicesPer st.cls + j)) (first, es) st.ras.made } }

/-- Bytes of a stall's line area with its hint maps behind it, two frames each (R171, R197). -/
def hintBytes (c : BeamClass) : Nat := 16 + visW c / 16 * 4
def lineBytes (c : BeamClass) : Nat := 4 * visW c * visH c + 2 * slicesPer c * hintBytes c

/-! ### The dot at RPOS -/

/-- Process the dot at RPOS (R172): apply the stamped writes below it, latch, read line lists, decide the pixel. -/
def renderDot (st : Stall) : Stall :=
  let c := st.cls
  let s := st.ras.rpos
  let d := dotOf c s
  let l := lineOf c s
  let st := applyRaster st s
  let st := if s = 0 then
      let (rows, ovf) := latchSprites st 0
      { st with ras := { st.ras with nxt := rows, ovfNxt := ovf } }
    else st
  let st := if d = 0 then
      let st := { st with ras := { st.ras with cur := st.ras.nxt } }
      let st := match st.ras.ovfNxt with
        | some n => if l < visH c then noteOverflow st n else st
        | none => st
      let st := { st with ras := { st.ras with ovfNxt := none } }
      if l < visH c then readLineLists st l else st
    else st
  let st := if d < visW c ∧ l < visH c then renderVisible st d l (frameOf c s) else st
  let st := if d = visW c then
      let nl := (l + 1) % lpf c
      let (rows, ovf) := if nl < visH c then latchSprites st nl else ([], none)
      { st with ras := { st.ras with nxt := rows, ovfNxt := ovf } }
    else st
  let st := { st with ras := { st.ras with rpos := s + tpd c } }
  if l < visH c ∧ l % 16 = 15 ∧ d + 1 = visW c then makeHints st (frameOf c s) (l / 16) else st

/-- The hint map of slice j of frame k, from what was classified when the slice was drawn; without hints every block is DIRTY
(R196, R197). -/
def hintMap (st : Stall) (k j : Nat) (late hints : Bool) : Bytes :=
  let c := st.cls
  let n := visW c / 16
  let all : Bytes := (upto n).flatMap fun _ => leBytes 4 2
  let (first, es) := (lookupN (sliceKey c (k * slicesPer c + j)) st.ras.made).getD (decide (k = st.ras.firstFrame), all)
  leBytes 4 k ++ leBytes 2 j ++ leBytes 2 n ++ leBytes 1 (b2n late + 2 * b2n first) ++ leBytes 3 0 ++
    leBytes 2 st.num ++ leBytes 2 0 ++ (if hints then es else all)

/-- Every dot whose first tick is below `t` has been rendered (R31). -/
def rasterReached (st : Stall) (t : Nat) : Bool := decide (t ≤ st.ras.rpos)

end Sys2Proof.Machine
end

