-- ==== Sys2Proof/Config.lean ====
section
/-! DEFINITION. What the manual leaves to an implementation or to an outside standard: constants without a body. No proof can
see their values, so every claim holds whatever they are. -/
namespace Sys2Proof

/-- A fresh free value; `n` is the counter State.free (log entry 4). -/
opaque Config.freeValue : Nat → Nat

/-- DEV_SERIAL, drawn from OTP (R1). -/
opaque Config.devSerial : BitVec 64

/-- SHA-256, SHA-384 and HMAC-SHA-256 as outside standards define them (R106, R449, R509). -/
opaque Config.sha256 : Bytes → Bytes
opaque Config.sha384 : Bytes → Bytes
opaque Config.hmac256 : Bytes → Bytes → Bytes

/-- AES-GCM: key, nonce, associated data, text to sealed text, and back where the tag verifies (R388, R396, R403, R455). -/
opaque Config.gcmSeal : Bytes → Bytes → Bytes → Bytes → Bytes
opaque Config.gcmOpen : Bytes → Bytes → Bytes → Bytes → Option Bytes

/-- A signature check: key, message, signature (R450, R511). -/
opaque Config.sigOk : Bytes → Bytes → Bytes → Bool

/-- What follows the TOC byte of an Opus packet: the free counter, channels, the samples of the frame (R290). -/
opaque Config.opus : Nat → Nat → List (Int × Int) → Bytes

/-- The base MAC address, drawn from OTP (R384): port n uses base + n. -/
opaque Config.macBase : BitVec 48

/-- A control message of the yard, whose format is not given (R403, R412): its kind and the stall that it names at the device it is sent
to; and what a message says, where it is one. -/
opaque Config.control : Nat → Nat → Bytes
opaque Config.controlOf : Bytes → Option (Nat × Nat)

/-- The frame with which firmware answers ARP, neighbour discovery or an echo (R386): the free counter and the request. -/
opaque Config.answer : Nat → Bytes → Bytes

end Sys2Proof
end

