-- ==== Sys2Proof/Machine/DevState.lean ====
section
/-! DEFINITION. The records of the device outside the stalls: log, deliveries, rings and jobs. -/
namespace Sys2Proof.Machine

/-- A log entry (R458): 32 bytes, SEQ, CODE, SEVERITY, SOURCE, CAD_TIME, arguments. -/
structure LogRec where
  seq  : Nat
  code : Nat
  sev  : Nat
  src  : Nat
  time : Nat
  args : Bytes
  deriving DecidableEq, Repr

/-- A delivery captured for a data ring class and not yet written (R464, R465). -/
structure Delivery where
  cls  : Nat
  id   : Nat
  time : Nat
  data : Bytes
  deriving DecidableEq, Repr

/-- Where a job stands (R433 – R435). -/
inductive JobPhase
  /-- Taken, not started. -/
  | queued
  /-- Started; `moved` of its bytes have moved. -/
  | running
  /-- Ended with a status and a result; its completion entry is not written. -/
  | done (status result : Nat)
  deriving DecidableEq, Repr

/-- A job of a ring (R428): TAG, FENCE, opcode, PARAM, the opcode data of a single entry, elements (address, LEN). -/
structure Job where
  tag   : Nat
  fence : Bool
  op    : Nat
  param : Nat
  data  : Bytes
  elems : List (Nat × Nat)
  phase : JobPhase
  open_ : Bool       -- an RX_BUFFER job offers its buffers
  moved : Nat
  since : Nat        -- CAD_TIME of the first delivery, for RX_BUFFER (R465)
  deriving DecidableEq, Repr

/-- A ring pair (R425); the indexes and phases are fields of RNG_STATE. -/
structure Ring where
  num   : Nat
  sqLog : Nat
  cqLog : Nat
  vec   : Nat
  cls   : Nat
  sqBase : Nat
  cqBase : Nat
  jobs  : List Job       -- oldest first
  chain : List Bytes     -- entries taken of an open job
  armed : Bool           -- the vector may be sent (R434)
  fetching : Bool        -- entries are being fetched (R432)
  pollAt : Nat           -- CAD_TIME at which fetching stopped on an entry of the other phase
  deriving DecidableEq, Repr

/-- A translation fault record (R381, MEM_XFAULT). -/
structure XFault where
  kind  : Nat
  agent : Nat
  write : Bool
  stall : Nat
  index : Nat
  deriving DecidableEq, Repr

/-! ### Streams (R202 – R265) -/

/-- A bed: the raster and the course descriptors it was built for, its rectangle, its pixels, R, G, B, A each, and its address and
extents in the BED shed (R214, R367). -/
structure Bed where
  w       : Nat
  h       : Nat
  members : List (Nat × Bytes)
  x       : Nat
  y       : Nat
  bw      : Nat
  bh      : Nat
  px      : Bytes
  addr    : Nat
  exts    : List Nat
  deriving DecidableEq, Repr

/-- An accepted commit that has not taken effect: the copy, CAD_TIME of acceptance and of the completion of its beds. -/
structure Commit where
  copy  : Bytes
  since : Nat
  bedAt : Option Nat
  beds  : List Bed
  deriving DecidableEq, Repr

/-- A stream frame begun at its boundary and not yet wholly composed: its descriptor, and the next slice. -/
structure SFrame where
  n     : Nat
  desc  : Bytes
  beds  : List Bed
  held  : Bool
  first : Bool
  raw   : Bool       -- SPLIT_ENCODE is host-assisted for this frame
  j     : Nat
  late  : List Nat   -- lines of the game frame that came too late for a slice of this frame (R221)
  coded : Bool       -- the stream had a CODEC when slice 0 was composed (R253)
  gone  : List Stall -- stalls destroyed since the frame began, as they stood (R222)
  deriving DecidableEq, Repr

/-- A composed slice that awaits coding: frame, slice, due time, completion time, stream raster, FLAGS and entries of its
stream hint map, and whether it ends the frame. -/
structure SliceRec where
  n     : Nat
  j     : Nat
  due   : Int
  done  : Nat
  w     : Nat
  h     : Nat
  out   : Nat
  flags : Nat
  hints : List Nat
  fin   : Bool
  deriving DecidableEq, Repr

/-- The encoder stream descriptor (R265). -/
structure Esd where
  codec   : Nat
  profile : Nat
  flags   : Nat
  rcmode  : Nat
  qpMin   : Nat
  qpMax   : Nat
  qpFixed : Nat
  refresh : Nat
  target  : Nat
  min     : Nat
  max     : Nat
  keyint  : Nat
  keyreq  : Bool
  loss    : Nat
  outAddr : Nat
  outSize : Nat
  cap     : Nat
  wr      : Nat
  rd      : Nat
  refAddr : Nat
  qpLast  : Nat
  rateNow : Nat
  deriving DecidableEq, Repr

/-- No encoder: CODEC OFF. -/
def Esd.off : Esd :=
  { codec := 0, profile := 0, flags := 0, rcmode := 0, qpMin := 0, qpMax := 0, qpFixed := 0, refresh := 0, target := 0, min := 0
    max := 0, keyint := 0, keyreq := false, loss := 0, outAddr := 0, outSize := 0, cap := 0, wr := 0, rd := 0, refAddr := 0
    qpLast := 0, rateNow := 0 }

/-- The encoder's state for a stream beside its descriptor (R235, R243, R252 – R256). -/
structure Enc where
  ready   : List SliceRec       -- composed slices not yet coded, in order
  coded   : Bool                -- some frame has been coded
  seq     : Nat × Nat × Nat × Nat -- CODEC, PROFILE, WIDTH, HEIGHT of the sequence in progress
  frame   : Nat                 -- the frame whose rows are being coded
  codec   : Nat                 -- its CODEC and PROFILE
  profile : Nat
  tools   : Nat                 -- its FLAGS.LF, IBC and PALETTE
  key     : Bool                -- it is a key frame
  newSeq  : Bool                -- and starts a new sequence
  since   : Nat                 -- frames since the last key frame
  count   : Nat                 -- frames coded in ADAPT, for the update of every 6th
  lost    : Bool                -- the frame lost a record: the next is a key frame
  debt    : Int
  qp      : Nat
  qpSet   : Bool                -- the first sequence has set qp
  bqp     : List (Nat × Nat)    -- QP per block of the reconstruction that the frame refers to
  bqpNew  : List (Nat × Nat)    -- QP per block of the reconstruction being made
  recon   : List (Nat × Bytes)  -- reconstructed planes per block, two frames (R235)
  changed : Bool                -- CODEC or PROFILE has changed since the last frame began (R253)
  old     : Option Esd          -- and the settings before that change, under which the rows of that frame are coded
  rated   : Bool                -- the ADAPT rate has started (R256)
  vecs    : List (Nat × List Nat) -- SCROLLED entries per slice of the previous frame
  deriving DecidableEq, Repr

def Enc.idle : Enc :=
  { ready := [], coded := false, seq := (0, 0, 0, 0), frame := 0, codec := 0, profile := 0, tools := 0, key := false
    newSeq := false, since := 0, count := 0, lost := false, debt := 0, qp := 0, qpSet := false, bqp := []
    bqpNew := [], recon := [], changed := false, old := none, rated := false, vecs := [] }

/-- A stream (R202, R205, R265). -/
structure Stream where
  num     : Nat
  act     : Bytes               -- active descriptor, 512 bytes
  shadow  : Bytes               -- shadow descriptor
  commit  : Option Commit
  beds    : List Bed
  frames  : List SFrame         -- oldest first
  descs   : List (Nat × Bytes)  -- descriptors of the newest frames begun, by frame number (R217, R228)
  fresh   : Bool                -- the next frame is the first, or the first after a change of header or course
  regHold : Bool                -- a region of ACTION HOLD mismatched (R226)
  esd     : Esd
  enc     : Enc
  exts    : List Nat            -- STREAM extents of its output, hint and reference areas and its ring (R367)
  deriving DecidableEq, Repr

/-- A coding row in progress on an encoder core (R235). -/
structure RowJob where
  core   : Nat
  stream : Nat
  n      : Nat
  j      : Nat
  slices : List SliceRec
  key    : Bool
  newSeq : Bool
  codec  : Nat
  profile : Nat
  flags  : Nat
  qp     : Nat
  rate   : Nat
  rcmode : Nat
  qpMin  : Nat
  qpMax  : Nat
  refresh : Nat
  maxRate : Nat      -- MAX as it stood when the row began (R247, R248)
  since  : Nat       -- CAD_TIME at which the row began
  gone   : Bool      -- its stream has been destroyed: the row is discarded (R260)
  deriving DecidableEq, Repr

/-- Levels of the monitor port's outputs: MON_CLK, MON_HS, MON_VS, MON_DE and the colour, none where nothing states it (R228, R230). -/
structure MonPins where
  clk : Bool
  hs  : Bool
  vs  : Bool
  de  : Bool
  rgb : Option Nat
  deriving DecidableEq, Repr

/-- All outputs low (R230). -/
def MonPins.low : MonPins := { clk := false, hs := false, vs := false, de := false, rgb := some 0 }

/-- The monitor port: the values applied (R230), the frame in progress, its line buffer and the levels of its outputs. -/
structure Monitor where
  mode   : Nat
  hspol  : Nat
  vspol  : Nat
  src    : Nat
  stall  : Nat
  mul    : Nat
  div    : Nat
  h0     : Nat
  h1     : Nat
  v0     : Nat
  v1     : Nat
  start  : Nat                 -- the next frame to show, by cadence frame
  inFrame : Bool               -- the active region of a frame is being shown
  frame  : Nat
  desc   : Option Bytes        -- the descriptor with which the stream frame shown was composed
  fills  : List Nat            -- the fewest pixels that the line buffer holds in each active line of the frame; 4,096 where not listed
  line   : Nat                 -- the next active line
  under  : List (Nat × Nat)    -- lines that underran, and the first pixel that did
  sent   : Bytes               -- R, G, B of the active pixels of the frame sent to the pads so far, in order (R231)
  pins   : MonPins
  deriving DecidableEq, Repr

/-- The Reset values of the MON registers (R233). -/
def Monitor.reset : Monitor :=
  { mode := 0, hspol := 0, vspol := 0, src := 0, stall := 0, mul := 1, div := 1, h0 := 0, h1 := 0, v0 := 0, v1 := 0, start := 0
    inFrame := false, frame := 0, desc := none, fills := [], line := 0, under := [], sent := [], pins := .low }

/-- A mailbox response: STATUS and the payload dwords (R421). -/
structure Resp where
  status : Nat
  data   : List Nat
  deriving DecidableEq, Repr

def Resp.ok (l : List Nat := []) : Resp := { status := 0, data := l }
def Resp.err (n : Nat) : Resp := { status := n, data := [] }

end Sys2Proof.Machine
end

