-- ==== Sys2Proof/Machine/UnitState.lean ====
section
/-! DEFINITION. The records of the yard ports and the yard, of the Hod engine's host subchannels and of the Mover (R326 – R415). -/
namespace Sys2Proof.Machine

/-! ### The yard (R384 – R415) -/

/-- A path of a route (R405): next-hop MAC address, port, hops, the CAD_TIME of the last HELLO that confirmed it, and the
neighbour through which a 2-hop path was learned. -/
structure YPath where
  mac   : Nat
  port  : Nat
  hops  : Nat
  heard : Nat
  via   : Nat
  deriving DecidableEq, Repr

/-- A route table entry in use (R405). -/
structure YRoute where
  entry : Nat
  yard  : Nat
  paths : List YPath
  deriving DecidableEq, Repr

/-- A DATA packet kept for a peer: SEQ, CLASS, plaintext and the CAD_TIME at which it was queued or arrived; one that waits to be sent has
no SEQ yet. -/
structure YData where
  seq  : Nat
  cls  : Nat
  data : Bytes
  at_  : Nat
  deriving DecidableEq, Repr

/-- A device heard directly on a port: yard, MAC address, CAD_TIME of its last HELLO. -/
structure Heard where
  port : Nat
  yard : Nat
  mac  : Nat
  at_  : Nat
  deriving DecidableEq, Repr

/-- A peer's two sequence spaces (R403, R407, R408). -/
structure Peer where
  yard    : Nat
  up      : Bool
  txPn    : Nat
  txSeq   : Nat
  unacked : List YData        -- sent, oldest first
  queued  : List YData        -- waiting for room in the window
  advAt   : Nat               -- CAD_TIME of the last advance of the ACK, or of the first packet outstanding
  resentAt : Nat              -- CAD_TIME of the last full retransmission
  noRoute : Option Nat        -- CAD_TIME since when there is no route
  turn    : Nat               -- spreads DATA over the paths
  rxExp   : Nat
  rxHeld  : List YData
  rxPns   : List Nat          -- the highest PNs accepted, at most 1,024, rising
  rxDue   : Nat               -- packets delivered and not acknowledged
  rxSince : Nat               -- CAD_TIME of the first of them
  nakAt   : Option Nat        -- a NAK has been sent for the gap at this CAD_TIME
  deriving DecidableEq, Repr

def Peer.new (yard time : Nat) : Peer :=
  { yard, up := true, txPn := 0, txSeq := 0, unacked := [], queued := [], advAt := time, resentAt := time, noRoute := none
    turn := 0, rxExp := 0, rxHeld := [], rxPns := [], rxDue := 0, rxSince := time, nakAt := none }

/-- A LINK delivery on its way to a stall of this device (R409). -/
structure LinkMsg where
  stall   : Nat
  sub     : Nat
  seq     : Nat
  release : Int
  late    : Bool
  data    : Bytes
  deriving DecidableEq, Repr

/-- What the ingress classifier gave to a destination (R386): 0 PTP, 1 yard transport, 2 input path, 3 RTCP; 4 a control message of the
yard for its handler. `who` is the flow, the stream or the yard, `mac` the sender, `at_` the CAD_TIME of the frame (R384). -/
structure Ingress where
  kind : Nat
  port : Nat
  who  : Nat
  mac  : Nat
  data : Bytes
  at_  : Nat
  deriving DecidableEq, Repr

/-- An input flow that the classifier holds: index and descriptor (R390). -/
structure Flow where
  num  : Nat
  desc : Bytes
  deriving DecidableEq, Repr

/-- A key slot (R388, R395, R402): KIND, flow or stream, slot, effective frame, key, salt. -/
structure KeySlot where
  kind : Nat
  idx  : Nat
  slot : Nat
  from_ : Nat
  key  : Bytes
  salt : Bytes
  deriving DecidableEq, Repr

/-- What a frame sent on a yard port carries of the fields that the spec gives it: next-hop MAC address, 802.1Q tag control, DSCP, IP
version and addresses, UDP ports and payload (R384, R392, R402). -/
structure Wire where
  mac   : Nat
  tci   : Option Nat
  dscp  : Nat
  ipv6  : Bool
  src   : Bytes
  dst   : Bytes
  sport : Nat
  dport : Nat
  data  : Bytes
  deriving DecidableEq, Repr

/-- A media packet formed and not yet sent: its IP packet bytes, RTP timestamp, marker and payload (R393, R394). -/
structure TxPkt where
  size : Nat
  ts   : Nat
  m    : Bool
  data : Bytes
  deriving DecidableEq, Repr

/-- A stream as the packet engine holds it (R392, R395 – R398). -/
structure NetStream where
  num    : Nat
  desc   : Bytes            -- the network descriptor, 128 bytes
  port   : Nat              -- the port in use
  bucket : Nat              -- bytes × 10⁹ in the token bucket
  fillAt : Nat              -- CAD_TIME at which the bucket was last filled
  vq     : List TxPkt       -- video packets of the record in progress still to be sent
  vrec   : List TxPkt       -- all its packets, for a port failure
  vnum   : Nat              -- how many of them have a sequence number
  vkey   : Option KeySlot   -- the key that protects it
  vdone  : Nat              -- its DONE time
  vrd    : Nat              -- RD once its last packet has been handed on
  aq     : List TxPkt       -- audio packets of the record in progress still to be sent, and as for video
  arec   : List TxPkt
  anum   : Nat
  akey   : Option KeySlot
  adone  : Nat
  ard    : Nat
  octets : Nat × Nat        -- payload octets of video and audio, for the sender reports
  count  : Nat × Nat        -- packets of video and audio, for the sender reports
  srAt   : Nat              -- CAD_TIME of the last sender report
  srIdx  : Nat              -- SRTCP index
  deriving DecidableEq, Repr

/-- A migration (R412 – R414). `attempt` counts boundaries at which the final record was too large, `tried` is the last. -/
structure Mig where
  stall   : Nat
  yard    : Nat
  dest    : Nat
  source  : Bool            -- this device is S
  parked  : Bool            -- the stall is parked with MIGRATE and its final record sent
  ready   : Bool            -- READY received and COMMIT sent, or READY sent
  doubt   : Bool
  attempt : Nat
  tried   : Nat
  flows   : List Flow       -- a's input flows as they were before step 4
  deriving DecidableEq, Repr

/-- A service address (R384): index, IPv6, address bytes. -/
structure SvcAddr where
  idx  : Nat
  ipv6 : Bool
  addr : Bytes
  deriving DecidableEq, Repr

/-! ### Host subchannels of the Hod engine (R326 – R330) -/

/-- Where a host program stands. -/
inductive HostPhase | idle | fetch | list | units | waiting | paused | fault
  deriving DecidableEq, Repr

/-- A host subchannel H0 – H63. The device window's position is `pos`; segments are what is left of the brick's data. -/
structure HostSub where
  phase  : HostPhase
  addr   : Nat
  brick  : Bytes
  pos    : Nat
  segs   : List (Nat × Nat)
  off    : Nat                 -- bytes of the brick moved
  arg    : Bytes               -- argument bytes read of a CONTROL
  joinOp : Nat
  idleN  : Nat
  since  : Nat                 -- CAD_TIME at which the brick started
  back   : HostPhase           -- where a program suspended with TRANS_FAULT stood
  deriving DecidableEq, Repr

def HostSub.reset : HostSub :=
  { phase := .idle, addr := 0, brick := [], pos := 0, segs := [], off := 0, arg := [], joinOp := 0, idleN := 0, since := 0
    back := .idle }

/-! ### The Mover (R335 – R357) -/

/-- The descriptor in progress on a channel: the funnel (R341), or the step and access of a reshuffle or blit. -/
structure MovCh where
  busy  : Bool
  desc  : Bytes
  rd    : Nat
  wr    : Nat
  leftR : Nat
  leftW : Nat
  held  : Bytes      -- the funnel, or the row buffer
  step  : Nat
  acc   : Nat        -- accesses of the step done
  fault : Bool
  halting : Bool     -- HALT was written inside a segment: the descriptor ends when the segment has been written (R354)
  deriving DecidableEq, Repr

def MovCh.idle : MovCh :=
  { busy := false, desc := [], rd := 0, wr := 0, leftR := 0, leftW := 0, held := [], step := 0, acc := 0, fault := false, halting := false }

/-! ### Packages and the re-adoption root (R449, R451, R504) -/

/-- What firmware knows of the package it runs: VERSION, SEC_EPOCH, the interface epochs of SMC, HOD and ENC, and which of
these images lie within their ranges. -/
structure Pkg where
  version : Nat
  epoch   : Nat
  smc     : Nat
  hod     : Nat
  enc     : Nat
  smcOk   : Bool
  hodOk   : Bool
  encOk   : Bool
  deriving DecidableEq, Repr

end Sys2Proof.Machine
end

