-- ==== Sys2Proof/Machine/State.lean ====
section
/-! DEFINITION. The state of the device, as plain data, with its reset. -/
namespace Sys2Proof.Machine

/-- The device modes (R479), in code order. -/
inductive Mode
  | off | slumber | boot | load | reject | service | serve | serveDegraded | drowse | failStop | debugFreeze | conformance
  deriving DecidableEq, Repr

/-- What the device sends out and the model only records: messages, packets, pins, responses. -/
inductive Out
  /-- An MSI-X message on a vector (R476, R439). -/
  | msix (vector : Nat)
  /-- The interrupt line of an MP core rises and wakes the core (R472). -/
  | wake (core : Nat)
  /-- A request of the host that BAR0, BAR2 or BAR4 does not accept: a read that completes with Unsupported Request, or a write reported
  as an advisory non-fatal error (R420). -/
  | pcieError (write : Bool)
  /-- A packet transmitted on a yard port (R392, R393, R396, R398, R403). -/
  | packet (port : Nat) (wire : Wire)
  /-- A frame with which firmware answers on a yard port (R386). -/
  | frame (port : Nat) (data : Bytes)
  /-- A response byte string on MGMT (R566, R567). -/
  | mgmt (data : Bytes)
  /-- A device output pin driven: its number in R541 and its level. -/
  | pin (pin : Nat) (level : Bool)
  /-- A video pixel row, or border, shown by the monitor port (R228). -/
  | monitor (frame : Nat) (data : Bytes)
  /-- A delivery sent to a stall of the device or of another yard (R322). -/
  | link (yard stall sub : Nat) (data : Bytes)
  /-- Firmware's refusal of a program of host subchannel H `sub` with an error (R332). -/
  | refused (sub code : Nat)
  deriving DecidableEq, Repr

/-- A registered title (R460): its handle, digest, program bytes, cartridge, media and initial-data images, save size,
microcode image, classes permitted, pages of the image, offsets of PROG and CART in it, and the TITLE extents of its frames. -/
structure Title where
  handle : Nat
  digest : Bytes
  classes : Nat
  pages  : Nat
  progAt : Nat
  cartAt : Nat
  init   : Bytes
  prog   : Bytes
  cart   : Bytes
  media  : Bytes
  save   : Nat
  ucs    : Option Bytes
  exts   : List Nat
  deriving DecidableEq, Repr

/-- What a WARMRST leaves in HBM for re-adoption (R504, R505): the line of the firmware that wrote it, the registered titles,
the stalls with their checkpoints, input logs and lanes, their places (stall, stable, position), streams, flows and network
descriptors, the extent map and seals as register slots, and MEM_PTDIR_BASE. -/
structure Root where
  line    : Nat
  titles  : List Title
  stalls  : List Stall
  places  : List (Nat × Nat × Nat)
  streams : List Stream
  flows   : List Flow
  nets    : List NetStream
  map     : List (Nat × QWord)
  ptdir   : Nat
  deriving DecidableEq, Repr

/-- Why the model stops. No command of the table stops the machine: the type keeps one reason that the refused arms of exec
do not need, and that nothing raises. -/
inductive Fault
  /-- Raised by nothing; safe. -/
  | none
  deriving DecidableEq, Repr

/-- Why a command is refused. -/
inductive Refusal
  /-- Raised by an arm of exec whose command has no meaning yet; safe. -/
  | notModelled (mnemonic : String)
  deriving DecidableEq, Repr

/-- The device. -/
structure State where
  pending : List Instr
  time    : Nat                    -- CAD_TIME in ns
  slew    : Int                    -- the frequency correction of CAD_TIME in ppm (R401)
  slewAcc : Nat                    -- what it has accumulated below 1 ns, in 10⁻⁶ ns
  free    : Nat                    -- the model's own counter of free values drawn
  mode    : Mode
  prior   : Mode                   -- the mode before DEBUG_FREEZE
  detail  : Nat                    -- DEV_MODE.DETAIL
  regs    : List (Nat × QWord)     -- BAR0, by offset / 8; unlisted slots read their reset value
  hbm     : Mem                    -- HBM by device physical address
  host    : Mem                    -- bytes written to host memory, by PCIe address
  out     : List Out
  titles  : List Title
  stalls  : List Stall
  sbuf    : List StoreEntry        -- the store buffers of the session cores, oldest entry first (R128)
  log     : List LogRec            -- the newest entries, oldest first (R458)
  logSeq  : Nat                    -- SEQ of the next log entry
  captured : List Delivery         -- deliveries captured and not yet written (R465)
  dropped : List Nat               -- deliveries dropped, CLASS 1 – 8 (FW_STATUS)
  rings   : List Ring
  linkUp  : Bool                   -- the PCI Express link is up
  reqTaken : Bool                  -- the outstanding mailbox request has been taken (R422)
  xfaults : List XFault            -- the MEM_XFAULT queue, oldest first
  streams : List Stream
  validating : Option (Nat × Bytes) -- the commit under validation: stream and copy (R216)
  encChange : Option Nat           -- CAD_TIME of the last change of SPLIT_ENCODE (R467)
  encJobs : List RowJob
  encFront : List Nat              -- streams whose discarded row is first in the queue (R262)
  spareDue : Bool                  -- the spare encoder core has been taken and is not yet ACTIVE (R262)
  mon     : Monitor
  swapReq : Option (Nat × Bool)    -- the graph swap under validation: stall and RAMP (R284)
  deferred : List (Nat × Nat)      -- covered faults (KIND, UNIT) recorded in DEBUG_FREEZE and not yet recovered (R500)
  resident : List Nat              -- stall subchannels resident in the Hod engine, stall × 8 + s (R331)
  hsubs   : List HostSub           -- H0 – H63
  movs    : List MovCh             -- Mover channels 0 – 7
  movLast : Nat                    -- the channel that made the last burst or segment access (R336)
  links   : List LinkMsg           -- deliveries on their way to stalls of this device
  ingress : List Ingress           -- what the classifier has given to a destination and nothing has taken
  flows   : List Flow
  keys    : List KeySlot
  nets    : List NetStream
  addrs   : List SvcAddr
  routes  : List YRoute
  peers   : List Peer
  mcastPn : Nat                    -- the packet number counter of DST_YARD 0xF_FFFF
  yardKeyUsed : Bool               -- the yard key has been used for an attach (R402, R463)
  yardOn  : Bool                   -- ATTACH is 1 and a yard key unused before it takes part (R402)
  leaving : List Nat               -- LEAVING HELLOs still to be sent per port after ATTACH became 0 (R415)
  leaveYard : Nat                  -- the yard number that they carry
  early   : List (Nat × Latched)   -- forwarded inputs for a stall that is still to come by migration (R412)
  heard   : List Heard
  helloPns : List (Nat × List Nat) -- PNs accepted of each device's HELLOs, at most 1,024
  hellos  : List Nat               -- HELLOs sent per port, for the neighbour list
  helloAt : List Nat               -- CAD_TIME of the last HELLO per port
  migs    : List Mig
  ptpGood : Nat                    -- consecutive Sync intervals within 1 µs (R401)
  cadLatch : Option Nat            -- CAD_TIME_HI as a read of CAD_TIME_LO latched it for the next read of CAD_TIME_HI
  takeoverAt : Nat                 -- CAD_TIME at which the stall recovery in progress was detected (FLT_RECOVER)
  rdata   : Nat                    -- the model's own: what the last register read returned
  ueFrames : List Nat              -- 4 KiB frames with an uncorrectable error since the last DEVRST (R501)
  ceFrames : List (Nat × Nat)      -- corrected errors per frame since the last DEVRST (R365)
  retired : List Nat               -- the retired list (R365)
  inServ  : List (Nat × Nat)       -- sources in service and their targets (R473)
  arb     : List (Nat × Nat × Nat) -- eligible sources at the last arbitration: source, target, PRIO (R471)
  told    : List Nat               -- sources for which HOST has been sent a message (R476)
  mpwEnd  : List Nat               -- CAD_TIME at which MPW0 and MPW1 expire (R492)
  mpwLeft : List (Option Nat)      -- the µs at which a frozen MPW stands (R493)
  orphanAt : Option Nat            -- CAD_TIME at which the orphan timer began (R443)
  rstDue  : Option (Bool × Nat)    -- a reset answered and not yet performed: WARMRST, CAD_TIME of the response (R458)
  fwLen   : Option Nat             -- length of the last FW_BEGIN in force (R447)
  pkg     : Option Pkg             -- the package that runs or starts
  warm    : Bool                   -- the boot in progress follows a WARMRST
  root    : Option Root
  monGrant : Bool                  -- DEVICE_SET item 2 grants MON to the host (R233, R459)
  frozen  : List Nat               -- stalls halted by DEBUG_FREEZE (R529)
  nonceAt : Option Nat             -- CAD_TIME at which an unexpired, unused nonce was drawn (R509)
  failAt  : Option Nat             -- CAD_TIME of the last failed UNLOCK (R510)
  otpEpoch : Nat                   -- fuses blown in SEC_EPOCH (R514)
  otpRevoked : Nat                 -- FWKEY_REVOKE
  tapIr   : Nat                    -- the TAP instruction in force (R518)
  tapDr   : Nat                    -- what the selected data register holds
  pads    : Nat                    -- pad levels of GPIO 31 – 0
  pinLow  : Bool                   -- THROTTLE_N is low
  hot     : Bool                   -- the hottest sensor has reached 95 °C and not fallen below 92 °C (R569)
  trip    : Bool                   -- THERMTRIP_N is low (R570)
  alert   : Bool                   -- MGMT_ALERT_N is low (R565)
  mgmt    : Nat                    -- LAST_STATUS (R567)
  chainIn : Bool                   -- CHAIN_IN level
  chainAt : Nat                    -- CAD_TIME at which it rose
  chainUp : Bool                   -- 100 µs had passed since at the last reset: an unaddressed device answers (R564)
  perst   : Bool                   -- PERST_N is asserted
  resetN  : Bool                   -- RESET_N is low
  testEn  : Bool                   -- TEST_EN is high
  rails   : Bool                   -- every rail is good
  clocks  : Nat                    -- reference clocks that run: REFCLK25, XTAL32, PCIE_REFCLK, NET_REFCLK
  railLost : Bool                  -- a supply or clock has failed: the Slumber-exit reset follows (R547)
  held    : Bool                   -- every domain but the always-on domain is held in reset (R482, R542, R544)
  waking  : Bool                   -- a wake waits for the supplies (R491)
  wakeN   : Bool                   -- WAKE_N is driven low (R491)
  deriving DecidableEq, Repr

/-- The device right after POR, held until its supplies and clocks are good: mode BOOT, every register at its Reset value
(R482, R446, R544). -/
def State.reset : State :=
  { pending := [], time := 0, slew := 0, slewAcc := 0, free := 0, mode := .boot, prior := .boot, detail := 0, regs := [], hbm := [], host := []
    out := [], titles := [], stalls := [], sbuf := [], log := [], logSeq := 0, captured := [], dropped := List.replicate 8 0, rings := []
    linkUp := false, reqTaken := false, xfaults := [], streams := [], validating := none, encChange := none, encJobs := []
    encFront := [], spareDue := false, mon := .reset, swapReq := none, deferred := [], resident := []
    hsubs := List.replicate 64 .reset, movs := List.replicate 8 .idle, movLast := 7, links := [], ingress := [], flows := [], keys := []
    nets := [], addrs := [], routes := [], peers := [], mcastPn := 0, yardKeyUsed := false, yardOn := false, leaving := List.replicate 8 0, leaveYard := 0, early := []
    heard := [], helloPns := []
    hellos := List.replicate 8 0, helloAt := List.replicate 8 0, migs := [], ptpGood := 0
    cadLatch := none, takeoverAt := 0, rdata := 0, ueFrames := [], ceFrames := [], retired := [], inServ := [], arb := [], told := []
    mpwEnd := [0, 0], mpwLeft := [none, none], orphanAt := none, rstDue := none, fwLen := none, pkg := none, warm := false
    root := none, monGrant := false, frozen := [], nonceAt := none, failAt := none, otpEpoch := 0, otpRevoked := 0
    tapIr := 0x01, tapDr := 0x130729AF, pads := 0, pinLow := false, hot := false, trip := false, alert := false, mgmt := 0
    chainIn := false, chainAt := 0, chainUp := false, perst := false, resetN := false, testEn := false, rails := false
    clocks := 12, railLost := false, held := true, waking := false, wakeN := false }

end Sys2Proof.Machine
end

