-- ==== Sys2Proof/Machine/Ops.lean ====
section
/-! DEFINITION. The named operations over the device's state: the register file, stalls, titles, events, output, host and
device memory, and modes. -/
namespace Sys2Proof.Machine

/-- What a command answers. -/
abbrev Answer := Host.Outcome State Fault Refusal

/-! ### The register file -/

/-- The reset value of an aligned 8-byte slot. -/
def resetFrom : List RegDef → Nat → Nat
  | [], _ => 0
  | d :: r, o =>
    let here (k : Nat) : Nat :=
      match d.hit (o + k) with
      | some 0 => d.fields.foldl (fun v f => v + f.rst * 2 ^ f.lo) 0 * 2 ^ (8 * k)
      | _ => 0
    here 0 + (if d.size = 4 then here 4 else 0) + resetFrom r o

/-- The reset value of slot q. -/
def resetQ (q : Nat) : QWord := BitVec.ofNat 64 (resetFrom rstRegs (8 * q))

/-- The value of slot q. -/
def getQ (m : List (Nat × QWord)) (q : Nat) : QWord := (lookupN q m).getD (resetQ q)

/-- Set slot q; a slot at its reset value is not listed. -/
def setQ (m : List (Nat × QWord)) (q : Nat) (v : QWord) : List (Nat × QWord) :=
  if v = resetQ q then eraseN q m else insertN q v m

/-- The register file is canonical: slots rising, none at its reset value. -/
def regsWfFrom : Option Nat → List (Nat × QWord) → Bool
  | _, [] => true
  | lo, (k, v) :: r => (match lo with | none => true | some l => decide (l < k)) && !(v == resetQ k) && regsWfFrom (some k) r

def regsWf (m : List (Nat × QWord)) : Bool := regsWfFrom none m

/-- The value of a field. -/
def State.get (s : State) (f : Fld) : Nat := field (getQ s.regs (f.off / 8)).toNat (8 * (f.off % 8) + f.lo) f.w

/-- Set a field. -/
def State.put (s : State) (f : Fld) (v : Nat) : State :=
  let q := f.off / 8
  { s with regs := setQ s.regs q (BitVec.ofNat 64 (putField (getQ s.regs q).toNat (8 * (f.off % 8) + f.lo) f.w v)) }

/-- Set several fields in order. -/
def State.puts (s : State) (l : List (Fld × Nat)) : State := l.foldl (fun s p => s.put p.1 p.2) s

/-- Add 1 to a saturating field. -/
def State.inc (s : State) (f : Fld) : State := s.put f (satInc (2 ^ f.w - 1) (s.get f))

/-- A whole 32-bit or 64-bit register. -/
def State.reg32 (s : State) (off : Nat) : Nat := s.get ⟨off, 0, 32⟩
def State.reg64 (s : State) (off : Nat) : Nat := s.get ⟨off, 0, 64⟩
def State.putReg32 (s : State) (off v : Nat) : State := s.put ⟨off, 0, 32⟩ v

/-- Return every register of an address range to its reset value. -/
def State.resetRange (s : State) (lo hi : Nat) : State :=
  { s with regs := s.regs.filter fun p => decide (8 * p.1 < lo) || decide (hi ≤ 8 * p.1) }

/-! ### Stalls and titles -/

/-- The stall of a number, if it exists. -/
def State.stall? (s : State) (k : Nat) : Option Stall := s.stalls.find? fun st => st.num == k

/-- Replace a stall by its number. -/
def State.setStall (s : State) (st : Stall) : State :=
  { s with stalls := s.stalls.map fun x => if x.num == st.num then st else x }

/-- Change a stall, if it exists. -/
def State.onStall (s : State) (k : Nat) (f : Stall → Stall) : State :=
  match s.stall? k with
  | some st => s.setStall (f st)
  | none => s

/-- A registered title by handle. -/
def State.title? (s : State) (h : Nat) : Option Title := s.titles.find? fun t => t.handle == h

/-! ### Placement (R136 – R141) -/

/-- SCH_LMAP fields of logical stable L. -/
def lmapSlot (l : Nat) : Fld := ⟨0x210000 + l, 0, 5⟩
def lmapValid (l : Nat) : Fld := ⟨0x210000 + l, 7, 1⟩

/-- The slot that carries a logical stable (R136). -/
def State.slotOfL (s : State) (l : Nat) : Option Nat := if s.get (lmapValid l) = 1 then some (s.get (lmapSlot l)) else none

/-- SCH_PLACE fields of stall k. -/
def placeValid (k : Nat) : Fld := SCH_PLACE_VALID.nth 4 k
def placeL (k : Nat) : Fld := SCH_PLACE_LSTABLE.nth 4 k
def placePos (k : Nat) : Fld := SCH_PLACE_POS.nth 4 k
def placeClass (k : Nat) : Fld := SCH_PLACE_CLASS.nth 4 k

/-- The slot that runs stall k (R141). -/
def State.slotOf (s : State) (k : Nat) : Option Nat :=
  if s.get (placeValid k) = 1 then s.slotOfL (s.get (placeL k)) else none

/-- A register of a stable slot. -/
def atSlot (f : Fld) (slot : Nat) : Fld := f.nth 65536 slot

/-- The stalls placed on a slot. -/
def State.stallsOn (s : State) (slot : Nat) : List Stall := s.stalls.filter fun st => s.slotOf st.num == some slot

/-! ### Store buffers (R128 – R130) -/

/-- The entries of a stall in the store buffer have drained: memory holds its writes (R130). -/
def State.drainOf (s : State) (k : Nat) : State := { s with sbuf := s.sbuf.filter fun x => x.stall != k }

/-- The entries of a core, oldest first. -/
def State.sbufOf (s : State) (slot core : Nat) : List StoreEntry := s.sbuf.filter fun x => x.slot == slot && x.core == core

/-- Drop the oldest `n` entries of a core. -/
def drainCore (slot core : Nat) : Nat → List StoreEntry → List StoreEntry
  | _, [] => []
  | n, x :: r => if n != 0 && x.slot == slot && x.core == core then drainCore slot core (n - 1) r else x :: drainCore slot core n r

/-- The oldest `n` entries of a core drain. -/
def State.drainOldest (s : State) (slot core n : Nat) : State := { s with sbuf := drainCore slot core n s.sbuf }

/-- The entries that drain in one ns: two of every core, one for each cycle of CLK_CORE (R129; DESIGN CHOICE, log entry 96). -/
def State.drainTick (s : State) : State :=
  match s.sbuf with
  | [] => s
  | _ => (upto 17).foldl (fun s p => (upto 4).foldl (fun s c => s.drainOldest p c 2) s) s

/-! ### Events and output -/

/-- Raise a LATCH event source (R468). -/
def State.raise (s : State) (n : Nat) : State := s.put ⟨0x10140 + 4 * (n / 32), n % 32, 1⟩ 1

/-- EXTEST, CLAMP and HIGHZ are permitted (R508, R518). -/
def State.tapMay (s : State) : Bool := decide (2 ≤ s.get DBG_STATUS_LEVEL) || s.mode == .boot || s.mode == .reject

/-- EXTEST, CLAMP or HIGHZ holds the device's outputs (R518). -/
def State.pinsHeld (s : State) : Bool := (s.tapIr == 3 || s.tapIr == 4 || s.tapIr == 5) && s.tapMay

/-- An output that boundary scan can replace: everything but the PCI Express link and deliveries inside the device. -/
def Out.scanned : Out → Bool
  | .packet _ _ | .frame _ _ | .mgmt _ | .pin _ _ | .monitor _ _ => true
  | .msix _ | .wake _ | .pcieError _ | .link _ _ _ _ | .refused _ _ => false

/-- Record something sent out, unless boundary scan holds the outputs (R518). -/
def State.emit (s : State) (o : Out) : State := if o.scanned && s.pinsHeld then s else { s with out := s.out ++ [o] }

/-- Draw a free value below `m`. -/
def State.draw (s : State) (m : Nat) : Nat × State := (Config.freeValue s.free % m, { s with free := s.free + 1 })

/-- Draw `n` free bytes. -/
def State.freeBytes (s : State) (n : Nat) : Bytes × State :=
  ((upto n).map fun i => BitVec.ofNat 8 (Config.freeValue (s.free + i)), { s with free := s.free + n })

/-! ### Memory -/

/-- The memory controllers serve agents other than firmware; while they do not, an access of another agent waits, and the debugger's ends
with BUS_ERR (DESIGN CHOICE, log entry 102) (R383). -/
def State.memServes (s : State) : Bool := s.get MEM_CTL_EN == 1

/-- The extent of an HBM address, counted over both stacks (R360, R383). -/
def extentOf (a : Nat) : Nat := a / 0x200000

/-- MEM_EXT code and MEM_SEAL bit of an extent (R366, R376). -/
def extFld (e : Nat) : Fld := ⟨0x810000 + e, 0, 3⟩
def sealFld (e : Nat) : Fld := ⟨0x820000 + 4 * (e / 32), e % 32, 1⟩

/-- Extents of a range. -/
def extentsOf (a n : Nat) : List Nat := (upto (extentOf (a + (n - 1)) - extentOf a + 1)).map fun i => extentOf a + i

/-- The boot staging area, on stack 0 alone (R447, R504). -/
def stagingBase : Nat := 0x5FF000000

/-- The extent has a twin on the other stack: TITLE and FW, but for the staging area (R367). -/
def State.twinned (s : State) (e : Nat) : Bool :=
  (s.get (extFld e) == 1 || s.get (extFld e) == 6) && !(decide (extentOf stagingBase ≤ e) && decide (e < 12288))

/-- The address of the twin of a byte (R367). -/
def twinOf (a : Nat) : Nat := (a + 0x600000000) % 0xC00000000

/-- Read HBM bytes (R358). -/
def State.hbmBytes (s : State) (a n : Nat) : Bytes := Memory.getBytes s.hbm a n

/-- Write HBM bytes, in a twinned extent to both copies (R358, R367). -/
def State.hbmWrite (s : State) (a : Nat) (bs : Bytes) : State :=
  let second (m : Mem) (e : Nat) : Mem :=
    let lo := max a (0x200000 * e)
    if s.twinned e then Memory.setBytes m (twinOf lo) ((bs.drop (lo - a)).take (0x200000 * (e + 1) - lo)) else m
  { s with hbm := (extentsOf a bs.length).foldl second (Memory.setBytes s.hbm a bs) }

/-! ### Sheds (R365 – R368) -/

/-- The home stack of stall k (R367). -/
def homeStack (k : Nat) : Nat := k / 192 % 2

/-- An extent that firmware may allocate: FREE, with no retired frame in it (R365, R366). -/
def State.extFree (s : State) (e : Nat) : Bool := s.get (extFld e) == 0 && !(s.retired.any fun f => f / 512 == e)

/-- The lowest `n` extents from `e` on that satisfy a condition, of the next `fuel`. -/
def takeExts (ok : Nat → Bool) : Nat → Nat → Nat → List Nat
  | 0, _, _ => []
  | _, _, 0 => []
  | fuel + 1, e, n + 1 => if ok e then e :: takeExts ok fuel (e + 1) n else takeExts ok fuel (e + 1) (n + 1)

/-- The lowest `n` extents of a stack that firmware may allocate, fewer where there are fewer. -/
def State.freeExts (s : State) (stack n : Nat) : List Nat := takeExts s.extFree 12288 (12288 * stack) n

/-- The start of the lowest run of `n` extents that satisfy a condition; `have_` of them lie just below `e`. -/
def findRun (ok : Nat → Bool) (n : Nat) : Nat → Nat → Nat → Option Nat
  | 0, _, _ => none
  | fuel + 1, e, have_ =>
    if ok e then (if n ≤ have_ + 1 then some (e - have_) else findRun ok n fuel (e + 1) (have_ + 1)) else findRun ok n fuel (e + 1) 0

/-- Give extents a shed code; 0 frees them (R366). -/
def State.giveExts (s : State) (l : List Nat) (code : Nat) : State := s.puts (l.map fun e => (extFld e, code))

/-- The extents of stack 0 with the twins of a list of them. -/
def withTwins (l : List Nat) : List Nat := l ++ l.map fun e => (e + 12288) % 24576

/-- The lowest run of `n` extents of stack 0 that are free together with their twins (R367). -/
def State.freePairs (s : State) (n : Nat) : Option (List Nat) :=
  (findRun (fun e => s.extFree e && s.extFree (e + 12288)) n 12288 0 0).map fun e => (upto n).map (e + ·)

/-- Give TITLE extents and their twins their code and seal them before a frame of them is mapped (R376), or unseal and free them. -/
def State.giveTitle (s : State) (l : List Nat) (on : Bool) : State :=
  (s.giveExts (withTwins l) (b2n on)).puts ((withTwins l).map fun e => (sealFld e, b2n on))

/-- An area of `n` bytes of a shed on a stack that firmware allocates, with its extents: the lowest run of FREE extents (DESIGN CHOICE,
log entry 23); where there is none, an address that is a free value. -/
def State.allocate (s : State) (shed stack n : Nat) : Nat × List Nat × State :=
  let k := max 1 (ceilDiv (ceilDiv n 4096) 512)
  match findRun s.extFree k 12288 (12288 * stack) 0 with
  | some e =>
    let l := (upto k).map fun i => e + i
    (0x200000 * e, l, s.giveExts l shed)
  | none =>
    let (v, s) := s.draw (0xC00000000 / 64)
    (64 * v, [], s)

/-- Bytes the device writes to host memory at a PCIe address. -/
def State.hostWrite (s : State) (a : Nat) (bs : Bytes) : State := { s with host := Memory.setBytes s.host a bs }

end Sys2Proof.Machine
end

