-- ==== Sys2Proof/Machine/Store.lean ====
section
/-! DEFINITION. The stall store and the areas that extents hold: a stall's context area and near page, their writing to its STALL shed
when it is parked, its page table, private pages and spill area (R13, R130, R155, R367 – R378). -/
namespace Sys2Proof

/-- The 2 KiB context area of a stall store, whose layout the manual does not give (R13, R40). -/
opaque Config.contextArea : Machine.CkptBody → Bytes

/-- Bit A of an entry of the render views and the spill area of a stall at a CAD_TIME: which of them the raster unit and voice engines
access is not specified (R377). -/
opaque Config.pteBits : Nat → Nat → Nat → Nat

namespace Machine

/-- Replace bytes of a run of bytes. -/
def putBytes (d : Bytes) (o : Nat) (bs : Bytes) : Bytes := d.take o ++ bs ++ d.drop (o + bs.length)

/-- What a checkpoint takes of a stall. -/
def Stall.body (st : Stall) : CkptBody :=
  { cls := st.cls, ucset := st.ucset, tainted := st.tainted, lead := st.lead, corecfg := st.corecfg, f0 := st.f0, freeRun := st.freeRun
    cpu := st.cpu, shadow := st.shadow, tick := st.tick
    mem := st.mem, rview := st.rview, stamps := st.stamps, src := st.src, ras := st.ras, voices := st.voices, spos := st.spos
    subs := st.subs, pend := st.pend, save := st.save }

/-- The page-table entries of a class's private pages, in the order of a record's slots: DATA, VRAM and the render view (R370). -/
def privatePages (c : BeamClass) : List Nat :=
  let n := match c with | .L => 33 | _ => 512
  let v := match c with | .L => 16 | _ => 64
  upto n ++ [0x210] ++ (upto 16).map (0x230 + ·) ++ (upto v).map (0x1800 + ·) ++ (upto v).map (0x1840 + ·) ++ [0x1880] ++
    (upto 16).map (0x1890 + ·)

/-- The entries that checkpoints track: private pages and the spill area (R377). -/
def trackedPages (c : BeamClass) : List Nat := privatePages c ++ (upto 16).map (0x18A0 + ·)

/-- A byte offset of an area that extents hold, as a device physical address. -/
def areaAddr (exts : List Nat) (o : Nat) : Nat := nthD exts (o / 0x200000) 0 * 0x200000 + o % 0x200000

/-- The stall-store position of a stall: its context area and its near page (R13). -/
def Stall.storeImage (st : Stall) : Bytes :=
  sliceBytes (Config.contextArea st.body) 0 2048 ++ Memory.getBytes st.mem 0 2048

/-- Where the stall-store position lies in the STALL area: after the page table and the spill area. -/
def storeAt : Nat := 4096 * 32

/-- Where the private pages lie in a stall's area: after page table, spill area and stall-store position. -/
def pagesAt : Nat := storeAt + 4096

/-! ### Page tables (R369 – R372, R375, R377) -/

/-- A valid entry: V, W, X, S, D, A, K and the frame's address (R371). -/
def pteWord (w x sh d a k frame : Nat) : Nat := 1 + 2 * w + 4 * x + 8 * sh + 32 * d + 64 * a + 128 * k + frame

/-- The address of page `i` of a title's image. -/
def Title.pageAddr (t : Title) (i : Nat) : Nat := areaAddr t.exts (4096 * i)

/-- The frame of a private page or spill page of a stall (R367). -/
def Stall.frameAt (st : Stall) (i : Nat) : Nat :=
  if 0x18A0 ≤ i then areaAddr st.exts (0x10000 + 4096 * (i - 0x18A0)) else areaAddr st.exts (pagesAt + 4096 * (privatePages st.cls).idxOf i)

/-- Entry i of a stall's page table as firmware's records say, D, A and K apart: private pages and spill area writable, program pages
shared; 0 for an entry that no region uses (R370, R371, R375; that every private page has its own frame from the creation on is the
model's choice, log entry 25). -/
def State.pteRecord (s : State) (st : Stall) (i : Nat) : Nat :=
  if 0x1000 ≤ i ∧ i < 0x1800 then
    match s.title? st.title with
    | some t =>
      if 4096 * (i - 0x1000) < t.prog.length then pteWord 0 1 1 0 0 0 (t.pageAddr (t.progAt / 4096 + (i - 0x1000))) else 0
    | none => 0
  else if (trackedPages st.cls).contains i then pteWord 1 0 0 0 0 0 (st.frameAt i)
  else 0

/-- Bit A of entry i: set by translated accesses; of the render views a free value (R377). -/
def Stall.pteA (st : Stall) (time i : Nat) : Nat :=
  if inRange 0x1840 0x1880 i || inRange 0x1880 0x18A0 i then Config.pteBits st.num i time % 2 else b2n (st.acc.contains i)

/-- Entry i of a stall's page table with its bits D, A and K; D and K stand in valid private entries (R371, R377). -/
def State.pte (s : State) (st : Stall) (i : Nat) : Nat :=
  let e := (lookupN i st.pt).getD (s.pteRecord st i)
  if bitAt e 0 then
    e ||| (64 * st.pteA s.time i + (if bitAt e 3 then 0 else 32 * b2n (st.dirty.contains i) + 128 * b2n (st.copying.contains i)))
  else e

/-- Entry i is one that the device may read: of a region that the stall uses, or of its title's cartridge table (R370, R373). -/
def State.usesEntry (s : State) (st : Stall) (i : Nat) : Bool :=
  (trackedPages st.cls).contains i || inPROG i ||
    (inCART i && match s.title? st.title with | some t => decide (4096 * (i - 0x2000) < t.cart.length) | none => false)

/-- Entry i of a stall's table becomes what is given, or what firmware's records say; an entry of a cartridge table is shared by every
stall of the title (R373, R380). -/
def State.mapEntry (s : State) (st : Stall) (i : Nat) (e : Option Nat) : State :=
  let set (x : Stall) : Stall := { x with pt := match e with | some v => insertN i v x.pt | none => eraseN i x.pt }
  { s with stalls := s.stalls.map fun x => if x.num == st.num || (inCART i && x.title == st.title) then set x else x }

/-- The entries of a stall's shared frames (R378). -/
def State.sharedEntries (s : State) (st : Stall) : List (Nat × Nat) :=
  (upto 0x1800).filterMap fun i => let e := s.pte st i; if bitAt e 0 && bitAt e 3 then some (i, e) else none

/-- A byte of the spill area: that of a block whose unit it is, or of the entries past the first 256 (R29, R30). -/
def Stall.spillByte (st : Stall) (o : Nat) : Option Byte :=
  match st.stamps.findSome? fun x => if x.block && x.off == o / 4096 then x.data[o % 4096]? else none with
  | some b => some b
  | none =>
    let us := recordUnits st.stamps
    if us.contains (o / 4096) then (st.stamps[256 + 256 * us.idxOf (o / 4096) + o % 4096 / 16]?).bind fun x => x.bytes[o % 16]? else none

/-- A byte of a private page or a spill page (R370, R374). -/
def Stall.pageByte (st : Stall) (i o : Nat) : Byte :=
  if i < 0x1800 then Memory.get st.mem (4096 * i + o)
  else if i < 0x1840 then Memory.get st.mem (0x1000000 + 4096 * (i - 0x1800) + o)
  else if i < 0x1880 then Memory.get st.rview (0x1000000 + 4096 * (i - 0x1840) + o)
  else if i < 0x1890 then Memory.get st.rview (0x210000 + o)
  else if i < 0x18A0 then Memory.get st.rview (0x230000 + 4096 * (i - 0x1890) + o)
  else (st.spillByte (4096 * (i - 0x18A0) + o)).getD 0

/-- The contents of a private page or a spill page. -/
def pageBytes (st : Stall) (i : Nat) : Bytes := (upto 4096).map fun o => st.pageByte i o

/-- Write bytes of an area page by page. -/
def State.areaWrite (s : State) (exts : List Nat) (o : Nat) (bs : Bytes) : State :=
  (upto (ceilDiv bs.length 4096)).foldl (fun s j => s.hbmWrite (areaAddr exts (o + 4096 * j)) ((bs.drop (4096 * j)).take 4096)) s

/-- A stall leaves its core: its stores drain, and its stall-store position is written to its STALL shed, where it has one (R13, R130,
R155). -/
def State.writeBack (s : State) (st : Stall) : State :=
  let s := s.drainOf st.num
  if st.exts.isEmpty then s else s.areaWrite st.exts storeAt st.storeImage

end Machine
end Sys2Proof
end

