-- ==== Sys2Proof/Machine/Seq.lean ====
section
/-! DEFINITION. The stable sequencer at an instruction boundary: what must be settled before a stall's next instruction,
entry or idle step, the code it runs, holds, breakpoints and halts (R20, R22, R29, R31, R33, R38, R39, R89, R95 – R97, R149,
R152, R313, R523 – R527, R535). -/
namespace Sys2Proof.Machine

/-- The modes in which stalls execute (R479). -/
def stallsExecute : Mode → Bool
  | .serve | .serveDegraded | .conformance => true
  | _ => false

/-- Bytes of the register space. -/
def State.regBytes (s : State) (off : Nat) : Nat → Bytes
  | 0 => []
  | n + 1 => BitVec.ofNat 8 (field (getQ s.regs (off / 8)).toNat (8 * (off % 8)) 8) :: State.regBytes s (off + 1) n

/-- Where set `set` of a slot lies in the decode RAM (R108). -/
def setBase (slot set : Nat) : Nat := 0x108000 + 65536 * slot + 0x800 * set

/-- Opcode entry u of a set, and micro-op j (R108). -/
def State.uEntry (s : State) (slot set u : Nat) : UEntry := UEntry.ofBytes (s.regBytes (setBase slot set + 32 * u) 32)
def State.uMicro (s : State) (slot set j : Nat) : Nat := s.reg64 (setBase slot set + 0x100 + 8 * j)

/-- A program word of a title; unbacked addresses read 0xFFFF (R53). -/
def progWord (prog : Bytes) (a : Nat) : Nat := if 2 * a + 1 < prog.length then leAt prog (2 * a) 2 else 0xFFFF

/-- What a stall executes on its slot (R53, R105, R108). -/
def State.codeOf (s : State) (st : Stall) (slot : Nat) : Code :=
  let t := s.title? st.title
  { fetch := progWord ((t.map (·.prog)).getD []), cart := (t.map (·.cart)).getD []
    ucs := fun u => if st.ucset < 16 then some (s.uEntry slot st.ucset u) else none
    uop := fun j => s.uMicro slot st.ucset j }

/-- The media image and save size of a stall's title (R306). -/
def State.devsOf (s : State) (st : Stall) : Devs :=
  { media := ((s.title? st.title).map (·.media)).getD [], save := ((s.title? st.title).map (·.save)).getD 0 }

/-- A slot whose cores and raster unit run: ACTIVE, RESTORING or DRAINING (R137). -/
def slotRuns (s : State) (slot : Nat) : Bool :=
  let v := s.get (atSlot STB_STATE_STATE slot)
  v == 1 || v == 3 || v == 5

/-- A stall that exists, with the running slot that carries it, in a mode in which stalls execute, while its accesses are translated and
served (R383; log entry 102). -/
def State.live (s : State) (k : Nat) : Option (Stall × Nat) :=
  if stallsExecute s.mode && s.memServes && s.get MEM_CTL_XLAT == 1 then
    match s.stall? k, s.slotOf k with
    | some st, some slot => if slotRuns s slot then some (st, slot) else none
    | _, _ => none
  else none

/-! ### Sources computed from ticks (R20) -/

/-- The assertion tick of the next line match not yet performed, with its LMIE. -/
def lmPending (st : Stall) : Option (Nat × Bool) :=
  match st.src.lmDue with
  | x :: _ => some x
  | [] => (lmNext st st.src.lmFrom).map fun x => (x, lmie st)

/-- The next SND tick not yet performed. -/
def sndPending (st : Stall) : Option Nat :=
  match st.src.sndDue with
  | x :: _ => some x
  | [] => sndNext st st.src.sndFrom

/-- The next expiry of timer n not yet performed. -/
def tmrPending (st : Stall) (n : Nat) : Option Nat :=
  let t := st.src.tmr n
  match t.due with
  | x :: _ => some x
  | [] => if bitAt (st.word (aTCTL n)) 0 then some t.next else none

/-- An assertion tick lies at or below a tick. -/
def dueBy (o : Option Nat) (t : Nat) : Bool := match o with | some x => decide (x ≤ t) | none => false

/-- Some source computed from ticks is to be taken at this boundary (R20). -/
def sourcesDue (st : Stall) : Bool :=
  decide (vblTick st.cls st.src.vblFrame ≤ st.tick) || dueBy ((lmPending st).map (·.1)) st.tick || dueBy (sndPending st) st.tick ||
    dueBy (tmrPending st 0) st.tick || dueBy (tmrPending st 1) st.tick

/-- The next log entry of a replay is due, and is of a kind (R43). -/
def replayDue (st : Stall) (kind : Nat) : Bool :=
  match st.replayLog with
  | x :: _ => decide (x.tick ≤ st.tick) && x.kind == kind && (kind == 0 || st.cpu.lock == 0)
  | [] => false

/-- A placed stall reset takes effect at this boundary (R38). -/
def resetDue (st : Stall) : Bool := (dueBy st.resetAt.head? st.tick && st.cpu.lock == 0) || replayDue st 2

/-- A latched input or delivery becomes visible by this boundary; a locked sequence defers deliveries (R35, R89). -/
def latchedDue (st : Stall) : Bool :=
  replayDue st 0 || replayDue st 1 || st.latched.any fun x => decide (x.bound ≤ st.tick) && (!x.link || st.cpu.lock == 0)

/-- A checkpoint is to be taken at this boundary (R39). -/
def ckptDue (st : Stall) : Bool := decide (st.ckptBound ≤ st.tick) && st.cpu.lock == 0

/-- The sequencer runs the stall in lockstep (R33, R532). -/
def lockstep (s : State) (st : Stall) : Bool := decide (s.mode = .conformance) || bitAt (st.word 0x21080A) 1

/-- Bytes in use of a ring by its write and read offsets. -/
def ringUsed (wr rd size : Nat) : Nat := if rd ≤ wr then wr - rd else size - rd + wr

/-- A signature record finds room in the signature ring (R535). -/
def sigRoom (s : State) : Bool :=
  let size := s.get CNF_SIG_SIZE_VALUE
  decide (ringUsed (s.get CNF_SIG_WR_VALUE) (s.get CNF_SIG_RD_VALUE) size + 32 < size)

/-- The hold at the first boundary of a frame while the signature ring lacks room (R535). -/
def sigHeld (s : State) (st : Stall) : Bool :=
  decide (s.mode = .conformance) && !sigRoom s && decide (0 < st.last) &&
    frameOf st.cls st.tick != frameOf st.cls (st.last - 1)

/-- No reset, checkpoint, source or hold of this boundary is outstanding. -/
def boundaryOpen (s : State) (st : Stall) : Bool :=
  !resetDue st && !ckptDue st && !sourcesDue st && (!lockstep s st || rasterReached st st.tick) && !sigHeld s st && !dueBy st.replayTo st.tick

/-- Nothing that belongs to this boundary is outstanding: reset, inputs, deliveries, checkpoint, sources, HOD_CMD writes. -/
def boundaryClear (s : State) (st : Stall) : Bool :=
  boundaryOpen s st && !latchedDue st && st.subs.all fun x => x.cmds.isEmpty

/-- No agent access falls before tick `nextEnd` (R26, R89, R313). -/
def agentsClear (st : Stall) (nextEnd : Nat) : Bool :=
  (upto 8).all fun i => !subDue st nextEnd i

/-- A hold that each attempt to go on tests anew: one on the store buffer, or on an agent access (R129, R313). -/
def Hold.tested : Hold → Bool
  | .none | .store | .agent => true
  | .catchUp | .stamps | .checkpoint | .write => false

/-- The stall runs in a hot slot and no hold stands in its way that another event must clear. -/
def running (st : Stall) : Bool := decide (st.sched = .running) && st.hold.tested
def permitted (s : State) (st : Stall) : Bool := r22 st.cls st.f0 st.lead s.time st.tick

/-- The raster unit has drawn no dot whose first tick TICK has not passed: a write stamped below TICK reaches every dot to come (R26, R178). -/
def notAhead (st : Stall) : Bool := decide (st.ras.rpos < st.tick + tpd st.cls)

/-- Idle ticks of WAIT or SYNC remain (R77, R78). -/
def idling (st : Stall) : Bool := idleGoesOn st st.cpu.idle st.tick

/-! ### Halts and breakpoints (R523 – R527) -/

/-- Raise DBG_HALT (R528). -/
def evDbgHalt : Nat := 0x08D

/-- The processor with a locked sequence in progress broken: LKB is 1 (R91). -/
def Stall.lockBroken (st : Stall) : Cpu :=
  if 0 < st.cpu.lock then { st.cpu with lock := 0, lockEnd := st.tick, flags := BitVec.ofNat 16 (putField st.cpu.flags.toNat 5 1 1) }
  else st.cpu

/-- Halt a stall at its boundary as it stands (R523, R525). -/
def stopStall (s : State) (st : Stall) (cause : Nat) : State :=
  (s.setStall { st with sched := .halted, hold := .none, haltPend := none, stepping := false, haltCause := cause }).raise evDbgHalt

/-- Halt a stall at its boundary; a locked sequence in progress is broken (R91, R523). -/
def haltStall (s : State) (st : Stall) (cause : Nat) : State :=
  stopStall (if 0 < st.cpu.lock then s.put DBG_STATUS_LOCK_BROKEN 1 else s) { st with cpu := st.lockBroken } cause

/-- A field of breakpoint n. -/
def bpGet (s : State) (n : Nat) (f : Fld) : Nat := s.get (f.nth 8 n)

/-- Stall k may be debugged: L2 or above, or its grant. -/
def State.mayDebug (s : State) (k : Nat) : Bool :=
  decide (2 ≤ s.get DBG_STATUS_LEVEL) || match s.stall? k with | some st => st.l1 | none => false

/-- Breakpoint n names stall k, which may be debugged, and is of one of the kinds given. -/
def bpOn (s : State) (n k : Nat) (kinds : List Nat) : Bool :=
  bpGet s n DBG_BP_STALL == k && kinds.contains (bpGet s n DBG_BP_KIND) && s.mayDebug k

/-- A hit of breakpoint n counts: while a halt is pending, only one with FORCE does more than it (R91, R527). -/
def bpCounts (s : State) (st : Stall) (n : Nat) : Bool := st.haltPend.isNone || bpGet s n DBG_BP_FORCE == 1

/-- The EXEC breakpoint that hits at this boundary (R527). -/
def execHit (s : State) (st : Stall) : Option Nat :=
  if st.bpSkip || (0 < st.cpu.rep && !st.cpu.repFirst) || idling st then none
  else (upto 8).find? fun n => bpOn s n st.num [1] && bpGet s n DBG_BP_ADDR == st.cpu.pc.toNat && bpCounts s st n

/-- The data breakpoint that the accesses of an instruction hit (R527). -/
def dataHit (s : State) (st : Stall) (reads writes : List Nat) : Option Nat :=
  (upto 8).find? fun n =>
    let a := bpGet s n DBG_BP_ADDR
    ((bpOn s n st.num [2, 4] && reads.contains a) || (bpOn s n st.num [3, 4] && writes.contains a)) && bpCounts s st n

/-- Ask for a halt at this boundary, or at the end of a locked sequence unless forced (R91, R523, R527). -/
def askHalt (s : State) (st : Stall) (force : Bool) (cause : Nat) : State :=
  if st.cpu.lock = 0 ∨ force then haltStall s st cause
  else s.setStall { st with haltPend := some false, haltWhy := cause }

/-- Park a stall that holds a reason once no locked sequence is in progress (R155). -/
def parkHere (time : Nat) (st : Stall) : Stall :=
  if !st.reasons.isEmpty && st.replayTo.isNone && st.cpu.lock == 0 && decide (st.sched = .running) then
    { st with sched := .parked, hold := .none, parkedAt := time, loaded := false }
  else st

/-- Enter a stall as a change leaves it; where the change parks it, its stores drain and its context and near page are written to its
STALL shed first (R13, R130, R155). -/
def State.setParked (s : State) (was st : Stall) : State :=
  (if st.sched = .parked ∧ was.sched ≠ .parked then s.writeBack st else s).setStall st

/-- The breakpoint that hits at the boundary that a stall has just reached (R527). -/
def bpHit (s : State) (st : Stall) (reads writes : List Nat) : Option Nat := dataHit s st reads writes <|> execHit s st

/-- What happens at the boundary that a stall has just reached: halts, then parking. A STEP halts after its one instruction, inside a
locked sequence too, which it leaves in progress, since no halt was forced (DEDUCED, log entry 99) (R52, R91, R155, R523, R525,
R527). -/
def arrive (s : State) (st : Stall) (reads writes : List Nat) : State :=
  match st.haltPend with
  | some f =>
    if st.cpu.lock = 0 ∨ f then haltStall s st st.haltWhy
    else match bpHit s st reads writes with
      | some n => haltStall s st (8 + n)
      | none => s.setParked st (parkHere s.time st)
  | none =>
    match bpHit s st reads writes with
    | some n => askHalt s st (bpGet s n DBG_BP_FORCE = 1) (8 + n)
    | none => if st.stepping then stopStall s st 2 else s.setParked st (parkHere s.time st)

/-! ### One instruction -/

/-- The stamp entries that agent effects below tick `t` make, the status areas of their posts included. -/
def pendStamps (st : Stall) (t : Nat) : List Stamp :=
  (st.pend.filter fun p => decide (p.tick < t)).flatMap fun p =>
    pendEnts st p ++ (if p.post.isSome && bitAt (hodCfg st p.ord) 2 then agentStamps st.cls p.tick 1 (hodCsa st p.ord) (List.replicate 16 0) else [])

/-- Why writes that end before tick `t` are held: a page copy, or no room for their stamp entries and for those of the agent
effects that come before them (R29, R161, R377). -/
def holdWrites (st : Stall) (t : Nat) (wrs : List (Nat × Bytes)) : Hold :=
  if copyPending st wrs then .write
  else if pendStuck st || !stampRoom st (pendStamps st t ++ writeStamps st (st.tick + 1) wrs) then .stamps
  else .none

/-- The writes of an instruction, with those of the entry that SWI adds (R104). -/
def instWrites (st : Stall) (r : Res) : List (Nat × Bytes) :=
  allWrites r ++ (if r.swi.isSome then frameWrites st 0 0 0 else [])

/-- The ticks of an instruction, or of the entry that SWI makes of it (R62, R104). -/
def ticksOf (i : Inst) (r : Res) (cost : Nat) : Nat := if i.op = .swi ∧ r.swi.isSome then 6 else cost

/-- Why the instruction that starts now is held, if it is (R29, R31, R377). -/
def holdFor (st : Stall) (r : Res) (n : Nat) : Hold :=
  if readsRaster r.env.reads && !rasterReached st st.tick then .catchUp
  else holdWrites st (st.tick + n) (instWrites st r)

/-! ### The store buffer (R127 – R130) -/

/-- Cut a write into runs of at most 8 bytes within one 64-byte block (R128). -/
def storeParts : Nat → Nat → Bytes → List (Nat × Bytes)
  | 0, _, _ => []
  | _, _, [] => []
  | fuel + 1, a, b :: bs =>
    let n := min 8 (64 - a % 64)
    (a % 2 ^ 24, (b :: bs).take n) :: storeParts fuel (a + n) ((b :: bs).drop n)

/-- The store-buffer entries of a stall's writes with last tick `w`; writes that reach no byte take none (R128). -/
def storeEntries (slot : Nat) (st : Stall) (w : Nat) (wrs : List (Nat × Bytes)) : List StoreEntry :=
  wrs.flatMap fun p => (storeParts p.2.length p.1 p.2).filterMap fun q =>
    let at_ (i : Nat) : Nat := (q.1 + i) % 2 ^ 24
    if (upto q.2.length).any fun i => writable st.cls (at_ i) then
      some { slot, core := st.core, stall := st.num, addr := q.1, data := q.2, stamp := w
             prior := (upto q.2.length).map fun i => Memory.get st.mem (keyOf st.mem st.cls (at_ i)) }
    else none

/-- An entry holds a byte. -/
def StoreEntry.has (x : StoreEntry) (a : Nat) : Bool := decide (x.addr ≤ a) && decide (a < x.addr + x.data.length)

/-- An entry and older entries of its stall cover its bytes in part only, so that its prior contents cannot yet be recorded
(R127). -/
def partPrior (older : List StoreEntry) (x : StoreEntry) : Bool :=
  let bytes := (upto x.data.length).map fun i => x.addr + i
  (bytes.any fun a => older.any fun y => y.has a) && !(older.any fun y => bytes.all fun a => y.has a)

/-- A read of bytes of the stall is held by the entries of the stall (oldest first): an overlap that no one entry, the youngest
of them, covers; or a shadowed byte whose prior contents are not recorded (R127, R129). `last` marks the entries of the
instruction whose writes the read does not see. -/
def readHeld (mine : List StoreEntry) (last : StoreEntry → Bool) (bytes : List Nat) : Bool :=
  let old := mine.filter fun x => !last x
  let clear := bytes.filter fun a => !(mine.any fun x => last x && x.has a)
  (mine.any fun x => last x && bytes.any (fun a => x.has a) && partPrior old x) ||
    match (old.filter fun x => clear.any fun a => x.has a).getLast? with
    | none => false
    | some y => !(clear.all fun a => y.has a)

/-- The accesses of a read: words, and bytes at an odd address (R92). -/
def accessBytes (p : Nat × Nat) : List (List Nat) :=
  if p.1 % 2 = 1 ∨ p.2 = 1 then (upto p.2).map fun i => [(p.1 + i) % 2 ^ 24]
  else (upto (p.2 / 2)).map fun i => [(p.1 + 2 * i) % 2 ^ 24, (p.1 + 2 * i + 1) % 2 ^ 24]

/-- A read of the instruction at the stall's boundary meets a partial overlap in the store buffer of its core (R127, R129). -/
def State.storeHeld (s : State) (slot : Nat) (st : Stall) (r : Res) : Bool :=
  let mine := (s.sbufOf slot st.core).filter fun x => x.stall == st.num
  !mine.isEmpty && (r.env.accs.flatMap accessBytes).any fun bs =>
    readHeld mine (fun x => !st.cpu.shadowOff && x.stamp + 1 == st.tick) bs

/-- The state once the writes of stall `st` have entered the store buffer of its core: a read that meets a partial overlap waits
until the entries of the core have drained, and want of entries until the oldest have; the holds cost physical time only
(R128, R129). -/
def State.buffer (s : State) (slot : Nat) (st : Stall) (held : Bool) (w : Nat) (wrs : List (Nat × Bytes)) : State :=
  let es := storeEntries slot st w wrs
  let n := (s.sbufOf slot st.core).length
  let s := s.drainOldest slot st.core (if held then n else n + es.length - 16)
  { s with sbuf := s.sbuf ++ es.drop (es.length - 16) }

/-- A partial-overlap hold lasts longer than a stall may keep its hot slot: one cycle for each entry of the core (R129, R149). -/
def State.storeEvicts (s : State) (slot : Nat) (st : Stall) : Bool :=
  decide (s.get (atSlot STB_HOLD_EVICT_CYCLES slot) < (s.sbufOf slot st.core).length)

/-- The static checks of the next instruction, made again at each of its repetitions with the same outcome (R574). -/
def nextInst (c : Code) (st : Stall) : Except Cause Inst := decodeAt c.fetch c.ucs st.cpu.lock st.cpu.pc.toNat

/-- The stall stands at a boundary where an instruction or repetition, and nothing before it, may start. -/
def mayStart (s : State) (st : Stall) : Bool :=
  running st && !idling st && boundaryClear s st && !st.cpu.dzDue && (topLine st).isNone && (execHit s st).isNone &&
    (st.haltPend.isNone || st.cpu.lock != 0)

/-- EXEC breakpoints may hit again, and a hold is over, once the boundary is left (R527). -/
def Stall.pastBreak (st : Stall) : Stall := { st with bpSkip := false, hold := .none }

/-- The stall held from now for a cause; `t` is the start tick of the access, or the end tick that an agent access precedes. -/
def Stall.heldFor (st : Stall) (time : Nat) (h : Hold) (t : Nat) : Stall :=
  if st.hold = h then { st with holdTick := t } else { st with hold := h, holdTick := t, holdAt := time }

/-- The entries that fetching an instruction of `n` words at a program address selects (R370). -/
def fetchEntries (pc n : Nat) : List Nat := (upto n).map fun j => 0x1000 + (pc + j) % 2 ^ 22 / 2048

/-- A data access of an instruction fails its translation (R131, R372). -/
def accFails (st : Stall) (r : Res) : Bool :=
  !st.pt.isEmpty && ((r.env.accs.any fun p => readFaulted st p.1 p.2) || (instWrites st r).any fun p => rangeFaulted st p.1 p.2.length)

/-- An access of an instruction fails its translation: the instruction does not start (R93, R131, R372). -/
def instFails (st : Stall) (i : Inst) (r : Res) : Bool :=
  (fetchEntries st.cpu.pc.toNat i.len).any (fun e => st.entryFails e false true) || accFails st r

/-- Start an instruction whose checks have passed: R22, agents before its end, holds, the store buffer, then its effects (R22,
R29, R31, R128, R129, R313). -/
def startInst (s : State) (slot : Nat) (st : Stall) (c : Code) (i : Inst) : State :=
  if !permitted s st then s.setStall { st with sched := .blocked }
  else
    let (r, cost) := runInst c st s.time i
    let n := ticksOf i r cost
    if !agentsClear st (st.tick + n) then s.setStall (st.heldFor s.time .agent (st.tick + n))
    else if instFails st i r then s
    else match holdFor st r n with
      | .none =>
        if s.storeHeld slot st r && s.storeEvicts slot st then s.setStall (st.heldFor s.time .store st.tick)
        else
          arrive (s.buffer slot st (s.storeHeld slot st r) (st.tick + n - 1) (instWrites st r)) (commit st i r cost).pastBreak
            r.env.reads (touched (allWrites r))
      | h => s.setStall (st.heldFor s.time h st.tick)

/-- An opcode command: the instruction at the stall's boundary, where it has that opcode and is not a further repetition of
a repeated instruction (R64, R85). -/
def stepOp (op : Op) (k : Nat) (s : State) : State :=
  match s.live k with
  | none => s
  | some (st, slot) =>
    let c := s.codeOf st slot
    if mayStart s st && (st.cpu.rep == 0 || st.cpu.repFirst) then
      match nextInst c st with
      | .ok i => if i.op = op then startInst s slot st c i else s
      | .error _ => s
    else s

/-- A further repetition of the repeated instruction (R85). -/
def stepRep (k : Nat) (s : State) : State :=
  match s.live k with
  | none => s
  | some (st, slot) =>
    let c := s.codeOf st slot
    if mayStart s st && decide (0 < st.cpu.rep) && !st.cpu.repFirst then
      match nextInst c st with
      | .ok i => startInst s slot st c i
      | .error _ => s
    else s

/-! ### Entries -/

/-- The stall stands at a boundary where an entry, and nothing before it, may begin. -/
def mayEnter (s : State) (st : Stall) : Bool :=
  running st && boundaryClear s st && (execHit s st).isNone && (st.haltPend.isNone || st.cpu.lock != 0)

/-- Begin an entry, or stand BLOCKED where R22 bars it, or held by an agent access before its end or by its frame; `f` is the
entry (R22, R29, R161, R313). -/
def beginEntry (s : State) (slot : Nat) (st : Stall) (f : Stall → Stall) : State :=
  if !permitted s st then s.setStall { st with sched := .blocked }
  else if !agentsClear st (st.tick + 6) then s.setStall (st.heldFor s.time .agent (st.tick + 6))
  else if (frameWrites st 0 0 0).any fun p => rangeFaulted st p.1 p.2.length then s
  else match holdWrites st (st.tick + 6) (frameWrites st 0 0 0) with
    | .none => arrive (s.buffer slot st false (st.tick + 5) (frameWrites st 0 0 0)) (f st).pastBreak [] []
    | h => s.setStall (st.heldFor s.time h st.tick)

/-- Process up to `n` dots of a stall, for what collisions they would assert. -/
def lookAhead : Nat → Stall → Stall
  | 0, st => st
  | n + 1, st => lookAhead n (renderDot st)

/-- A delivery that becomes visible at subchannel i has an effect on the stall: of any other it is discarded (R322, R534). -/
def linkTakes (st : Stall) (i : Nat) : Bool := (st.sub i).ty == dLINK && !st.imported

/-- Line h asserts with a tick in entry ticks 2 – 4 of an entry that begins at `e` (R97). -/
def assertsSoon (s : State) (st : Stall) (e h : Nat) : Bool :=
  let soon (t : Nat) : Bool := decide (e < t) && decide (t ≤ e + 3)
  let soonO (o : Option Nat) : Bool := match o with | some t => soon t | none => false
  match h with
  | 0 => soon (vblTick st.cls st.src.vblFrame)
  | 1 =>
    (match lmPending st with | some (t, ie) => soon t && ie | none => false) ||
      (lockstep s st && (lookAhead 3 st).src.collDue.any fun t => soon t && decide (t ≤ e + 3))
  | 2 => soonO (tmrPending st 0)
  | 3 => soonO (tmrPending st 1)
  | 4 => (st.latched.any fun x => x.link && soon x.bound && linkTakes st x.who && bitAt (hodCfg st x.who) 1) ||
      st.replayLog.any fun x => x.kind == 1 && decide (x.source < 128) && soon x.tick && bitAt (hodCfg st (x.source % 8)) 1
  | 5 => st.pend.any fun p => p.post.isSome && soon (p.tick + 1) && bitAt (hodCfg st p.ord) 0
  | 6 => (st.latched.any fun x => !x.link && soon x.bound) || st.replayLog.any fun x => x.kind == 0 && soon x.tick
  | _ => soonO (sndPending st)

/-- Line h could be accepted over an entry for line l that began at this boundary, but for its ISTAT bit (R95, R97). -/
def couldTakeOver (st : Stall) (h : Nat) : Bool :=
  bitAt (st.word aIEN) h && bitAt st.cpu.ctl.toNat 2 && st.cpu.lock == 0 && !((upto (h + 1)).any fun j => bitAt (st.word aINSV) j)

/-- The line whose vector an entry for line l takes (R97). -/
def entryLine (s : State) (st : Stall) (l : Nat) : Nat :=
  ((upto l).find? fun h => couldTakeOver st h && assertsSoon s st st.tick h).getD l

/-- Interrupt entry for the highest-priority eligible line (R96). -/
def stepInterrupt (k : Nat) (s : State) : State :=
  match s.live k with
  | none => s
  | some (st, slot) =>
    match topLine st with
    | none => s
    | some l => if mayEnter s st && !st.cpu.dzDue && !idling st then beginEntry s slot st fun x => enterLine x (entryLine s x l) else s

/-- DIVZERO entry (R68). -/
def stepDivZero (k : Nat) (s : State) : State :=
  match s.live k with
  | none => s
  | some (st, slot) => if mayEnter s st && st.cpu.dzDue then beginEntry s slot st enterDivZero else s

/-- ILLEGAL entry of an instruction whose static checks fail (R574). -/
def stepIllegal (k : Nat) (s : State) : State :=
  match s.live k with
  | none => s
  | some (st, slot) =>
    if mayStart s st && mayEnter s st then
      match nextInst (s.codeOf st slot) st with
      | .error c => beginEntry s slot st fun x => enterIllegal x c
      | .ok _ => s
    else s

/-! ### Idle steps (R152) -/

/-- The least of a list of ticks above `t`, bounded by `b`. -/
def leastAbove (t b : Nat) (l : List Nat) : Nat := l.foldl (fun m x => if t < x ∧ x < m then x else m) b

/-- The end of an idle step from the stall's TICK; while a collision may assert LINE, it does not pass the tick at which the first
dot not yet rendered could (R33, R79, R152). -/
def idleEnd (st : Stall) : Nat :=
  let t := st.tick
  let line := (t / tpl st.cls + 1) * tpl st.cls
  let line := if bitAt (st.word 0x21080A) 1 then min line (max (t + 1) (st.ras.rpos + tpd st.cls)) else line
  let o (x : Option Nat) : List Nat := match x with | some v => [v] | none => []
  leastAbove t line
    ([vblTick st.cls st.src.vblFrame] ++ o ((lmPending st).map (·.1)) ++ o (sndPending st) ++ o (tmrPending st 0) ++
      o (tmrPending st 1) ++ st.src.collDue ++ o st.replayTo ++ st.pend.map (fun p => p.tick + 1) ++
      (upto 8).flatMap fun i => o (subNext st i))

/-- The stall once its idle ticks have advanced TICK. -/
def Stall.idledTo (st : Stall) (e : Nat) : Stall := (afterTick ({ st with shadow := .empty }.atTick e e st.cpu)).pastBreak

/-- The stall whose WAIT or SYNC has ended. -/
def Stall.woken (st : Stall) : Stall := { st with cpu := { st.cpu with idle := .none } }

/-- The tick after what a stall does next at its boundary: an instruction, an entry, or an idle tick (R313). -/
def State.nextEnd (s : State) (st : Stall) (slot : Nat) : Nat :=
  if idling st then st.tick + 1
  else if st.cpu.dzDue || (topLine st).isSome then st.tick + 6
  else
    let c := s.codeOf st slot
    match nextInst c st with
    | .error _ => st.tick + 6
    | .ok i =>
      let (r, cost) := runInst c st s.time i
      st.tick + ticksOf i r cost

/-- A read of VID_COLL or VID_STAT by the Hod engine waits at a tick that the raster unit has not reached: its tick. At most one step
of a stall is due, that of the lowest tick, and of the lowest subchannel among equal ones (R312, R575). -/
def State.agentCatchUp (s : State) (st : Stall) (slot : Nat) : Option Nat :=
  if (st.subs.all fun x => x.phase == .idle) || resetDue st then none
  else (upto 8).findSome? fun i =>
    match subRange st i, subEff st i with
    | some (a, n), some e =>
      if subDue st (s.nextEnd st slot) i && readsRaster ((upto n).map fun j => (a + j) % 2 ^ 24) && !rasterReached st e then some e else none
    | _, _ => none

/-- Advance the idle ticks of WAIT or SYNC by one step; an agent access that comes before their end holds the stall (R29, R152, R313). -/
def stepIdle (k : Nat) (s : State) : State :=
  match s.live k with
  | none => s
  | some (st, _) =>
    if running st && idling st && boundaryClear s st && !st.cpu.dzDue then
      if !permitted s st then s.setStall { st with sched := .blocked }
      else if !agentsClear st (st.tick + 1) then s.setStall (st.heldFor s.time .agent (st.tick + 1))
      else if pendStuck st then s.setStall (st.heldFor s.time .stamps st.tick)
      else
        let x := st.idledTo (idleEnd st)
        if idling x then s.setStall x else arrive s x.woken [] []
    else s

end Sys2Proof.Machine
end

