-- ==== Sys2Proof/Machine/Notice.lean ====
section
/-! DEFINITION. The log, notices, deliveries to data rings, MSI-X, mode changes, FLT_DEGRADE, parking and resuming (R439,
R456, R458, R464 – R466, R476, R480, R481, R155 – R159, R524). -/
namespace Sys2Proof.Machine

/-! ### Log, notices, deliveries -/

/-- Enter a log entry; the newest 4,096 are held (R458). SEVERITY and SOURCE are free values. -/
def State.logEntry (s : State) (code : Nat) (args : Bytes) : State :=
  let (sev, s) := s.draw 256
  let (src, s) := s.draw 256
  let l := s.log ++ [{ seq := s.logSeq, code, sev, src, time := s.time, args := sliceBytes args 0 16 }]
  { s with log := l.drop (l.length - 4096), logSeq := (s.logSeq + 1) % 2 ^ 32 }

/-- The ring pair that holds a class (R464). -/
def State.ringOfClass (s : State) (c : Nat) : Option Ring := s.rings.find? fun r => r.num != 0 && r.cls == c

/-- Count a dropped delivery (R465). -/
def State.dropDelivery (s : State) (c : Nat) : State :=
  { s with dropped := setNth s.dropped (c - 1) (satInc 0xFFFFFFFF (nthD s.dropped (c - 1) 0)) }

/-- Capture a delivery for a class; without a ring of the class it is dropped and counted (R442, R465, R467). -/
def State.capture (s : State) (c id : Nat) (data : Bytes) : State :=
  match s.ringOfClass c with
  | some _ => { s with captured := s.captured ++ [{ cls := c, id, time := s.time, data }] }
  | none => s.dropDelivery c

/-- The 32 bytes of a notice (R466). -/
def noticeBytes (code id a0 a1 time : Nat) : Bytes :=
  leBytes 2 code ++ leBytes 2 id ++ leBytes 4 a0 ++ leBytes 8 a1 ++ leBytes 8 time ++ leBytes 8 0

/-- Post a notice: a log entry and a delivery of CLASS NOTICE (R466). -/
def State.notice (s : State) (code id a0 a1 : Nat) : State :=
  let s := s.logEntry code (leBytes 4 a0 ++ leBytes 8 a1 ++ leBytes 4 id)
  s.capture 7 0 (noticeBytes code id a0 a1 s.time)

/-- Notice codes (R466). -/
def nPageFault : Nat := 1
def nParked : Nat := 2
def nStreamStopped : Nat := 3
def nMigrateDone : Nat := 4
def nMigrateEnded : Nat := 5
def nMigrateInDoubt : Nat := 6
def nHello : Nat := 7
def nRecovered : Nat := 8
def nDisabled : Nat := 9
def nMode : Nat := 10
def nStallLost : Nat := 11

/-- MSI-X messages can be sent: the link is up, MSI-X is enabled and the function is in D0 (R417, R476; that D3hot sends none is
PRESUMED, log entry 31). -/
def State.msixLive (s : State) : Bool := s.linkUp && s.get MSIX_EN == 1 && s.get PCI_POWER == 0

/-- The vector is masked, by its own mask bit or by the function mask (R439). -/
def State.msixMasked (s : State) (v : Nat) : Bool := s.get MSIX_FMASK == 1 || s.get (msixMask v) == 1

/-- Send an MSI-X message; a masked vector's pending bit is set instead, and while messages cannot be sent nothing happens (R439, R476). -/
def State.msix (s : State) (v : Nat) : State :=
  if !s.msixLive then s else if s.msixMasked v then s.put (msixPend v) 1 else s.emit (.msix v)

/-! ### Modes -/

/-- The code of a mode (R479). -/
def modeCode : Mode → Nat
  | .off => 0 | .slumber => 1 | .boot => 2 | .load => 3 | .reject => 4 | .service => 5 | .serve => 6 | .serveDegraded => 7
  | .drowse => 8 | .failStop => 9 | .debugFreeze => 10 | .conformance => 11

/-- The modes in which firmware runs and serves its whole command set by mode (R479, R481). -/
def fwRuns : Mode → Bool
  | .service | .serve | .serveDegraded | .drowse | .conformance => true
  | _ => false

/-- The modes in which BAR0 serves every block, so that writes of its registers are stored (R7, R420, R438, R481). -/
def blocksServe : Mode → Bool
  | .failStop | .debugFreeze => true
  | m => fwRuns m

/-- The modes in which doorbells count: FAIL_STOP ignores them (R438). -/
def doorbells (m : Mode) : Bool := blocksServe m && m != .failStop

/-- DEV_MODE as it reads (R480). -/
def State.devMode (s : State) : Nat := modeCode s.mode + s.detail * 256

/-- Change the mode: logged, and posted while a ring of CLASS NOTICE exists (R481). -/
def State.toMode (s : State) (m : Mode) (detail : Nat) : State :=
  let s := { s with mode := m, detail }
  let s := s.logEntry nMode (leBytes 4 s.devMode)
  match s.ringOfClass 7 with
  | some _ => s.capture 7 0 (noticeBytes nMode 0 s.devMode 0 s.time)
  | none => s

/-- FLT_DEGRADE. -/
def State.degrade (s : State) : Nat := s.reg32 0x220 % 256

/-- The number of the lowest bit set. -/
def lowestBit (x : Nat) : Nat := ((upto 32).find? fun i => bitAt x i).getD 0

/-- Enter SERVE, or SERVE_DEGRADED where R480 requires it. -/
def State.enterServe (s : State) : State :=
  if s.degrade = 0 then s.toMode .serve 0 else s.toMode .serveDegraded (0x20 + lowestBit s.degrade)

/-- What a change of FLT_DEGRADE does to the mode (R480, R481). -/
def State.followDegrade (s : State) : State :=
  match s.mode with
  | .serve => if s.degrade = 0 then s else s.enterServe
  | .serveDegraded => if s.degrade = 0 then s.enterServe else { s with detail := 0x20 + lowestBit s.degrade }
  | _ => s

/-- Set or clear a bit of FLT_DEGRADE. -/
def State.setDegrade (s : State) (f : Fld) (v : Nat) : State := (s.put f v).followDegrade

/-- A split function is in host-assisted mode (R467). -/
def State.split (s : State) (bit : Nat) : Bool := bitAt (s.get SPLIT_STATE_MODE) bit
def spINPUT : Nat := 0
def spSTREAM : Nat := 1
def spENCODE : Nat := 2
def spAUDIO : Nat := 3
def spRECOVER : Nat := 4
def spPAGING : Nat := 5
def spROUTE : Nat := 6

/-! ### Parking (R155 – R159) -/

/-- Park reasons (R156). -/
def rsnPAGE_FAULT : Nat := 1
def rsnMOVE : Nat := 2
def rsnMIGRATE : Nat := 3
def rsnRECOVER : Nat := 4
def rsnFENCE : Nat := 5
def rsnOPERATOR : Nat := 6
def rsnDRAIN : Nat := 7

/-- A stall may be parked where it stands: outside a locked sequence, or in FAULT_WAIT (R155). -/
def canPark (st : Stall) : Bool := st.cpu.lock == 0 || decide (st.sched = .faultWait)

/-- Park a stall that holds a reason, unless it is halted or must first end a locked sequence. -/
def parkNow (time : Nat) (st : Stall) : Stall :=
  if st.reasons.isEmpty || decide (st.sched = .halted) || decide (st.sched = .parked) || !canPark st then st
  else { st with sched := .parked, hold := .none, parkedAt := time, loaded := false }

/-- Add a park reason (R156, R158). -/
def addReason (time r : Nat) (st : Stall) : Stall := parkNow time { st with reasons := addNew r st.reasons }

/-- A halt that waited takes effect: at once, with FORCE also in a locked sequence, which it breaks; otherwise the sequence first runs
on to its end (R91, R523, R524). -/
def Stall.haltAfter (st : Stall) : Stall :=
  if st.cpu.lock = 0 ∨ st.haltPend = some true then
    { st with cpu := st.lockBroken, sched := .halted, hold := .none, haltPend := none, dbgHalt := false, haltCause := st.haltWhy }
  else { st with sched := .runnable, dbgHalt := false, haltPend := some false }

/-- What a halt that takes effect raises and records (R91, R528). -/
def State.noteHalt (s : State) (st : Stall) (k : Nat) : State :=
  match s.stall? k with
  | some x =>
    if x.sched = .halted then (if 0 < st.cpu.lock then s.put DBG_STATUS_LOCK_BROKEN 1 else s).raise evDbgHalt else s
  | none => s

/-- Clear a park reason; with none left a parked stall becomes RUNNABLE, or HALTED where a halt waits (R159, R524). -/
def clearReason (r : Nat) (st : Stall) : Stall :=
  let st := { st with reasons := st.reasons.filter fun x => x != r }
  if st.reasons.isEmpty ∧ st.sched = .parked then
    if st.dbgHalt then st.haltAfter else { st with sched := .runnable }
  else st

/-- The lowest park reason held, as STB_POS.REASON shows it. -/
def lowReason (st : Stall) : Nat := st.reasons.foldl (fun m r => if m = 0 ∨ r < m then r else m) 0

/-- Park stall k for a reason, with a PARKED notice where the host is told (R167, R382, R498). -/
def State.park (s : State) (k r : Nat) (tell : Bool) : State :=
  let s := match s.stall? k with
    | some st => s.setParked st (addReason s.time r st)
    | none => s
  if tell then s.notice nParked k r 0 else s

end Sys2Proof.Machine
end

