-- ==== Sys2Proof/Machine/StallEvents.lean ====
section
/-! DEFINITION. Events on one stall: catch-up and stamp-queue holds, translation faults, the sources computed from ticks,
inputs and deliveries, stall reset, checkpoints and page copies (R20, R29, R31, R35 – R43, R94, R101, R160 – R163, R194, R276,
R322, R324, R372, R377, R378, R381, R382, R485). -/
namespace Sys2Proof
namespace Machine

/-! ### Holds -/

/-- CATCH_UP_READ: the held read may complete (R31). -/
def catchUpRead (k : Nat) (s : State) : State :=
  match s.live k with
  | some (st, _) =>
    if st.hold = .catchUp ∧ st.sched = .running ∧ rasterReached st st.holdTick then s.setStall { st with hold := .none } else s
  | none => s

/-- STAMP_QUEUE_RELEASE: the held writer, processor or agent, resumes once there is room (R29). -/
def stampQueueRelease (k : Nat) (s : State) : State :=
  match s.live k with
  | some (st, _) =>
    if (st.hold = .stamps ∨ pendStuck st) ∧ st.sched = .running ∧ stampRoom st [{ tick := 0, src := 0, addr := 0x200000, data := [0] }] then
      s.setStall (flushBelow { st with hold := if st.hold = .stamps then .none else st.hold } st.tick)
    else s
  | none => s

/-! ### Translation (R370 – R372, R381, R382) -/

/-- A title page: a NOTMAPPED fault in PROG or in the cartridge table (R382). -/
def titlePage (kind index : Nat) : Bool := kind == 1 && (inPROG index || inCART index)

/-- Add a pair to a list without repeats. -/
def addPair (x : Nat × Nat) (l : List (Nat × Nat)) : List (Nat × Nat) := if l.contains x then l else l ++ [x]

/-- The stall with a fault of an agent on an entry outstanding, and the title page it waits for (R381, R382). -/
def Stall.faulted (st : Stall) (kind index agent page : Nat) : Stall :=
  { st with faults := addPair (index, agent) st.faults, waits := if titlePage kind index then addPair (index, page) st.waits else st.waits }

/-- The stall stopped in FAULT_WAIT (R93, R157). -/
def Stall.inFaultWait (st : Stall) (time : Nat) : Stall := { st with sched := .faultWait, faultAt := time }

/-- The next access of subchannel i that TICK has come to selects an entry: a write of memory that waits, a program's read, or its
unit (R312, R321). -/
def subSelects (st : Stall) (index i : Nat) : Bool :=
  (st.pend.any fun p => p.ord == i && (entriesOf st p.addr p.data.length).contains index) ||
    (match subRange st i with | some (a, n) => (entriesOf st a n).contains index | none => false) ||
    (match (st.sub i).phase, (st.sub i).units with | .units, u :: _ => u.kind != 2 && (entriesOf st u.addr u.len).contains index | _, _ => false)

/-- The subchannel whose access fails on an entry: one with a write that waits, else the one whose next step comes first. -/
def faultSub (st : Stall) (index : Nat) : Option Nat :=
  match st.pend.find? fun p => decide (p.ord < 8) && (entriesOf st p.addr p.data.length).contains index with
  | some p => some p.ord
  | none => match (upto 8).find? fun i => subFirst st i && subSelects st index i with
    | some i => some i
    | none => (upto 8).find? fun i => subSelects st index i

/-- A fault of the Hod engine is reported in HOD_FAULT (R332, R381). -/
def State.hodFault (s : State) (st : Stall) (agent index : Nat) : State :=
  match (if agent = 3 then faultSub st index else none) with
  | some i => (s.puts [(HOD_FAULT_SUB, 8 * st.num + i), (HOD_FAULT_VALID, 1)]).inc HOD_FAULT_COUNT
  | none => s

/-- Host-assisted paging: the host is told once of a title page, and a core's fault parks the stall (R382, R467). -/
def State.tellFault (s : State) (st : Stall) (kind index agent page : Nat) (known : Bool) : State :=
  if !s.split spPAGING then s
  else
    let s := if titlePage kind index && !known then s.notice nPageFault st.num st.title page else s
    if agent = 0 then s.park st.num rsnPAGE_FAULT false else s

/-- The instruction, entry or repetition at the stall's boundary makes an access that selects an entry (R372). -/
def State.coreSelects (s : State) (st : Stall) (slot index : Nat) (write fetch : Bool) : Bool :=
  let frame (st : Stall) : Bool := write && (frameWrites st 0 0 0).any fun p => (entriesOf st p.1 p.2.length).contains index
  if idling st then false
  else if st.cpu.dzDue || (topLine st).isSome then frame st
  else
    let c := s.codeOf st slot
    match nextInst c st with
    | .error _ => if fetch then (fetchEntries st.cpu.pc.toNat 8).contains index else frame st
    | .ok i =>
      let r := (runInst c st s.time i).1
      if fetch then (fetchEntries st.cpu.pc.toNat i.len).contains index
      else if write then (instWrites st r).any fun p => (entriesOf st p.1 p.2.length).contains index
      else r.env.accs.any fun p => (entriesOf st p.1 p.2).contains index

/-- An access of an agent selects an entry of the stall now: a session core's at its boundary, the raster unit's or the voice engines' of
the render views, the Hod engine's of its programs; those of the Mover and the debugger name their own (R372, R381). -/
def State.selects (s : State) (st : Stall) (slot agent index : Nat) (write fetch : Bool) : Bool :=
  match agent with
  | 0 => running st && boundaryClear s st && s.coreSelects st slot index write fetch
  | 1 => inRange 0x1840 0x1890 index && !fetch
  | 2 => inRange 0x1890 0x18A0 index && !fetch
  | 3 => (faultSub st index).isSome && !fetch
  | _ => !fetch

/-- The fault on an entry of stall k is known: a record is in the queue, or it is under resolution (R381). -/
def State.faultKnown (s : State) (st : Stall) (index : Nat) : Bool :=
  (st.faults.any fun f => f.1 == index) || s.xfaults.any fun x => x.stall == st.num && x.index == index

/-- TRANSLATION_FAULT: an access of `agent` (0 session core, 1 raster unit, 2 voice engines, 3 Hod, 4 Mover, 5 debug master) selects entry
`index`, which the table holds, or, where State holds none of its own for it, `entry`; a check of R372 fails. Each fault pushes a record;
while the queue is full the agent waits, and the wait is counted (R93, R157, R372, R381). -/
def translationFault (k index entry agent : Nat) (write fetch : Bool) (page : Nat) (s : State) : State :=
  match s.live k with
  | none => s
  | some (st, slot) =>
    let e := (lookupN index st.pt).getD entry
    let kind := pteKind index e write fetch
    let owned := bitAt e 4 && (st.dirty.contains index || st.copying.contains index)
    if kind = 0 ∨ owned ∨ !s.usesEntry st index ∨ !s.selects st slot agent index write fetch then s
    else
      let known := s.faultKnown st index
      let s := s.mapEntry st index (some e)
      if !known ∧ 64 ≤ s.xfaults.length then s.inc MEM_XFAULT_CNT_FULL
      else
        let s := if known then s else { s with xfaults := s.xfaults ++ [{ kind, agent, write, stall := k, index }] }
        let st' := { st with pt := insertN index e st.pt }.faulted kind index agent page
        let st' := if agent = 0 then st'.inFaultWait s.time else st'
        ((s.setStall st').hodFault st' agent index).tellFault st' kind index agent page known

/-- Clear a park reason of stall k, with DBG_HALT where a waiting halt takes effect (R159, R524, R528). -/
def State.unpark (s : State) (k r : Nat) : State :=
  match s.stall? k with
  | none => s
  | some st =>
    let s := s.setStall (clearReason r st)
    if st.sched = .parked ∧ st.dbgHalt then s.noteHalt st k else s

/-- The stall with its faults on an entry resolved (R381). -/
def Stall.resolved (st : Stall) (index : Nat) : Stall :=
  let st : Stall := { st with faults := st.faults.filter (fun f => f.1 != index), waits := st.waits.filter (fun f => f.1 != index) }
  flushBelow st st.tick

/-- The end of FAULT_WAIT: the access restarts, or a halt that waited takes effect, in a locked sequence only at its end unless it
was forced (R91, R159, R524). -/
def Stall.endFaultWait (st : Stall) : Stall := if st.dbgHalt then st.haltAfter else { st with sched := .runnable }

/-- The accesses that wait on one entry of a stall restart (R93, R157, R159, R381). -/
def State.restart (s : State) (k index : Nat) : State :=
  match s.stall? k with
  | none => s
  | some st =>
    let x := st.resolved index
    let done := (st.faults.any fun f => f.1 == index && f.2 == 0) && !(x.faults.any fun f => f.2 == 0)
    let ends := done && decide (st.sched = .faultWait)
    let s := s.setStall (if ends then x.endFaultWait else x)
    let s := if ends && st.dbgHalt then s.noteHalt st k else s
    if done ∧ st.reasons.contains rsnPAGE_FAULT then s.unpark k rsnPAGE_FAULT else s

/-- Resolve the faults of a stall on one entry: firmware maps what its records say, for a COW or unmapped private page a frame of its own
with D and K 0, and the waiting accesses restart (R375, R381, R382). -/
def State.resolveFault (s : State) (k index : Nat) : State :=
  match s.stall? k with
  | none => s
  | some st => (s.mapEntry st index none).restart k index

/-- A section with an image page laid over it. -/
def overlayPage (sec : Bytes) (at_ page : Nat) (bs : Bytes) : Bytes :=
  if at_ ≤ 4096 * page ∧ 4096 * page < at_ + sec.length then
    (putBytes sec (4096 * page - at_) (sliceBytes bs 0 4096)).take sec.length
  else sec

/-- Map a page of a title's image for every stall that waits for it (R382). -/
def State.supplyPage (s : State) (t : Title) (page : Nat) (bs : Bytes) : State :=
  let t' : Title := { t with prog := overlayPage t.prog t.progAt page bs, cart := overlayPage t.cart t.cartAt page bs }
  let ts : List Title := s.titles.map fun x => if x.handle == t.handle then t' else x
  let sts : List Stall := s.stalls.filter fun st => st.title == t.handle
  let ws : List (Nat × Nat) := sts.flatMap fun st => (st.waits.filter fun w => w.2 == page).map fun w => (st.num, w.1)
  let s := if page / 512 < t.exts.length then s.hbmWrite (t.pageAddr page) (sliceBytes bs 0 4096) else s
  ws.foldl (fun s w => s.resolveFault w.1 w.2) { s with titles := ts }

/-- FAULT_RESOLVE: a private page is mapped by firmware; a title page that firmware itself fetches comes from the host title store or a
yard peer, as `page`, and where it cannot be obtained the stall that waits is parked and the host told; in host-assisted mode it waits for
the host (R157, R382). -/
def faultResolve (k index : Nat) (page : Option Bytes) (s : State) : State :=
  match s.stall? k with
  | none => s
  | some st => match st.waits.find? fun w => w.1 == index, s.title? st.title with
    | some w, some t =>
      if s.split spPAGING then s
      else match page with
        | some bs => s.supplyPage t w.2 bs
        | none => if st.sched = .faultWait then s.park k rsnPAGE_FAULT true else s
    | _, _ => s.resolveFault k index

/-- CKPT_PAGE_COPY: a frame with K = 1 is copied, and a write held on it continues (R377). -/
def ckptPageCopy (k index : Nat) (s : State) : State :=
  s.onStall k fun st =>
    if st.copying.contains index then
      let st : Stall := { st with copying := st.copying.filter (fun x => x != index), hold := if st.hold = .write then .none else st.hold }
      flushBelow st st.tick
    else st

/-! ### Sources computed from ticks -/

/-- What a stall does at its boundary before it goes on: only in a slice, and R22 that bars it makes it BLOCKED instead. -/
def State.atEdge (s : State) (st : Stall) (t : Stall) : State :=
  if !running st then s
  else if !permitted s st then s.setStall { st with sched := .blocked }
  else s.setStall t

/-- Take a boundary source that is due: the stall is live and no reset comes before it (R20, R485). -/
def State.atBoundary (s : State) (k : Nat) (f : Stall → Option Stall) : State :=
  match s.live k with
  | some (st, _) => if resetDue st then s else match f st with
    | some t => s.atEdge st t
    | none => s
  | none => s

/-- VBL_ASSERT (R20). -/
def vblAssert (k : Nat) (s : State) : State :=
  s.atBoundary k fun st =>
    let a := vblTick st.cls st.src.vblFrame
    if a ≤ st.tick then some (assertLine { st with src := { st.src with vblFrame := st.src.vblFrame + 1 } } 0 a) else none

/-- LINE_MATCH: VID_LSRC.LM, and LINE where LMIE was 1 (R194). -/
def lineMatch (k : Nat) (s : State) : State :=
  s.atBoundary k fun st =>
    match lmPending st with
    | some (a, ie) =>
      if a ≤ st.tick then
        let src := if st.src.lmDue.isEmpty then { st.src with lmFrom := a + 1 } else { st.src with lmDue := st.src.lmDue.drop 1 }
        let st := assertLM { st with src } a
        some (if ie then assertLine st 1 a else st)
      else none
    | none => none

/-- TIMER_EXPIRY: ISTAT bit TMRn; with ONE the timer stops (R101). -/
def timerExpiry (k n : Nat) (s : State) : State :=
  s.atBoundary k fun st =>
    match (if n < 2 then tmrPending st n else none) with
    | some a =>
      if a ≤ st.tick then
        let t := st.src.tmr n
        let st :=
          if t.due.isEmpty then
            let st1 := { st with src := st.src.setTmr n { t with next := t.next + timerPeriod st n
                                                                 pre := field (st.word (aTCTL n)) 1 3 } }
            if bitAt (st.word (aTCTL n)) 4 then clearEn st1 n else st1
          else { st with src := st.src.setTmr n { t with due := t.due.drop 1 } }
        some (assertLine st (2 + n) a)
      else none
    | none => none

/-- SND_PERIOD_EXPIRY (R276). -/
def sndPeriodExpiry (k : Nat) (s : State) : State :=
  s.atBoundary k fun st =>
    match sndPending st with
    | some a =>
      if a ≤ st.tick then
        let src := if st.src.sndDue.isEmpty then { st.src with sndFrom := a + 1 } else { st.src with sndDue := st.src.sndDue.drop 1 }
        some (assertLine { st with src } 7 a)
      else none
    | none => none

/-! ### Inputs, deliveries, the input log (R35, R36, R43, R322) -/

/-- Append entries to the input log; in CONFORMANCE a log past 1,048,576 entries is TRUNC (R43, R533). -/
def addLog (conf : Bool) (st : Stall) (es : List LogEntry) : Stall :=
  let log := st.log ++ es
  { st with log, trunc := st.trunc || (conf && decide (1048576 < log.length)) }

/-- The contents of a player's latch. -/
def setLatch (st : Stall) (player : Nat) (bs : Bytes) : Stall :=
  { st with mem := Memory.setBytes st.mem (0x240000 + 16 * (player % 4)) (sliceBytes bs 0 16) }

/-- Make one input visible at tick `b` (R36). -/
def showInput (st : Stall) (b player : Nat) (bs : Bytes) : Stall := assertLine (setLatch st player bs) 6 b

/-- What is visible before a reset due at this boundary: only what became visible below it (R485). -/
def beforeReset (st : Stall) (bound : Nat) : Bool := decide (bound ≤ st.tick) && (!resetDue st || decide (bound < st.tick))

/-- The first latched item of one kind that is due, and the rest. -/
def takeLatched (st : Stall) (link : Bool) : Option (Latched × List Latched) :=
  match st.latched.find? fun x => x.link == link && beforeReset st x.bound with
  | some x => some (x, st.latched.erase x)
  | none => none

/-- INPUT_VISIBLE: the next input due becomes visible and is logged, or is applied again in a replay (R35, R36). -/
def inputVisible (k : Nat) (s : State) : State :=
  match s.live k with
  | none => s
  | some (st, _) =>
    match st.replayLog with
    | e :: r =>
      if e.kind = 0 ∧ beforeReset st e.tick then
        s.atEdge st (showInput { st with replayLog := r } e.tick e.source e.payload)
      else s
    | [] => match takeLatched st false with
      | some (x, rest) =>
        let e : LogEntry := { tick := x.bound, kind := 0, source := x.who, seq := x.seq % 2 ^ 32, payload := sliceBytes x.data 0 16 }
        s.atEdge st (showInput (addLog (decide (s.mode = .conformance)) { st with latched := rest } [e]) x.bound x.who x.data)
      | none => s

/-- The log entries of a delivery (R43). -/
def linkEntries (tick sub seq : Nat) : Nat → Bool → Bytes → List LogEntry
  | 0, _, _ => []
  | n + 1, cont, bs =>
    let e : LogEntry := { tick, kind := 1, source := sub + (if cont then 128 else 0), seq, payload := bs.take 16 }
    if bs.length ≤ 16 then [e] else e :: linkEntries tick sub seq n true (bs.drop 16)

/-- The receive buffer of a subchannel in bytes (R306). -/
def rxSize : Nat := 4096

/-- An overrun at boundary tick `b` is latched for the next post; a post already made at or after `b`, inside the instruction that has
just ended, carries it instead: the first of them, which is the last made or has been overwritten since (R322). -/
def noteOverrun (st : Stall) (b i : Nat) : Stall :=
  let x := { st.sub i with overruns := min 65535 ((st.sub i).overruns + 1) }
  if b < x.prevAt then st.setSub i x
  else if b < x.postAt then
    let st := st.setSub i { x with dev := x.dev ||| 2 }
    if bitAt (hodCfg st i) 2 then
      subPend st i (x.postAt - 1) 1 ((hodCsa st i + 2) % 2 ^ 24) (leBytes 1 (x.dev ||| 2)) none none
    else st
  else st.setSub i { x with overrun := true }

/-- A delivery reaches a LINK subchannel at boundary tick `b`: appended or discarded, and LINK asserted (R322). -/
def showDelivery (st : Stall) (b i : Nat) (bs : Bytes) : Stall :=
  let x := st.sub i
  let st := if x.rx.length + bs.length ≤ rxSize then
      st.setSub i { x with rx := x.rx ++ bs, compl := if x.phase = .waiting ∧ x.rx.isEmpty then b else x.compl }
    else noteOverrun st b i
  if bitAt (hodCfg st i) 1 then assertLine st 4 b else st

/-- The entries at the head of a replay log that form one delivery. -/
def takeDelivery : List LogEntry → Bytes × List LogEntry
  | [] => ([], [])
  | e :: r =>
    if e.kind = 1 ∧ 128 ≤ e.source then
      let (bs, q) := takeDelivery r
      (e.payload ++ bs, q)
    else ([], e :: r)

/-- LINK_DELIVERY_VISIBLE (R89, R322, R534). -/
def linkDeliveryVisible (k : Nat) (s : State) : State :=
  match s.live k with
  | none => s
  | some (st, _) =>
    if 0 < st.cpu.lock then s
    else match st.replayLog with
      | e :: r =>
        if e.kind = 1 ∧ beforeReset st e.tick then
          let (bs, q) := takeDelivery r
          s.atEdge st (showDelivery { st with replayLog := q } e.tick (e.source % 8) (e.payload ++ bs))
        else s
      | [] => match takeLatched st true with
        | some (x, rest) =>
          let t := { st with latched := rest }
          if (st.sub x.who).ty = dLINK ∧ !st.imported then
            let es := linkEntries x.bound x.who x.seq 65 false x.data
            s.atEdge st (showDelivery (addLog (decide (s.mode = .conformance)) t es) x.bound x.who x.data)
          else if running st ∧ permitted s st then (s.setStall t).inc YRD_LINK_LOST_COUNT
          else s.atEdge st t
        | none => s

/-! ### Stall reset (R38, R199, R278, R324, R373, R485) -/

/-- Set the registers of stall data space to their reset values in a view. -/
def resetRegView (m : Mem) : Mem :=
  let m := Memory.clearRange m 0x210800 0x210900
  let m := Memory.clearRange m 0x220000 0x220100
  let m := Memory.clearRange m 0x240100 0x240500
  let m := Memory.setBytes m 0x220082 (leBytes 2 0x8080)
  (upto 12).foldl (fun m w => Memory.setBytes m (0x240400 + 2 * w) (leBytes 2 w)) m

/-- The raster unit and the voice engines have processed every dot and sample below a tick. -/
def unitsReached (st : Stall) (t : Nat) : Bool := rasterReached st t && decide (t ≤ st.spos * tps st.cls)

/-- What a stall reset at boundary tick b returns to its reset value; the last sample before b stays until it is routed. The frame
that contains b counts as the first frame after the reset (R196; DESIGN CHOICE, log entry 80). -/
def resetStall (st : Stall) : Stall :=
  let b := st.tick
  let st := applySounds (applyRaster (settle st b) b) b
  let tm (t : Timer) : Timer := { Timer.reset with due := t.due }
  let mem := resetRegView st.mem
  { st with
    cpu := Cpu.reset, shadow := .empty, mem, rview := resetRegView st.rview
    src := { st.src with tmr0 := tm st.src.tmr0, tmr1 := tm st.src.tmr1, cleared := List.replicate 8 0, lmCleared := b + 1 }
    voices := st.voices.map fun v => { Voice.reset with vl := v.vl, vr := v.vr }
    subs := st.subs.map resetSub, pend := st.pend.filter fun p => decide (p.ord = 8)
    ras := { st.ras with eff := List.replicate 8 (0, 0), ovfHeld := false, ahead := [], firstFrame := frameOf st.cls b }
    resetAt := if dueBy st.resetAt.head? st.tick then st.resetAt.drop 1 else st.resetAt, hold := .none, l1 := false }

/-- Nothing of before boundary tick b is left to be done: no step or command of a stall program below it, no agent write that waits, no
input below it, no dot or sample below it, and no dot drawn past it (R38, R199, R278, R324). -/
def readyToReset (s : State) (st : Stall) : Bool :=
  unitsReached st st.tick && notAhead st && !pendStuck st && !(st.latched.any fun x => beforeReset st x.bound) &&
    (s.get HOD_CTL_EN == 0 || (agentsClear st st.tick && st.subs.all fun x => x.cmds.isEmpty))

/-- STALL_RESET_APPLY: the reset is logged with TICK b and takes effect (R38, R485, R511). -/
def stallResetApply (k : Nat) (s : State) : State :=
  match s.live k with
  | none => s
  | some (st, _) =>
    if resetDue st ∧ readyToReset s st then
      let t := match st.replayLog with
        | e :: r => if e.kind = 2 ∧ e.tick ≤ st.tick then { st with replayLog := r } else st
        | [] => addLog (decide (s.mode = .conformance)) st [{ tick := st.tick, kind := 2, source := 0, seq := 0, payload := [] }]
      s.atEdge st (resetStall t)
    else s

/-! ### Checkpoints (R39 – R42, R160 – R163, R377, R378) -/

/-- The index of the first input log entry with TICK greater than `t` (R42). -/
def logPos (st : Stall) (t : Nat) : Nat := st.logBase + (st.log.takeWhile fun e => decide (e.tick ≤ t)).length

/-- Bits set in a map of near-page lines. -/
def mapLines (m : Nat) : List Nat := (upto 8).filter fun i => bitAt m i

/-- 4 KiB pages of a record: header and context area, near lines, stamp entries with their spill area, private frames; and of a base
image: near page, private frames, and a page table that holds the entries of the shared frames (R40, R42, R368, R378). -/
def recordPages (c : BeamClass) : Nat := (trackedPages c).length + 19
def basePages (c : BeamClass) : Nat := (trackedPages c).length + 17

/-- Where record `seq` of a stall lies in its CKPT area: four records after the base image (R367, R368). -/
def recordAt (st : Stall) (seq : Nat) : Nat := 4096 * (basePages st.cls + seq % 4 * recordPages st.cls)

/-- Capture a checkpoint at the stall's TICK: a full capture copies every private frame (R39, R40, R42, R377, R378). -/
def capture (st : Stall) : Stall :=
  let pages := if st.ckptFull then trackedPages st.cls else st.dirty
  let nearmap := if st.ckptFull then 255 else st.nearDirty
  let c : Ckpt :=
    { stall := st.num, cls := st.cls, place := recordAt st st.ckptSeq, near := (mapLines nearmap).map fun i => (i, Memory.getBytes st.mem (256 * i) 256)
      copies := pages.map fun i => (i, pageBytes st i), conf := 1, freeRun := st.freeRun, repeating := decide (0 < st.cpu.rep)
      seq := st.ckptSeq, boundary := st.ckptBound, logpos := logPos st st.tick, nearmap, pages := pages.length, complete := false
      body := st.body }
  { st with ckpts := st.ckpts ++ [c], ckptSeq := (st.ckptSeq + 1) % 2 ^ 32, begun := max st.begun (st.ckptBound + 1)
            ckptBound := ckptUp st.cls (st.ckptBound + 1), copying := pages, dirty := [], nearDirty := 0 }

/-- The 64-byte header of a record (R42). -/
def Ckpt.header (c : Ckpt) : Bytes :=
  let h := leBytes 2 1 ++ leBytes 2 (c.stall % 4096) ++ leBytes 1 (clsIdx c.cls) ++ leBytes 1 (b2n c.freeRun + 2 * b2n c.repeating) ++
    leBytes 1 c.conf ++ leBytes 1 0 ++ leBytes 4 c.seq ++ leBytes 4 0 ++ leBytes 8 c.boundary ++ leBytes 8 c.body.tick ++
    leBytes 8 c.body.ras.rpos ++ leBytes 8 c.logpos ++ leBytes 1 c.nearmap ++ leBytes 3 0 ++ leBytes 4 c.pages ++
    leBytes 4 c.body.stamps.length
  h ++ leBytes 4 (crc32 h).toNat

/-- A checkpoint record as bytes: header, context area, near lines, stamp entries with their blocks, pages (R40, R42). Only the
header's layout is the manual's. -/
def Ckpt.bytes (c : Ckpt) : Bytes :=
  c.header ++ sliceBytes (Config.contextArea c.body) 0 2048 ++ c.near.flatMap (·.2) ++ c.body.stamps.flatMap Stamp.bytes ++
    (c.body.stamps.filter Stamp.block).flatMap (·.data) ++ c.copies.flatMap (·.2)

/-- The 32 bytes of an input log entry (R43). -/
def LogEntry.bytes (e : LogEntry) : Bytes :=
  leBytes 8 e.tick ++ leBytes 1 e.kind ++ leBytes 1 e.source ++ leBytes 2 (min 16 e.payload.length) ++ leBytes 4 e.seq ++ sliceBytes e.payload 0 16

/-- Where the input log of a stall lies after its records, a ring of 2,048 entries. -/
def logArea (c : BeamClass) : Nat := 4096 * (basePages c + 4 * recordPages c)

/-- 4 KiB pages of a stall in the CKPT shed: base image, four records, input log; and in the STALL shed: page table, private pages,
spill area, stall-store position, SAVE memory (R13, R367, R368). -/
def ckptPages (c : BeamClass) : Nat := basePages c + 4 * recordPages c + 16
def stallPages (c : BeamClass) (save : Nat) : Nat := 16 + (privatePages c).length + 16 + 1 + ceilDiv save 4096

/-- Lay a record's near lines and pages over the base image, with the entries of the shared frames (R378). -/
def State.overlay (s : State) (st : Stall) (c : Ckpt) : State :=
  let put (s : State) (o : Nat) (bs : Bytes) : State := s.hbmWrite (areaAddr st.ckExts o) bs
  let s := c.near.foldl (fun s p => put s (256 * p.1) p.2) s
  let s := c.copies.foldl (fun s p => put s (4096 * (1 + (trackedPages c.cls).idxOf p.1)) p.2) s
  (s.sharedEntries st).foldl (fun s p => put s (4096 * (1 + (trackedPages c.cls).length) + 8 * p.1) (leBytes 8 p.2)) s

/-- What the checkpoint writer puts into the CKPT shed when the newest checkpoint of a stall completes: the record, the input log, and
the base image where the capture is full or the oldest record is released (R40 – R43, R160, R378). -/
def State.writeCkpt (s : State) (st : Stall) : State :=
  match st.ckpts.getLast? with
  | none => s
  | some c =>
    let s := s.areaWrite st.ckExts c.place c.bytes
    let s := (st.log.zipIdx st.logBase).foldl (fun s p =>
      s.hbmWrite (areaAddr st.ckExts (logArea st.cls + 32 * (p.2 % 2048))) p.1.bytes) s
    if st.ckptFull then s.overlay st c
    else if st.ckpts.length = 5 then match st.ckpts[1]? with | some o => s.overlay st o | none => s
    else s

/-- The newest checkpoint is not complete. -/
def ckptOpen (st : Stall) : Bool := match st.ckpts.getLast? with | some c => !c.complete | none => false

/-- Event numbers of the stables (R469). -/
def evCkptLate (slot : Nat) : Nat := slot
def evUnderrun (slot : Nat) : Nat := 0x20 + slot
def evTakeover : Nat := 0x40

/-- CHECKPOINT_CAPTURE in an execution slice, or the hold of R162 while the checkpoint before it is not complete; R22 bars a
stall from going past the boundary before its time. -/
def checkpointCapture (k : Nat) (s : State) : State :=
  match s.live k with
  | none => s
  | some (st, slot) =>
    if ckptDue st ∧ !resetDue st ∧ !latchedDue st ∧ st.sched = .running ∧ (s.get HOD_CTL_EN = 0 ∨ agentsClear st st.tick) then
      if !permitted s st then s.setStall { st with sched := .blocked }
      else if ckptOpen st then
        if st.hold = .checkpoint then s
        else
          let s := s.setStall { st with hold := .checkpoint, holdAt := s.time, sched := .held }
          (s.inc (atSlot STB_CKPT_STAT_LATE slot)).raise (evCkptLate slot)
      else
        let f := atSlot STB_CKPT_STAT_CAPTURED slot
        ((s.drainOf k).setStall (capture st)).put f (s.get f + 1)
    else s

/-- The log entries kept: those from the TICK of the oldest retained checkpoint (R41). -/
def trimLog (st : Stall) : Stall :=
  match st.ckpts with
  | c :: _ =>
    let n := (st.log.takeWhile fun e => decide (e.tick < c.body.tick)).length
    { st with log := st.log.drop n, logBase := st.logBase + n }
  | [] => st

/-- Complete the newest checkpoint and release what R41 and R378 release; Conformance mode keeps everything (R533). -/
def completeCkpt (conf : Bool) (st : Stall) : Stall :=
  let cs := st.ckpts.map fun c => { c with complete := true }
  let cs := if conf then cs.take 1 ++ (cs.drop 1).drop ((cs.drop 1).length - 4)
    else if st.ckptFull then cs.drop (cs.length - 1) else cs.drop (cs.length - 4)
  let st : Stall := { st with ckpts := cs, ckptFull := false, fresh := false, copying := []
                              hold := match st.hold with | .checkpoint => .none | .write => .none | h => h }
  let st := flushBelow st st.tick
  if conf then st else trimLog st

/-- CHECKPOINT_COMPLETE (R162, R163). -/
def checkpointComplete (k : Nat) (s : State) : State :=
  match s.stall? k with
  | none => s
  | some st =>
    if ckptOpen st then (s.writeCkpt st).setStall (completeCkpt (decide (s.mode = .conformance)) st) else s

end Machine
end Sys2Proof
end

