-- ==== Sys2Proof/Machine/Ucs.lean ====
section
/-! DEFINITION. Microcode sets on a stable slot: validation, release, and the binding of a title's set image to a set slot
(R105 – R110, R114 – R120). -/
namespace Sys2Proof.Machine

/-- Micro-operations that exist (R115). -/
def uopOk (u : Nat) : Bool := decide (u ≤ 0x09) || (decide (0x10 ≤ u) && decide (u ≤ 0x20))

/-- The micro-operation uses IMM whatever BI says: MOVI, SEL, SETDZ (R115). -/
def uopImm (u : Nat) : Bool := u == 0x09 || u == 0x1E || u == 0x20

/-- The micro-operation makes a memory access: LDO, STO, LDM, STM (R118). -/
def uopMem (u : Nat) : Bool := u == 1 || u == 2 || u == 4 || u == 5

/-- W is one that R118 permits for the micro-operation. -/
def uopWidthOk (o : UOp) : Bool :=
  if o.uop = 4 ∨ o.uop = 5 then decide (o.w ≤ 1)
  else if o.uop ≤ 3 ∨ (6 ≤ o.uop ∧ o.uop ≤ 9) then o.w == 0 else true

/-- K names what the micro-operation may use (R118). -/
def uopOperandOk (e : UEntry) (o : UOp) : Bool :=
  let role := e.role o.k
  match o.uop with
  | 1 => decide (o.k < e.nops) && (role == 0 || role == 2)
  | 2 => decide (o.k < e.nops) && (role == 1 || role == 2)
  | 3 | 4 | 5 => decide (o.k < e.nops) && !bitAt (e.modes o.k) 4
  | 6 | 7 => o.k != 3 && (o.k != 2 || bitAt e.formuse 2)
  | _ => true

/-- The first failure of the micro-ops of an entry from index `j`, `n` of them, with `acc` accesses made (R118, R119):
code and micro-op index. Within one micro-op UOP comes before OPERAND, COND, ACCESS and END (DESIGN CHOICE, log entry 84). -/
def checkUops (uop : Nat → Nat) (e : UEntry) : Nat → Nat → Nat → Option (Nat × Nat)
  | 0, _, _ => none
  | n + 1, j, acc =>
    let o := UOp.ofNat (uop j)
    let acc := acc + b2n (uopMem o.uop)
    if !uopOk o.uop || o.rsvd != 0 || !uopWidthOk o || (!o.bi && !uopImm o.uop && o.imm != 0) then some (3, j)
    else if !uopOperandOk e o then some (4, j)
    else if o.uop == 0x1E && o.imm % 16 == 15 then some (8, j)
    else if 8 < acc then some (5, j)
    else if o.fin != (n == 0) then some (6, j)
    else checkUops uop e n (j + 1) acc

/-- A descriptor meets R110. -/
def descOk (e : UEntry) (k : Nat) : Bool :=
  let d := nthD e.opds k 0
  if e.nops ≤ k then d == 0 else e.role k == 0 || !bitAt (e.modes k) 4

/-- The first failure of an entry (R109, R110, R118): code, and the micro-op where one fails. In the header ATTR comes before RANGE and
OPERAND (DESIGN CHOICE, log entry 84). -/
def checkEntry (uop : Nat → Nat) (e : UEntry) : Option (Nat × Option Nat) :=
  if !e.valid then (if e.allZero then none else some (1, none))
  else if 16 ≤ e.attr ∨ 4 ≤ e.nops ∨ 32 ≤ e.fmask ∨ 8 ≤ e.formuse ∨ e.rsvd ∨ e.opds.any (fun d => decide (1024 ≤ d)) then
    some (1, none)
  else if e.base.any (fun b => b == 0) || decide (224 ≤ e.start) || e.len == 0 || decide (64 < e.len) ||
      decide (224 < e.start + e.len) then some (2, none)
  else if !((upto 3).all fun k => descOk e k) then some (4, none)
  else (checkUops uop e e.len e.start 0).map fun p => (p.1, some p.2)

/-- The first failure of a set: code, opcode index, micro-op (R118). -/
def checkSet (ent : Nat → UEntry) (uop : Nat → Nat) : List Nat → Option (Nat × Nat × Option Nat)
  | [] => none
  | u :: us => match checkEntry uop (ent u) with
    | some (c, j) => some (c, u, j)
    | none => checkSet ent uop us

/-- The first failure of a 2 KiB set image. -/
def checkImage (img : Bytes) : Option (Nat × Nat × Option Nat) :=
  checkSet (fun u => UEntry.ofBytes (sliceBytes img (32 * u) 32)) (fun j => leAt img (0x100 + 8 * j) 8) (upto 8)

/-- The first failure of set `set` of a slot's decode RAM. -/
def State.checkRam (s : State) (slot set : Nat) : Option (Nat × Nat × Option Nat) :=
  checkSet (s.uEntry slot set) (s.uMicro slot set) (upto 8)

/-- LOADED of a set, and at least one stall bound to it on the slot (R120). -/
def State.loaded (s : State) (slot set : Nat) : Bool := bitAt (s.get (atSlot UCS_STATE_LOADED slot)) set
def State.ucsInUse (s : State) (slot set : Nat) : Bool := (s.stallsOn slot).any fun st => st.ucset == set

/-- Set or clear LOADED. -/
def State.setLoaded (s : State) (slot set : Nat) (v : Bool) : State :=
  s.put { (atSlot UCS_STATE_LOADED slot) with lo := set, w := 1 } (b2n v)

/-- Report the result of a UCS_CMD (R119); OPC and UOP are free values where the manual gives the result none. -/
def State.ucsResult (s : State) (slot set code : Nat) (opc uop : Option Nat) : State :=
  let (fo, s) := s.draw 8
  let (fu, s) := s.draw 224
  s.puts [(atSlot UCS_ERR_SET slot, set), (atSlot UCS_ERR_CODE slot, code), (atSlot UCS_ERR_OPC slot, opc.getD fo),
    (atSlot UCS_ERR_UOP slot, uop.getD fu)]

/-- UCS_CMD VALIDATE (R118, R119).
DESIGN CHOICE (unsafe, log entry 109): no rule names the modes in which UCS_CMD acts. The stable sequencer acts while firmware runs
(`fwRuns`), SERVICE with no package among them, and does nothing on the write in DEBUG_FREEZE and FAIL_STOP. -/
def ucsValidate (slot set : Nat) (s : State) : State :=
  if 17 ≤ slot ∨ 16 ≤ set ∨ !fwRuns s.mode then s
  else if s.loaded slot set then s.ucsResult slot set 7 none none
  else match s.checkRam slot set with
    | none => (s.setLoaded slot set true).ucsResult slot set 0 none none
    | some (c, u, j) => s.ucsResult slot set c (some u) j

/-- UCS_CMD RELEASE (R120). -/
def ucsRelease (slot set : Nat) (s : State) : State :=
  if 17 ≤ slot ∨ 16 ≤ set ∨ !fwRuns s.mode then s
  else if s.ucsInUse slot set then s.ucsResult slot set 7 none none
  else (s.setLoaded slot set false).ucsResult slot set 0 none none

/-- Write a set image into the decode RAM of a set. -/
def State.writeSet (s : State) (slot set : Nat) (img : Bytes) : State :=
  (upto 256).foldl (fun s q => s.put ⟨setBase slot set + 8 * q, 0, 64⟩ (leAt img (8 * q) 8)) s

/-- Why a set image cannot be bound (R106). -/
inductive BindErr
  /-- UCODE_INVALID with code, opcode index and, where a micro-op fails, its index. -/
  | invalid (code opc : Nat) (uop : Option Nat)
  /-- UCODE_FULL. -/
  | full
  deriving DecidableEq, Repr

/-- Bind a set image on a slot: a set with the same digest, else a free set slot, loaded and validated with the report of VALIDATE; an
image that fails leaves the set slot free and its decode RAM clear (R106, R119). Of several such slots the lowest is taken (DESIGN
CHOICE, log entry 85). -/
def State.bindSet (s : State) (slot : Nat) (img : Bytes) : Except BindErr Nat × State :=
  match (upto 16).find? fun k => s.loaded slot k && Config.sha256 (s.regBytes (setBase slot k) 2048) == Config.sha256 img with
  | some k => (.ok k, s)
  | none => match (upto 16).find? fun k => !s.loaded slot k with
    | none => (.error .full, s)
    | some k =>
      let clear (s : State) : State := s.resetRange (setBase slot k) (setBase slot k + 0x800)
      let s := (clear s).writeSet slot k img
      match checkImage img with
      | some (c, u, j) => (.error (.invalid c u j), clear (s.ucsResult slot k c (some u) j))
      | none => (.ok k, (s.setLoaded slot k true).ucsResult slot k 0 none none)

/-- Bind what a title's set image needs; without one the stall stays unbound (R105, R106). -/
def State.bindTitle (s : State) (slot : Nat) (ucs : Option Bytes) : Except BindErr Nat × State :=
  match ucs with
  | none => (.ok 0x1F, s)
  | some img => s.bindSet slot img

end Sys2Proof.Machine
end

