-- ==== Sys2Proof/Machine/Life.lean ====
section
/-! DEFINITION. The creation state of a stall, its restore from a checkpoint and its replay, and core packing (R40 – R43, R123,
R139, R142 – R144, R375, R461, R498). -/
namespace Sys2Proof.Machine

/-- Work RAM as a title's initial-data pages leave it, from 0x00_1000 (R375). -/
def initMem (c : BeamClass) (init : Bytes) : Mem :=
  (init.zipIdx).foldl (fun m p => if isRam c (0x1000 + p.2) && decide (0x1000 + p.2 < 0x200000) then Memory.set m (0x1000 + p.2) p.1 else m) []

/-- The state a stall is created in (R52, R139, R461): TICK 0, every register at its reset value. -/
def newBody (c : BeamClass) (init save : Bytes) (subs : List Sub) : CkptBody :=
  let mem := resetRegView (initMem c init)
  { cls := c, ucset := 0x1F, tainted := false, lead := leadDefault c, corecfg := 0, f0 := none, freeRun := false, cpu := .reset, shadow := .empty, tick := 0, mem
    rview := resetRegView [], stamps := [], src := .reset 0 0, ras := .reset, voices := List.replicate 8 .reset, spos := 0, subs, pend := [], save }

/-- A created stall: PARKED with reason OPERATOR, no F0 (R461). -/
def newStall (num title : Nat) (c : BeamClass) (freeRun : Bool) (lead corecfg ucset time : Nat) (b : CkptBody) : Stall :=
  { num, title, cls := c, freeRun, ucset, lead, leadNext := lead, corecfg, corecfgNext := corecfg, f0 := none, sched := .parked
    hold := .none, holdTick := 0, holdAt := 0, reasons := [rsnOPERATOR], parkedAt := time, faultAt := 0, faults := [], waits := [], runAt := 0
    core := 0, hot := 0, loaded := false, lineArea := 0, hintArea := 0, exts := [], ckExts := [], ooo := false, replayTo := none
    replayHalt := false, quiet := false, replayLog := [], cpu := b.cpu, shadow := b.shadow, tick := b.tick, last := 0, mem := b.mem, rview := b.rview, stamps := b.stamps, src := b.src, latched := [], begun := 0
    resetAt := [], ras := b.ras, voices := b.voices, spos := b.spos, mixL := 0, mixR := 0, lane := none, subs := b.subs
    save := b.save, pend := b.pend, log := [], logBase := 0, ckptSeq := 0
    ckptBound := 0, ckpts := [], ckptFull := true, fresh := true, dirty := [], copying := [], acc := [], pt := [], nearDirty := 0
    tainted := false, haltPend := none, haltCause := 0, haltWhy := 0, stepping := false, bpSkip := false, dbgHalt := false
    imported := false, trunc := false, sigCrc := 0xFFFFFFFF, sigSnd := [], sigNext := 0, sigPos := 0, l1 := false }

/-! ### Restore and replay (R43, R498) -/

/-- The newest complete checkpoint. -/
def newestComplete (st : Stall) : Option Ckpt := (st.ckpts.filter (·.complete)).getLast?

/-- A captured subchannel as a restore puts it back: the TYPE and the peer are those assigned since, the TYPE from the end of a program
that was in progress (R299, R325, R409). -/
def Sub.restored (now cap : Sub) : Sub :=
  let ty := now.later.getD now.ty
  if cap.state = 0 ∧ cap.phase = .idle then { cap with ty, peer := now.peer, later := none }
  else { cap with peer := now.peer, later := if ty = cap.ty then none else some ty }

/-- The subchannels of a captured state, put back. -/
def restoredSubs : List Sub → List Sub → List Sub
  | n :: ns, c :: cs => n.restored c :: restoredSubs ns cs
  | _, cs => cs

/-- Put a stall back to a captured state. Lines and hint maps already handed over stay, and so does what was reported; F0 is kept
(R21). -/
def putBack (st : Stall) (b : CkptBody) : Stall :=
  { st with
    lead := b.lead, loaded := false, cpu := b.cpu, shadow := b.shadow, tick := b.tick, last := b.tick, mem := b.mem, rview := b.rview, stamps := b.stamps, src := b.src
    ras := { b.ras with lines := st.ras.lines, handed := st.ras.handed, underrun := st.ras.underrun, hints := st.ras.hints }
    voices := b.voices, spos := b.spos, subs := restoredSubs st.subs b.subs, pend := b.pend, save := b.save
    dirty := [], copying := [], nearDirty := 0
    ckptBound := if (newestComplete st).isNone then 0 else ckptUp st.cls (b.tick + 1)
    ckpts := st.ckpts.filter (·.complete) }

/-- A subchannel as firmware assigned it, with nothing done (R298, R409). -/
def Sub.assigned (x : Sub) : Sub := { Sub.reset with ty := x.ty, peer := x.peer }

/-- Restore a stall for recovery: from its newest complete checkpoint, or its creation state, or not at all; the input log
is to be applied again from LOGPOS, up to TICK at detection (R498). -/
def restoreStall (init save : Bytes) (st : Stall) : Option Stall :=
  let back : Option (CkptBody × Nat) :=
    match newestComplete st with
    | some c => some (c.body, c.logpos)
    | none => if st.fresh then some (newBody st.cls init save (st.subs.map Sub.assigned), 0) else none
  back.map fun (b, pos) =>
    let halted := decide (st.sched = .halted) || st.replayHalt
    let st' := putBack st b
    { st' with sched := .runnable, hold := .none, replayTo := some (st.replayTo.getD st.tick), replayHalt := halted
               replayLog := st.log.drop (pos - st.logBase), ckptFull := (newestComplete st).isNone }

/-- The title's initial data and an empty save memory of its size. -/
def State.creation (s : State) (st : Stall) : Bytes × Bytes :=
  match s.title? st.title with
  | some t => (t.init, List.replicate t.save 0)
  | none => ([], [])

/-! ### Packing (R123, R142 – R144) -/

/-- CLK_CORE cycles as ns: CLK_CORE runs at 2.0 GHz (R134). -/
def cyclesNs (n : Nat) : Nat := n / 2

/-- STB_QUANTUM in cycles; values below 1,000 act as 1,000. -/
def State.quantum (s : State) (slot : Nat) : Nat := max 1000 (s.get (atSlot STB_QUANTUM_CYCLES slot))

/-- The stall runs out of order in its next slice: IN_ORDER never, AUTO for Class N and for a stall that is replayed or stands on a
RESTORING slot, OOO always (R123, R166). -/
def nextOoo (restoring : Bool) (st : Stall) : Bool :=
  st.corecfgNext == 2 || (st.corecfgNext == 0 && (decide (st.cls = .N) || restoring || st.replayTo.isSome))

/-- The stall counts in the out-of-order group: by its configuration, and whatever that is while it is replayed or its slot is
RESTORING (R142, R146, R166). DEDUCED (log entry 12): an IN_ORDER stall that is replayed runs in order (R123) on a core of that group,
in slices of its own. -/
def groupOoo (restoring : Bool) (st : Stall) : Bool := nextOoo restoring st || restoring || st.replayTo.isSome

/-- The slot is RESTORING. -/
def State.restoring (s : State) (slot : Nat) : Bool := s.get (atSlot STB_STATE_STATE slot) == 3

/-- The stall takes part in packing (R144). -/
def State.packs (s : State) (slot : Nat) (st : Stall) : Bool :=
  !(decide (st.sched = .parked) && decide (st.parkedAt + cyclesNs (s.quantum slot) < s.time))

/-- The position of a stall. -/
def State.posOf (s : State) (k : Nat) : Nat := s.get (placePos k)

/-- Decreasing weight, then ascending position. -/
def packKey (s : State) (st : Stall) : Nat := (8 - weight st.cls) * 256 + s.posOf st.num

/-- Put a stall of weight w into the first core of the group with room: units per core, and the core chosen. -/
def packInto (w : Nat) : List Nat → Nat → List Nat × Nat
  | [], k => ([w], k)
  | u :: r, k => if u + w ≤ 48 then ((u + w) :: r, k) else
    let (r', j) := packInto w r (k + 1)
    (u :: r', j)

/-- The cores of a group's stalls in packing order, counted from `base`. -/
def packGroup (base : Nat) (units : List Nat) : List Stall → List (Nat × Nat)
  | [] => []
  | st :: r =>
    let (u, k) := packInto (weight st.cls) units base
    (st.num, k) :: packGroup base u r

/-- The core of each stall of a slot (R144). -/
def State.packing (s : State) (slot : Nat) : List (Nat × Nat) :=
  let all := (s.stallsOn slot).filter fun st => s.packs slot st
  let sorted := all.foldl (fun l st => insertBy (packKey s) st l) []
  let o := sorted.filter fun st => groupOoo (s.restoring slot) st
  let i := sorted.filter fun st => !groupOoo (s.restoring slot) st
  let uo := o.foldl (fun n st => n + weight st.cls) 0
  packGroup 0 [] o ++ packGroup (ceilDiv uo 48) [] i

/-- Beam units of the two groups of a stable, every admitted stall counted (R143). -/
def groupUnits (sts : List Stall) : Nat × Nat :=
  sts.foldl (fun a st => if groupOoo false st then (a.1 + weight st.cls, a.2) else (a.1, a.2 + weight st.cls)) (0, 0)

/-- The stalls placed on a logical stable. -/
def State.stallsOfL (s : State) (l : Nat) : List Stall :=
  s.stalls.filter fun st => s.get (placeValid st.num) == 1 && s.get (placeL st.num) == l

/-- Beam units of the stalls whose lanes are ramping, as AUD_RAMP shows them (R286). -/
def State.rampUnits (s : State) : Nat :=
  s.stalls.foldl (fun n st => match st.lane with
    | some l => if l.swapState = 2 then n + weight st.cls else n
    | none => n) 0
def State.showRamp (s : State) : State := s.put AUD_RAMP_UNITS s.rampUnits

/-- The subchannels resident in the Hod engine, as HOD_CACHE shows them: those of stalls and H0 – H63 (R331). -/
def State.putResident (s : State) (l : List Nat) : State := { s with resident := l }

/-- Beam units of the device. -/
def State.units (s : State) : Nat := s.stalls.foldl (fun n st => n + weight st.cls) 0

end Sys2Proof.Machine
end

