-- ==== Sys2Proof/Machine/Sched.lean ====
section
/-! DEFINITION. The raster unit's work on a stall, execution slices, holds, BLOCKED stalls, park timeouts, draining and fencing
of slots, and signature records (R149 – R157, R166, R172, R173, R196, R486, R535). -/
namespace Sys2Proof.Machine

/-! ### Signature records (R535) -/

/-- The tick after the last visible dot of frame k. -/
def frameDrawn (c : BeamClass) (k : Nat) : Nat := (((k * lpf c + visH c - 1) * dpl c) + visW c) * tpd c

/-- RCRC of frame k. -/
def rasterCrc (st : Stall) (k : Nat) : Nat :=
  (crc32 ((upto (visH st.cls)).flatMap fun l => (upto (visW st.cls)).flatMap fun d => leBytes 2 (pixelOf st k l d).toNat)).toNat

/-- The record of frame k with its ACRC. -/
def sigRecord (st : Stall) (k : Nat) (acrc : BitVec 32) : Bytes :=
  let n := st.logBase + (st.log.takeWhile fun e => decide (e.tick < (k + 1) * tpf st.cls)).length
  leBytes 2 st.num ++ leBytes 1 (clsIdx st.cls) ++ leBytes 1 (b2n st.trunc + 2 * b2n st.imported) ++ leBytes 4 k ++
    leBytes 8 (k * tpf st.cls) ++ leBytes 4 (rasterCrc st k) ++ leBytes 4 acrc.toNat ++ leBytes 8 n

/-- Write the next signature record of stall k once its frame is drawn and sounded and the ring has room. -/
def State.sigStep (s : State) (k : Nat) : State :=
  match s.stall? k with
  | none => s
  | some st => match st.sigSnd with
    | (f, acrc) :: rest =>
      if s.mode = .conformance ∧ f = st.sigNext ∧ frameDrawn st.cls f ≤ st.ras.rpos ∧ sigRoom s then
        let wr := s.get CNF_SIG_WR_VALUE
        let s := s.hbmWrite (s.get CNF_SIG_BASE_VALUE + wr) (sigRecord st f acrc)
        let s := s.put CNF_SIG_WR_VALUE ((wr + 32) % s.get CNF_SIG_SIZE_VALUE)
        s.setStall { st with sigSnd := rest, sigNext := f + 1 }
      else s
    | [] => s

/-! ### The raster unit -/

/-- A stamp entry due at the dot at RPOS falls on a render page whose checkpoint copy is pending (R377). -/
def stampWaits (st : Stall) : Bool :=
  st.stamps.any fun x => rasterEntry x && decide (x.tick < st.ras.rpos) &&
    (renderPages st.cls st.rview x).any fun p => st.copying.contains p

/-- The raster unit may process the stall's next dot: one below TICK, or one that a read by the Hod engine inside the next instruction
waits for, which is drawn with every write fixed below it (DEDUCED, log entry 81) (R172, R175, R178, R377, R575). -/
def dotReady (s : State) (st : Stall) (slot : Nat) : Bool :=
  s.get (atSlot RAS_CTL_EN slot) == 1 &&
    (decide (st.ras.rpos < st.tick) || match s.agentCatchUp st slot with | some e => decide (st.ras.rpos < e) | none => false) &&
    !(st.faults.any fun f => f.2 == 1) && !stampWaits st

/-- The deadline of the line at RPOS: the end of its slice (R173). -/
def lineDeadline (st : Stall) : Int :=
  let n := absline st.cls st.ras.rpos
  match st.f0 with
  | some f => realTime st.cls f ((n / lpf st.cls * lpf st.cls + n % lpf st.cls / 16 * 16 + 16) * tpl st.cls : Nat)
  | none => 0

/-- A read of the stall waits for the raster unit (R31, R32, R575). -/
def catchUpAsked (s : State) (slot : Nat) (st : Stall) : Bool :=
  (decide (st.hold = .catchUp) && !rasterReached st st.holdTick) || (s.agentCatchUp st slot).isSome

/-- The order of work of a renderable line: shown by the monitor port in legacy mode, catch-up, lockstep, replay, other (R172). -/
def workLevel (s : State) (slot : Nat) (st : Stall) : Nat :=
  if s.mon.mode = 1 ∧ s.get MON_CTL_EN = 1 ∧ s.mon.stall = st.num then 1
  else if catchUpAsked s slot st then 2
  else if lockstep s st then 3
  else if st.replayTo.isSome then 4
  else 5

/-- The raster unit works on stall a before stall b: by level, on the last level by deadline, then by position (R172). -/
def worksBefore (s : State) (slot : Nat) (a b : Stall) : Bool :=
  let la := workLevel s slot a
  let lb := workLevel s slot b
  if la ≠ lb then decide (la < lb)
  else if la = 5 ∧ lineDeadline a ≠ lineDeadline b then decide (lineDeadline a < lineDeadline b)
  else decide (s.posOf a.num < s.posOf b.num)

/-- The stall's next dot comes next in the raster unit's work: its line is begun, or no other renderable line goes before it (R172). -/
def dotNext (s : State) (st : Stall) (slot : Nat) : Bool :=
  dotOf st.cls st.ras.rpos != 0 || !((s.stallsOn slot).any fun x => x.num != st.num && dotReady s x slot && worksBefore s slot x st)

/-- A dot at or above TICK is drawn: the line boundaries up to it count as begun, so that nothing from outside the stall can still reach
the dot (DEDUCED, log entry 81) (R35, R38). -/
def Stall.beganTo (st : Stall) : Stall :=
  if st.tick ≤ st.ras.rpos then { st with begun := max st.begun (st.ras.rpos + 1) } else st

/-- RENDER_DOT (R172). -/
def renderDotStep (k : Nat) (s : State) : State :=
  match s.live k with
  | none => s
  | some (st, slot) =>
    if dotReady s st slot && dotNext s st slot then
      let s' := s.setStall (renderDot (enterAhead st st.ras.rpos).beganTo)
      let s' := if lineDone st then
          let f := atSlot RAS_LINES_LINES slot
          s'.put f (s'.get f + 1)
        else s'
      s'.sigStep k
    else s

/-- The line after slice n counted from frame 0. -/
def sliceEndLine (c : BeamClass) (n : Nat) : Nat := n / slicesPer c * lpf c + 16 * (n % slicesPer c) + 16

/-- Every line of slice n has been rendered. -/
def sliceDrawn (st : Stall) (n : Nat) : Bool :=
  rasterReached st ((((sliceEndLine st.cls n - 1) * dpl st.cls) + visW st.cls) * tpd st.cls)

/-- The deadline of slice n has been reached (R173). -/
def deadlinePast (st : Stall) (time n : Nat) : Bool :=
  match st.f0 with
  | some f => decide (realTime st.cls f (sliceEndLine st.cls n * tpl st.cls : Nat) ≤ (time : Int))
  | none => false

/-- Hand over the stall's next slice, LATE where its underrun was reported (R173, R197). -/
def handOver (st : Stall) (hints : Bool) : Stall :=
  let n := st.ras.handed
  let late := decide (n < st.ras.underrun)
  let m := hintMap st (n / slicesPer st.cls) (n % slicesPer st.cls) late hints
  { st with
    ras := { st.ras with handed := n + 1, hints := insertN (sliceKey st.cls n) m st.ras.hints, made := eraseN (sliceKey st.cls n) st.ras.made } }

/-- The stall with slices below `u` reported late. -/
def Stall.lateTo (st : Stall) (u : Nat) : Stall := { st with ras := { st.ras with underrun := u } }

/-- SLICE_DEADLINE (R173). -/
def sliceDeadline (k : Nat) (s : State) : State :=
  match s.live k with
  | none => s
  | some (st, slot) =>
    let n := st.ras.handed
    let u := max n st.ras.underrun
    if deadlinePast st s.time n ∧ sliceDrawn st n then s.setStall (handOver st (s.get (atSlot RAS_CTL_HINT slot) == 1))
    else if deadlinePast st s.time u then
      let s := s.setStall (st.lateTo (u + 1))
      let s := (s.inc (atSlot RAS_UNDERRUN_COUNT slot)).put (atSlot RAS_UNDERRUN_STALL slot) k
      s.raise (evUnderrun slot)
    else s

/-! ### Execution slices (R149 – R152) -/

/-- Lag of a stall with an anchor. -/
def lagAt (time : Nat) (st : Stall) : Int :=
  match st.f0 with
  | some f => lagOf st.cls f time st.tick
  | none => 0

/-- Stall a goes before stall b for a free hot slot (R150). -/
def grantBefore (s : State) (slot : Nat) (a b : Stall) : Bool :=
  if s.restoring slot && a.replayTo.isSome != b.replayTo.isSome then a.replayTo.isSome
  else if lagAt s.time a ≠ lagAt s.time b then decide (lagAt s.time b < lagAt s.time a)
  else decide (s.posOf a.num < s.posOf b.num)

/-- The stall that a free hot slot of a core goes to. -/
def State.grantChoice (s : State) (slot core : Nat) : Option Stall :=
  let cores := s.packing slot
  let cands := (s.stallsOn slot).filter fun st => decide (st.sched = .runnable) && lookupN st.num cores == some core
  cands.foldl (fun best st => match best with
    | none => some st
    | some b => if grantBefore s slot st b then some st else some b) none

/-- Stalls whose context is in a hot slot of a core, and those that execute there (R132). -/
def State.hotOn (s : State) (slot core : Nat) : List Stall :=
  (s.stallsOn slot).filter fun st => st.loaded && st.core == core
def State.runsOn (s : State) (slot core : Nat) : List Stall :=
  (s.stallsOn slot).filter fun st => decide (st.sched = .running) && st.core == core

/-- Hot context slots of a core that no stall executes in. -/
def State.freeHot (s : State) (slot core : Nat) : List Nat :=
  (upto 4).filter fun h => !((s.runsOn slot core).any fun st => st.hot == h)

/-- The hot slots that a stall may take: the one that still holds its context, else an empty one, else one whose context is written
back for it; which of them is not specified (R132). -/
def State.hotChoice (s : State) (slot core : Nat) (st : Stall) : List Nat :=
  let free := s.freeHot slot core
  if st.loaded && st.core == core && free.contains st.hot then [st.hot]
  else
    let empty := free.filter fun h => !((s.hotOn slot core).any fun x => x.hot == h)
    if empty.isEmpty then free else empty

/-- The context in a hot slot, other than stall k's, is written back once its stores have drained (R130, R132). -/
def State.evictHot (s : State) (slot core hot k : Nat) : State :=
  match (s.hotOn slot core).find? fun x => x.hot == hot && x.num != k with
  | some x => (s.drainOf x.num).setStall { x with loaded := false }
  | none => s

/-- The stall in a hot context of a core for an execution slice (R123, R132, R149). -/
def Stall.granted (st : Stall) (time core hot : Nat) (ooo : Bool) : Stall :=
  { st with sched := .running, runAt := time, core, hot, loaded := true, ooo, lead := st.leadNext, corecfg := st.corecfgNext }

/-- SLICE_GRANT (R123, R130, R132, R150). -/
def sliceGrant (slot core : Nat) (s : State) : State :=
  if !(stallsExecute s.mode && slotRuns s slot && s.get (atSlot STB_CTL_RUN slot) == 1 && decide (core < 4)) then s
  else
    match s.grantChoice slot core with
    | none => s
    | some st =>
      let ooo := nextOoo (s.restoring slot) st
      if (s.freeHot slot core).isEmpty || (s.runsOn slot core).any (fun x => x.ooo != ooo) then s
      else
        let l := s.hotChoice slot core st
        let (n, s) := s.draw l.length
        let h := nthD l n 0
        let s := s.evictHot slot core h st.num
        let s := if st.loaded && st.core == core then s else s.drainOf st.num
        s.setStall (st.granted s.time core h ooo)

/-- QUANTUM_EXPIRY: the slice ends at a boundary outside a locked sequence; the context stays in its hot slot (R132, R149). -/
def quantumExpiry (k : Nat) (s : State) : State :=
  match s.live k with
  | none => s
  | some (st, slot) =>
    if st.sched = .running ∧ st.cpu.lock = 0 ∧ st.runAt + cyclesNs (s.quantum slot) ≤ s.time then
      s.setStall { st with sched := .runnable, hold := .none }
    else s

/-- HOLD_EVICT: the hold outlasts STB_HOLD_EVICT and the context is written back; a locked sequence is first run to its end (R130,
R149, R153). -/
def holdEvict (k : Nat) (s : State) : State :=
  match s.live k with
  | none => s
  | some (st, slot) =>
    let n := s.get (atSlot STB_HOLD_EVICT_CYCLES slot)
    if st.sched = .running ∧ st.cpu.lock = 0 ∧ st.hold ≠ .none ∧ (n = 0 ∨ n < 2 * (s.time - st.holdAt)) then
      (s.drainOf k).setStall { st with sched := .held, loaded := false }
    else s

/-- The cause of a hold has cleared (R29, R31, R162). -/
def holdOver (st : Stall) : Bool :=
  match st.hold with
  | .none => true
  | .catchUp => rasterReached st st.holdTick
  | .stamps => stampRoom st [{ tick := 0, src := 0, addr := 0x200000, data := [0] }]
  | .checkpoint => !ckptOpen st
  | .write => st.copying.isEmpty
  | .store => true
  | .agent => agentsClear st st.holdTick

/-- HOLD_CLEAR (R153). -/
def holdClear (k : Nat) (s : State) : State :=
  match s.live k with
  | none => s
  | some (st, _) => if st.sched = .held ∧ holdOver st then s.setStall { st with sched := .runnable, hold := .none } else s

/-- BLOCKED_RELEASE (R151). -/
def blockedRelease (k : Nat) (s : State) : State :=
  match s.live k with
  | none => s
  | some (st, _) => if st.sched = .blocked ∧ permitted s st then s.setStall { st with sched := .runnable } else s

/-- PARK_TIMEOUT; of a title page that has not been obtained the host is told (R157, R382). -/
def parkTimeout (k : Nat) (s : State) : State :=
  match s.live k with
  | none => s
  | some (st, slot) =>
    if st.sched = .faultWait ∧ st.faultAt + 1000 * s.get (atSlot STB_PARK_TIMEOUT_MICROS slot) ≤ s.time then
      s.park k rsnPAGE_FAULT (!st.waits.isEmpty)
    else s

/-! ### Slots (R137, R156, R166, R168, R486) -/

/-- Apply a change to every stall of a slot. -/
def State.eachOn (s : State) (slot : Nat) (f : State → Nat → State) : State :=
  ((s.stallsOn slot).map (·.num)).foldl f s

/-- STB_DRAIN: a write of STB_CTL.DRAIN; an ACTIVE slot becomes DRAINING and back (R137, R156). -/
def stbDrain (slot : Nat) (drain : Bool) (s : State) : State :=
  if 17 ≤ slot ∨ !blocksServe s.mode then s
  else
    let s := s.put (atSlot STB_CTL_DRAIN slot) (b2n drain)
    let f := atSlot STB_STATE_STATE slot
    if drain then
      let s := if s.get f = 1 then s.put f 5 else s
      s.eachOn slot fun s k => s.park k rsnDRAIN false
    else
      let s := if s.get f = 5 then s.put f 1 else s
      s.eachOn slot fun s k => s.unpark k rsnDRAIN

/-- FLT_DEGRADE.STABLE_SPARE follows the state of slot 16 once it has been tested. -/
def State.spareFlag (s : State) : State := s.setDegrade FLT_DEGRADE_STABLE_SPARE (b2n (s.get (atSlot STB_STATE_STATE 16) != 2))

/-- Fence a slot: its cores and raster unit stop and every hot context is lost (R137, R166). -/
def State.fenceSlot (s : State) (slot : Nat) : State :=
  let s := s.eachOn slot fun s k => s.onStall k fun st =>
    let st : Stall := { st with loaded := false }
    if st.sched = .running ∨ st.sched = .held then { st with sched := .runnable, hold := .none } else st
  let s := { s with sbuf := s.sbuf.filter fun x => x.slot != slot }
  let s := s.puts [(atSlot STB_STATE_STATE slot, 4), (atSlot RAS_CTL_EN slot, 0), (atSlot RAS_CTL_HINT slot, 0)]
  if slot = 16 then s.spareFlag else s

/-- The logical stable that a slot carries. -/
def State.lOfSlot (s : State) (slot : Nat) : Option Nat := (upto 16).find? fun l => s.slotOfL l == some slot

/-- STABLE_RESET: the slot's registers and decode RAM return to reset, then self-test (R486). -/
def stableReset (slot : Nat) (pass : Bool) (s : State) : State :=
  if 17 ≤ slot ∨ !fwRuns s.mode ∨ !(s.stallsOn slot).isEmpty ∨ s.get (atSlot STB_STATE_STATE slot) = 4 then s
  else
    let s := s.resetRange (0x100000 + 0x10000 * slot) (0x110000 + 0x10000 * slot)
    let s := match s.lOfSlot slot with
      | some l => s.puts [(atSlot STB_STATE_MAPPED slot, 1), (atSlot STB_STATE_LSTABLE slot, l),
          (atSlot STB_STATE_STATE slot, if pass then 1 else 4), (atSlot RAS_CTL_EN slot, b2n pass), (atSlot RAS_CTL_HINT slot, b2n pass),
          (atSlot STB_CTL_RUN slot, b2n pass)]
      | none => s.put (atSlot STB_STATE_STATE slot) (if pass then 2 else 4)
    if slot = 16 then s.spareFlag else s

end Sys2Proof.Machine
end

