-- ==== Sys2Proof/Machine/Compose.lean ====
section
/-! DEFINITION. The composer: descriptors, commit checks, beds, slices, stream hint maps and guarded regions (R202 – R226). -/
namespace Sys2Proof.Machine

/-! ### Descriptors -/

/-- Streams by number. -/
def State.stream? (s : State) (n : Nat) : Option Stream := s.streams.find? fun x => x.num == n
def State.setStream (s : State) (x : Stream) : State := { s with streams := s.streams.map fun y => if y.num == x.num then x else y }

/-- Header fields (R206). -/
def dW (d : Bytes) : Nat := leAt d 2 2
def dH (d : Bytes) : Nat := leAt d 4 2
def dEn (d : Bytes) : Bool := bitAt (leAt d 6 1) 0
def dOut (d : Bytes) : Nat := leAt d 16 8
def dHint (d : Bytes) : Nat := leAt d 24 8

/-- A course descriptor (R207). -/
structure Course where
  num    : Nat
  fmt    : Nat
  static : Bool
  filter : Bool
  alpha  : Nat
  param  : Nat
  src    : Nat
  sw     : Nat
  sh     : Nat
  pitch  : Nat
  dx     : Int
  dy     : Int
  dw     : Nat
  dh     : Nat
  rsvd   : Bool
  bytes  : Bytes
  deriving DecidableEq, Repr

/-- Formats (R208). -/
def fGAME : Nat := 0
def fRGB : Nat := 1
def fMOSAIC : Nat := 2

/-- Course c from its 32 bytes. -/
def courseOf (c : Nat) (b : Bytes) : Course :=
  let fl := leAt b 1 1
  { num := c, fmt := leAt b 0 1, static := bitAt fl 0, filter := bitAt fl 1, alpha := leAt b 2 1, param := leAt b 4 4
    src := leAt b 8 8, sw := leAt b 16 2, sh := leAt b 18 2, pitch := leAt b 20 4, dx := toSigned 16 (leAt b 24 2)
    dy := toSigned 16 (leAt b 26 2), dw := leAt b 28 2, dh := leAt b 30 2
    rsvd := decide (4 ≤ fl) || leAt b 3 1 != 0, bytes := b }

/-- Course c of a descriptor. -/
def course (d : Bytes) (c : Nat) : Course := courseOf c (sliceBytes d (64 + 32 * c) 32)

/-- A course that is drawn (R209). -/
def Course.present (c : Course) : Bool := c.dw != 0 && c.dh != 0
def Course.video (c : Course) : Bool := decide (c.num < 2)

/-- The present courses of a descriptor in ascending order. -/
def courses (d : Bytes) : List Course := ((upto 8).map fun c => course d c).filter (·.present)

/-- Bytes per source pixel; those of MOSAIC are the 16-bit words of the game rasters it tiles (DEDUCED, log entry 87; R171, R208). -/
def bpp (fmt : Nat) : Nat := if fmt = 0x11 ∨ fmt = fMOSAIC then 2 else if fmt = 0x12 then 1 else 4

/-- A guarded region (R225). -/
structure Region where
  x : Nat
  y : Nat
  w : Nat
  h : Nat
  stage  : Nat
  action : Nat
  rsvd   : Bool
  expect : Nat
  deriving DecidableEq, Repr

def region (d : Bytes) (r : Nat) : Region :=
  let b := sliceBytes d (320 + 24 * r) 24
  { x := leAt b 0 2, y := leAt b 2 2, w := leAt b 4 2, h := leAt b 6 2, stage := leAt b 8 1, action := leAt b 9 1
    rsvd := leAt b 10 2 != 0, expect := leAt b 12 4 }

def Region.on (r : Region) : Bool := r.w != 0 && r.h != 0

/-! ### Commit checks (R216) -/

/-- Reasons (R216). -/
def rLBUF : Nat := 1
def rVRATIO : Nat := 2
def rFORMAT : Nat := 3
def rSIZE : Nat := 4
def rSOURCE : Nat := 5
def rALIGN : Nat := 6
def rREGION : Nat := 7
def rBED : Nat := 8
def rRASTER : Nat := 9

/-- The header check: its reason, or none. -/
def headerCheck (d : Bytes) : Option Nat :=
  let w := dW d
  let h := dH d
  let rsv := decide (16384 ≤ leAt d 0 2) || decide (2 ≤ leAt d 6 1) || leAt d 7 1 != 0 || leAt d 11 1 != 0 || leAt d 12 4 != 0 ||
    decide (2 ^ 40 ≤ dOut d) || decide (2 ^ 40 ≤ dHint d) || (upto 28).any fun i => leAt d (36 + i) 1 != 0
  if w < 16 ∨ 3840 < w ∨ w % 16 ≠ 0 ∨ h < 16 ∨ 2160 < h ∨ h % 16 ≠ 0 ∨ rsv then some rRASTER
  else if dOut d % 64 ≠ 0 ∨ dHint d % 64 ≠ 0 then some rALIGN
  else none

/-- The visible raster of a stall. -/
def visible (st : Stall) : Nat × Nat := (visW st.cls, visH st.cls)

/-- Columns and rows of a mosaic, and its stall numbers (R213). -/
def mosaicDim (c : Course) : Nat × Nat := (c.param % 4 + 1, field c.param 2 2 + 1)
def State.mosaicList (s : State) (c : Course) : List Nat :=
  let (n, m) := mosaicDim c
  (upto (n * m)).map fun i => ofLE (s.hbmBytes (c.src + 2 * i) 2)

/-- The classes of the tiles of a mosaic agree with its source size (R213). Where every entry is 0xFFFF no stall names a class, and
the source size of either raster passes (DESIGN CHOICE, log entry 88). -/
def State.mosaicOk (s : State) (c : Course) : Bool :=
  let (n, m) := mosaicDim c
  let ks := (s.mosaicList c).filter fun k => k != 0xFFFF
  match ks with
  | [] => (visW .L * n == c.sw && visH .L * m == c.sh) || (visW .X * n == c.sw && visH .X * m == c.sh)
  | k0 :: _ => match s.stall? k0 with
    | none => false
    | some st0 => ks.all (fun k => match s.stall? k with | some st => decide (st.cls = st0.cls) | none => false) &&
        n * visW st0.cls == c.sw && m * visH st0.cls == c.sh

/-- The check of a present course (R208 – R213). A nonzero PARAM [31:4] of MOSAIC is a reserved bit and gives FORMAT, which stands
before SOURCE (DESIGN CHOICE, log entry 88). -/
def State.courseCheck (s : State) (w h : Nat) (c : Course) : Option Nat :=
  let kind := if c.video then [0, 1, 2].contains c.fmt else [0x10, 0x11, 0x12].contains c.fmt
  let prsv := (c.fmt == fGAME && decide (4096 ≤ c.param)) || (c.fmt == fMOSAIC && decide (16 ≤ c.param)) ||
    (c.fmt == 0x12 && decide (2 ^ 24 ≤ c.param)) || (c.fmt != fGAME && decide (2 ^ 40 ≤ c.src))
  if !kind || (c.video && c.static) || (!c.video && c.filter) || c.rsvd || prsv then some rFORMAT
  else if c.fmt ≠ fGAME ∧ (c.src % 64 ≠ 0 ∨ c.pitch % 64 ≠ 0 ∨ c.pitch < c.sw * bpp c.fmt) then some rALIGN
  else if c.fmt = fGAME ∧ (s.stall? c.param).map visible ≠ some (c.sw, c.sh) then some rSOURCE
  else if c.fmt = fMOSAIC ∧ !s.mosaicOk c then some rSOURCE
  else if c.video ∧ (c.sw = 0 ∨ c.sh = 0) then some rSIZE
  else if !c.video ∧ (c.dw ≠ c.sw ∨ c.dh ≠ c.sh ∨ w < c.sw ∨ h < c.sh) then some rSIZE
  else if c.video ∧ 2048 < c.sw then some rLBUF
  else if c.video ∧ 4 * c.dh < c.sh then some rVRATIO
  else none

/-- The stall of a GAME video course 0. -/
def gameOf (d : Bytes) : Option Nat := let c := course d 0; if c.present && c.fmt == fGAME then some c.param else none

/-- The check of a region (R225). -/
def regionCheck (d : Bytes) (r : Region) : Bool :=
  let c0 := course d 0
  let (bw, bh) := if r.stage = 1 then (c0.sw, c0.sh) else (dW d, dH d)
  decide (2 ≤ r.stage) || r.action % 4 == 3 || field r.action 2 5 != 0 || r.rsvd || (r.stage == 1 && (gameOf d).isNone) ||
    (r.on && (decide (bw < r.x + r.w) || decide (bh < r.y + r.h)))

/-- The first failure of a copy: reason, index if it has one, and whether it is a region's (R216). -/
def State.commitCheck (s : State) (d : Bytes) : Option (Nat × Option Nat × Bool) :=
  match headerCheck d with
  | some r => some (r, none, false)
  | none => match (courses d).findSome? fun c => (s.courseCheck (dW d) (dH d) c).map fun r => (r, c.num) with
    | some (r, i) => some (r, some i, false)
    | none => ((upto 8).find? fun r => regionCheck d (region d r)).map fun i => (rREGION, some i, true)

/-! ### Pixels (R210, R211) -/

/-- R, G, B and A. -/
abbrev Px := Nat × Nat × Nat × Nat

def expand5 (v : Nat) : Nat := v * 8 + v / 4
def div255 (x : Nat) : Nat := (x + 128 + (x + 128) / 256) / 256

/-- An RGB555 pixel expanded (R210). -/
def expandPx (v a : Nat) : Px := (expand5 (v % 32), expand5 (field v 5 5), expand5 (field v 10 5), a)

def clear : Px := (0, 0, 0, 0)

/-- Map the three colour channels of two pixels. -/
def mapRGB (f : Nat → Nat → Nat) (a b : Px) (alpha : Nat) : Px := (f a.1 b.1, f a.2.1 b.2.1, f a.2.2.1 b.2.2.1, alpha)

/-- Blend a course pixel over the destination (R210). -/
def blend (alpha : Nat) (src dst : Px) : Px :=
  let a := div255 (src.2.2.2 * alpha)
  mapRGB (fun cs cd => div255 (cs * a + cd * (255 - a))) src dst 255

/-- A pixel of a stall's game raster, frame k (R171). -/
def gamePx (st : Stall) (k x y : Nat) : Px := expandPx (pixelOf st k y x).toNat 255

/-- Line y of frame k of a stall has been handed over. -/
def lineHanded (st : Stall) (k y : Nat) : Bool := decide (k * slicesPer st.cls + y / 16 < st.ras.handed)

/-- A pixel of a stall in stream frame n: of game frame n − F0 where it is shown, else of the frame before; clear before the first
(R219, R221). -/
def stallPx (st : Stall) (n : Nat) (shown : Bool) (x y : Nat) : Px :=
  match st.f0 with
  | none => clear
  | some f =>
    if n < f then clear
    else if shown then gamePx st (n - f) x y
    else if n = f then clear
    else gamePx st (n - f - 1) x y

/-- Every one of some lines of a stall's game frame for stream frame n has been handed over (R219). -/
def linesHanded (st : Stall) (n : Nat) (ls : List Nat) : Bool :=
  match st.f0 with
  | some f => decide (f ≤ n) && ls.all fun y => lineHanded st (n - f) y
  | none => false

/-- A stall as a frame sees it: one destroyed since the frame began as it then stood (R222). -/
def State.frameStall (s : State) (f : SFrame) (k : Nat) : Option Stall := (f.gone.find? fun st => st.num == k).or (s.stall? k)

/-- A pixel of a course whose source is memory (R208). -/
def State.memPx (s : State) (c : Course) (x y : Nat) : Px :=
  let at_ := c.src + y * c.pitch + x * bpp c.fmt
  let word (k : Nat) : Nat := ofLE (s.hbmBytes at_ k)
  match c.fmt with
  | 1 => let v := word 4; (v % 256, field v 8 8, field v 16 8, 255)
  | 0x10 => let v := word 4; (v % 256, field v 8 8, field v 16 8, field v 24 8)
  | 0x11 => let v := word 2; expandPx v (if bitAt v 15 then 255 else 0)
  | _ => (c.param % 256, field c.param 8 8, field c.param 16 8, word 1)

/-- Tap positions and weight of the bilinear scaler in one direction (R211). -/
def taps (d sw dw : Nat) : Nat × Nat × Nat :=
  let fx := min (((2 * d + 1) * sw * 256) / (2 * dw) - 128) ((sw - 1) * 256)
  (fx / 256, min (fx / 256 + 1) (sw - 1), fx % 256)

/-- The nearest position (R211). -/
def nearest (d sw dw : Nat) : Nat := ((2 * d + 1) * sw) / (2 * dw)

/-- Weighted mean of two pixels (R211). -/
def lerpPx (w : Nat) (a b : Px) : Px :=
  let f (p q : Nat) : Nat := (p * (256 - w) + q * w + 128) / 256
  (f a.1 b.1, f a.2.1 b.2.1, f a.2.2.1 b.2.2.1, f a.2.2.2 b.2.2.2)

/-- The source lines of a video course that the rows of slice j sample in a raster w wide (R219). -/
def neededLines (c : Course) (w j : Nat) : List Nat :=
  if c.dx < w ∧ 0 < c.dx + c.dw then
    (upto 16).flatMap fun i =>
      let dy := ((16 * j + i : Nat) : Int) - c.dy
      if 0 ≤ dy ∧ dy < c.dh then
        if c.filter then (let (a, b, _) := taps dy.toNat c.sh c.dh; [a, b]) else [nearest dy.toNat c.sh c.dh]
      else []
  else []

/-- A source pixel of a video course for the slice that a frame composes next. Course 0 takes the frame before for each line that
is missing or came too late (R221); course 1 and a mosaic tile take it whole where a line they need is missing (R219). -/
def State.srcPx (s : State) (f : SFrame) (c : Course) (bg : Px) (x y : Nat) : Px :=
  if c.fmt = fGAME then
    match s.frameStall f c.param with
    | some st =>
      let shown := if c.num = 0 then linesHanded st f.n [y] && !f.late.contains y else linesHanded st f.n (neededLines c (dW f.desc) f.j)
      stallPx st f.n shown x y
    | none => clear
  else if c.fmt = fMOSAIC then
    let (cols, rows) := mosaicDim c
    let w := c.sw / cols
    let h := c.sh / rows
    let k := ofLE (s.hbmBytes (c.src + 2 * (y / h * cols + x / w)) 2)
    if k = 0xFFFF then bg
    else match s.frameStall f k with
      | some st =>
        let ls := ((neededLines c (dW f.desc) f.j).filter fun l => l / h == y / h).map (· % h)
        stallPx st f.n (linesHanded st f.n ls) (x % w) (y % h)
      | none => clear
  else s.memPx c x y

/-- The pixel of a course at output offset (dx, dy) (R211). -/
def State.coursePx (s : State) (f : SFrame) (c : Course) (bg : Px) (dx dy : Nat) : Px :=
  if !c.video then s.memPx c dx dy
  else if c.filter then
    let (x0, x1, wx) := taps dx c.sw c.dw
    let (y0, y1, wy) := taps dy c.sh c.dh
    let row (y : Nat) : Px := lerpPx wx (s.srcPx f c bg x0 y) (s.srcPx f c bg x1 y)
    lerpPx wy (row y0) (row y1)
  else s.srcPx f c bg (nearest dx c.sw c.dw) (nearest dy c.sh c.dh)

/-- The output offset of a raster position in a course, if it lies in it. -/
def inCourse (c : Course) (x y : Nat) : Option (Nat × Nat) :=
  let dx := (x : Int) - c.dx
  let dy := (y : Int) - c.dy
  if 0 ≤ dx ∧ dx < c.dw ∧ 0 ≤ dy ∧ dy < c.dh then some (dx.toNat, dy.toNat) else none

/-! ### Beds (R214, R215) -/

/-- Split the present courses into single courses and maximal runs of STATIC graphic courses (R214). -/
def runs : List Course → List (List Course)
  | [] => []
  | c :: r =>
    if !c.video && c.static then
      match runs r with
      | (d :: ds) :: rest => if !d.video && d.static then (c :: d :: ds) :: rest else [c] :: (d :: ds) :: rest
      | rest => [c] :: rest
    else [c] :: runs r

/-- A run that forms a bed. -/
def isBed (g : List Course) : Bool := match g with | c :: _ => !c.video && c.static | [] => false

/-- The clipped rectangle of a course: x0, y0, x1, y1. -/
def clipRect (c : Course) (w h : Nat) : Nat × Nat × Nat × Nat :=
  (min w c.dx.toNat, min h c.dy.toNat, min w (c.dx + c.dw).toNat, min h (c.dy + c.dh).toNat)

/-- Blend one pixel into a premultiplied bed pixel (R214). -/
def bedBlend (alpha : Nat) (src b : Px) : Px :=
  let a := div255 (src.2.2.2 * alpha)
  mapRGB (fun cs cb => div255 (cs * a) + div255 (cb * (255 - a))) src b (a + div255 (b.2.2.2 * (255 - a)))

/-- Use a bed pixel over the destination (R214). -/
def bedUse (b dst : Px) : Px :=
  mapRGB (fun cb cd => min (cb + div255 (cd * (255 - b.2.2.2))) 255) b dst 255

/-- The bed of a run for a raster before it is built, at a place in the BED shed: the rectangle around the run's clipped rectangles
(R214). -/
def bedOf (w h : Nat) (g : List Course) (addr : Nat) (exts : List Nat) : Bed :=
  let rs := (g.map fun c => clipRect c w h).filter fun (x0, y0, x1, y1) => decide (x0 < x1) && decide (y0 < y1)
  let x0 := rs.foldl (fun m r => min m r.1) w
  let y0 := rs.foldl (fun m r => min m r.2.1) h
  let x1 := rs.foldl (fun m r => max m r.2.2.1) x0
  let y1 := rs.foldl (fun m r => max m r.2.2.2) y0
  { w, h, members := g.map fun c => (c.num, c.bytes), x := x0, y := y0, bw := x1 - x0, bh := y1 - y0, px := [], addr, exts }

/-- Bytes of a bed in the BED shed (R214). -/
def Bed.size (b : Bed) : Nat := 4 * b.bw * b.bh

/-- Build a bed, or build it again, from its courses: zero where none of them lies (R214). -/
def State.buildBed (s : State) (b : Bed) : Bed :=
  let g := b.members.map fun m => courseOf m.1 m.2
  let px (x y : Nat) : Bytes :=
    let p := g.foldl (fun b c => match inCourse c x y with
      | some (dx, dy) => bedBlend c.alpha (s.memPx c dx dy) b
      | none => b) clear
    [p.1, p.2.1, p.2.2.1, p.2.2.2].map (BitVec.ofNat 8)
  { b with px := (upto b.bh).flatMap fun j => (upto b.bw).flatMap fun i => px (b.x + i) (b.y + j) }

/-- The bed kept for a run: same members, fields and raster (R215). -/
def keptBed (old : List Bed) (w h : Nat) (g : List Course) : Option Bed :=
  old.find? fun b => b.w == w && b.h == h && decide (b.members = g.map fun c => (c.num, c.bytes))

/-- Some bed of a descriptor has to be built anew (R215). -/
def needsBeds (old : List Bed) (d : Bytes) : Bool :=
  (runs (courses d)).any fun g => isBed g && (keptBed old (dW d) (dH d) g).isNone

/-- The beds of a descriptor, the kept ones as they are, and for each other one a place of its own on the owner's home stack, else on
the other; none where the BED shed cannot hold it (R215, R367). -/
def State.placeBeds (s : State) (stack w h : Nat) (old : List Bed) : List (List Course) → Option (List Bed × State)
  | [] => some ([], s)
  | g :: r => match keptBed old w h g with
    | some b => (s.placeBeds stack w h old r).map fun p => (b :: p.1, p.2)
    | none =>
      let n := (bedOf w h g 0 []).size
      if n = 0 then (s.placeBeds stack w h old r).map fun p => (bedOf w h g 0 [] :: p.1, p.2)
      else
        let k := ceilDiv n 0x200000
        match findRun s.extFree k 12288 (12288 * stack) 0 <|> findRun s.extFree k 12288 (12288 * (1 - stack)) 0 with
        | none => none
        | some e =>
          let exts := (upto k).map fun i => e + i
          ((s.giveExts exts 5).placeBeds stack w h old r).map fun p => (bedOf w h g (0x200000 * e) exts :: p.1, p.2)

/-- The beds of a new descriptor of stream n, placed and not yet built (R215). -/
def State.bedsFor (s : State) (n : Nat) (old : List Bed) (d : Bytes) : Option (List Bed × State) :=
  s.placeBeds (homeStack (n / 4)) (dW d) (dH d) old ((runs (courses d)).filter isBed)

/-- The beds of a stream: of its active descriptor, its frames and the commit that waits. -/
def Stream.allBeds (x : Stream) : List Bed := x.beds ++ x.frames.flatMap (·.beds) ++ match x.commit with | some c => c.beds | none => []

/-- The extents that the beds of a stream hold. -/
def Stream.bedExts (x : Stream) : List Nat := x.allBeds.flatMap (·.exts)

/-- Replace a stream's record, and free the extents of beds that it holds no longer (R215, R366). -/
def State.replaceStream (s : State) (was x : Stream) : State :=
  let kept := x.bedExts
  (s.giveExts (was.bedExts.filter fun e => !kept.contains e) 0).setStream x

/-- A bed's pixel at a raster position, clear outside it. -/
def bedPx (b : Bed) (x y : Nat) : Px :=
  if b.x ≤ x ∧ x < b.x + b.bw ∧ b.y ≤ y ∧ y < b.y + b.bh then
    let o := 4 * ((y - b.y) * b.bw + (x - b.x))
    (leAt b.px o 1, leAt b.px (o + 1) 1, leAt b.px (o + 2) 1, leAt b.px (o + 3) 1)
  else clear

/-- The composed pixel of a frame at (x, y) (R209, R210, R214). -/
def State.composePx (s : State) (f : SFrame) (x y : Nat) : Px :=
  let d := f.desc
  let v := leAt d 8 4
  let bg : Px := (v % 256, field v 8 8, field v 16 8, 255)
  (runs (courses d)).foldl (fun dst g =>
    if isBed g then (match keptBed f.beds (dW d) (dH d) g with | some b => bedUse (bedPx b x y) dst | none => dst)
    else g.foldl (fun dst c => match inCourse c x y with
      | some (dx, dy) => blend c.alpha (s.coursePx f c bg dx dy) dst
      | none => dst) dst) bg

/-! ### Slices (R203, R219 – R224) -/

/-- The stall, its game frame and the lines that slice j of a frame waits for. -/
def State.gameNeed (s : State) (f : SFrame) : Option (Stall × Nat × Nat × List Nat) :=
  match (gameOf f.desc).bind (s.frameStall f) with
  | some st => match st.f0 with
    | some f0 =>
      let ls := neededLines (course f.desc 0) (dW f.desc) f.j
      if f0 ≤ f.n ∧ !ls.isEmpty then some (st, f.n - f0, f0, ls) else none
    | none => none
  | none => none

/-- The due time of the next slice of a frame (R219). -/
def State.sliceDue (s : State) (f : SFrame) : Int :=
  match s.gameNeed f with
  | some (st, k, f0, ls) =>
    let m := ls.foldl max 0
    realTime st.cls f0 (sliceEndLine st.cls (k * slicesPer st.cls + m / 16) * tpl st.cls : Nat)
  | none => (cadFrame f.n + (f.j + 1) * 800000000 / (3 * dH f.desc) : Nat)

/-- Every line the slice needs has been handed over. -/
def State.linesReady (s : State) (f : SFrame) : Bool :=
  match s.gameNeed f with
  | some (st, k, _, ls) => ls.all fun y => lineHanded st k y
  | none => true

/-- The lines that the next slice of a frame needs and that have not been handed over. -/
def State.missing (s : State) (f : SFrame) : List Nat :=
  match s.gameNeed f with
  | some (st, k, _, ls) => ls.filter fun y => !lineHanded st k y
  | none => []

/-- Rectangles meet. -/
def meets (x0 y0 w0 h0 x1 y1 w1 h1 : Int) : Bool :=
  decide (x0 < x1 + w1) && decide (x1 < x0 + w0) && decide (y0 < y1 + h1) && decide (y1 < y0 + h0) &&
    decide (0 < w0) && decide (0 < h0) && decide (0 < w1) && decide (0 < h1)

def courseMeets (c : Course) (x y w h : Int) : Bool := meets c.dx c.dy c.dw c.dh x y w h

/-- A bed, the union of its courses clipped to the raster, meets a rectangle inside the raster (R214, R224). -/
def bedMeets (b : Bed) (x y w h : Int) : Bool := b.members.any fun (c, bs) => courseMeets (courseOf c bs) x y w h

/-- Video course 0 is in pass-through (R224). -/
def passThrough (d : Bytes) : Bool :=
  let c := course d 0
  c.present && c.fmt == fGAME && c.dw == c.sw && c.dh == c.sh && c.alpha == 255 && decide (c.dx % 16 = 0) && decide (c.dy % 16 = 0) &&
    decide (0 ≤ c.dx) && decide (0 ≤ c.dy) && decide (c.dx + c.dw ≤ dW d) && decide (c.dy + c.dh ≤ dH d)

/-- Live courses (R224). -/
def liveCourses (d : Bytes) : List Course :=
  (runs (courses d)).flatMap fun g => if isBed g then [] else g.filter fun c => c.num != 0

/-- The hint map the raster unit handed over for a slice of frame k. -/
def gameHints (st : Stall) (k j : Nat) : Bytes := (lookupN (sliceKey st.cls (k * slicesPer st.cls + j)) st.ras.hints).getD []

/-- The entry of stream block (bx, j) (R224); `late` are the game lines that the slice shows of the frame before (R221). A block some of
whose rows were replaced, and not all, is no longer the source's: its entry is that of any other case unless the game entry is STATIC
(DEDUCED, log entry 87). -/
def State.blockEntry (s : State) (f : SFrame) (late : List Nat) (bx : Nat) : Nat :=
  let d := f.desc
  let c0 := course d 0
  let x : Int := (16 * bx : Nat)
  let y : Int := (16 * f.j : Nat)
  let inside0 := c0.present && decide (c0.dx ≤ x) && decide (x + 16 ≤ c0.dx + c0.dw) && decide (c0.dy ≤ y) &&
    decide (y + 16 ≤ c0.dy + c0.dh)
  let ge : Nat := match s.gameNeed f with
    | some (st, k, _, _) => leAt (gameHints st k ((y - c0.dy) / 16).toNat) (16 + 4 * ((x - c0.dx) / 16).toNat) 4
    | none => 2
  let lines := (upto 16).map fun i => (y - c0.dy).toNat + i
  let clean (x y : Int) : Bool :=
    !((liveCourses d).any fun c => courseMeets c x y 16 16) &&
      !(f.beds.any fun b => bedMeets b x y 16 16)
  if f.first then 2
  else if f.held then 0
  else if (liveCourses d).any fun c => courseMeets c x y 16 16 then 2
  else if inside0 && passThrough d && (lines.all late.contains || ge % 4 == 0) then 0
  else if inside0 && passThrough d && ge % 4 == 1 && !lines.any late.contains && clean x y && clean (x + toSigned 12 (field ge 8 12)) (y + toSigned 12 (field ge 20 12))
  then ge
  else if c0.present && courseMeets c0 x y 16 16 then 2
  else 0

/-- A hint map that the slice's lines came with had LATE set (R223). -/
def State.lateFlag (s : State) (f : SFrame) : Bool :=
  match s.gameNeed f with
  | some (st, k, _, ls) => ls.any fun y => lineHanded st k y && bitAt (leAt (gameHints st k (y / 16)) 8 1) 0
  | none => false

/-- Where row y of frame n of a stream lies (R203). -/
def rowAddr (d : Bytes) (n y : Nat) : Nat := dOut d + ((n % 2) * dH d + y) * dW d * 4

/-- A pixel of a composed frame in the output area. -/
def State.outPx (s : State) (out w h n x y : Nat) : Px :=
  let v := ofLE (s.hbmBytes (out + ((n % 2) * h + y) * w * 4 + 4 * x) 4)
  (v % 256, field v 8 8, field v 16 8, 255)

/-- Where slice j of frame n − 1 of a stream lies. Where no frame n − 1 of the same raster was composed, it is the other half of the
present output area (DESIGN CHOICE, log entry 104) (R203, R222). -/
def Stream.lastSlice (x : Stream) (f : SFrame) : Nat :=
  match (if 0 < f.n then lookupN (f.n - 1) x.descs else none) with
  | some d => if dW d = dW f.desc ∧ dH d = dH f.desc then rowAddr d (f.n - 1) (16 * f.j) else rowAddr f.desc (f.n + 1) (16 * f.j)
  | none => rowAddr f.desc (f.n + 1) (16 * f.j)

/-- The 16 rows of slice j of a frame as R203 stores them; of a held frame those of the frame before (R222). -/
def State.sliceRows (s : State) (x : Stream) (f : SFrame) : Bytes :=
  let d := f.desc
  if f.held then s.hbmBytes (x.lastSlice f) (64 * dW d)
  else (upto 16).flatMap fun i => (upto (dW d)).flatMap fun x =>
    let p := s.composePx f x (16 * f.j + i)
    [p.1, p.2.1, p.2.2.1, 0].map (BitVec.ofNat 8)

/-- The stream hint map of the next slice of a frame (R223, R224). -/
def State.streamHints (s : State) (f : SFrame) (rep : Bool) : Nat × List Nat × Bytes :=
  let nb := dW f.desc / 16
  let rep := rep && !f.held
  let flags := b2n (!f.held && s.lateFlag f) + 2 * b2n f.first + 4 * b2n rep + 8 * b2n f.held
  let late := f.late ++ if rep then s.missing f else []
  let es := (upto nb).map fun bx => s.blockEntry f late bx
  (flags, es, leBytes 4 f.n ++ leBytes 2 f.j ++ leBytes 2 nb ++ leBytes 1 flags ++ leBytes 3 0 ++
    leBytes 2 (leAt f.desc 0 2 % 16384) ++ leBytes 2 0 ++ es.flatMap fun e => leBytes 4 e)

/-! ### Guarded regions (R226) -/

/-- Events of the composer (R469). -/
def evCommitReject : Nat := 0x048
def evCommitDone : Nat := 0x049
def evSigMismatch : Nat := 0x04A
def evSliceLate : Nat := 0x04B

/-- Write LAST and FRAME of region r into the active descriptor, and act on a mismatch (R226). -/
def State.regionDone (s : State) (n r : Nat) (reg : Region) (crc frame : Nat) : State :=
  match s.stream? n with
  | none => s
  | some x =>
    let x := { x with act := putBytes x.act (320 + 24 * r + 16) (leBytes 4 crc ++ leBytes 4 frame) }
    let miss := bitAt reg.action 7 && crc != reg.expect
    let s := s.setStream { x with regHold := x.regHold || (miss && reg.action % 4 == 2) }
    if miss && reg.action % 4 != 0 then
      ((s.puts [(CMP_SIG_ERR_STREAM, n), (CMP_SIG_ERR_REGION, r)]).inc CMP_SIG_ERR_COUNT).raise evSigMismatch
    else s

/-- CRC-32 over R, G, B bytes of a rectangle. -/
def rectCrc (px : Nat → Nat → Px) (r : Region) : Nat :=
  (crc32 ((upto r.h).flatMap fun j => (upto r.w).flatMap fun i =>
    let p := px (r.x + i) (r.y + j)
    [p.1, p.2.1, p.2.2.1].map (BitVec.ofNat 8))).toNat

/-- STAGE 0 regions whose last row lies in the slice just composed. -/
def State.stage0 (s : State) (n : Nat) (f : SFrame) : State :=
  if f.held then s
  else (upto 8).foldl (fun s r =>
    let reg := region f.desc r
    if reg.on ∧ reg.stage = 0 ∧ (reg.y + reg.h - 1) / 16 = f.j then
      s.regionDone n r reg (rectCrc (fun x y => s.outPx (dOut f.desc) (dW f.desc) (dH f.desc) f.n x y) reg) f.n
    else s) s

/-- STAGE 1 regions of every stream on a game slice just handed over: slice j of frame k of a stall. -/
def State.stage1 (s : State) (st : Stall) (k j : Nat) : State :=
  s.streams.foldl (fun s x =>
    if dEn x.act ∧ gameOf x.act = some st.num then
      (upto 8).foldl (fun s r =>
        let reg := region x.act r
        if reg.on ∧ reg.stage = 1 ∧ (reg.y + reg.h - 1) / 16 = j then
          s.regionDone x.num r reg (rectCrc (fun a b => gamePx st k a b) reg) k
        else s) s
    else s) s

/-! ### Composing -/

/-- A cadence frame boundary at or after a CAD_TIME. -/
def frameCeil (t : Nat) : Nat := if cadFrame (frameAt t) = t then frameAt t else frameAt t + 1

/-- The frame at which a commit takes effect, once its beds are complete (R217). -/
def Commit.effect (c : Commit) : Option Nat := c.bedAt.map fun b => max (frameCeil (c.since + 100000)) (frameCeil b)

/-- A commit of the stream is due at or before frame n. -/
def commitDue (x : Stream) (n : Nat) : Bool := match x.commit.bind Commit.effect with | some e => decide (e ≤ n) | none => false

/-- Write the next slice of the stream's oldest frame, with its hint map and regions (R220 – R226), and hand it to the
encoder or, host-assisted, to the host (R203, R467). With `rep` the lines missing now stay out of the frame's later slices; a slice
whose lines have all been handed over carries no REPEAT, though some of them came too late (DEDUCED, log entry 87). -/
def State.writeSlice (s : State) (x : Stream) (f : SFrame) (rest : List SFrame) (rep : Bool) : State :=
  let d := f.desc
  let due := s.sliceDue f
  let rows := s.sliceRows x f
  let (flags, es, hb) := s.streamHints f rep
  let fin := decide (16 * (f.j + 1) = dH d)
  let sl : SliceRec := { n := f.n, j := f.j, due, done := s.time, w := dW d, h := dH d, out := dOut d, flags, hints := es, fin }
  let s := s.hbmWrite (rowAddr d f.n (16 * f.j)) rows
  let s := s.hbmWrite (dHint d + ((f.n % 2) * (dH d / 16) + f.j) * (16 + 4 * (dW d / 16))) hb
  let coded := if f.j = 0 then !f.raw && x.esd.codec != 0 else f.coded
  let enc := if coded then { x.enc with ready := x.enc.ready ++ [sl] } else x.enc
  let s := s.replaceStream x { x with enc, frames := if fin then rest else { f with j := f.j + 1, coded, late := if rep then f.late ++ s.missing f else f.late } :: rest }
  let s := if f.raw then s.capture 3 x.num (hb ++ rows) else s
  s.stage0 x.num f

/-- COMPOSE_SLICE: the slice is due and its lines have been handed over (R220). -/
def composeSlice (n : Nat) (s : State) : State :=
  match s.stream? n with
  | none => s
  | some x => match x.frames with
    | f :: rest =>
      if stallsExecute s.mode ∧ s.memServes ∧ !commitDue x f.n ∧ s.sliceDue f ≤ s.time ∧ (f.held ∨ s.linesReady f) then s.writeSlice x f rest false
      else s
    | [] => s

/-- SLICE_LATE_LIMIT: 100 µs after its due time the slice is composed with REPEAT (R221). -/
def sliceLateLimit (n : Nat) (s : State) : State :=
  match s.stream? n with
  | none => s
  | some x => match x.frames with
    | f :: rest =>
      if stallsExecute s.mode ∧ s.memServes ∧ !commitDue x f.n ∧ s.sliceDue f + 100000 ≤ s.time ∧ !f.held ∧ !s.linesReady f then
        let s := s.writeSlice x f rest true
        ((s.inc CMP_LATE_COUNT).put CMP_LATE_STREAM n).raise evSliceLate
      else s
    | [] => s

/-- A stream's GAME stall is HALTED or PARKED, or stands on a RESTORING slot (R222). -/
def State.sourceHeld (s : State) (d : Bytes) : Bool :=
  match (gameOf d).bind s.stall? with
  | some st => decide (st.sched = .halted) || decide (st.sched = .parked) ||
      (match s.slotOf st.num with | some p => s.restoring p | none => false)
  | none => false

/-- SPLIT_ENCODE for a frame that begins now: a change counts from the first frame 100 µs after it (R467). -/
def State.rawFrame (s : State) (n : Nat) : Bool :=
  match s.encChange with
  | some t => if t + 100000 ≤ cadFrame n then s.split spENCODE else !s.split spENCODE
  | none => s.split spENCODE

/-- Frame n of a stream begins (R203, R222, R224). Whether it is held by R226 is fixed here: a mismatch found after T(n), in a slice of
frame n − 1 or in a game slice handed over, holds the next frame that begins (DESIGN CHOICE, log entry 104). -/
def State.beginFrame (s : State) (n : Nat) (x : Stream) : Stream :=
  if dEn x.act then
    let f : SFrame := { n, desc := x.act, beds := x.beds, held := x.regHold || s.sourceHeld x.act, first := x.fresh
                        raw := s.rawFrame n, j := 0, late := [], coded := false, gone := [] }
    { x with frames := x.frames ++ [f], fresh := false, descs := insertN n x.act (x.descs.filter fun p => decide (n ≤ p.1 + 2)) }
  else x

/-- At a cadence boundary every enabled stream begins a frame. -/
def State.beginFrames (s : State) (n : Nat) : State :=
  if stallsExecute s.mode then { s with streams := s.streams.map (s.beginFrame n) } else s

/-! ### Commits (R216 – R218) -/

/-- CMP_COMMIT with GO = 1 (R216). For a stream that does not exist the copy taken is zeros, and the header check refuses it (DESIGN
CHOICE, log entry 88). -/
def cmpCommit (n : Nat) (s : State) : State :=
  if !fwRuns s.mode ∨ s.get CMP_COMMIT_BUSY = 1 then s
  else
    let d := match s.stream? n with | some x => x.shadow | none => List.replicate 512 0
    { s.put CMP_COMMIT_BUSY 1 with validating := some (n, d) }

/-- Record a refusal (R217); INDEX is a free value where the failure has none. -/
def State.commitRefused (s : State) (n reason : Nat) (i : Option Nat) (rgn : Bool) : State :=
  let (fi, s) := s.draw 8
  (s.puts [(CMP_COMMIT_ERR_STREAM, n), (CMP_COMMIT_ERR_INDEX, i.getD fi), (CMP_COMMIT_ERR_RGN, b2n rgn),
    (CMP_COMMIT_ERR_REASON, reason), (CMP_COMMIT_ERR_VALID, 1)]).raise evCommitReject

/-- COMMIT_VALIDATED; `bedRoom` false: firmware gives the BED shed no more extents (R215 – R218). -/
def commitValidated (bedRoom : Bool) (s : State) : State :=
  match s.validating with
  | none => s
  | some (n, d) =>
    let s := { s.put CMP_COMMIT_BUSY 0 with validating := none }
    match s.commitCheck d, s.stream? n with
    | some (r, i, g), _ => s.commitRefused n r i g
    | none, none => s
    | none, some x =>
      let need := needsBeds x.beds d
      match (if need ∧ !bedRoom then none else s.bedsFor n x.beds d) with
      | none => s.commitRefused n rBED none false
      | some (beds, s) =>
        s.replaceStream x { x with commit := some { copy := d, since := s.time, bedAt := if need then none else some s.time, beds } }

/-- BED_REBUILD_COMPLETE (R215). -/
def bedRebuildComplete (n : Nat) (s : State) : State :=
  match s.stream? n with
  | none => s
  | some x => match x.commit with
    | some c =>
      if c.bedAt.isNone then
        let build (b : Bed) : Bed := if x.beds.contains b then b else s.buildBed b
        s.setStream { x with commit := some { c with bedAt := some s.time, beds := c.beds.map build } }
      else s
    | none => s

/-- Two descriptors differ in their header, APPLIED apart, or in a course (R224). -/
def picturesDiffer (a b : Bytes) : Bool :=
  decide (sliceBytes a 0 32 ≠ sliceBytes b 0 32) || decide (sliceBytes a 64 256 ≠ sliceBytes b 64 256)

/-- COMMIT_TAKE_EFFECT: the copy becomes active at its frame boundary, and frames begun there are composed from it (R217). -/
def commitTakeEffect (n : Nat) (s : State) : State :=
  match s.stream? n with
  | none => s
  | some x => match x.commit with
    | none => s
    | some c => match c.effect with
      | none => s
      | some e =>
        if cadFrame e ≤ s.time ∧ (x.frames.all fun f => decide (f.n < e) || f.j == 0) then
          let act := putBytes c.copy 32 (leBytes 4 e)
          let fresh := x.fresh || !dEn x.act || picturesDiffer x.act act
          let old := x.frames.filter fun f => decide (f.n < e)
          let was := x
          let x := { x with act, beds := c.beds, commit := none, regHold := false, frames := old
                            fresh := fresh || (x.frames.any fun f => decide (e ≤ f.n) && f.first) }
          let x := (upto (if stallsExecute s.mode then frameAt s.time + 1 - e else 0)).foldl (fun x i => s.beginFrame (e + i) x) x
          (s.replaceStream was x).raise evCommitDone
        else s

/-- SLICE_DEADLINE with the STAGE 1 regions of the slice that it hands over (R173, R226). -/
def sliceDeadlineRegions (k : Nat) (s : State) : State :=
  let s' := sliceDeadline k s
  match s.stall? k, s'.stall? k with
  | some a, some b =>
    if a.ras.handed < b.ras.handed then s'.stage1 b (a.ras.handed / slicesPer b.cls) (a.ras.handed % slicesPer b.cls) else s'
  | _, _ => s'

end Sys2Proof.Machine
end

