-- ==== Sys2Proof/Machine/Codec.lean ====
section
/-! DEFINITION. AV1 and H.264 coding: levels, candidate sets, block codings, the reconstruction, headers and payloads (R242 – R248,
R258). What the two standards compute is Config functions without a body. -/
namespace Sys2Proof
namespace Machine

/-! ### Levels (R247, R248) -/

/-- The AV1 levels of R247: seq_level_idx, MaxPicSize, MaxHSize, MaxVSize, MaxDisplayRate, Mbit/s × 10 in tier 0 and tier 1 (Annex
A of the AV1 specification: PRESUMED, log entry 89). -/
def av1Levels : List (Nat × Nat × Nat × Nat × Nat × Nat × Nat) :=
  [(0, 147456, 2048, 1152, 4423680, 15, 0), (1, 278784, 2816, 1584, 8363520, 30, 0), (4, 665856, 4352, 2448, 19975680, 60, 0),
   (5, 1065024, 5504, 3096, 31950720, 100, 0), (8, 2359296, 6144, 3456, 70778880, 120, 300),
   (9, 2359296, 6144, 3456, 141557760, 200, 500), (12, 8912896, 8192, 4352, 267386880, 300, 1000),
   (13, 8912896, 8192, 4352, 534773760, 400, 1600)]

/-- The lowest AV1 level and tier that cover a raster at 60 frames per second and MAX kbit/s; PROFILE High doubles the bitrates
(R247). -/
def av1Level (profile w h max : Nat) : Option (Nat × Nat) :=
  av1Levels.findSome? fun (idx, pic, mw, mh, rt, t0, t1) =>
    let room (t : Nat) : Bool := decide (max ≤ t * 100 * (profile + 1))
    if pic < w * h ∨ mw < w ∨ mh < h ∨ rt < w * h * 60 then none
    else if room t0 then some (idx, 0) else if room t1 then some (idx, 1) else none

/-- The H.264 levels of R248: level_idc, constraint_set3_flag, MaxMBPS, MaxFS, MaxBR (Table A-1 of ITU-T H.264: PRESUMED, log
entry 89). -/
def h264Levels : List (Nat × Nat × Nat × Nat × Nat) :=
  [(10, 0, 1485, 99, 64), (11, 1, 1485, 99, 128), (11, 0, 3000, 396, 192), (12, 0, 6000, 396, 384), (13, 0, 11880, 396, 768),
   (20, 0, 11880, 396, 2000), (21, 0, 19800, 792, 4000), (22, 0, 20250, 1620, 4000), (30, 0, 40500, 1620, 10000),
   (31, 0, 108000, 3600, 14000), (32, 0, 216000, 5120, 20000), (40, 0, 245760, 8192, 20000), (41, 0, 245760, 8192, 50000),
   (42, 0, 522240, 8704, 50000), (50, 0, 589824, 22080, 135000), (51, 0, 983040, 36864, 240000), (52, 0, 2073600, 36864, 240000)]

/-- The lowest H.264 level that covers a raster at 60 frames per second and MAX kbit/s (R248). -/
def h264Level (w h max : Nat) : Option (Nat × Nat) :=
  let mw := w / 16
  let mh := h / 16
  (h264Levels.find? fun (_, _, mbps, fs, br) =>
    decide (mw * mh ≤ fs) && decide (mw * mw ≤ 8 * fs) && decide (mh * mh ≤ 8 * fs) && decide (mw * mh * 60 ≤ mbps) && decide (max ≤ br)).map
      fun l => (l.1, l.2.1)

/-- Some level covers the stream (R247, R248). -/
def levelOk (codec profile w h max : Nat) : Bool :=
  if codec = 1 then (av1Level profile w h max).isSome else (h264Level w h max).isSome

/-! ### Hints and block QPs (R242, R243) -/

/-- The hint of block bx of a slice as the array uses it: key frames and ENC_CTL.HINT = 0 code every block as DIRTY (R242,
R266). -/
def blockHint (useHints key : Bool) (sl : SliceRec) (bx : Nat) : Nat := if key || !useHints then 2 else nthD sl.hints bx 2

/-- The vector of an entry: (0, 0) for STATIC. -/
def hintVec (ent : Nat) : Int × Int :=
  if ent % 4 = 1 then (toSigned 12 (field ent 8 12), toSigned 12 (field ent 20 12)) else (0, 0)

/-- The QPs of the blocks that a block's reference area touches (R243). -/
def refQps (bqp : List (Nat × Nat)) (nb j bx ent : Nat) : List Nat :=
  let (dx, dy) := hintVec ent
  let x0 := ((16 * bx : Nat) + dx).toNat
  let y0 := ((16 * j : Nat) + dy).toNat
  [(x0 / 16, y0 / 16), ((x0 + 15) / 16, y0 / 16), (x0 / 16, (y0 + 15) / 16), ((x0 + 15) / 16, (y0 + 15) / 16)].map fun (a, b) =>
    (lookupN (b * nb + a) bqp).getD 0

/-- How a block is coded: 0 copied without residual, 1 copied with a residual by REFINE, 2 as DIRTY; and its QP afterwards. `bqp`
holds the QPs of the reconstruction that it refers to. A block copied without a residual keeps the largest QP that its reference area
touches (DESIGN CHOICE, log entry 64) (R242, R243). -/
def blockMode (job : RowJob) (useHints : Bool) (bqp : List (Nat × Nat)) (sl : SliceRec) (bx : Nat) : Nat × Nat :=
  let ent := blockHint useHints job.key sl bx
  if ent % 4 = 2 then (2, job.qp)
  else
    let old := (refQps bqp (sl.w / 16) sl.j bx ent).foldl max 0
    if bitAt job.flags 3 && decide (job.qp < old) && decide (job.qp + job.refresh ≤ old) then (1, job.qp) else (0, old)

/-- The block QPs after a row: `old` of the reconstruction referred to, `new` of the one being made (R243). -/
def rowQps (job : RowJob) (useHints : Bool) (old new : List (Nat × Nat)) : List (Nat × Nat) :=
  job.slices.foldl (fun m sl => (upto (sl.w / 16)).foldl (fun m bx =>
    insertN (sl.j * (sl.w / 16) + bx) (blockMode job useHints old sl bx).2 m) m) new

/-! ### Colour (R245) -/

/-- Full-range BT.709 (R245). -/
def clamp255 (x : Int) : Nat := (max 0 (min 255 x)).toNat
def lumaOf (p : Px) : Nat := clamp255 ((54 * p.1 + 183 * p.2.1 + 19 * p.2.2.1 + 128 : Nat) / 256)
def cbOf (p : Px) : Nat := clamp255 ((-29 * (p.1 : Int) - 99 * (p.2.1 : Int) + 128 * (p.2.2.1 : Int) + 128) / 256 + 128)
def crOf (p : Px) : Nat := clamp255 ((128 * (p.1 : Int) - 116 * (p.2.1 : Int) - 12 * (p.2.2.1 : Int) + 128) / 256 + 128)

/-- The planes of rows y0 … y0 + n − 1 that the codec takes: 4:2:0, or G, B, R in AV1 High (R245). -/
def planes (px : Nat → Nat → Px) (w y0 n : Nat) (rgb : Bool) : Bytes :=
  let all (f : Px → Nat) : Bytes := (upto n).flatMap fun j => (upto w).map fun i => BitVec.ofNat 8 (f (px i (y0 + j)))
  if rgb then all (fun p => p.2.1) ++ all (fun p => p.2.2.1) ++ all (fun p => p.1)
  else
    let sub (f : Px → Nat) : Bytes := (upto (n / 2)).flatMap fun j => (upto (w / 2)).map fun i =>
      let q (a b : Nat) : Nat := f (px (2 * i + a) (y0 + 2 * j + b))
      BitVec.ofNat 8 ((q 0 0 + q 1 0 + q 0 1 + q 1 1 + 2) / 4)
    all lumaOf ++ sub cbOf ++ sub crOf

/-- The planes of one block. -/
def blockPlanes (px : Nat → Nat → Px) (bx j : Nat) (rgb : Bool) : Bytes := planes (fun x y => px (16 * bx + x) y) 16 (16 * j) 16 rgb

/-! ### Block codings (R242, R244) -/

/-- How a block of an AV1 or H.264 frame is coded. -/
inductive Coding
  /-- LAST_FRAME with vector (0, 0) and skip, or P_Skip. -/
  | skip
  /-- LAST_FRAME with a vector in whole pixels (NEWMV in AV1, P_L0_16x16 with 4 × the vector in H.264), and whether luma and chroma
  carry a residual. -/
  | inter (dx dy : Int) (luma chroma : Bool)
  /-- AV1 palette of up to 8 colours a plane. -/
  | palette
  /-- AV1 intra block copy. -/
  | ibc (dx dy : Int)
  /-- AV1: DC 0, V 1, H 2, PAETH 12; H.264 Intra_16x16: V 0, H 1, DC 2, plane 3. -/
  | intra (mode : Nat)
  /-- H.264 Intra_4x4: V 0, H 1, DC 2 of each block. -/
  | intra4 (modes : List Nat)
  deriving DecidableEq, Repr

/-- The fields of an AV1 sequence header that R246 and R245 set: BT.709 has code point 1, identity matrix 0 (log entry 89); the sequence
tools that R246 lists as disabled are 0. -/
structure Av1Seq where
  profile : Nat
  level   : Nat            -- seq_level_idx, seq_tier
  tier    : Nat
  w       : Nat
  h       : Nat
  matrix  : Nat
  stillPicture : Nat := 0
  reducedStill : Nat := 0
  opIdcs : List Nat := [0]
  sb128  : Nat := 0
  filterIntra : Nat := 0
  intraEdge   : Nat := 0
  interIntra  : Nat := 0
  maskedCompound : Nat := 0
  warped      : Nat := 0
  dualFilter  : Nat := 0
  orderHint   : Nat := 0
  superres    : Nat := 0
  cdef        : Nat := 0
  restoration : Nat := 0
  filmGrain   : Nat := 0
  forceScreenContent : Nat := 1
  forceIntegerMv     : Nat := 1
  fullRange : Nat := 1
  primaries : Nat := 1
  transfer  : Nat := 1
  deriving DecidableEq, Repr

/-- The fields of an AV1 frame header that R246 sets: PRIMARY_REF_NONE is 7, and an inter frame refers to LAST_FRAME alone, in slot 0. -/
structure Av1Frame where
  key      : Bool
  intrabc  : Bool
  lf       : Nat           -- loop filter level
  q        : Nat           -- base_q_idx
  refresh  : Nat           -- refresh_frame_flags
  tileCols : List Nat      -- widths and heights of the tiles in superblocks
  tileRows : List Nat
  showFrame  : Nat := 1
  primaryRef : Nat := 7
  errorResilient : Nat := 0
  deltaQ  : Nat := 0
  deltaLf : Nat := 0
  uniformTiles : Nat := 0
  deriving DecidableEq, Repr

/-- One OBU of an AV1 record (R246, R247). -/
inductive Obu
  | temporalDelimiter
  | sequence (hd : Av1Seq)
  | frame (hd : Av1Frame)
  /-- OBU_TILE_GROUP with the one tile of a tile row: its slices' blocks, and the QP of the row. -/
  | tile (row qp : Nat) (blocks : List (List Coding))
  deriving DecidableEq, Repr

/-- The fields of an H.264 SPS that R248 and R245 set, with its VUI: BT.709 has code point 1 (log entry 89). -/
structure H264Sps where
  level : Nat
  cs3   : Nat              -- constraint_set3_flag
  w     : Nat              -- in macroblocks
  h     : Nat
  profile : Nat := 66
  cs1     : Nat := 1
  frameMbsOnly : Nat := 1
  cropping : Nat := 0
  pocType  : Nat := 2
  maxRefs  : Nat := 1
  fullRange : Nat := 1
  primaries : Nat := 1
  transfer  : Nat := 1
  matrix    : Nat := 1
  maxReorder : Nat := 0
  deriving DecidableEq, Repr

/-- The fields of an H.264 PPS that R248 sets: CAVLC, one slice group, the deblocking filter under control of the slice. -/
structure H264Pps where
  cabac : Nat := 0
  sliceGroups : Nat := 1
  deblockControl : Nat := 1
  deriving DecidableEq, Repr

/-- One NAL unit of an H.264 record (R248). -/
inductive Nal
  | sps (hd : H264Sps)
  | pps (hd : H264Pps)
  /-- The slice of a macroblock row: IDR or P, QP, disable_deblocking_filter_idc. -/
  | slice (idr : Bool) (row qp deblock : Nat) (blocks : List Coding)
  deriving DecidableEq, Repr

end Machine

/-- The rate-distortion cost of a coding: codec, QP, coding, where the block lies, the block, what it may refer to (R244). -/
opaque Config.rdCost : Nat → Nat → Machine.Coding → Nat × Nat → Bytes → Bytes → Nat

/-- A vector is valid for intra block copy under AV1: raster, block, vector (R244). -/
opaque Config.ibcValid : Nat → Nat → Nat → Nat → Int → Int → Bool

/-- The planes that a decoder reconstructs of a block at a place, and what the loop filter makes of them (R242, R246, R248). -/
opaque Config.recon : Nat → Nat → Machine.Coding → Nat × Nat → Bytes → Bytes → Bytes
opaque Config.loopFiltered : Nat → Nat → Nat × Nat → Bytes → Bytes → Bytes

/-- The AV1 loop filter level that the encoder chooses from a QP (R246). -/
opaque Config.lfLevel : Nat → Nat

/-- The bits that the AV1 and H.264 standards make of an OBU's payload and of a NAL unit, from the codings and the planes (R246 –
R248). -/
opaque Config.obuPayload : Machine.Obu → Bytes → Bytes
opaque Config.nalUnit : Machine.Nal → Bytes → Bytes

namespace Machine

/-- The vectors of the SCROLLED entries of a slice (R244). -/
def sliceVecs (sl : SliceRec) : List Nat := sl.hints.filter fun e => e % 4 == 1

/-- The vectors of candidate 2: distinct, in entry order, of the slice and of the same slice of the previous frame, at most 8
(R244). -/
def candVecs (sl : SliceRec) (before : List Nat) : List (Int × Int) :=
  (((sliceVecs sl ++ before).map hintVec).foldl (fun a v => if a.contains v then a else a ++ [v]) []).take 8

/-- The first candidate of lowest cost (R244). -/
def best (cost : Coding → Nat) : List Coding → Coding
  | [] => .skip
  | c :: r => r.foldl (fun b x => if cost x < cost b then x else b) c

/-- Intra_4x4: each block by the first of V, H and DC of lowest cost, in order. -/
def intra4Of (cost : Coding → Nat) : Coding :=
  .intra4 ((upto 16).foldl (fun ms _ =>
    match best cost ([0, 1, 2].map fun m => .intra4 (ms ++ [m])) with
    | .intra4 l => l
    | _ => ms ++ [0]) [])

/-- The candidate set of a DIRTY block, in the order of R244. -/
def codingCands (job : RowJob) (sl : SliceRec) (vecs : List (Int × Int)) (bx : Nat) (cost : Coding → Nat) : List Coding :=
  let inter : List Coding := if job.key then [] else (.inter 0 0 true true) :: vecs.map fun v => .inter v.1 v.2 true true
  let pal : List Coding := if job.codec = 1 ∧ bitAt job.flags 2 then [.palette] else []
  let ibc : List Coding := if job.codec = 1 ∧ job.key ∧ bitAt job.flags 1 then
      (vecs.filter fun v => Config.ibcValid sl.w sl.h bx sl.j v.1 v.2).map fun v => .ibc v.1 v.2
    else []
  let intra : List Coding := if job.codec = 1 then [.intra 0, .intra 1, .intra 2, .intra 12]
    else [.intra 0, .intra 1, .intra 2, .intra 3, intra4Of cost]
  inter ++ pal ++ ibc ++ intra

/-- The coding of a block (R242 – R244): STATIC is skipped, since the predicted vector of P_Skip is (0, 0) where the slice has no
macroblock row above it (DEDUCED, log entry 90; R248); SCROLLED carries chroma where 4:2:0 cannot copy it; both carry a residual where
REFINE asks for one. -/
def blockCoding (job : RowJob) (useHints : Bool) (bqp : List (Nat × Nat)) (sl : SliceRec) (vecs : List (Int × Int)) (bx : Nat)
    (cost : Coding → Nat) : Coding :=
  let ent := blockHint useHints job.key sl bx
  let v := hintVec ent
  match (blockMode job useHints bqp sl bx).1 with
  | 0 =>
    let odd := decide (v.1 % 2 ≠ 0) || decide (v.2 % 2 ≠ 0)
    if ent % 4 = 0 then .skip else .inter v.1 v.2 false (odd && !(job.codec == 1 && job.profile == 1))
  | 1 => .inter v.1 v.2 true true
  | _ => best cost (codingCands job sl vecs bx cost)

/-! ### The reconstruction (R235, R242) -/

/-- The reconstruction of frame n keeps its blocks at these keys: two frames. -/
def reconKey (w h n j bx : Nat) : Nat := (n % 2) * (w / 16 * (h / 16)) + j * (w / 16) + bx

/-- A sample of plane p of the reconstruction of frame n. -/
def reconAt (r : List (Nat × Bytes)) (w h n p : Nat) (rgb : Bool) (x y : Nat) : Byte :=
  let (k, o) : Nat × Nat := if rgb then (16, 256 * p) else if p = 0 then (16, 0) else (8, 192 + 64 * p)
  nthD ((lookupN (reconKey w h n (y / k) (x / k)) r).getD []) (o + y % k * k + x % k) 0

/-- Plane p of a block copied from the frame before at a vector. -/
def copyPlane (r : List (Nat × Bytes)) (sl : SliceRec) (p : Nat) (rgb : Bool) (bx : Nat) (v : Int × Int) : Bytes :=
  let sub := !rgb && p != 0
  let k : Nat := if sub then 8 else 16
  let (dx, dy) := if sub then (v.1 / 2, v.2 / 2) else v
  (upto k).flatMap fun y => (upto k).map fun x =>
    reconAt r sl.w sl.h (sl.n + 1) p rgb ((k * bx + x : Nat) + dx).toNat ((k * sl.j + y : Nat) + dy).toNat

/-- The reconstruction of a block: what is coded without residual repeats the reconstruction of the previous frame (R242). -/
def reconBlock (job : RowJob) (r : List (Nat × Bytes)) (sl : SliceRec) (bx : Nat) (cur refs : Bytes) (c : Coding) : Bytes :=
  let rgb := job.codec == 1 && job.profile == 1
  let copy (p : Nat) (v : Int × Int) : Bytes := copyPlane r sl p rgb bx v
  let made := Config.recon job.codec job.qp c (bx, sl.j) cur refs
  let filtered (b : Bytes) : Bytes :=
    if bitAt job.flags 0 && !(job.codec == 1 && job.key && bitAt job.flags 1) then Config.loopFiltered job.codec job.qp (bx, sl.j) b refs else b
  match c with
  | .skip => copy 0 (0, 0) ++ copy 1 (0, 0) ++ copy 2 (0, 0)
  | .inter dx dy false false => copy 0 (dx, dy) ++ copy 1 (dx, dy) ++ copy 2 (dx, dy)
  | .inter dx dy false true => copy 0 (dx, dy) ++ made.drop 256
  | _ => filtered made

/-- Code the blocks of a slice: the reconstruction so far, and the codings; without hint maps candidate 2 has no vectors (R266). -/
def codeSlice (job : RowJob) (useHints : Bool) (bqp : List (Nat × Nat)) (px : Nat → Nat → Px) (before : List Nat)
    (r : List (Nat × Bytes)) (sl : SliceRec) : List (Nat × Bytes) × List Coding :=
  let rgb := job.codec == 1 && job.profile == 1
  let vecs := if useHints then candVecs sl before else []
  (upto (sl.w / 16)).foldl (fun (acc : List (Nat × Bytes) × List Coding) bx =>
    let cur := blockPlanes px bx sl.j rgb
    let refs := acc.1.flatMap fun p => p.2
    let c := blockCoding job useHints bqp sl vecs bx fun x => Config.rdCost job.codec job.qp x (bx, sl.j) cur refs
    (insertN (reconKey sl.w sl.h sl.n sl.j bx) (reconBlock job acc.1 sl bx cur refs c) acc.1, acc.2 ++ [c])) (r, [])

/-- Code the slices of a row in order. -/
def codeRow (job : RowJob) (useHints : Bool) (bqp : List (Nat × Nat)) (px : Nat → Nat → Px) (vecs : List (Nat × List Nat))
    (r : List (Nat × Bytes)) : List (Nat × Bytes) × List (List Coding) :=
  job.slices.foldl (fun (acc : List (Nat × Bytes) × List (List Coding)) sl =>
    let (r, cs) := codeSlice job useHints bqp px ((lookupN sl.j vecs).getD []) acc.1 sl
    (r, acc.2 ++ [cs])) (r, [])

/-! ### Payloads (R246 – R248, R258) -/

/-- LEB128 of a length; 5 bytes hold every length of a record. -/
def leb128 : Nat → Nat → Bytes
  | 0, _ => []
  | fuel + 1, n => if n < 128 then [BitVec.ofNat 8 n] else BitVec.ofNat 8 (128 + n % 128) :: leb128 fuel (n / 128)

/-- obu_type. -/
def Obu.type : Obu → Nat
  | .temporalDelimiter => 2 | .sequence .. => 1 | .frame .. => 3 | .tile .. => 4

/-- An OBU with obu_has_size_field 1; a temporal delimiter has no payload (R246). -/
def Obu.bytes (res : Bytes) (o : Obu) : Bytes :=
  let p := match o with | .temporalDelimiter => [] | _ => Config.obuPayload o res
  BitVec.ofNat 8 (8 * o.type + 2) :: (leb128 5 p.length ++ p)

/-- The OBUs of an AV1 row. The frame header, which comes with the first row and has delta Q off, carries that row's QP; each tile is coded
at the QP of its own row (DESIGN CHOICE, log entry 105) (R246, R247, R255). -/
def av1Row (job : RowJob) (sl : SliceRec) (max : Nat) (blocks : List (List Coding)) : List Obu :=
  let (level, tier) := (av1Level job.profile sl.w sl.h max).getD (13, 1)
  let seq : List Obu := if job.key then
      [.sequence { profile := job.profile, level, tier, w := sl.w, h := sl.h, matrix := if job.profile = 1 then 0 else 1 }] else []
  let ibc := job.key && bitAt job.flags 1
  let rows := ceilDiv sl.h 64
  let head : List Obu := if sl.j = 0 then
      [.temporalDelimiter] ++ seq ++
        [.frame { key := job.key, intrabc := ibc, lf := if bitAt job.flags 0 && !ibc then Config.lfLevel job.qp else 0, q := job.qp
                  refresh := if job.key then 0xFF else 1, tileCols := [ceilDiv sl.w 64], tileRows := List.replicate rows 1 }]
    else []
  head ++ [.tile (sl.j / 4) job.qp blocks]

/-- The NAL units of an H.264 row (R248). -/
def h264Row (job : RowJob) (sl : SliceRec) (max : Nat) (blocks : List (List Coding)) : List Nal :=
  let (level, cs3) := (h264Level sl.w sl.h max).getD (52, 0)
  (if job.key && sl.j == 0 then [.sps { level, cs3, w := sl.w / 16, h := sl.h / 16 }, .pps {}] else []) ++
    [.slice job.key sl.j job.qp (if bitAt job.flags 0 then 0 else 1) (blocks.flatMap id)]

/-- The payload of an AV1 or H.264 row: OBUs, or NAL units each after its length in 4 bytes, big-endian (R258). -/
def codedPayload (job : RowJob) (sl : SliceRec) (max : Nat) (blocks : List (List Coding)) (res : Bytes) : Bytes :=
  if job.codec = 1 then (av1Row job sl max blocks).flatMap (Obu.bytes res)
  else (h264Row job sl max blocks).flatMap fun n => let b := Config.nalUnit n res; beBytes 4 b.length ++ b

end Machine
end Sys2Proof
end

