-- ==== Sys2Proof/Machine/Rtp.lean ====
section
/-! DEFINITION. The payload formats of the media packets: AV1, H.264, Bientotte, Opus and L16 over RTP (R394). -/
namespace Sys2Proof.Machine

/-- Cut bytes into pieces of at most n. -/
def pieces (n : Nat) : Nat → Bytes → List Bytes
  | 0, _ => []
  | fuel + 1, bs => if bs.length ≤ n then [bs] else bs.take n :: pieces n fuel (bs.drop n)

/-! ### AV1 -/

/-- The number that the LEB128 bytes at the head of a list spell, with their count. -/
def leb128At : Nat → Bytes → Nat × Nat
  | 0, _ => (0, 0)
  | _, [] => (0, 0)
  | fuel + 1, b :: r => if b.toNat < 128 then (b.toNat, 1) else let (v, n) := leb128At fuel r; (b.toNat % 128 + 128 * v, n + 1)

/-- The OBUs of low-overhead bytes, each with its header and size field. -/
def obus : Nat → Bytes → List Bytes
  | 0, _ => []
  | _, [] => []
  | fuel + 1, b :: r =>
    let (v, n) := leb128At 8 r
    (b :: r.take (n + v)) :: obus fuel (r.drop (n + v))

/-- The type of an OBU: 1 sequence header, 2 temporal delimiter. -/
def obuType (o : Bytes) : Nat := beAt o 0 1 / 8 % 16

/-- What an AV1 packet is built from: elements that begin in it, and whether its first continues an element (Z). -/
structure Av1Pkt where
  z    : Bool
  body : Bytes
  deriving DecidableEq, Repr

/-- Fill packets of `room` bytes with OBU elements, each after its length: an element that does not fit is cut, which Y and the next
packet's Z mark. Each packet comes with its Y. -/
def av1Fill (room : Nat) : Nat → Av1Pkt → List Bytes → List (Av1Pkt × Bool)
  | 0, _, _ => []
  | _, k, [] => if k.body.isEmpty then [] else [(k, false)]
  | fuel + 1, k, e :: r =>
    let space := room - 1 - k.body.length
    let whole := leb128 5 e.length ++ e
    if whole.length ≤ space then av1Fill room fuel { k with body := k.body ++ whole } r
    else
      let n := space - (leb128 5 space).length
      if n = 0 then (k, false) :: av1Fill room fuel { z := false, body := [] } (e :: r)
      else ({ k with body := k.body ++ leb128 5 n ++ e.take n }, true) :: av1Fill room fuel { z := true, body := [] } (e.drop n :: r)

/-- The payloads of an AV1 record: temporal delimiters removed, W = 0, N = 1 on the first packet of a record with NEWSEQ or KEY and a
sequence header. An OBU keeps its size field (DESIGN CHOICE, log entry 106). -/
def av1Payloads (room : Nat) (new : Bool) (pay : Bytes) : List Bytes :=
  let os := (obus (pay.length + 1) pay).filter fun o => obuType o != 2
  let n := new && os.any fun o => obuType o == 1
  ((av1Fill room (2 * pay.length + os.length + 2) { z := false, body := [] } os).zipIdx).map fun ((k, y), i) =>
    beBytes 1 (128 * b2n k.z + 64 * b2n y + 8 * b2n (n && i == 0)) ++ k.body

/-! ### H.264 -/

/-- The NAL units of bytes in which each follows its length. -/
def nals : Nat → Bytes → List Bytes
  | 0, _ => []
  | fuel + 1, bs => if bs.length < 4 then [] else let n := beAt bs 0 4; (bs.drop 4).take n :: nals fuel (bs.drop (4 + n))

/-- One NAL unit in a packet where it fits, and in FU-A fragments otherwise: the FU indicator has type 28, the FU header S, E and the
type of the NAL unit. -/
def nalPayloads (room : Nat) (u : Bytes) : List Bytes :=
  if u.length ≤ room then [u]
  else
    let h := beAt u 0 1
    let l := pieces (room - 2) (u.length + 1) (u.drop 1)
    (l.zipIdx).map fun (p, i) => beBytes 1 (h / 32 * 32 + 28) ++ beBytes 1 (128 * b2n (i == 0) + 64 * b2n (i + 1 == l.length) + h % 32) ++ p

/-! ### All formats -/

/-- The payloads of a record's packets with the timestamp offset of each; `flags` of its header, `room` bytes in a packet. -/
def payloads (codec flags room channels : Nat) (pay : Bytes) : List (Nat × Bytes) :=
  match codec with
  | 1 => (av1Payloads room (bitAt flags 0 || bitAt flags 5) pay).map fun p => (0, p)
  | 2 => ((nals (pay.length + 1) pay).flatMap (nalPayloads room)).map fun p => (0, p)
  | 3 =>
    let l := pieces (room - 4) (pay.length + 1) pay
    (l.zipIdx).map fun (p, i) => (0, beBytes 1 (b2n (i == 0) + 2 * b2n (i + 1 == l.length)) ++ beBytes 1 0 ++ beBytes 2 i ++ p)
  | 5 =>
    let u := 2 * max 1 channels
    let n := max 1 (room / u) * u
    ((pieces n (pay.length + 1) pay).zipIdx).map fun (p, i) => (i * (n / u), p)
  | _ => [(0, pay)]

end Sys2Proof.Machine
end

