-- ==== Sys2Proof/Machine/Encode.lean ====
section
/-! DEFINITION. The encoder array: cores, the coding-row queue, the Bientotte stream, rate control, output
records, drops and faults (R234 – R263). -/
namespace Sys2Proof.Machine

/-- Events of the array (R469). -/
def evRowLate : Nat := 0x041
def evEncDrop : Nat := 0x042
def evEncCore : Nat := 0x043

/-- The state and cause of core c, and the rows it has completed. -/
def encState (c : Nat) : Fld := ENC_CORE_STATE.nth 4 c
def encCause (c : Nat) : Fld := ENC_CORE_CAUSE.nth 4 c
def encRows (c : Nat) : Fld := ENC_CORE_ROWS.nth 4 c

/-- The multiplier Q of a codec and profile (R236). -/
def codecQ (codec profile : Nat) : Nat :=
  match codec with
  | 1 => if profile = 1 then 6 else 4
  | 2 => 3
  | 3 => 1
  | _ => 0

/-- Encode cost of a raster (R236). -/
def encodeCost (w h codec profile : Nat) : Nat := w * h * codecQ codec profile / 4

/-- Encode cost of a stream by its shadow raster; 0 while SPLIT_ENCODE is host-assisted (R236, R237). -/
def State.streamCost (s : State) (x : Stream) : Nat :=
  if s.split spENCODE then 0 else encodeCost (dW x.shadow) (dH x.shadow) x.esd.codec x.esd.profile

/-- Set ENC_BUDGET_USED to the sum of EC (R237). -/
def State.recost (s : State) : State := s.put ENC_BUDGET_USED_USED (s.streams.foldl (fun n x => n + s.streamCost x) 0)

/-! ### Rows (R235, R240) -/

/-- Slices of the coding row that starts at slice j (R240). -/
def rowSlices (codec h j : Nat) : Nat := if codec = 1 then min (4 - j % 4) (h / 16 - j) else 1

/-- Rows of a frame. -/
def rowsPer (codec h : Nat) : Nat := if codec = 1 then ceilDiv (h / 16) 4 else h / 16

/-- A coding row of a stream is in progress. -/
def State.coding (s : State) (n : Nat) : Bool := s.encJobs.any fun j => j.stream == n && !j.gone

/-- The next slice starts a new frame. -/
def startsFrame (x : Stream) (sl : SliceRec) : Bool := !x.enc.coded || sl.n != x.enc.frame

/-- CODEC under which the next row of a stream is coded: a frame keeps the one it began with (R253). -/
def rowCodec (x : Stream) (sl : SliceRec) : Nat := if startsFrame x sl then x.esd.codec else x.enc.codec

/-- The slices of the next coding row, if all are composed. -/
def nextRow (x : Stream) : Option (List SliceRec) :=
  match x.enc.ready with
  | [] => none
  | sl :: _ =>
    let n := rowSlices (rowCodec x sl) sl.h sl.j
    let row := x.enc.ready.take n
    if row.length = n ∧ row.all (fun r => r.n == sl.n) then some row else none

/-- When a row is due: with its last slice. -/
def rowDue (row : List SliceRec) : Int := match row.getLast? with | some r => r.due | none => 0

/-- The stream whose row an idle core takes next: discarded rows first, then by due time, then the lower number (R235,
R262). -/
def State.nextStream (s : State) : Option (Stream × List SliceRec) :=
  let cands := s.streams.filterMap fun x =>
    if s.coding x.num || x.enc.ready.isEmpty then none else (nextRow x).map fun r => (x, r)
  let before (a b : Stream × List SliceRec) : Bool :=
    let fa := s.encFront.contains a.1.num
    let fb := s.encFront.contains b.1.num
    if fa != fb then fa
    else if rowDue a.2 ≠ rowDue b.2 then decide (rowDue a.2 < rowDue b.2)
    else decide (a.1.num < b.1.num)
  cands.foldl (fun best c => match best with
    | none => some c
    | some b => if before c b then some c else some b) none

/-! ### Frame and rate decisions (R252, R253, R255, R256) -/

/-- The rate of CBR; in the other modes the rate in use stays (R255). -/
def cbrRate (e : Esd) : Nat := if e.rcmode = 1 then (if e.cap ≠ 0 ∧ e.cap < e.target then e.cap else e.target) else e.rateNow

/-- The ADAPT update of every 6th frame (R256). -/
def adaptRate (e : Esd) : Nat :=
  let r := if 25 < e.loss then e.rateNow * 7 / 8 else if e.loss < 5 then e.rateNow * 17 / 16 else e.rateNow
  let limit := if e.cap ≠ 0 ∧ e.cap < e.max then e.cap else e.max
  max e.min (min r limit)

def clampN (lo hi x : Nat) : Nat := max lo (min hi x)

/-- The rate with which a frame begins: CBR's; in ADAPT TARGET at the start, then the last value, updated every 6th frame; none for
the Bientotte stream (R251, R255, R256). -/
def frameRate (e : Esd) (rated : Bool) (count : Nat) : Nat :=
  if e.codec = 3 then e.rateNow
  else if e.rcmode = 2 then
    let e := { e with rateNow := if rated then e.rateNow else e.target }
    if count % 6 = 0 ∧ 0 < count then adaptRate e else e.rateNow
  else cbrRate e

/-- Begin the frame of the first row of a frame: sequence, key frame, rate and starting QP (R252, R253, R255, R256). -/
def beginCoding (x : Stream) (sl : SliceRec) : Stream :=
  let e := x.esd
  let c := x.enc
  let seq := (e.codec, e.profile, sl.w, sl.h)
  let newSeq := !c.coded || c.changed || decide (c.seq ≠ seq)
  let key := newSeq || (e.keyint != 0 && decide (e.keyint ≤ c.since)) || e.keyreq || c.lost || bitAt sl.flags 1
  let adapt := e.rcmode = 2 ∧ e.codec ≠ 3
  let count := if adapt then c.count + 1 else c.count
  let qp := if !c.qpSet then (e.qpMin + e.qpMax) / 2 else if key then clampN e.qpMin e.qpMax (e.qpLast + 2) else clampN e.qpMin e.qpMax c.qp
  { x with
    esd := { e with rateNow := frameRate e c.rated count, keyreq := if key then false else e.keyreq }
    enc := { c with coded := true, seq, frame := sl.n, codec := e.codec, profile := e.profile, tools := e.flags % 8, key, newSeq
                    since := if key then 1 else c.since + 1, count, lost := false, changed := false, old := none, rated := c.rated || decide adapt
                    debt := if newSeq then 0 else c.debt, qp, qpSet := true, bqp := c.bqpNew } }

/-- The settings under which the next row of a stream is coded: the ESD as it stands, in a frame begun before a change of CODEC or PROFILE
as it stood before that change; where ADAPT has not run before, its rate starts at TARGET (R253, R255, R256). -/
def Stream.rowEsd (x : Stream) : Esd :=
  let e := x.enc.old.getD x.esd
  let rate := if x.enc.codec = 3 ∨ e.rcmode = 0 then e.rateNow else if e.rcmode = 1 then cbrRate e else if x.enc.rated then e.rateNow else e.target
  { e with rateNow := rate }

/-- CODING_ROW_START: an idle ACTIVE core takes the next row of the queue; it uses the ESD as it stands now (R235, R260). -/
def codingRowStart (core : Nat) (s : State) : State :=
  if !stallsExecute s.mode ∨ !s.memServes ∨ 25 ≤ core ∨ s.get ENC_CTL_EN ≠ 1 ∨ s.get (encState core) ≠ 1 ∨ s.encJobs.any (fun j => j.core == core) then s
  else match s.nextStream with
    | none => s
    | some (x, row) => match row with
      | [] => s
      | sl :: _ =>
        let x := if startsFrame x sl then beginCoding x sl else x
        let e := x.rowEsd
        let rate := e.rateNow
        let qp := if e.rcmode = 0 then e.qpFixed else clampN e.qpMin e.qpMax x.enc.qp
        let job : RowJob :=
          { core, stream := x.num, n := sl.n, j := sl.j, slices := row, key := x.enc.key, newSeq := x.enc.newSeq && sl.j == 0
            codec := x.enc.codec, profile := x.enc.profile, flags := x.enc.tools + e.flags / 8 % 2 * 8, qp, rate
            rcmode := e.rcmode, qpMin := e.qpMin, qpMax := e.qpMax, refresh := e.refresh, maxRate := e.max, since := s.time, gone := false }
        let s := s.setStream { x with esd := { x.esd with rateNow := rate }, enc := { x.enc with rated := x.enc.rated || (e.rcmode == 2 && x.enc.codec != 3) } }
        { s with encJobs := s.encJobs ++ [job], encFront := s.encFront.filter fun n => n != x.num }

/-! ### The Bientotte stream (R249 – R251) -/

/-- A block's choice before merging. -/
inductive BRec
  | skip
  | copy (dx dy : Nat)
  | lit (bytes : Bytes)
  deriving DecidableEq, Repr

/-- The 256 pixels of a block, R, G, B. -/
def blockPixels (px : Nat → Nat → Px) (bx j : Nat) : List (Nat × Nat × Nat) :=
  (upto 16).flatMap fun y => (upto 16).map fun x => let p := px (16 * bx + x) (16 * j + y); (p.1, p.2.1, p.2.2.1)

def rgbBytes (p : Nat × Nat × Nat) : Bytes := [p.1, p.2.1, p.2.2].map (BitVec.ofNat 8)

/-- Colours in order of first appearance. -/
def colours (l : List (Nat × Nat × Nat)) : List (Nat × Nat × Nat) := l.foldl (fun a p => if a.contains p then a else a ++ [p]) []

/-- Indices packed from bit 0 of each byte (R250). -/
def packIdx (bits : Nat) : Nat → List Nat → Bytes
  | 0, _ => []
  | n + 1, l =>
    let per := 8 / bits
    let b := ((l.take per).zipIdx).foldl (fun a p => a + p.1 * 2 ^ (bits * p.2)) 0
    BitVec.ofNat 8 b :: packIdx bits n (l.drop per)

/-- FILL, PAL or RAW of a block (R250, R251). -/
def literalBlock (l : List (Nat × Nat × Nat)) : Bytes :=
  let cs := colours l
  let n := cs.length
  if n ≤ 1 then leBytes 1 2 ++ rgbBytes (nthD cs 0 (0, 0, 0))
  else if n ≤ 16 then
    let bits := if n = 2 then 1 else if n ≤ 4 then 2 else 4
    leBytes 1 (3 + 8 * (n - 1)) ++ cs.flatMap rgbBytes ++ packIdx bits (256 * bits / 8) (l.map fun p => cs.idxOf p)
  else leBytes 1 4 ++ l.flatMap rgbBytes

/-- The record of a block as the first case of R251 that applies. -/
def chooseBlock (first : Bool) (ent : Nat) (cur prev : List (Nat × Nat × Nat)) : BRec :=
  if !first && ent % 4 == 0 then .skip
  else if !first && ent % 4 == 1 then .copy (ofSigned 16 (toSigned 12 (field ent 8 12))) (ofSigned 16 (toSigned 12 (field ent 20 12)))
  else if !first && decide (cur = prev) then .skip
  else .lit (literalBlock cur)

/-- Merge runs of SKIP, and of COPY with an equal vector, up to 32 blocks (R251). -/
def mergeRecs : List BRec → List (BRec × Nat)
  | [] => []
  | b :: r =>
    let rest := mergeRecs r
    match b, rest with
    | .lit _, _ => (b, 1) :: rest
    | _, (c, n) :: more => if b = c then (c, n + 1) :: more else (b, 1) :: rest
    | _, [] => [(b, 1)]

/-- Bytes of a run of blocks, in records of at most 32. -/
def runBytes (b : BRec) : Nat → Nat → Bytes
  | 0, _ => []
  | fuel + 1, n =>
    if n = 0 then []
    else
      let k := min n 32
      (match b with
        | .skip => leBytes 1 (8 * (k - 1))
        | .copy dx dy => leBytes 1 (1 + 8 * (k - 1)) ++ leBytes 2 dx ++ leBytes 2 dy
        | .lit bs => bs) ++ runBytes b fuel (n - k)

/-- A Bientotte slice (R249). -/
def bientotte (useHints : Bool) (job : RowJob) (sl : SliceRec) (cur prev : Nat → Nat → Px) (late : Bool) : Bytes :=
  let nb := sl.w / 16
  let recs := (upto nb).map fun bx =>
    chooseBlock job.key (blockHint useHints job.key sl bx) (blockPixels cur bx sl.j) (blockPixels prev bx sl.j)
  let body := (mergeRecs recs).flatMap fun (b, n) => runBytes b n n
  let fl := b2n job.key + b2n (bitAt sl.flags 2) * 2 + b2n (bitAt sl.flags 3) * 4 + b2n late * 8
  let hd := leBytes 1 0xB7 ++ leBytes 1 1 ++ leBytes 1 fl ++ leBytes 1 0 ++ leBytes 4 sl.n ++ leBytes 2 sl.j ++ leBytes 2 nb ++
    leBytes 4 body.length
  hd ++ body ++ leBytes 4 (crc32 (hd ++ body)).toNat

/-! ### Output rings (R257 – R259) -/

/-- Round up to a multiple of 64. -/
def up64 (n : Nat) : Nat := ceilDiv n 64 * 64

/-- Where a record of `len` bytes goes in a ring: whether a pad header comes first, its offset, and the new write offset;
none where it does not fit (R257, R259). -/
def ringPlace (wr rd size len : Nat) : Option (Bool × Nat × Nat) :=
  let skip := if size < wr + len then size - wr else 0
  if ringUsed wr rd size + skip + len < size then
    let at_ := if skip = 0 then wr else 0
    some (skip != 0, at_, if at_ + len = size then 0 else at_ + len)
  else none

/-- The record header of R258. -/
def recordHeader (n codec flags frame slice slices len done qp : Nat) : Bytes :=
  leBytes 2 n ++ leBytes 1 codec ++ leBytes 1 flags ++ leBytes 4 frame ++ leBytes 2 slice ++ leBytes 2 slices ++ leBytes 4 len ++
    leBytes 8 done ++ leBytes 2 qp ++ leBytes 6 0

/-- A record padded with zeros to a multiple of 64 bytes. -/
def padRecord (hd payload : Bytes) : Bytes := sliceBytes (hd ++ payload) 0 (up64 (32 + payload.length))

/-- A pad header: the number of the stream or stall, CODEC 0xFF and the reserved bits 0; what the fields of a record would say are
free values. `flags` is the width of FLAGS, `rsvd` the number of reserved bytes at the end (R257, R258, R291). -/
def padHeader (id flags rsvd : Nat) (fb : Bytes) : Bytes :=
  leBytes 2 id ++ [0xFF] ++ leBytes 1 (leAt fb 3 1 % 2 ^ flags) ++ sliceBytes fb 4 (28 - rsvd) ++ List.replicate rsvd 0

/-- Write a record into a ring at `base`, after a pad header where the ring's end leaves no room (R257). -/
def State.ringWrite (s : State) (base wr : Nat) (pad : Bool) (head : Bytes → Bytes) (at_ : Nat) (rec : Bytes) : State :=
  if pad then
    let (fb, s) := s.freeBytes 32
    (s.hbmWrite (base + wr) (head fb)).hbmWrite (base + at_) rec
  else s.hbmWrite (base + at_) rec

/-! ### Completion (R241, R255, R257 – R259) -/

/-- Rate control after a row of `bits` bits (R255); `corner` stands for the step where row_bits is 0. -/
def rateStep (job : RowJob) (rows bits : Nat) (corner : Int) (c : Enc) : Enc :=
  if job.rcmode = 0 ∨ job.codec = 3 then { c with qp := if job.rcmode = 0 then job.qp else c.qp }
  else
    let frameBits := job.rate * 1000 / 60
    let rowBits := frameBits / rows
    let debt := c.debt + bits - rowBits
    let step := if rowBits = 0 then corner else max (-2) (min 2 (debt.tdiv rowBits))
    let qp := max (job.qpMin : Int) (min job.qpMax (job.qp + step))
    let fb : Int := frameBits
    let debt : Int := if 2 * fb < debt then 2 * fb else if debt < -fb then -fb else debt
    { c with debt, qp := qp.toNat }

/-- The payload of a row and the encoder's state after it (R242 – R251): a Bientotte slice refers to the composed previous frame. -/
def State.payload (s : State) (job : RowJob) (sl : SliceRec) (x : Stream) (late : Bool) : Bytes × Enc :=
  let useHints := s.get ENC_CTL_HINT == 1
  let px (k : Nat) (a b : Nat) : Px := s.outPx sl.out sl.w sl.h k a b
  let c := { x.enc with bqpNew := rowQps job useHints x.enc.bqp x.enc.bqpNew
                        vecs := job.slices.foldl (fun m r => insertN r.j (sliceVecs r) m) x.enc.vecs }
  if job.codec = 3 then (bientotte useHints job sl (px sl.n) (px (sl.n + 1)) late, c)
  else
    let (recon, blocks) := codeRow job useHints x.enc.bqp (px sl.n) x.enc.vecs x.enc.recon
    let res := planes (px sl.n) sl.w (16 * sl.j) (16 * job.slices.length) (job.codec == 1 && job.profile == 1) ++
      x.enc.recon.flatMap fun p => p.2
    (codedPayload job sl job.maxRate blocks res, { c with recon })

/-- CODING_ROW_DONE: the record of the row on a core is written, delivered to the host, or discarded (R241, R257 – R260). bits[r] of R255
counts the payload, not header and padding (DESIGN CHOICE, log entry 64). -/
def codingRowDone (core : Nat) (s : State) : State :=
  match s.encJobs.find? fun j => j.core == core with
  | none => s
  | some job =>
    let s := { s with encJobs := s.encJobs.filter fun j => j.core != core }
    if job.gone then s
    else
    let s := s.put (encRows core) (s.get (encRows core) + 1)
    match s.stream? job.stream, job.slices with
    | some x, sl :: _ =>
      let lastDone := match job.slices.getLast? with | some r => r.done | none => 0
      let slow := decide (lastDone + 150000 < s.time)
      let any_ (b : Nat) : Bool := job.slices.any fun r => bitAt r.flags b
      let late := slow || any_ 0
      let (pay, c) := s.payload job sl x late
      let (cn, s) := s.draw 5
      let s := if slow then ((s.inc ENC_LATE_COUNT).put ENC_LATE_STREAM job.stream).raise evRowLate else s
      let fin := job.slices.any (·.fin)
      let qp := if job.codec = 3 then 0 else job.qp
      let fl := b2n job.key + 2 * b2n fin + 4 * b2n (any_ 2) + 8 * b2n (any_ 3) + 16 * b2n late + 32 * b2n job.newSeq
      let rec_ := padRecord (recordHeader x.num job.codec fl job.n job.j job.slices.length pay.length s.time qp) pay
      let enc := rateStep job (rowsPer job.codec sl.h) (8 * pay.length) ((cn : Int) - 2) c
      let enc := { enc with ready := enc.ready.drop job.slices.length }
      match ringPlace x.esd.wr x.esd.rd x.esd.outSize rec_.length with
      | some (pad, at_, wr) =>
        let s := s.ringWrite x.esd.outAddr x.esd.wr pad (padHeader x.num 6 6) at_ rec_
        s.setStream { x with enc, esd := { x.esd with wr, qpLast := qp } }
      | none =>
        let s := s.setStream { x with enc := { enc with lost := true }, esd := { x.esd with qpLast := qp } }
        ((s.inc ENC_DROP_COUNT).put ENC_DROP_STREAM job.stream).raise evEncDrop
    | _, _ => s

/-! ### Faults (R262, R263, R496, R500, R501) -/

/-- Record a covered fault (R496). -/
def State.recordFault (s : State) (kind unit : Nat) : State :=
  let s := s.puts [(FLT_LAST_KIND, kind), (FLT_LAST_UNIT, unit), (FLT_LAST_VALID, 1), (FLT_TIME_TIME, s.time)]
  s.inc FLT_RECOVER_COUNT

/-- CODEC becomes OFF: of the rows in the queue only those of the frame whose coding has begun are still coded, under the old
settings; a frame being composed whose coding has not begun is not coded (R253). -/
def Stream.encOff (x : Stream) : Stream :=
  let begun (n : Nat) : Bool := x.enc.coded && n == x.enc.frame
  { x with enc := { x.enc with ready := x.enc.ready.filter fun r => begun r.n }
           frames := x.frames.map fun f => { f with coded := f.coded && begun f.n } }

/-- Stop a stream for want of budget (R263). -/
def State.stopStream (s : State) (x : Stream) : State :=
  let s := s.setStream { x.encOff with esd := { x.esd with codec := 0 } }
  let s := s.recost
  s.notice nStreamStopped x.num 0 0

/-- Stop streams in the order given while the budget is exceeded; a player stream's owner is parked with FENCE (R263). -/
def State.shed (s : State) (player : Bool) (l : List Nat) : State :=
  l.foldl (fun s n =>
    if s.get ENC_BUDGET_USED_USED ≤ s.get ENC_BUDGET_TOTAL_TOTAL then s
    else match s.stream? n with
      | some x =>
        if x.esd.codec = 0 then s
        else
          let s := s.stopStream x
          if player then s.park (n / 4) rsnFENCE true else s
      | none => s) s

/-- Streams with a codec in descending number, player streams or the others. -/
def State.descending (s : State) (player : Bool) : List Nat :=
  ((s.streams.filter fun x => (x.num % 4 == 0) == player).foldl (fun l x => insertBy (fun n => 16384 - n) x.num l) [])

/-- ACTIVE cores. -/
def State.encActive (s : State) : Nat := ((upto 25).filter fun c => s.get (encState c) == 1).length

/-- Recover from the failure of a core: where an ACTIVE core is missing the spare takes over, or the budget falls (R262, R263). -/
def State.encRecover (s : State) : State :=
  let spare := (upto 25).any fun c => s.get (encState c) == 2
  let s := s.setDegrade FLT_DEGRADE_ENC_SPARE 1
  let s := { s with spareDue := s.spareDue && spare }
  if s.get ENC_BUDGET_TOTAL_TOTAL ≤ 10000000 * (s.encActive + b2n s.spareDue) then s
  else if spare && !s.spareDue then { s with spareDue := true }
  else
    let s := s.put ENC_BUDGET_TOTAL_TOTAL (s.get ENC_BUDGET_TOTAL_TOTAL - 10000000)
    let s := s.setDegrade FLT_DEGRADE_ENC_LOST 1
    let s := s.shed false (s.descending false)
    s.shed true (s.descending true)

/-- A core fails: it is FENCED, and its row goes back to the front of the queue (R262, R497). -/
def State.encFail (s : State) (core cause : Nat) : State :=
  let s := s.recordFault 3 core
  let s := s.puts [(encState core, 3), (encCause core, cause)]
  let lost : List RowJob := s.encJobs.filter fun j => j.core == core && !j.gone
  let s := { s with encJobs := s.encJobs.filter fun j => j.core != core, encFront := s.encFront ++ lost.map RowJob.stream }
  let s := s.raise evEncCore
  if s.mode = .debugFreeze then { s with deferred := s.deferred ++ [(3, core)] } else s.encRecover

/-- ENC_CORE_FAULT: ECC (1) or parity (2) in an ACTIVE core or in the spare (R262). -/
def encCoreFault (core cause : Nat) (s : State) : State :=
  if core < 25 ∧ (s.get (encState core) = 1 ∨ s.get (encState core) = 2) ∧ (fwRuns s.mode ∨ s.mode = .debugFreeze) then
    s.encFail core (if cause = 2 then 2 else 1)
  else s

/-- ENC_ROW_WATCHDOG: 400 µs on a coding row (R262). -/
def encRowWatchdog (core : Nat) (s : State) : State :=
  match s.encJobs.find? fun j => j.core == core with
  | none => s
  | some job => if stallsExecute s.mode ∧ job.since + 400000 ≤ s.time then s.encFail core 3 else s

/-- ENC_SPARE_ACTIVATE (R262). -/
def encSpareActivate (s : State) : State :=
  if s.spareDue then
    match (upto 25).find? fun c => s.get (encState c) == 2 with
    | some c => { s.put (encState c) 1 with spareDue := false }
    | none => { s with spareDue := false }
  else s

end Sys2Proof.Machine
end

