-- ==== Sys2Proof/Machine/StallMgmt.lean ====
section
/-! DEFINITION. Admission, placement, creation, start, move and destruction of stalls, and binding of microcode sets (R105 –
R107, R139 – R147, R164, R368, R461). -/
namespace Sys2Proof.Machine

/-! ### Admission (R143, R145) -/

/-- Beam units of the stalls placed on a logical stable, out-of-order and in-order group, one stall left out. -/
def State.groups (s : State) (l : Nat) (without : Option Nat) : Nat × Nat :=
  groupUnits ((s.stallsOfL l).filter fun st => some st.num != without)

/-- Cores that two groups need. -/
def coresOf (g : Nat × Nat) : Nat := ceilDiv g.1 48 + ceilDiv g.2 48

/-- The groups fit a stable (R143). -/
def groupsFit (g : Nat × Nat) : Bool := decide (g.1 + g.2 ≤ 192) && decide (coresOf g ≤ 4)

/-- Groups with a stall of weight w counted. -/
def addUnits (g : Nat × Nat) (w : Nat) (ooo : Bool) : Nat × Nat := if ooo then (g.1 + w, g.2) else (g.1, g.2 + w)

/-- A position of a logical stable is taken. -/
def State.posTaken (s : State) (l p : Nat) : Bool := (s.stallsOfL l).any fun st => s.posOf st.num == p

/-- The lowest free position of a logical stable (R140; the choice among free positions is the model's, log entry 83). -/
def State.freePos (s : State) (l : Nat) : Option Nat := (upto 192).find? fun p => !s.posTaken l p

/-- The error codes of R145 and R106 (R456). -/
def eDEVICE_FULL : Nat := 0x10
def eSTABLE_FULL : Nat := 0x11
def eNO_POSITION : Nat := 0x12
def eUCODE_FULL : Nat := 0x13
def eMEMORY_FULL : Nat := 0x14
def eLATE_START : Nat := 0x15
def eNOT_PARKED : Nat := 0x16
def eHOD_DISABLED : Nat := 0x17
def eUCODE_INVALID : Nat := 0x18

/-- The first cause of R145 but UCODE_FULL for a new stall of weight w at position `pos` of stable l. -/
def State.admitErr (s : State) (l w : Nat) (ooo : Bool) (pos : Option Nat) (isNew : Bool) : Option Nat :=
  if isNew ∧ 3072 < s.units + w then some eDEVICE_FULL
  else if !groupsFit (addUnits (s.groups l none) w ooo) then some eSTABLE_FULL
  else match pos with
    | some p => if s.posTaken l p then some eNO_POSITION else none
    | none => some eNO_POSITION

/-- The response to a binding that fails; the micro-op index is 0 where the failure lies in the entry (R106, R456; DESIGN CHOICE, log
entry 58). -/
def bindResp : BindErr → Resp
  | .invalid c u j => { status := eUCODE_INVALID, data := [c + u * 16 + (j.getD 0) * 128] }
  | .full => .err eUCODE_FULL

/-! ### Placement (R141) -/

/-- Write the placement entry of stall k. -/
def State.place (s : State) (k l p : Nat) (c : BeamClass) : State :=
  s.puts [(placeValid k, 1), (placeL k, l), (placePos k, p), (placeClass k, clsIdx c)]

/-- SCH_UNITS as firmware keeps it: beam units and stalls of the device (R169). -/
def State.countUnits (s : State) : State := s.puts [(SCH_UNITS_UNITS, s.units), (SCH_UNITS_STALLS, s.stalls.length)]

def State.unplace (s : State) (k : Nat) : State := s.puts [(placeValid k, 0), (placeL k, 0), (placePos k, 0), (placeClass k, 0)]

/-! ### Ending what belongs to a stall -/

/-- The validation of a commit ends without a result: nothing of its stream is left (R233). -/
def State.dropCommit (s : State) (gone : Nat → Bool) : State :=
  match s.validating with
  | some (n, _) => if gone n then { s.put CMP_COMMIT_BUSY 0 with validating := none } else s
  | none => s

/-- Streams that leave: their queued rows are discarded, those that a core codes too, and their areas are free (R260, R460). -/
def State.dropStreams (s : State) (gone : Nat → Bool) : State :=
  let s := s.dropCommit gone
  let s := s.giveExts ((s.streams.filter fun x => gone x.num).flatMap fun x => x.exts ++ x.bedExts) 0
  let s := { s with encJobs := s.encJobs.map fun (j : RowJob) => if gone j.stream then { j with gone := true } else j
                    streams := s.streams.filter fun x => !gone x.num, encFront := s.encFront.filter fun n => !gone n
                    nets := s.nets.filter fun x => !gone x.num }
  s.recost

/-- The extents that belong to a stall alone (R367). -/
def Stall.areas (st : Stall) : List Nat :=
  st.exts ++ st.ckExts ++ extentsOf st.lineArea (lineBytes st.cls) ++ (match st.lane with | some l => l.exts | none => [])

/-- A stall leaves the device: frames in progress keep it as it stands, and from the next frame its courses are transparent
(R222). -/
def State.keepPicture (s : State) (k : Nat) : State :=
  match s.stall? k with
  | some st => { s with streams := s.streams.map fun x => { x with frames := x.frames.map fun f => { f with gone := f.gone ++ [st] } } }
  | none => s

/-- The extents of stall k, if it exists. -/
def State.areasOf (s : State) (k : Nat) : List Nat := match s.stall? k with | some st => st.areas | none => []

/-- Take stall k out of State, with its input flows unless `keepFlows`, its keys, deliveries, fault records and swap request. -/
def State.forget (s : State) (k : Nat) (keepFlows : Bool) : State :=
  { s with stalls := s.stalls.filter fun st => st.num != k
           flows := s.flows.filter fun f => f.num / 4 != k || keepFlows
           keys := s.keys.filter fun x => x.kind == 3 || x.idx / 4 != k
           links := s.links.filter fun m => m.stall != k
           xfaults := s.xfaults.filter fun x => x.stall != k }

/-- STALL_DESTROY's effect: programs without a post, streams 4s to 4s + 3, lane, input flows, pages, checkpoints and placement
entry are gone (R461); flows that forward stay where `keepFlows` (R412). -/
def State.destroyStall (s : State) (k : Nat) (keepFlows : Bool) : State :=
  let s := (s.keepPicture k).dropStreams fun n => n / 4 == k
  let s := s.giveExts (s.areasOf k) 0
  let s := (s.drainOf k).putResident (s.resident.filter fun n => n / 8 != k)
  (((s.forget k keepFlows).unplace k).countUnits).showRamp

/-! ### Creation and start (R46, R139, R147, R461) -/

/-- The device type of a new stall's subchannel (R298). -/
def deviceOf (t : Title) (i : Nat) : Nat :=
  if i = 0 then (if t.save = 0 then dNONE else dSAVE) else if i = 1 then (if t.media.isEmpty then dNONE else dMEDIA)
  else if i = 2 then dLINK else dNONE

/-- The subchannels of a new stall. -/
def newSubs (t : Title) : List Sub := (upto 8).map fun i => { Sub.reset with ty := deviceOf t i }

/-- Extents of 512 pages that a stall needs in the STALL and CKPT sheds (R367, R368). -/
def stallExts (c : BeamClass) (save : Nat) : Nat := ceilDiv (stallPages c save) 512
def ckptExts (c : BeamClass) : Nat := ceilDiv (ckptPages c) 512

/-- The home stack holds the page table and private pages of a new stall, and the other stack its base image and four records (R368). -/
def State.memFits (s : State) (k : Nat) (c : BeamClass) (save : Nat) : Bool :=
  (s.freeExts (homeStack k) (stallExts c save)).length == stallExts c save &&
    (s.freeExts (1 - homeStack k) (ckptExts c)).length == ckptExts c

/-- Give a new stall its areas: STALL and CKPT extents, and line area with hint maps behind it (R171, R367). -/
def State.giveAreas (s : State) (st : Stall) (save : Nat) : Stall × State :=
  let exts := s.freeExts (homeStack st.num) (stallExts st.cls save)
  let ckExts := s.freeExts (1 - homeStack st.num) (ckptExts st.cls)
  let s := (s.giveExts exts 2).giveExts ckExts 3
  let (a, _, s) := s.allocate 4 (homeStack st.num) (lineBytes st.cls)
  ({ st with exts, ckExts, lineArea := a, hintArea := a + 4 * visW st.cls * visH st.cls }, s)

/-- Enter a new stall with a body on stable l, position p, bound to its set, in areas of its own (R461). -/
def State.enterStall (s : State) (k : Nat) (t : Title) (c : BeamClass) (freeRun : Bool) (lead corecfg ucset l p : Nat) : State :=
  let b := newBody c t.init (List.replicate t.save 0) (newSubs t)
  let (st, s) := s.giveAreas (newStall k t.handle c freeRun lead corecfg ucset s.time b) t.save
  State.countUnits { s.place k l p c with stalls := insertBy (·.num) st s.stalls }

/-- C: the cadence frame that contains CAD_TIME (R147). -/
def State.cadNow (s : State) : Nat := frameAt s.time

/-- Bind the microcode set that a stall's title needs on a slot (R106, R107). -/
def State.rebind (s : State) (k slot : Nat) : Except BindErr Nat × State :=
  match s.stall? k with
  | none => (.ok 0x1F, s)
  | some st => s.bindTitle slot ((s.title? st.title).bind (·.ucs))

/-- Set UCSET of stall k. -/
def State.setUcs (s : State) (k u : Nat) : State := s.onStall k fun st => { st with ucset := u }

/-! ### Moves (R164) -/

/-- Why a move of a stall to stable l is refused before it begins (R145, R164, R524). -/
def State.moveErr (s : State) (st : Stall) (l : Nat) : Option Nat :=
  let here := s.get (placeValid st.num) == 1 && s.get (placeL st.num) == l
  if here ∨ st.sched = .halted then some 6
  else match s.admitErr l (weight st.cls) (groupOoo false st) (s.freePos l) false with
    | some e => some e
    | none => if (s.slotOfL l).isNone then some 6 else none

/-- The stall's microcode set cannot be bound on the slot that carries stable l (R143, R145). -/
def State.moveUnbound (s : State) (k l : Nat) : Option BindErr :=
  match s.slotOfL l with
  | some slot => match (s.rebind k slot).1 with | .error e => some e | .ok _ => none
  | none => none

/-- The stall must first end a locked sequence before it can be parked for the move (R155, R164). -/
def State.moveHolds (s : State) (k l : Nat) : Bool :=
  match s.stall? k with
  | some st => !canPark st && decide (st.sched ≠ .parked) && (s.moveErr st l).isNone && (s.moveUnbound k l).isNone
  | none => false

/-- A move ends without effect: a stall already parked for it resumes (R164). -/
def State.endMove (s : State) (k : Nat) : State :=
  match s.stall? k with
  | some st => if st.reasons.contains rsnMOVE then s.unpark k rsnMOVE else s
  | none => s

/-- Stall k parks, is placed at position p of stable l with its set bound in `slot`, and goes on (R164 steps 2 – 5). -/
def State.moveTo (s : State) (k l p slot : Nat) (cls : BeamClass) : State :=
  let fenced := (s.slotOf k).isNone
  let bound := (s.park k rsnMOVE false).rebind k slot
  let u := match bound.1 with | .ok u => u | .error _ => 0x1F
  let s := (bound.2.place k l p cls).setUcs k u
  let s := s.unpark k rsnDRAIN
  let s := if fenced then s.unpark k rsnFENCE else s
  let s := if s.get (atSlot STB_CTL_DRAIN slot) = 1 then s.park k rsnDRAIN false else s
  s.unpark k rsnMOVE

/-- STALL_MOVE's effect: admission on the target, the binding among it, then park, bind, move, resume. Leaving a fenced or draining slot clears
FENCE and DRAIN (R156, R164). -/
def State.moveStall (s : State) (k l : Nat) : State × Resp :=
  match s.stall? k with
  | none => (s, .err 7)
  | some st =>
    match s.moveErr st l, s.freePos l, s.slotOfL l with
    | some e, _, _ => (s.endMove k, .err e)
    | none, some p, some slot =>
      match s.moveUnbound k l with
      | some e => (s.endMove k, bindResp e)
      | none =>
        (s.moveTo k l p slot st.cls, .ok)
    | none, _, _ => (s.endMove k, .err 6)

end Sys2Proof.Machine
end

