-- ==== Sys2Proof/Machine/Yard.lean ====
section
/-! DEFINITION. LINK deliveries, input latches and the yard transport: packets, paths, peers, sequence spaces, HELLOs and routes
(R35, R389, R402 – R409, R415). -/
namespace Sys2Proof.Machine

/-! ### Latching at a stall (R35, R389, R409) -/

/-- The tick of the first line boundary of a stall that has not begun executing, from its saved TICK where it is parked, as it is while
it migrates (R35, R38, R412). -/
def latchBound (st : Stall) : Nat :=
  lineUp st.cls (max (if st.sched = .parked then st.tick else st.last) (max st.begun (st.replayTo.getD 0)))

/-- Inputs of a player that are latched and not yet visible. -/
def pendingInputs (st : Stall) (player : Nat) : Nat := (st.latched.filter fun x => !x.link && x.who == player).length

/-- Latch an input of a player at CAD_TIME `at_`, or count it where the pending queue of 16 is full (R389). -/
def State.latchAt (s : State) (k player seq : Nat) (data : Bytes) (at_ : Nat) : State :=
  match s.stall? k with
  | none => s
  | some st =>
    if st.imported then s
    else if 16 ≤ pendingInputs st player then s.inc YRD_IN_DROP_QFULL
    else s.setStall { st with latched := st.latched ++ [{ bound := latchBound st, link := false, who := player, seq, data, at_ }] }

/-- Latch an input of a player now. -/
def State.latchInput (s : State) (k player seq : Nat) (data : Bytes) : State := s.latchAt k player seq data s.time

/-- A forwarded input for a stall that is still to come by migration: its flow's queue of 16 keeps it, with the moment of its latch
(R389, R412). -/
def State.latchEarly (s : State) (k player seq : Nat) (data : Bytes) : State :=
  if 16 ≤ (s.early.filter fun x => x.1 == k && x.2.who == player).length then s.inc YRD_IN_DROP_QFULL
  else { s with early := s.early ++ [(k, { bound := 0, link := false, who := player, seq, data, at_ := s.time })] }

/-- The stall has come: what was forwarded to it enters its queues (R412). -/
def State.admitEarly (s : State) (k : Nat) : State :=
  let mine := s.early.filter fun x => x.1 == k
  mine.foldl (fun (s : State) x => s.latchAt k x.2.who x.2.seq x.2.data x.2.at_) { s with early := s.early.filter fun x => x.1 != k }

/-- YRD_LINKLAT in ns (R409, R416). -/
def State.linkLat (s : State) : Nat := 1000 * min 10000 (s.get YRD_LINKLAT_MICROS)

/-- A delivery for a stall of this device enters its release queue. -/
def State.linkIn (s : State) (stall sub seq : Nat) (release : Int) (data : Bytes) : State :=
  { s with links := s.links ++ [{ stall, sub, seq, release, late := decide (release < (s.time : Int)), data }] }

/-- The delivery released first. -/
def firstLink : List LinkMsg → Option LinkMsg
  | [] => none
  | m :: r => match firstLink r with
    | some n => if n.release < m.release then some n else some m
    | none => some m

/-- LINK_RELEASE: a delivery whose release time has come is latched at its stall (R322, R409). -/
def linkRelease (s : State) : State :=
  match firstLink s.links with
  | none => s
  | some m =>
    if (s.time : Int) < m.release then s
    else
      let s := { s with links := s.links.erase m }
      let s := if m.late then s.inc YRD_LINK_LATE_COUNT else s
      match s.stall? m.stall with
      | none => s.inc YRD_LINK_LOST_COUNT
      | some st =>
        if st.imported then s
        else s.setStall { st with latched := st.latched ++ [{ bound := latchBound st, link := true, who := m.sub, seq := m.seq, data := m.data, at_ := s.time }] }

/-! ### Packets (R403) -/

/-- Fields of YRD_PORTn. -/
def portCtl (n : Nat) (f : Fld) : Fld := f.nth 32 n

/-- Port n is UP. -/
def State.portUp (s : State) (n : Nat) : Bool := s.get (portCtl n YRD_PORT_STAT_STATE) == 2

/-- The MAC address of port n (R384). -/
def portMac (n : Nat) : Nat := (Config.macBase.toNat + n) % 2 ^ 48

/-- The yard key, empty where none is set. -/
def State.yardKey (s : State) : Bytes := match s.keys.find? fun k => k.kind == 3 with | some k => k.key | none => []

/-- The packet engine runs and the device takes part in the yard: attached, with a yard number and a key that no earlier attach used
(R402). -/
def State.attached (s : State) : Bool :=
  let y := s.get YRD_NUMBER_YARD
  s.get YRD_CTL_EN == 1 && s.get YRD_CTL_ATTACH == 1 && s.yardOn && !s.yardKey.isEmpty && y != 0 && y != 0xFFFFF

/-- The device joins the yard: the key is spent, and every peer and packet number starts anew (R402, R403). -/
def State.joinYard (s : State) : State :=
  { s with mcastPn := 0, peers := [], helloPns := [], yardKeyUsed := true, yardOn := true, leaving := List.replicate 8 0 }

/-- The device joins once ATTACH is 1 and an unused key is there (R402). -/
def State.mayJoin (s : State) : State :=
  if s.get YRD_CTL_ATTACH = 1 ∧ !s.yardOn ∧ !s.yardKeyUsed ∧ !s.yardKey.isEmpty then s.joinYard else s

/-- DST_YARD of a HELLO. -/
def yBROADCAST : Nat := 0xFFFFF

/-- The 32-byte header; fields are big-endian. -/
def yHeader (ty hops cls src dst pn seq len : Nat) : Bytes :=
  beBytes 1 1 ++ beBytes 1 ty ++ beBytes 1 hops ++ beBytes 1 cls ++ beBytes 4 src ++ beBytes 4 dst ++ beBytes 8 pn ++
    beBytes 8 seq ++ beBytes 2 len ++ beBytes 2 0

/-- The nonce: SRC_YARD, DST_YARD, PN. -/
def yNonce (src dst pn : Nat) : Bytes := beBytes 12 (src * 2 ^ 76 + dst * 2 ^ 56 + pn)

/-- What the tag covers of a header: HOPS, which a relay decrements (R406), counts as 0. -/
def yAad (h : Bytes) : Bytes := sliceBytes h 0 2 ++ [0] ++ sliceBytes h 3 29

/-- A yard packet from yard number `src`. -/
def State.yPacket (s : State) (src ty hops cls dst pn seq : Nat) (data : Bytes) : Bytes :=
  let h := yHeader ty hops cls src dst pn seq data.length
  h ++ Config.gcmSeal s.yardKey (yNonce src dst pn) (yAad h) data

/-- The link-local address of a MAC address by the modified EUI-64 rule (R384). -/
def linkLocal (mac : Nat) : Bytes :=
  let m := beBytes 6 mac
  beBytes 8 0xFE80000000000000 ++ [nthD m 0 0 ^^^ 2, nthD m 1 0, nthD m 2 0, 0xFF, 0xFE, nthD m 3 0, nthD m 4 0, nthD m 5 0]

/-- The multicast address of HELLOs, ff02::5c07, and the MAC address that RFC 2464 gives it (PRESUMED, log entry 103) (R404). -/
def yardGroup : Bytes := beBytes 16 (0xFF02 * 2 ^ 112 + 0x5C07)
def yardGroupMac : Nat := 0x333300005C07

/-- Send a yard packet from a port to a MAC address and an IPv6 address: both UDP ports are YRD_UDPPORT, untagged, DSCP 0 (DESIGN CHOICE
for the source port and the DSCP, log entry 103) (R402). -/
def State.ySendTo (s : State) (port mac : Nat) (dst data : Bytes) : State :=
  let u := s.get YRD_UDPPORT_PORT
  s.emit (.packet port { mac, tci := none, dscp := 0, ipv6 := true, src := linkLocal (portMac port), dst, sport := u, dport := u, data })

/-! ### Priority on a port (R396, R399) -/

/-- MAX of a stream in kbit/s. -/
def State.maxOf (s : State) (n : Nat) : Nat := match s.stream? n with | some x => x.esd.max | none => 0

/-- The bucket of a stream at the present time (R396). -/
def bucketNow (x : NetStream) (max_ time : Nat) : Nat := min (leAt x.desc 80 4 * 1000000000) (x.bucket + (time - x.fillAt) * max_ * 125)

/-- Audio waits on the port. -/
def State.audioWaits (s : State) (port : Nat) : Bool := s.nets.any fun x => x.port == port && !x.aq.isEmpty

/-- Audio waits on the port, or video that its bucket lets go: link, forwarded and bulk traffic stay behind them (R399). -/
def State.mediaWaits (s : State) (port : Nat) : Bool :=
  s.audioWaits port || s.nets.any fun x => x.port == port && match x.vq with
    | p :: _ => decide (p.size * 1000000000 ≤ bucketNow x (s.maxOf x.num) s.time)
    | [] => false

/-- The place of a class of DATA in the order of R399: control, then link and forwarded input, then bulk. -/
def clsRank (cls : Nat) : Nat := if cls = 0 then 0 else if cls ≤ 2 then 1 else 2

/-! ### Peers and paths (R405 – R408) -/

def State.peer? (s : State) (y : Nat) : Option Peer := s.peers.find? fun p => p.yard == y

def State.setPeer (s : State) (p : Peer) : State := { s with peers := s.peers.map fun q => if q.yard == p.yard then p else q }

/-- The valid paths of the lowest hop count to a yard, up to 4 (R405). -/
def State.yPaths (s : State) (y : Nat) : List YPath :=
  let ps := (s.routes.filter fun r => r.yard == y).flatMap (·.paths)
  let low := ps.foldl (fun m p => min m p.hops) 4
  (ps.filter fun p => p.hops == low).take 4

/-- Note for every peer since when it has had no route (R408). -/
def State.notePaths (s : State) : State :=
  { s with peers := s.peers.map fun p =>
      if (s.yPaths p.yard).isEmpty then { p with noRoute := some (p.noRoute.getD s.time) } else { p with noRoute := none } }

/-- The path over which the next packet to a peer goes: those of the lowest hop count in turn (R405); none while the packet numbers are
spent, or in DEBUG_FREEZE, where the engine sends HELLO and PTP alone (R403, R529). -/
def State.yPath (s : State) (p : Peer) : Option YPath :=
  if 2 ^ 56 ≤ p.txPn ∨ s.mode = .debugFreeze then none
  else
    let l := s.yPaths p.yard
    l[p.turn % l.length]?

/-- Send a packet to a peer over its next path; without one nothing is sent. -/
def State.ySend (s : State) (p : Peer) (ty cls seq : Nat) (data : Bytes) : Peer × State :=
  match s.yPath p with
  | none => (p, s)
  | some q =>
    let pk := s.yPacket (s.get YRD_NUMBER_YARD) ty (q.hops - 1) cls p.yard p.txPn seq data
    ({ p with txPn := p.txPn + 1, turn := if ty = 1 then p.turn + 1 else p.turn }, s.ySendTo q.port q.mac (linkLocal q.mac) pk)

/-- Waiting DATA of a class may leave now: there is room in the window of 256, and nothing of a higher place waits on the port (R399,
R407). -/
def State.dataMay (s : State) (p : Peer) (cls : Nat) : Bool :=
  decide (p.unacked.length < 256) && match s.yPath p with
    | some q => cls == 0 || !s.mediaWaits q.port
    | none => false

/-- Move waiting DATA into the window and send it, each with the next SEQ (R407). -/
def State.pump : Nat → State → Peer → State
  | 0, s, p => s.setPeer p
  | n + 1, s, p =>
    match p.queued with
    | [] => s.setPeer p
    | d :: r =>
      if s.dataMay p d.cls then
        let d := { d with seq := p.txSeq }
        let advAt := if p.unacked.isEmpty then s.time else p.advAt
        let (p, s) := s.ySend { p with queued := r, unacked := p.unacked ++ [d], txSeq := p.txSeq + 1, advAt, resentAt := max p.resentAt advAt }
          1 d.cls d.seq d.data
        State.pump n s p
      else s.setPeer p

def State.pumpPeer (s : State) (p : Peer) : State := State.pump p.queued.length s p

/-- A port has become free: what waits behind media goes on (R399). -/
def State.pumpAll (s : State) : State :=
  (s.peers.map (·.yard)).foldl (fun s y => match s.peer? y with | some p => s.pumpPeer p | none => s) s

/-- Send payload of a class to a device, ahead of what waits for it in a lower place; toward an unreachable device link deliveries are
lost (R399, R402, R407, R408). -/
def State.yardSend (s : State) (y cls : Nat) (data : Bytes) : State :=
  let lost := if cls = 1 then s.inc YRD_LINK_LOST_COUNT else s
  if !s.attached then lost
  else
    let s1 := match s.peer? y with | some _ => s | none => ({ s with peers := s.peers ++ [Peer.new y s.time] }).notePaths
    match s1.peer? y with
    | some p =>
      if p.up then s1.pumpPeer { p with queued := insertBy (fun d => clsRank d.cls) { seq := 0, cls, data, at_ := s.time } p.queued } else lost
    | none => lost

/-- Send long payload as packets of up to 8,960 bytes. -/
def State.yardSendLong (cls y : Nat) : Nat → State → Bytes → State
  | 0, s, _ => s
  | n + 1, s, bs => if bs.isEmpty then s else State.yardSendLong cls y n (s.yardSend y cls (bs.take 8960)) (bs.drop 8960)

/-- Give a delivery of subchannel i of a stall to its peer; `tick` is the sending brick's last tick (R322, R409). -/
def State.linkOut (s : State) (st : Stall) (i tick seq : Nat) (data : Bytes) : State :=
  match (st.sub i).peer with
  | none => s
  | some (y, k, j) =>
    let rel : Int := realTime st.cls (st.f0.getD 0) tick + s.linkLat
    if y = 0 ∨ y = s.get YRD_NUMBER_YARD then s.linkIn k j seq rel data
    else s.yardSend y 1 (beBytes 4 (k % 4096 + j * 4096) ++ beBytes 8 rel.toNat ++ beBytes 4 seq ++ data)

/-! ### Reception (R403, R406, R407) -/

/-- The packet of the yard transport that waits first, where its TYPE is the one given. -/
def State.takeYard (s : State) (ty : Nat) : Option Ingress :=
  match s.ingress.find? fun x => x.kind == 1 with
  | some x => if beAt x.data 1 1 = ty then some x else none
  | none => none

/-- The PN is one of those accepted, or lies below all of them (R403). -/
def pnSeen (pns : List Nat) (pn : Nat) : Bool := pns.contains pn || match pns with | lo :: _ => decide (pn < lo) | [] => false

/-- Insert a PN, the highest 1,024 kept. -/
def pnInsert (pns : List Nat) (pn : Nat) : List Nat :=
  let l := insertBy (fun n => n) pn pns
  l.drop (l.length - 1024)

/-- The plaintext of a packet whose tag verifies and whose length is its LEN. -/
def State.yardOpen (s : State) (d : Bytes) : Option Bytes :=
  let h := sliceBytes d 0 32
  let src := beAt d 4 4
  let dst := beAt d 8 4
  if d.length < 48 ∨ d.length ≠ 48 + beAt d 28 2 ∨ s.yardKey.isEmpty ∨ beAt d 12 8 ≥ 2 ^ 56 then none
  else Config.gcmOpen s.yardKey (yNonce src dst (beAt d 12 8)) (yAad h) (d.drop 32)

/-- Relay a packet for another device, HOPS decremented, or discard it (R406). -/
def State.relay (s : State) (d : Bytes) : State :=
  if beAt d 2 1 = 0 then s.inc YRD_YARD_DROP_HOPS
  else match s.yPaths (beAt d 8 4) with
    | [] => s
    | p :: _ => s.ySendTo p.port p.mac (linkLocal p.mac) (sliceBytes d 0 2 ++ beBytes 1 (beAt d 2 1 - 1) ++ d.drop 3)

/-- Take the next packet of a TYPE for this device: its sender, SEQ or ACKSEQ, CLASS and plaintext; a packet for another device
is relayed, one that fails is counted (R403, R406). -/
def State.yardTake (s : State) (ty : Nat) : Option (Peer × Nat × Nat × Bytes) × State :=
  match s.takeYard ty with
  | none => (none, s)
  | some x =>
    let s := { s with ingress := s.ingress.erase x }
    if !s.attached then (none, s)
    else if beAt x.data 8 4 ≠ s.get YRD_NUMBER_YARD then (none, s.relay x.data)
    else
      let src := beAt x.data 4 4
      let pn := beAt x.data 12 8
      let p := (s.peer? src).getD (Peer.new src s.time)
      match s.yardOpen x.data with
      | none => (none, s.inc YRD_YARD_DROP_AUTH)
      | some pt =>
        if pnSeen p.rxPns pn then (none, s.inc YRD_YARD_DROP_AUTH)
        else
          let s := if (s.peer? src).isSome then s else { s with peers := s.peers ++ [p] }
          let p := { p with rxPns := pnInsert p.rxPns pn }
          (some (p, beAt x.data 20 8, beAt x.data 3 1, pt), s.setPeer p)

/-- Deliver DATA of a yard to its class handler: control messages, link deliveries and forwarded inputs (R389, R391, R409, R412). The
formats of classes 3 and 4 are not given: their contents reach the commands of paging and migration as operands (log entry 47). -/
def State.deliverData (s : State) (y : Nat) (d : YData) : State :=
  match d.cls with
  | 0 => { s with ingress := s.ingress ++ [{ kind := 4, port := 0, who := y, mac := 0, data := d.data, at_ := s.time }] }
  | 1 => s.linkIn (beAt d.data 0 4 % 4096) (beAt d.data 0 4 / 4096 % 8) (beAt d.data 12 4) (beAt d.data 4 8 : Nat) (d.data.drop 16)
  | 2 =>
    let k := beAt d.data 0 2 % 4096
    let link := beAt d.data 2 1 % 4
    if (s.stall? k).isSome then s.latchInput k link (beAt d.data 4 8) (sliceBytes d.data 12 16)
    else s.latchEarly k link (beAt d.data 4 8) (sliceBytes d.data 12 16)
  | _ => s

/-- Send an ACK. -/
def State.sendAck (s : State) (p : Peer) : State :=
  let (p, s) := s.ySend { p with rxDue := 0 } 2 0 p.rxExp []
  s.setPeer p

/-- The bitmap of a NAK: bit j is set where SEQ rxExp + 1 + j is missing below the highest SEQ known (R403). -/
def nakBitmap (p : Peer) (top : Nat) : Nat :=
  (upto 64).foldl (fun a j => let q := p.rxExp + 1 + j; if q < top ∧ !(p.rxHeld.any fun d => d.seq == q) then a + 2 ^ j else a) 0

/-- Send a NAK; `top` is the highest SEQ known to have been sent. -/
def State.sendNak (s : State) (p : Peer) (top : Nat) : State :=
  let (p, s) := s.ySend { p with nakAt := some s.time } 3 0 p.rxExp (beBytes 8 (nakBitmap p top))
  s.setPeer p

/-- A packet delivered to its handler: an ACK follows every 16 (R407). -/
def State.deliverNext (s : State) (p : Peer) (d : YData) : State × Peer :=
  let s := s.deliverData p.yard d
  let p := { p with rxExp := p.rxExp + 1, rxHeld := p.rxHeld.erase d, rxSince := if p.rxDue = 0 then s.time else p.rxSince, rxDue := p.rxDue + 1 }
  if 16 ≤ p.rxDue then let (p, s) := s.ySend { p with rxDue := 0 } 2 0 p.rxExp []; (s, p) else (s, p)

/-- Deliver held packets that are now in order. -/
def State.drainHeld : Nat → State → Peer → State × Peer
  | 0, s, p => (s, p)
  | n + 1, s, p =>
    match p.rxHeld.find? fun d => d.seq == p.rxExp with
    | some d => let (s, p) := s.deliverNext p d; State.drainHeld n s p
    | none => (s, p)

/-- Since when the first gap has stood: since the first packet above it came (R407). -/
def Peer.gapAt (p : Peer) : Option Nat := p.rxHeld.foldl (fun m d => match m with | none => some d.at_ | some t => some (min t d.at_)) none

/-- The next DATA packet is taken: delivered in order, held or answered (R407). -/
def yardDataTake (s : State) : State :=
  match s.yardTake 1 with
  | (none, s) => s
  | (some (p, seq, cls, pt), s) =>
    if seq < p.rxExp ∨ p.rxHeld.any (fun d => d.seq == seq) then s.sendAck p
    else if p.rxExp + 64 ≤ seq then s.sendNak p seq
    else
      let exp := p.rxExp
      let (s, p) := State.drainHeld 65 s { p with rxHeld := p.rxHeld ++ [{ seq, cls, data := pt, at_ := s.time }] }
      s.setPeer { p with nakAt := if p.rxExp = exp then p.nakAt else none }

/-- YARD_ACK_RECEIVE: the window advances (R407). -/
def yardAckReceive (s : State) : State :=
  match s.yardTake 2 with
  | (none, s) => s
  | (some (p, a, _, _), s) =>
    let left := p.unacked.filter fun d => decide (a ≤ d.seq)
    if left.length < p.unacked.length then s.pumpPeer { p with unacked := left, advAt := s.time, resentAt := s.time } else s

/-- Send DATA packets again, each with a new PN (R403). -/
def State.resend (s : State) (p : Peer) (l : List YData) : State :=
  let (p, s) := l.foldl (fun (a : Peer × State) d => a.2.ySend a.1 1 d.cls d.seq d.data) (p, s)
  s.setPeer p

/-- YARD_NAK_RECEIVE (R407). -/
def yardNakReceive (s : State) : State :=
  match s.yardTake 3 with
  | (none, s) => s
  | (some (p, a, _, pt), s) =>
    let bm := beAt pt 0 8
    s.resend p (p.unacked.filter fun d => d.seq == a || (decide (a < d.seq) && decide (d.seq - a - 1 < 64) && bitAt bm (d.seq - a - 1)))

/-- ACK_TIMER (R407). -/
def ackTimer (y : Nat) (s : State) : State :=
  match s.peer? y with
  | some p => if s.attached ∧ 0 < p.rxDue ∧ p.rxSince + 20000 ≤ s.time then s.sendAck p else s
  | none => s

/-- NAK_TIMER (R407). -/
def nakTimer (y : Nat) (s : State) : State :=
  match s.peer? y with
  | some p => match p.gapAt with
    | some t =>
      if s.attached ∧ t + 20000 ≤ s.time ∧ p.nakAt.isNone then s.sendNak p (p.rxHeld.foldl (fun m d => max m d.seq) 0) else s
    | none => s
  | none => s

/-- RETRANSMIT_TIMEOUT (R407). -/
def retransmitTimeout (y : Nat) (s : State) : State :=
  match s.peer? y with
  | some p =>
    if s.attached ∧ !p.unacked.isEmpty ∧ max p.advAt p.resentAt + 200000 ≤ s.time then s.resend { p with resentAt := s.time } p.unacked else s
  | none => s

/-! ### HELLOs and routes (R404, R405) -/

/-- Yards heard directly, each once. -/
def State.heardYards (s : State) : List Nat := s.heard.foldl (fun l h => addNew h.yard l) []

/-- Devices heard directly on a port show in PEERS. -/
def State.notePeers (s : State) (port : Nat) : State :=
  s.put (portCtl port YRD_PORT_STAT_PEERS) (min 255 (s.heard.filter fun h => h.port == port).length)

/-- HELLO_SEND on a port (R404, R415). -/
def helloSend (port : Nat) (s : State) : State :=
  let left := nthD s.leaving port 0
  if 8 ≤ port ∨ !s.portUp port ∨ s.get YRD_CTL_EN = 0 ∨ s.time < nthD s.helloAt port 0 + 100000 ∨
      (!s.attached ∧ left = 0) ∨ 2 ^ 56 ≤ s.mcastPn then s
  else
    let n := nthD s.hellos port 0 + 1
    let list := if n % 1000 = 0 then s.heardYards.take 32 else []
    let own := if 0 < left then s.leaveYard else s.get YRD_NUMBER_YARD
    let pay := beBytes 4 (own + b2n (decide (0 < left)) * 2 ^ 20 + b2n (n % 1000 == 0) * 2 ^ 21) ++
      beBytes 1 port ++ beBytes 1 list.length ++ beBytes 2 0 ++ list.flatMap fun y => beBytes 4 y
    let s := s.ySendTo port yardGroupMac yardGroup (s.yPacket own 4 0 0 yBROADCAST s.mcastPn 0 pay)
    { s with
      mcastPn := s.mcastPn + 1, hellos := setNth s.hellos port n, helloAt := setNth s.helloAt port s.time
      leaving := setNth s.leaving port (left - 1) }

/-- A route entry as the table holds it (R405). -/
def YRoute.bytes (r : YRoute) : Bytes :=
  let path (p : YPath) : Bytes := beBytes 6 p.mac ++ leBytes 1 (p.port + 8) ++ leBytes 1 p.hops
  leBytes 4 (r.yard + 2 ^ 31) ++ leBytes 4 0 ++ sliceBytes (r.paths.flatMap path) 0 32 ++ leBytes 8 0

/-- The address of a route entry (R405). -/
def State.routeAddr (s : State) (e : Nat) : Nat := s.get YRD_ROUTE_BASE_BASE * 512 + 48 * e

/-- Set the route table: the entries that change are written, and those that go are cleared (R405). -/
def State.setRoutes (s : State) (l : List YRoute) : State :=
  let gone := s.routes.filter fun r => !l.any fun q => q.entry == r.entry
  let new := l.filter fun r => !s.routes.any fun q => q.entry == r.entry && q.bytes == r.bytes
  let s := gone.foldl (fun (s : State) r => s.hbmWrite (s.routeAddr r.entry) (List.replicate 48 0)) { s with routes := l }
  new.foldl (fun s r => s.hbmWrite (s.routeAddr r.entry) r.bytes) s

/-- Drop the paths that satisfy a condition; entries without a path go. -/
def State.dropPaths (s : State) (bad : YRoute → YPath → Bool) : State :=
  let l : List YRoute := s.routes.map fun r => { r with paths := r.paths.filter fun p => !bad r p }
  (s.setRoutes (l.filter fun r => !r.paths.isEmpty)).notePaths

/-- The lowest unused route entry. -/
def State.freeRoute (s : State) : Option Nat := (upto 4096).find? fun i => !(s.routes.any fun r => r.entry == i)

/-- Learn or refresh a path of a yard; a table entry holds up to 4 paths (R405). -/
def State.learn (s : State) (y : Nat) (p : YPath) : State :=
  match s.routes.find? fun r => r.yard == y with
  | some r =>
    let same (q : YPath) : Bool := q.mac == p.mac && q.port == p.port && q.hops == p.hops
    let paths := if r.paths.any same then r.paths.map fun q => if same q then p else q
      else insertBy (·.hops) p r.paths |>.take 4
    s.setRoutes (s.routes.map fun q => if q.yard == y then { q with paths } else q)
  | none => match s.freeRoute with
    | some e => s.setRoutes (s.routes ++ [{ entry := e, yard := y, paths := [p] }])
    | none => s

/-- A 1-hop path through which a neighbour is gone takes its 2-hop paths along (R405). -/
def State.dropNeighbour (s : State) (y port : Nat) : State :=
  let s := s.dropPaths fun r p => r.yard == y && p.port == port && p.hops == 1
  s.dropPaths fun _ p => p.hops == 2 && p.via == y && p.port == port

/-- Hardware routing learns (R405, R467). -/
def State.learns (s : State) : Bool := !s.split spROUTE

/-- A peer becomes reachable again at its first HELLO, with new sequence spaces (R408), unless the packet numbers toward it are spent
(R403). -/
def State.peerUp (s : State) (y : Nat) : State :=
  match s.peer? y with
  | some p => if p.up ∨ 2 ^ 56 ≤ p.txPn then s else (s.setPeer { Peer.new y s.time with txPn := p.txPn, rxPns := p.rxPns }).raise 0x07A
  | none => { s with peers := s.peers ++ [Peer.new y s.time] }

/-- HELLO_RECEIVE (R404, R405, R408). -/
def helloReceive (s : State) : State :=
  match s.takeYard 4 with
  | none => s
  | some x =>
    let s := { s with ingress := s.ingress.erase x }
    if !s.attached then s
    else match s.yardOpen x.data with
      | none => s.inc YRD_YARD_DROP_AUTH
      | some pt =>
        let src := beAt x.data 4 4
        let pn := beAt x.data 12 8
        let own := s.get YRD_NUMBER_YARD
        let seen := (lookupN src s.helloPns).getD []
        if src = own then
          if x.mac ≠ portMac x.port ∧ !((upto 8).any fun n => portMac n == x.mac) then (s.put YRD_NUMBER_CONFLICT 1).raise 0x079 else s
        else if pnSeen seen pn then s.inc YRD_YARD_DROP_AUTH
        else
          let s := { s with helloPns := insertN src (pnInsert seen pn) s.helloPns }
          let w := beAt pt 0 4
          let leaving := bitAt w 20
          let s := if s.learns then s else s.notice nHello x.port (src + b2n leaving * 2 ^ 20) x.mac
          if leaving then
            let s := { s with heard := s.heard.filter fun h => !(h.yard == src && h.port == x.port) }
            (if s.learns then s.dropNeighbour src x.port else s).notePeers x.port
          else
            let s := s.peerUp src
            let others : List Heard := s.heard.filter fun h => !(h.yard == src && h.port == x.port)
            let one : Heard := ⟨x.port, src, x.mac, s.time⟩
            let s := { s with heard := others ++ [one] }
            let s := s.notePeers x.port
            if !s.learns then s
            else
              let s := s.learn src { mac := x.mac, port := x.port, hops := 1, heard := s.time, via := 0 }
              let s := if bitAt w 21 then
                  let ns := (upto (min 32 (beAt pt 5 1))).map fun i => beAt pt (8 + 4 * i) 4 % 2 ^ 20
                  let s := s.dropPaths fun r p => p.hops == 2 && p.via == src && p.port == x.port && !ns.contains r.yard
                  (ns.filter fun y => y != own).foldl (fun s y => s.learn y { mac := x.mac, port := x.port, hops := 2, heard := s.time, via := src }) s
                else s
              s.notePaths

/-- ROUTE_TIMEOUT: a neighbour on a port has missed 3 HELLOs (R405). -/
def routeTimeout (port y : Nat) (s : State) : State :=
  match s.heard.find? fun h => h.port == port && h.yard == y with
  | some h =>
    if h.at_ + 300000 ≤ s.time then
      let s := { s with heard := s.heard.erase h }
      (if s.learns then s.dropNeighbour y port else s).notePeers port
    else s
  | none => s

end Sys2Proof.Machine
end

