-- ==== Sys2Proof/Machine/Net.lean ====
section
/-! DEFINITION. Yard ports, the ingress classifier, player input, streams on the wire, RTCP, PTP and the classifier's loads
(R384 – R401). -/
namespace Sys2Proof.Machine

/-! ### Ports (R384, R385) -/

def evPortDown : Nat := 0x078

/-- FLT_DEGRADE.PORT is kept while any port is FAILED (R501). -/
def State.notePorts (s : State) : State :=
  s.setDegrade FLT_DEGRADE_PORT (b2n ((upto 8).any fun n => s.get (portCtl n YRD_PORT_STAT_STATE) == 3))

/-- PORT_TRAINED: the partner of a FAILED port restarts start-up, and the port is TRAINING; a port in training comes UP (R384, R385). -/
def portTrained (n : Nat) (s : State) : State :=
  let st := s.get (portCtl n YRD_PORT_STAT_STATE)
  if n < 8 ∧ s.get (portCtl n YRD_PORT_CTL_EN) = 1 ∧ st ≠ 2 then (s.put (portCtl n YRD_PORT_STAT_STATE) (if st = 3 then 1 else 2)).notePorts else s

/-- PORT and ALTPORT of a network descriptor (R392). -/
def ndPort (d : Bytes) : Nat := leAt d 1 1 % 8
def ndAlt (d : Bytes) : Nat := leAt d 1 1 / 8 % 8
def ndAltEn (d : Bytes) : Bool := bitAt (leAt d 1 1) 6
def ndEn (d : Bytes) : Bool := bitAt (leAt d 0 1) 0

/-- A stream after its port has failed: it moves to ALTPORT, its records in progress again from their first packets with the numbers
they have, or loses what was queued (R385). -/
def moveOff (p : Nat) (x : NetStream) : NetStream :=
  if x.port ≠ p then x
  else if ndAltEn x.desc then { x with port := ndAlt x.desc, vq := x.vrec, aq := x.arec }
  else { x with vq := [], vrec := [], vnum := 0, aq := [], arec := [], anum := 0 }

/-- PORT_FAIL (R385, R496). -/
def portFail (n : Nat) (s : State) : State :=
  if n < 8 ∧ s.portUp n then
    let s := s.recordFault 5 n
    let s := (s.put (portCtl n YRD_PORT_STAT_STATE) 3).raise evPortDown
    let s := s.dropPaths fun _ p => p.port == n
    let s := { s with nets := s.nets.map (moveOff n), heard := s.heard.filter fun h => h.port != n }
    (s.notePeers n).notePorts
  else s

/-! ### Addresses and tuples (R384, R386) -/

/-- The link-local address of a port (R384). -/
def isLinkLocal (port : Nat) (a : Bytes) : Bool := a == linkLocal (portMac port)

/-- A service address in use. -/
def State.service (s : State) (ipv6 : Bool) (a : Bytes) : Bool := s.addrs.any fun x => x.ipv6 == ipv6 && x.addr == a

/-- The solicited-node multicast address ff02::1:ff00:0/104 of an address (RFC 4291). -/
def solicited (a : Bytes) : Bytes := beBytes 13 0xFF0200000000000000000001FF ++ a.drop 13

/-- An address of the device on a port, or the group that solicits one of them (R384, R386). -/
def State.ownAddr (s : State) (port : Nat) (ipv6 : Bool) (a : Bytes) : Bool := s.service ipv6 a || (ipv6 && isLinkLocal port a)
def State.soliciting (s : State) (port : Nat) (a : Bytes) : Bool :=
  a == solicited (linkLocal (portMac port)) || s.addrs.any fun x => x.ipv6 && a == solicited x.addr

/-- The port's MAC layer takes a frame for its own address or a group; another unicast address is not the port's, and the frame is
discarded uncounted (DEDUCED, log entry 67) (R384). -/
def macTakes (port mac : Nat) : Bool := mac == portMac port || bitAt (mac / 2 ^ 40) 0

/-- A frame's IP layer: IPv6, protocol, source and destination addresses, payload. -/
structure IpPkt where
  ipv6 : Bool
  proto : Nat
  src  : Bytes
  dst  : Bytes
  data : Bytes

/-- The payload's type and bytes behind at most one 802.1Q tag; none behind more. -/
def etherPayload (f : Bytes) : Option (Nat × Bytes) :=
  let tag (t : Nat) : Bool := t == 0x8100 || t == 0x88A8
  if tag (beAt f 12 2) then (if tag (beAt f 16 2) then none else some (beAt f 16 2, f.drop 18)) else some (beAt f 12 2, f.drop 14)

def ipParse (ty : Nat) (p : Bytes) : Option IpPkt :=
  if ty = 0x0800 then
    some { ipv6 := false, proto := beAt p 9 1, src := sliceBytes p 12 4, dst := sliceBytes p 16 4
           data := (p.take (beAt p 2 2)).drop (4 * (beAt p 0 1 % 16)) }
  else if ty = 0x86DD then
    some { ipv6 := true, proto := beAt p 6 1, src := sliceBytes p 8 16, dst := sliceBytes p 24 16, data := (p.drop 40).take (beAt p 4 2) }
  else none

/-- The address fields of a descriptor at an offset (R390, R392). -/
def descAddr (d : Bytes) (o : Nat) (ipv6 : Bool) : Bytes := sliceBytes d o (if ipv6 then 16 else 4)

/-- A received UDP packet has the local and remote ends of a descriptor with addresses at offsets `o` and ports at `p`. -/
def sameTuple (d : Bytes) (ipv6 : Bool) (pOff lOff rOff : Nat) (k : IpPkt) : Bool :=
  k.ipv6 == ipv6 && descAddr d lOff ipv6 == k.dst && descAddr d rOff ipv6 == k.src && leAt d pOff 2 == beAt k.data 2 2 &&
    leAt d (pOff + 2) 2 == beAt k.data 0 2

def flowV (d : Bytes) : Bool := bitAt (leAt d 0 1) 0
def flowIpv6 (d : Bytes) : Bool := bitAt (leAt d 0 1) 1
def flowAction (d : Bytes) : Nat := field (leAt d 0 1) 2 2
def netIpv6 (d : Bytes) : Bool := bitAt (leAt d 0 1) 1

def State.flowOf (s : State) (k : IpPkt) : Option Flow :=
  s.flows.find? fun f => flowV f.desc && sameTuple f.desc (flowIpv6 f.desc) 4 8 24 k

def State.netOf (s : State) (k : IpPkt) : Option NetStream :=
  s.nets.find? fun x => ndEn x.desc && sameTuple x.desc (netIpv6 x.desc) 12 16 32 k

/-! ### Descriptors in the FW shed (R390, R392) -/

/-- A descriptor with bytes replaced. -/
def patch (d : Bytes) (o : Nat) (bs : Bytes) : Bytes := d.take o ++ bs ++ d.drop (o + bs.length)

def State.flowAddr (s : State) (i : Nat) : Nat := s.get YRD_FLOW_BASE_BASE * 512 + 64 * i
def State.sndAddr (s : State) (n : Nat) : Nat := s.get YRD_SND_BASE_BASE * 512 + 128 * n

/-- Write bytes into a flow's descriptor, in the classifier and in HBM. -/
def State.setFlow (s : State) (f : Flow) (o : Nat) (bs : Bytes) : State :=
  let l : List Flow := s.flows.map fun g => if g.num == f.num then { g with desc := patch f.desc o bs } else g
  let s := { s with flows := l }
  s.hbmWrite (s.flowAddr f.num + o) bs

def State.net? (s : State) (n : Nat) : Option NetStream := s.nets.find? fun x => x.num == n
def State.setNet (s : State) (x : NetStream) : State := { s with nets := s.nets.map fun y => if y.num == x.num then x else y }

/-- Write bytes into a stream's network descriptor, in the packet engine and in HBM. -/
def State.netPut (s : State) (n o : Nat) (bs : Bytes) : State :=
  match s.net? n with
  | some x => (s.setNet { x with desc := patch x.desc o bs }).hbmWrite (s.sndAddr n + o) bs
  | none => s

/-! ### RTCP (R395, R398) -/

/-- XOR of two byte strings of 12. -/
def xor12 (a b : Bytes) : Bytes := (upto 12).map fun i => nthD a i 0 ^^^ nthD b i 0

/-- The plaintext of an SRTCP packet under a key, if its tag verifies (RFC 7714 as R395 applies it). -/
def srtcpOpen (k : KeySlot) (d : Bytes) : Option Bytes :=
  let n := d.length
  if n < 28 then none
  else
    let esr := sliceBytes d (n - 4) 4
    let iv := xor12 (beBytes 2 0 ++ sliceBytes d 4 4 ++ beBytes 2 0 ++ beBytes 4 (ofBE esr % 2 ^ 31)) k.salt
    (Config.gcmOpen k.key iv (d.take 8 ++ esr) ((d.drop 8).take (n - 12))).map fun p => d.take 8 ++ p

/-- The report blocks that RC names fit the length of an SR or RR. -/
def rtcpFits (d : Bytes) (len : Nat) : Bool :=
  let rc := beAt d 0 1 % 32
  match beAt d 1 1 with
  | 200 => decide (28 + 24 * rc ≤ len)
  | 201 => decide (8 + 24 * rc ≤ len)
  | _ => true

/-- The padding of a packet, allowed in the last of a compound alone: a multiple of 4 that leaves the header. -/
def rtcpPads (d : Bytes) (len : Nat) : Bool :=
  let n := beAt d (len - 1) 1
  !bitAt (beAt d 0 1) 5 || (decide (d.length = len) && n != 0 && n % 4 == 0 && decide (n + 4 ≤ len))

/-- Split a compound RTCP packet; none where it is malformed under RFC 3550 (appendix A.2): `first` must be an SR or RR. -/
def rtcpSplit : Nat → Bool → Bytes → Option (List Bytes)
  | 0, _, _ => none
  | fuel + 1, first, d =>
    if d.isEmpty then (if first then none else some [])
    else
      let len := 4 * (beAt d 2 2 + 1)
      let pt := beAt d 1 1
      if beAt d 0 1 / 64 ≠ 2 ∨ d.length < len ∨ pt < 200 ∨ (first ∧ 201 < pt) ∨ !rtcpFits d len ∨ !rtcpPads d len then none
      else (rtcpSplit fuel false (d.drop len)).map fun r => d.take len :: r

/-- What an RTCP packet is handled as: 1 report, 2 TMMBR, 3 PLI or FIR, 0 ignored (R398). -/
def rtcpKind (p : Bytes) : Nat :=
  let fmt := beAt p 0 1 % 32
  match beAt p 1 1 with
  | 200 => 1 | 201 => 1
  | 205 => if fmt = 3 then 2 else 0
  | 206 => if fmt = 1 ∨ fmt = 4 then 3 else 0
  | _ => 0

/-- The receive keys of a stream in use: a key yields to its successor 1 s after the successor's effective frame (R395). -/
def State.rxKeys (s : State) (n : Nat) : List KeySlot :=
  let ks := s.keys.filter fun k => k.kind == 2 && k.idx == n
  ks.filter fun k => !(ks.any fun j => decide (k.from_ < j.from_) && decide (cadFrame j.from_ + 1000000000 < s.time))

/-- An RTCP packet of a stream arrives: it is authenticated, split, and its parts wait for their commands (R395, R398). -/
def State.rtcpIn (s : State) (port n : Nat) (d : Bytes) : State :=
  match (s.rxKeys n).findSome? fun k => srtcpOpen k d with
  | none => s.inc YRD_RTCP_DROP_AUTH
  | some p => match rtcpSplit (p.length + 1) true p with
    | none => s.inc YRD_RTCP_DROP_FORMAT
    | some l => l.foldl (fun (s : State) q =>
        if rtcpKind q = 0 then s.inc YRD_RTCP_DROP_IGNORED
        else { s with ingress := s.ingress ++ [{ kind := 3, port, who := n, mac := 0, data := q, at_ := s.time }] }) s

/-! ### The ingress classifier (R384, R386) -/

/-- A frame that matches nothing goes to the host or is counted. -/
def State.miss (s : State) (port : Nat) (f : Bytes) : State :=
  if s.get YRD_CTL_MISS_HOST = 1 then s.capture 5 port f else s.inc (portCtl port YRD_PORT_DROP_MISS)

/-- Firmware answers ARP, neighbour discovery and echo to a device address. -/
def State.answered (s : State) (port : Nat) (f : Bytes) : State :=
  { s.emit (.frame port (Config.answer s.free f)) with free := s.free + 1 }

/-- A PTP message that this clock takes: the port, the transport and the domain are those of PTP_CTL; it waits with the time at which its
frame came (R384, R400). -/
def State.ptpIn (s : State) (port : Nat) (f : Bytes) (k : IpPkt) : State :=
  if s.get PTP_CTL_EN = 1 ∧ bitAt (s.get PTP_CTL_PORTMASK) port ∧ b2n k.ipv6 = s.get PTP_CTL_IPV6 ∧ beAt k.data 12 1 = s.get PTP_CTL_DOMAIN then
    { s with ingress := s.ingress ++ [{ kind := 0, port, who := 0, mac := beAt f 6 6, data := k.data.drop 8, at_ := s.time }] }
  else s

/-- Give a UDP or other IP packet to its destination. -/
def State.classify (s : State) (port : Nat) (f : Bytes) (k : IpPkt) : State :=
  let dport := beAt k.data 2 2
  let own := s.ownAddr port k.ipv6 k.dst
  let udp := k.proto == 17
  let ty := beAt k.data 0 1
  let icmp := if k.ipv6 then k.proto == 58 && ((own && [128, 133, 134, 135, 136, 137].contains ty) || (ty == 135 && s.soliciting port k.dst))
    else k.proto == 1 && ty == 8 && own
  if udp ∧ (dport = 319 ∨ dport = 320) ∧ own then s.ptpIn port f k
  else if udp ∧ dport = s.get YRD_UDPPORT_PORT ∧ k.ipv6 ∧ (isLinkLocal port k.dst ∨ k.dst = yardGroup) then
    let d := k.data.drop 8
    if beAt d 0 1 = 1 ∧ 1 ≤ beAt d 1 1 ∧ beAt d 1 1 ≤ 4 then
      { s with ingress := s.ingress ++ [{ kind := 1, port, who := 0, mac := beAt f 6 6, data := d, at_ := s.time }] }
    else s
  else if udp then match s.flowOf k with
    | some fl =>
      if s.split spINPUT then s.capture 1 fl.num (k.data.drop 8)
      else { s with ingress := s.ingress ++ [{ kind := 2, port, who := fl.num, mac := 0, data := k.data.drop 8, at_ := s.time }] }
    | none => match s.netOf k with
      | some x => if s.split spSTREAM then s.capture 5 port f else s.rtcpIn port x.num (k.data.drop 8)
      | none => s.miss port f
  else if icmp then s.answered port f
  else s.miss port f

/-- FRAME_RECEIVE; `f` is the frame from its destination MAC address to its payload's end, FCS removed, and `uncorr` the codewords that
the port's RS-FEC could not correct since the frame before (R384, R386, R416). -/
def frameReceive (port uncorr : Nat) (f : Bytes) (s : State) : State :=
  let c := portCtl port YRD_PORT_STAT_UNCORR
  let s := if port < 8 ∧ s.portUp port then s.put c (min 0xFFFF (s.get c + uncorr)) else s
  if 8 ≤ port ∨ !s.portUp port ∨ s.get YRD_CTL_EN = 0 ∨ !macTakes port (beAt f 0 6) then s
  else if 9216 < f.length + 4 then s.inc (portCtl port YRD_PORT_DROP_LONG)
  else match etherPayload f with
    | none => s
    | some (ty, p) =>
      if ty = 0x8808 then s.inc (portCtl port YRD_PORT_DROP_PAUSE)
      else if ty = 0x0806 ∧ s.service false (sliceBytes p 24 4) then s.answered port f
      else match ipParse ty p with
        | some k => s.classify port f k
        | none => s.miss port f

/-! ### Player input (R387 – R391) -/

/-- The first item of a kind and, for RTCP, of a handling. -/
def State.takeIngress (s : State) (kind : Nat) (ok : Ingress → Bool) : Option (Ingress × State) :=
  match s.ingress.find? fun x => x.kind == kind with
  | some x => if ok x then some (x, { s with ingress := s.ingress.erase x }) else none
  | none => none

/-- The checks of R388: the counter of the first that fails, or SEQ and the plaintext. -/
def State.checkInput (s : State) (f : Flow) (d : Bytes) : Except Fld (Nat × Bytes) :=
  let kid := beAt d 2 1
  if d.length ≠ 44 ∨ beAt d 0 1 ≠ 1 ∨ beAt d 1 1 = 0 ∨ 2 < beAt d 1 1 ∨ 1 < kid ∨ beAt d 3 1 ≠ 0 then .error YRD_IN_DROP_FORMAT
  else match s.keys.find? fun k => k.kind == 0 && k.idx == f.num && k.slot == kid with
    | none => .error YRD_IN_DROP_AUTH
    | some k => match Config.gcmOpen k.key (sliceBytes k.salt 0 4 ++ sliceBytes d 4 8) (d.take 12) (d.drop 12) with
      | none => .error YRD_IN_DROP_AUTH
      | some p => if beAt d 4 8 ≤ leAt f.desc 48 8 then .error YRD_IN_DROP_STALE else .ok (beAt d 4 8, p)

/-- INPUT_DATAGRAM: the next datagram of the input path (R388, R389, R391). -/
def inputDatagram (s : State) : State :=
  match s.takeIngress 2 fun _ => true with
  | none => s
  | some (x, s) => match s.flows.find? fun f => f.num == x.who with
    | none => s
    | some f => match s.checkInput f x.data with
      | .error c => s.inc c
      | .ok (seq, p) =>
        let s := s.setFlow f 48 (leBytes 8 seq ++ leBytes 4 (leAt f.desc 56 4 + 1))
        if beAt x.data 1 1 ≠ 1 then s
        else if flowAction f.desc = 1 then
          s.yardSend (leAt f.desc 40 4 % 2 ^ 20) 2 (beBytes 2 (leAt f.desc 44 2 % 4096) ++ beBytes 1 (f.num % 4) ++ beBytes 1 0 ++
            beBytes 8 seq ++ sliceBytes p 0 16 ++ beBytes 8 seq)
        else s.latchInput (f.num / 4) (f.num % 4) seq (sliceBytes p 0 16)

/-! ### Media packets (R393 – R397) -/

/-- The send key of a stream in force from frame n on. -/
def State.txKey (s : State) (n : Nat) (ok : Nat → Bool) : Option KeySlot :=
  (s.keys.filter fun k => k.kind == 1 && k.idx == n && ok k.from_).foldl (fun b k => match b with
    | some j => if j.from_ ≤ k.from_ then some k else some j
    | none => some k) none

/-- An SRTP packet: header, payload, key, rollover counter (R393, R395). -/
def srtp (k : KeySlot) (m pt seq ts ssrc roc : Nat) (pay : Bytes) : Bytes :=
  let h := beBytes 1 0x80 ++ beBytes 1 (m * 128 + pt % 128) ++ beBytes 2 seq ++ beBytes 4 ts ++ beBytes 4 ssrc
  h ++ Config.gcmSeal k.key (xor12 (beBytes 2 0 ++ beBytes 4 ssrc ++ beBytes 4 roc ++ beBytes 2 seq) k.salt) h pay

/-- Bytes of IP, UDP, RTP header and tag around a payload. -/
def pktOver (ipv6 : Bool) : Nat := (if ipv6 then 40 else 20) + 8 + 12 + 16

/-- The packets of a record, not yet numbered: their IP packet bytes, timestamps, marker and payloads (R393, R394). -/
def formPackets (x : NetStream) (last : Bool) (ts : Nat) : List (Nat × Bytes) → List TxPkt
  | [] => []
  | (dt, p) :: r => { size := pktOver (netIpv6 x.desc) + p.length, ts := (ts + dt) % 2 ^ 32, m := last && r.isEmpty, data := p } :: formPackets x last ts r

/-- What a stream's UDP payload travels in (R392). -/
def mediaWire (x : NetStream) (data : Bytes) : Wire :=
  let d := x.desc
  let ip := netIpv6 d
  { mac := beAt d 48 6, tci := if bitAt (leAt d 0 1) 2 then some (leAt d 54 2) else none, dscp := leAt d 58 1 % 64, ipv6 := ip
    src := descAddr d 16 ip, dst := descAddr d 32 ip, sport := leAt d 12 2, dport := leAt d 14 2, data }

/-- Number and send packet i of a record of which `num` packets have numbers: a packet sent before keeps its own, a new one takes the
next sequence number of its SSRC and advances it, with the rollover counter (R385, R393). -/
def State.sendMedia (s : State) (x : NetStream) (audio : Bool) (k : KeySlot) (num i : Nat) (p : TxPkt) : State :=
  let d := x.desc
  let oSeq := if audio then 62 else 60
  let oRoc := if audio then 68 else 64
  let next := leAt d oSeq 2 + 65536 * leAt d oRoc 4
  let n := (next + 2 ^ 48 - (num - i)) % 2 ^ 48
  let q := srtp k (b2n p.m) (leAt d (if audio then 3 else 2) 1) (n % 65536) p.ts (leAt d (if audio then 8 else 4) 4) (n / 65536) p.data
  let s := s.emit (.packet x.port (mediaWire x q))
  if i < num then s
  else
    let next := (next + 1) % 2 ^ 48
    (s.netPut x.num oSeq (leBytes 2 (next % 65536))).netPut x.num oRoc (leBytes 4 (next / 65536))

/-- The next record of an output ring: its offset, header, payload and the offset after it; pads are skipped (R257, R397). -/
def State.ringNext (s : State) (base wr rd lenOff : Nat) : Option (Nat × Bytes × Bytes × Nat) :=
  if wr = rd then none
  else
    let h0 := s.hbmBytes (base + rd) 32
    let rd' := if leAt h0 2 1 = 0xFF then 0 else rd
    if wr = rd' then none
    else
      let h := s.hbmBytes (base + rd') 32
      let n := leAt h lenOff 4
      some (rd', h, s.hbmBytes (base + rd' + 32) n, rd' + up64 (32 + n))

/-- An offset at the end of a ring is offset 0. -/
def ringWrap (o size : Nat) : Nat := if size ≤ o then 0 else o

/-- RECORD_READ of stream n's encoder ring (R397, R467). -/
def State.readVideo (s : State) (n : Nat) : State :=
  match s.stream? n with
  | none => s
  | some x => match s.ringNext x.esd.outAddr x.esd.wr x.esd.rd 12 with
    | none => s
    | some (_, h, pay, e) =>
      let e := ringWrap e x.esd.outSize
      let setRd (s : State) (kr : Bool) : State := match s.stream? n with
        | some y => s.setStream { y with esd := { y.esd with rd := e, keyreq := y.esd.keyreq || kr } }
        | none => s
      let busy : Bool := match s.net? n with | some t => !t.vrec.isEmpty | none => false
      if s.split spSTREAM then (if busy then s else (setRd s false).capture 2 n (h ++ pay))
      else match s.net? n with
        | none => s
        | some t =>
          if !ndEn t.desc ∨ s.get YRD_CTL_EN = 0 ∨ busy then s
          else if leAt h 16 8 + 33300000 < s.time then (setRd s true).inc YRD_STALE_COUNT
          else if !s.portUp t.port then s
          else match s.txKey n fun f => decide (f ≤ leAt h 4 4) with
            | none => s
            | some k =>
              let room := leAt t.desc 56 2 - pktOver (netIpv6 t.desc)
              let ts := leAt t.desc 72 4 + 1500 * leAt h 4 4
              let l := formPackets t (bitAt (leAt h 3 1) 1) ts (payloads (leAt h 2 1) (leAt h 3 1) room 0 pay)
              if l.isEmpty then setRd s false
              else s.setNet { t with vq := l, vrec := l, vnum := 0, vkey := some k, vdone := leAt h 16 8, vrd := e }

/-- The streams that carry a stall's lane (R293, R392). -/
def State.laneStreams (s : State) (k : Nat) (l : Lane) : List NetStream :=
  s.nets.filter fun x => ndEn x.desc && x.num / 4 == k && bitAt l.streams (x.num % 4) && bitAt (leAt x.desc 0 1) 3

/-- Queue an audio record on one stream; `rd` is where the ring goes on. -/
def State.queueAudio (s : State) (f0 channels codec q done rd : Nat) (pay : Bytes) (t : NetStream) : State :=
  match s.txKey t.num fun e => decide (800 * ((e : Int) - (f0 : Int)) ≤ (480 * q : Nat)) with
  | none => s
  | some k =>
    let room := leAt t.desc 56 2 - pktOver (netIpv6 t.desc)
    let l := formPackets t false (leAt t.desc 76 4 + 480 * q) (payloads codec 0 room channels pay)
    s.setNet { t with aq := l, arec := l, anum := 0, akey := some k, adone := done, ard := rd }

/-- RD of a lane advances; the tag of the record goes with it (R397). -/
def State.laneRd (s : State) (k rd : Nat) (at_ : Nat → Bool) : State :=
  s.onStall k fun st => { st with lane := st.lane.map fun l => { l with rd, pcm := l.pcm.filter fun o => !at_ o } }

/-- A stream of stall k has done with its audio record: RD advances once no other stream of the lane has a packet of it left (R397). -/
def State.audioDone (s : State) (k rd : Nat) : State :=
  if s.nets.any fun x => x.num / 4 == k && !x.arec.isEmpty then s else s.laneRd k rd fun _ => false

/-- RECORD_READ of stall k's lane ring: a record formed with SPLIT_AUDIO = 1 goes to PCM, any other to RECORD with SPLIT_STREAM = 1, or
to the streams of the lane whose ports are UP (R292, R397, R467). -/
def State.readAudio (s : State) (k : Nat) : State :=
  match s.stall? k with
  | none => s
  | some st => match st.lane with
    | none => s
    | some l => match s.ringNext l.outAddr l.wr l.rd 16 with
      | none => s
      | some (o, h, pay, e) =>
        let rd := ringWrap e l.outSize
        let adv (s : State) : State := s.laneRd k rd fun a => a == o
        if s.nets.any fun x => x.num / 4 == k && !x.arec.isEmpty then s
        else if l.pcm.contains o then (adv s).capture 4 k (h ++ pay)
        else if s.split spSTREAM then (adv s).capture 2 k (h ++ pay)
        else if s.get YRD_CTL_EN = 0 then s
        else if leAt h 20 8 + 20000000 < s.time then (adv s).inc YRD_STALE_COUNT
        else
          let ts := (s.laneStreams k l).filter fun t => s.portUp t.port
          if ts.isEmpty then s
          else (ts.foldl (fun s t => s.queueAudio (st.f0.getD 0) l.channels (leAt h 2 1) (leAt h 4 4) (leAt h 20 8) rd pay t) s).audioDone k rd

/-- A stall that migrates away is parked for good, unless its migration ends: its streams go on from D, and S sends nothing of them
(DEDUCED, log entry 110) (R412). -/
def State.movedAway (s : State) (k : Nat) : Bool := s.migs.any fun m => m.source && m.parked && m.stall == k

/-- RECORD_READ; streams leave the device in the modes of R479 that execute stalls. -/
def recordRead (audio : Bool) (n : Nat) (s : State) : State :=
  if !stallsExecute s.mode ∨ s.movedAway (if audio then n else n / 4) then s else if audio then s.readAudio n else s.readVideo n

/-- The record in progress is complete: RD advances (R397). -/
def State.videoDone (s : State) (n rd : Nat) (key : Bool) : State :=
  match s.stream? n with
  | some y => s.setStream { y with esd := { y.esd with rd, keyreq := y.esd.keyreq || key } }
  | none => s

/-- Count a packet sent in SENT. -/
def State.countSent (s : State) (n : Nat) : State :=
  match s.net? n with
  | some x => s.netPut n 84 (leBytes 4 (leAt x.desc 84 4 + 1))
  | none => s

/-- The next packet of a stream's audio record, which is discarded whole where it is more than 20 ms old before its first leaves (R397). -/
def State.sendAudio (s : State) (x : NetStream) : State :=
  match x.aq, x.akey with
  | p :: r, some k =>
    let i := x.arec.length - x.aq.length
    if i = 0 ∧ x.anum = 0 ∧ x.adone + 20000000 < s.time then
      ((s.setNet { x with aq := [], arec := [] }).audioDone (x.num / 4) x.ard).inc YRD_STALE_COUNT
    else
      let new := x.anum ≤ i
      let y := { x with aq := r, arec := if r.isEmpty then [] else x.arec, anum := max x.anum (i + 1), count := (x.count.1, x.count.2 + 1)
                        octets := (x.octets.1, x.octets.2 + if new then p.data.length else 0) }
      let s := ((s.setNet y).sendMedia y true k x.anum i p).countSent x.num
      if r.isEmpty then s.audioDone (x.num / 4) x.ard else s
  | _, _ => s

/-- The next packet of a stream's video record through its bucket; the record is discarded whole where its DONE lies more than 33.3 ms
before its first packet could leave (R396, R397). -/
def State.sendVideo (s : State) (x : NetStream) : State :=
  match x.vq, x.vkey with
  | p :: r, some k =>
    let i := x.vrec.length - x.vq.length
    if s.audioWaits x.port then s
    else if i = 0 ∧ x.vnum = 0 ∧ x.vdone + 33300000 < s.time then
      ((s.setNet { x with vq := [], vrec := [] }).videoDone x.num x.vrd true).inc YRD_STALE_COUNT
    else
      let b := bucketNow x (s.maxOf x.num) s.time
      if b < p.size * 1000000000 then s.setNet { x with bucket := b, fillAt := s.time }
      else
        let new := x.vnum ≤ i
        let y := { x with bucket := b - p.size * 1000000000, fillAt := s.time, vq := r, vrec := if r.isEmpty then [] else x.vrec
                          vnum := max x.vnum (i + 1), count := (x.count.1 + 1, x.count.2)
                          octets := (x.octets.1 + (if new then p.data.length else 0), x.octets.2) }
        let s := ((s.setNet y).sendMedia y false k x.vnum i p).countSent x.num
        if r.isEmpty then s.videoDone x.num x.vrd false else s
  | _, _ => s

/-- PACKET_SEND: the next audio packet of a stream, or its next video packet; audio goes first on a port, and what waits behind media
follows (R396, R397, R399). -/
def packetSend (n : Nat) (audio : Bool) (s : State) : State :=
  match s.net? n with
  | none => s
  | some x =>
    if s.get YRD_CTL_EN = 0 ∨ !s.portUp x.port ∨ !stallsExecute s.mode ∨ s.movedAway (n / 4) then s
    else (if audio then s.sendAudio x else s.sendVideo x).pumpAll

/-! ### RTCP handling (R398) -/

/-- Send an RTCP compound on a stream under SRTCP. -/
def State.sendRtcp (s : State) (x : NetStream) (p : Bytes) : State :=
  match s.txKey x.num fun e => decide (e ≤ frameAt s.time) with
  | none => s
  | some k =>
    let esr := beBytes 4 (2 ^ 31 + x.srIdx % 2 ^ 31)
    let iv := xor12 (beBytes 2 0 ++ sliceBytes p 4 4 ++ beBytes 2 0 ++ beBytes 4 (x.srIdx % 2 ^ 31)) k.salt
    (s.setNet { x with srIdx := x.srIdx + 1 }).emit
      (.packet x.port (mediaWire x (p.take 8 ++ Config.gcmSeal k.key iv (p.take 8 ++ esr) (p.drop 8) ++ esr)))

/-- The report blocks of an SR or RR: SSRC and fraction lost. -/
def reportBlocks (p : Bytes) : List (Nat × Nat) :=
  let o := if beAt p 1 1 = 200 then 28 else 8
  (upto (beAt p 0 1 % 32)).map fun i => (beAt p (o + 24 * i) 4, beAt p (o + 24 * i + 4) 1)

/-- RTCP_REPORT (R398). -/
def rtcpReport (s : State) : State :=
  match s.takeIngress 3 fun x => rtcpKind x.data == 1 with
  | none => s
  | some (i, s) => match s.net? i.who, s.stream? i.who with
    | some t, some y =>
      match (reportBlocks i.data).filter fun b => b.1 == leAt t.desc 4 4 with
      | [] => s
      | b :: _ => s.setStream { y with esd := { y.esd with loss := b.2 } }
    | _, _ => s

/-- TMMBR: the bitrate becomes ESD CAP in kbit/s, and a TMMBN is sent (R398). -/
def tmmbr (s : State) : State :=
  match s.takeIngress 3 fun x => rtcpKind x.data == 2 with
  | none => s
  | some (i, s) => match s.net? i.who, s.stream? i.who with
    | some t, some y =>
      let fci := (upto ((i.data.length - 12) / 8)).map fun j => sliceBytes i.data (12 + 8 * j) 8
      match fci.filter fun f => beAt f 0 4 == leAt t.desc 4 4 with
      | [] => s
      | f :: _ =>
        let w := beAt f 4 4
        let cap := (w / 512 % 2 ^ 17) * 2 ^ (w / 2 ^ 26) / 1000 % 2 ^ 32
        let s := s.setStream { y with esd := { y.esd with cap } }
        s.sendRtcp t (beBytes 1 0x84 ++ beBytes 1 205 ++ beBytes 2 4 ++ beBytes 4 (leAt t.desc 4 4) ++ beBytes 4 0 ++
          sliceBytes i.data 4 4 ++ beBytes 4 w)
    | _, _ => s

/-- PLI: KEYREQ is set (R252, R398). -/
def pliFir (s : State) : State :=
  match s.takeIngress 3 fun x => rtcpKind x.data == 3 with
  | none => s
  | some (i, s) => match s.stream? i.who with
    | some y => s.setStream { y with esd := { y.esd with keyreq := true } }
    | none => s

/-- A sender report: SSRC, NTP time, RTP time, packets and octets. -/
def srPacket (ssrc time rtp cnt oct : Nat) : Bytes :=
  beBytes 1 0x80 ++ beBytes 1 200 ++ beBytes 2 6 ++ beBytes 4 ssrc ++ beBytes 4 (time / 1000000000) ++
    beBytes 4 ((time % 1000000000) * 2 ^ 32 / 1000000000) ++ beBytes 4 rtp ++ beBytes 4 cnt ++ beBytes 4 oct

/-- An SDES packet with a CNAME. -/
def sdesPacket (ssrc : Nat) (cname : Bytes) : Bytes :=
  let n := (cname.takeWhile fun b => b != 0).length
  let items := beBytes 1 1 ++ beBytes 1 n ++ cname.take n
  let pad := 4 - items.length % 4
  beBytes 1 0x81 ++ beBytes 1 202 ++ beBytes 2 ((items.length + pad) / 4 + 1) ++ beBytes 4 ssrc ++ items ++ List.replicate pad 0

/-- RTCP_SR_SEND (R398, R399). -/
def rtcpSrSend (n : Nat) (s : State) : State :=
  match s.net? n with
  | none => s
  | some x =>
    if s.get YRD_CTL_EN = 0 ∨ !ndEn x.desc ∨ s.split spSTREAM ∨ !s.portUp x.port ∨ !stallsExecute s.mode ∨ s.movedAway (n / 4) ∨
        s.time < x.srAt + 1000000000 then s
    else
      let f0 := match s.stall? (n / 4) with | some st => st.f0.getD 0 | none => 0
      let tv := (leAt x.desc 72 4 + s.time * 90 / 1000000) % 2 ^ 32
      let ta := (leAt x.desc 76 4 + (s.time - cadFrame f0) * 48 / 1000000) % 2 ^ 32
      let sv := leAt x.desc 4 4
      let sr := srPacket sv s.time tv x.count.1 x.octets.1 ++ srPacket (leAt x.desc 8 4) s.time ta x.count.2 x.octets.2
      (s.setNet { x with srAt := s.time }).sendRtcp { x with srAt := s.time } (sr ++ sdesPacket sv (sliceBytes x.desc 96 32))

/-! ### Loads (R391, R392, R405) -/

/-- A stream's state in the packet engine when its descriptor is first loaded. -/
def NetStream.new (n time : Nat) (d : Bytes) : NetStream :=
  { num := n, desc := d, port := ndPort d, bucket := leAt d 80 4 * 1000000000, fillAt := time, vq := [], vrec := [], vnum := 0, vkey := none
    vdone := 0, vrd := 0, aq := [], arec := [], anum := 0, akey := none, adone := 0, ard := 0, octets := (0, 0), count := (0, 0), srAt := time, srIdx := 0 }

/-- The paths of a route entry (R405). -/
def routePaths (d : Bytes) (time : Nat) : List YPath :=
  ((upto 4).filter fun i => bitAt (leAt d (8 + 8 * i + 6) 1) 3).map fun i =>
    { mac := beAt d (8 + 8 * i) 6, port := leAt d (8 + 8 * i + 6) 1 % 8, hops := leAt d (8 + 8 * i + 7) 1, heard := time, via := 0 }

/-- Load one entry into the classifier. -/
def State.loadEntry (s : State) (table i : Nat) : State :=
  match table with
  | 0 =>
    let d := s.hbmBytes (s.flowAddr i) 64
    let others := s.flows.filter fun f => f.num != i
    { s with flows := if flowV d then insertBy (·.num) ⟨i, d⟩ others else others }
  | 1 =>
    let d := s.hbmBytes (s.sndAddr i) 128
    match s.net? i with
    | some x => s.setNet { x with desc := d, port := if ndPort x.desc = ndPort d then x.port else ndPort d }
    | none => { s with nets := insertBy (·.num) (NetStream.new i s.time d) s.nets }
  | 2 =>
    let d := s.hbmBytes (s.routeAddr i) 48
    let others := s.routes.filter fun r => r.entry != i
    let e : YRoute := { entry := i, yard := leAt d 0 4 % 2 ^ 20, paths := routePaths d s.time }
    ({ s with routes := if bitAt (leAt d 0 4) 31 then insertBy (·.entry) e others else others }).notePaths
  | _ => s

/-- YRD_LOAD: a write with GO = 1; the load is complete at once (R391). -/
def yrdLoad (table i : Nat) (s : State) : State :=
  if !blocksServe s.mode then s
  else
    let s := s.puts [(YRD_LOAD_INDEX, i), (YRD_LOAD_TABLE, table)]
    s.loadEntry (table % 4) (i % 2 ^ 14)

/-! ### PTP (R401) -/

/-- Some stream is enabled. -/
def State.streamsOn (s : State) : Bool := s.nets.any fun x => ndEn x.desc

/-- OFFSET as the register holds it: 24 bits, signed, saturating. -/
def ptpOffset (o : Int) : Nat := ofSigned 24 (max (-8388608) (min 8388607 o))

/-- A Sync exchange with a measured offset from the master in ns; the state after it, and whether PTP has left LOCKED. CAD_TIME is stepped,
forward alone, while no stall exists and no stream is enabled, and otherwise corrected by frequency: the correction is a free value
of at most ±100 ppm (DESIGN CHOICE, log entry 46) (R401). -/
def State.ptpExchange (s : State) (o : Int) : State × Bool :=
  let small := decide (-1000 < o) && decide (o < 1000)
  let was := s.get PTP_STAT_STATE == 2
  let good := if small then s.ptpGood + 1 else 0
  let s := { s with ptpGood := good }
  let s := s.puts [(PTP_STAT_OFFSET, ptpOffset o), (PTP_STAT_STATE, if 16 ≤ good then 2 else 1)]
  let s := if s.stalls.isEmpty ∧ !s.streamsOn then { s with time := s.time + (max 0 (-o)).toNat }
    else
      let n := s.draw 201
      let s := { n.2 with slew := (n.1 : Int) - 100 }
      if o < -1000000 ∨ 1000000 < o then (s.put PTP_STAT_FAR 1).raise 0x07D else s
  (s, was && decide (good < 16))

end Sys2Proof.Machine
end

