-- ==== Sys2Proof/Machine/Shed.lean ====
section
/-! DEFINITION. What the sheds hold of the records that State keeps as typed data, as a read of HBM finds it: firmware's tables, page
tables, stall pages, line areas, hint maps, reference areas, graph copies and beds, and what a write of HBM by an agent does to them (R13,
R171, R197, R205, R214, R235, R265, R280, R293, R369 – R371, R380; log entry 22). -/
namespace Sys2Proof

/-- The bytes of a stream's reference area, whose layout the manual does not give (R235, R265). -/
opaque Config.refArea : Machine.Enc → Bytes

namespace Machine

/-! ### Descriptors (R265, R293) -/

/-- The 64 bytes of an ESD (R265). -/
def Esd.bytes (e : Esd) : Bytes :=
  leBytes 1 e.codec ++ leBytes 1 e.profile ++ leBytes 1 e.flags ++ leBytes 1 e.rcmode ++ leBytes 1 e.qpMin ++ leBytes 1 e.qpMax ++
    leBytes 1 e.qpFixed ++ leBytes 1 e.refresh ++ leBytes 4 e.target ++ leBytes 4 e.min ++ leBytes 4 e.max ++ leBytes 2 e.keyint ++
    leBytes 1 (b2n e.keyreq) ++ leBytes 1 e.loss ++ leBytes 8 e.outAddr ++ leBytes 4 e.outSize ++ leBytes 4 e.cap ++ leBytes 4 e.wr ++
    leBytes 4 e.rd ++ leBytes 8 e.refAddr ++ leBytes 2 e.qpLast ++ leBytes 2 0 ++ leBytes 4 e.rateNow

/-- The 64 bytes of an ALD (R293). -/
def Lane.bytes (l : Lane) : Bytes :=
  leBytes 1 l.codec ++ leBytes 1 l.channels ++ leBytes 1 (l.active % 2 + 2 * b2n l.fallback) ++ leBytes 1 l.streams ++ leBytes 2 l.bitrate ++
    leBytes 2 0 ++ leBytes 2 l.gameGain ++ leBytes 2 l.opGain ++ leBytes 1 l.swapState ++ leBytes 1 0 ++ leBytes 2 l.graphCost ++
    leBytes 8 l.outAddr ++ leBytes 4 l.outSize ++ leBytes 4 l.wr ++ leBytes 4 l.rd ++ leBytes 8 l.opAddr ++ leBytes 4 l.opSize ++
    leBytes 4 l.opWr ++ leBytes 4 l.opRd ++ leBytes 8 l.applied

/-- An ESD from its 64 bytes (R265). -/
def Esd.ofBytes (b : Bytes) : Esd :=
  { codec := leAt b 0 1, profile := leAt b 1 1, flags := leAt b 2 1, rcmode := leAt b 3 1, qpMin := leAt b 4 1, qpMax := leAt b 5 1
    qpFixed := leAt b 6 1, refresh := leAt b 7 1, target := leAt b 8 4, min := leAt b 12 4, max := leAt b 16 4, keyint := leAt b 20 2
    keyreq := bitAt (leAt b 22 1) 0, loss := leAt b 23 1, outAddr := leAt b 24 8, outSize := leAt b 32 4, cap := leAt b 36 4
    wr := leAt b 40 4, rd := leAt b 44 4, refAddr := leAt b 48 8, qpLast := leAt b 56 2, rateNow := leAt b 60 4 }

/-- A lane with the fields of an ALD (R293). -/
def Lane.withAld (l : Lane) (b : Bytes) : Lane :=
  { l with codec := leAt b 0 1, channels := leAt b 1 1, active := leAt b 2 1 % 2, fallback := bitAt (leAt b 2 1) 1, streams := leAt b 3 1
           bitrate := leAt b 4 2, gameGain := leAt b 8 2, opGain := leAt b 10 2, swapState := leAt b 12 1, graphCost := leAt b 14 2
           outAddr := leAt b 16 8, outSize := leAt b 24 4, wr := leAt b 28 4, rd := leAt b 32 4, opAddr := leAt b 36 8
           opSize := leAt b 44 4, opWr := leAt b 48 4, opRd := leAt b 52 4, applied := leAt b 56 8 }

/-- The two 1,024-byte graph copies of a stall (R280). -/
def Stall.graphBytes (st : Stall) : Bytes :=
  match st.lane with | some l => sliceBytes l.g0.img 0 1024 ++ sliceBytes l.g1.img 0 1024 | none => List.replicate 2048 0

/-- The ALD of a stall: CODEC OFF, and zero, without a lane (R293). -/
def Stall.aldBytes (st : Stall) : Bytes := match st.lane with | some l => l.bytes | none => List.replicate 64 0

/-- The two descriptors of a stream: the active one and the shadow (R205). -/
def Stream.descBytes (x : Stream) : Bytes := sliceBytes x.act 0 512 ++ sliceBytes x.shadow 0 512

/-! ### Page tables (R369 – R371) -/

/-- The directory entry of a stall (R369): its page table begins its area, and the cartridge table follows the title's image. -/
def State.ptdirEntry (s : State) (st : Stall) : Bytes :=
  match s.title? st.title with
  | some t =>
    leBytes 8 (1 + areaAddr st.exts 0) ++
      (if t.cart.isEmpty then List.replicate 8 0
       else leBytes 8 (1 + areaAddr t.exts (4096 * t.pages) % 2 ^ 40 + (t.cart.length / 4096) * 2 ^ 40))
  | none => List.replicate 16 0

/-! ### Stall areas (R13, R171, R197) -/

/-- A byte of a stall's line area (R171). -/
def Stall.lineByte (st : Stall) (o : Nat) : Byte := nthD (leBytes 2 ((lookupN (o / 2) st.ras.lines).getD 0).toNat) (o % 2) 0

/-- A byte of its hint maps (R197). -/
def Stall.hintByte (st : Stall) (o : Nat) : Byte :=
  nthD ((lookupN (o / hintBytes st.cls) st.ras.hints).getD []) (o % hintBytes st.cls) 0

/-- A byte of a stall's STALL extents: page table, spill area, stall-store position of a parked stall, private pages, SAVE memory (R13,
R367). -/
def State.stallByte (s : State) (st : Stall) (o : Nat) : Option Byte :=
  if o < 0x10000 then some (nthD (leBytes 8 (s.pte st (o / 8))) (o % 8) 0)
  else if o < storeAt then st.spillByte (o - 0x10000)
  else if o < pagesAt then (if st.sched = .parked then st.storeImage[o - storeAt]? else none)
  else
    let p := o - pagesAt
    match (privatePages st.cls)[p / 4096]? with
    | some i => some (st.pageByte i (p % 4096))
    | none => st.save[p - 4096 * (privatePages st.cls).length]?

/-- The offset of an address in a range. -/
def inArea (base n a : Nat) : Option Nat := if base ≤ a ∧ a < base + n then some (a - base) else none

/-- The offset of an address in an area that extents hold. -/
def inExts (exts : List Nat) (a : Nat) : Option Nat :=
  if exts.contains (extentOf a) then some (exts.idxOf (extentOf a) * 0x200000 + a % 0x200000) else none

/-- What a stall's areas hold at an address. -/
def State.stallAreaByte (s : State) (st : Stall) (a : Nat) : Option Byte :=
  match inExts st.exts a with
  | some o => s.stallByte st o
  | none => match inArea st.lineArea (4 * visW st.cls * visH st.cls) a with
    | some o => some (st.lineByte o)
    | none => (inArea st.hintArea (2 * slicesPer st.cls * hintBytes st.cls) a).map st.hintByte

/-! ### Firmware's tables -/

/-- Firmware's tables with their sizes, one after the other from extent 1 of stack 0 on (DESIGN CHOICE, log entry 23): flow, send and
route tables, audio lane, encoder and composer descriptors, graph copies. -/
def fwTables : List (Fld × Nat) :=
  [(YRD_FLOW_BASE_BASE, 64 * 12288), (YRD_SND_BASE_BASE, 128 * 12288), (YRD_ROUTE_BASE_BASE, 48 * 4096), (AUD_DESC_BASE_BASE, 64 * 3072),
    (ENC_DESC_BASE_BASE, 64 * 12288), (CMP_DESC_BASE_BASE, 1024 * 12288), (AUD_GRAPH_BASE_BASE, 2048 * 3072)]

/-- The extents of stack 0 from 1 on that hold firmware's tables and the page-table directory, 64 KiB-aligned behind them. -/
def fwExts : Nat := 12
def fwPtdir : Nat := 0x1760000

/-- Bytes of the reference frames and the block QP map of a codec; none without a codec (R265). -/
def refBytes (codec profile w h : Nat) : Nat :=
  if codec = 0 then 0
  else (if codec = 3 ∨ (codec = 1 ∧ profile = 1) then 6 else 3) * w * h + 2 * (w / 16) * (h / 16)

/-- What a stream's records hold at an address: its ESD, its descriptors, its reference area, its beds (R205, R214, R235, R265). -/
def Stream.areaByte (esd cmp : Nat) (x : Stream) (a : Nat) : Option Byte :=
  match inArea (esd + 64 * x.num) 64 a, inArea (cmp + 1024 * x.num) 1024 a with
  | some o, _ => x.esd.bytes[o]?
  | none, some o => x.descBytes[o]?
  | none, none =>
    match (inArea x.esd.refAddr (refBytes x.esd.codec x.esd.profile (dW x.act) (dH x.act)) a).bind fun o => (Config.refArea x.enc)[o]? with
    | some v => some v
    | none => x.allBeds.findSome? fun b => (inArea b.addr b.px.length a).bind fun o => b.px[o]?

/-- Addresses of the entries that a stall has in firmware's tables: ALD, graph copies, directory entry. -/
def State.aldAt (s : State) (k : Nat) : Nat := s.get AUD_DESC_BASE_BASE * 512 + 64 * k
def State.graphAt (s : State) (k : Nat) : Nat := s.get AUD_GRAPH_BASE_BASE * 512 + 2048 * k
def State.ptdirAt (s : State) (k : Nat) : Nat := s.get MEM_PTDIR_BASE_ADDR * 65536 + 16 * k

/-- What a stall's entries in firmware's tables hold at an address (R280, R293, R369). -/
def State.stallTableByte (s : State) (st : Stall) (a : Nat) : Option Byte :=
  match inArea (s.aldAt st.num) 64 a, inArea (s.graphAt st.num) 2048 a with
  | some o, _ => st.aldBytes[o]?
  | none, some o => st.graphBytes[o]?
  | none, none => (inArea (s.ptdirAt st.num) 16 a).bind fun o => (s.ptdirEntry st)[o]?

/-- What the records of State hold at an address of HBM. -/
def State.recordByte (s : State) (a : Nat) : Option Byte :=
  match s.streams.findSome? fun x => x.areaByte (s.get ENC_DESC_BASE_BASE * 512) (s.get CMP_DESC_BASE_BASE * 512) a with
  | some b => some b
  | none => s.stalls.findSome? fun st =>
    match s.stallTableByte st a with
    | some b => some b
    | none => s.stallAreaByte st a

/-- The byte that a read of HBM finds: of a record, in a twinned extent also of the twin of one, else of memory (R358, R367). -/
def State.devByte (s : State) (a : Nat) : Byte :=
  match s.recordByte a with
  | some b => b
  | none => ((if s.twinned (extentOf a) then s.recordByte (twinOf a) else none).getD (Memory.get s.hbm a))

/-- Read HBM bytes as an agent finds them. -/
def State.devBytes (s : State) (a n : Nat) : Bytes :=
  if s.streams.isEmpty && s.stalls.isEmpty then s.hbmBytes a n else (upto n).map fun i => s.devByte (a + i)

/-! ### Writes by agents (R205, R280, R293, R371, R380) -/

/-- A stream with one byte of its descriptors, its ESD or a bed written. -/
def Stream.takeByte (esd cmp : Nat) (x : Stream) (a : Nat) (v : Byte) : Stream :=
  let bed (b : Bed) : Bed := match inArea b.addr b.px.length a with | some o => { b with px := putBytes b.px o [v] } | none => b
  match inArea (esd + 64 * x.num) 64 a, inArea (cmp + 1024 * x.num) 1024 a with
  | some o, _ => { x with esd := Esd.ofBytes (putBytes x.esd.bytes o [v]) }
  | none, some o =>
    if o < 512 then { x with act := putBytes (sliceBytes x.act 0 512) o [v] }
    else { x with shadow := putBytes (sliceBytes x.shadow 0 512) (o - 512) [v] }
  | none, none =>
    { x with beds := x.beds.map bed, frames := x.frames.map fun f => { f with beds := f.beds.map bed }
             commit := x.commit.map fun c => { c with beds := c.beds.map bed } }

/-- The lane of a stall with one byte of its ALD or of a graph copy written. -/
def State.laneByte (s : State) (st : Stall) (a : Nat) (v : Byte) : Option Lane :=
  st.lane.map fun l =>
    match inArea (s.aldAt st.num) 64 a, inArea (s.graphAt st.num) 2048 a with
    | some o, _ => l.withAld (putBytes l.bytes o [v])
    | none, some o =>
      if o < 1024 then { l with g0 := Graph.ofBytes (putBytes (sliceBytes l.g0.img 0 1024) o [v]) }
      else { l with g1 := Graph.ofBytes (putBytes (sliceBytes l.g1.img 0 1024) (o - 1024) [v]) }
    | none, none => l

/-- Put a number into a list without repeats, or take it out. -/
def putMark (on : Bool) (i : Nat) (l : List Nat) : List Nat := if on then addNew i l else l.filter fun x => x != i

/-- Write one byte of entry i of a stall's page table; D, A and K become what is written (R371, R380). -/
def State.pteByte (s : State) (st : Stall) (i o : Nat) (v : Byte) : Stall :=
  let e := ofLE (putBytes (leBytes 8 (s.pte st i)) o [v])
  { st with pt := insertN i (e - 32 * field e 5 3) st.pt, dirty := putMark (bitAt e 5) i st.dirty, acc := putMark (bitAt e 6) i st.acc
            copying := putMark (bitAt e 7) i st.copying }

/-- Write one byte of a private page (R370, R374). -/
def Stall.setPageByte (st : Stall) (i o : Nat) (v : Byte) : Stall :=
  if i < 0x1800 then { st with mem := Memory.set st.mem (4096 * i + o) v }
  else if i < 0x1840 then { st with mem := Memory.set st.mem (0x1000000 + 4096 * (i - 0x1800) + o) v }
  else if i < 0x1880 then { st with rview := Memory.set st.rview (0x1000000 + 4096 * (i - 0x1840) + o) v }
  else if i < 0x1890 then { st with rview := Memory.set st.rview (0x210000 + o) v }
  else { st with rview := Memory.set st.rview (0x230000 + 4096 * (i - 0x1890) + o) v }

/-- A stall with one byte of its STALL extents written: page table, near page in the stall-store position while it is parked, private
pages, SAVE memory. The context area's and the spill area's layouts are not the manual's: a byte there changes nothing (log entry 22). -/
def State.setStallByte (s : State) (st : Stall) (o : Nat) (v : Byte) : Stall :=
  if o < 0x10000 then s.pteByte st (o / 8) (o % 8) v
  else if o < storeAt + 2048 then st
  else if o < pagesAt then (if st.sched = .parked then { st with mem := Memory.set st.mem (o - storeAt - 2048) v } else st)
  else
    let p := o - pagesAt
    match (privatePages st.cls)[p / 4096]? with
    | some i => st.setPageByte i (p % 4096) v
    | none => { st with save := let q := p - 4096 * (privatePages st.cls).length; if q < st.save.length then putBytes st.save q [v] else st.save }

/-- Replace a byte of a 16-bit word. -/
def putHalf (w : BitVec 16) (hi : Nat) (v : Byte) : BitVec 16 := BitVec.ofNat 16 (putField w.toNat (8 * hi) 8 v.toNat)

/-- A stall with one byte of its areas, or of its entries in firmware's tables, written. -/
def State.takeStallByte (s : State) (st : Stall) (a : Nat) (v : Byte) : Stall :=
  match inExts st.exts a with
  | some o => s.setStallByte st o v
  | none => match inArea st.lineArea (4 * visW st.cls * visH st.cls) a with
    | some o => { st with ras := { st.ras with lines := insertN (o / 2) (putHalf ((lookupN (o / 2) st.ras.lines).getD 0) (o % 2) v) st.ras.lines } }
    | none => match inArea st.hintArea (2 * slicesPer st.cls * hintBytes st.cls) a with
      | some o =>
        let n := hintBytes st.cls
        let old := sliceBytes ((lookupN (o / n) st.ras.hints).getD []) 0 n
        { st with ras := { st.ras with hints := insertN (o / n) (putBytes old (o % n) [v]) st.ras.hints } }
      | none => { st with lane := s.laneByte st a v }

/-- One byte of HBM written by an agent: the records that it belongs to. -/
def State.takeByte (s : State) (a : Nat) (v : Byte) : State :=
  { s with streams := s.streams.map fun x => x.takeByte (s.get ENC_DESC_BASE_BASE * 512) (s.get CMP_DESC_BASE_BASE * 512) a v
           stalls := s.stalls.map fun st => s.takeStallByte st a v }

/-- Bytes of HBM written by an agent, in a twinned extent at both copies: the records that they belong to. -/
def State.takeBytes (s : State) (a : Nat) (bs : Bytes) : State :=
  if s.streams.isEmpty && s.stalls.isEmpty then s
  else bs.zipIdx.foldl (fun s p =>
    let s := s.takeByte (a + p.2) p.1
    if s.twinned (extentOf (a + p.2)) then s.takeByte (twinOf (a + p.2)) p.1 else s) s

/-- A stall whose page-table entries have been written anew: the accesses that wait on those now valid restart (R380, R381). -/
def State.remapped (s : State) (was : Stall) : State :=
  match s.stall? was.num with
  | none => s
  | some st => if st.pt == was.pt then s
    else (st.faults.map (·.1)).foldl (fun s i => if bitAt ((lookupN i st.pt).getD 0) 0 then s.restart st.num i else s) s

/-- A write of HBM by an agent: memory, and what the records of State keep of it. -/
def State.devPut (s : State) (a : Nat) (bs : Bytes) : State :=
  let s' := (s.hbmWrite a bs).takeBytes a bs
  s.stalls.foldl (fun t st => t.remapped st) s'

end Machine
end Sys2Proof
end

