-- ==== Sys2Proof/Machine/Dev.lean ====
section
/-! DEFINITION. The device physical address space: stacks, MMIO and host window, sheds and seals (R358, R359, R366, R376). -/
namespace Sys2Proof.Machine

/-- What an address of the device physical address space reaches (R358). -/
inductive Space | hbm | mmio | host | unbacked
  deriving DecidableEq, Repr

def regionOf (a : Nat) : Space :=
  if a < 0xC00000000 then .hbm
  else if 0x1000000000 ≤ a ∧ a < 0x1004000000 then .mmio
  else if 0x8000000000 ≤ a ∧ a < 0x10000000000 then .host
  else .unbacked

/-- The region of a range of n ≥ 1 bytes; a range that leaves its region counts as unbacked. -/
def regionOfRange (a n : Nat) : Space := if regionOf a = regionOf (a + (n - 1)) then regionOf a else .unbacked

/-- The range lies in HBM, in extents whose shed a grant of SHEDS bits enables; bit j of the field is shed j + 1 (R366). -/
def State.granted (s : State) (sheds a n : Nat) : Bool :=
  regionOfRange a n == .hbm && (extentsOf a n).all fun e => let c := s.get (extFld e); decide (1 ≤ c) && decide (c ≤ 6) && bitAt sheds (c - 1)

/-- The range touches a sealed TITLE extent (R376). -/
def State.sealed (s : State) (a n : Nat) : Bool :=
  (extentsOf a n).any fun e => decide (e < 24576) && s.get (extFld e) == 1 && s.get (sealFld e) == 1

/-- What reads and writes of MMIO do, by BAR0 offset: registers act as their types say. -/
structure Mmio where
  rd : State → Nat → Nat → Bytes × State
  wr : State → Nat → Bytes → State

/-- Why an access to the device physical address space fails. -/
inductive DevErr | unbacked | bus
  deriving DecidableEq, Repr

/-- The PCI Express address of a host-window address (R358). -/
def State.hostAddr (s : State) (a : Nat) : Nat := (s.get MEM_HOSTWIN_BASE * 4096 + (a - 0x8000000000)) % 2 ^ 64

/-- Read n bytes; `host` is what host memory answers, none a failure (R329). -/
def devRead (io : Mmio) (s : State) (a n : Nat) (host : Option Bytes) : Except DevErr (Bytes × State) :=
  if n = 0 then .ok ([], s)
  else match regionOfRange a n with
    | .hbm => .ok (s.devBytes a n, s)
    | .mmio => .ok (io.rd s (a - 0x1000000000) n)
    | .host => (match host with | some bs => if s.linkUp then .ok (sliceBytes bs 0 n, s) else .error .bus | none => .error .bus)
    | .unbacked => .error .unbacked

/-- Write bytes; `host` none: host memory does not take them. -/
def devWrite (io : Mmio) (s : State) (a : Nat) (bs : Bytes) (host : Option Bytes) : Except DevErr State :=
  if bs.isEmpty then .ok s
  else match regionOfRange a bs.length with
    | .hbm => .ok (s.devPut a bs)
    | .mmio => .ok (io.wr s (a - 0x1000000000) bs)
    | .host => if host.isSome ∧ s.linkUp then .ok (s.hostWrite (s.hostAddr a) bs) else .error .bus
    | .unbacked => .error .unbacked

end Sys2Proof.Machine
end

