-- ==== Sys2Proof/Machine/Hod.lean ====
section
/-! DEFINITION. The Hod engine's commands on the device: stall programs placed on the stall's ticks, assignments, and the
programs of host subchannels (R299, R303, R313 – R332). -/
namespace Sys2Proof.Machine

/-! ### Stall programs -/

/-- An input or delivery is to become visible before anything else of this boundary: before a reset that is due, only what became
visible below it (R35, R485). -/
def inputsDue (st : Stall) : Bool := if resetDue st then st.latched.any fun x => beforeReset st x.bound else latchedDue st

/-- Nothing of the boundary comes before a step at tick `e`: no HOD_CMD write below it, and where the step's tick is not one that TICK
has passed, nothing else of the boundary (R313, R316, R324). -/
def hodMay (s : State) (st : Stall) (e : Nat) : Bool :=
  !inputsDue st && st.subs.all (fun x => x.cmds.all fun c => decide (e ≤ c.2)) && (decide (e < st.tick) || boundaryOpen s st)

/-- The stall runs, or has been set aside by the hold that waits for the access (R153, R313). -/
def hodRuns (st : Stall) : Bool := running st || (decide (st.sched = .held) && decide (st.hold = .agent))

/-- The next step of subchannel i of stall k is due, and nothing of the boundary comes before it (R313). -/
def State.hodReady (s : State) (k i : Nat) : Option (Stall × Nat) :=
  match s.live k with
  | some (st, slot) =>
    if decide (i < 8) && s.get HOD_CTL_EN == 1 && hodRuns st && (match subEff st i with | some e => hodMay s st e | none => false) &&
        subDue st (s.nextEnd st slot) i then some (st, slot) else none
  | none => none

/-- A read of VID_COLL or VID_STAT waits for the raster unit (R575). -/
def catchUpOk (st : Stall) (a n e : Nat) : Bool := !(readsRaster ((upto n).map fun i => (a + i) % 2 ^ 24)) || rasterReached st e

/-- A stall-memory access of an agent may be performed now: translated, no page copy or stamp room outstanding (R29, R321,
R377, R575). -/
def accessOk (st : Stall) (write : Bool) (a n e src : Nat) (bs : Bytes) : Bool :=
  if write then !rangeFaulted st a n && !copyPending st [(a, bs)] && stampRoom st (agentStamps st.cls e src a bs)
  else !readFaulted st a n && catchUpOk st a n e

/-- The real time of a subchannel's next access, for the choice of R331; none comes last. -/
def State.subReal (s : State) (n : Nat) : Option Int :=
  match s.stall? (n / 8) with
  | some st => (subNext st (n % 8)).map fun t => realTime st.cls (st.f0.getD 0) t
  | none => none

/-- The resident stall subchannel whose next access lies furthest in real time. -/
def State.furthest (s : State) (l : List Nat) : Option Nat :=
  l.foldl (fun b n => match b with
    | none => some n
    | some m => match s.subReal m, s.subReal n with
      | none, _ => some m
      | some _, none => some n
      | some x, some y => if x < y then some n else some m) none

/-- Load a subchannel that is not resident, evicting where all places are taken (R331). -/
def State.makeResident (s : State) (n : Nat) : State :=
  if s.resident.contains n then s
  else
    let l := if s.resident.length < 1984 then s.resident else match s.furthest s.resident with
      | some m => s.resident.erase m
      | none => s.resident
    let s := { s with resident := l ++ [n] }
    s.inc HOD_CACHE_LOADS

/-- HOD_CACHE.RESIDENT: the resident stall subchannels, and H0 – H63 with a program (R331). -/
def State.residentCount (s : State) : Nat := s.resident.length + (s.hsubs.filter fun x => x.phase != .idle).length

/-- Count a program that has ended as malformed or by the loop rule. -/
def State.countEnd (s : State) (bad : Bool) : State := if bad then s.inc HOD_ENDS_MALFORMED else s

/-- Act on a fetched brick of subchannel i if `accept` takes it; any of these commands ends a malformed one (R303, R305). -/
def brickStep (accept : Sub → Bool) (act : Devs → Stall → Stall) (k i : Nat) (s : State) : State :=
  match s.hodReady k i with
  | none => s
  | some (st, _) =>
    let x := st.sub i
    if x.phase = .fetched then
      if malformed x.ty x.joinOp x.brick then (s.setStall (endMalformed st i)).inc HOD_ENDS_MALFORMED
      else if accept x then s.setStall (act (s.devsOf st) st) else s
    else if controlReady x && accept x then s.setStall (controlEffect (s.devsOf st) st i)
    else s

/-- Data bricks: the brick has an opcode, and its device passes `ty`. -/
def dataStep (op : Nat) (ty : Sub → Bool) (k i : Nat) : State → State :=
  brickStep (fun x => bOp x.brick == op && ty x) (fun dv st => dataBrick dv st i) k i

def brickRead : Nat → Nat → State → State := dataStep 1 fun _ => true
def brickWrite : Nat → Nat → State → State := dataStep 2 fun x => x.ty != dBLIT
def blitCopy : Nat → Nat → State → State := dataStep 2 fun x => x.ty == dBLIT && bParam x.brick == 0
def blitFill : Nat → Nat → State → State := dataStep 2 fun x => x.ty == dBLIT && bParam x.brick == 1
def brickQuery : Nat → Nat → State → State := dataStep 4 fun _ => true
def brickSetpos : Nat → Nat → State → State := dataStep 3 fun x => x.ty == dSAVE
def brickSeek : Nat → Nat → State → State := dataStep 3 fun x => x.ty == dMEDIA
def brickSetdst : Nat → Nat → State → State := dataStep 3 fun x => x.ty == dBLIT

/-- FLUSH empties the receive buffer unless its COUNT is wrong (R307). -/
def brickFlush (k i : Nat) : State → State :=
  brickStep (fun x => bOp x.brick == 3 && x.ty == dLINK)
    (fun dv st =>
      let st := dataBrick dv st i
      if (st.sub i).phase = .idle then st else st.setSub i { st.sub i with rx := [] }) k i

/-- GOTO, NOP and POST move nothing and complete at S (R303, R309). -/
def plainStep (op k i : Nat) : State → State :=
  brickStep (fun x => bOp x.brick == op) (fun _ st => planTransfer st i [] [] 0 false) k i

/-- PAUSE suspends the program and posts SUSPENDED at b + 4f − 1 (R303, R318). -/
def brickPause (k i : Nat) : State → State :=
  brickStep (fun x => bOp x.brick == 12)
    (fun _ st =>
      let x := st.sub i
      subPend (st.setSub i { x with phase := .suspended, idleN := 0 }) i (dataStart st.cls x.b - 1) 1 0 [] (some 3)
        (some { code := 1, flags := 2, dev := 0, resid := 0, baddr := x.addr })) k i

def brickWait (k i : Nat) : State → State := brickStep (fun x => bOp x.brick == 9) (fun _ st => startWait st i) k i

/-- The byte a MATCH reads, and whether the condition holds. -/
def matchHolds (cart : Bytes) (st : Stall) (time i : Nat) : Bool :=
  let x := st.sub i
  let e := heldTick st (matchTick st x)
  let b := (hodByte cart (agentView st i e) time e (bAddr x.brick)).toNat
  (b &&& bCount x.brick / 256) == bCount x.brick % 256

/-- The title's cartridge image of a stall. -/
def State.cartOf (s : State) (st : Stall) : Bytes := ((s.title? st.title).map (·.cart)).getD []

/-- WAIT_COMPLETE (R315). -/
def waitComplete (k i : Nat) (s : State) : State :=
  match s.hodReady k i with
  | none => s
  | some (st, _) =>
    let x := st.sub i
    if x.phase ≠ .waiting then s
    else if bParam x.brick = 3 then
      let e := matchTick st x
      let s := s.drainOf k
      if accessOk st false (bAddr x.brick) 1 (heldTick st e) 1 [] && matchHolds (s.cartOf st) st s.time i then
        (s.setStall (endWait (st.accessed (bAddr x.brick) 1) i (max (dataStart st.cls x.b) e))).makeResident (8 * k + i)
      else s
    else match waitTick st x with
      | some c => s.setStall (endWait st i c)
      | none => s

/-- BRICK_COMPLETE (R303, R309, R317). -/
def brickComplete (k i : Nat) (s : State) : State :=
  match s.hodReady k i with
  | none => s
  | some (st, _) =>
    let x := st.sub i
    if x.phase = .units ∧ x.units.isEmpty ∧ !controlReady x ∧ !(idleBrick x ∧ 255 ≤ x.idleN ∧ !x.ends) then s.setStall (completeBrick st i) else s

/-- HOD_LOOP: the 256th consecutive idle brick ends the program (R319). -/
def hodLoop (k i : Nat) (s : State) : State :=
  match s.hodReady k i with
  | none => s
  | some (st, _) =>
    let x := st.sub i
    if x.phase = .units ∧ x.units.isEmpty ∧ !controlReady x ∧ idleBrick x ∧ 255 ≤ x.idleN ∧ !x.ends then
      (s.setStall (endProgram st i (x.compl - 1) 3 0 (if isData (bOp x.brick) then bCount x.brick else 0) (bReport x.brick || bOp x.brick == 11))).inc
        HOD_ENDS_LOOP
    else s

/-- Perform the next unit of data, and send the delivery that is then complete (R311, R322, R323).
DEDUCED (log entry 60): a replay does not send again a delivery of before the fault point, since each brick sends ONE (R322, R498). -/
def State.dataUnit (s : State) (st : Stall) (i : Nat) (u : HUnit) : State :=
  let x := st.sub i
  if !accessOk st (u.kind == 1) u.addr u.len (if u.kind = 0 then heldTick st u.e else u.e) 1 (if u.data.isEmpty then List.replicate u.len 0 else u.data) && u.kind != 2 then s
  else
    let (st', d) := doUnit (s.cartOf st) st s.time i
    let s := (s.setStall st').makeResident (8 * st.num + i)
    match d with
    | none => s
    | some bs =>
      if x.ty = dLINK then
        match st.replayTo with
        | some t => if x.compl - 1 < t then s else s.linkOut st' i (x.compl - 1) x.linkSeq bs
        | none => s.linkOut st' i (x.compl - 1) x.linkSeq bs
      else if x.ty = dHOSTIO then s.capture 6 (8 * st.num + i) bs
      else s

/-- HOD_UNIT: a brick fetch, a gather list, a unit of data, or a MATCH read that does not hold; the stall's stores drain before its TICK
is reported for the access (R130, R309, R311, R313, R315). -/
def hodUnit (k i : Nat) (s : State) : State :=
  match s.hodReady k i with
  | none => s
  | some (st, _) =>
    let x := st.sub i
    let cart := s.cartOf st
    let s := s.drainOf k
    match x.phase with
    | .fetch =>
      let e := heldTick st x.b
      if accessOk st false x.addr 8 e 1 [] then
        let w := ofLE (hodBytes cart (agentView st i e) s.time e x.addr 8)
        (s.setStall ((st.accessed x.addr 8).setSub i { x with phase := .fetched, brick := w, noPeer := x.peer.isNone })).makeResident (8 * k + i)
      else s
    | .list =>
      let S := heldTick st (dataStart st.cls x.b)
      let dv := s.devsOf st
      if accessOk st false (bAddr x.brick) (listBytes dv cart st s.time i) S 1 [] then
        let st' := readList dv cart st s.time i
        ((s.setStall (st'.accessed (bAddr x.brick) (listBytes dv cart st s.time i))).countEnd (decide ((st'.sub i).phase = .idle))).makeResident (8 * k + i)
      else s
    | .units => (match x.units with | u :: _ => s.dataUnit st i u | [] => s)
    | .waiting =>
      if bParam x.brick = 3 && accessOk st false (bAddr x.brick) 1 (heldTick st (matchTick st x)) 1 [] && !matchHolds cart st s.time i then
        (s.setStall ((st.accessed (bAddr x.brick) 1).setSub i { x with moved := x.moved + 1 })).makeResident (8 * k + i)
      else s
    | _ => s

/-- Subchannel i has a step at or below tick `w` to make: a unit with access tick ≤ w, or a brick that completes there (R316). -/
def stepUpTo (st : Stall) (i w : Nat) : Bool := match subEff st i with | some e => decide (e ≤ w) | none => false

/-- A HOD_CMD write of an OP takes effect at its last tick, after the program's steps up to that tick (R316). -/
def cmdStep (op : Nat) (act : Stall → Nat → Stall) (k i : Nat) (s : State) : State :=
  match s.live k with
  | none => s
  | some (st, _) =>
    if 8 ≤ i ∨ s.get HOD_CTL_EN = 0 then s
    else match (st.sub i).cmds with
      | (o, w) :: r => if o = op ∧ !stepUpTo st i w then s.setStall (act (st.setSub i { st.sub i with cmds := r }) w) else s
      | [] => s

/-- HOD_START: a program whose address is not aligned ends at once as malformed (R305, R316). -/
def hodStartCmd (k i : Nat) (s : State) : State :=
  let s' := cmdStep 1 (fun st w => hodStart st i w) k i s
  let taken := match s.stall? k, s'.stall? k with
    | some a, some b => decide ((b.sub i).cmds.length < (a.sub i).cmds.length) && (a.sub i).state == 0 && (a.sub i).ty != dNONE && hodProg a i % 8 != 0
    | _, _ => false
  s'.countEnd taken

def hodHaltCmd (k i : Nat) : State → State := cmdStep 2 (fun st w => hodHalt st i w) k i
def hodResumeCmd (k i : Nat) : State → State := cmdStep 3 (fun st w => hodResume st i w) k i
def hodClearCmd (k i : Nat) : State → State := cmdStep 4 (fun st _ => hodClear st i) k i

/-! ### Assignments (R298, R299) -/

/-- The reason for which an assignment is refused, 0 for none. -/
def assignReason (o : Option Stall) (i ty : Nat) : Nat :=
  match o with
  | none => 4
  | some st =>
    if (st.sub i).state ≠ 0 then 1
    else if i < 3 then 2
    else if ty = dNONE ∨ ty = dLINK ∨ (ty = dBLIT ∧ st.cls = .N) ∨ (ty = dHOSTIO ∧ st.cls = .N ∧ st.freeRun) then 0
    else 3

/-- HOD_ASSIGN with GO: the assignment is made, or its refusal recorded. DESIGN CHOICE (log entry 98): the device begins with nothing
of the one before it, that is, position 0, an empty receive buffer, overrun count 0 and no OVERRUN latched. -/
def hodAssign (k i ty : Nat) (s : State) : State :=
  if !fwRuns s.mode ∨ 8 ≤ i then s
  else match assignReason (s.stall? k) i ty with
    | 0 => (s.onStall k fun st => st.setSub i { st.sub i with ty, pos := 0, rx := [], overruns := 0, overrun := false, later := none }).put
        HOD_ASSIGN_ERR_REASON 0
    | r => s.puts [(HOD_ASSIGN_ERR_REASON, r), (HOD_ASSIGN_ERR_VALID, 1)]

/-- A host-memory transfer of a HOSTIO subchannel has failed: its program ends with BUS_ERR at the stall's boundary (R323, R329). -/
def State.hostioFail (s : State) (k i : Nat) : State :=
  s.onStall k fun st =>
    let x := st.sub i
    let begun := x.phase != .fetch && isData (bOp x.brick)
    if x.ty = dHOSTIO ∧ x.phase ≠ .idle then
      endProgram st i st.tick 5 0 (if begun then bCount x.brick - x.moved else 0) (x.phase != .fetch && (bReport x.brick || bOp x.brick == 11))
    else st

/-! ### Host programs (R326 – R330) -/

def evHPost : Nat := 0x060
def evHodFault : Nat := 0x061

def hFld (f : Fld) (h : Nat) : Fld := f.nth 32 h
def State.hsub (s : State) (h : Nat) : HostSub := nthD s.hsubs h .reset
def State.setHsub (s : State) (h : Nat) (x : HostSub) : State := { s with hsubs := setNth s.hsubs h x }

/-- Fields of a host brick (R300, R302). -/
def hbOp (b : Bytes) : Nat := leAt b 7 1
def hbLink (b : Bytes) : Nat := leAt b 6 1 % 4
def hbDmode (b : Bytes) : Nat := leAt b 6 1 / 4 % 4
def hbReport (b : Bytes) : Bool := bitAt (leAt b 6 1) 4
def hbCount (b : Bytes) : Nat := leAt b 4 2 + leAt b 14 2 * 65536
def hbParam (b : Bytes) : Nat := leAt b 3 1
def hbAddr (b : Bytes) : Nat := leAt b 8 5

/-- A host brick is malformed (R302, R305, R307, R326). -/
def hostMalformed (joinOp : Nat) (b : Bytes) : Bool :=
  let op := hbOp b
  let dm := hbDmode b
  let data := op == 1 || op == 2 || op == 3
  !([1, 2, 3, 8, 9, 10, 11, 12].contains op) || leAt b 6 1 / 32 != 0 || leAt b 0 3 != 0 || leAt b 13 1 != 0 ||
    hbLink b == 3 || dm == 3 || (!data && (hbLink b == 1 || dm != 0)) || (dm == 2 && (op != 1 || hbAddr b != 0)) ||
    (op == 12 && hbAddr b != 0) || (joinOp != 0 && joinOp != op) || ([8, 10, 11, 12].contains op && hbCount b != 0) ||
    hbParam b != (if op = 3 then 1 else if op = 9 then 4 else 0) || (op == 8 && hbAddr b % 16 != 0)

/-- Post the status of host subchannel h (R327). -/
def State.hostPost (s : State) (h code flags resid baddr : Nat) : State :=
  let s := s.puts [(hFld HOD_HSTAT_CODE h, code), (hFld HOD_HRESID_RESID h, resid),
    (⟨0x600040 + 4 * (h / 32), h % 32, 1⟩, 1)]
  let area := leBytes 1 code ++ leBytes 1 flags ++ leBytes 1 0 ++ leBytes 1 h ++ leBytes 4 resid ++ leBytes 5 baddr ++ leBytes 3 0
  let a := s.get (hFld HOD_HCSA_ADDR h)
  let s := if a = 0 then s else match regionOfRange a 16 with
    | .hbm => s.hbmWrite a area
    | .host => if s.linkUp then s.hostWrite (s.hostAddr a) area else s
    | _ => s
  s.raise evHPost

/-- The program stands at the fetch of a brick, or at one whose translation has failed: it has no brick of its own yet (R321, R327). -/
def HostSub.atFetch (x : HostSub) : Bool := x.phase == .fetch || (x.phase == .fault && x.back == .fetch)

/-- Bytes of the brick in progress not moved. -/
def hostResid (x : HostSub) : Nat := if x.atFetch then 0 else if [1, 2, 3].contains (hbOp x.brick) then hbCount x.brick - x.off else 0

/-- End the program of host subchannel h (R327). -/
def State.hostEnd (s : State) (h code resid : Nat) : State :=
  let x := s.hsub h
  let rep := !x.atFetch && (hbReport x.brick || hbOp x.brick == 11)
  let s := s.setHsub h { x with phase := .idle, segs := [], joinOp := 0, idleN := 0 }
  (s.put (hFld HOD_HSTAT_STATE h) 0).hostPost h code (1 + 4 * b2n rep) resid x.addr

/-- The next brick of host subchannel h. -/
def State.hostBrick (s : State) (h addr joinOp : Nat) : State :=
  let s := s.setHsub h { s.hsub h with phase := .fetch, addr, joinOp, segs := [], off := 0, arg := [], since := s.time }
  s.put (hFld HOD_HSTAT_STATE h) 1

/-- Continue by the LINK field. -/
def State.hostContinue (s : State) (h : Nat) : State :=
  let x := s.hsub h
  s.hostBrick h (if hbOp x.brick = 8 then hbAddr x.brick else (x.addr + 16) % 2 ^ 40) (if hbLink x.brick = 1 then hbOp x.brick else 0)

/-- The brick of host subchannel h completes (R303, R319). -/
def State.hostComplete (s : State) (h : Nat) : State :=
  let x := s.hsub h
  let op := hbOp x.brick
  let idle := x.off == 0 && op != 9 && op != 12
  let n := if idle then x.idleN + 1 else 0
  let s := s.setHsub h { x with idleN := n }
  let resid := hostResid x
  if idle ∧ 256 ≤ n then (s.hostEnd h 3 resid).inc HOD_ENDS_LOOP
  else if hbLink x.brick = 0 ∧ op ≠ 8 then s.hostEnd h 0 resid
  else
    let s := if hbReport x.brick || op == 11 then s.hostPost h 0 4 resid x.addr else s
    s.hostContinue h

/-- The error HOD_DISABLED (R457). -/
def errHodDisabled : Nat := 0x17

/-- HOD_HSTART (R326, R328); with EN = 0 firmware refuses it with error HOD_DISABLED (R332). -/
def hodHstart (h : Nat) (s : State) : State :=
  if 64 ≤ h then s
  else if s.get HOD_CTL_EN = 0 then s.emit (.refused h errHodDisabled)
  else
    let x := s.hsub h
    let cerr := hFld HOD_HSTAT_CERR h
    if x.phase ≠ .idle then s.put cerr 1
    else
      let s := s.put cerr 0
      let p := s.get (hFld HOD_HPROG_ADDR h)
      let s := (s.setHsub h { x with idleN := 0 }).hostBrick h p 0
      if 16 ≤ h ∧ s.get HOD_HGRANT_HOST = 0 then s.hostEnd h 8 0
      else if p % 16 ≠ 0 then (s.hostEnd h 6 0).inc HOD_ENDS_MALFORMED
      else s

/-- HOD_HHALT: the program ends at its unit boundary (R326). -/
def hodHhalt (h : Nat) (s : State) : State :=
  if 64 ≤ h then s
  else
    let x := s.hsub h
    if x.phase = .idle then s.put (hFld HOD_HSTAT_CERR h) 2
    else (s.put (hFld HOD_HSTAT_CERR h) 0).hostEnd h 2 (hostResid x)

/-- HOD_HRESUME: after a PAUSE by its LINK field, after TRANS_FAULT at the unit not yet performed (R316, R321). -/
def hodHresume (h : Nat) (s : State) : State :=
  if 64 ≤ h then s
  else
    let x := s.hsub h
    let ok := s.put (hFld HOD_HSTAT_CERR h) 0
    match x.phase with
    | .paused =>
      if hbLink x.brick = 0 then ok.hostEnd h 0 0
      else (if hbReport x.brick then ok.hostPost h 0 4 0 x.addr else ok).hostContinue h
    | .fault => (ok.setHsub h { x with phase := x.back }).put (hFld HOD_HSTAT_STATE h) (if x.back = .waiting then 2 else 1)
    | _ => s.put (hFld HOD_HSTAT_CERR h) 2

/-- HOD_HCLEAR (R316). -/
def hodHclear (h : Nat) (s : State) : State :=
  if 64 ≤ h then s
  else if (s.hsub h).phase ≠ .idle then s.put (hFld HOD_HSTAT_CERR h) 2
  else s.puts [(hFld HOD_HSTAT_CERR h, 0), (hFld HOD_HSTAT_CODE h, 0), (hFld HOD_HRESID_RESID h, 0)]

/-- HOD_HGRANT_WRITE: clearing HOST ends every program on H16 – H63 (R328). -/
def hodHgrantWrite (host : Bool) (sheds : Nat) (s : State) : State :=
  let s := s.puts [(HOD_HGRANT_HOST, b2n host), (HOD_HGRANT_SHEDS, sheds)]
  if host then s
  else ((upto 48).map (· + 16)).foldl (fun s h => if (s.hsub h).phase = .idle then s else s.hostEnd h 8 (hostResid (s.hsub h))) s

/-- Why a unit may not be moved: PROTECT (R328, R359). -/
def State.hostRefused (s : State) (h : Nat) (x : HostSub) (a n : Nat) : Bool :=
  let write := hbOp x.brick == 2
  let dst := if write then x.pos else a
  let toDev := write || (hbOp x.brick == 1 && hbDmode x.brick != 2)
  decide (16 ≤ h) && ((hbOp x.brick != 3 && !s.granted (s.get HOD_HGRANT_SHEDS) x.pos n) || (toDev && regionOfRange dst n == .hbm && s.sealed dst n))

/-- Move one unit of host subchannel h (R311, R326, R328, R329). -/
def State.hostUnit (s : State) (io : Mmio) (h : Nat) (host : Option Bytes) : State :=
  let x := s.hsub h
  let op := hbOp x.brick
  match x.segs with
  | [] => s.hostComplete h
  | (a, n) :: r =>
    if n = 0 then s.setHsub h { x with segs := r }
    else
      let k := min n (256 - x.off % 256)
      let segs := if n = k then r else ((a + k) % 2 ^ 40, n - k) :: r
      let done := { x with segs, off := x.off + k, pos := if op = 3 then x.pos else (x.pos + k) % 2 ^ 40 }
      let resid := hostResid x
      if s.hostRefused h x a k then s.hostEnd h 9 resid
      else
        let fail (e : DevErr) (s : State) : State := match e with | .unbacked => s.hostEnd h 9 resid | .bus => s.hostEnd h 5 resid
        let src := if op = 1 then x.pos else a
        match devRead io s src k host with
        | .error e => fail e s
        | .ok (bs, s') =>
          if op = 3 then s'.setHsub h { done with arg := x.arg ++ bs }
          else if hbDmode x.brick = 2 then s'.setHsub h done
          else match devWrite io s' (if op = 1 then a else x.pos) bs host with
            | .error e => fail e s'
            | .ok s'' => s''.setHsub h done

/-- Act on a host brick just read (R303, R307, R320). -/
def State.hostFetched (s : State) (h : Nat) (b : Bytes) : State :=
  let x := s.hsub h
  if hostMalformed x.joinOp b then
    (({ s with hsubs := setNth s.hsubs h { x with phase := .units, brick := b } } : State).hostEnd h 6 (hbCount b)).inc HOD_ENDS_MALFORMED
  else
    let n := hbCount b
    let x := { x with brick := b, phase := .units, segs := [], off := 0, arg := [] }
    match hbOp b with
    | 9 => (s.setHsub h { x with phase := .waiting, since := s.time }).put (hFld HOD_HSTAT_STATE h) 2
    | 12 => ((s.setHsub h { x with phase := .paused, idleN := 0 }).put (hFld HOD_HSTAT_STATE h) 3).hostPost h 1 2 0 x.addr
    | 3 => if n ≠ 0 ∧ n ≠ 5 then (s.setHsub h x).hostEnd h 7 n
      else if hbDmode b = 1 ∧ 0 < n then s.setHsub h { x with phase := .list } else s.setHsub h { x with segs := [(hbAddr b, n)] }
    | 1 => if hbDmode b = 1 ∧ 0 < n then s.setHsub h { x with phase := .list } else s.setHsub h { x with segs := [(hbAddr b, n)] }
    | 2 => if hbDmode b = 1 ∧ 0 < n then s.setHsub h { x with phase := .list } else s.setHsub h { x with segs := [(hbAddr b, n)] }
    | _ => s.setHsub h x

/-- The entries of a host gather list of at most 256 (R304). -/
def hostGather (bs : Bytes) : List (Nat × Nat × Bool) :=
  (upto (bs.length / 16)).map fun i => (leAt bs (16 * i) 5, leAt bs (16 * i + 8) 4, leAt bs (16 * i + 5) 3 == 0 && leAt bs (16 * i + 12) 4 == 0)

/-- The bytes of its list that a host brick reads: 16 for each entry it uses, at most 256; the first that cannot be read ends the
walk (R304). -/
def State.hostListRead (s : State) (io : Mmio) (host : Option Bytes) (a : Nat) : Nat → Nat → Except DevErr (Bytes × State)
  | 0, _ => .ok ([], s)
  | _, 0 => .ok ([], s)
  | m + 1, need =>
    match devRead io s a 16 host with
    | .error e => .error e
    | .ok (b, s') =>
      match State.hostListRead s' io (host.map (·.drop 16)) ((a + 16) % 2 ^ 40) m (need - min need (leAt b 8 4)) with
      | .error e => .error e
      | .ok (r, s'') => .ok (b ++ r, s'')

/-- HOD_HOST_UNIT: the next step of a host program; `host` is what host memory answers, `fault` a failed translation (R321,
R326 – R329). -/
def hodHostUnit (io : Mmio) (h : Nat) (host : Option Bytes) (fault : Bool) (s : State) : State :=
  let x := s.hsub h
  if 64 ≤ h ∨ s.get HOD_CTL_EN = 0 ∨ !s.memServes ∨ x.phase = .idle ∨ x.phase = .paused ∨ x.phase = .fault then s
  else if fault then
    let s := s.setHsub h { x with phase := .fault, back := x.phase }
    let s := s.puts [(hFld HOD_HSTAT_STATE h, 3), (hFld HOD_HSTAT_CODE h, 4), (HOD_FAULT_SUB, 0x6000 + h), (HOD_FAULT_VALID, 1)]
    ((s.inc HOD_FAULT_COUNT).hostPost h 4 0 (hostResid x) x.addr).raise evHodFault
  else match x.phase with
    | .fetch => (match devRead io s x.addr 16 host with
      | .ok (b, s) => s.hostFetched h b
      | .error .unbacked => s.hostEnd h 9 0
      | .error .bus => s.hostEnd h 5 0)
    | .list => (match s.hostListRead io host (hbAddr x.brick) 256 (hbCount x.brick) with
      | .ok (b, s) =>
        let (segs, ok) := gather (hostGather b) (hbCount x.brick)
        if ok then s.setHsub h { x with phase := .units, segs } else (s.hostEnd h 6 (hbCount x.brick)).inc HOD_ENDS_MALFORMED
      | .error .unbacked => s.hostEnd h 9 (hbCount x.brick)
      | .error .bus => s.hostEnd h 5 (hbCount x.brick))
    | .waiting => if x.since + 1000 * hbCount x.brick ≤ s.time then s.hostComplete h else s
    | .units =>
      if x.segs.all (fun p => p.2 == 0) then
        let s := if hbOp x.brick = 3 ∧ x.off = 5 then s.setHsub h { x with pos := leAt x.arg 0 5 } else s
        s.hostComplete h
      else s.hostUnit io h host
    | _ => s

/-- A covered fault ends every host program that is not IDLE (R330). -/
def State.abortHost (s : State) : State :=
  (upto 64).foldl (fun s h => if (s.hsub h).phase = .idle then s else s.hostEnd h 10 (hostResid (s.hsub h))) s

end Sys2Proof.Machine
end

