-- ==== Sys2Proof/Machine/Mover.lean ====
section
/-! DEFINITION. The Mover: descriptor checks, the funnel, reshuffles and blits as sequences of accesses, stall-side accesses,
faults and halts (R335 – R355). -/
namespace Sys2Proof.Machine

def evMovDone : Nat := 0x068
def evMovError : Nat := 0x069
def evMovFault : Nat := 0x06A

def mFld (f : Fld) (c : Nat) : Fld := f.nth 64 c
def State.mov (s : State) (c : Nat) : MovCh := nthD s.movs c .idle
def State.setMov (s : State) (c : Nat) (x : MovCh) : State := { s with movs := setNth s.movs c x }

/-! ### Descriptor fields (R338) -/

def mOp (d : Bytes) : Nat := leAt d 0 1
def mCtl (d : Bytes) (i : Nat) : Bool := bitAt (leAt d 1 1) i
def mShape (d : Bytes) (lo w : Nat) : Nat := field (leAt d 2 1) lo w
def mStallSrc (d : Bytes) : Bool := bitAt (leAt d 3 1) 0
def mStallDst (d : Bytes) : Bool := bitAt (leAt d 3 1) 1
def mSStall (d : Bytes) : Nat := leAt d 4 2
def mDStall (d : Bytes) : Nat := leAt d 6 2
def mSAddr (d : Bytes) : Nat := leAt d 8 8
def mDAddr (d : Bytes) : Nat := leAt d 16 8
def mLen (d : Bytes) : Nat := leAt d 24 4
def mWidth (d : Bytes) : Nat := leAt d 24 2
def mHeight (d : Bytes) : Nat := leAt d 26 2
def mSPitch (d : Bytes) : Nat := leAt d 28 4
def mDPitch (d : Bytes) : Nat := leAt d 32 4
def mFill (d : Bytes) : Nat := leAt d 36 4

def isBlit (op : Nat) : Bool := op == 0x10 || op == 0x11 || op == 0x12
def isShuffle (op : Nat) : Bool := decide (2 ≤ op) && decide (op ≤ 5)
def opKnown (op : Nat) : Bool := op == 1 || isShuffle op || isBlit op

/-- Bytes per pixel of a format (R346). -/
def fmtBytes : Nat → Nat
  | 0 => 1 | 1 => 2 | 2 => 2 | _ => 4

def mSFmt (d : Bytes) : Nat := mShape d 0 4
def mDFmt (d : Bytes) : Nat := mShape d 4 4

/-- The element size and the ways of INTERLEAVE and DEINTERLEAVE. -/
def mElem (d : Bytes) : Nat := 2 ^ mShape d 0 2
def mWays (d : Bytes) : Nat := 2 ^ (mShape d 2 2 + 1)

/-- Fixed widths of DMA. -/
def mSw (d : Bytes) : Nat := 2 ^ mShape d 0 2
def mDw (d : Bytes) : Nat := 2 ^ mShape d 2 2

/-- An address field is well formed for its space. -/
def addrOk (stall : Bool) (a : Nat) : Bool := if stall then decide (a < 2 ^ 24) else decide (a < 2 ^ 40)

/-- MALFORMED: an unknown OP, a reserved or unused bit, a reserved SHAPE value (R338, R339). -/
def mMalformed (d : Bytes) : Bool :=
  let op := mOp d
  let c := leAt d 1 1
  let shape := leAt d 2 1
  let fill := op == 0x10
  !opKnown op || decide (32 ≤ c) || (op != 1 && c % 4 != 0) || (!isBlit op && c / 4 % 4 != 0) ||
    decide (4 ≤ leAt d 3 1) || (!mStallSrc d && mSStall d != 0) || (!mStallDst d && mDStall d != 0) ||
    decide (4096 ≤ mSStall d) || decide (4096 ≤ mDStall d) || !addrOk (mStallSrc d) (mSAddr d) || !addrOk (mStallDst d) (mDAddr d) ||
    (op == 1 && (decide (16 ≤ shape) || (!mCtl d 0 && mShape d 0 2 != 0) || (!mCtl d 1 && mShape d 2 2 != 0))) ||
    ((op == 2 || op == 3) && shape != 0) || ((op == 4 || op == 5) && (decide (16 ≤ shape) || mShape d 2 2 == 3)) ||
    (isBlit op && (decide (5 ≤ mDFmt d) || decide (5 ≤ mSFmt d))) ||
    (!isBlit op && (mSPitch d != 0 || mDPitch d != 0)) || (fill && (mSPitch d != 0 || mSAddr d != 0 || leAt d 3 1 % 2 != 0)) ||
    (!fill && mFill d != 0) || leAt d 40 8 != 0

/-- OK_EMPTY. -/
def mEmpty (d : Bytes) : Bool := if isBlit (mOp d) then mWidth d == 0 || mHeight d == 0 else mLen d == 0

/-- Bytes of destination of a DMA or reshuffle. -/
def mDstLen (d : Bytes) : Nat := match mOp d with | 2 => mLen d / 2 | 3 => 2 * mLen d | _ => mLen d

/-- The LEN rule of a reshuffle (R343). -/
def shuffleUnit (d : Bytes) : Nat := match mOp d with | 2 => 64 | 3 => 32 | _ => mElem d * mWays d

/-- The ranges a descriptor reads and writes: address and length per row or as one range. -/
def mSrcRanges (d : Bytes) : List (Nat × Nat) :=
  match mOp d with
  | 0x10 => []
  | 0x11 => (upto (mHeight d)).map fun y => (mSAddr d + y * mSPitch d, mWidth d * fmtBytes (mSFmt d))
  | 0x12 => (upto (mHeight d)).map fun y => (mSAddr d + y * mSPitch d, mWidth d * fmtBytes (mSFmt d))
  | _ => [(mSAddr d, if mCtl d 0 && mOp d == 1 then mSw d else mLen d)]
def mDstRanges (d : Bytes) : List (Nat × Nat) :=
  if isBlit (mOp d) then (upto (mHeight d)).map fun y => (mDAddr d + y * mDPitch d, mWidth d * fmtBytes (mDFmt d))
  else [(mDAddr d, if mCtl d 1 && mOp d == 1 then mDw d else mDstLen d)]

/-- FORMAT (R347). -/
def mFormatBad (d : Bytes) : Bool :=
  match mOp d with
  | 0x10 => mSFmt d != 0
  | 0x11 => mSFmt d != mDFmt d
  | 0x12 => mSFmt d == mDFmt d || mSFmt d == 0 || mDFmt d == 0
  | _ => false

/-- ALIGN (R342, R344, R348). -/
def mAlignBad (d : Bytes) : Bool :=
  let op := mOp d
  if op = 1 then
    (mCtl d 0 && (mSAddr d % mSw d != 0 || mLen d % mSw d != 0)) || (mCtl d 1 && (mDAddr d % mDw d != 0 || mLen d % mDw d != 0))
  else if isShuffle op then mLen d % shuffleUnit d != 0
  else
    let b := fmtBytes (mDFmt d)
    mDAddr d % b != 0 || mDPitch d % b != 0 ||
      (op != 0x10 && (mSAddr d % fmtBytes (mSFmt d) != 0 || mSPitch d % fmtBytes (mSFmt d) != 0))

/-- PITCH (R348). -/
def mPitchBad (d : Bytes) : Bool :=
  isBlit (mOp d) && decide (1 < mHeight d) &&
    (decide (mDPitch d < mWidth d * fmtBytes (mDFmt d)) || (mOp d != 0x10 && decide (mSPitch d < mWidth d * fmtBytes (mSFmt d))))

/-- RANGE (R339, R349). -/
def mRangeBad (d : Bytes) : Bool :=
  (isBlit (mOp d) && (decide (16384 < mWidth d) || decide (16384 < mHeight d))) ||
    (mStallSrc d && (mSrcRanges d).any fun r => decide (0x1000000 < r.1 + r.2)) ||
    (mStallDst d && (mDstRanges d).any fun r => decide (0x1000000 < r.1 + r.2))

/-- OVERLAP (R344). -/
def mOverlap (d : Bytes) : Bool :=
  isShuffle (mOp d) && mStallSrc d == mStallDst d && (!mStallSrc d || mSStall d == mDStall d) &&
    decide (mSAddr d < mDAddr d + mDstLen d) && decide (mDAddr d < mSAddr d + mLen d)

/-- A host channel's descriptor leaves its grant (R353). -/
def State.mProtect (s : State) (d : Bytes) : Bool :=
  let sheds := s.get MOV_GRANT_SHEDS
  let space := !bitAt sheds 1
  let bad (rs : List (Nat × Nat)) : Bool := rs.any fun r =>
    let touches (g : Space) : Bool := regionOf r.1 == g || regionOf (r.1 + (r.2 - 1)) == g
    (decide (r.1 < 0x1004000000) && decide (0x1000000000 < r.1 + r.2)) || (touches .hbm && (extentsOf r.1 r.2).any fun e => decide (e < 24576) &&
      (let c := s.get (extFld e); !(decide (1 ≤ c) && decide (c ≤ 6) && bitAt sheds (c - 1))))
  (if mStallSrc d then space && mOp d != 0x10 else bad (mSrcRanges d)) ||
    (if mStallDst d then space else bad (mDstRanges d) || (mDstRanges d).any fun r => regionOf r.1 == .hbm && s.sealed r.1 r.2)

/-- The first status that ends a descriptor before any access, none where it may run (R339). -/
def State.mCheck (s : State) (c : Nat) (d : Bytes) : Option Nat :=
  if mMalformed d then some 2
  else if mEmpty d then some 1
  else if (mStallSrc d && (s.stall? (mSStall d)).isNone) || (mStallDst d && (s.stall? (mDStall d)).isNone) then some 3
  else if mFormatBad d then some 4
  else if mAlignBad d then some 5
  else if mPitchBad d then some 6
  else if mRangeBad d then some 7
  else if mOverlap d then some 8
  else if decide (4 ≤ c) && s.mProtect d then some 9
  else if mStallDst d && (match s.stall? (mDStall d) with | some st => !st.freeRun | none => true) then some 10
  else none

/-! ### Pixels (R210, R347) -/

def exp5 (v : Nat) : Nat := v * 8 + v / 4

/-- A, R, G, B of a pixel value in a format. -/
def pixUnpack (f v : Nat) : Nat × Nat × Nat × Nat :=
  match f with
  | 1 => (255, exp5 (field v 10 5), exp5 (field v 5 5), exp5 (field v 0 5))
  | 2 => (if bitAt v 15 then 255 else 0, exp5 (field v 10 5), exp5 (field v 5 5), exp5 (field v 0 5))
  | 3 => (field v 24 8, field v 16 8, field v 8 8, field v 0 8)
  | _ => (255, field v 16 8, field v 8 8, field v 0 8)

def pixPack (f : Nat) (p : Nat × Nat × Nat × Nat) : Nat :=
  let (a, r, g, b) := p
  match f with
  | 1 => r / 8 * 1024 + g / 8 * 32 + b / 8
  | 2 => b2n (decide (128 ≤ a)) * 32768 + r / 8 * 1024 + g / 8 * 32 + b / 8
  | 3 => a * 2 ^ 24 + r * 65536 + g * 256 + b
  | _ => r * 65536 + g * 256 + b

/-- Convert n pixels. -/
def convert (sf df : Nat) (bs : Bytes) (n : Nat) : Bytes :=
  (upto n).flatMap fun i => leBytes (fmtBytes df) (pixPack df (pixUnpack sf (leAt bs (i * fmtBytes sf) (fmtBytes sf))))

/-! ### Planar tiles (R179) -/

/-- The plane and the row of byte o of a 4bpp planar tile. -/
def planeAt (o : Nat) : Nat × Nat := if o < 16 then (o % 2, o / 2) else (2 + o % 2, (o - 16) / 2)

/-- Where the byte of a plane and row lies. -/
def planeOff (p r : Nat) : Nat := if p < 2 then 2 * r + p else 14 + 2 * r + p

/-- The 32 bytes of a 4bpp planar tile of 64 indices. -/
def planePack (bs : Bytes) : Bytes :=
  (upto 32).map fun o =>
    let (p, r) := planeAt o
    BitVec.ofNat 8 ((upto 8).foldl (fun a c => a + (if bitAt (leAt bs (8 * r + c) 1) p then 2 ^ (7 - c) else 0)) 0)

/-- The 64 indices of a 4bpp planar tile. -/
def planeUnpack (bs : Bytes) : Bytes :=
  (upto 8).flatMap fun r => (upto 8).map fun c =>
    BitVec.ofNat 8 ((upto 4).foldl (fun a p => a + (if bitAt (leAt bs (planeOff p r) 1) (7 - c) then 2 ^ p else 0)) 0)

/-! ### Accesses in order -/

/-- One access of a descriptor: write, on a stall, address, bytes of a read or data of a write. -/
structure MAcc where
  write : Bool
  stall : Option Nat
  addr  : Nat
  len   : Nat
  data  : Bytes

/-- The reads of step k of a reshuffle or blit, and its writes from the bytes read. -/
structure MStep where
  reads  : List (Nat × Nat)
  writes : Bytes → List (Nat × Bytes)

/-- Pixels per row segment (R345, R349). -/
def segPixels (d : Bytes) : Nat := 4096 / (if mOp d = 0x10 then fmtBytes (mDFmt d) else max (fmtBytes (mSFmt d)) (fmtBytes (mDFmt d)))

/-- Steps of a reshuffle or blit: tiles, elements, or row segments. -/
def mSteps (d : Bytes) : Nat :=
  if isBlit (mOp d) then mHeight d * ceilDiv (mWidth d) (segPixels d) else mLen d / shuffleUnit d

/-- Row and segment of blit step k in the order of R345. -/
def blitPos (d : Bytes) (k : Nat) : Nat × Nat :=
  let n := ceilDiv (mWidth d) (segPixels d)
  let y := k / n
  let g := k % n
  (if mCtl d 3 then mHeight d - 1 - y else y, if mCtl d 2 then n - 1 - g else g)

/-- Step k of a reshuffle (R343) or blit (R345). -/
def mStep (d : Bytes) (k : Nat) : MStep :=
  match mOp d with
  | 2 => ⟨[(mSAddr d + 64 * k, 64)], fun b => [(mDAddr d + 32 * k, planePack b)]⟩
  | 3 => ⟨[(mSAddr d + 32 * k, 32)], fun b => [(mDAddr d + 64 * k, planeUnpack b)]⟩
  | 4 =>
    let e := mElem d
    let w := mWays d
    ⟨(upto w).map fun p => (mSAddr d + p * (mLen d / w) + k * e, e), fun b => [(mDAddr d + k * w * e, b)]⟩
  | 5 =>
    let e := mElem d
    let w := mWays d
    ⟨[(mSAddr d + k * w * e, w * e)], fun b => (upto w).map fun p => (mDAddr d + p * (mLen d / w) + k * e, sliceBytes b (p * e) e)⟩
  | op =>
    let (y, g) := blitPos d k
    let sp := segPixels d
    let n := min sp (mWidth d - g * sp)
    let sb := fmtBytes (mSFmt d)
    let db := fmtBytes (mDFmt d)
    let src := (mSAddr d + y * mSPitch d + g * sp * sb, n * sb)
    let dst := mDAddr d + y * mDPitch d + g * sp * db
    if op = 0x10 then ⟨[], fun _ => [(dst, (upto n).flatMap fun _ => leBytes db (mFill d))]⟩
    else if op = 0x11 then ⟨[src], fun b => [(dst, b)]⟩
    else ⟨[src], fun b => [(dst, convert (mSFmt d) (mDFmt d) b n)]⟩

/-- The next access of the descriptor in progress; none when it has completed (R341 – R345). -/
def MovCh.next (x : MovCh) : Option MAcc :=
  let d := x.desc
  let ss := if mStallSrc d then some (mSStall d) else none
  let ds := if mStallDst d then some (mDStall d) else none
  if mOp d = 1 then
    if x.leftW = 0 then none
    else
      let w := if mCtl d 1 then mDw d else min (64 - x.wr % 64) x.leftW
      if x.held.length < w then
        some { write := false, stall := ss, addr := x.rd, len := if mCtl d 0 then mSw d else min (64 - x.rd % 64) x.leftR, data := [] }
      else some { write := true, stall := ds, addr := x.wr, len := w, data := x.held.take w }
  else if mSteps d ≤ x.step then none
  else
    let st := mStep d x.step
    match st.reads[x.acc]? with
    | some (a, n) => some { write := false, stall := ss, addr := a, len := n, data := [] }
    | none => match (st.writes x.held)[x.acc - st.reads.length]? with
      | some (a, bs) => some { write := true, stall := ds, addr := a, len := bs.length, data := bs }
      | none => none

/-- The channel after its access has been made; `bs` are the bytes of a read. -/
def MovCh.advance (x : MovCh) (a : MAcc) (bs : Bytes) : MovCh :=
  let d := x.desc
  if mOp d = 1 then
    if a.write then { x with held := x.held.drop a.len, leftW := x.leftW - a.len, wr := if mCtl d 1 then x.wr else x.wr + a.len }
    else { x with held := x.held ++ bs, leftR := x.leftR - a.len, rd := if mCtl d 0 then x.rd else x.rd + a.len }
  else
    let st := mStep d x.step
    let held := if a.write then x.held else x.held ++ bs
    let n := st.reads.length + (st.writes held).length
    if x.acc + 1 < n then { x with acc := x.acc + 1, held } else { x with step := x.step + 1, acc := 0, held := [] }

/-- RESID: destination bytes not written, or rows not completed (R338). -/
def MovCh.resid (x : MovCh) : Nat :=
  let d := x.desc
  if mOp d = 1 then x.leftW
  else if isBlit (mOp d) then mHeight d - x.step / ceilDiv (mWidth d) (segPixels d)
  else
    let per := mDstLen d / max 1 (mSteps d)
    let part := match mOp d with | 5 => (x.acc - 1) * mElem d | _ => 0
    mDstLen d - x.step * per - part

/-! ### Completion and descriptors (R336, R340) -/

/-- Ring base, and entries of channel c's ring. -/
def State.movBase (s : State) (c : Nat) : Nat := s.get (mFld MOV_CH_BASE_ADDR c) * 64
def State.movSize (s : State) (c : Nat) : Nat := 2 ^ s.get (mFld MOV_CH_SIZE_LOG2 c)

/-- Write device memory where the ring lies; a ring outside HBM and the host window takes nothing. -/
def State.ringPut (s : State) (a : Nat) (bs : Bytes) : State :=
  match regionOfRange a bs.length with
  | .hbm => s.hbmWrite a bs
  | .host => if s.linkUp then s.hostWrite (s.hostAddr a) bs else s
  | _ => s

/-- End the descriptor at CI of channel c with a status (R340). -/
def State.movEnd (s : State) (c status resid : Nat) (irq : Bool) : State :=
  let ci := s.get (mFld MOV_CH_CI_INDEX c)
  let tail := leBytes 1 status ++ leBytes 1 1 ++ leBytes 2 0 ++ leBytes 4 resid ++ leBytes 8 s.time
  let s := s.ringPut (s.movBase c + 64 * ci + 48) tail
  let s := s.setMov c .idle
  let s := s.puts [(mFld MOV_CH_CI_INDEX c, (ci + 1) % s.movSize c), (mFld MOV_CH_STAT_LAST c, status), (mFld MOV_CH_STAT_STATE c, 0)]
  let s := if irq then (s.put ⟨0x70000C, c, 1⟩ 1).raise evMovDone else s
  if 1 < status then s.raise evMovError else s

/-- The access of channel c that a stall-side burst or segment makes; its stall stands at a boundary where it may be made, or where
its translation fails (R350 – R352, R165). -/
def movStallMay (s : State) (st : Stall) (a : MAcc) : Bool :=
  !(decide (st.sched = .parked) || decide (st.sched = .halted) || st.tick == 0 || decide (0 < st.cpu.lock) || !boundaryClear s st ||
      !agentsClear st st.tick || pendStuck st) &&
    (if a.write then rangeFaulted st a.addr a.len ||
        (notAhead st && !copyPending st [(a.addr, a.data)] && stampRoom st (agentStamps st.cls (st.tick - 1) 2 a.addr a.data))
      else readFaulted st a.addr a.len || catchUpOk st a.addr a.len st.tick)

/-- The translation of an access fails: of a byte that it writes, or of one that it reads (R352). -/
def movFaulted (st : Stall) (a : MAcc) : Bool := if a.write then rangeFaulted st a.addr a.len else readFaulted st a.addr a.len

/-- Channel d has a burst or segment access that can be made now (R336). -/
def State.movReady (s : State) (d : Nat) : Bool :=
  let x := s.mov d
  x.busy && !x.fault && s.get MOV_CTL_EN == 1 && s.memServes &&
    match x.next with
    | none => false
    | some a => match a.stall with
      | none => true
      | some k => match s.live k, s.stall? k with
        | some (st, _), _ => movStallMay s st a
        | none, some _ => false
        | none, none => true

/-- The channel stands between the read and the write of a blit's row segment (R345). -/
def MovCh.inSegment (x : MovCh) : Bool := x.busy && isBlit (mOp x.desc) && x.acc != 0

/-- Round robin, one burst or one row segment at a time: no other channel can go on with a segment it has begun, and no ready channel
stands between the channel served last and channel c (R336, R345). -/
def State.movTurn (s : State) (c : Nat) : Bool :=
  let far (d : Nat) : Nat := (d + 7 - s.movLast % 8) % 8
  (s.mov c).inSegment ||
    !((upto 8).any fun d => ((s.mov d).inSegment || decide (far d < far c)) && s.movReady d)

/-- Channel c stands in progress `x` after an access; a halt that waited for the end of a segment ends its descriptor (R354). -/
def State.movStep (s : State) (c : Nat) (x : MovCh) : State :=
  let s := { s with movLast := c }
  if x.halting ∧ x.acc = 0 then s.movEnd c 13 x.resid (mCtl x.desc 4) else s.setMov c x

/-- A descriptor as a channel begins it. -/
def MovCh.start (d : Bytes) : MovCh :=
  { MovCh.idle with busy := true, desc := d, rd := mSAddr d, wr := mDAddr d, leftR := mLen d, leftW := mLen d }

/-- End a descriptor refused by its checks: nothing of its destination is written, and of an unknown OP RESID is a free value; nothing is
left of an empty one (R338, R339). -/
def State.movRefuse (s : State) (c : Nat) (d : Bytes) (status : Nat) : State :=
  if opKnown (mOp d) then s.movEnd c status (if status = 1 then 0 else (MovCh.start d).resid) (mCtl d 4)
  else
    let (v, s) := s.draw (2 ^ 32)
    s.movEnd c status v (mCtl d 4)

/-- Channel c may start its next descriptor (R335 – R337). -/
def State.movMayStart (s : State) (c : Nat) : Bool :=
  decide (c < 8) && s.get MOV_CTL_EN == 1 && s.memServes && s.get (mFld MOV_CH_CTL_RUN c) == 1 && s.get (mFld MOV_CH_STAT_CFGERR c) == 0 &&
    !(s.mov c).busy && s.get (mFld MOV_CH_CI_INDEX c) != s.get (mFld MOV_CH_PI_INDEX c) % s.movSize c &&
    (decide (c < 4) || s.get MOV_GRANT_HOST == 1)

/-- LOG2 outside 4 – 12 sets CFGERR (R337). -/
def State.movConfig (s : State) (c : Nat) : State :=
  let l := s.get (mFld MOV_CH_SIZE_LOG2 c)
  s.put (mFld MOV_CH_STAT_CFGERR c) (b2n (decide (l < 4) || decide (12 < l)))

/-- Start a descriptor of one of the OPs given, or end it by its checks (R336, R339). A descriptor of an unknown OP is ended by
any of these commands. -/
def State.movStart (s : State) (c : Nat) (ops : List Nat) (ring : Option Bytes) : State :=
  let a := s.movBase c + 64 * s.get (mFld MOV_CH_CI_INDEX c)
  let got : Option Bytes := match regionOfRange a 64 with
    | .hbm => some (s.devBytes a 64)
    | .host => if s.linkUp then ring.map fun b => sliceBytes b 0 64 else none
    | _ => none
  match got with
  | none => s.movEnd c (if regionOf a = .host then 12 else 11) 0 false
  | some d =>
    if opKnown (mOp d) ∧ !ops.contains (mOp d) then s
    else match s.mCheck c d with
      | some r => s.movRefuse c d r
      | none => (s.setMov c (MovCh.start d)).put (mFld MOV_CH_STAT_STATE c) 1

/-- Make the next access of channel c, on device addresses, in its turn, or end the descriptor that has none left (R336, R352). -/
def State.movAccess (s : State) (io : Mmio) (c : Nat) (host : Option Bytes) : State :=
  let x := s.mov c
  let irq := mCtl x.desc 4
  match x.next with
  | none => s.movEnd c 0 0 irq
  | some a =>
    if a.stall.isSome ∨ !s.movTurn c then s
    else
      let fail (e : DevErr) (s : State) : State := s.movEnd c (match e with | .unbacked => 11 | .bus => 12) x.resid irq
      if a.write then match devWrite io s a.addr a.data host with
        | .ok s => s.movStep c (x.advance a [])
        | .error e => fail e s
      else match devRead io s a.addr a.len host with
        | .ok (bs, s) => s.movStep c (x.advance a bs)
        | .error e => fail e s

/-- A command of the Mover's OPs: the descriptor at CI starts, or the one in progress makes its next device-side access. -/
def movCmd (io : Mmio) (ops : List Nat) (c : Nat) (host : Option Bytes) (s : State) : State :=
  if 8 ≤ c then s
  else
    let x := s.mov c
    if x.busy then (if ops.contains (mOp x.desc) ∧ !x.fault ∧ s.get MOV_CTL_EN = 1 ∧ s.memServes then s.movAccess io c host else s)
    else if s.movMayStart c then s.movStart c ops host
    else s

/-- MOV_CH_PI: a write of the producer index (R336). -/
def movChPi (c pi : Nat) (s : State) : State := if c < 8 then s.put (mFld MOV_CH_PI_INDEX c) pi else s

/-- The bytes a Mover read of stall memory returns at its boundary (R350, R351). -/
def movStallBytes (cart : Bytes) (st : Stall) (time a n : Nat) : Bytes := hodBytes cart st time st.tick a n

/-- MOVER_STALL_ACCESS: the stall-side burst or segment at tick T of the stall's boundary, in the channel's turn, once the stall's
stores have drained; a failed translation puts the channel in FAULT (R130, R336, R350 – R352). A stall that has been destroyed since the
descriptor began ends it with ADDR (DESIGN CHOICE, log entry 91). -/
def moverStallAccess (c : Nat) (s : State) : State :=
  let x := s.mov c
  if 8 ≤ c ∨ !s.movReady c ∨ !s.movTurn c then s
  else match x.next with
    | none => s
    | some a => match a.stall with
      | none => s
      | some k => match s.live k with
        | none => s.movEnd c 11 x.resid (mCtl x.desc 4)
        | some (st, _) =>
          if movFaulted st a then
            let s := ({ s with movLast := c } : State).setMov c { x with fault := true }
            let s := s.puts [(mFld MOV_CH_STAT_STATE c, 2), (MOV_FAULT_CH, c), (MOV_FAULT_VALID, 1)]
            (s.inc MOV_FAULT_COUNT).raise evMovFault
          else
            let s := s.drainOf k
            if a.write then (s.setStall (agentWrite st 2 (st.tick - 1) 8 a.addr a.data)).movStep c (x.advance a [])
            else (s.setStall (st.accessed a.addr a.len)).movStep c (x.advance a (movStallBytes (s.cartOf st) st s.time a.addr a.len))

/-- MOV_FAULT_RESUME (R352). -/
def movFaultResume (c : Nat) (s : State) : State :=
  let x := s.mov c
  if 8 ≤ c ∨ !x.fault then s
  else match x.next.bind fun a => a.stall.map fun k => (k, a) with
    | none => s
    | some (k, a) => match s.stall? k with
      | some st => if movFaulted st a then s else (s.setMov c { x with fault := false }).put (mFld MOV_CH_STAT_STATE c) 1
      | none => s

/-- MOV_HALT: RUN is cleared, and the descriptor in progress ends at the next burst or segment boundary; between the accesses of a
segment it goes on to the segment's end (R354). -/
def movHalt (c : Nat) (s : State) : State :=
  if 8 ≤ c then s
  else
    let x := s.mov c
    let s := s.put (mFld MOV_CH_CTL_RUN c) 0
    if !x.busy then s
    else if isBlit (mOp x.desc) ∧ x.acc ≠ 0 then s.setMov c { x with halting := true }
    else s.movEnd c 13 x.resid (mCtl x.desc 4)

/-- A covered fault ends every descriptor in progress (R355). -/
def State.abortMover (s : State) : State :=
  (upto 8).foldl (fun s c => let x := s.mov c; if x.busy then s.movEnd c 14 x.resid (mCtl x.desc 4) else s) s

end Sys2Proof.Machine
end

