-- ==== Sys2Proof/Machine/Faults.lean ====
section
/-! DEFINITION. FAIL_STOP, covered faults and their recovery, memory errors, and the MP cores with their watchdogs (R166, R167,
R362 – R365, R380, R381, R437, R492 – R502). -/
namespace Sys2Proof.Machine

/-! ### FAIL_STOP (R437, R502) -/

def evFailStop : Nat := 0x081

/-- Enter FAIL_STOP: the capture registers, the mode, MSI-X vector 0 (R437). -/
def State.failStop (s : State) (reason ring index : Nat) (entry : Bytes) : State :=
  let s := s.puts [(FSTOP_CAUSE_REASON, reason), (FSTOP_CAUSE_RING, ring), (FSTOP_CAUSE_INDEX, index), (FSTOP_CAUSE_VALID, 1),
    (FSTOP_TIME_TIME, s.time)]
  let s := (upto 16).foldl (fun s k => s.put (FSTOP_ENTRY_DWORD.nth 4 k) (leAt entry (4 * k) 4)) s
  let s := { s with alert := true, rstDue := none }
  ((s.toMode .failStop reason).raise evFailStop).msix 0

/-- Modes from which an unrecoverable fault stops the device (R481). -/
def mayFailStop : Mode → Bool
  | .debugFreeze => true
  | m => fwRuns m

/-- UNRECOVERABLE_FAULT: a fault of R502 on a unit. -/
def unrecoverableFault (reason unit : Nat) (s : State) : State :=
  if mayFailStop s.mode ∧ 0x40 ≤ reason ∧ reason ≤ 0x44 then s.failStop reason 0 0 (leBytes 2 unit) else s

/-! ### Work discarded (R330, R355, R497) -/

/-- Ring jobs that run end with ABORTED_FAULT (R435). -/
def State.abortJobs (s : State) (ok : Job → Bool) : State :=
  let end_ (j : Job) : Job := match j.phase with
    | .running => if ok j then { j with phase := .done 9 j.moved } else j
    | _ => j
  let rs : List Ring := s.rings.map fun r => { r with jobs := r.jobs.map end_ }
  { s with rings := rs }

/-- What a covered fault discards beside the failed unit's own work: bit 0 the Hod engine's host programs, bit 1 the Mover's
descriptors, bit 2 the ring jobs. -/
def State.discard (s : State) (lost : Nat) : State :=
  let s := if bitAt lost 0 then s.abortHost else s
  let s := if bitAt lost 1 then s.abortMover else s
  if bitAt lost 2 then s.abortJobs fun _ => true else s

/-! ### Restore and replay of stalls (R166, R167, R498, R501) -/

/-- Destroy a stall that nothing can restore (R501). -/
def State.loseStall (s : State) (k : Nat) : State := (s.destroyStall k false).notice nStallLost k 0 0

/-- Restore stall k and replay it, or park it with a reason. -/
def State.restore (s : State) (k : Nat) (park : Option Nat) : State :=
  match s.stall? k with
  | none => s
  | some st =>
    let s := s.drainOf k
    let (init, save) := s.creation st
    match restoreStall init save st with
    | none => s.loseStall k
    | some st' => match park with
      | none => s.setStall st'
      | some r => (s.setStall { st' with sched := .parked, reasons := addNew r st'.reasons, parkedAt := s.time }).notice nParked k r 0

/-- The reason with which restored stalls are parked: RECOVER in host-assisted mode (R498). -/
def State.recoverReason (s : State) : Option Nat := if s.split spRECOVER then some rsnRECOVER else none

/-- The recovery of a fenced slot: takeover by slot 16, or loss of the logical stable (R166, R167). A stall whose set cannot be bound on
slot 16 has none bound, UCSET 0x1F (DESIGN CHOICE, log entry 86). -/
def State.recoverSlot (s : State) (slot : Nat) : State :=
  match s.lOfSlot slot with
  | none => s
  | some l =>
    let ks := (s.stallsOn slot).map (·.num)
    let old := [(atSlot STB_STATE_LSTABLE slot, 0), (atSlot STB_STATE_MAPPED slot, 0)]
    if s.get (atSlot STB_STATE_STATE 16) = 2 ∧ slot ≠ 16 then
      let s := s.puts (old ++ [(lmapSlot l, 16), (lmapValid l, 1), (atSlot STB_STATE_STATE 16, 3), (atSlot STB_STATE_LSTABLE 16, l),
        (atSlot STB_STATE_MAPPED 16, 1), (atSlot STB_CTL_RUN 16, 1), (atSlot RAS_CTL_EN 16, 1), (atSlot RAS_CTL_HINT 16, 1)])
      let s := { s with takeoverAt := s.time }
      let s := (s.raise evTakeover).spareFlag
      let r := s.recoverReason
      ks.foldl (fun s k =>
        let (b, s) := s.rebind k 16
        let s := s.setUcs k (match b with | .ok u => u | .error _ => 0x1F)
        s.restore k r) s
    else
      let s := s.puts (old ++ [(lmapValid l, 0)])
      let s := s.setDegrade FLT_DEGRADE_STABLE_LOST 1
      ks.foldl (fun s k => s.restore k (some rsnFENCE)) s

/-- A slot that fails or is fenced: it stops at once; its recovery waits for the end of DEBUG_FREEZE (R166, R500). -/
def State.slotGone (s : State) (slot kind : Nat) : State :=
  let s := s.fenceSlot slot
  if s.mode = .debugFreeze then { s with deferred := s.deferred ++ [(kind, slot)] } else s.recoverSlot slot

/-- The slot can fail: it is neither off nor FENCED. -/
def State.slotLive (s : State) (slot : Nat) : Bool :=
  let v := s.get (atSlot STB_STATE_STATE slot)
  decide (slot < 17) && v != 0 && v != 4 && mayFailStop s.mode

/-- CORE_FAULT: unit 0 – 3 a session core, 4 the raster unit (R496). -/
def coreFault (slot unit lost : Nat) (s : State) : State :=
  if s.slotLive slot ∧ unit < 5 then ((s.recordFault 1 (slot * 8 + unit)).discard lost).slotGone slot 1 else s

/-- STORE_FAULT (R496). -/
def storeFault (slot lost : Nat) (s : State) : State :=
  if s.slotLive slot then ((s.recordFault 2 slot).discard lost).slotGone slot 2 else s

/-- STB_FENCE: a write of STB_CTL.FENCE = 1 sets it and fences the slot now, whatever its state, and where firmware runs or is frozen
its stable is taken over (R7, R166, R169). -/
def stbFence (slot : Nat) (s : State) : State :=
  if 17 ≤ slot then s
  else
    let s := s.put (atSlot STB_CTL_FENCE slot) 1
    if s.get (atSlot STB_STATE_STATE slot) = 4 then s
    else if mayFailStop s.mode then s.slotGone slot 1
    else s.fenceSlot slot

/-- A stall has come through its recovery: replayed with lag 0, or parked or halted at its fault point, or left to the host. -/
def recovered (time : Nat) (st : Stall) : Bool :=
  if st.replayTo.isSome then st.reasons.contains rsnRECOVER
  else decide (st.sched = .parked) || decide (st.sched = .halted) || decide (lagAt time st ≤ 0)

/-- TAKEOVER_COMPLETE: slot 16 becomes ACTIVE (R166, R507). -/
def takeoverComplete (s : State) : State :=
  if s.get (atSlot STB_STATE_STATE 16) = 3 ∧ stallsExecute s.mode ∧ (s.stallsOn 16).all (recovered s.time) then
    s.puts [(atSlot STB_STATE_STATE 16, 1), (FLT_RECOVER_LAST_US, min 65535 ((s.time - s.takeoverAt) / 1000))]
  else s

/-- The stall after its fault point: one parked or halted at detection stands parked or halted again (R498, R524). -/
def Stall.replayed (st : Stall) (time : Nat) : Stall :=
  let back : Stall := { st with replayTo := none, replayHalt := false, quiet := false }
  if st.replayHalt then { back with sched := .halted, hold := .none }
  else if !st.reasons.isEmpty then { back with sched := .parked, hold := .none, parkedAt := time }
  else back

/-- FAULT_POINT_REACHED: the RECOVERED notice, but for a quiet replay (R498). -/
def faultPointReached (k : Nat) (s : State) : State :=
  match s.live k with
  | none => s
  | some (st, _) => match st.replayTo with
    | none => s
    | some t =>
      if t ≤ st.tick ∧ !(st.reasons.contains rsnRECOVER) then
        let s := s.setStall (st.replayed s.time)
        if st.quiet then s else s.notice nRecovered k 0 t
      else s

/-! ### Memory errors (R362 – R365, R501) -/

def evMemUe : Nat := 0x070
def evRetire : Nat := 0x071

/-- Extents of a stack with code RETIRED. -/
def State.retiredExts (s : State) (stack : Nat) : Nat := ((upto 12288).filter fun e => s.get (extFld (stack * 12288 + e)) == 7).length

/-- FLT_DEGRADE.HBM once more than 64 extents of a stack are RETIRED (R365). -/
def State.noteHbm (s : State) (stack : Nat) : State := if 64 < s.retiredExts stack then s.setDegrade FLT_DEGRADE_HBM 1 else s

def retCount (stack : Nat) : Fld := if stack = 0 then MEM_RETIRED_STACK0 else MEM_RETIRED_STACK1

/-- The stack of a 4 KiB frame. -/
def frameStack (f : Nat) : Nat := f / 6291456

/-! ### Moving what extents hold (R363, R365, R501) -/

/-- A run of extents at a new place: `k` of them from `e` are now at `x`, and where they are twinned, as given on stack 0, so are their
twins. -/
structure Shift where
  twin : Bool
  e    : Nat
  k    : Nat
  x    : Nat

/-- Where an extent is after a shift. -/
def Shift.ext (t : Shift) (i : Nat) : Nat :=
  let j := if t.twin then i % 12288 else i
  if t.e ≤ j ∧ j < t.e + t.k then i + t.x - t.e else i

/-- Where an HBM address is after a shift. -/
def Shift.addr (t : Shift) (a : Nat) : Nat := if a < 0xC00000000 then 0x200000 * t.ext (a / 0x200000) + a % 0x200000 else a

/-- A stream descriptor that names the new places of its output and hint areas. -/
def Shift.desc (t : Shift) (d : Bytes) : Bytes :=
  if d.length < 32 then d else putBytes d 16 (leBytes 8 (t.addr (dOut d)) ++ leBytes 8 (t.addr (dHint d)))

def Shift.bed (t : Shift) (b : Bed) : Bed := { b with addr := t.addr b.addr, exts := b.exts.map t.ext }

/-- A stream whose areas and beds are at their new places. -/
def Shift.stream (t : Shift) (x : Stream) : Stream :=
  { x with act := t.desc x.act, shadow := t.desc x.shadow, exts := x.exts.map t.ext, beds := x.beds.map t.bed
           esd := { x.esd with outAddr := t.addr x.esd.outAddr, refAddr := t.addr x.esd.refAddr }
           descs := x.descs.map fun p => (p.1, t.desc p.2)
           frames := x.frames.map fun f => { f with desc := t.desc f.desc, beds := f.beds.map t.bed }
           commit := x.commit.map fun c => { c with copy := t.desc c.copy, beds := c.beds.map t.bed }
           enc := { x.enc with ready := x.enc.ready.map fun r => { r with out := t.addr r.out } } }

/-- A stall whose areas are at their new places. -/
def Shift.stall (t : Shift) (st : Stall) : Stall :=
  { st with exts := st.exts.map t.ext, ckExts := st.ckExts.map t.ext, lineArea := t.addr st.lineArea, hintArea := t.addr st.hintArea
            lane := st.lane.map fun l => { l with outAddr := t.addr l.outAddr, exts := l.exts.map t.ext } }

/-- The base registers of firmware's tables name their new places. -/
def State.shiftTables (s : State) (t : Shift) : State :=
  let s := fwTables.foldl (fun s p => s.put p.1 (t.addr (s.get p.1 * 512) / 512)) s
  s.put MEM_PTDIR_BASE_ADDR (t.addr (s.get MEM_PTDIR_BASE_ADDR * 65536) / 65536)

/-- The bytes of an extent copied to another. -/
def copyExtent (m : Mem) (e x : Nat) : Mem :=
  (m.filter fun p => p.1 / 0x200000 == e).foldl (fun m p => Memory.set m (0x200000 * x + p.1 % 0x200000) p.2) m

/-- The extents that a shift moves. -/
def Shift.moved (t : Shift) : List Nat :=
  let l := (upto t.k).map (t.e + ·)
  if t.twin then withTwins l else l

/-- Move what a run of extents holds: the bytes, codes and seals go to the new extents, everything that names an address there names the
new one, and the old extents are FREE (R365, R366, R376, R380). -/
def State.shift (s : State) (t : Shift) : State :=
  let l := t.moved
  let new := l.map fun e => (e, t.ext e)
  let s := s.puts (new.flatMap fun p => [(extFld p.2, s.get (extFld p.1)), (sealFld p.2, s.get (sealFld p.1))])
  let s := s.puts (l.flatMap fun e => [(extFld e, 0), (sealFld e, 0)])
  let s := if new.any fun p => decide (1 ≤ p.1 % 12288) && decide (p.1 % 12288 ≤ fwExts) then s.shiftTables t else s
  { s with hbm := new.foldl (fun m p => copyExtent m p.1 p.2) s.hbm, stalls := s.stalls.map t.stall, streams := s.streams.map t.stream
           titles := s.titles.map fun x => { x with exts := x.exts.map t.ext }
           validating := s.validating.map fun v => (v.1, t.desc v.2) }

/-- The extents of areas that must stay in one run: a stream's, a lane's, a line area's, a bed's, and firmware's tables. -/
def State.runs (s : State) : List (List Nat) :=
  ((upto fwExts).map (1 + ·)) :: (s.streams.flatMap fun x => x.exts :: x.allBeds.map (·.exts)) ++
    s.stalls.flatMap fun st => [extentsOf st.lineArea (lineBytes st.cls), match st.lane with | some l => l.exts | none => []]

/-- How many extents of a list follow one another from `e` in steps up or down, at most `fuel`. -/
def runLength (l : List Nat) (step : Nat → Nat) : Nat → Nat → Nat
  | 0, _ => 0
  | fuel + 1, e => if l.contains e then 1 + runLength l step fuel (step e) else 0

/-- The run that has to move with extent `e`: its first extent, and its length. -/
def State.runAt (s : State) (e : Nat) : Nat × Nat :=
  match s.runs.find? fun l => l.contains e with
  | some l =>
    let down := runLength l (· - 1) (min e l.length) e
    (e + 1 - down, down - 1 + runLength l (· + 1) l.length e)
  | none => (e, 1)

/-- The new place of what extent `e` holds: the lowest free run of the same stack outside a pseudo-channel, 32 for none, with its twins
where `e` is twinned (DESIGN CHOICE, log entry 93). -/
def State.shiftFor (s : State) (e pc : Nat) : Option Shift :=
  let twin := s.twinned e
  let (e0, k) := s.runAt (if twin then e % 12288 else e)
  let ok (i : Nat) : Bool := i % 32 != pc && s.extFree i && (!twin || s.extFree (i + 12288))
  (findRun ok k 12288 (e0 / 12288 * 12288) 0).map fun x => { twin, e := e0, k, x }

/-- Live data that firmware may move lie in an extent: the roots and the staging area stay (R504). -/
def State.movable (s : State) (e : Nat) : Bool :=
  let c := s.get (extFld e)
  c != 0 && c != 7 && e % 12288 != 0 && !(decide (extentOf stagingBase ≤ e) && decide (e < 12288))

/-- Move what extent `e` holds, where there is a place for it. -/
def State.moveOut (s : State) (e pc : Nat) : State :=
  if s.movable e then match s.shiftFor e pc with | some t => s.shift t | none => s else s

/-- Withdraw an extent that holds no live data (R365, R366). -/
def State.withdraw (s : State) (e : Nat) : State := if s.get (extFld e) = 0 then s.put (extFld e) 7 else s

/-- FRAME_RETIRE: its contents are moved with those of its extent, from its twin or made again where it is unreadable, and it enters the
list; past 1,024 frames the whole extent is retired, once it holds no live data (R363, R365, R366). -/
def State.retire (s : State) (f : Nat) : State :=
  if s.retired.contains f then s
  else
    let s := s.moveOut (f / 512) 32
    let k := frameStack f
    let n := s.get (retCount k)
    let s := if n < 1024 then { s.put (retCount k) (n + 1) with retired := s.retired ++ [f] }
      else (s.withdraw (f / 512)).noteHbm k
    s.raise evRetire

/-- Where an address lies (R360): stack, pseudo-channel `pc` of the stack, and the offset `po` within it. -/
structure HbmPlace where
  stack : Nat
  pc    : Nat
  po    : Nat
  deriving DecidableEq, Repr

/-- The channel of a stack, and the half of it, that a pseudo-channel is (R360). -/
def HbmPlace.channel (p : HbmPlace) : Nat × Nat := (p.pc / 2, p.pc % 2)

/-- The place of an HBM address (R360). -/
def hbmPlace (a : Nat) : HbmPlace :=
  let e := a % 0x600000000 / 0x200000
  { stack := a / 0x600000000, pc := e % 32, po := e / 32 * 0x200000 + a % 0x200000 }

/-- The address of a place (R360). -/
def HbmPlace.addr (p : HbmPlace) : Nat :=
  p.stack * 0x600000000 + (p.po / 0x200000 * 32 + p.pc) * 0x200000 + p.po % 0x200000

/-- The pseudo-channel of an address, counted over both stacks: stack × 32 + pseudo-channel (R360, R496). -/
def pchanOf (a : Nat) : Nat := (hbmPlace a).stack * 32 + (hbmPlace a).pc

/-- The extents of a pseudo-channel: those of its 384 offsets that are multiples of 2 MiB (R360). -/
def pchanExts (pc : Nat) : List Nat := (upto 384).map fun j => extentOf (HbmPlace.addr { stack := pc / 32, pc := pc % 32, po := 0x200000 * j })

/-- The stalls with private pages in an extent. -/
def State.pagedIn (s : State) (e : Nat) : List Nat := (s.stalls.filter fun st => st.exts.contains e).map (·.num)

/-- Fence a pseudo-channel: what its extents hold is moved, those without live data are RETIRED, and stalls whose pages find no place
are parked (R366, R501). -/
def State.fencePchan (s : State) (pc : Nat) : State :=
  let exts := pchanExts pc
  let s := exts.foldl (fun s e => s.moveOut e (pc % 32)) s
  let left := exts.flatMap fun e => s.pagedIn e
  let s := exts.foldl (fun s e => s.withdraw e) s
  let s := (s.setDegrade FLT_DEGRADE_PCHAN 1).noteHbm (pc / 32)
  left.foldl (fun s k => match s.stall? k with | some _ => s.park k rsnFENCE true | none => s) s

/-- A range of a stall's CKPT area holds a frame (R363). -/
def ckptHolds (st : Stall) (f o n : Nat) : Bool := (upto n).any fun j => areaAddr st.ckExts (o + 4096 * j) / 4096 == f

/-- A stall whose checkpoint data lie in a poisoned frame: the records that hold it cease to be complete, and with the base image every
record; the next capture is full (R363, R378). -/
def Stall.ckptPoisoned (st : Stall) (f : Nat) : Stall :=
  let base := ckptHolds st f 0 (basePages st.cls)
  let keep (c : Ckpt) : Bool := !c.complete || !(base || ckptHolds st f c.place (recordPages st.cls))
  { st with ckpts := st.ckpts.filter keep, ckptFull := true, fresh := st.fresh && !base }

/-- In-flight work that read a frame of a stream's areas is discarded and made again: a coding row returns to the front of its stream's
queue (R262, R363). -/
def State.remake (s : State) (f : Nat) : State :=
  let hit (n : Nat) : Bool := s.streams.any fun x => x.num == n && x.exts.contains (f / 512)
  let back : List RowJob := s.encJobs.filter fun j => hit j.stream && !j.gone
  { s with encJobs := s.encJobs.filter fun j => !(hit j.stream), encFront := s.encFront ++ back.map RowJob.stream }

/-- The built beds in an extent are built again from their courses (R214, R363). -/
def State.rebuildBeds (s : State) (e : Nat) : State :=
  let again (b : Bed) : Bed := if b.exts.contains e && !b.px.isEmpty then s.buildBed b else b
  { s with streams := s.streams.map fun x =>
      { x with beds := x.beds.map again, frames := x.frames.map fun f => { f with beds := f.beds.map again }
               commit := x.commit.map fun c => { c with beds := c.beds.map again } } }

/-- An entry of a stall's page table names a frame; the page table itself, the stall-store position and SAVE memory count with them
(DESIGN CHOICE, log entry 93) (R363). -/
def State.namesFrame (s : State) (st : Stall) (f : Nat) : Bool :=
  let save := match s.title? st.title with | some t => t.save | none => 0
  match inExts st.exts (4096 * f) with
  | some o => decide (o / 4096 < stallPages st.cls save)
  | none => false

/-- What an uncorrectable error in frame f does, by shed; TITLE and FW frames are served by their twins (R363). -/
def State.poison (s : State) (f shed : Nat) : State :=
  if shed = 4 then s.remake f
  else if shed = 5 then s.rebuildBeds (f / 512)
  else if shed = 2 then
    let owners : List Nat := (s.stalls.filter fun st => s.namesFrame st f).map (·.num)
    if s.mode = .debugFreeze then { s with deferred := s.deferred ++ owners.map fun k => (4, k) }
    else
      let r := s.recoverReason
      owners.foldl (fun s k => s.restore k r) s
  else if shed = 3 then
    let hit : List Nat := (s.stalls.filter fun st => st.ckExts.contains (f / 512)).map (·.num)
    hit.foldl (fun s k => s.onStall k fun st => st.ckptPoisoned f) s
  else s

/-- Remember a frame with an uncorrectable error. -/
def State.noteUe (s : State) (f : Nat) : State := { s with ueFrames := addNew f s.ueFrames }

/-- An uncorrectable error at an address, met by an agent (R363, R496, R501). -/
def State.hbmError (s : State) (addr agent : Nat) : State :=
  let f := addr / 4096
  let pc := pchanOf addr
  let s := if s.get MEM_UE_LOG_VALID = 0 then s.puts [(MEM_UE_LOG_ADDR, addr), (MEM_UE_LOG_AGENT, agent), (MEM_UE_LOG_VALID, 1)] else s
  let s := (s.inc MEM_UE_COUNT_COUNT).raise evMemUe
  let s := s.recordFault 4 pc
  let second := s.ueFrames.any fun g => g != f && pchanOf (4096 * g) == pc
  let s := s.poison f (s.get (extFld (extentOf addr)))
  let s := (s.noteUe f).retire f
  if second then s.fencePchan pc else s

/-- Firmware handles memory errors in these modes. -/
def memServed (s : State) : Bool := mayFailStop s.mode

/-- HBM_UE: the burst at `addr` is poisoned; `who` is the host subchannel (agent 3) or the channel (agent 4) that read it, which a twin
does not serve (R363, R367). -/
def hbmUe (addr agent who : Nat) (s : State) : State :=
  if !memServed s || regionOf addr != .hbm then s
  else
    let twin := s.twinned (extentOf addr)
    let s := s.hbmError (addr / 32 * 32) agent
    if twin then s
    else if agent = 3 then (if who < 64 ∧ (s.hsub who).phase ≠ .idle then s.hostEnd who 10 (hostResid (s.hsub who)) else s)
    else if agent = 4 then (if who < 8 ∧ (s.mov who).busy then s.movEnd who 14 (s.mov who).resid (mCtl (s.mov who).desc 4) else s)
    else s

/-- SCRUB_READ: the scrubber reads the burst at `addr`; result 0 clean, 1 corrected, 2 uncorrectable (R362, R364, R365). -/
def scrubRead (addr result : Nat) (s : State) : State :=
  if !memServed s || regionOf addr != .hbm || s.get MEM_CTL_SCRUB == 0 then s
  else
    let e := extentOf addr
    let s := s.puts [(MEM_SCRUB_EXTENT, e % 12288), (MEM_SCRUB_STACK, e / 12288)]
    if result = 1 then
      let f := addr / 4096
      let n := (lookupN f s.ceFrames).getD 0 + 1
      let s := s.inc (if e < 12288 then MEM_CE0_COUNT else MEM_CE1_COUNT)
      let s := { s with ceFrames := insertN f n s.ceFrames }
      if max 1 (s.get MEM_CE_RETIRE_LIMIT) ≤ n then s.retire f else s
    else if result = 2 then s.hbmError (addr / 32 * 32) 7
    else s

/-- MEM_INVAL: a write with GO = 1 (R380). -/
def memInval (stall index : Nat) (all global : Bool) (s : State) : State :=
  if !blocksServe s.mode then s
  else s.puts [(MEM_INVAL_STALL, stall), (MEM_INVAL_INDEX, index), (MEM_INVAL_STALLALL, b2n all), (MEM_INVAL_GLOBAL, b2n global), (MEM_INVAL_GO, 1)]

/-- The invalidation under way names entries of stall k, and entry i (R380). -/
def State.invalNames (s : State) (k : Nat) (i : Option Nat) : Bool :=
  s.get MEM_INVAL_GLOBAL == 1 || (s.get MEM_INVAL_STALL == k && (s.get MEM_INVAL_STALLALL == 1 || i == none || i == some (s.get MEM_INVAL_INDEX)))

/-- A write translated through a named entry has not completed: it stands in a store buffer (R128, R380). -/
def State.invalOpen (s : State) : Bool :=
  s.sbuf.any fun x => match s.stall? x.stall with
    | some st => (entriesOf st x.addr x.data.length).any fun i => s.invalNames st.num (some i)
    | none => false

/-- MEM_INVAL_DONE: GO clears once every access translated through the named entries has completed; D, A and K of the entries stand in
the table at any time here, which R377 permits (R380). -/
def memInvalDone (s : State) : State := if s.invalOpen then s else s.put MEM_INVAL_GO 0

/-- A fault record as MEM_XFAULT reads; cartridge faults give 0x1FFF (R383). -/
def xfaultWord (x : XFault) : Nat :=
  1 + x.kind * 2 + x.agent * 16 + b2n x.write * 128 + x.stall * 256 + min 0x1FFF x.index * 2 ^ 20

/-- MEM_XFAULT_POP: a read pops the oldest record; an empty queue reads 0 (R381). -/
def memXfaultPop (s : State) : State :=
  match s.xfaults with
  | [] => { s with rdata := 0 }
  | x :: r => { s with xfaults := r, rdata := xfaultWord x }

/-! ### The MP cores (R492 – R495) -/

def evMpwExpired : Nat := 0x08B
def evMpFailover : Nat := 0x08C
def mpCore (n : Nat) : Fld := if n = 0 then MP_STATE_MP0 else MP_STATE_MP1
def mpwEn (n : Nat) : Fld := if n = 0 then MPW_CTL0_EN else MPW_CTL1_EN
def mpwLimit (n : Nat) : Fld := if n = 0 then MPW_CTL0_LIMIT else MPW_CTL1_LIMIT

/-- LIMIT in ns; values below 100 µs act as 100 (R507). -/
def State.mpwNs (s : State) (n : Nat) : Nat := 1000 * max 100 (s.get (mpwLimit n))

/-- Reload the count of MPWn. -/
def State.mpwReload (s : State) (n : Nat) : State :=
  match nthD s.mpwLeft n none with
  | some _ => { s with mpwLeft := setNth s.mpwLeft n (some (s.mpwNs n / 1000)) }
  | none => { s with mpwEnd := setNth s.mpwEnd n (s.time + s.mpwNs n) }

/-- MPW_KICK: a write of KEY (R492). -/
def mpwKick (n key : Nat) (s : State) : State := if n < 2 ∧ key % 256 = 0xA5 then s.mpwReload n else s

/-- Fence an MP core: the sources in service for it leave service (R475, R494). -/
def State.fenceMp (s : State) (n : Nat) : State :=
  { s.put (mpCore n) 3 with inServ := s.inServ.filter fun p => p.2 != n }

/-- The standby core takes over, or the device stops (R494, R495). -/
def State.mpRecover (s : State) (core reason : Nat) : State :=
  let other := 1 - core
  if s.get (mpCore other) = 2 then
    let s := s.puts [(mpCore other, 1), (MP_STATE_ACTIVE, other)]
    let s := (s.inc MP_STATE_FAILOVERS).raise evMpFailover
    let s := s.setDegrade FLT_DEGRADE_MP_STANDBY 1
    s.abortJobs fun j => j.op == 1
  else s.failStop reason 0 0 (leBytes 2 core)

/-- A failure of the active core with what it discards; cause 1 is an uncorrectable error in its firmware RAM (R494, R502). -/
def State.mpFail (s : State) (cause lost : Nat) : State :=
  let core := s.get MP_STATE_ACTIVE
  let s := s.recordFault 6 core
  let s := (s.fenceMp core).discard lost
  let reason := if cause = 1 then 0x42 else 0x40
  if s.mode = .debugFreeze ∧ s.get (mpCore (1 - core)) = 2 then { s with deferred := s.deferred ++ [(6, core)] } else s.mpRecover core reason

/-- MP_FAILURE (R494). -/
def mpFailure (cause lost : Nat) (s : State) : State := if mayFailStop s.mode then s.mpFail cause lost else s

/-- MPW_EXPIRY: the count of MPWn reaches 0 (R492). -/
def mpwExpiry (n lost : Nat) (s : State) : State :=
  if n < 2 ∧ s.get (mpwEn n) = 1 ∧ nthD s.mpwLeft n none = none ∧ nthD s.mpwEnd n 0 ≤ s.time ∧ mayFailStop s.mode ∧ s.get (mpCore n) ≠ 3 then
    let s := s.raise evMpwExpired
    if s.get MP_STATE_ACTIVE = n then s.mpFail 0 lost else (s.fenceMp n).setDegrade FLT_DEGRADE_MP_STANDBY 1
  else s

/-- Recover what was detected in DEBUG_FREEZE (R500). -/
def State.runDeferred (s : State) : State :=
  let l := s.deferred
  l.foldl (fun s p => match p.1 with
    | 3 => s.encRecover
    | 4 => s.restore p.2 s.recoverReason
    | 6 => s.mpRecover p.2 0x40
    | _ => s.recoverSlot p.2) { s with deferred := [] }

end Sys2Proof.Machine
end

