-- ==== Sys2Proof/Machine/Events.lean ====
section
/-! DEFINITION. The event controller (R468 – R478). -/
namespace Sys2Proof.Machine

/-! ### Sources (R468, R469) -/

def evtLatch (n : Nat) : Fld := ⟨0x10140 + 4 * (n / 32), n % 32, 1⟩
def evtSwset (n : Nat) : Fld := ⟨0x10180 + 4 * (n / 32), n % 32, 1⟩
def evtRoute (f : Fld) (n : Nat) : Fld := f.nth 4 n

/-- The LATCH sources of R469. -/
def latchSource (n : Nat) : Bool :=
  decide (n ≤ 0x10) || inRange 0x20 0x31 n || inRange 0x40 0x44 n || inRange 0x48 0x4C n || inRange 0x50 0x53 n || inRange 0x58 0x5E n ||
    inRange 0x60 0x62 n || inRange 0x68 0x6B n || inRange 0x70 0x72 n || inRange 0x78 0x7F n || n == 0x81 || inRange 0x8B 0x8E n

/-- BRD_TEMP.TEMP is at or above the limit (R568). -/
def State.tempHigh (s : State) : Bool := decide ((16 * s.get BRD_TEMP_HIGH_LIMIT : Int) ≤ toSigned 16 (s.get BRD_TEMP_TEMP))

/-- The GPIO condition: an edge seen, or a level met on a pin with IMODE 1 or 2 (R561). -/
def State.gpioHigh (s : State) : Bool :=
  s.get BRD_GPIO_ISTAT_EDGE != 0 || (upto 32).any fun p =>
    let m := s.get (BRD_GPIO_CFG_IMODE.nth 4 p)
    (m == 1 && bitAt s.pads p) || (m == 2 && !bitAt s.pads p)

/-- The condition of a source (R468, R469). -/
def State.evtCond (s : State) (n : Nat) : Bool :=
  if latchSource n then s.get (evtLatch n) == 1
  else if n = 0x72 then !s.xfaults.isEmpty
  else if n = 0x80 then s.get MBX_STATE_H2M_BUSY == 1 && !s.reqTaken
  else if n = 0x88 then s.tempHigh
  else if n = 0x89 then s.pinLow
  else if n = 0x8A then s.gpioHigh
  else false

/-- The level of a source (R468). -/
def State.evtLevel (s : State) (n : Nat) : Bool := s.evtCond n || s.get (evtSwset n) == 1

/-! ### Routing, arbitration (R470 – R472, R476) -/

/-- An MP core that is powered down or fenced. -/
def State.mpGone (s : State) (t : Nat) : Bool := decide (t < 2) && (s.get (mpCore t) == 0 || s.get (mpCore t) == 3)

/-- The effective target of a source (R470). -/
def State.evtTarget (s : State) (n : Nat) : Option Nat :=
  let t := s.get (evtRoute EVT_ROUTE_TARGET n)
  let f := s.get EVT_FALLBACK_TARGET
  if !s.mpGone t then some t else if !s.mpGone f then some f else none

/-- The source is pending (R471). -/
def State.evtPending (s : State) (n : Nat) : Bool :=
  s.evtLevel n && decide (0 < s.get (evtRoute EVT_ROUTE_PRIO n)) && !s.inServ.any fun p => p.1 == n

/-- The target for which the source is eligible, with its priority (R471). -/
def State.evtEligible (s : State) (n : Nat) : Option (Nat × Nat × Nat) :=
  let p := s.get (evtRoute EVT_ROUTE_PRIO n)
  if s.get EVT_CTL_EN == 1 && s.evtPending n then
    match s.evtTarget n with
    | some t => if s.get (EVT_THRESH_LEVEL.nth 4 t) < p then some (n, t, p) else none
    | none => none
  else none

/-- Send one message per source newly eligible for HOST; while messages cannot be sent nothing is (R476). -/
def State.evtMessages (s : State) (l : List (Nat × Nat × Nat)) : State :=
  let host := (l.filter fun p => p.2.1 == 2).map (·.1)
  let s := { s with told := s.told.filter fun n => host.contains n }
  if s.msixLive then
    let new := host.filter fun n => !s.told.contains n
    let s := new.foldl (fun s n => s.msix (s.get (evtRoute EVT_ROUTE_VECTOR n))) s
    { s with told := s.told ++ new }
  else s

/-- A source of the last arbitration is still eligible: the controller is enabled, the source's level is 1 and nothing has claimed it
(R471, R473, R478). -/
def State.evtStands (s : State) (n : Nat) : Bool := s.get EVT_CTL_EN == 1 && s.evtLevel n && !s.inServ.any fun q => q.1 == n

/-- A source is eligible for target t: the interrupt line of MP0 and MP1, and DBG_STATUS.ATTN (R472). -/
def State.evtLine (s : State) (t : Nat) : Bool := s.arb.any fun p => p.2.1 == t && s.evtStands p.1
def State.attn (s : State) : Bool := s.evtLine 3

/-- A line that rises wakes its MP core; the core's sleep itself is not the model's (R472, R530). -/
def State.wakeCores (s : State) (was : Nat → Bool) : State :=
  [0, 1].foldl (fun s t => if s.evtLine t && !was t then s.emit (.wake t) else s) s

/-- EVT_ARBITRATION (R471). -/
def evtArbitration (s : State) : State :=
  let l := (upto 512).filterMap s.evtEligible
  State.wakeCores { s.evtMessages l with arb := l } s.evtLine

/-! ### Claim and completion (R473 – R475) -/

/-- The source that a claim for target t returns: highest PRIO, then lowest number, still eligible. -/
def State.claimable (s : State) (t : Nat) : Option (Nat × Nat) :=
  let l := s.arb.filter fun p => p.2.1 == t && s.evtStands p.1
  l.foldl (fun best p => match best with
    | none => some (p.1, p.2.2)
    | some b => if b.2 < p.2.2 then some (p.1, p.2.2) else some b) none

/-- EVT_CLAIM as it reads (R478). -/
def claimWord : Option (Nat × Nat) → Nat
  | some (n, p) => n + p * 4096 + 2 ^ 31
  | none => 0

/-- EVT_CLAIM: a read of EVT_CLAIMt (R473). -/
def evtClaim (t : Nat) (s : State) : State :=
  if 4 ≤ t then s
  else
    let c := s.claimable t
    let s := { s with rdata := claimWord c }
    match c with
    | some (n, _) => { s with inServ := s.inServ ++ [(n, t)], told := s.told.filter fun m => m != n }
    | none => s

/-- EVT_DONE: a write of source n to EVT_DONEt (R474). -/
def evtDone (t n : Nat) (s : State) : State :=
  if 4 ≤ t ∨ 512 ≤ n then s
  else if s.inServ.contains (n, t) then
    { s.put (evtSwset n) 0 with inServ := s.inServ.filter (fun p => p != (n, t)), arb := s.arb.filter fun p => p.1 != n }
  else (s.inc EVT_STRAY_COUNT_COUNT).puts [(EVT_STRAY_LAST_SOURCE, n), (EVT_STRAY_LAST_TARGET, t)]

/-- Once messages can be sent again: one per vector that has an eligible source not yet claimed (R476). -/
def State.evtRearm (s : State) : State :=
  if !s.msixLive then s
  else
  let host := (s.arb.filter fun p => p.2.1 == 2 && s.evtStands p.1).map (·.1)
  let vecs := host.foldl (fun l n => addNew (s.get (evtRoute EVT_ROUTE_VECTOR n)) l) []
  let s := vecs.foldl (fun s v => s.msix v) s
  { s with told := host }

end Sys2Proof.Machine
end

