-- ==== Sys2Proof/Machine/DbgCore.lean ====
section
/-! DEFINITION. What the debugger holds and what ends with its authority: halted stalls, breakpoints, the device freeze, halted
MP cores, levels and grants (R91, R493, R510 – R512, R523 – R530). -/
namespace Sys2Proof.Machine

/-- RESUME of a halted stall: RUNNABLE, or PARKED where it holds a reason (R524, R525). -/
def resumeHalted (time : Nat) (st : Stall) : Stall :=
  if st.sched = .halted then
    let st := { st with haltPend := none, stepping := false, bpSkip := true }
    if st.reasons.isEmpty ∨ st.replayTo.isSome then { st with sched := .runnable } else { st with sched := .parked, parkedAt := time }
  else { st with haltPend := none, dbgHalt := false }

/-- Resume stall k. -/
def State.dbgResume (s : State) (k : Nat) : State := s.onStall k (resumeHalted s.time)

/-- Release DEBUG_FREEZE: the stalls it halted resume, and what waited for the release is recovered (R500, R529). -/
def State.unfreeze (s : State) : State :=
  if s.mode = .debugFreeze then
    let ks := s.frozen
    let s := { s with frozen := [] }
    let s := (s.put DBG_FREEZE_FREEZE 0).put DBG_STATUS_FREEZE 0
    let s := match s.prior with
      | .serve => s.enterServe
      | .serveDegraded => s.enterServe
      | .service => s.toMode .service s.detail
      | m => s.toMode m 0
    (ks.foldl State.dbgResume s).runDeferred
  else s

/-- Release MP core n from a debugger halt: its watchdog goes on with at least 1,000 µs (R493, R530). -/
def State.releaseMp (s : State) (n : Nat) : State :=
  let s := s.put (if n = 0 then DBG_MPCTL_HALT0 else DBG_MPCTL_HALT1) 0
  match nthD s.mpwLeft n none with
  | some r => { s with mpwLeft := setNth s.mpwLeft n none, mpwEnd := setNth s.mpwEnd n (s.time + 1000 * max 1000 r) }
  | none => s

/-- Halt MP core n: with WDT_FREEZE its watchdog holds its count (R493, R530). -/
def State.haltMp (s : State) (n : Nat) : State :=
  let f := if n = 0 then DBG_MPCTL_HALT0 else DBG_MPCTL_HALT1
  if s.get f = 1 then s
  else
    let s := s.put f 1
    if s.get DBG_CTL_WDT_FREEZE = 1 ∧ s.get (mpwEn n) = 1 then
      { s with mpwLeft := setNth s.mpwLeft n (some ((nthD s.mpwEnd n 0 - s.time) / 1000)) }
    else s

/-- Clear the breakpoints of which `gone` holds. -/
def State.clearBps (s : State) (gone : Nat → Bool) : State :=
  (upto 8).foldl (fun s n => if gone (s.get (DBG_BP_STALL.nth 8 n)) then s.put ⟨0xF00300 + 8 * n, 0, 64⟩ 0 else s) s

/-- What the loss of L1 for a stall, or of the device level, ends: halts and breakpoints of stalls no longer covered, and
below L2 the freeze, below L3 the MP halts (R512). -/
def State.enforceLevel (s : State) : State :=
  let l := s.get DBG_STATUS_LEVEL
  let s := if l < 3 then (s.releaseMp 0).releaseMp 1 else s
  if 2 ≤ l then s
  else
    let granted := (s.stalls.filter (·.l1)).map (·.num)
    let s := s.unfreeze
    let s := s.clearBps fun k => !granted.contains k
    ((s.stalls.filter fun st => !st.l1).map (·.num)).foldl State.dbgResume s

/-- A stall holds an L1 grant. -/
def State.hasL1 (s : State) (k : Nat) : Bool := match s.stall? k with | some st => st.l1 | none => false

/-- STALL_RESET_APPLY; the L1 grant that it ends takes its halts and breakpoints with it (R485, R511, R512). -/
def stallResetApplyD (k : Nat) (s : State) : State :=
  let t := stallResetApply k s
  if s.hasL1 k && !t.hasL1 k then t.enforceLevel else t

/-- The unlock state itself is lost: level, FAILS, LOCKOUT, nonce, and every L1 grant (R487, R510). -/
def State.dropDebug (s : State) : State :=
  let s := s.puts [(DBG_STATUS_LEVEL, 0), (DBG_STATUS_FAILS, 0), (DBG_STATUS_LOCKOUT, 0)]
  let s := (upto 8).foldl (fun s k => s.put (DBG_NONCE_DATA.nth 4 k) 0) s
  let sts : List Stall := s.stalls.map fun st => { st with l1 := false }
  State.enforceLevel { s with stalls := sts, nonceAt := none, failAt := none }

/-- The debugger's halt has effect on the management complex: mailbox requests wait (R530). -/
def State.mpHalted (s : State) : Bool :=
  if s.get MP_STATE_ACTIVE = 0 then s.get DBG_MPCTL_HALT0 == 1 else s.get DBG_MPCTL_HALT1 == 1

end Sys2Proof.Machine
end

