-- ==== Sys2Proof/Machine/Mail.lean ====
section
/-! DEFINITION. The mailboxes (R421 – R423, R443, R453, R456). -/
namespace Sys2Proof.Machine

/-- Dword k of the request, and its header fields (R421). -/
def State.reqD (s : State) (k : Nat) : Nat := s.get (MBX_H2M_DATA_DATA.nth 4 k)
def State.reqCode (s : State) : Nat := s.reqD 0 % 65536
def State.reqN (s : State) : Nat := field (s.reqD 0) 16 4
def State.reqSeq (s : State) : Nat := field (s.reqD 0) 20 8
def State.reqMajor (s : State) : Nat := field (s.reqD 0) 28 4

/-- A request is outstanding that nothing has taken, and the mailbox is served (R422, R530). -/
def State.reqWaits (s : State) : Bool :=
  s.get MBX_STATE_READY == 1 && s.get MBX_STATE_H2M_BUSY == 1 && !s.reqTaken && !(s.get MBX_STATE_ROM == 0 && s.mpHalted)

/-- Stop the orphan timer (R443). -/
def State.stopOrphan (s : State) : State := { s.put HOST_ORPHAN_RUNNING 0 with orphanAt := none }

/-- Take the request; one with MAJOR 3 stops the orphan timer (R443, R453). -/
def State.takeReq (s : State) : State :=
  let s := { s with reqTaken := true }
  if s.reqMajor = 3 ∧ s.get MBX_STATE_ROM = 0 then s.stopOrphan else s

/-- Write the response to the outstanding request and send vector 0 (R421, R422). -/
def State.respond (s : State) (r : Resp) : State :=
  let n := min 15 r.data.length
  let h := r.status % 65536 + n * 2 ^ 16 + s.reqSeq * 2 ^ 20 + 3 * 2 ^ 28
  let s := s.put MBX_M2H_DATA_DATA h
  let s := (upto n).foldl (fun s k => s.put (MBX_M2H_DATA_DATA.nth 4 (k + 1)) (nthD r.data k 0)) s
  let s := s.puts [(MBX_M2H_DOORBELL_VALID, 1), (MBX_M2H_DOORBELL_SEQ, s.reqSeq), (MBX_STATE_M2H_VALID, 1)]
  s.msix 0

/-- Clear the exchange in progress. -/
def State.clearMail (s : State) : State :=
  { s.puts [(MBX_STATE_H2M_BUSY, 0), (MBX_STATE_M2H_VALID, 0), (MBX_M2H_DOORBELL_VALID, 0)] with reqTaken := false }

/-- MBX_DOORBELL: a write of GO (R422, R423). -/
def mbxDoorbell (go : Bool) (s : State) : State :=
  if s.get MBX_STATE_H2M_BUSY = 1 then s.put MBX_STATE_OVERRUN 1
  else if !go ∨ s.get MBX_STATE_READY = 0 then s
  else { s.put MBX_STATE_H2M_BUSY 1 with reqTaken := false }

end Sys2Proof.Machine
end

