-- ==== Sys2Proof/Machine/YardEnd.lean ====
section
/-! DEFINITION. The end of migrations and of peers, detaching, PTP and the CAD_TIME latch (R401, R408, R414 – R416). -/
namespace Sys2Proof.Machine

def evPeerLost : Nat := 0x07B
def evMigrateDone : Nat := 0x07C
def evPtpHoldover : Nat := 0x07E

/-- Error codes of the yard (R456). -/
def eCLOCK : Nat := 0x37
def eDIRTY : Nat := 0x38
def eUNREACHABLE : Nat := 0x39

/-! ### Migrations end (R413, R414) -/

def State.setMig (s : State) (m : Mig) : State :=
  { s with migs := s.migs.map fun x => if x.stall == m.stall && x.source == m.source then m else x }

def State.dropMig (s : State) (m : Mig) : State := { s with migs := s.migs.filter fun x => !(x.stall == m.stall && x.source == m.source) }

/-- The migration of stall k from this device (source) or to it. -/
def State.mig? (s : State) (k : Nat) (source : Bool) : Option Mig := s.migs.find? fun m => m.stall == k && m.source == source

/-- Change a flow that the classifier holds. -/
def State.onFlow (s : State) (n : Nat) (f : Flow → State → State) : State :=
  match s.flows.find? fun g => g.num == n with
  | some g => f g s
  | none => s

/-- Put a stall's input flows back to what they were. -/
def State.restoreFlows (s : State) (l : List Flow) : State :=
  l.foldl (fun s f => match s.flows.find? fun g => g.num == f.num with
    | some g => (s.setFlow g 0 (sliceBytes f.desc 0 1)).onFlow f.num fun g s => s.setFlow g 40 (sliceBytes f.desc 40 6)
    | none => s) s

/-- Send a control message about a stall of the device it goes to, as class 0 data, whose format is not given (R403, R412): 0 asks for a
migration, 1 answers READY or refuses, 2 is COMMIT, 3 its acknowledgement, 4 ends the migration at D, 5 at S (log entry 47). -/
def State.sendControl (s : State) (y kind k : Nat) : State := s.yardSend y 0 (Config.control kind k)

/-- End a migration before COMMIT: S resumes a, D discards b, and each tells the other; a migration whose COMMIT is sent is in doubt when D
becomes unreachable, and is not ended otherwise (R414). -/
def State.endMig (s : State) (code : Nat) (lostPeer : Bool) (m : Mig) : State :=
  if m.source then
    if m.doubt then s
    else if m.ready then
      if lostPeer then (s.setMig { m with doubt := true }).notice nMigrateInDoubt m.stall m.yard m.dest else s
    else
      let s := (((s.dropMig m).restoreFlows m.flows).notice nMigrateEnded m.stall code 0).sendControl m.yard 4 m.dest
      if m.parked then s.unpark m.stall rsnMIGRATE else s
  else ((s.dropMig m).destroyStall m.stall false).sendControl m.yard 5 m.dest

/-- End every migration that satisfies a condition. -/
def State.endMigs (s : State) (code : Nat) (lostPeer : Bool) (ok : Mig → Bool) : State :=
  (s.migs.filter ok).foldl (fun s m => s.endMig code lostPeer m) s

/-- Act on a control message that has come from a device: the other side has ended a migration (R414). -/
def State.controlIn (s : State) (x : Ingress) : State :=
  match Config.controlOf x.data with
  | some (4, k) => s.endMigs eCLOCK false fun m => !m.source && m.stall == k && m.yard == x.who
  | some (5, k) => s.endMigs eCLOCK false fun m => m.source && m.stall == k && m.yard == x.who
  | _ => s

/-- YARD_DATA_RECEIVE: the packet is taken, and the control messages that it delivers are acted on (R407, R414). -/
def yardDataReceive (s : State) : State :=
  let s := yardDataTake s
  (s.ingress.filter fun x => x.kind == 4).foldl (fun s x => State.controlIn { s with ingress := s.ingress.erase x } x) s

/-! ### Peers (R408, R415) -/

/-- Link deliveries waiting for a peer. -/
def linksTo (p : Peer) : Nat := ((p.unacked ++ p.queued).filter fun d => d.cls == 1).length

/-- Count n deliveries lost. -/
def State.linkLost (s : State) (n : Nat) : State := s.put YRD_LINK_LOST_COUNT (min 0xFFFF (s.get YRD_LINK_LOST_COUNT + n))

/-- The peer has had no route, or its ACK has not advanced with data outstanding, for 10 ms, or the packet numbers toward it are spent
(R403). -/
def peerStale (time : Nat) (p : Peer) : Bool :=
  p.up && (decide (2 ^ 56 ≤ p.txPn) || (match p.noRoute with | some t => decide (t + 10000000 ≤ time) | none => false) ||
    (!p.unacked.isEmpty && decide (p.advAt + 10000000 ≤ time)))

/-- PEER_UNREACHABLE (R408). -/
def peerUnreachable (y : Nat) (s : State) : State :=
  match s.peer? y with
  | none => s
  | some p =>
    if peerStale s.time p then
      let s := (s.raise evPeerLost).linkLost (linksTo p)
      let s := s.setPeer { p with up := false, unacked := [], queued := [], rxHeld := [], rxDue := 0, nakAt := none }
      s.endMigs eUNREACHABLE true fun m => m.yard == y
    else s

/-- YRD_DETACH: a write of YRD_CTL.ATTACH = 0 (R415). -/
def yrdDetach (s : State) : State :=
  if s.get YRD_CTL_ATTACH = 1 ∧ fwRuns s.mode then
    let left := (upto 8).map fun n => if s.attached ∧ s.portUp n then 3 else 0
    let s := { s.put YRD_CTL_ATTACH 0 with leaving := left, leaveYard := s.get YRD_NUMBER_YARD, yardOn := false }
    let s := s.linkLost (s.peers.foldl (fun n p => n + linksTo p) 0)
    let s := s.endMigs eUNREACHABLE true fun _ => true
    { s with peers := [] }
  else s

/-! ### PTP (R401, R416) -/

/-- PTP leaves LOCKED: migrations end with CLOCK (R414). -/
def State.clockLost (s : State) : State := s.endMigs eCLOCK false fun _ => true

/-- PTP_SYNC: an exchange that measures `offset` = local time − master time in ns (R401). -/
def ptpSync (offset : Int) (s : State) : State :=
  if s.get PTP_CTL_EN = 0 ∨ !fwRuns s.mode then s
  else
    let s := { s with ingress := s.ingress.filter fun x => x.kind != 0 }
    match s.ptpExchange offset with
    | (s, true) => s.clockLost
    | (s, false) => s

/-- PTP_HOLDOVER (R401). -/
def ptpHoldover (s : State) : State :=
  let st := s.get PTP_STAT_STATE
  if s.get PTP_CTL_EN = 1 ∧ (st = 1 ∨ st = 2) then
    let s := (s.put PTP_STAT_STATE 3).raise evPtpHoldover
    let s := { s with ptpGood := 0 }
    if st = 2 then s.clockLost else s
  else s

/-- CAD_TIME_READ: a read of CAD_TIME_LO (R416). -/
def cadTimeRead (s : State) : State := { s with rdata := s.time % 2 ^ 32, cadLatch := some (s.time / 2 ^ 32 % 2 ^ 32) }

end Sys2Proof.Machine
end

