-- ==== Sys2Proof/Machine/Reset.lean ====
section
/-! DEFINITION. Resets, boot, supplies and clocks, SLUMBER, the port reset and the orphan timer (R440 – R446, R482 – R491, R504,
R542 – R549). -/
namespace Sys2Proof.Machine

/-! ### What survives (R487) -/

/-- 32-bit registers of the always-on domain: RST_CAUSE, PERST_SCOPE, GPIO configuration and output, BRD_WAKE, BRD_CHAIN. -/
def aonRegs : List Nat := [0x1C, 0x80, 0x20080, 0x20090, 0x200C0] ++ (upto 32).map fun p => 0x20000 + 4 * p

/-- 32-bit registers of the FAIL_STOP capture. -/
def fstopRegs : List Nat := [0x20, 0x28, 0x2C] ++ (upto 16).map fun k => 0x40 + 4 * k

/-- Carry registers over. -/
def State.keepRegs (old s : State) (l : List Nat) : State := l.foldl (fun s o => s.putReg32 o (old.reg32 o)) s

/-- What firmware keeps in HBM for re-adoption: written while it runs; a boot that ran none leaves the last root (R504). -/
def State.mkRoot (s : State) : Option Root :=
  match s.pkg with
  | some p =>
    if mayFailStop s.mode ∨ s.mode = .failStop then
      some { line := p.version / 2 ^ 24, titles := s.titles, stalls := s.stalls
             places := s.stalls.map fun st => (st.num, s.get (placeL st.num), s.get (placePos st.num))
             streams := s.streams, flows := s.flows, nets := s.nets
             map := s.regs.filter fun q => decide (0x810000 ≤ 8 * q.1) && decide (8 * q.1 < 0x820C00)
             ptdir := s.get MEM_PTDIR_BASE_ADDR }
    else s.root
  | none => s.root

/-- The slots of the PCI Express function: its configuration space and MSI-X table (R487). -/
def State.pciRegs (s : State) : List (Nat × QWord) := s.regs.filter fun q => decide (0x4000000 ≤ 8 * q.1)

/-- CHAIN_IN has been high for 100 µs: an unaddressed device answers at 0x3C (R564). -/
def State.chainReady (s : State) : Bool := s.chainIn && (s.chainUp || decide (s.chainAt + 100000 ≤ s.time))

/-- The device after a reset of device scope, held in reset: the always-on domain and its pins keep their state, and what the
kind keeps beside them (R482, R487). -/
def State.afterReset (s : State) (fstop link warm : Bool) : State :=
  let r : State := { State.reset with
    pending := s.pending, free := s.free, host := s.host, out := s.out, rdata := s.rdata
    linkUp := s.linkUp && link, regs := if link then s.pciRegs else []
    otpEpoch := s.otpEpoch, otpRevoked := s.otpRevoked
    pads := s.pads, pinLow := s.pinLow, hot := s.hot, trip := s.trip, alert := s.alert, mgmt := s.mgmt
    chainIn := s.chainIn, chainUp := s.chainReady
    perst := s.perst, resetN := s.resetN, testEn := s.testEn, rails := s.rails, clocks := s.clocks, railLost := s.railLost
    waking := s.waking, wakeN := s.wakeN, tapIr := s.tapIr, tapDr := s.tapDr }
  let r := if warm then { r with hbm := s.hbm, ueFrames := s.ueFrames, ceFrames := s.ceFrames, retired := s.retired
                                 root := s.mkRoot, warm := true }
    else r
  let r := s.keepRegs r aonRegs
  if fstop then s.keepRegs r fstopRegs else r

/-- Shift a cause into RST_CAUSE (R444). -/
def State.cause (s : State) (c : Nat) : State := s.put RST_CAUSE_CAUSES (s.get RST_CAUSE_CAUSES * 16 + c)

/-! ### Boot (R446, R507, R544) -/

/-- Nothing holds the device in reset. -/
def State.bootable (s : State) : Bool :=
  s.rails && bitAt s.clocks 0 && bitAt s.clocks 1 && !s.resetN && !s.testEn && !s.railLost && !s.trip && !(s.perst && s.get PERST_SCOPE_SCOPE == 0)

/-- The boot ROM: HBM trained or out of self-refresh, mode BOOT, mailbox served; `mp0` tells whether MP0 passes self-test. -/
def State.boot (s : State) (mp0 : Bool) : State :=
  let s := { s with held := false, waking := false, wakeN := false }
  let s := s.puts [(MEM_STAT_TRAINED0, 1), (MEM_STAT_TRAINED1, 1), (MBX_STATE_READY, 1)]
  let s := if mp0 then s else s.puts [(MP_STATE_ACTIVE, 1), (MP_STATE_MP0, 3), (MP_STATE_MP1, 1), (FLT_DEGRADE_MP_STANDBY, 1)]
  s.toMode .boot 0

/-- Boot if nothing holds the device. -/
def State.tryBoot (s : State) (mp0 : Bool) : State := if s.held ∧ s.bootable ∧ s.mode = .boot then s.boot mp0 else s

/-- The device has its always-on supply, is not in SLUMBER and has not tripped (R570). -/
def State.awake (s : State) : Bool := s.mode != .off && s.mode != .slumber && !s.trip

/-- POR: VDD_AON applied, or lost (R482). -/
def por (on : Bool) (s : State) : State :=
  let r : State := { State.reset with
    pending := s.pending, free := s.free, host := s.host, out := s.out, rdata := s.rdata
    otpEpoch := s.otpEpoch, otpRevoked := s.otpRevoked
    pads := s.pads, pinLow := s.pinLow, chainIn := s.chainIn, chainUp := s.chainReady, perst := s.perst, resetN := s.resetN, clocks := s.clocks }
  if on then r else { r with mode := .off }

/-- RESET_RELEASE: every supply is good and REFCLK25 and XTAL32 run (R544). -/
def resetRelease (mp0 : Bool) (s : State) : State :=
  if s.held ∧ !s.railLost ∧ s.awake then
    State.tryBoot { s with rails := true, clocks := s.clocks ||| 3 } mp0
  else s

/-! ### Device resets (R440, R482 – R484) -/

/-- DEVRST with its cause. -/
def State.devReset (s : State) (cause : Nat) (mp0 : Bool) : State := ((s.afterReset false true false).cause cause).tryBoot mp0

/-- WARMRST; absorbed into a DEVRST in progress (R483, R484). -/
def State.warmReset (s : State) (mp0 : Bool) : State :=
  if s.held then s.cause 7 else ((s.afterReset true true true).cause 7).tryBoot mp0

/-- The reset that a mailbox response announced (R458). -/
def State.dueReset (s : State) (mp0 : Bool) : State :=
  match s.rstDue with
  | some (true, _) => s.warmReset mp0
  | some (false, _) => s.devReset 4 mp0
  | none => s

/-- 1 ms has passed since that response. -/
def State.resetWaits (s : State) (warm : Bool) : Bool :=
  match s.rstDue with | some (w, t) => w == warm && decide (t + 1000000 ≤ s.time) | none => false

/-- DEVRST: RESET_N low for 1 µs, or the reset due by mailbox (R482). -/
def devrst (pin mp0 : Bool) (s : State) : State :=
  if pin then (if s.awake then State.devReset { s with resetN := true } 6 mp0 else { s with resetN := true })
  else if s.resetWaits false then s.dueReset mp0 else s

/-- WARMRST: the reset due by mailbox (R482). -/
def warmrst (mp0 : Bool) (s : State) : State := if s.resetWaits true then s.dueReset mp0 else s

/-- RESET_N_RELEASE (R482). -/
def resetNRelease (mp0 : Bool) (s : State) : State := State.tryBoot { s with resetN := false } mp0

/-- TEST_EN_ASSERT (R542). -/
def testEnAssert (s : State) : State :=
  if s.mode = .off ∨ s.trip then { s with testEn := true } else { (s.afterReset true false false) with testEn := true }

/-- PERST_FULL: PERST_N asserted with PERST_SCOPE.SCOPE = 0; in SLUMBER it only prepares a wake (R440, R491). -/
def perstFull (s : State) : State :=
  if !s.awake then { s with perst := true }
  else if s.get PERST_SCOPE_SCOPE = 0 then { ((s.afterReset true false false).cause 2) with perst := true }
  else s

/-! ### The port reset (R442, R443) -/

/-- Deliveries captured and not written are dropped and counted. -/
def State.dropCaptured (s : State) : State :=
  let l := s.captured
  l.foldl (fun s d => s.dropDelivery d.cls) { s with captured := [] }

/-- BAR2_WIN, every ring pair and a download between FW_BEGIN and FW_COMMIT go. -/
def State.dropRings (s : State) : State :=
  let len := if s.mode = .load then s.fwLen else none
  State.resetRange { s.puts [(BAR2_WIN_BASE, 0), (BAR2_WIN_EN, 0), (RNG_DB_ERR_COUNT, 0), (RNG_DB_ERR_RING, 0)] with rings := [], fwLen := len } 0x1000 0x1100

/-- What the host port alone holds goes: the link, the configuration space, the MSI-X table, messages sent and claims of HOST (R442,
R476, R487). A reset already answered still follows (R483). -/
def State.dropPort (s : State) : State :=
  State.resetRange { s with linkUp := false, told := [], inServ := s.inServ.filter fun p => p.2 != 2 } 0x4000000 0x4011000

/-- The orphan timer begins, unless it is disabled (R443). -/
def State.startOrphan (s : State) : State :=
  if s.get HOST_ORPHAN_SECONDS = 0 then s.stopOrphan else { s.put HOST_ORPHAN_RUNNING 1 with orphanAt := some s.time }

/-- A port reset, whatever its kind (R442). -/
def State.portReset (s : State) : State := (((s.cause 3).dropRings.clearMail.dropCaptured.dropDebug).dropPort).startOrphan

/-- PERST_N is asserted. -/
def State.assertPerst (s : State) : State := { s with perst := true }

/-- PORT_RESET: kind 0 PERST# with SCOPE = 1, 1 a Hot Reset, 2 a Function Level Reset, 3 a loss of the link. -/
def portResetCmd (kind : Nat) (s : State) : State :=
  if s.held ∨ !s.awake then (if kind = 0 then s.assertPerst else s)
  else if kind = 0 then
    if s.get PERST_SCOPE_SCOPE = 1 then s.portReset.assertPerst else s
  else if kind < 4 ∧ s.linkUp then s.portReset
  else s

/-- PERST_DEASSERT: the link may train, the device boots, or SLUMBER ends (R441, R491). -/
def perstDeassert (mp0 : Bool) (s : State) : State :=
  if !s.perst then s
  else
    let s := { s with perst := false }
    if s.mode = .slumber then { s with waking := true } else s.tryBoot mp0

/-- PCIE_LINK_UP: the link trains, and the event controller sends what waits (R441, R476). -/
def pcieLinkUp (s : State) : State :=
  if s.held ∨ !s.awake ∨ s.perst ∨ s.linkUp then s
  else State.evtRearm { s with linkUp := true, clocks := s.clocks ||| 4 }

/-- ORPHAN_TIMEOUT (R443). -/
def orphanTimeout (s : State) : State :=
  match s.orphanAt with
  | some t =>
    if fwRuns s.mode ∧ 0 < s.get HOST_ORPHAN_SECONDS ∧ t + 1000000000 * s.get HOST_ORPHAN_SECONDS ≤ s.time then
      let park := s.get HOST_ORPHAN_ACTION = 1
      let s := s.stopOrphan
      if park then (s.stalls.map (·.num)).foldl (fun s k => s.park k rsnOPERATOR false) s else s
    else s
  | none => s

/-! ### Supplies and clocks (R547, R549) -/

/-- RAIL_LOSS (R547). -/
def railLoss (s : State) : State :=
  if s.mode = .off then s
  else if s.mode = .slumber ∨ s.trip then { s with rails := false }
  else { (s.afterReset true false false) with rails := false, railLost := true }

/-- Every yard port goes DOWN and its paths go. -/
def State.portsDown (s : State) : State :=
  let s := (upto 8).foldl (fun s n => s.put (portCtl n YRD_PORT_STAT_STATE) 0) s
  let s := { s with heard := [] }
  let s := (upto 8).foldl (fun s n => s.notePeers n) s
  s.dropPaths fun _ _ => true

/-- REFCLK_LOSS: clock 0 REFCLK25, 1 XTAL32, 2 PCIE_REFCLK, 3 NET_REFCLK stops (R549). -/
def refclkLoss (clk : Nat) (s : State) : State :=
  if 4 ≤ clk ∨ !bitAt s.clocks clk then s
  else
    let s := { s with clocks := s.clocks - 2 ^ clk }
    if s.held ∨ !s.awake then s
    else if clk = 0 then { (s.afterReset true false false) with rails := false, railLost := true }
    else if clk = 1 then { (s.afterReset true false false) with rails := false }
    else if clk = 2 then (if s.linkUp then s.portReset else s)
    else s.portsDown

/-! ### SLUMBER (R490, R491) -/

/-- Enter SLUMBER: only the always-on domain keeps state. -/
def State.enterSlumber (s : State) : State := { (s.afterReset true false false) with mode := .slumber }

/-- SLUMBER_WAKE: wake pin `pin` reaches its wake level (R491). -/
def slumberWake (pin : Nat) (s : State) : State :=
  if s.mode = .slumber ∧ pin < 8 ∧ bitAt (s.get BRD_WAKE_EN) pin then
    let lvl := b2n (bitAt (s.get BRD_WAKE_LEVEL) pin)
    { s with waking := true, wakeN := true, pads := putField s.pads pin 1 lvl }
  else s

/-- SLUMBER_EXIT_RESET: every supply is good after a wake, or again after a loss (R491, R547). -/
def slumberExitReset (mp0 : Bool) (s : State) : State :=
  if (s.mode = .slumber ∧ s.waking) ∨ (s.held ∧ s.railLost ∧ s.awake) then
    let r := (s.afterReset true false false).cause 8
    State.tryBoot { r with rails := true, clocks := s.clocks ||| 3, railLost := false } mp0
  else s

end Sys2Proof.Machine
end

