-- ==== Sys2Proof/Machine/Views.lean ====
section
/-! DEFINITION. What a register of BAR0 reads as: its stored fields by access type, and the registers whose value is computed
from the device's state (R7, R121, R141, R169, R170, R383, R416, R444, R478, R507, R537, R572). -/
namespace Sys2Proof

/-- MP_STATE.MIRROR_AGE at a CAD_TIME: when firmware mirrors its state is not modelled. -/
opaque Config.mirrorAge : Nat → Nat

/-- The firmware keys in OTP (R514). -/
opaque Config.fwKey : Nat → Bytes

namespace Machine

/-! ### Computed registers -/

/-- The code of a stall's state (R170). -/
def schedCode : Sched → Nat
  | .runnable => 1 | .running => 2 | .blocked => 3 | .held => 4 | .faultWait => 5 | .parked => 6 | .halted => 7

/-- The core a stall holds: that of its hot slot, else the one it is packed on (R144). -/
def State.coreHeld (s : State) (st : Stall) : Nat :=
  if st.loaded then st.core
  else match s.slotOf st.num with
    | some slot => (lookupN st.num (s.packing slot)).getD 0 % 4
    | none => 0

/-- STB_POS for a stall (R169). -/
def State.posWord (s : State) (st : Stall) : Nat :=
  st.num % 4096 + 4096 + schedCode st.sched * 2 ^ 13 + lowReason st * 2 ^ 16 +
    s.coreHeld st * 2 ^ 20 + b2n (lockstep s st) * 2 ^ 22 + b2n (decide (0 < lagAt s.time st)) * 2 ^ 23

/-- STB_LOAD of a slot. -/
def State.loadWord (s : State) (slot : Nat) : Nat :=
  let l := s.stallsOn slot
  l.foldl (fun n st => n + weight st.cls) 0 + l.length * 2 ^ 8 +
    (l.filter fun st => decide (st.sched = .runnable) || decide (st.sched = .running)).length * 2 ^ 16 +
    (l.filter fun st => decide (0 < lagAt s.time st)).length * 2 ^ 24

/-- STB_CORE_UNITS of a slot. -/
def State.coreUnitsWord (s : State) (slot : Nat) : Nat :=
  let p := s.packing slot
  (s.stallsOn slot).foldl (fun n st => match lookupN st.num p with
    | some c => n + weight st.cls * 2 ^ (8 * (c % 4))
    | none => n) 0

/-- HOT of a core: one bit per hot context slot that holds a stall (R132). -/
def State.hotBits (s : State) (slot core : Nat) : Nat := (s.hotOn slot core).foldl (fun m st => m ||| 2 ^ st.hot) 0

/-- A core is in the out-of-order configuration: that of its hot stalls, else the group packed on it (R123, R144). -/
def State.coreOoo (s : State) (slot core : Nat) : Bool :=
  match s.runsOn slot core with
  | st :: _ => st.ooo
  | [] =>
    let p := s.packing slot
    (s.stallsOn slot).any fun st => lookupN st.num p == some core && nextOoo (s.restoring slot) st

/-- A computed register of a stable slot at offset r. -/
def State.slotView (s : State) (slot r : Nat) : Option Nat :=
  if r = 0x14 then some (s.loadWord slot)
  else if r = 0x18 then some (s.coreUnitsWord slot)
  else if 0x1000 ≤ r ∧ r < 0x1300 then
    match (s.stallsOn slot).find? fun st => s.posOf st.num == (r - 0x1000) / 4 with
    | some st => some (s.posWord st)
    | none => some 0
  else if r = 0x7F04 then
    some (s.get (atSlot UCS_STATE_LOADED slot) + (upto 16).foldl (fun m k => if s.ucsInUse slot k then m + 2 ^ (16 + k) else m) 0)
  else if 0x7F10 ≤ r ∧ r < 0x7F20 then
    let c := (r - 0x7F10) / 4
    some (b2n (s.coreOoo slot c) + s.hotBits slot c * 16)
  else none

/-- 32 bits of sources that satisfy a condition, from source 32 k. -/
def bits32 (k : Nat) (p : Nat → Bool) : Nat := (upto 32).foldl (fun m j => if p (32 * k + j) then m + 2 ^ j else m) 0

/-- A computed register of the event controller at offset r. -/
def State.evtView (s : State) (r : Nat) : Option Nat :=
  if 0x20 ≤ r ∧ r < 0x30 then some (claimWord (s.claimable ((r - 0x20) / 4)))
  else if 0x100 ≤ r ∧ r < 0x140 then some (bits32 ((r - 0x100) / 4) s.evtLevel)
  else if 0x1C0 ≤ r ∧ r < 0x200 then some (bits32 ((r - 0x1C0) / 4) s.evtPending)
  else if 0x200 ≤ r ∧ r < 0x240 then some (bits32 ((r - 0x200) / 4) fun n => s.inServ.any fun p => p.1 == n)
  else none

/-- MPW_COUNTn. -/
def State.mpwCount (s : State) (n : Nat) : Nat :=
  match nthD s.mpwLeft n none with
  | some r => r % 2 ^ 24 + 2 ^ 24
  | none => if s.get (mpwEn n) = 1 then (nthD s.mpwEnd n 0 - s.time) / 1000 % 2 ^ 24 else 0

/-- DBG_SSTAT of the stall in DBG_SCTL. -/
def State.sstat (s : State) : Nat :=
  let ferr := s.get DBG_SSTAT_FERR * 8
  match s.stall? (s.get DBG_SCTL_STALL) with
  | some st => b2n (decide (st.sched = .halted)) + 2 * b2n (st.haltPend.isSome || st.dbgHalt) + 4 * b2n st.tainted + ferr +
      (if st.sched = .halted then st.haltCause * 16 else 0)
  | none => ferr

/-- The throttling levels (R569). -/
def State.throttling (s : State) : Bool := s.hot || s.pinLow || s.get BRD_THERM_MGMT == 1

/-- The computed register at a 32-bit offset of BAR0. -/
def State.view (s : State) (o : Nat) : Option Nat :=
  if 0x100000 ≤ o ∧ o < 0x210000 then s.slotView ((o - 0x100000) / 65536) ((o - 0x100000) % 65536)
  else if 0x10000 ≤ o ∧ o < 0x11000 then s.evtView (o - 0x10000)
  else if 0xF00600 ≤ o ∧ o < 0xF006C0 then some (leAt (Config.fwKey ((o - 0xF00600) / 96)) ((o - 0xF00600) % 96) 4)
  else match o with
    | 0x10 => some (Config.devSerial.toNat % 2 ^ 32)
    | 0x14 => some (Config.devSerial.toNat / 2 ^ 32)
    | 0x18 => some s.devMode
    | 0x200 => some (s.reg32 0x200 - s.get MP_STATE_MIRROR_AGE * 256 + Config.mirrorAge s.time % 256 * 256)
    | 0x218 => some (s.mpwCount 0)
    | 0x21C => some (s.mpwCount 1)
    | 0x600004 => some (s.residentCount % 4096 + s.get HOD_CACHE_LOADS * 65536)
    | 0x800050 => some ((match s.xfaults with | x :: _ => xfaultWord x | [] => 0) % 2 ^ 32)
    | 0x800054 => some ((match s.xfaults with | x :: _ => xfaultWord x | [] => 0) / 2 ^ 32)
    | 0x800058 => some (s.xfaults.length + s.get MEM_XFAULT_CNT_FULL * 65536)
    | 0x900080 => some (s.time % 2 ^ 32)
    | 0x900084 => some (s.cadLatch.getD (s.time / 2 ^ 32 % 2 ^ 32))
    | 0x20084 => some (s.pads % 2 ^ 32)
    | 0x200A8 => some (b2n s.throttling + 2 * b2n s.pinLow + s.get BRD_THERM_MGMT * 4 + s.get BRD_THERM_COUNT * 65536)
    | 0x200C0 => some (s.get BRD_CHAIN_ADDR + s.get BRD_CHAIN_ASSIGNED * 128 + b2n s.chainIn * 256 + s.get BRD_CHAIN_RELEASED * 512)
    | 0xF00008 => some (s.get DBG_STATUS_LEVEL + s.get DBG_STATUS_LOCK_BROKEN * 4 + b2n s.attn * 8 + s.get DBG_STATUS_FREEZE * 16 +
        s.get DBG_STATUS_LOCKOUT * 32 + s.get DBG_STATUS_FAILS * 64)
    | 0xF00204 => some s.sstat
    | 0xF00504 => some (s.otpEpoch + s.otpRevoked * 128)
    | _ => none

/-! ### Reads (R7, R420) -/

/-- The decode RAM of a stable slot (R121). -/
def inDecodeRam (o : Nat) : Bool := decide (0x100000 ≤ o) && decide (o < 0x210000) && decide (0x8000 ≤ (o - 0x100000) % 65536)

/-- The bits of byte `o` that a read shows: every field but a write-only one. -/
def readMask (o : Nat) : Nat :=
  if inDecodeRam o then 255
  else match findReg barRegs o with
    | some (d, k) => d.fields.foldl (fun m f => if f.ty = .wo then m else m ||| field ((2 ^ f.w - 1) * 2 ^ f.lo) (8 * k) 8) 0
    | none => 0

/-- Byte `o` of BAR0 as a read without a side effect returns it. -/
def State.readByte (s : State) (o : Nat) : Byte :=
  match s.view (o / 4 * 4) with
  | some v => BitVec.ofNat 8 (field v (8 * (o % 4)) 8)
  | none => BitVec.ofNat 8 (field (getQ s.regs (o / 8)).toNat (8 * (o % 8)) 8 &&& readMask o)

/-- n bytes of BAR0 from an offset. -/
def State.readBytes (s : State) (o : Nat) : Nat → Bytes
  | 0 => []
  | n + 1 => s.readByte o :: s.readBytes (o + 1) n

end Machine
end Sys2Proof
end

