-- ==== Sys2Proof/Machine/Board.lean ====
section
/-! DEFINITION. Board services: pins and pin functions, the thermal sensors and throttling, the management chain and the MGMT
target (R556 – R570). -/
namespace Sys2Proof.Machine

/-! ### Pins (R556 – R562) -/

/-- A field of BRD_GPIO_CFGp. -/
def gpioCfg (f : Fld) (p : Nat) : Fld := f.nth 4 p

/-- A pin function that drives the pin: I2C, UART_TX, PPS_OUT, FAN_PWM, LED (R556). -/
def fnDrives (f : Nat) : Bool := [1, 2, 3, 4, 5, 8, 9, 10, 13, 14].contains f

/-- The level that the GPIO output settles the pad at: its value ORed with the function's where it drives 1, and 0 where no
function takes part (R558). none: the pad follows what else drives it. -/
def State.padDriven (s : State) (p : Nat) : Option Bool :=
  let f := s.get (gpioCfg BRD_GPIO_CFG_FUNC p)
  if f = 15 ∨ s.get (gpioCfg BRD_GPIO_CFG_OE p) = 0 then none
  else if bitAt (s.get BRD_GPIO_OUT_OUT) p then
    if s.get (gpioCfg BRD_GPIO_CFG_OD p) = 1 then none else some true
  else if fnDrives f then none else some false

/-- The idle level of an input function; none for a code that is no input (R556). -/
def fnIdle : Nat → Option Bool
  | 1 | 2 | 3 | 4 | 6 => some true
  | 7 | 11 | 12 => some false
  | _ => none

/-- The level an input function receives: that of its pins, ANDed or ORed by its idle level (R559). -/
def State.fnInput (s : State) (f : Nat) : Option Bool :=
  let pins := (upto 32).filter fun p => s.get (gpioCfg BRD_GPIO_CFG_FUNC p) == f
  match fnIdle f with
  | some true => some (pins.all fun p => bitAt s.pads p)
  | some false => some (pins.any fun p => bitAt s.pads p)
  | none => none

/-- The pad of pin p takes a level; an edge that IMODE selects sets its ISTAT bit (R561). ISTAT is held at reset with the
domains other than the always-on domain. -/
def State.padSet (s : State) (p : Nat) (lvl : Bool) : State :=
  let was := bitAt s.pads p
  let s := { s with pads := putField s.pads p 1 (b2n lvl) }
  let m := s.get (gpioCfg BRD_GPIO_CFG_IMODE p)
  if s.awake && !s.held && ((!was && lvl && (m == 3 || m == 5)) || (was && !lvl && (m == 4 || m == 5))) then
    s.put ⟨BRD_GPIO_ISTAT_EDGE.off, p, 1⟩ 1
  else s

/-- Every pad that the GPIO output settles takes its level. -/
def State.padsSettle (s : State) : State :=
  (upto 32).foldl (fun s p => match s.padDriven p with | some l => s.padSet p l | none => s) s

/-- GPIO_CFG_WRITE: reg 0 – 31 BRD_GPIO_CFGreg, 32 BRD_GPIO_OUT; everything changes at one edge (R557, R560). -/
def gpioCfgWrite (reg value : Nat) (s : State) : State :=
  if !fwRuns s.mode ∨ s.held then s
  else if reg < 32 then (s.put ⟨0x20000 + 4 * reg, 0, 13⟩ value).padsSettle
  else if reg = 32 then (s.put BRD_GPIO_OUT_OUT value).padsSettle
  else s

/-- GPIO_EDGE: what the board drives on pin p changes to a level; a pad that the device settles stays (R558, R561). -/
def gpioEdge (p : Nat) (lvl : Bool) (s : State) : State :=
  if p < 32 ∧ ((s.padDriven p).isNone ∨ !s.awake) then s.padSet p lvl else s

/-! ### Thermal (R568 – R570) -/

/-- What follows from a change of a throttling cause or of TEMP_HIGH: an entry is counted, and MGMT_ALERT_N falls (R565, R569).
`was` and `hi` are the states of both before. -/
def State.thermalEdges (s : State) (was hi : Bool) : State :=
  if !s.awake then s
  else
    let s := if s.throttling && !was then { (if s.held then s else s.inc BRD_THERM_COUNT) with alert := true } else s
    if s.tempHigh && !hi then { s with alert := true } else s

/-- THROTTLE_PIN: THROTTLE_N becomes low or high (R569). -/
def throttlePin (low : Bool) (s : State) : State := State.thermalEdges { s with pinLow := low } s.throttling s.tempHigh

/-- The thermal trip: every clock but the always-on domain's stops, HBM is lost, THERMTRIP_N latches low (R570). The mode stays
in `prior` for READ_ID. -/
def State.tripNow (s : State) : State :=
  { (s.afterReset true false false) with trip := true, held := true, prior := s.mode, detail := s.detail, hbm := [] }

/-- TEMP_SAMPLE: the hottest sensor reads `temp` in 1/16 °C, and the device takes `watts` in 1/8 W (R568 – R570). -/
def tempSample (temp : Int) (sensor watts : Nat) (s : State) : State :=
  if !s.awake ∨ s.held then s
  else
    let was := s.throttling
    let hi := s.tempHigh
    let vals : List (Fld × Nat) := [(BRD_TEMP_TEMP, ofSigned 16 temp), (BRD_TEMP_SENSOR, sensor % 24), (BRD_POWER_WATTS, watts)]
    let s := s.puts vals
    let s := { s with hot := if 1520 ≤ temp then true else if temp < 1472 then false else s.hot }
    let s := s.thermalEdges was hi
    if 1760 ≤ temp then s.tripNow.puts vals else s

/-! ### The management chain (R564, R565) -/

/-- The address at which the device answers (R564). -/
def State.chainAddr (s : State) : Option Nat :=
  if s.mode = .off then none
  else if s.get BRD_CHAIN_ASSIGNED = 1 then some (s.get BRD_CHAIN_ADDR)
  else if s.chainReady then some 0x3C
  else none

/-- CHAIN_IN_RISE: an unaddressed device answers 100 µs later (R564). -/
def chainInRise (s : State) : State :=
  if s.chainIn then s else { s with chainIn := true, chainAt := s.time, chainUp := false }

/-- CHAIN_IN_FALL: an unaddressed device answers no address; an addressed one keeps its own (R564). -/
def chainInFall (s : State) : State := { s with chainIn := false, chainUp := false }

/-- ALERT_RESPONSE: the device returns its address, in bits [7:1], and releases MGMT_ALERT_N (R565). -/
def alertResponse (s : State) : State :=
  match s.chainAddr with
  | some a => if s.alert then State.emit { s with alert := false } (.mgmt [BitVec.ofNat 8 (2 * a)]) else s
  | none => s

/-- SMBUS_TIMEOUT: the target's interface is reset; a transaction in progress has done nothing (R565). -/
def smbusTimeout (s : State) : State := s

/-! ### MGMT commands (R566, R567) -/

/-- A command of the device's chain address: its code, its conditions and its effect. A wrong PEC, a thermal trip, a mode or an
address that does not permit it, and a data value that is not permitted refuse it, in this order; `arg` and `may` state the last
two. -/
def State.mgmtDo (s : State) (addr : Nat) (pec : Bool) (trips may arg : Bool) (f : State → State) : State :=
  if s.chainAddr != some addr then s
  else if pec then { s with mgmt := 1 }
  else if s.trip && trips then { s with mgmt := 5 }
  else if !may then { s with mgmt := 4 }
  else if !arg then { s with mgmt := 3 }
  else f { s with mgmt := 0 }

/-- A command that answers with bytes. -/
def State.mgmtRead (s : State) (addr : Nat) (pec trips may : Bool) (data : Bytes) : State :=
  s.mgmtDo addr pec trips may true fun s => s.emit (.mgmt data)

/-- Not in SLUMBER. -/
def State.upright (s : State) : Bool := s.mode != .slumber

/-- ASSIGN_ADDR, at 0x3C only. -/
def mgmtAssign (addr : Nat) (pec : Bool) (value : Nat) (s : State) : State :=
  s.mgmtDo addr pec true (s.get BRD_CHAIN_ASSIGNED == 0) (decide (0x40 ≤ value) && decide (value ≤ 0x4F)) fun s =>
    s.puts [(BRD_CHAIN_ADDR, value), (BRD_CHAIN_ASSIGNED, 1), (BRD_CHAIN_RELEASED, 1)]

/-- RELEASE_ADDR, at an assigned address. -/
def mgmtRelease (addr : Nat) (pec : Bool) (s : State) : State :=
  s.mgmtDo addr pec true (s.get BRD_CHAIN_ASSIGNED == 1) true fun s =>
    s.puts [(BRD_CHAIN_ADDR, 0), (BRD_CHAIN_ASSIGNED, 0), (BRD_CHAIN_RELEASED, 0)]

/-- LAST_STATUS: the result of the command before it, which stays. -/
def mgmtLastStatus (addr : Nat) (pec : Bool) (s : State) : State :=
  if s.chainAddr != some addr then s
  else if pec then { s with mgmt := 1 }
  else s.emit (.mgmt [BitVec.ofNat 8 s.mgmt])

/-- DEV_MODE [15:0] as MGMT reads it: after a thermal trip, as it was. -/
def State.mgmtMode (s : State) : Nat :=
  if s.mode = .slumber then 1 else if s.trip then modeCode s.prior + s.detail * 256 else s.devMode

/-- READ_ID. -/
def mgmtReadId (addr : Nat) (pec : Bool) (s : State) : State :=
  s.mgmtRead addr pec false true (leBytes 4 (s.get DEV_ID_ID) ++ leBytes 1 (s.get DEV_STEP_STEP) ++ leBytes 1 (s.get DEV_CONF_LEVEL) ++
    leBytes 2 s.mgmtMode ++ leBytes 8 Config.devSerial.toNat)

/-- READ_MODE. -/
def mgmtReadMode (addr : Nat) (pec : Bool) (s : State) : State := s.mgmtRead addr pec true true (leBytes 2 s.mgmtMode)

/-- READ_RST. -/
def mgmtReadRst (addr : Nat) (pec : Bool) (s : State) : State :=
  s.mgmtRead addr pec true true (leBytes 4 (s.get RST_CAUSE_CAUSES))

/-- READ_FSTOP. -/
def mgmtReadFstop (addr : Nat) (pec : Bool) (s : State) : State :=
  s.mgmtRead addr pec true true (leBytes 4 (s.reg32 0x20) ++ leBytes 8 (s.get FSTOP_TIME_TIME))

/-- READ_TEMP. -/
def mgmtReadTemp (addr : Nat) (pec : Bool) (s : State) : State :=
  s.mgmtRead addr pec false s.upright (leBytes 2 (s.get BRD_TEMP_TEMP))

/-- READ_POWER. -/
def mgmtReadPower (addr : Nat) (pec : Bool) (s : State) : State :=
  s.mgmtRead addr pec true s.upright (leBytes 2 (s.get BRD_POWER_WATTS))

/-- DEV_RESET: DEVRST with cause 5. -/
def mgmtDevReset (addr : Nat) (pec : Bool) (value : Nat) (mp0 : Bool) (s : State) : State :=
  s.mgmtDo addr pec true s.upright (value == 0xD5) fun s => s.devReset 5 mp0

/-- WARM_RESET. -/
def mgmtWarmReset (addr : Nat) (pec : Bool) (value : Nat) (mp0 : Bool) (s : State) : State :=
  s.mgmtDo addr pec true s.upright (value == 0xD5) fun s => s.warmReset mp0

/-- Modes in which SLEEP is permitted, with no stall (R490, R566). -/
def State.maySleep (s : State) : Bool :=
  (s.mode == .service || s.mode == .serve || s.mode == .serveDegraded || s.mode == .drowse) && s.stalls.isEmpty

/-- SLEEP: firmware enters SLUMBER. -/
def mgmtSleep (addr : Nat) (pec : Bool) (value : Nat) (s : State) : State :=
  s.mgmtDo addr pec true s.maySleep (value == 0xD5) fun s => s.enterSlumber

/-- WAKE: SLUMBER ends once the supplies are good; WAKE_N is driven low (R491). -/
def mgmtWake (addr : Nat) (pec : Bool) (value : Nat) (s : State) : State :=
  s.mgmtDo addr pec true (s.mode == .slumber) (value == 0xD5) fun s => { s with waking := true, wakeN := true }

/-- THROTTLE: 1 asserts, 0 releases; held in reset, firmware's loss has released it. -/
def mgmtThrottle (addr : Nat) (pec : Bool) (value : Nat) (s : State) : State :=
  s.mgmtDo addr pec true s.upright (decide (value < 2)) fun t =>
    State.thermalEdges (t.put BRD_THERM_MGMT value) s.throttling s.tempHigh

/-- WAKE_CFG, written or read. -/
def mgmtWakeCfg (addr : Nat) (pec write : Bool) (value : Nat) (s : State) : State :=
  s.mgmtDo addr pec true true true fun s =>
    if write then s.put ⟨0x20090, 0, 16⟩ value else s.emit (.mgmt (leBytes 2 (s.reg32 0x20090)))

/-- The codes of R566. -/
def mgmtCodes : List Nat :=
  [0x01, 0x02, 0x0F, 0x10, 0x11, 0x12, 0x13, 0x20, 0x21, 0x30, 0x31, 0x32, 0x33, 0x34, 0x40]

/-- A command with a code that R566 does not list. -/
def mgmtUnknown (addr : Nat) (pec : Bool) (code : Nat) (s : State) : State :=
  if s.chainAddr != some addr ∨ mgmtCodes.contains code then s
  else { s with mgmt := if pec then 1 else 2 }

end Sys2Proof.Machine
end

