-- ==== Sys2Proof/Machine/BoardCmds.lean ====
section
/-! DEFINITION. The meanings of the rows on board pins, the thermal sensors, the management chain and MGMT. -/
namespace Sys2Proof.Machine

/-- A write of BRD_GPIO_CFGp or BRD_GPIO_OUT (R557). -/
def execGpioCfgWrite (reg : Nat) (value : Nat) (s : State) : Answer := .next (gpioCfgWrite reg value s)

/-- The level on a pin changes (R561). -/
def execGpioEdge (pin : Nat) (level : Bool) (s : State) : Answer := .next (gpioEdge pin level s)

/-- THROTTLE_N changes (R569). -/
def execThrottlePin (low : Bool) (s : State) : Answer := .next (throttlePin low s)

/-- The sensors are read (R568 – R570). -/
def execTempSample (temp : Int) (sensor : Nat) (watts : Nat) (s : State) : Answer := .next (tempSample temp sensor watts s)

/-- CHAIN_IN rises (R564). -/
def execChainInRise (s : State) : Answer := .next (chainInRise s)

/-- CHAIN_IN falls (R564). -/
def execChainInFall (s : State) : Answer := .next (chainInFall s)

/-- SCL held low for 30 ms (R565). -/
def execSmbusTimeout (s : State) : Answer := .next (smbusTimeout s)

/-- An Alert Response read returns the device's address (R565). -/
def execAlertResponse (s : State) : Answer := .next (alertResponse s)

/-- The MGMT command ASSIGN_ADDR (R564, R566). -/
def execAssignAddr (addr : Nat) (pec : Bool) (value : Nat) (s : State) : Answer := .next (mgmtAssign addr pec value s)

/-- The MGMT command RELEASE_ADDR (R564, R566). -/
def execReleaseAddr (addr : Nat) (pec : Bool) (s : State) : Answer := .next (mgmtRelease addr pec s)

/-- The MGMT command LAST_STATUS (R567). -/
def execLastStatus (addr : Nat) (pec : Bool) (s : State) : Answer := .next (mgmtLastStatus addr pec s)

/-- The MGMT command READ_ID (R566). -/
def execReadId (addr : Nat) (pec : Bool) (s : State) : Answer := .next (mgmtReadId addr pec s)

/-- The MGMT command READ_MODE (R566). -/
def execReadMode (addr : Nat) (pec : Bool) (s : State) : Answer := .next (mgmtReadMode addr pec s)

/-- The MGMT command READ_RST (R566). -/
def execReadRst (addr : Nat) (pec : Bool) (s : State) : Answer := .next (mgmtReadRst addr pec s)

/-- The MGMT command READ_FSTOP (R566). -/
def execReadFstop (addr : Nat) (pec : Bool) (s : State) : Answer := .next (mgmtReadFstop addr pec s)

/-- The MGMT command READ_TEMP (R566). -/
def execReadTemp (addr : Nat) (pec : Bool) (s : State) : Answer := .next (mgmtReadTemp addr pec s)

/-- The MGMT command READ_POWER (R566). -/
def execReadPower (addr : Nat) (pec : Bool) (s : State) : Answer := .next (mgmtReadPower addr pec s)

/-- The MGMT command DEV_RESET (R566). -/
def execDevReset (addr : Nat) (pec : Bool) (value : Nat) (mp0 : Bool) (s : State) : Answer := .next (mgmtDevReset addr pec value mp0 s)

/-- The MGMT command WARM_RESET (R566). -/
def execWarmReset (addr : Nat) (pec : Bool) (value : Nat) (mp0 : Bool) (s : State) : Answer := .next (mgmtWarmReset addr pec value mp0 s)

/-- The MGMT command SLEEP (R490, R566). -/
def execSleep (addr : Nat) (pec : Bool) (value : Nat) (s : State) : Answer := .next (mgmtSleep addr pec value s)

/-- The MGMT command WAKE (R491, R566). -/
def execWake (addr : Nat) (pec : Bool) (value : Nat) (s : State) : Answer := .next (mgmtWake addr pec value s)

/-- The MGMT command THROTTLE (R566, R569). -/
def execThrottle (addr : Nat) (pec : Bool) (value : Nat) (s : State) : Answer := .next (mgmtThrottle addr pec value s)

/-- The MGMT command WAKE_CFG (R566). -/
def execWakeCfg (addr : Nat) (pec : Bool) (write : Bool) (value : Nat) (s : State) : Answer := .next (mgmtWakeCfg addr pec write value s)

/-- An MGMT command with an unlisted code (R567). -/
def execMgmtUnknownCommand (addr : Nat) (pec : Bool) (code : Nat) (s : State) : Answer := .next (mgmtUnknown addr pec code s)

end Sys2Proof.Machine
end

