-- ==== Sys2Proof/Machine/Audio.lean ====
section
/-! DEFINITION. The audio engine at the device: beam samples, graph samples, safe-load of graphs, and stream audio frames
(R267 – R269, R279, R282 – R294, R535). -/
namespace Sys2Proof.Machine

/-- Events of the engine (R469). -/
def evSwapDone : Nat := 0x058
def evSwapReject : Nat := 0x059
def evFallback : Nat := 0x05A
def evGap : Nat := 0x05B
def evAudDrop : Nat := 0x05C
def evOpUnder : Nat := 0x05D

/-! ### Beam samples -/

/-- A sound entry due at the next sample falls on a page whose checkpoint copy is pending (R377). -/
def soundWaits (st : Stall) : Bool :=
  st.stamps.any fun x => soundEntry x && decide (x.tick < st.spos * tps st.cls) &&
    (renderPages st.cls st.rview x).any fun p => st.copying.contains p

/-- The next beam sample may be rendered: TICK has passed its first tick, the writes below it have come, and the lane has routed the one
before (R267, R268, R282). -/
def sampleReady (s : State) (st : Stall) : Bool :=
  !((soundsTo st (st.spos * tps st.cls)).pend.any (pendAhead st (st.spos * tps st.cls))) && s.get AUD_CTL_EN == 1 && decide (st.spos * tps st.cls < st.tick) && !(st.faults.any fun f => f.2 == 2) && !soundWaits st &&
    (match st.lane with | some l => l.codec == 0 || decide (st.spos ≤ l.gpos) | none => true)

/-- Enter the newest mix pair into the CRC of the frame being sounded (R535). -/
def signSample (st : Stall) : Stall :=
  let i := st.spos - 1
  if i ≠ st.sigPos then st
  else
    let bs := leBytes 2 (ofSigned 16 st.mixL) ++ leBytes 2 (ofSigned 16 st.mixR)
    let c := bs.foldl crcByte st.sigCrc
    let st := { st with sigCrc := c, sigPos := i + 1 }
    if frameOf st.cls (i * tps st.cls) ≠ frameOf st.cls ((i + 1) * tps st.cls) then
      { st with sigCrc := 0xFFFFFFFF#32, sigSnd := st.sigSnd ++ [(frameOf st.cls (i * tps st.cls), c ^^^ 0xFFFFFFFF#32)] }
    else st

/-- The formation time of frame q (R288). -/
def formTime (f0 q : Nat) : Nat := cadFrame f0 + 10000000 * (q + 1) + 300000

/-- The formation time of the frame that a stall's lane forms next; none without a lane. -/
def laneTime (st : Stall) : Option Nat :=
  match st.lane, st.f0 with
  | some l, some f => if l.codec = 0 then none else some (formTime f l.frame)
  | _, _ => none

/-- A sample of stall a is served before one of stall b: replay, then the earlier formation time, a stall without a lane last, then the
lower number (R268). -/
def soundsBefore (a b : Stall) : Bool :=
  if a.replayTo.isSome != b.replayTo.isSome then a.replayTo.isSome
  else if a.replayTo.isSome then decide (a.num < b.num)
  else match laneTime a, laneTime b with
    | some x, some y => decide (x < y) || (x == y && decide (a.num < b.num))
    | some _, none => true
    | none, some _ => false
    | none, none => decide (a.num < b.num)

/-- No renderable sample of another stall comes before the stall's (R268). -/
def sampleNext (s : State) (st : Stall) : Bool :=
  !(s.stalls.any fun x => x.num != st.num && (s.live x.num).isSome && sampleReady s x && soundsBefore x st)

/-- BEAM_SAMPLE (R267, R268). -/
def beamSampleStep (k : Nat) (s : State) : State :=
  match s.live k with
  | none => s
  | some (st, _) =>
    if sampleReady s st && sampleNext s st then
      let st := beamSample st
      if s.mode = .conformance then (s.setStall (signSample st)).sigStep k else s.setStall st
    else s

/-! ### The routing graph (R282 – R286) -/

/-- A pending swap may take effect at this sample (R285). -/
def swapMay (s : State) (st : Stall) (l : Lane) : Bool :=
  l.swapState == 1 && (!l.swapRamp || decide (s.rampUnits + weight st.cls ≤ 256))

/-- GRAPH_SAMPLE: the lane routes the sample whose game mix has just been formed (R282). -/
def graphSample (k : Nat) (s : State) : State :=
  match s.live k with
  | none => s
  | some (st, _) => match st.lane with
    | none => s
    | some l =>
      if s.get AUD_CTL_EN = 1 ∧ l.codec ≠ 0 ∧ st.spos = l.gpos + 1 then
        let swap := swapMay s st l
        let l1 := if swap then swapNow st.cls l else l
        let l2 := routeSample st.cls st.voices (st.mixL, st.mixR) l1
        let s := s.setStall { st with lane := some l2 }
        let s := s.showRamp
        let s := if swap then s.raise evSwapDone else s
        if swap && l1.fallback then s.raise evFallback else s
      else s

/-- AUD_SWAP with GO = 1 (R284). -/
def audSwap (k : Nat) (ramp : Bool) (s : State) : State :=
  if !fwRuns s.mode ∨ s.get AUD_SWAP_BUSY = 1 then s else { s.put AUD_SWAP_BUSY 1 with swapReq := some (k, ramp) }

/-- The result of the validation of a swap (R284). -/
def swapCheck (o : Option Stall) : Nat :=
  match o.bind (·.lane) with
  | none => 1
  | some l => if l.codec = 0 then 1 else if l.swapState ≠ 0 then 2 else l.otherG.check

/-- AUD_SWAP_VALIDATED (R284, R285). -/
def audSwapValidated (s : State) : State :=
  match s.swapReq with
  | none => s
  | some (k, ramp) =>
    let s := { s.put AUD_SWAP_BUSY 0 with swapReq := none }
    match swapCheck (s.stall? k) with
    | 0 => s.onStall k fun st => { st with lane := st.lane.map fun l => { l with swapState := 1, swapRamp := ramp } }
    | r => (s.puts [(AUD_SWAP_ERR_STALL, k), (AUD_SWAP_ERR_REASON, r), (AUD_SWAP_ERR_VALID, 1)]).raise evSwapReject

/-! ### Stream frames (R287 – R292) -/

/-- The operator pairs of a frame: those available from the bytes read, zeros after them; and how many were available
(R289). -/
def opPairs (avail : Nat) (op : Bytes) : List Pair :=
  (upto 480).map fun i =>
    if i < avail then (toSigned 16 (leAt op (4 * i) 2), toSigned 16 (leAt op (4 * i + 2) 2)) else (0, 0)

/-- Pairs available in the operator ring (R289). -/
def opAvail (l : Lane) : Nat := if l.opAddr = 0 ∨ l.opSize = 0 then 0 else min 480 ((l.opWr + l.opSize - l.opRd) % l.opSize / 4)

/-- The least beam sample that frame q and later ones may need. -/
def keepFrom (c : BeamClass) (q : Nat) : Nat := (match c with | .L => 33 * (480 * q) / 50 | _ => 33 * (480 * q) / 25) - 4

/-- The stall is HALTED or PARKED, or on a RESTORING slot (R288). -/
def State.frameHeld (s : State) (st : Stall) : Bool :=
  decide (st.sched = .halted) || decide (st.sched = .parked) || (match s.slotOf st.num with | some p => s.restoring p | none => false)

/-- AUDIO_FRAME_FORM; `op`: what host memory answers from OP_RD on (R287 – R292). -/
def audioFrameForm (k : Nat) (op : Bytes) (s : State) : State :=
  match s.stall? k with
  | none => s
  | some st => match st.lane, st.f0 with
    | some l, some f0 =>
      let q := l.frame
      if stallsExecute s.mode ∧ s.memServes ∧ s.get AUD_CTL_EN = 1 ∧ l.codec ≠ 0 ∧ formTime f0 q ≤ s.time then
        let held := s.frameHeld st
        let pcm := s.split spAUDIO
        let bs := (upto 480).map fun i => if held then some (0, 0) else bridge st.cls l (480 * q + i)
        let gap := !held && bs.any (·.isNone)
        let avail := opAvail l
        let under := l.opAddr != 0 && decide (avail < 480)
        let outp := (bs.zip (opPairs avail op)).map fun (b, o) => laneMix l (b.getD (0, 0)) o
        let codec := if pcm then 5 else l.codec
        let (pay, s) :=
          if codec = 5 then (l16Bytes l.channels outp, s)
          else
            let ps : List Pair := if l.channels = 1 then outp.map (fun p => ((p.1 + p.2) / 2, (p.1 + p.2) / 2)) else outp
            (leBytes 1 (if l.channels = 1 then 0xF0 else 0xF4) ++
              sliceBytes (Config.opus s.free l.channels ps) 0 (l.bitrate * 10 / 8 - 1), { s with free := s.free + 1 })
        let fl := b2n gap + 2 * b2n held + 4 * b2n l.fallback + 8 * b2n under
        let hd := leBytes 2 k ++ leBytes 1 codec ++ leBytes 1 fl ++ leBytes 4 q ++ leBytes 8 (480 * q) ++ leBytes 4 pay.length ++
          leBytes 8 s.time ++ leBytes 4 0
        let rec_ := padRecord hd pay
        let l := { l with frame := q + 1, opRd := if l.opSize = 0 then l.opRd else (l.opRd + 4 * avail) % l.opSize
                          x := l.x.filter fun p => decide (keepFrom st.cls (q + 1) ≤ p.1) }
        let s := if gap then ((s.inc AUD_GAP_COUNT).put AUD_GAP_STALL k).raise evGap else s
        let s := if under then ((s.inc AUD_OPUNDER_COUNT).put AUD_OPUNDER_STALL k).raise evOpUnder else s
        match ringPlace l.wr l.rd l.outSize rec_.length with
        | some (pad, at_, wr) =>
          let s := s.ringWrite l.outAddr l.wr pad (padHeader k 4 4) at_ rec_
          s.setStall { st with lane := some { l with wr, pcm := if pcm then l.pcm ++ [at_] else l.pcm } }
        | none =>
          let s := s.setStall { st with lane := some l }
          ((s.inc AUD_DROP_COUNT).put AUD_DROP_STALL k).raise evAudDrop
      else s
    | _, _ => s

end Sys2Proof.Machine
end

