-- ==== Sys2Proof/Machine/CoreOps.lean ====
section
/-! DEFINITION. The meanings of the rows that name a session-core operation of a stall: each is the sequencer's shared step
for its opcode at the stall's instruction boundary (R64, R85, R111). -/
namespace Sys2Proof.Machine


/-- NOP (R64). -/
def execNop (stall : Nat) (s : State) : Answer := .next (stepOp .nop stall s)

/-- MOV (R64). -/
def execMov (stall : Nat) (s : State) : Answer := .next (stepOp .mov stall s)

/-- XCH (R64). -/
def execXch (stall : Nat) (s : State) : Answer := .next (stepOp .xch stall s)

/-- LEA (R65). -/
def execLea (stall : Nat) (s : State) : Answer := .next (stepOp .lea stall s)

/-- PUSH (R66). -/
def execPush (stall : Nat) (s : State) : Answer := .next (stepOp .push stall s)

/-- POP (R66). -/
def execPop (stall : Nat) (s : State) : Answer := .next (stepOp .pop stall s)

/-- CLR (R64). -/
def execClr (stall : Nat) (s : State) : Answer := .next (stepOp .clr stall s)

/-- SWPB (R64). -/
def execSwpb (stall : Nat) (s : State) : Answer := .next (stepOp .swpb stall s)

/-- ADD (R65). -/
def execAdd (stall : Nat) (s : State) : Answer := .next (stepOp .add stall s)

/-- ADC (R65). -/
def execAdc (stall : Nat) (s : State) : Answer := .next (stepOp .adc stall s)

/-- SUB (R65). -/
def execSub (stall : Nat) (s : State) : Answer := .next (stepOp .sub stall s)

/-- SBC (R65). -/
def execSbc (stall : Nat) (s : State) : Answer := .next (stepOp .sbc stall s)

/-- CMP (R65). -/
def execCmp (stall : Nat) (s : State) : Answer := .next (stepOp .cmp stall s)

/-- NEG (R70). -/
def execNeg (stall : Nat) (s : State) : Answer := .next (stepOp .neg stall s)

/-- INC (R65). -/
def execInc (stall : Nat) (s : State) : Answer := .next (stepOp .inc stall s)

/-- DEC (R65). -/
def execDec (stall : Nat) (s : State) : Answer := .next (stepOp .dec stall s)

/-- AND (R65). -/
def execAnd (stall : Nat) (s : State) : Answer := .next (stepOp .and stall s)

/-- OR (R65). -/
def execOr (stall : Nat) (s : State) : Answer := .next (stepOp .or stall s)

/-- XOR (R65). -/
def execXor (stall : Nat) (s : State) : Answer := .next (stepOp .xor stall s)

/-- NOT (R65). -/
def execNot (stall : Nat) (s : State) : Answer := .next (stepOp .not stall s)

/-- TST (R65). -/
def execTst (stall : Nat) (s : State) : Answer := .next (stepOp .tst stall s)

/-- SEXT (R64). -/
def execSext (stall : Nat) (s : State) : Answer := .next (stepOp .sext stall s)

/-- MUL (R67). -/
def execMul (stall : Nat) (s : State) : Answer := .next (stepOp .mul stall s)

/-- MULU (R67). -/
def execMulu (stall : Nat) (s : State) : Answer := .next (stepOp .mulu stall s)

/-- DIV (R67). -/
def execDiv (stall : Nat) (s : State) : Answer := .next (stepOp .div stall s)

/-- DIVS (R67). -/
def execDivs (stall : Nat) (s : State) : Answer := .next (stepOp .divs stall s)

/-- SHL (R69). -/
def execShl (stall : Nat) (s : State) : Answer := .next (stepOp .shl stall s)

/-- SHR (R69). -/
def execShr (stall : Nat) (s : State) : Answer := .next (stepOp .shr stall s)

/-- SAR (R69). -/
def execSar (stall : Nat) (s : State) : Answer := .next (stepOp .sar stall s)

/-- ROL (R69). -/
def execRol (stall : Nat) (s : State) : Answer := .next (stepOp .rol stall s)

/-- ROR (R69). -/
def execRor (stall : Nat) (s : State) : Answer := .next (stepOp .ror stall s)

/-- BIT (R64). -/
def execBit (stall : Nat) (s : State) : Answer := .next (stepOp .bit stall s)

/-- LDA (R71). -/
def execLda (stall : Nat) (s : State) : Answer := .next (stepOp .lda stall s)

/-- STA (R71). -/
def execSta (stall : Nat) (s : State) : Answer := .next (stepOp .sta stall s)

/-- ADDA (R71). -/
def execAdda (stall : Nat) (s : State) : Answer := .next (stepOp .adda stall s)

/-- SUBA (R71). -/
def execSuba (stall : Nat) (s : State) : Answer := .next (stepOp .suba stall s)

/-- MPY (R72). -/
def execMpy (stall : Nat) (s : State) : Answer := .next (stepOp .mpy stall s)

/-- MAC (R72). -/
def execMac (stall : Nat) (s : State) : Answer := .next (stepOp .mac stall s)

/-- MSU (R72). -/
def execMsu (stall : Nat) (s : State) : Answer := .next (stepOp .msu stall s)

/-- RND (R72). -/
def execRnd (stall : Nat) (s : State) : Answer := .next (stepOp .rnd stall s)

/-- SHA (R71). -/
def execSha (stall : Nat) (s : State) : Answer := .next (stepOp .sha stall s)

/-- ABS (R65). -/
def execAbs (stall : Nat) (s : State) : Answer := .next (stepOp .abs stall s)

/-- MVC (R76). -/
def execMvc (stall : Nat) (s : State) : Answer := .next (stepOp .mvc stall s)

/-- BR (R74). -/
def execBr (stall : Nat) (s : State) : Answer := .next (stepOp .br stall s)

/-- JMP (R74). -/
def execJmp (stall : Nat) (s : State) : Answer := .next (stepOp .jmp stall s)

/-- CALL (R66). -/
def execCall (stall : Nat) (s : State) : Answer := .next (stepOp .call stall s)

/-- RET (R66). -/
def execRet (stall : Nat) (s : State) : Answer := .next (stepOp .ret stall s)

/-- RETI (R99). -/
def execReti (stall : Nat) (s : State) : Answer := .next (stepOp .reti stall s)

/-- DBNZ (R74). -/
def execDbnz (stall : Nat) (s : State) : Answer := .next (stepOp .dbnz stall s)

/-- DBRC (R75). -/
def execDbrc (stall : Nat) (s : State) : Answer := .next (stepOp .dbrc stall s)

/-- LDRC (R75). -/
def execLdrc (stall : Nat) (s : State) : Answer := .next (stepOp .ldrc stall s)

/-- RPT (R84). -/
def execRpt (stall : Nat) (s : State) : Answer := .next (stepOp .rpt stall s)

/-- LOCK (R88). -/
def execLock (stall : Nat) (s : State) : Answer := .next (stepOp .lock stall s)

/-- SWI (R104). -/
def execSwi (stall : Nat) (s : State) : Answer := .next (stepOp .swi stall s)

/-- WAIT (R77). -/
def execWait (stall : Nat) (s : State) : Answer := .next (stepOp .wait stall s)

/-- SYNC (R78). -/
def execSync (stall : Nat) (s : State) : Answer := .next (stepOp .sync stall s)

/-- A user opcode of the stall's microcode set (R111). -/
def execUserOpcode (stall : Nat) (s : State) : Answer := .next (stepOp .user stall s)

/-- One further repetition of a repeated instruction (R85). -/
def execRepetition (stall : Nat) (s : State) : Answer := .next (stepRep stall s)

/-- One step of the idle ticks of WAIT or SYNC (R77, R78, R152). -/
def execIdleStep (stall : Nat) (s : State) : Answer := .next (stepIdle stall s)

/-- Interrupt entry (R96). -/
def execInterruptEntry (stall : Nat) (s : State) : Answer := .next (stepInterrupt stall s)

/-- ILLEGAL entry (R103). -/
def execIllegalEntry (stall : Nat) (s : State) : Answer := .next (stepIllegal stall s)

/-- DIVZERO entry (R68). -/
def execDivzeroEntry (stall : Nat) (s : State) : Answer := .next (stepDivZero stall s)

end Sys2Proof.Machine
end

