-- ==== Sys2Proof/Machine/Mon.lean ====
section
/-! DEFINITION. The monitor port (R227 – R232). -/
namespace Sys2Proof.Machine

/-- Events of the port (R469). -/
def evMonLow : Nat := 0x050
def evMonUnderrun : Nat := 0x051
def evMonPin : Nat := 0x052

/-- Fields of a timing register pair. -/
def tLow (v w : Nat) : Nat := field v 0 w
def tHigh (v w : Nat) : Nat := field v 16 w

/-- The shadow registers as they stand. -/
def State.monShadow (s : State) : Monitor :=
  { s.mon with mode := s.get MON_CTL_MODE, hspol := s.get MON_CTL_HSPOL, vspol := s.get MON_CTL_VSPOL, src := s.get MON_SRC_STREAM
               stall := s.get MON_SRC_STALL, mul := s.get MON_CLK_MUL_VALUE, div := s.get MON_CLK_DIV_VALUE, h0 := s.reg32 0x40010
               h1 := s.reg32 0x40014, v0 := s.reg32 0x40018, v1 := s.reg32 0x4001C }

/-- The checks of R227; the clock is mul / div GHz. A commit of MODE = 1 passes them too, though R232 leaves the registers without
effect in that mode (DESIGN CHOICE, log entry 104). -/
def monOk (m : Monitor) (mode : Mode) : Bool :=
  let ha := tLow m.h0 13
  let ht := tHigh m.h0 13
  let va := tLow m.v0 12
  let vt := tHigh m.v0 12
  decide (0 < m.mul) && decide (0 < m.div) && decide (m.mul * 1000 ≤ 165 * m.div) && decide (1 ≤ ha) && decide (ha ≤ 4096) &&
    decide (ha < ht) && decide (tLow m.h1 13 + tHigh m.h1 10 ≤ ht) && decide (1 ≤ va) && decide (va < vt) &&
    decide (tLow m.v1 12 + tHigh m.v1 6 ≤ vt) && decide (ht * vt * m.div ≤ 16666666 * m.mul) &&
    (m.mode == 0 || decide (mode = .conformance))

/-- Apply the shadows, or refuse them with TERR (R227, R230). -/
def State.monApply (s : State) : State :=
  let m := s.monShadow
  let s := s.put MON_COMMIT_GO 0
  if monOk m s.mode then { s with mon := m } else s.put MON_STAT_TERR 1

/-- MON_COMMIT: GO = 1; with the port disabled the shadows apply at once (R230). -/
def monCommit (s : State) : State :=
  let s := s.put MON_COMMIT_GO 1
  if s.get MON_CTL_EN = 1 then s else s.monApply

/-- MON_ENABLE: a write of MON_CTL.EN. Clearing it drives every output low, and what waited for the vertical blanking of the port
applies at once, since the port is disabled (R230). -/
def monEnable (en : Bool) (s : State) : State :=
  if en then
    if s.get MON_CTL_EN = 1 then s
    else
      let s := s.put MON_CTL_EN 1
      { s with mon := { s.mon with start := frameAt s.time + 1 } }
  else
    let s := s.puts [(MON_CTL_EN, 0), (MON_STAT_ACTIVE, 0)]
    let s := { s with mon := { s.mon with inFrame := false, under := [], fills := [], sent := [], pins := .low } }
    if s.get MON_COMMIT_GO = 1 then s.monApply else s

/-- The CAD_TIME at which the frame begun at cadence boundary n starts: in legacy mode 4 dots after the real time of the game
frame's first tick (R228, R232). -/
def State.monStart (s : State) (n : Nat) : Option Int :=
  if s.mon.mode = 0 then some (cadFrame n : Nat)
  else match s.stall? s.mon.stall with
    | some st => match st.f0 with
      | some f => if f ≤ n then some (realTime st.cls f ((n - f) * tpf st.cls + 4 * tpd st.cls : Nat)) else none
      | none => none
    | none => none

/-- The line and the pixel or dot that the port sends at CAD_TIME, in the frame begun at boundary n (R228, R232). The edges of the
pixel clock lie at the multiples of its period (DESIGN CHOICE, log entry 63). -/
def State.monPos (s : State) : Option (Nat × Nat) :=
  let m := s.mon
  if m.mode = 0 then
    let i := s.time * m.mul / m.div
    let i0 := ceilDiv (cadFrame m.frame * m.mul) m.div
    let ht := tHigh m.h0 13
    if i < i0 ∨ ht = 0 then none else some ((i - i0) / ht, (i - i0) % ht)
  else match s.stall? m.stall with
    | some st => match st.f0 with
      | some f =>
        let d := (((s.time : Int) - (cadFrame f : Int) + 1) * (rate st.cls : Int) - 1) / ((tpd st.cls * 1000000000 : Nat) : Int) - 4
        if d < 0 then none else some (d.toNat / dpl st.cls % lpf st.cls, d.toNat % dpl st.cls)
      | none => none
    | none => none

/-- Active pixels of a line and active lines. -/
def State.monDim (s : State) : Nat × Nat :=
  if s.mon.mode = 0 then (tLow s.mon.h0 13, tLow s.mon.v0 12)
  else match s.stall? s.mon.stall with
    | some st => visible st
    | none => (0, 0)

/-- The first blanking line: VACTIVE, or that of the class (R230). -/
def State.monBlank (s : State) : Nat := if s.mon.mode = 0 then tLow s.mon.v0 12 else s.monDim.2

/-- MON_TIMING_APPLY: a running port stands in the first line of the vertical blanking (R230). -/
def monTimingApply (s : State) : State :=
  let there : Bool := match s.monPos with | some (y, _) => y == s.monBlank | none => false
  if s.get MON_COMMIT_GO = 1 ∧ s.get MON_CTL_EN = 1 ∧ s.get MON_STAT_ACTIVE = 1 ∧ !s.mon.inFrame ∧ there = true then s.monApply else s

/-- The level of MON_CLK at CAD_TIME: its outputs change on the falling edge, so a pixel or dot begins with the low half of its period
(R228, R232, R554; the duty cycle of one half is a DESIGN CHOICE, log entry 63). -/
def State.monClk (s : State) : Bool :=
  let m := s.mon
  if m.mode = 0 then decide (s.time * m.mul * 2 / m.div % 2 = 1)
  else match s.stall? m.stall with
    | some st =>
      decide ((((s.time : Int) - (cadFrame (st.f0.getD 0) : Int) + 1) * (2 * rate st.cls : Int) - 1) / ((tpd st.cls * 1000000000 : Nat) : Int) % 2 = 1)
    | none => false

/-- x lies in a pulse of `w` from `a`. -/
def inPulse (a w x : Nat) : Bool := decide (a ≤ x) && decide (x < a + w)

/-- HS and VS at a line and pixel, asserted levels of R228 and the lines and dots of R232. -/
def State.monSync (s : State) (y x : Nat) : Bool × Bool :=
  let m := s.mon
  if m.mode = 0 then
    (inPulse (tLow m.h1 13) (tHigh m.h1 10) x == (m.hspol == 1),
      (decide (y < tHigh m.v0 12) && inPulse (tLow m.v1 12) (tHigh m.v1 6) y) == (m.vspol == 1))
  else match (s.stall? m.stall).map Stall.cls with
    | some .L => (inPulse 344 32 x, inPulse 244 3 y)
    | some _ => (inPulse 688 64 x, inPulse 490 3 y)
    | none => (false, false)

/-- MON_FRAME_START: a frame begins, with what the line buffer holds at its lowest in each of its lines (R228, R229). The stream
frame shown is n − 1, in the raster with which it was composed; where that frame was not composed every position is border (DEDUCED,
log entry 63). -/
def monFrameStart (fills : List Nat) (s : State) : State :=
  let n := frameAt s.time
  match s.monStart n with
  | some t =>
    if s.get MON_CTL_EN = 1 ∧ s.mon.start ≤ n ∧ !s.mon.inFrame ∧ t ≤ s.time then
      let s := s.put MON_STAT_ACTIVE 1
      let desc := if 0 < n then (s.stream? s.mon.src).bind fun x => lookupN (n - 1) x.descs else none
      { s with mon := { s.mon with inFrame := true, frame := n, start := n + 1, desc, fills, line := 0, under := [], sent := [] } }
    else s
  | none => s

/-- The watermark is reached (R229). -/
def State.monLow (s : State) (fill : Nat) : State :=
  if fill < s.get MON_WMARK_LEVEL then (s.put MON_STAT_LOW 1).raise evMonLow else s

/-- The pixel at (x, y) is due while the line buffer is empty (R229). -/
def State.monUnder (s : State) (y x : Nat) : State :=
  let s := { s with mon := { s.mon with under := insertN y x s.mon.under } }
  (((s.monLow 0).inc MON_STAT_UNDER)).raise evMonUnderrun

/-- MON_UNDERRUN: the pixel at (x, y) is due while the line buffer is empty (R229). -/
def monUnderrun (y x : Nat) (s : State) : State :=
  let (w, h) := s.monDim
  if s.mon.inFrame ∧ x < w ∧ y < h ∧ (lookupN y s.mon.under).isNone then s.monUnder y x else s

/-- Dots of line y of the frame shown that the raster unit has rendered, in legacy mode (R232). -/
def State.monReady (s : State) (y : Nat) : Nat :=
  match s.stall? s.mon.stall with
  | some st => (st.ras.rpos - ((s.mon.frame - st.f0.getD 0) * tpf st.cls + y * tpl st.cls)) / tpd st.cls
  | none => 0

/-- The next active line of the frame begins: the watermark, and in legacy mode a line that is not rendered in time (R229, R232). -/
def State.monLine (s : State) : State :=
  let (w, h) := s.monDim
  let y := s.mon.line
  let begun := match s.monPos with | some p => decide (y ≤ p.1) | none => false
  if s.mon.inFrame && decide (y < h) && begun then
    let s := { s with mon := { s.mon with line := y + 1 } }
    let s := s.monLow (nthD s.mon.fills y 4096)
    let x := s.monReady y
    if s.mon.mode == 1 && decide (x < w) && (lookupN y s.mon.under).isNone then s.monUnder y x else s
  else s

/-- The R, G, B values sent to the pads for an active pixel (R228, R229, R232). -/
def State.monPx (s : State) (x y : Nat) : Px :=
  let c := s.get MON_BORDER_COLOUR
  let border : Px := (c % 256, field c 8 8, field c 16 8, 255)
  let hidden := match lookupN y s.mon.under with | some x0 => decide (x0 ≤ x) | none => false
  if hidden then border
  else if s.mon.mode = 0 then
    match s.mon.desc with
    | some d => if x < dW d ∧ y < dH d then s.outPx (dOut d) (dW d) (dH d) (s.mon.frame - 1) x y else border
    | none => border
  else match s.stall? s.mon.stall with
    | some st => gamePx st (s.mon.frame - st.f0.getD 0) x y
    | none => border

/-- The levels of the outputs at CAD_TIME, once a frame has begun (R228, R230, R232). -/
def State.monLevels (s : State) : MonPins :=
  match s.monPos with
  | some (y, x) =>
    let (w, h) := s.monDim
    let (hs, vs) := s.monSync y x
    let de := decide (x < w) && decide (y < h)
    let p := s.monPx x y
    { clk := s.monClk, hs, vs, de, rgb := if de then some (p.1 + 256 * p.2.1 + 65536 * p.2.2.1) else none }
  | none => s.mon.pins

/-- Active pixels of the frame whose time has come (R228). -/
def State.monDue (s : State) : Nat :=
  let (w, h) := s.monDim
  match s.monPos with
  | some (y, x) => if y < h then y * w + min (x + 1) w else h * w
  | none => 0

/-- The active pixels that are due go to the pads, R, G, B each (R228, R231). -/
def State.monSend (s : State) : State :=
  let w := s.monDim.1
  let n := s.mon.sent.length / 3
  let px (i : Nat) : Bytes :=
    let p := s.monPx ((n + i) % w) ((n + i) / w)
    [p.1, p.2.1, p.2.2.1].map (BitVec.ofNat 8)
  if s.mon.inFrame then { s with mon := { s.mon with sent := s.mon.sent ++ (upto (s.monDue - n)).flatMap px } } else s

/-- The port at CAD_TIME: a line that begins, the pixel sent, and its outputs. -/
def State.monTick (s : State) : State :=
  if s.get MON_STAT_ACTIVE = 1 then
    let s := s.monLine.monSend
    { s with mon := { s.mon with pins := s.monLevels } }
  else s

/-- Every active pixel of the frame has been sent (R231). -/
def State.monOver (s : State) : Bool := let (w, h) := s.monDim; decide (3 * (w * h) ≤ s.mon.sent.length)

/-- MON_FRAME_END: the active region has been sent; `pads`: the values read back from the pad receivers where they differ from those
sent (R231). -/
def monFrameEnd (pads : Option Bytes) (s : State) : State :=
  if s.mon.inFrame ∧ s.monOver then
    let sent := s.mon.sent
    let a := (crc32 sent).toNat
    let b := (crc32 (pads.getD sent)).toNat
    let s := s.emit (.monitor s.mon.frame sent)
    let s := s.puts [(MON_CRC_INT_CRC, a), (MON_CRC_PIN_CRC, b)]
    let s := { s with mon := { s.mon with inFrame := false, sent := [] } }
    if a = b then s else (s.put MON_STAT_PINERR 1).raise evMonPin
  else s

/-- 1 ns of CAD_TIME: store buffers drain (R129), the monitor port sends on (R228), and at a cadence boundary the stream
frames begin (log entry 2). -/
def State.cadTick (s : State) : State :=
  let t := s.time + 1
  let s := { s with time := t }
  let s := s.drainTick.monTick
  if cadFrame (frameAt t) = t then s.beginFrames (frameAt t) else s

/-- 1 ns of the device's oscillator: CAD_TIME advances by 1 ns, corrected by the frequency that PTP sets, so that it never runs backwards
(R401). -/
def State.tickNs (s : State) : State :=
  let a := ((1000000 : Int) + s.slew + s.slewAcc).toNat
  (upto (a / 1000000)).foldl (fun s _ => s.cadTick) { s with slewAcc := a % 1000000 }

end Sys2Proof.Machine
end

