-- ==== Sys2Proof/Machine/MediaCmds.lean ====
section
/-! DEFINITION. The meanings of the rows of the composer, the monitor port, the encoder array and the audio engine. -/
namespace Sys2Proof.Machine

/-- A write of CMP_COMMIT with GO = 1 (R216). -/
def execCmpCommit (stream : Nat) (s : State) : Answer := .next (cmpCommit stream s)

/-- The validation of a commit ends; `bedRoom`: the BED shed can hold the copies (R216, R217). -/
def execCommitValidated (bedRoom : Bool) (s : State) : Answer := .next (commitValidated bedRoom s)

/-- An accepted commit takes effect (R217). -/
def execCommitTakeEffect (stream : Nat) (s : State) : Answer := .next (commitTakeEffect stream s)

/-- The rebuild of a commit's beds is complete (R215). -/
def execBedRebuildComplete (stream : Nat) (s : State) : Answer := .next (bedRebuildComplete stream s)

/-- The composer composes the next slice of a stream (R220). -/
def execComposeSlice (stream : Nat) (s : State) : Answer := .next (composeSlice stream s)

/-- The wait limit of a slice passes (R221). -/
def execSliceLateLimit (stream : Nat) (s : State) : Answer := .next (sliceLateLimit stream s)

/-- A write of MON_COMMIT.GO = 1 (R230). -/
def execMonCommit (s : State) : Answer := .next (monCommit s)

/-- The monitor port's vertical blanking applies the shadows (R227, R230). -/
def execMonTimingApply (s : State) : Answer := .next (monTimingApply s)

/-- A write of MON_CTL.EN (R230). -/
def execMonEnable (en : Bool) (s : State) : Answer := .next (monEnable en s)

/-- A monitor frame begins (R228). -/
def execMonFrameStart (fills : List Nat) (s : State) : Answer := .next (monFrameStart fills s)

/-- A pixel is due while the line buffer is empty (R229). -/
def execMonUnderrun (line : Nat) (pixel : Nat) (s : State) : Answer := .next (monUnderrun line pixel s)

/-- The active region of a monitor frame ends (R231). -/
def execMonFrameEnd (pads : Option Bytes) (s : State) : Answer := .next (monFrameEnd pads s)

/-- An encoder core takes the next coding row (R235). -/
def execCodingRowStart (core : Nat) (s : State) : Answer := .next (codingRowStart core s)

/-- A coding row is complete (R241). -/
def execCodingRowDone (core : Nat) (s : State) : Answer := .next (codingRowDone core s)

/-- The watchdog of a coding row expires (R262). -/
def execEncRowWatchdog (core : Nat) (s : State) : Answer := .next (encRowWatchdog core s)

/-- An encoder core fails its ECC (cause 1) or parity (2) checks (R262). -/
def execEncCoreFault (core : Nat) (cause : Nat) (s : State) : Answer := .next (encCoreFault core cause s)

/-- The spare encoder core becomes ACTIVE (R262). -/
def execEncSpareActivate (s : State) : Answer := .next (encSpareActivate s)

/-- The voice engines render one beam sample (R267). -/
def execBeamSample (stall : Nat) (s : State) : Answer := .next (beamSampleStep stall s)

/-- The mix cores route one beam sample (R282). -/
def execGraphSample (stall : Nat) (s : State) : Answer := .next (graphSample stall s)

/-- A write of AUD_SWAP with GO = 1 (R284). -/
def execAudSwap (stall : Nat) (ramp : Bool) (s : State) : Answer := .next (audSwap stall ramp s)

/-- The validation of a graph swap ends (R284). -/
def execAudSwapValidated (s : State) : Answer := .next (audSwapValidated s)

/-- A stream audio frame is formed; `op` is what host memory answers (R288). -/
def execAudioFrameForm (stall : Nat) (op : Bytes) (s : State) : Answer := .next (audioFrameForm stall op s)

end Sys2Proof.Machine
end

