-- ==== Sys2Proof/Machine/StallCtl.lean ====
section
/-! DEFINITION. The title and stall commands of the mailbox (R105, R145 – R147, R158, R164, R299, R460, R461). -/
namespace Sys2Proof.Machine

/-- What a command needs from outside: the parameter block in host memory (none: not readable), whether a host buffer can be
written, whether HBM has room for what is created beside what the extents tell (log entry 97), and the answer of another device to a
migration (0: accepted); and the title image that a yard peer or the host title store gives firmware for a title it lacks (R382). -/
structure Outer where
  host    : Option Bytes
  put     : Bool
  room    : Bool
  verdict : Nat
  image   : Option Bytes := none
  deriving DecidableEq, Repr

/-- A command: the request's dwords, their number n, the state; the new state and the response. -/
abbrev Cmd := Outer → (Nat → Nat) → Nat → State → State × Resp

/-- STATUS values (R456). -/
def eUNKNOWN : Nat := 1
def eVERSION : Nat := 2
def eMODE : Nat := 3
def eARG : Nat := 4
def eBUS_ERR : Nat := 5
def eBUSY : Nat := 6
def eNOT_FOUND : Nat := 7
def eEXISTS : Nat := 8
def eNO_RING : Nat := 9
def eNOT_STARTED : Nat := 0xA
def eSPLIT : Nat := 0xB
def eREJECTED : Nat := 0xC
def eTITLE : Nat := 0x36
def eTITLE_BUSY : Nat := 0x3B
def eDIGEST : Nat := 0x3C
def eSUBCH : Nat := 0x41

/-- A 64-bit operand in dwords i and i + 1, low dword first. -/
def wide (d : Nat → Nat) (i : Nat) : Nat := d i + d (i + 1) * 2 ^ 32

/-- Run a command on a stall that must exist. -/
def State.withStall (s : State) (k : Nat) (f : Stall → State × Resp) : State × Resp :=
  match s.stall? k with
  | some st => f st
  | none => (s, .err eNOT_FOUND)

/-- Run a command on a stall that must exist and have been started. -/
def State.withStarted (s : State) (k : Nat) (f : Stall → State × Resp) : State × Resp :=
  s.withStall k fun st => if st.f0.isNone then (s, .err eNOT_STARTED) else f st

/-! ### Titles (R460) -/

/-- A section of a title image: offset and bytes. -/
abbrev Section := Nat × Nat

/-- The sections of a header with their counts: PROG, CART, MEDIA, INIT, UCODE. -/
def titleSections (h : Bytes) : List (Nat × Section) :=
  [(leAt h 8 4, leAt h 12 4, 2 * leAt h 8 4), (leAt h 16 4, leAt h 20 4, 4096 * leAt h 16 4), (leAt h 24 4, leAt h 28 4, 2048 * leAt h 24 4),
    (leAt h 40 4, leAt h 44 4, 4096 * leAt h 40 4), (b2n (leAt h 36 4 != 0), leAt h 36 4, if leAt h 36 4 = 0 then 0 else 2048)]

/-- Two sections share a byte. -/
def overlap (a b : Section) : Bool := decide (a.1 < b.1 + b.2) && decide (b.1 < a.1 + a.2)

/-- No two sections of a list overlap. -/
def disjoint : List Section → Bool
  | [] => true
  | a :: r => !(r.any (overlap a)) && disjoint r

/-- The header keeps the table of R460 for an image of `size` bytes. -/
def titleHeaderOk (h : Bytes) (size : Nat) : Bool :=
  let ss := titleSections h
  let used := (ss.filter fun p => p.1 != 0).map (·.2)
  let save := leAt h 32 4
  leAt h 0 4 == 0x4C544954 && leAt h 4 2 == 1 && decide (leAt h 6 1 < 8) && leAt h 7 1 == 0 && decide (leAt h 8 4 ≤ 4194304) &&
    (save == 0 || (save % 2048 == 0 && decide (2048 ≤ save) && decide (save ≤ 524288))) &&
    (sliceBytes h 48 16).all (fun b => b == 0) &&
    ss.all (fun p => if p.1 = 0 then p.2.1 == 0 else p.2.1 % 4096 == 0 && decide (4096 ≤ p.2.1) && decide (p.2.1 + p.2.2 ≤ size)) &&
    disjoint used

/-- The title of an image. -/
def titleOf (img : Bytes) (pages : Nat) (handle : Nat) (digest : Bytes) : Title :=
  let sec (i : Nat) : Bytes := match (titleSections img)[i]? with | some (n, o, l) => if n = 0 then [] else sliceBytes img o l | none => []
  { handle, digest, classes := leAt img 6 1, pages, progAt := leAt img 12 4, cartAt := leAt img 20 4, init := sec 3, prog := sec 0
    cart := sec 1, media := sec 2, save := leAt img 32 4, ucs := if leAt img 36 4 = 0 then none else some (sec 4), exts := [] }

/-- The lowest unused handle. -/
def State.freeHandle (s : State) : Nat := ((upto 1025).find? fun h => h != 0 && (s.title? h).isNone).getD 0

/-- A SHA-256 digest: 32 bytes (R460). -/
def digest256 (b : Bytes) : Bytes := sliceBytes (Config.sha256 b) 0 32

/-- The cartridge table of a title whose area begins at `base`: valid, shared entries (R371, R373). -/
def cartTable (t : Title) (base : Nat) : Bytes :=
  (upto (t.cart.length / 4096)).flatMap fun j => leBytes 8 (pteWord 0 0 1 0 0 0 (base + t.cartAt + 4096 * j))

/-- Enter a title: its image and behind it its cartridge table take a run of sealed TITLE extents, the lowest that is free on both
stacks; without such a run it has none until its pages are fetched (R367, R376; DESIGN CHOICE, log entry 23). -/
def State.enterTitle (s : State) (t : Title) (img : Bytes) : State :=
  match s.freePairs (ceilDiv (t.pages + ceilDiv (8 * (t.cart.length / 4096)) 4096) 512) with
  | some exts =>
    let base := areaAddr exts 0
    let s := ((s.giveTitle exts true).hbmWrite base img).hbmWrite (base + 4096 * t.pages) (cartTable t base)
    { s with titles := s.titles ++ [{ t with exts }] }
  | none => { s with titles := s.titles ++ [t] }

/-- A title that is not present is obtained where an image of its digest can be (R382, R411). -/
def State.obtainTitle (s : State) (digest : Bytes) (image : Option Bytes) (room : Bool) : State :=
  if s.titles.any fun t => t.digest == digest then s
  else match image with
    | some bs =>
      let pages := max 1 (ceilDiv bs.length 4096)
      let img := sliceBytes bs 0 (4096 * pages)
      let t := titleOf img pages s.freeHandle digest
      if digest256 img = digest ∧ titleHeaderOk (sliceBytes img 0 64) (4096 * pages) ∧ s.titles.length < 1024 ∧ room ∧
          (t.ucs.bind checkImage).isNone then s.enterTitle t img
      else s
    | none => s

/-- TITLE_REGISTER (R460). -/
def cmdTitleRegister : Cmd := fun e d _ s =>
  let pages := d 3
  let digest := (upto 8).flatMap fun i => leBytes 4 (d (4 + i))
  if d 1 % 4096 ≠ 0 ∨ pages = 0 then (s, .err eARG)
  else match e.host with
    | none => (s, .err eBUS_ERR)
    | some bs =>
      let img := sliceBytes bs 0 (4096 * pages)
      if digest256 img ≠ digest then (s, .err eDIGEST)
      else match s.titles.find? fun t => t.digest == digest with
        | some t => (s, { status := eEXISTS, data := [t.handle] })
        | none =>
          if !titleHeaderOk (sliceBytes img 0 64) (4096 * pages) then (s, .err eARG)
          else if 1024 ≤ s.titles.length ∨ !e.room then (s, .err eMEMORY_FULL)
          else
            let t := titleOf img pages s.freeHandle digest
            match t.ucs.bind checkImage with
            | some (c, u, j) => (s, bindResp (.invalid c u j))
            | none => (s.enterTitle t img, .ok [t.handle])

/-- TITLE_REMOVE (R460). -/
def cmdTitleRemove : Cmd := fun _ d _ s =>
  match s.title? (d 1) with
  | none => (s, .err eNOT_FOUND)
  | some t =>
    if s.stalls.any fun st => st.title == d 1 then (s, .err eTITLE_BUSY)
    else
      let s := s.giveTitle t.exts false
      ({ s with titles := s.titles.filter fun t => t.handle != d 1 }, .ok)

/-- PAGE_SUPPLY (R382, R460). -/
def cmdPageSupply : Cmd := fun e d _ s =>
  match s.title? (d 1) with
  | none => (s, .err eNOT_FOUND)
  | some t =>
    if t.pages ≤ d 2 then (s, .err eARG)
    else if !s.split spPAGING then (s, .err eSPLIT)
    else match e.host with
      | none => (s, .err eBUS_ERR)
      | some bs => (s.supplyPage t (d 2) bs, .ok)

/-! ### Stalls (R461) -/

/-- STALL_CREATE (R139, R143, R461). -/
def cmdStallCreate : Cmd := fun e d _ s =>
  let k := d 1 % 4096
  let free := bitAt (d 1) 14
  let cfg := field (d 1) 15 2
  let h := d 2 % 65536
  let lead := d 2 / 65536
  match clsOf (field (d 1) 12 2) with
  | none => (s, .err eARG)
  | some c =>
    if 3072 ≤ k ∨ cfg = 3 ∨ (free ∧ (c ≠ .N ∨ s.mode = .conformance)) ∨ (255 < lead ∧ lead ≠ 0xFFFF) then (s, .err eARG)
    else if (s.stall? k).isSome then (s, .err eEXISTS)
    else match s.title? h with
      | none => (s, .err eNOT_FOUND)
      | some t =>
        let l := k / 192
        let p := k % 192
        let ooo := cfg == 2 || (cfg == 0 && decide (c = .N))
        if !bitAt t.classes (clsIdx c) then (s, .err eTITLE)
        else if s.mode = .conformance ∧ 16 ≤ s.stalls.length then (s, .err eDEVICE_FULL)
        else match s.admitErr l (weight c) ooo (some p) true, s.slotOfL l with
          | some err, _ => (s, .err err)
          | none, none => (s, .err eNO_POSITION)
          | none, some slot => match s.bindTitle slot t.ucs with
            | (.error b, s1) => (s1, bindResp b)
            | (.ok u, s1) =>
              if !e.room ∨ !s.memFits k c t.save then (s, .err eMEMORY_FULL)
              else if s.get HOD_CTL_EN = 0 then (s, .err eHOD_DISABLED)
              else
                let s1 := s1.enterStall k t c free (if lead = 0xFFFF then leadDefault c else lead) cfg u l p
                let s1 := if s1.get (atSlot STB_CTL_DRAIN slot) = 1 then s1.park k rsnDRAIN false else s1
                (s1, .ok [s1.units])

/-- STALL_START (R147). -/
def cmdStallStart : Cmd := fun _ d n s =>
  let k := d 1 % 4096
  let named := bitAt (d 1) 12
  let least := s.cadNow + 2
  let f := if named then wide d 2 else least
  if n ≠ (if named then 3 else 1) then (s, .err eARG)
  else s.withStall k fun st =>
    if st.f0.isSome then (s, .err eBUSY)
    else if f < least then (s, .err eLATE_START)
    else ((s.setStall { st with f0 := some f }).unpark k rsnOPERATOR, .ok [f % 2 ^ 32, f / 2 ^ 32 % 2 ^ 32])

/-- STALL_PARK (R158). -/
def cmdStallPark : Cmd := fun _ d _ s => s.withStarted (d 1) fun st => (s.park st.num rsnOPERATOR false, .ok)

/-- STALL_RESUME (R158, R159). -/
def cmdStallResume : Cmd := fun _ d _ s => s.withStarted (d 1) fun st =>
  if st.reasons.contains rsnOPERATOR then (s.unpark st.num rsnOPERATOR, .ok) else (s, .err eNOT_PARKED)

/-- STALL_RESET: the reset is placed at the first line boundary that has not begun, which then counts as begun (R38). -/
def cmdStallReset : Cmd := fun _ d _ s => s.withStarted (d 1) fun st =>
  let b := latchBound st
  (s.setStall { st with resetAt := st.resetAt ++ [b], begun := max st.begun (b + 1) }, .ok)

/-- STALL_SET (R23, R146). -/
def cmdStallSet : Cmd := fun _ d n s =>
  let k := d 1 % 4096
  let setL := bitAt (d 1) 12
  let setC := bitAt (d 1) 13
  let cfg := field (d 1) 14 2
  if (setL ∧ (n < 2 ∨ 255 < d 2)) ∨ (setC ∧ cfg = 3) then (s, .err eARG)
  else s.withStall k fun st =>
    let st1 := if setL then { st with leadNext := d 2 } else st
    let st2 := if setC then { st1 with corecfgNext := cfg } else st1
    let l := s.get (placeL k)
    let g := addUnits (s.groups l (some k)) (weight st.cls) (nextOoo false st2)
    if setC ∧ !groupsFit g then (s, .err eSTABLE_FULL) else (s.setStall st2, .ok)

/-- STALL_MOVE (R164). -/
def cmdStallMove : Cmd := fun _ d _ s => s.withStall (d 1 % 4096) fun st => s.moveStall st.num (field (d 1) 12 4)

/-- STALL_DESTROY; the breakpoints that the stall's grant allowed go with it (R461, R511, R512). -/
def cmdStallDestroy : Cmd := fun _ d _ s => s.withStall (d 1) fun st =>
  if s.migs.any fun m => m.stall == st.num then (s, .err eBUSY)
  else ((s.destroyStall st.num false).enforceLevel, .ok)

/-- STALL_QUERY (R461). -/
def cmdStallQuery : Cmd := fun _ d _ s => s.withStall (d 1) fun st =>
  let f := st.f0.getD 0
  (s, .ok [s.posWord st, st.reasons.foldl (fun m r => m ||| 2 ^ r) 0, st.tick % 2 ^ 32, st.tick / 2 ^ 32 % 2 ^ 32,
    f % 2 ^ 32, f / 2 ^ 32 % 2 ^ 32])

/-- SUBCH_ASSIGN (R299). -/
def cmdSubchAssign : Cmd := fun _ d _ s =>
  let k := d 1 % 4096
  let i := field (d 1) 12 3
  let ty := field (d 1) 15 4
  match assignReason (s.stall? k) i ty with
  | 0 => (hodAssign k i ty s, .ok)
  | r => (hodAssign k i ty s, { status := eSUBCH, data := [r] })

/-- LINK_PEER (R409, R461). -/
def cmdLinkPeer : Cmd := fun _ d n s => s.withStall (d 1 % 4096) fun st =>
  let i := field (d 1) 12 3
  let j := if n = 3 then d 3 else 2
  (s.setStall (st.setSub i { st.sub i with peer := some (d 2 / 4096, d 2 % 4096, j) }), .ok)

/-- Replay a stall that is parked with RECOVER from the checkpoint it has been restored to (R461, R498). -/
def State.replayStall (s : State) (k : Nat) : State :=
  match s.stall? k with
  | none => s
  | some st =>
    if st.replayTo.isSome then
      s.setStall { st with reasons := st.reasons.filter (fun r => r != rsnRECOVER), sched := .runnable, hold := .none }
    else s.unpark k rsnRECOVER

/-- RESUME_FROM_CHECKPOINT (R461). -/
def cmdResumeFromCheckpoint : Cmd := fun _ d _ s =>
  let all := bitAt (d 1) 12
  let k := d 1 % 4096
  if all ∧ k ≠ 0 then (s, .err eARG)
  else if !s.split spRECOVER then (s, .err eSPLIT)
  else if all then
    (((s.stalls.filter fun st => st.reasons.contains rsnRECOVER).map (·.num)).foldl State.replayStall s, .ok)
  else s.withStall k fun st => if st.reasons.contains rsnRECOVER then (s.replayStall k, .ok) else (s, .err eNOT_PARKED)

end Sys2Proof.Machine
end

