-- ==== Sys2Proof/Machine/StreamCtl.lean ====
section
/-! DEFINITION. The stream and audio commands of the mailbox (R202 – R207, R225, R236 – R238, R261, R284, R289, R293, R294, R396,
R462). -/
namespace Sys2Proof

namespace Machine

/-- STATUS values (R456). -/
def eCOMPOSE_FULL : Nat := 0x20
def eENCODE_FULL : Nat := 0x21
def eWIDE : Nat := 0x22
def eLEVEL : Nat := 0x23
def eCODEC : Nat := 0x24
def eRATE : Nat := 0x25
def eQP_RANGE : Nat := 0x26
def eOUTBUF : Nat := 0x27
def eENC_DISABLED : Nat := 0x28
def eCOMMIT : Nat := 0x29
def eGRAPH : Nat := 0x2A
def eFLOW_CONFLICT : Nat := 0x30
def eADDR : Nat := 0x31
def eBURST : Nat := 0x32
def ePORT_FULL : Nat := 0x33

/-- Run a command on a stream that must exist. -/
def State.withStream (s : State) (n : Nat) (f : Stream → State × Resp) : State × Resp :=
  match s.stream? n with
  | some x => f x
  | none => (s, .err eNOT_FOUND)

/-! ### STREAM_CONFIG (R204, R237, R238, R261, R265, R462) -/

/-- The settings of an ESD image over what the encoder, the packet engine and firmware write. -/
def Esd.settings (b : Bytes) (old : Esd) : Esd :=
  { old with codec := leAt b 0 1, profile := leAt b 1 1, flags := leAt b 2 1, rcmode := leAt b 3 1, qpMin := leAt b 4 1
             qpMax := leAt b 5 1, qpFixed := leAt b 6 1, refresh := leAt b 7 1, target := leAt b 8 4, min := leAt b 12 4
             max := leAt b 16 4, keyint := leAt b 20 2, keyreq := old.keyreq || bitAt (leAt b 22 1) 0 }

/-- PROFILE exists for CODEC. -/
def profileOk (e : Esd) : Bool := match e.codec with | 0 => true | 1 => decide (e.profile ≤ 1) | _ => e.profile == 0

/-- A reserved bit of an ESD image is set. -/
def esdReserved (b : Bytes) : Bool := decide (16 ≤ leAt b 2 1) || decide (2 ≤ leAt b 22 1) || leAt b 58 2 != 0

/-- The refusals of R261 up to LEVEL. -/
def esdErr (b : Bytes) (e : Esd) (w h : Nat) : Option Nat :=
  if 3 < e.codec ∨ !profileOk e ∨ 2 < e.rcmode ∨ esdReserved b then some eCODEC
  else if e.max = 0 ∨ (e.rcmode ≠ 0 ∧ (e.target = 0 ∨ e.target < e.min ∨ e.max < e.target)) then some eRATE
  else if e.qpMax < e.qpMin ∨ (e.codec = 2 ∧ 51 < e.qpMax) ∨ (e.rcmode = 0 ∧ (e.qpFixed < e.qpMin ∨ e.qpMax < e.qpFixed)) then some eQP_RANGE
  else if 3840 < w * codecQ e.codec e.profile / 4 then some eWIDE
  else if (e.codec = 1 ∨ e.codec = 2) ∧ !levelOk e.codec e.profile w h e.max then some eLEVEL
  else none

/-- Pixels per second of the enabled streams with one replaced (R204). -/
def State.pixelRate (s : State) (n w h : Nat) (en : Bool) : Nat :=
  (s.streams.filter fun x => x.num != n && dEn x.shadow).foldl (fun a x => a + dW x.shadow * dH x.shadow * 60) 0 +
    (if en then w * h * 60 else 0)

/-- EC of the streams with one replaced (R237). -/
def State.costWith (s : State) (n cost : Nat) : Nat :=
  (s.streams.filter fun x => x.num != n).foldl (fun a x => a + s.streamCost x) 0 + cost

/-- The refusals of ENCODE_FULL and ENC_DISABLED (R237, R261, R264). -/
def State.encErr (s : State) (n w h : Nat) (e : Esd) : Option Nat :=
  let changed : Bool := match s.stream? n with
    | some x => decide ((dW x.shadow, dH x.shadow, x.esd.codec, x.esd.profile) ≠ (w, h, e.codec, e.profile))
    | none => true
  let cost := if s.split spENCODE then 0 else encodeCost w h e.codec e.profile
  if changed && decide (s.get ENC_BUDGET_TOTAL_TOTAL < s.costWith n cost) then some eENCODE_FULL
  else if e.codec ≠ 0 ∧ s.get SPLIT_STATE_DIS_ENCODE = 1 ∧ !s.split spENCODE then some eENC_DISABLED
  else none

/-- The header of a descriptor with a raster, background and EN (R206). -/
def streamHeader (d : Bytes) (n w h bg : Nat) (en : Bool) : Bytes :=
  putBytes d 0 (leBytes 2 n ++ leBytes 2 w ++ leBytes 2 h ++ leBytes 1 (b2n en) ++ leBytes 1 0 ++ leBytes 4 bg)

/-- Bytes of a stream's output area and hint maps, two frames each (R203, R223). -/
def outBytes (w h : Nat) : Nat := 8 * w * h
def mapBytes (w h : Nat) : Nat := 2 * (h / 16) * (16 + 4 * (w / 16))

/-- The extents of an area that may be empty. -/
def areaExts (a n : Nat) : List Nat := if n = 0 then [] else extentsOf a n

/-- The extents of the output and hint areas that a descriptor names. -/
def descExts (d : Bytes) : List Nat := areaExts (dOut d) (outBytes (dW d) (dH d)) ++ areaExts (dHint d) (mapBytes (dW d) (dH d))

/-- The extents that a stream's active descriptor, a commit that waits and its ring name. -/
def Stream.liveExts (x : Stream) : List Nat :=
  descExts x.act ++ (match x.commit with | some c => descExts c.copy | none => []) ++ areaExts x.esd.outAddr x.esd.outSize

/-- Keep of a stream's extents those that are named, add `more`, free the rest (R367). -/
def State.keepExts (s : State) (x : Stream) (named more : List Nat) : Stream × State :=
  ({ x with exts := (x.exts.filter named.contains) ++ more }, s.giveExts (x.exts.filter fun e => !named.contains e) 0)

/-- Allocate the output and hint areas of a stream for a new raster in its shadow (R205, R367). -/
def State.placeAreas (s : State) (x : Stream) (w h ref : Nat) : Stream × State :=
  let k := homeStack (x.num / 4)
  let (o, e1, s) := s.allocate 4 k (outBytes w h)
  let (p, e2, s) := s.allocate 4 k (mapBytes w h)
  s.keepExts { x with shadow := putBytes x.shadow 16 (leBytes 8 o ++ leBytes 8 p) } (x.liveExts ++ areaExts x.esd.refAddr ref) (e1 ++ e2)

/-- Allocate the reference area of a stream (R265). -/
def State.placeRef (s : State) (x : Stream) (size : Nat) : Stream × State :=
  let named := x.liveExts ++ descExts x.shadow
  if size = 0 then s.keepExts { x with esd := { x.esd with refAddr := 0 } } named []
  else
    let (r, e, s) := s.allocate 4 (homeStack (x.num / 4)) size
    s.keepExts { x with esd := { x.esd with refAddr := r } } named e

/-- A stream that STREAM_CONFIG creates: nothing composed, its ring allocated by firmware, of a size that is a free value. -/
def State.newStream (s : State) (n : Nat) : Stream × State :=
  let zero : Bytes := List.replicate 512 0
  let (k, s) := s.draw 65536
  let (out, e, s) := s.allocate 4 (homeStack (n / 4)) (65536 + 64 * 65535)
  ({ num := n, act := putBytes zero 0 (leBytes 2 n), shadow := zero, commit := none, beds := [], frames := [], fresh := true
     regHold := false, descs := [], esd := { Esd.off with outAddr := out, outSize := 65536 + 64 * k }, enc := Enc.idle, exts := e }, s)

/-- The stream that STREAM_CONFIG names, created where it does not exist. -/
def State.streamOr (s : State) (n : Nat) : Stream × State :=
  match s.stream? n with
  | some x => (x, s)
  | none =>
    let (x, s) := s.newStream n
    (x, { s with streams := insertBy (·.num) x s.streams })

/-- A stream under new settings: its areas are placed again where their sizes change (R265, R462). -/
def State.resized (s : State) (x : Stream) (esd : Esd) (w h : Nat) (hdr : Bytes → Bytes) : Stream × State :=
  let (w0, h0) := (dW x.shadow, dH x.shadow)
  let old := refBytes x.esd.codec x.esd.profile w0 h0
  let new := refBytes esd.codec esd.profile w h
  let (x, s) := if w0 = w ∧ h0 = h then (x, s) else s.placeAreas x w h old
  let x := { x with shadow := hdr x.shadow }
  if w0 = w ∧ h0 = h ∧ old = new then (x, s) else s.placeRef x new

/-- The stream descriptor that a stream has after STREAM_CONFIG (R265, R462). -/
def Stream.withEsd (x : Stream) (esd : Esd) : Stream :=
  let x := if esd.codec = 0 then x.encOff else x
  let changed := decide ((x.esd.codec, x.esd.profile) ≠ (esd.codec, esd.profile))
  { x with esd := { esd with refAddr := x.esd.refAddr }, enc := { x.enc with changed := x.enc.changed || changed, old := if changed && x.enc.old.isNone then some x.esd else x.enc.old } }

/-- What a stream's bucket has filled up to now stays, before its MAX changes (R396). -/
def State.settleBucket (s : State) (n : Nat) : State :=
  match s.net? n with
  | some x => s.setNet { x with bucket := bucketNow x (s.maxOf n) s.time, fillAt := s.time }
  | none => s

/-- STREAM_CONFIG (R462). -/
def cmdStreamConfig : Cmd := fun e d _ s =>
  let n := d 1
  let w := d 2 % 65536
  let h := d 2 / 65536
  let en := bitAt (d 3) 24
  match e.host with
  | none => (s, .err eBUS_ERR)
  | some bs =>
    let b := sliceBytes bs 0 64
    if (s.stall? (n / 4)).isNone then (s, .err eNOT_FOUND)
    else if 40000000000 < s.pixelRate n w h en then (s, .err eCOMPOSE_FULL)
    else
      let (x, s1) := s.streamOr n
      let esd := Esd.settings b x.esd
      match (esdErr b esd w h).or (s.encErr n w h esd) with
      | some r => (s, .err r)
      | none =>
        let (x, s1) := s1.resized x esd w h fun old => streamHeader old n w h (d 3 % 2 ^ 24) en
        (((s1.settleBucket n).setStream (x.withEsd esd)).recost, .ok)

/-! ### The other stream commands (R396, R462) -/

/-- Another valid flow or enabled stream has the local and remote address and port of a descriptor; `self` leaves one out
(R391). -/
def State.conflict (s : State) (ipv6 : Bool) (la ra : Bytes) (lp rp : Nat) (self : Bool × Nat) : Bool :=
  (s.flows.any fun f => !(self == (false, f.num)) && flowV f.desc && flowIpv6 f.desc == ipv6 && descAddr f.desc 8 ipv6 == la &&
      descAddr f.desc 24 ipv6 == ra && leAt f.desc 4 2 == lp && leAt f.desc 6 2 == rp) ||
    s.nets.any fun x => !(self == (true, x.num)) && ndEn x.desc && netIpv6 x.desc == ipv6 && descAddr x.desc 16 ipv6 == la &&
      descAddr x.desc 32 ipv6 == ra && leAt x.desc 12 2 == lp && leAt x.desc 14 2 == rp

/-- A reserved bit or a value out of range in a network descriptor (R392). -/
def netReserved (b : Bytes) : Bool :=
  decide (16 ≤ leAt b 0 1) || decide (128 ≤ leAt b 1 1) || decide (128 ≤ leAt b 2 1) || decide (128 ≤ leAt b 3 1) ||
    decide (leAt b 56 2 < 576) || decide (9000 < leAt b 56 2) || decide (64 ≤ leAt b 58 1) || decide (1 < leAt b 59 1) || leAt b 88 8 != 0

/-- The sum of MAX over enabled streams of a port, with one replaced (R396). -/
def State.portLoad (s : State) (n port : Nat) (en : Bool) : Nat :=
  (s.nets.filter fun x => x.num != n && ndEn x.desc && ndPort x.desc == port).foldl (fun a x => a + s.maxOf x.num) 0 +
    (if en then s.maxOf n else 0)

/-- A network descriptor with the next-hop MAC address that firmware resolves through ARP or neighbour discovery: what the network answers
is a free value (R392; log entry 43). -/
def State.resolveHop (s : State) (b : Bytes) : Bytes × State :=
  let (m, s) := s.freeBytes 6
  (putBytes b 48 m, s)

/-- STREAM_NET (R396). -/
def cmdStreamNet : Cmd := fun e d _ s =>
  let n := d 1
  match e.host with
  | none => (s, .err eBUS_ERR)
  | some bs =>
    let b := sliceBytes bs 0 128
    let ip := netIpv6 b
    if (s.stream? n).isNone then (s, .err eNOT_FOUND)
    else if netReserved b then (s, .err eARG)
    else if ndEn b ∧ !s.service ip (descAddr b 16 ip) then (s, .err eADDR)
    else if ndEn b ∧ s.conflict ip (descAddr b 16 ip) (descAddr b 32 ip) (leAt b 12 2) (leAt b 14 2) (true, n) then (s, .err eFLOW_CONFLICT)
    else if leAt b 80 4 < leAt b 56 2 then (s, .err eBURST)
    else if ndEn b ∧ 90000000 < s.portLoad n (ndPort b) true then (s, .err ePORT_FULL)
    else
      let (b, s) := s.resolveHop b
      let b := match s.net? n with
        | some x => putBytes (putBytes b 60 (sliceBytes x.desc 60 12)) 84 (sliceBytes x.desc 84 4)
        | none => b
      ((s.hbmWrite (s.sndAddr n) b).loadEntry 1 n, .ok)

/-- Change bytes of a stream's shadow descriptor. -/
def State.shadowPut (s : State) (n o : Nat) (bs : Bytes) : State × Resp :=
  s.withStream n fun x => (s.setStream { x with shadow := putBytes x.shadow o bs }, .ok)

/-- COURSE_SET (R207, R462). -/
def cmdCourseSet : Cmd := fun _ d _ s =>
  s.shadowPut (d 1 % 16384) (64 + 32 * field (d 1) 14 3) ((upto 8).flatMap fun i => leBytes 4 (d (2 + i)))

/-- REGION_SET (R225, R462). -/
def cmdRegionSet : Cmd := fun _ d _ s =>
  s.shadowPut (d 1 % 16384) (320 + 24 * field (d 1) 14 3) ((upto 4).flatMap fun i => leBytes 4 (d (2 + i)))

/-- Whether the validation of a stream's shadow refuses it (R216). -/
def State.refuses (s : State) (x : Stream) (room : Bool) : Bool := 
  (s.commitCheck x.shadow).isSome || (needsBeds x.beds x.shadow && (!room || (s.bedsFor x.num x.beds x.shadow).isNone))

/-- STREAM_COMMIT: the request is validated and answered (R216, R217, R462). -/
def cmdStreamCommit : Cmd := fun e d _ s =>
  s.withStream (d 1) fun x =>
    let s := commitValidated e.room s
    let bad := s.refuses x e.room
    let s := commitValidated e.room (cmpCommit (d 1) s)
    if bad then (s, { status := eCOMMIT, data := [s.reg32 CMP_COMMIT_ERR_STREAM.off] }) else (s, .ok)

/-- STREAM_KEYFRAME (R252). -/
def cmdStreamKeyframe : Cmd := fun _ d _ s =>
  s.withStream (d 1) fun x => (s.setStream { x with esd := { x.esd with keyreq := true } }, .ok)

/-- STREAM_QUERY (R462). -/
def cmdStreamQuery : Cmd := fun _ d _ s =>
  s.withStream (d 1) fun x =>
    (s, .ok [leAt x.act 32 4, x.esd.rateNow, match s.net? x.num with | some t => leAt t.desc 84 4 | none => 0])

/-- STREAM_DESTROY (R260). -/
def cmdStreamDestroy : Cmd := fun _ d _ s => s.withStream (d 1) fun x => (s.dropStreams fun n => n == x.num, .ok)

/-! ### Audio (R284, R289, R293, R294) -/

/-- The host memory window holds a PCI Express address (R462). -/
def State.inWindow (s : State) (a : Nat) : Bool :=
  let b := s.get MEM_HOSTWIN_BASE * 4096
  decide (b ≤ a) && decide (a < b + 2 ^ 39)

/-- A new lane: ROUTE = FIXED, frame 0 (R294). -/
def State.newLane (s : State) (st : Stall) : Lane × State :=
  let (k, s) := s.draw 65536
  let (out, exts, s) := s.allocate 4 (homeStack st.num) (16384 + 64 * 65535)
  ({ codec := 0, channels := 2, active := 0, fallback := false, streams := 0, bitrate := 0, gameGain := 0, opGain := 0, swapState := 0
     graphCost := 0, outAddr := out, outSize := 16384 + 64 * k, wr := 0, rd := 0, pcm := [], opAddr := 0, opSize := 0, opWr := 0, opRd := 0
     applied := 0, g0 := .fixed, g1 := .fixed, st0 := [], st1 := [], swapRamp := false, rampJ := 0, gpos := st.spos, x := [], frame := 0, exts }, s)

/-- LANE_CONFIG (R294, R462). -/
def cmdLaneConfig : Cmd := fun _ d _ s =>
  s.withStall (d 1 % 4096) fun st =>
    let codec := field (d 1) 12 8
    let ch := field (d 1) 20 2
    let bit := d 2
    let a := wide d 4
    let size := d 6
    if (codec ≠ 0 ∧ codec ≠ 4 ∧ codec ≠ 5) ∨ (a ≠ 0 ∧ !s.inWindow a) then (s, .err eARG)
    else if codec = 4 ∧ (bit < 16 ∨ 256 < bit ∨ bit % 8 ≠ 0) then (s, .err eRATE)
    else if (ch ≠ 1 ∧ ch ≠ 2) ∨ (a ≠ 0 ∧ (a % 64 ≠ 0 ∨ size % 64 ≠ 0 ∨ size < 4096)) then (s, .err eOUTBUF)
    else if codec = 0 then
      (((s.giveExts (match st.lane with | some l => l.exts | none => []) 0).setStall { st with lane := none }).showRamp, .ok)
    else
      let (l, s) := match st.lane with | some l => (l, s) | none => s.newLane st
      let op := if a = 0 then 0 else 0x8000000000 + (a - s.get MEM_HOSTWIN_BASE * 4096)
      let same := decide (l.opAddr = op) && decide (l.opSize = size)
      let l := { l with codec, channels := ch, streams := field (d 1) 22 4, bitrate := bit, gameGain := d 3 % 65536, opGain := d 3 / 65536
                        opAddr := op, opSize := size, opWr := if same then l.opWr else 0, opRd := if same then l.opRd else 0 }
      (s.setStall { st with lane := some l }, .ok)

/-- LANE_OPWR (R289). -/
def cmdLaneOpwr : Cmd := fun _ d _ s =>
  s.withStall (d 1) fun st => match st.lane with
    | none => (s, .err eNOT_FOUND)
    | some l => if l.opSize ≤ d 2 ∨ d 2 % 4 ≠ 0 then (s, .err eARG) else (s.setStall { st with lane := some { l with opWr := d 2 } }, .ok)

/-- Write the inactive copy of a lane. -/
def Lane.putOther (l : Lane) (g : Graph) : Lane := if l.active = 0 then { l with g1 := g } else { l with g0 := g }

/-- GRAPH_LOAD: the inactive copy is written, and the swap requested and validated (R284, R462). -/
def cmdGraphLoad : Cmd := fun e d _ s =>
  s.withStall (d 1 % 4096) fun st =>
    if d 4 < 16 ∨ 784 < d 4 then (s, .err eARG)
    else match e.host with
      | none => (s, .err eBUS_ERR)
      | some bs =>
        let s := audSwapValidated s
        let busy := match (s.stall? st.num).bind (·.lane) with | some l => l.swapState != 0 | none => false
        if busy then (s, { status := eGRAPH, data := [2] })
        else
          let g := Graph.ofBytes (sliceBytes (sliceBytes bs 0 (d 4)) 0 784)
          let s := s.onStall st.num fun x => { x with lane := x.lane.map fun l => l.putOther g }
          let r := swapCheck (s.stall? st.num)
          let s := audSwapValidated (audSwap st.num (bitAt (d 1) 12) s)
          if r = 0 then (s, .ok) else (s, { status := eGRAPH, data := [r] })

end Machine
end Sys2Proof
end

