-- ==== Sys2Proof/Machine/YardCtl.lean ====
section
/-! DEFINITION. The key, flow and yard commands of the mailbox (R388, R390, R391, R395, R402, R405, R455, R463). -/
namespace Sys2Proof.Machine

def eKEY : Nat := 0x3A

/-! ### KEY_SET (R395, R455, R463) -/

/-- The request's dwords 1 – 15 are erased (R455). -/
def State.wipeRequest (s : State) : State := (upto 15).foldl (fun s k => s.put (MBX_H2M_DATA_DATA.nth 4 (k + 1)) 0) s

/-- The key length that a KIND takes; for a stream by its SUITE. -/
def State.keyLen (s : State) (kind idx : Nat) : Nat :=
  if kind = 1 ∨ kind = 2 then match s.net? idx with | some x => if leAt x.desc 59 1 = 1 then 32 else 16 | none => 16
  else 16

/-- The salt length of a KIND. -/
def saltLen (kind : Nat) : Nat := if kind = 0 then 4 else if kind = 3 then 0 else 12

/-- Install a key slot: an input flow's slot or the yard key is replaced; a stream keeps the key in force and the new one. -/
def State.installKey (s : State) (k : KeySlot) : State :=
  let same : List KeySlot := s.keys.filter fun x => x.kind == k.kind && x.idx == k.idx
  let others : List KeySlot := s.keys.filter fun x => !(x.kind == k.kind && x.idx == k.idx)
  if k.kind = 0 then { s with keys := (s.keys.filter fun x => !(x.kind == 0 && x.idx == k.idx && x.slot == k.slot)) ++ [k] }
  else if k.kind = 3 then State.mayJoin { s with keys := others ++ [k], yardKeyUsed := false }
  else
    let l : List KeySlot := (same.filter fun x => x.from_ != k.from_) ++ [k]
    { s with keys := others ++ l.drop (l.length - 2) }

/-- KEY_SET (R455, R463). -/
def cmdKeySet : Cmd := fun _ d _ s =>
  let kind := d 1 % 4
  let idx := field (d 1) 2 14
  let slot := b2n (bitAt (d 1) 16)
  let e := wide d 2
  let raw := (upto 8).flatMap fun i => leBytes 4 (d (4 + i))
  let salt := (upto 3).flatMap fun i => leBytes 4 (d (12 + i))
  let n := s.keyLen kind idx
  let found := match kind with
    | 0 => s.flows.any fun f => f.num == idx
    | 3 => true
    | _ => (s.net? idx).isSome
  if (kind = 0 ∨ kind = 3) ∧ e ≠ 0 then (s, .err eARG)
  else if !found then (s, .err eNOT_FOUND)
  else if (raw.drop n).any (fun b => b != 0) ∨ (salt.drop (saltLen kind)).any (fun b => b != 0) ∨ (kind ≠ 0 ∧ slot ≠ 0) then (s, .err eKEY)
  else if (kind = 1 ∨ kind = 2) ∧ e < s.cadNow + 2 then (s, .err eLATE_START)
  else (s.installKey { kind, idx := if kind = 3 then 0 else idx, slot, from_ := e, key := raw.take n, salt := salt.take (saltLen kind) }, .ok)

/-! ### Flows (R390, R391) -/

/-- A reserved bit of a flow descriptor is set, or ACTION is reserved. -/
def flowReserved (b : Bytes) : Bool :=
  decide (16 ≤ leAt b 0 1) || decide (2 ≤ flowAction b) || leAt b 1 3 != 0 || decide (2 ^ 20 ≤ leAt b 40 4) || decide (2 ^ 12 ≤ leAt b 44 2) ||
    leAt b 46 2 != 0 || leAt b 60 4 != 0 || (!flowIpv6 b && (leAt b 12 12 != 0 || leAt b 28 12 != 0))

/-- FLOW_SET (R391). -/
def cmdFlowSet : Cmd := fun e d _ s =>
  let i := d 1
  match e.host with
  | none => (s, .err eBUS_ERR)
  | some bs =>
    let b := sliceBytes bs 0 64
    let ip := flowIpv6 b
    match s.stall? (i / 4) with
    | none => (s, .err eNOT_FOUND)
    | some st =>
      if st.imported then (s, .err eBUSY)
      else if flowReserved b then (s, .err eARG)
      else if flowV b ∧ !s.service ip (descAddr b 8 ip) then (s, .err eADDR)
      else if flowV b ∧ s.conflict ip (descAddr b 8 ip) (descAddr b 24 ip) (leAt b 4 2) (leAt b 6 2) (false, i) then (s, .err eFLOW_CONFLICT)
      else
        let engine := match s.flows.find? fun f => f.num == i with | some f => sliceBytes f.desc 48 12 | none => List.replicate 12 0
        ((s.hbmWrite (s.flowAddr i) (putBytes b 48 engine)).loadEntry 0 i, .ok)

/-- FLOW_CLEAR: the entry is no longer valid, and its keys go. -/
def cmdFlowClear : Cmd := fun _ d _ s =>
  let i := d 1
  match s.flows.find? fun f => f.num == i with
  | none => (s, .err eNOT_FOUND)
  | some f =>
    let s := (s.hbmWrite (s.flowAddr i) (putBytes f.desc 0 [f.desc.headD 0 &&& 0xFE])).loadEntry 0 i
    ({ s with keys := s.keys.filter fun k => !(k.kind == 0 && k.idx == i) }, .ok)

/-! ### The yard (R402, R463) -/

/-- ATTACH becomes 1: the device joins, where it has an unused yard key, and otherwise once it gets one (R402). -/
def State.attach (s : State) : State := State.mayJoin { s.put YRD_CTL_ATTACH 1 with yardOn := false }

/-- YARD_SET. -/
def cmdYardSet : Cmd := fun _ d _ s =>
  let y := d 1 % 2 ^ 20
  let att := bitAt (d 1) 20
  let on := s.get YRD_CTL_ATTACH == 1
  let settings (s : State) : State :=
    s.puts [(YRD_NUMBER_YARD, y), (YRD_UDPPORT_PORT, d 2 % 65536), (YRD_LINKLAT_MICROS, field (d 2) 16 14)]
  if !att then (settings (yrdDetach s), .ok)
  else if y = 0 ∨ y = 0xFFFFF then (s, .err eARG)
  else if on ∧ y ≠ s.get YRD_NUMBER_YARD then (s, .err eBUSY)
  else if s.yardKeyUsed ∨ s.yardKey.isEmpty then (s, .err eKEY)
  else if on then (settings s, .ok)
  else ((settings s).attach, .ok)

/-- A valid flow or an enabled stream uses a service address. -/
def State.addrUsed (s : State) (a : SvcAddr) : Bool :=
  (s.flows.any fun f => flowV f.desc && flowIpv6 f.desc == a.ipv6 && descAddr f.desc 8 a.ipv6 == a.addr) ||
    s.nets.any fun x => ndEn x.desc && netIpv6 x.desc == a.ipv6 && descAddr x.desc 16 a.ipv6 == a.addr

/-- ADDR_SET. -/
def cmdAddrSet : Cmd := fun _ d _ s =>
  let i := d 1 % 16
  let ip := bitAt (d 1) 4
  let valid := bitAt (d 1) 5
  let a := (upto (if ip then 4 else 1)).flatMap fun k => leBytes 4 (d (2 + k))
  if 7 < i then (s, .err eARG)
  else
    let old := s.addrs.find? fun x => x.idx == i && x.ipv6 == ip
    let busy := match old with | some x => s.addrUsed x && !(valid && x.addr == a) | none => false
    if busy then (s, .err eBUSY)
    else
      let rest : List SvcAddr := s.addrs.filter fun x => !(x.idx == i && x.ipv6 == ip)
      ({ s with addrs := if valid then rest ++ [{ idx := i, ipv6 := ip, addr := a }] else rest }, .ok)

/-- A reserved bit or hop count of a route entry breaks R405. -/
def routeReserved (b : Bytes) : Bool :=
  decide (2 ^ 20 ≤ leAt b 0 4 % 2 ^ 31) || leAt b 4 4 != 0 || leAt b 40 8 != 0 || (upto 4).any fun i =>
    let c := leAt b (8 + 8 * i + 6) 1
    let h := leAt b (8 + 8 * i + 7) 1
    decide (16 ≤ c) || (bitAt c 3 && (h == 0 || decide (3 < h)))

/-- ROUTE_SET (R405, R463). -/
def cmdRouteSet : Cmd := fun e d _ s =>
  if !s.split spROUTE then (s, .err eSPLIT)
  else match e.host with
    | none => (s, .err eBUS_ERR)
    | some bs =>
      let b := sliceBytes bs 0 48
      if routeReserved b then (s, .err eARG)
      else ((s.hbmWrite (s.routeAddr (d 1)) b).loadEntry 2 (d 1), .ok)

end Sys2Proof.Machine
end

