-- ==== Sys2Proof/Machine/DevCtl.lean ====
section
/-! DEFINITION. The device commands of the mailbox: identity, log, download, modes, settings, the split and ring pairs (R425, R446 –
R459, R464, R467, R488 – R490, R531). -/
namespace Sys2Proof.Machine

/-! ### Status and log (R457, R458) -/

/-- IDENTIFY. -/
def cmdIdentify : Cmd := fun _ _ _ s =>
  let ver := if s.get MBX_STATE_ROM = 1 then 0 else match s.pkg with | some p => p.version | none => 0
  (s, .ok [s.get DEV_ID_ID, s.get DEV_STEP_STEP + s.get DEV_CONF_LEVEL * 256 + modeCode s.mode * 65536, Config.devSerial.toNat % 2 ^ 32,
    Config.devSerial.toNat / 2 ^ 32, s.get MBX_STATE_MINOR + s.get MBX_STATE_MAJOR * 256, ver])

/-- The interface epochs of the package that runs; with no package the values are free. -/
def State.epochs (s : State) : Nat × Nat × Nat × State :=
  match s.pkg with
  | some p => (p.smc, p.hod, p.enc, s)
  | none =>
    let (a, s) := s.draw 65536
    let (b, s) := s.draw 65536
    let (c, s) := s.draw 65536
    (a, b, c, s)

/-- FW_STATUS. -/
def cmdFwStatus : Cmd := fun _ _ _ s =>
  let (smc, hod, enc, s) := s.epochs
  (s, .ok ([s.devMode, s.reg32 SPLIT_STATE_MODE.off, smc + hod * 65536, enc, (s.logSeq + (2 ^ 32 - 1)) % 2 ^ 32,
    s.stalls.length % 4096 + s.units % 4096 * 4096] ++ s.dropped))

/-- A log entry as LOG_READ writes it (R458). -/
def LogRec.bytes (r : LogRec) : Bytes :=
  leBytes 4 r.seq ++ leBytes 2 r.code ++ leBytes 1 r.sev ++ leBytes 1 r.src ++ leBytes 8 r.time ++ sliceBytes r.args 0 16

/-- The entries of a log from a SEQ on; an older SEQ starts at the oldest, one not yet reached finds none. -/
def logFrom (log : List LogRec) (next first : Nat) : List LogRec :=
  let back := (next + 2 ^ 32 - first % 2 ^ 32) % 2 ^ 32
  if 2 ^ 31 ≤ back then [] else log.drop (log.length - back)

/-- LOG_READ. -/
def cmdLogRead : Cmd := fun e d _ s =>
  if d 4 = 0 ∨ 256 < d 4 then (s, .err eARG)
  else if !e.put then (s, .err eBUS_ERR)
  else
    let l := (logFrom s.log s.logSeq (d 1)).take (d 4)
    let s1 := s.hostWrite (wide d 2) (l.flatMap LogRec.bytes)
    let next := match l.getLast? with | some r => (r.seq + 1) % 2 ^ 32 | none => d 1
    let oldest := match s.log with | r :: _ => r.seq | [] => s.logSeq
    (s1, .ok [l.length, next, oldest])

/-! ### Reset and download (R447, R458) -/

/-- A reset follows the response: WARMRST or DEVRST. -/
def State.resetAfter (s : State) (warm : Bool) : State := { s with rstDue := some (warm, s.time) }

/-- DEVICE_RESET. -/
def cmdDeviceReset : Cmd := fun _ d _ s => (s.resetAfter (bitAt (d 1) 0), .ok)

/-- ABORT_TO_BOOT. -/
def cmdAbortToBoot : Cmd := fun _ _ _ s =>
  if s.mode = .load ∨ s.mode = .reject then (State.toMode { s with fwLen := none, pkg := none } .boot 0, .ok)
  else (s.resetAfter true, .ok)

/-- FW_BEGIN. -/
def cmdFwBegin : Cmd := fun _ d _ s =>
  if d 1 < 1024 ∨ 16777216 < d 1 then (s, .err eARG)
  else
    let s := if s.mode = .reject then s.toMode .boot 0 else s
    let s := { s with fwLen := some (d 1), hbm := Memory.clearRange s.hbm stagingBase (stagingBase + 0x1000000) }
    (s.puts [(BAR2_WIN_BASE, stagingBase / 16777216), (BAR2_WIN_EN, 1)], .ok)

/-- FW_COMMIT; where it is accepted the response follows the check of the package. -/
def cmdFwCommit : Cmd := fun _ d _ s =>
  if s.fwLen = some (d 1) then (State.toMode (s.put BAR2_WIN_EN 0) .load 0, .ok) else (s, .err eARG)

/-! ### Modes (R458, R481, R488 – R490, R531) -/

/-- The stable sequencers of the mapped slots run, or stop. -/
def State.runStables (s : State) (on : Bool) : State :=
  (upto 17).foldl (fun s p => if s.get (atSlot STB_STATE_MAPPED p) = 1 then s.put (atSlot STB_CTL_RUN p) (b2n on) else s) s

/-- Enter DROWSE: sequencers stop, HBM in self-refresh (R488). -/
def State.enterDrowse (s : State) : State := State.toMode ((s.runStables false).put MEM_STAT_SELFREF 1) .drowse 0

/-- Leave DROWSE for SERVE (R489). -/
def State.leaveDrowse (s : State) : State := ((s.runStables true).put MEM_STAT_SELFREF 0).enterServe

/-- The transition of MODE_SET to a target: the modes it is accepted from. -/
def modeSetFrom (target : Nat) (m : Mode) (detail : Nat) : Bool :=
  let serving := m == .serve || m == .serveDegraded
  match target with
  | 1 => serving || m == .service || m == .drowse
  | 6 => m == .drowse || (m == .service && detail == 0x11)
  | _ => serving

/-- MODE_SET; SLUMBER is entered once the response is written. -/
def cmdModeSet : Cmd := fun _ d _ s =>
  let t := d 1
  if !(List.contains [1, 5, 6, 8, 11] t) then (s, .err eARG)
  else if !modeSetFrom t s.mode s.detail then (s, .err eMODE)
  else if t = 8 then
    if s.stalls.all fun st => decide (st.sched = .parked) then (s.enterDrowse, .ok) else (s, .err eBUSY)
  else if t = 6 then (if s.mode = .drowse then s.leaveDrowse else s.enterServe, .ok)
  else if !s.stalls.isEmpty then (s, .err eBUSY)
  else if t = 5 then (s.toMode .service 0x11, .ok)
  else if t = 11 then (s.toMode .conformance 0, .ok)
  else (s, .ok)

/-! ### DEVICE_SET (R459) -/

/-- Reserved bits of an item's value. -/
def deviceMasks : Nat → List Nat
  | 0 => [1, 0, 0, 0]
  | 1 => [0x1FFFF, 0, 0, 0]
  | 2 => [7, 0x7E, 0x7E, 0x7E]
  | 3 => [0x7FFFF, 0, 0, 0]
  | 4 => [1, 0, 0, 0]
  | _ => []

/-- Write PTP_CTL; EN = 0 leaves PTP in FREE (R401, R416). -/
def State.ptpSet (s : State) (v : Nat) : State :=
  let s := s.putReg32 PTP_CTL_EN.off (v % 2 ^ 19)
  if bitAt v 0 then s
  else
    let locked := s.get PTP_STAT_STATE == 2
    let s := { s.put PTP_STAT_STATE 0 with ptpGood := 0 }
    if locked then s.clockLost else s

/-- DEVICE_SET. -/
def cmdDeviceSet : Cmd := fun _ d n s =>
  let v (k : Nat) : Nat := if k < n then d (k + 1) else 0
  let ms := deviceMasks (d 1)
  if 4 < d 1 ∨ (upto 4).any (fun k => decide (v (k + 1) &&& nthD ms k 0 ≠ v (k + 1))) then (s, .err eARG)
  else match d 1 with
    | 0 => (s.put PERST_SCOPE_SCOPE (v 1), .ok)
    | 1 => (s.puts [(HOST_ORPHAN_SECONDS, v 1 % 65536), (HOST_ORPHAN_ACTION, v 1 / 65536)], .ok)
    | 2 =>
      let s := hodHgrantWrite (bitAt (v 1) 0) (v 2 / 2) s
      ({ s.puts [(MOV_GRANT_HOST, field (v 1) 1 1), (MOV_GRANT_SHEDS, v 3 / 2), (RNG_GRANT_SHEDS, v 4 / 2)] with
         monGrant := bitAt (v 1) 2 }, .ok)
    | 3 => (s.ptpSet (v 1), .ok)
    | _ => (s.put YRD_CTL_MISS_HOST (v 1), .ok)

/-! ### The split (R467) -/

/-- The CLASS that a function needs in mode 1. -/
def splitClass (bit : Nat) : Nat :=
  match bit with | 0 => 1 | 1 => 2 | 2 => 3 | 3 => 4 | _ => 7

/-- EC of the streams with a codec, as SPLIT_ENCODE = 0 counts it (R237). -/
def State.hardwareCost (s : State) : Nat :=
  s.streams.foldl (fun n x => n + encodeCost (dW x.shadow) (dH x.shadow) x.esd.codec x.esd.profile) 0

/-- The first refusal of a change. -/
def State.splitErr (s : State) (mask value : Nat) : Option Nat :=
  if (upto 7).any fun b => bitAt mask b && bitAt value b && !s.split b && (s.ringOfClass (splitClass b)).isNone then some eNO_RING
  else if bitAt mask spENCODE ∧ !bitAt value spENCODE ∧ s.split spENCODE then
    if s.get SPLIT_STATE_DIS_ENCODE = 1 ∧ s.streams.any (fun x => x.esd.codec != 0) then some eENC_DISABLED
    else if s.get ENC_BUDGET_TOTAL_TOTAL < s.hardwareCost then some eENCODE_FULL
    else none
  else none

/-- The next frame of every stream is a key frame. -/
def State.keyNext (s : State) : State :=
  let l : List Stream := s.streams.map fun x => { x with enc := { x.enc with lost := true } }
  { s with streams := l }

/-- SET_SPLIT. -/
def cmdSetSplit : Cmd := fun _ d _ s =>
  let mask := d 1 % 128
  let value := field (d 1) 8 7
  match s.splitErr mask value with
  | some r => (s, .err r)
  | none =>
    let was := s.split spENCODE
    let m := (upto 7).foldl (fun m b => if bitAt mask b then putField m b 1 (field value b 1) else m) (s.get SPLIT_STATE_MODE)
    let s := s.put SPLIT_STATE_MODE m
    let now := s.split spENCODE
    let s := if was != now then State.recost { s with encChange := some s.time } else s
    let s := if was && !now then s.keyNext else s
    (s, .ok [s.reg32 SPLIT_STATE_MODE.off])

/-! ### Ring pairs (R425, R464) -/

/-- Fields of RNG_STATE and the indexes of ring r. -/
def ringF (f : Fld) (r : Nat) : Fld := f.nth 16 r

/-- The ring pair of a number, if created. -/
def State.ring? (s : State) (r : Nat) : Option Ring := s.rings.find? fun x => x.num == r

/-- RING_CREATE. -/
def cmdRingCreate : Cmd := fun _ d _ s =>
  let r := d 1 % 16
  let sq := field (d 1) 4 4
  let cq := field (d 1) 8 4
  let cls := field (d 1) 18 4
  if 8 < r ∨ sq < 4 ∨ 12 < sq ∨ cq < 4 ∨ 12 < cq ∨ wide d 2 % 4096 ≠ 0 ∨ wide d 4 % 4096 ≠ 0 ∨ 7 < cls ∨ (r = 0 ∧ cls ≠ 0) then (s, .err eARG)
  else if (s.ring? r).isSome ∨ (cls ≠ 0 ∧ (s.ringOfClass cls).isSome) then (s, .err eEXISTS)
  else
    let x : Ring := { num := r, sqLog := sq, cqLog := cq, vec := field (d 1) 12 6, cls, sqBase := wide d 2, cqBase := wide d 4, jobs := []
                      chain := [], armed := true, fetching := false, pollAt := s.time }
    let s := s.puts [(ringF RNG_SQ_TAIL_TAIL r, 0), (ringF RNG_CQ_HEAD_HEAD r, 0), (ringF RNG_STATE_CREATED r, 1), (ringF RNG_STATE_SQHEAD r, 0),
      (ringF RNG_STATE_SQPHASE r, 1), (ringF RNG_STATE_CQTAIL r, 0), (ringF RNG_STATE_CQPHASE r, 1), (ringF RNG_STATE_OPEN r, 0)]
    ({ s with rings := insertBy (·.num) x s.rings }, .ok)

end Sys2Proof.Machine
end

