-- ==== Sys2Proof/Machine/Migrate.lean ====
section
/-! DEFINITION. Snapshots and live migration (R410 – R414, R463, R533, R534). -/
namespace Sys2Proof
namespace Machine

/-! ### Snapshots (R410, R411) -/

/-- What the body of a snapshot holds: the state, the input log with the number of its first entry, the stall's ESDs, lane,
network descriptors and flows by index 0 – 3, and, inside the yard transport, its keys. -/
structure Snap where
  body    : CkptBody
  log     : List LogEntry
  logBase : Nat
  logPos  : Nat
  esds    : List (Nat × Esd)
  lane    : Option Lane
  nets    : List NetStream
  flows   : List (Nat × Bytes)
  keys    : List KeySlot
  deriving DecidableEq, Repr

end Machine

/-- What of a snapshot's body the spec lays out nowhere: the full capture, the bounds of its parts, SRTCP indexes, and keys (R378, R410);
and the body read back where bytes are one. -/
opaque Config.snapRest : Machine.Snap → Bytes
opaque Config.snapOpen : Bytes → Option Machine.Snap

/-- The base image as class 4 data carries it (R412). -/
opaque Config.baseImage : Machine.Stall → Bytes

namespace Machine

/-- The body of a snapshot: what the spec does not lay out, the input log in entries of 32 bytes, the ESDs of 64, the ALD, the network
descriptors of 128 and the flow descriptors of 64 (R43, R265, R293, R390, R392, R410). -/
def Snap.bytes (p : Snap) : Bytes :=
  Config.snapRest p ++ p.log.flatMap LogEntry.bytes ++ p.esds.flatMap (·.2.bytes) ++ (match p.lane with | some l => l.bytes | none => []) ++
    p.nets.flatMap (fun x => sliceBytes x.desc 0 128) ++ p.flows.flatMap fun x => sliceBytes x.2 0 64

/-- What goes with a stall beside its state. -/
def State.snapOf (s : State) (st : Stall) (c : Ckpt) (whole keys : Bool) : Snap :=
  let own (n : Nat) : Bool := n / 4 == st.num
  { body := c.body, log := if whole then st.log else st.log.drop (c.logpos - st.logBase)
    logBase := if whole then st.logBase else c.logpos, logPos := c.logpos
    esds := (s.streams.filter fun x => own x.num).map fun x => (x.num % 4, x.esd)
    lane := st.lane
    nets := (s.nets.filter fun x => own x.num).map fun x => { x with num := x.num % 4, vq := [], vrec := [], vnum := 0, aq := [], arec := [], anum := 0 }
    flows := (s.flows.filter fun x => own x.num).map fun x => (x.num % 4, x.desc)
    keys := if keys then s.keys.filter fun k => k.kind != 3 && own k.idx else [] }

/-- The header of a snapshot (R410). -/
def State.snapHeader (s : State) (st : Stall) (c : Ckpt) (len : Nat) : Bytes :=
  let t := s.title? st.title
  let dig := match t with | some t => sliceBytes t.digest 0 32 | none => List.replicate 32 0
  let ucs := match t.bind (·.ucs) with | some u => sliceBytes (Config.sha256 u) 0 32 | none => List.replicate 32 0
  let h := leBytes 2 2 ++ leBytes 2 st.num ++ leBytes 1 (clsIdx st.cls) ++ leBytes 1 c.conf ++ leBytes 1 (b2n st.freeRun) ++ leBytes 1 st.corecfg ++
    leBytes 8 (st.f0.getD 0) ++ leBytes 8 c.body.tick ++ leBytes 4 (s.get YRD_NUMBER_YARD) ++ leBytes 4 c.seq ++ dig ++ ucs ++ leBytes 4 len ++
    List.replicate 24 0
  h ++ leBytes 4 (crc32 h).toNat

/-- A snapshot of a stall at a checkpoint. -/
def State.snapshot (s : State) (st : Stall) (c : Ckpt) (whole keys : Bool) : Bytes :=
  let b := (s.snapOf st c whole keys).bytes
  s.snapHeader st c b.length ++ b

/-- SNAPSHOT_EXPORT (R410, R463, R533). -/
def cmdSnapshotExport : Cmd := fun e d _ s => s.withStall (d 1) fun st =>
  let conf := decide (s.mode = .conformance)
  if conf && st.trunc then (s, .err eBUSY)
  else match if conf then (st.ckpts.filter (·.complete)).head? else newestComplete st with
    | none => (s, .err eNOT_FOUND)
    | some c =>
      let b := s.snapshot st c conf false
      if d 4 < b.length then (s, { status := eARG, data := [b.length] })
      else if !e.put then (s, .err eBUS_ERR)
      else (s.hostWrite (wide d 2) b, .ok [b.length])

/-- STATUS codes of R411. -/
def eCORRUPT : Nat := 0x34
def eCONF : Nat := 0x35

/-- An imported stall (R411, R534): its state at the checkpoint, TICK, F0 and log kept, the entries after the checkpoint to be
applied at their ticks, the next capture full, and FIRST on its first frame. -/
def importStall (k : Nat) (t : Title) (c : BeamClass) (h : Bytes) (p : Snap) (ucs time reason : Nat) (replay : Bool) : Stall :=
  let free := bitAt (leAt h 6 1) 0
  let st := newStall k t.handle c free (leadDefault c) (leAt h 7 1) ucs time p.body
  let f := frameOf c p.body.ras.rpos
  { st with
    f0 := some (leAt h 8 8), reasons := [reason], last := p.body.tick, ras := { p.body.ras with firstFrame := f, made := [] }
    log := p.log, logBase := p.logBase, replayLog := p.log.drop (p.logPos - p.logBase)
    begun := match p.log.getLast? with | some e => max p.body.tick (e.tick + 1) | none => p.body.tick
    ckptSeq := (leAt h 28 4 + 1) % 2 ^ 32, ckptBound := ckptUp c (p.body.tick + 1), fresh := false
    imported := replay, sigNext := frameOf c p.body.tick, sigPos := p.body.spos, lane := p.lane }

/-- The areas and streams that firmware sets up for an imported stall: output areas of its own, network descriptors and flows
under its numbers; a flow or stream that R391 refuses is not valid. -/
def State.importRest (s : State) (k : Nat) (p : Snap) : State :=
  let s := p.esds.foldl (fun s x =>
    let (st, s) := s.newStream (4 * k + x.1)
    let esd : Esd := { x.2 with outAddr := st.esd.outAddr, outSize := st.esd.outSize, refAddr := st.esd.refAddr, wr := 0, rd := 0 }
    { s with streams := insertBy (·.num) { st with esd } s.streams }) s
  let s := p.nets.foldl (fun s x =>
    let n := 4 * k + x.num % 4
    let (b, s) := s.resolveHop x.desc
    let ip := netIpv6 b
    let bad := s.conflict ip (descAddr b 16 ip) (descAddr b 32 ip) (leAt b 12 2) (leAt b 14 2) (true, n) || !s.service ip (descAddr b 16 ip)
    let s := (s.hbmWrite (s.sndAddr n) (if bad then putBytes b 0 [b.headD 0 &&& 0xFE] else b)).loadEntry 1 n
    match s.net? n with
    | some y => s.setNet { y with octets := x.octets, count := x.count, srIdx := x.srIdx }
    | none => s) s
  let s := p.flows.foldl (fun s x =>
    let n := 4 * k + x.1
    let ip := flowIpv6 x.2
    let bad := s.conflict ip (descAddr x.2 8 ip) (descAddr x.2 24 ip) (leAt x.2 4 2) (leAt x.2 6 2) (false, n) || !s.service ip (descAddr x.2 8 ip)
    (s.hbmWrite (s.flowAddr n) (if bad then putBytes x.2 0 [x.2.headD 0 &&& 0xFE] else x.2)).loadEntry 0 n) s
  let ks : List KeySlot := p.keys.map fun x => { x with idx := 4 * k + x.idx % 4 }
  let lane := match s.stall? k with | some st => st.lane | none => none
  let (o, es, s) := match lane with | some l => s.allocate 4 (homeStack k) l.outSize | none => (0, [], s)
  let s : State := { s with keys := s.keys ++ ks }
  (s.onStall k fun st => { st with lane := st.lane.map fun l =>
    { l with outAddr := o, exts := es, wr := 0, rd := 0, pcm := [], opAddr := 0, opSize := 0, opWr := 0, opRd := 0 } }).recost.showRamp

/-- Whether the bytes are a snapshot: format, CRC and body length, and a body that opens. -/
def snapParts (bs : Bytes) : Option (Bytes × Snap) :=
  let h := sliceBytes bs 0 128
  if bs.length < 128 ∨ leAt h 0 2 ≠ 2 ∨ leAt h 124 4 ≠ (crc32 (h.take 124)).toNat ∨ leAt h 96 4 ≠ bs.length - 128 then none
  else (Config.snapOpen (bs.drop 128)).map fun p => (h, p)

/-- Place an imported stall on stable l, which `slot` runs. -/
def State.enterImport (s : State) (st : Stall) (l slot : Nat) : State :=
  let sts : List Stall := insertBy (·.num) st s.stalls
  let s : State := State.place { s with stalls := sts } st.num l (st.num % 192) st.cls
  if s.get (atSlot STB_CTL_DRAIN slot) = 1 then s.park st.num rsnDRAIN false else s

/-- The checks of R411 after CORRUPT and CONF, and the import under number k parked with a reason. -/
def State.importHere (s : State) (k : Nat) (h : Bytes) (p : Snap) (room : Bool) (reason : Nat) : State × Option Resp :=
  let conf := decide (s.mode = .conformance)
  match clsOf (leAt h 4 1), s.titles.find? fun t => sliceBytes t.digest 0 32 == sliceBytes h 32 32 with
  | none, _ => (s, some (.err eCORRUPT))
  | some _, none => if s.get DEV_CONF_LEVEL < leAt h 5 1 then (s, some (.err eCONF)) else (s, some (.err eTITLE))
  | some c, some t =>
    let l := k / 192
    if s.get DEV_CONF_LEVEL < leAt h 5 1 then (s, some (.err eCONF))
    else if conf ∧ bitAt (leAt h 6 1) 0 then (s, some (.err eARG))
    else if conf ∧ 16 ≤ s.stalls.length then (s, some (.err eDEVICE_FULL))
    else match s.admitErr l (weight c) true (some (k % 192)) true, s.slotOfL l with
      | some e, _ => (s, some (.err e))
      | none, none => (s, some (.err eNO_POSITION))
      | none, some slot =>
        if (s.stall? k).isSome then (s, some (.err eNO_POSITION))
        else match s.bindTitle slot t.ucs with
          | (.error b, s1) => (s1, some (bindResp b))
          | (.ok u, s1) =>
            if !room ∨ !s.memFits k c t.save then (s, some (.err eMEMORY_FULL))
            else if s.get HOD_CTL_EN = 0 then (s, some (.err eHOD_DISABLED))
            else if s.get PTP_STAT_STATE ≠ 2 then (s, some (.err eCLOCK))
            else
              let (st, s1) := s1.giveAreas (importStall k t c h p u s.time reason conf) t.save
              (((s1.enterImport st l slot).importRest k p).countUnits, none)

/-- Import a snapshot: CONF comes before TITLE, a title that is not present is obtained where it can be, and a refusal leaves nothing
created (R382, R411). -/
def State.importSnap (s : State) (k : Nat) (h : Bytes) (p : Snap) (room : Bool) (image : Option Bytes) (reason : Nat) : State × Option Resp :=
  match (s.obtainTitle (sliceBytes h 32 32) image room).importHere k h p room reason with
  | (_, some r) => (s, some r)
  | (t, none) => (t, none)

/-- SNAPSHOT_IMPORT (R411, R463, R534). -/
def cmdSnapshotImport : Cmd := fun e d _ s =>
  match e.host with
  | none => (s, .err eBUS_ERR)
  | some bs =>
    if 3072 ≤ d 1 then (s, .err eARG)
    else match snapParts (sliceBytes bs 0 (d 4)) with
      | none => (s, .err eCORRUPT)
      | some (h, p) => match s.importSnap (d 1) h p e.room e.image rsnOPERATOR with
        | (s, some r) => (s, r)
        | (s, none) => (s, .ok)

/-! ### The source of a migration (R412 – R414) -/

/-- Send data of class 4 to a peer. -/
def State.sendImage (s : State) (y : Nat) (bs : Bytes) : State := State.yardSendLong 4 y (bs.length / 8960 + 1) s bs

/-- A device of the yard can be reached. -/
def State.reachable (s : State) (y : Nat) : Bool :=
  s.attached && !(s.yPaths y).isEmpty && (match s.peer? y with | some p => p.up | none => true)

/-- MIGRATE: step 1; `verdict` is D's answer, 0 where it accepts (R412). -/
def cmdMigrate : Cmd := fun e d _ s => s.withStall (d 1) fun st =>
  let y := d 2
  if s.migs.any (fun m => m.stall == st.num) ∨ st.imported ∨ st.sched = .halted then (s, .err eBUSY)
  else if !s.reachable y then (s, .err eUNREACHABLE)
  else if s.get PTP_STAT_STATE ≠ 2 then (s, .err eCLOCK)
  else if e.verdict ≠ 0 then (s.sendControl y 0 (d 3), .err e.verdict)
  else
    let m : Mig := { stall := st.num, yard := y, dest := d 3, source := true, parked := false, ready := false, doubt := false, attempt := 0
                     tried := 0, flows := [] }
    let s := { s with migs := s.migs ++ [m] }
    ((s.sendControl y 0 (d 3)).sendImage y (Config.baseImage st), .ok)

/-- D has acknowledged every record sent. -/
def State.recordsAcked (s : State) (y : Nat) : Bool :=
  match s.peer? y with
  | some p => !((p.unacked ++ p.queued).any fun d => d.cls == 4)
  | none => true

/-- The stall is to be parked for its migration at the boundary that has come (R412, R413). -/
def State.migDue (s : State) (k : Nat) : Option Mig :=
  match s.mig? k true, s.stall? k with
  | some m, some st =>
    if !m.parked && s.recordsAcked m.yard && ckptDue st && !ckptOpen st && !resetDue st && !latchedDue st && st.sched != .halted &&
        m.tried != st.ckptBound then some m
    else none
  | _, _ => none

/-- CHECKPOINT_CAPTURE; a boundary at which a migration parks the stall waits for that (R412). -/
def checkpointCaptureM (k : Nat) (s : State) : State := if (s.migDue k).isSome then s else checkpointCapture k s

/-- CHECKPOINT_COMPLETE; while a migrates, the record goes to D (R412). -/
def checkpointCompleteM (k : Nat) (s : State) : State :=
  let s1 := checkpointComplete k s
  match s.stall? k, s.mig? k true with
  | some st, some m =>
    match ckptOpen st, st.ckpts.getLast? with
    | true, some c => if m.parked then s1 else s1.sendImage m.yard (c.bytes)
    | _, _ => s1
  | _, _ => s1

/-- a's input flows forward to b (R412). -/
def State.forwardFlows (s : State) (k y b : Nat) : State :=
  (s.flows.filter fun f => f.num / 4 == k).foldl (fun s f =>
    let fl := leAt f.desc 0 1
    let s := s.setFlow f 0 (leBytes 1 (putField fl 2 2 1))
    s.onFlow f.num fun g s => s.setFlow g 40 (leBytes 4 y ++ leBytes 2 b)) s

/-- The bytes of the record that a capture at this boundary makes (R40, R42, R413). -/
def recordSize (st : Stall) : Nat :=
  let b := st.body.stamps
  2112 + 256 * (mapLines (if st.ckptFull then 255 else st.nearDirty)).length + (b.flatMap Stamp.bytes).length +
    ((b.filter Stamp.block).flatMap (·.data)).length + 4096 * (if st.ckptFull then trackedPages st.cls else st.dirty).length

/-- MIGRATION_PARK: a is parked, its final checkpoint captured and sent, and its flows forward; a record above 32 MiB puts it
off to the next boundary, 8 times at most (R412, R413). -/
def migrationPark (k : Nat) (s : State) : State :=
  match s.migDue k, s.stall? k with
  | some m, some st =>
    if 33554432 < recordSize st then
      let m := { m with attempt := m.attempt + 1, tried := st.ckptBound }
      if 8 ≤ m.attempt then (s.setMig m).endMig eDIRTY false m else s.setMig m
    else
      let flows := s.flows.filter fun f => f.num / 4 == k
      let s := s.park k rsnMIGRATE false
      let s := s.onStall k fun st => completeCkpt (decide (s.mode = .conformance)) (capture st)
      let s := s.setMig { m with parked := true, flows }
      let s := match (s.stall? k).bind newestComplete, s.stall? k with
        | some c, some st => s.sendImage m.yard (s.snapshot st c false true)
        | _, _ => s
      s.forwardFlows k m.yard m.dest
  | _, _ => s

/-- MIGRATE_READY. On S: D's answer to the final record, READY (0) or a refusal; S sends COMMIT. On D: the snapshot has come, b
is restored under number k for S's device y, and D sends READY (R412, R414). -/
def migrateReady (source : Bool) (k y verdict : Nat) (snap : Bytes) (room : Bool) (image : Option Bytes) (s : State) : State :=
  if source then
    match s.mig? k true with
    | some m =>
      if m.parked ∧ !m.ready ∧ !m.doubt then
        if verdict = 0 then (s.setMig { m with ready := true }).sendControl m.yard 2 m.dest else s.endMig verdict false m
      else s
    | none => s
  else if !mayFailStop s.mode ∨ !s.attached ∨ 3072 ≤ k then s
  else match snapParts snap with
    | none => s.sendControl y 1 (leAt snap 2 2)
    | some (h, p) => match s.importSnap k h p room image rsnMIGRATE with
      | (s, some _) => s.sendControl y 1 (leAt h 2 2)
      | (s, none) =>
        let m : Mig := { stall := k, yard := y, dest := leAt h 2 2, source := false, parked := true, ready := true, doubt := false, attempt := 0
                         tried := 0, flows := [] }
        (State.sendControl { s with migs := s.migs ++ [m] } y 1 (leAt h 2 2)).admitEarly k

/-- MIGRATE_COMMIT: D resumes b (R412). -/
def migrateCommit (k : Nat) (s : State) : State :=
  match s.mig? k false with
  | some m => (((s.dropMig m).unpark k rsnMIGRATE).raise evMigrateDone).sendControl m.yard 3 m.dest
  | none => s

/-- COMMIT_ACK: S destroys a; the forwarding flows stay (R412). -/
def commitAck (k : Nat) (s : State) : State :=
  match s.mig? k true with
  | some m =>
    if m.ready ∧ !m.doubt then
      ((((s.dropMig m).destroyStall k true).enforceLevel).raise evMigrateDone).notice nMigrateDone k m.yard m.dest
    else s
  | none => s

/-- MIGRATE_RESOLVE (R414). -/
def cmdMigrateResolve : Cmd := fun _ d _ s => s.withStall (d 1) fun st =>
  match s.mig? st.num true with
  | some m =>
    if !m.doubt then (s, .err eBUSY)
    else if bitAt (d 2) 0 then (((s.dropMig m).destroyStall st.num true).enforceLevel, .ok)
    else (((s.dropMig m).restoreFlows m.flows).unpark st.num rsnMIGRATE, .ok)
  | none => (s, .err eBUSY)

end Machine
end Sys2Proof
end

