-- ==== Sys2Proof/Machine/Debug.lean ====
section
/-! DEFINITION. Debug levels, the unlock exchange, the debug access master, stall run control, the device freeze, OTP commands,
the TAP and the end of Conformance mode (R508 – R531, R537). -/
namespace Sys2Proof

/-- The operator key K_L2 and the vendor key K_L3 (R514). -/
opaque Config.keyL2 : Bytes
opaque Config.keyL3 : Bytes

namespace Machine

/-! ### Levels (R508, R537) -/

/-- Some stall holds an L1 grant. -/
def State.anyL1 (s : State) : Bool := s.stalls.any (·.l1)

/-- The level that a DBG register at block offset r needs: 0 always, 1 L1 or above, 2 L2, 3 L3. -/
def dbgNeeds (r : Nat) : Nat :=
  if r = 0x404 then 3
  else if (0x400 ≤ r ∧ r < 0x404) ∨ (0x500 ≤ r ∧ r < 0x504) then 2
  else if (4 ≤ r ∧ r < 8) ∨ (0x100 ≤ r ∧ r < 0x400) then 1
  else 0

/-- The level in force reaches a DBG register. -/
def State.dbgReach (s : State) (r : Nat) : Bool :=
  match dbgNeeds r with
  | 0 => true
  | 1 => decide (1 ≤ s.get DBG_STATUS_LEVEL) || s.anyL1
  | n => decide (n ≤ s.get DBG_STATUS_LEVEL)

/-- A refused write is counted (R420, R537). -/
def State.deny (s : State) (off : Nat) : State :=
  (s.inc HOST_DENIED_COUNT).put HOST_DENIED_OFFSET (off / 4)

/-- Run `f` where the level reaches register r of the DBG block; else the write is refused. -/
def State.dbgGate (s : State) (r : Nat) (f : State → State) : State :=
  if s.held ∧ !s.testEn then s else if s.dbgReach r then f s else s.deny (0xF00000 + r)

/-! ### Unlocking (R509 – R512) -/

/-- DBG_NONCE: a write of OP = NONCE. -/
def dbgNonce (s : State) : State :=
  let soon : Bool := match s.failAt with | some t => decide (s.time < t + 1000000000) | none => false
  if s.held ∨ soon then s
  else
    let (b, s) := s.freeBytes 32
    let s := (upto 8).foldl (fun s k => s.put (DBG_NONCE_DATA.nth 4 k) (leAt b (4 * k) 4)) s
    { s with nonceAt := some s.time }

/-- A failed UNLOCK. -/
def State.unlockFailed (s : State) : State :=
  let n := min 8 (s.get DBG_STATUS_FAILS + 1)
  let s := s.put DBG_STATUS_FAILS n
  let s := if n = 8 then s.put DBG_STATUS_LOCKOUT 1 else s
  { s with failAt := some s.time }

/-- The 8 registers of a group as 32 bytes. -/
def State.eight (s : State) (f : Fld) : Bytes := (upto 8).flatMap fun k => leBytes 4 (s.get (f.nth 4 k))

/-- An HMAC-SHA-256 code: 32 bytes (R509, R511). -/
def mac256 (key msg : Bytes) : Bytes := sliceBytes (Config.hmac256 key msg) 0 32

/-- The response of the debugger is the right one for a level. -/
def State.responseOk (s : State) (level : Nat) : Bool :=
  let key := if level = 2 then Config.keyL2 else Config.keyL3
  let fresh : Bool := match s.nonceAt with | some t => decide (s.time < t + 10000000000) | none => false
  (level == 2 || level == 3) && fresh && s.get DBG_STATUS_LOCKOUT == 0 &&
    mac256 key (s.eight DBG_NONCE_DATA ++ leBytes 8 Config.devSerial.toNat ++ leBytes 1 level) == s.eight DBG_RESP_DATA

/-- The nonce is spent. -/
def State.spendNonce (s : State) : State :=
  { (upto 8).foldl (fun s k => s.put (DBG_NONCE_DATA.nth 4 k) 0) s with nonceAt := none }

/-- DBG_UNLOCK: a write of OP = UNLOCK; L3 erases the key RAM first (R517). -/
def dbgUnlock (level : Nat) (s : State) : State :=
  if s.held then s
  else if s.responseOk level then
    let s := s.spendNonce
    let s := if level = 3 then { s with keys := [] } else s
    (s.put DBG_STATUS_LEVEL level).enforceLevel
  else s.spendNonce.unlockFailed

/-- DBG_LOCK (R510, R512). -/
def dbgLock (s : State) : State := if s.held then s else (s.put DBG_STATUS_LEVEL 0).enforceLevel

/-- NONCE_EXPIRY (R509). -/
def nonceExpiry (s : State) : State :=
  match s.nonceAt with
  | some t => if t + 10000000000 ≤ s.time then { s with nonceAt := none } else s
  | none => s

/-- STATUS AUTH (R456). -/
def eAUTH : Nat := 0x40

/-- DEBUG_TOKEN (R455, R511). -/
def cmdDebugToken : Cmd := fun _ d _ s =>
  s.withStall (d 1) fun st =>
    let token := (upto 8).flatMap fun i => leBytes 4 (d (2 + i))
    let msg := [0x4C, 0x31] ++ leBytes 8 Config.devSerial.toNat ++ leBytes 2 st.num
    if mac256 Config.keyL2 msg = token then (s.setStall { st with l1 := true }, .ok)
    else (s.unlockFailed, .err eAUTH)

/-- DEBUG_REVOKE (R511, R512). -/
def cmdDebugRevoke : Cmd := fun _ d _ s => s.withStall (d 1) fun st => ((s.setStall { st with l1 := false }).enforceLevel, .ok)

/-! ### The debug access master (R520 – R522, R534, R575) -/

/-- Outcomes of an access. -/
def damOK : Nat := 0
def damDENIED : Nat := 1
def damALIGN : Nat := 2
def damTRANS : Nat := 3
def damNOSTALL : Nat := 4
def damBUS_ERR : Nat := 5
def damCONF : Nat := 6
def damLOCKED : Nat := 7

/-- End the access with a code, and the data of a read. -/
def State.damEnd (s : State) (code : Nat) (data : Option Bytes) : State :=
  let s := s.puts [(DAM_CTL_GO, 0), (DAM_STAT_CODE, code)]
  match data with
  | some b => s.put DAM_DATA_VALUE (leAt b 0 b.length)
  | none => s

/-- Bytes of the access. -/
def State.damSize (s : State) : Nat := 2 ^ s.get DAM_CTL_SIZE

/-- The byte that the next instruction of a halted stall would see (R81, R521). -/
def Stall.nextByte (st : Stall) (cart : Bytes) (time a : Nat) : Byte :=
  match lookupN (keyOf st.mem st.cls a) st.shadow.bytes, st.cpu.shadowOff with
  | some v, false => v
  | _, _ => readView cart st time st.tick a

/-- n bytes of a stall as the access reads them: architectural values where it is halted. -/
def damBytes (cart : Bytes) (st : Stall) (time a : Nat) : Nat → Bytes
  | 0 => []
  | n + 1 =>
    let b := a % 2 ^ 24
    (if st.sched = .halted then st.nextByte cart time b else readView cart st time st.tick b) :: damBytes cart st time (a + 1) n

/-- One byte written by the debugger: as an agent's, registers included; at TICK 0 the render view takes it too. -/
def damByte (st : Stall) (a : Nat) (v : Byte) : Stall :=
  if writable st.cls a then
    let k := keyOf st.mem st.cls a
    let attr := if isRam st.cls a then none else regByte st.cls a
    let rview := if st.tick = 0 ∧ stamped a then Memory.set st.rview k (maskedByte attr (Memory.get st.rview k) v) else st.rview
    let bytes : List (Nat × Byte) := st.shadow.bytes.map fun p => if p.1 == k then (p.1, maskedByte attr p.2 v) else p
    markDirty { st with mem := putView st.cls st.mem a v, rview, shadow := { st.shadow with bytes } } k
  else st

def damPut : Stall → Nat → Bytes → Stall
  | st, _, [] => st
  | st, a, b :: bs => damPut (damByte st (a % 2 ^ 24) b) (a + 1) bs

/-- A debugger's write to a stall at its TICK, with its stamps and what the registers written do (R83, R521). -/
def damWrite (st : Stall) (a : Nat) (bs : Bytes) : Stall :=
  let w := st.tick
  let st := settle st w
  let e0 := bitAt (st.word (aTCTL 0)) 0
  let e1 := bitAt (st.word (aTCTL 1)) 0
  let st := damPut st a bs
  let st := if w = 0 then st else addStamps st (agentStamps st.cls (w - 1) 4 a bs)
  let st := sideBytes st w a bs
  { timerWritten (timerWritten st 0 w e0) 1 w e1 with tainted := true }

/-- Perform the stall access that waits, once the stall's stores have drained; a read of a halted stall clears nothing (R9, R34, R130,
R520 – R522). -/
def State.damStall (s : State) (st : Stall) (unmapped : Bool) : State :=
  let s := s.drainOf st.num
  let a := s.get DAM_ADDR_VALUE % 2 ^ 24
  let n := s.damSize
  let addrs := (upto n).map fun i => (a + i) % 2 ^ 24
  let side := s.get DAM_CTL_SIDEFX == 1 && readsRaster addrs && decide (st.sched ≠ .halted)
  if s.get DAM_CTL_WRITE = 1 then
    if s.mode = .conformance then s.damEnd damCONF none
    else if unmapped ∨ rangeFaulted st a n then s.damEnd damTRANS none
    else if 0 < st.cpu.lock then s.damEnd damLOCKED none
    else (s.setStall (damWrite st a (leBytes n (s.get DAM_DATA_VALUE)))).damEnd damOK none
  else if side && s.mode == .conformance then s.damEnd damCONF none
  else if unmapped ∨ readFaulted st a n then s.damEnd damTRANS none
  else
    let b := damBytes (s.cartOf st) st s.time a n
    let st := st.accessed a n
    let s := s.setStall st
    let s := if side then s.setStall { st.clearRead addrs with tainted := true } else s
    s.damEnd damOK (some b)

/-- An access to device physical memory; reads have no side effect unless SIDEFX asks for it (R9, R520). -/
def State.damDevice (s : State) (io : Mmio) (host : Option Bytes) : State :=
  let a := s.get DAM_ADDR_VALUE % 2 ^ 40
  let n := s.damSize
  let fw := regionOfRange a n == .hbm && (extentsOf a n).any fun e => s.get (extFld e) == 6
  if s.get DBG_STATUS_LEVEL < 2 ∨ (fw ∧ s.get DBG_STATUS_LEVEL < 3) then s.damEnd damDENIED none
  else if a % n ≠ 0 then s.damEnd damALIGN none
  else if regionOf a = .hbm ∧ !s.memServes then s.damEnd damBUS_ERR none
  else if s.get DAM_CTL_WRITE = 1 then
    match devWrite io s a (leBytes n (s.get DAM_DATA_VALUE)) host with
    | .ok s => s.damEnd damOK none
    | .error _ => s.damEnd damBUS_ERR none
  else if s.get DAM_CTL_SIDEFX = 0 ∧ regionOfRange a n = .mmio then
    s.damEnd damOK (some (s.readBytes (a - 0x1000000000) n))
  else match devRead io s a n host with
    | .ok (b, s) => s.damEnd damOK (some b)
    | .error _ => s.damEnd damBUS_ERR none

/-- A debugger's write to a stall at TICK can be made: no checkpoint copy of its pages is pending, its stamp entries find room, and no dot
that must see it is drawn (R29, R178, R377). -/
def damWriteMay (st : Stall) (a : Nat) (bs : Bytes) : Bool :=
  !copyPending st [(a, bs)] && (st.tick == 0 || stampRoom st (agentStamps st.cls (st.tick - 1) 4 a bs) && notAhead st)

/-- The access waiting on a halted stall: a write is held like any other agent's. -/
def State.damHalted (s : State) (st : Stall) (unmapped : Bool) : State :=
  if s.get DAM_CTL_WRITE = 1 ∧ !damWriteMay st (s.get DAM_ADDR_VALUE % 2 ^ 24) (leBytes s.damSize (s.get DAM_DATA_VALUE)) then
    s.put DAM_CTL_GO 1
  else s.damStall st unmapped

/-- Start the access that DAM_CTL describes: at once on device memory and on a halted stall, at a boundary otherwise. -/
def State.damGo (s : State) (io : Mmio) (host : Option Bytes) (unmapped : Bool) : State :=
  if s.get DAM_CTL_SPACE = 0 then s.damDevice io host
  else
    let k := s.get DAM_CTL_STALL
    if !s.mayDebug k then s.damEnd damDENIED none
    else if s.get DAM_ADDR_VALUE % s.damSize ≠ 0 then s.damEnd damALIGN none
    else match s.stall? k with
      | none => s.damEnd damNOSTALL none
      | some st => if st.sched = .halted then s.damHalted st unmapped else s.put DAM_CTL_GO 1

/-- DAM_ACCESS: a write of DAM_CTL with GO = 1. While an access is in progress the whole write is ignored, its RW fields included
(DESIGN CHOICE, log entry 101) (R7, R520). -/
def damAccess (io : Mmio) (host : Option Bytes) (unmapped : Bool) (s : State) : State :=
  s.dbgGate 0x100 fun s => if s.get DAM_CTL_GO = 1 then s else s.damGo io host unmapped

/-- DAM_STALL_ACCESS: the access that waits, at a boundary of its stall; a read inside a locked sequence waits for its end (R89,
R521). -/
def damStallAccess (unmapped : Bool) (s : State) : State :=
  let k := s.get DAM_CTL_STALL
  if s.get DAM_CTL_GO = 0 ∨ s.get DAM_CTL_SPACE = 0 then s
  else match s.stall? k with
    | none => s.damEnd damNOSTALL none
    | some st =>
      if !s.mayDebug k then s.damEnd damDENIED none
      else if st.sched = .halted then s.damHalted st unmapped
      else match s.live k with
        | none => s
        | some (st, _) =>
          let a := s.get DAM_ADDR_VALUE % 2 ^ 24
          let bs := leBytes s.damSize (s.get DAM_DATA_VALUE)
          let write := s.get DAM_CTL_WRITE == 1
          if st.sched = .parked ∨ st.tick = 0 ∨ !boundaryClear s st ∨ !agentsClear st st.tick ∨ pendStuck st then s
          else if write ∧ !damWriteMay st a bs then s
          else if !write ∧ (0 < st.cpu.lock ∨ !catchUpOk st a s.damSize st.tick) then s
          else s.damStall st unmapped

/-! ### Stall run control (R523 – R526) -/

/-- Run control of a stall, where it may be debugged and exists. -/
def State.runCtl (s : State) (k : Nat) (f : Stall → State → State) : State :=
  s.dbgGate 0x200 fun s =>
    let s := s.put DBG_SCTL_STALL k
    match s.stall? k with
    | some st => if s.mayDebug k then f st s else s.deny 0xF00200
    | none => s

/-- A halt is asked of a stall: at the boundary it stands at, after its locked sequence, or once it is no longer parked or waiting
for a page. -/
def State.halt (s : State) (st : Stall) (force : Bool) : State :=
  if st.sched = .halted then s
  else if st.sched = .parked ∨ st.sched = .faultWait then
    s.setStall { st with dbgHalt := true, haltWhy := 1, haltPend := if force then some true else st.haltPend }
  else askHalt s st force 1

/-- DBG_SCTL_HALT (R523, R524). -/
def dbgSctlHalt (k : Nat) (force : Bool) (s : State) : State := s.runCtl k fun st s => s.halt st force

/-- DBG_SCTL_RESUME (R525). -/
def dbgSctlResume (k : Nat) (s : State) : State := s.runCtl k fun st s => s.setStall (resumeHalted s.time st)

/-- DBG_SCTL_STEP (R525). -/
def dbgSctlStep (k : Nat) (s : State) : State := s.runCtl k fun st s =>
  if st.sched = .halted then s.setStall { st with sched := .runnable, stepping := true, bpSkip := true } else s

/-- The fed words as code at the stall's PC. -/
def State.feedCode (s : State) (c : Code) (pc flen : Nat) : Code :=
  { c with fetch := fun a =>
      let k := (a + 2 ^ 22 - pc) % 2 ^ 22
      if k < flen then s.get ((if k % 2 = 0 then DBG_FEED_WORDLO else DBG_FEED_WORDHI).nth 4 (k / 2)) else 0xFFFF }

/-- Operations that cannot be fed (R526). -/
def notFeedable (op : Op) : Bool :=
  [Op.br, .jmp, .call, .ret, .reti, .dbnz, .dbrc, .rpt, .lock, .swi, .wait, .sync, .ldrc].contains op

/-- A halted stall with no repetition under way. -/
def Stall.unrepeated (st : Stall) : Stall := { st with cpu := { st.cpu with rep := 0, repFirst := false } }

/-- The stall after a fed instruction: its own pc and repetition again. -/
def Stall.afterFeed (st st1 : Stall) : Stall :=
  { st1 with cpu := { st1.cpu with pc := st.cpu.pc, rep := st.cpu.rep, repFirst := st.cpu.repFirst }, tainted := true, haltCause := 3 }

/-- The fed instruction's effect, where nothing holds it back. -/
def State.fed (s : State) (slot : Nat) (c : Code) (st : Stall) (i : Inst) : State :=
  let x := st.unrepeated
  let (r, cost) := runInst c x s.time i
  let n := ticksOf i r cost
  if !permitted s st ∨ !boundaryClear s st ∨ !agentsClear st (st.tick + n) ∨ holdFor x r n ≠ .none ∨ accFails x r then s
  else (s.buffer slot x (s.storeHeld slot x r) (st.tick + n - 1) (instWrites x r)).setStall (st.afterFeed (commit x i r cost))

/-- What the fed words do, once decoded. -/
def State.feedWith (s : State) (slot : Nat) (c : Code) (st : Stall) (flen : Nat) (q : Except Cause Inst) : State :=
  match q with
  | .error _ => s.put DBG_SSTAT_FERR 1
  | .ok i => if flen < i.len ∨ 6 < i.len ∨ notFeedable i.op then s.put DBG_SSTAT_FERR 1 else s.fed slot c st i

/-- Execute the fed instruction on a halted stall. -/
def State.feed (s : State) (st : Stall) (slot flen : Nat) : State :=
  let c := s.feedCode (s.codeOf st slot) st.cpu.pc.toNat flen
  s.feedWith slot c st flen (decodeAt c.fetch c.ucs 0 st.cpu.pc.toNat)

/-- DBG_SCTL_FEED (R526, R534). -/
def dbgSctlFeed (k flen : Nat) (s : State) : State := s.runCtl k fun st s =>
  let s := s.put DBG_SCTL_FLEN flen
  if st.sched ≠ .halted then s
  else if s.mode = .conformance ∨ flen = 0 ∨ 6 < flen then s.put DBG_SSTAT_FERR 1
  else match s.live k with
    | some (_, slot) => s.feed st slot flen
    | none => s

/-! ### The device freeze and MP cores (R529, R530) -/

/-- Halt a stall for the freeze, without regard to locked sequences. -/
def State.freezeStall (s : State) (k : Nat) : State :=
  match s.stall? k with
  | some st =>
    if st.sched = .halted ∨ st.sched = .parked then s
    else if st.sched = .faultWait then State.setStall { s with frozen := s.frozen ++ [k] } { st with dbgHalt := true, haltWhy := 1, haltPend := some true }
    else haltStall { s with frozen := s.frozen ++ [k] } st 1
  | none => s

/-- DBG_FREEZE. -/
def dbgFreeze (freeze : Bool) (s : State) : State :=
  s.dbgGate 0x400 fun s =>
    if !freeze then (if s.mode = .debugFreeze then s.unfreeze else s.put DBG_FREEZE_FREEZE 0)
    else if s.mode = .service ∨ s.mode = .serve ∨ s.mode = .serveDegraded ∨ s.mode = .conformance then
      let s := (s.stalls.map (·.num)).foldl State.freezeStall { s with prior := s.mode }
      (s.puts [(DBG_FREEZE_FREEZE, 1), (DBG_STATUS_FREEZE, 1)]).toMode .debugFreeze s.detail
    else s.put DBG_FREEZE_FREEZE 1

/-- DBG_MPCTL: halt or release of each MP core. -/
def dbgMpctl (halt0 halt1 : Bool) (s : State) : State :=
  s.dbgGate 0x404 fun s =>
    let s := if halt0 then s.haltMp 0 else s.releaseMp 0
    if halt1 then s.haltMp 1 else s.releaseMp 1

/-! ### OTP commands (R516) -/

/-- ADVANCE. -/
def otpAdvance (epoch : Nat) (s : State) : State :=
  s.dbgGate 0x500 fun s =>
    let most := match s.pkg with | some p => p.epoch | none => 0
    if most < epoch ∨ 64 < epoch then s.put OTP_CMD_ERR 1 else { s with otpEpoch := max s.otpEpoch epoch }

/-- REVOKE of key n. -/
def otpRevoke (n : Nat) (s : State) : State :=
  s.dbgGate 0x500 fun s =>
    if s.get DBG_STATUS_LEVEL < 3 ∨ 2 ≤ n ∨ bitAt s.otpRevoked (1 - n) then s.put OTP_CMD_ERR 1
    else { s with otpRevoked := s.otpRevoked ||| 2 ^ n }

/-! ### The TAP (R518, R519) -/

/-- Select an instruction and what its data register holds. -/
def State.tap (s : State) (ir dr : Nat) : State := { s with tapIr := ir, tapDr := dr }

/-- A boundary-scan instruction: the order of the register is given elsewhere, so what it captures is free. -/
def State.tapScan (s : State) (ir : Nat) : State :=
  let (v, s) := s.draw (2 ^ 1024)
  s.tap ir v

/-- IDCODE, BYPASS, SAMPLE/PRELOAD. -/
def tapIdcode (s : State) : State := s.tap 0x01 0x130729AF
def tapBypass (s : State) : State := s.tap 0x3F 0
def tapSample (s : State) : State := s.tapScan 0x02

/-- EXTEST, CLAMP and HIGHZ; not permitted, they select BYPASS. -/
def tapExtest (s : State) : State := if s.tapMay then s.tapScan 0x03 else tapBypass s
def tapClamp (s : State) : State := if s.tapMay then s.tap 0x04 0 else tapBypass s
def tapHighz (s : State) : State := if s.tapMay then s.tap 0x05 0 else tapBypass s

/-- DBGREG: a write, or a read whose data the register then holds; `wr` is what a write of the DBG block does. -/
def tapDbgreg (wr : Nat → Nat → State → State) (off data : Nat) (write : Bool) (s : State) : State :=
  let off := off % 65536 / 4 * 4
  if write then (wr (0xF00000 + off) data s).tap 0x10 (off + data % 2 ^ 32 * 65536 + 2 ^ 48)
  else
    let v := if s.dbgReach off then leAt (s.readBytes (0xF00000 + off) 4) 0 4 else 0
    s.tap 0x10 (off + v * 65536)

/-- DEBUG_CORE_RESET: by TRST_N or the Test-Logic-Reset state (`tap`), or by DBG_CTL.DCRST. -/
def debugCoreReset (pin : Bool) (s : State) : State :=
  let go (s : State) : State := State.tap ((s.resetRange 0xF00100 0xF00120).resetRange 0xF00300 0xF00340) 0x01 0x130729AF
  if pin then go s else s.dbgGate 4 go

/-! ### Conformance mode (R531) -/

/-- CNF_END: a write of CNF_CTL.END. -/
def cnfEnd (s : State) : State :=
  if s.mode = .conformance then
    if s.stalls.isEmpty then s.enterServe else s.put CNF_CTL_ERR 1
  else s

end Machine
end Sys2Proof
end

