-- ==== Sys2Proof/Machine/Catalogue.lean ====
section
/-! DEFINITION. The command catalogue and how a request is served, by mailbox or as a CONTROL job (R421, R422, R452 – R457). -/
namespace Sys2Proof.Machine

/-- The modes class of a command (R457): A, R, F, S. -/
inductive Modes | all | rom | fw | session
  deriving DecidableEq, Repr

/-- A catalogue entry: modes, whether a CONTROL job may carry it, the payload lengths n, and the defined bits of D1, D2, …; dwords past
the list are defined whole. -/
structure Form where
  modes : Modes
  ring  : Bool
  ns    : List Nat
  masks : List Nat
  deriving DecidableEq, Repr

/-- The catalogue: code, entry, command. -/
def catalogue : Nat → Option (Form × Cmd)
  | 0x01 => some (⟨.all, false, [0], []⟩, cmdIdentify)
  | 0x02 => some (⟨.all, false, [0], []⟩, cmdFwStatus)
  | 0x03 => some (⟨.all, false, [4], [0xFFFFFFFF, 0xFFFFFFFF, 0xFFFFFFFF, 0x1FF]⟩, cmdLogRead)
  | 0x04 => some (⟨.all, true, [1], [1]⟩, cmdDeviceReset)
  | 0x05 => some (⟨.all, true, [0], []⟩, cmdAbortToBoot)
  | 0x10 => some (⟨.rom, true, [1], []⟩, cmdFwBegin)
  | 0x11 => some (⟨.rom, true, [1], []⟩, cmdFwCommit)
  | 0x20 => some (⟨.fw, true, [1], [0xF]⟩, cmdModeSet)
  | 0x21 => some (⟨.fw, true, [2, 3, 4, 5], [0xF]⟩, cmdDeviceSet)
  | 0x22 => some (⟨.fw, true, [1], [0x7F7F]⟩, cmdSetSplit)
  | 0x30 => some (⟨.fw, true, [5], [0x3FFFFF]⟩, cmdRingCreate)
  | 0x40 => some (⟨.session, true, [11], []⟩, cmdTitleRegister)
  | 0x41 => some (⟨.session, true, [1], []⟩, cmdTitleRemove)
  | 0x42 => some (⟨.session, true, [4], []⟩, cmdPageSupply)
  | 0x50 => some (⟨.session, true, [2], [0x1FFFF]⟩, cmdStallCreate)
  | 0x51 => some (⟨.session, false, [1, 3], [0x1FFF]⟩, cmdStallStart)
  | 0x52 => some (⟨.session, true, [1], [0xFFF]⟩, cmdStallPark)
  | 0x53 => some (⟨.session, true, [1], [0xFFF]⟩, cmdStallResume)
  | 0x54 => some (⟨.session, true, [1], [0xFFF]⟩, cmdStallReset)
  | 0x55 => some (⟨.session, true, [1, 2], [0xFFFF, 0xFFFF]⟩, cmdStallSet)
  | 0x56 => some (⟨.session, true, [1], [0xFFFF]⟩, cmdStallMove)
  | 0x57 => some (⟨.session, true, [1], [0xFFF]⟩, cmdStallDestroy)
  | 0x58 => some (⟨.fw, false, [1], [0xFFF]⟩, cmdStallQuery)
  | 0x59 => some (⟨.session, true, [1], [0x7FFFF]⟩, cmdSubchAssign)
  | 0x5A => some (⟨.session, true, [2, 3], [0x7FFF, 0xFFFFFFFF, 7]⟩, cmdLinkPeer)
  | 0x5B => some (⟨.session, true, [1], [0x1FFF]⟩, cmdResumeFromCheckpoint)
  | 0x60 => some (⟨.session, true, [5], [0x3FFF, 0xFFFFFFFF, 0x1FFFFFF]⟩, cmdStreamConfig)
  | 0x61 => some (⟨.session, true, [3], [0x3FFF]⟩, cmdStreamNet)
  | 0x62 => some (⟨.session, true, [9], [0x1FFFF]⟩, cmdCourseSet)
  | 0x63 => some (⟨.session, true, [5], [0x1FFFF]⟩, cmdRegionSet)
  | 0x64 => some (⟨.session, true, [1], [0x3FFF]⟩, cmdStreamCommit)
  | 0x65 => some (⟨.session, true, [1], [0x3FFF]⟩, cmdStreamKeyframe)
  | 0x66 => some (⟨.fw, false, [1], [0x3FFF]⟩, cmdStreamQuery)
  | 0x67 => some (⟨.session, true, [1], [0x3FFF]⟩, cmdStreamDestroy)
  | 0x70 => some (⟨.session, true, [6], [0x3FFFFFF, 0xFFFF]⟩, cmdLaneConfig)
  | 0x71 => some (⟨.session, true, [2], [0xFFF]⟩, cmdLaneOpwr)
  | 0x72 => some (⟨.session, true, [4], [0x1FFF]⟩, cmdGraphLoad)
  | 0x80 => some (⟨.fw, false, [14], [0x1FFFF]⟩, cmdKeySet)
  | 0x81 => some (⟨.session, true, [3], [0x3FFF]⟩, cmdFlowSet)
  | 0x82 => some (⟨.session, true, [1], [0x3FFF]⟩, cmdFlowClear)
  | 0x90 => some (⟨.fw, true, [2], [0x1FFFFF, 0x3FFFFFFF]⟩, cmdYardSet)
  | 0x91 => some (⟨.fw, true, [5], [0x3F]⟩, cmdAddrSet)
  | 0x92 => some (⟨.fw, true, [3], [0xFFF]⟩, cmdRouteSet)
  | 0xA0 => some (⟨.session, true, [3], [0xFFF, 0xFFFFF, 0xFFF]⟩, cmdMigrate)
  | 0xA1 => some (⟨.session, true, [2], [0xFFF, 1]⟩, cmdMigrateResolve)
  | 0xA2 => some (⟨.session, true, [4], [0xFFF]⟩, cmdSnapshotExport)
  | 0xA3 => some (⟨.session, true, [4], [0xFFF]⟩, cmdSnapshotImport)
  | 0xB0 => some (⟨.fw, true, [9], [0xFFF]⟩, cmdDebugToken)
  | 0xB1 => some (⟨.fw, true, [1], [0xFFF]⟩, cmdDebugRevoke)
  | _ => none

/-- The code of RING_DELETE, whose effect on jobs is told with the rings. -/
def ringDeleteCode : Nat := 0x31

/-- The modes in which each class is served (R453, R457). -/
def Modes.ok : Modes → Mode → Bool
  | .all, m => m != .off && m != .slumber
  | .rom, m => m == .boot || m == .reject
  | .fw, m => fwRuns m
  | .session, m => m == .serve || m == .serveDegraded || m == .conformance

/-- n and every reserved bit are right. -/
def Form.argsOk (f : Form) (n : Nat) (d : Nat → Nat) : Bool :=
  f.ns.contains n && (upto n).all fun k => match f.masks[k]? with | some m => d (k + 1) &&& m == d (k + 1) | none => true

/-- A basic command (R453). -/
def isBasic (code : Nat) : Bool := decide (1 ≤ code) && decide (code ≤ 5)

/-- Serve a command with its entry: MODE, then ARG, then the command's own errors (R456, R457). -/
def serveForm (f : Form) (c : Cmd) (ring : Bool) (e : Outer) (d : Nat → Nat) (n : Nat) (s : State) : State × Resp :=
  if !f.modes.ok s.mode then (s, .err eMODE)
  else if (ring && !f.ring) || !f.argsOk n d then (s, .err eARG)
  else c e d n s

/-- Serve a command of the catalogue. -/
def serve (code : Nat) (ring : Bool) (e : Outer) (d : Nat → Nat) (n : Nat) (s : State) : State × Resp :=
  match catalogue code with
  | some (f, c) => serveForm f c ring e d n s
  | none => (s, .err eUNKNOWN)

/-- What follows the response: SLUMBER is entered (R458, R490). -/
def afterServe (code : Nat) (d : Nat → Nat) (r : Resp) (s : State) : State :=
  if code = 0x20 ∧ d 1 = 1 ∧ r.status = 0 then s.enterSlumber else s

/-- A request whose MAJOR is not 3 names a command outside the basic set (R453). -/
def State.badMajor (s : State) : Bool := s.reqMajor != 3 && !isBasic s.reqCode

/-- The dwords of the request. -/
def State.reqDwords (s : State) : Nat → Nat := fun k => if k ≤ s.reqN then s.reqD k else 0

/-- What the outside gives a command while the link is up. -/
def State.outer (s : State) (e : Outer) : Outer := if s.linkUp then e else { e with host := none, put := false }

/-- KEY_SET and DEBUG_TOKEN: whatever the answer, the request is erased before it (R455). -/
def secretCode (code : Nat) : Bool := code == 0x80 || code == 0xB0

/-- Take the outstanding request and answer it by `run` (R421, R422, R453). The response to an accepted FW_COMMIT comes when LOAD ends. -/
def State.serveMail (s : State) (run : Outer → (Nat → Nat) → Nat → State → State × Resp) (e : Outer) : State :=
  let code := s.reqCode
  let n := s.reqN
  let d := s.reqDwords
  let bad := s.badMajor
  let (s, r) := if bad then (s.takeReq, .err eVERSION) else run (s.outer e) d n s.takeReq
  let s := if secretCode code then s.wipeRequest else s
  if code = 0x11 ∧ r.status = 0 then s else afterServe code d r (s.respond r)

/-- STALL_MOVE of a stall in a locked sequence: the stall that is to park at its end, while the request stays outstanding (R155, R164;
DESIGN CHOICE, log entry 82). -/
def State.moveWaits (s : State) (code : Nat) (ring : Bool) (d : Nat → Nat) (n : Nat) : Option Nat :=
  if code = 0x56 then
    match catalogue code with
    | some (f, _) =>
      let k := d 1 % 4096
      if f.modes.ok s.mode && (!ring || f.ring) && f.argsOk n d && s.moveHolds k (field (d 1) 12 4) then some k else none
    | none => none
  else none

/-- A command's row: firmware or the boot ROM takes the outstanding request of that code (R422). -/
def mbxCmd (code : Nat) (e : Outer) (s : State) : State :=
  if s.reqWaits ∧ s.reqCode = code then
    match if s.badMajor then none else s.moveWaits code false s.reqDwords s.reqN with
    | some k => s.park k rsnMOVE false
    | none => s.serveMail (serve code false) e
  else s

/-- UNKNOWN_COMMAND: a request whose code the catalogue does not define (R452). -/
def unknownCommand (s : State) : State :=
  if s.reqWaits ∧ (catalogue s.reqCode).isNone ∧ s.reqCode ≠ ringDeleteCode then
    s.serveMail (fun _ _ _ s => (s, .err eUNKNOWN)) { host := none, put := false, room := false, verdict := 0 }
  else s

/-- M2H_DATA0_READ: the host reads the response's header; a reset that the response announced follows (R422, R423, R458). -/
def m2hData0Read (mp0 : Bool) (s : State) : State :=
  let s := { s with rdata := s.get MBX_M2H_DATA_DATA }
  if s.get MBX_STATE_M2H_VALID = 1 then s.clearMail.dueReset mp0 else s

end Sys2Proof.Machine
end

