-- ==== Sys2Proof/Machine/Rings.lean ====
section
/-! DEFINITION. Ring pairs: doorbells, fetching, the checks of entries, jobs, completions and deliveries (R424 – R437, R464, R465). -/
namespace Sys2Proof.Machine

/-! ### Rings (R425, R432) -/

def State.setRing (s : State) (x : Ring) : State := { s with rings := s.rings.map fun y => if y.num == x.num then x else y }

def Ring.sqSize (x : Ring) : Nat := 2 ^ x.sqLog
def Ring.cqSize (x : Ring) : Nat := 2 ^ x.cqLog
def State.sqHead (s : State) (r : Nat) : Nat := s.get (ringF RNG_STATE_SQHEAD r)
def State.sqTail (s : State) (r : Nat) : Nat := s.get (ringF RNG_SQ_TAIL_TAIL r)

/-- Run `f` on a ring pair while firmware serves rings. -/
def State.onRing (s : State) (r : Nat) (f : Ring → State → State) : State :=
  if fwRuns s.mode then match s.ring? r with | some x => f x s | none => s else s

/-- A doorbell that is ignored and counted. -/
def State.dbErr (s : State) (r : Nat) : State := (s.inc RNG_DB_ERR_COUNT).put RNG_DB_ERR_RING r

/-- RNG_SQ_TAIL: a write of RNG_SQ_TAILr. -/
def rngSqTail (r tail : Nat) (s : State) : State :=
  if !doorbells s.mode ∨ 8 < r then s
  else match s.ring? r with
    | none => s.dbErr r
    | some x =>
      if x.sqSize ≤ tail % 4096 then s.dbErr r
      else (s.put (ringF RNG_SQ_TAIL_TAIL r) tail).setRing { x with fetching := true }

/-- RNG_CQ_HEAD: a write of RNG_CQ_HEADr (R434). -/
def rngCqHead (r head : Nat) (s : State) : State :=
  if !doorbells s.mode ∨ 8 < r then s
  else match s.ring? r with
    | none => s.dbErr r
    | some x =>
      if x.cqSize ≤ head % 4096 then s.dbErr r
      else (s.put (ringF RNG_CQ_HEAD_HEAD r) head).setRing { x with armed := true }

/-- SQ_REPOLL: 100 µs after fetching stopped. -/
def sqRepoll (r : Nat) (s : State) : State := s.onRing r fun x s =>
  if !x.fetching ∧ s.sqHead r ≠ s.sqTail r ∧ x.pollAt + 100000 ≤ s.time then s.setRing { x with fetching := true } else s

/-! ### Entries (R427 – R430, R436) -/

def eOp (e : Bytes) : Nat := leAt e 0 1
def eFirst (e : Bytes) : Bool := bitAt (leAt e 1 1) 0
def eLast (e : Bytes) : Bool := bitAt (leAt e 1 1) 1
def eFence (e : Bytes) : Bool := bitAt (leAt e 1 1) 2
def eTag (e : Bytes) : Nat := leAt e 2 2
def eParam (e : Bytes) : Nat := leAt e 4 8

/-- Elements of an entry: address, LEN, reserved bytes. -/
def eElems (e : Bytes) : List (Nat × Nat × Nat) := (upto 3).map fun i => (leAt e (12 + 16 * i) 8, leAt e (20 + 16 * i) 4, leAt e (24 + 16 * i) 4)

/-- Elements that move bytes. -/
def eUsed (e : Bytes) : List (Nat × Nat) := ((eElems e).filter fun x => x.2.1 != 0).map fun x => (x.1, x.2.1)

/-- An opcode whose bytes 12 – 59 are elements. -/
def hasElems (op : Nat) : Bool := op == 0x10 || op == 0x11 || op == 0x12 || op == 0x13

/-- An opcode of R429. -/
def opListed (op : Nat) : Bool := op == 0 || op == 1 || op == 2 || hasElems op

/-- Bits of PARAM that an opcode defines (R430). -/
def paramBits (op : Nat) : Nat :=
  match op with | 1 => 20 | 2 => 14 | 0x10 => 40 | 0x11 => 40 | 0x13 => 15 | _ => 0

/-- A nonzero reserved bit, by the opcode's layout where it has one. -/
def eReserved (e : Bytes) : Bool :=
  let op := eOp e
  let zeros (o n : Nat) : Bool := (sliceBytes e o n).all fun b => b == 0
  decide (8 ≤ leAt e 1 1) || decide (0x8000 ≤ eTag e) || leAt e 61 2 != 0 || leAt e 63 1 % 128 != 0 ||
    (!eFirst e && (eParam e != 0 || eTag e != 0 || eFence e)) ||
    (opListed op && (decide (2 ^ paramBits op ≤ eParam e) ||
      (op == 0 && !zeros 4 56) ||
      (op == 1 && (let n := min 12 (field (eParam e) 16 4); !zeros (12 + 4 * n) (48 - 4 * n))) ||
      (op == 2 && !zeros 36 24) ||
      (hasElems op && (eElems e).any fun x => x.2.2 != 0)))

/-- The opcode is permitted on the ring and its CLASS (R429). -/
def opAllowed (x : Ring) (op : Nat) : Bool :=
  match op with
  | 0 => true
  | 1 => x.num == 0
  | 2 => x.num == 0
  | 0x12 => x.num != 0 && x.cls != 0
  | _ => x.num != 0 && x.cls == 0

/-- The sum of LEN over entries. -/
def lenOf (es : List Bytes) : Nat := es.foldl (fun n e => (eUsed e).foldl (fun m p => m + p.2) n) 0

/-- A LEN that is not a multiple of 64 stands before another element. -/
def raggedEarly : List (Nat × Nat) → Bool
  | [] => false
  | [_] => false
  | p :: q :: r => p.2 % 64 != 0 || raggedEarly (q :: r)

/-- LENGTH: a limit of R429 is exceeded. -/
def eTooLong (x : Ring) (e : Bytes) : Bool :=
  let op := eOp e
  let total := lenOf (x.chain ++ [e])
  ((op == 0 || op == 1 || op == 2) && !eLast e) || (op == 1 && decide (12 < field (eParam e) 16 4)) ||
    ((op == 0x10 || op == 0x11) && decide (67108864 < total)) || (op == 0x13 && decide (4096 < total)) ||
    (op == 0x12 && (eUsed e).any fun p => decide (65536 < p.2))

/-- ALIGN: an address or LEN breaks the alignment of R429. -/
def eMisaligned (x : Ring) (e : Bytes) : Bool :=
  let op := eOp e
  let us := eUsed e
  ((op == 0x10 || op == 0x11) && ((eFirst e && eParam e % 64 != 0) || us.any (fun p => p.1 % 64 != 0) ||
      raggedEarly ((x.chain ++ [e]).flatMap eUsed))) ||
    (op == 0x12 && us.any fun p => p.1 % 64 != 0 || p.2 % 64 != 0)

/-- The open job has another opcode. -/
def otherOp (x : Ring) (op : Nat) : Bool := match x.chain with | h :: _ => eOp h != op | [] => false

/-- The first reason for which an entry is malformed, 0 none (R436). -/
def entryFault (x : Ring) (e : Bytes) : Nat :=
  let op := eOp e
  if (e.foldl (fun n b => n + b.toNat) 0) % 256 ≠ 0 then 1
  else if eReserved e then 2
  else if !opListed op || !opAllowed x op || (!eFirst e && otherOp x op) then 3
  else if !eFirst e ∧ x.chain.isEmpty then 4
  else if eFirst e ∧ !x.chain.isEmpty then 5
  else if 16 ≤ x.chain.length then 6
  else if eTooLong x e then 7
  else if eMisaligned x e then 8
  else 0

/-- The job of a whole chain. -/
def jobOf (es : List Bytes) : Job :=
  let h := es.headD []
  { tag := eTag h % 32768, fence := eFence h, op := eOp h, param := eParam h, data := sliceBytes h 12 48
    elems := if hasElems (eOp h) then es.flatMap eUsed else [], phase := .queued, open_ := false, moved := 0, since := 0 }

/-- Take an entry: it joins the open job, or completes it (R428, R432). -/
def State.takeEntry (s : State) (x : Ring) (e : Bytes) : State :=
  let es := x.chain ++ [e]
  let x := if eLast e then { x with chain := [], jobs := x.jobs ++ [jobOf es] } else { x with chain := es }
  let h := s.sqHead x.num + 1
  let s := (s.setRing x).put (ringF RNG_STATE_OPEN x.num) (b2n (!x.chain.isEmpty))
  if h = x.sqSize then
    s.puts [(ringF RNG_STATE_SQHEAD x.num, 0), (ringF RNG_STATE_SQPHASE x.num, 1 - s.get (ringF RNG_STATE_SQPHASE x.num))]
  else s.put (ringF RNG_STATE_SQHEAD x.num) h

/-- SQ_ENTRY_FETCH: the entry at SQHEAD as host memory gives it (R432, R436, R437). -/
def sqEntryFetch (r : Nat) (entry : Option Bytes) (s : State) : State := s.onRing r fun x s =>
  if !x.fetching ∨ !s.linkUp then s
  else if s.sqHead r = s.sqTail r then s.setRing { x with fetching := false }
  else match entry with
    | none => s.setRing { x with fetching := false, pollAt := s.time }
    | some bs =>
      let e := sliceBytes bs 0 64
      if field (leAt e 63 1) 7 1 ≠ s.get (ringF RNG_STATE_SQPHASE r) then s.setRing { x with fetching := false, pollAt := s.time }
      else match entryFault x e with
        | 0 => s.takeEntry x e
        | n => s.failStop n r (s.sqHead r) e

/-! ### Jobs (R430, R433 – R435) -/

/-- The CQ has no room. -/
def State.cqFull (s : State) (x : Ring) : Bool :=
  (s.get (ringF RNG_STATE_CQTAIL x.num) + 1) % x.cqSize == s.get (ringF RNG_CQ_HEAD_HEAD x.num)

/-- Bytes of a job. -/
def Job.length (j : Job) : Nat := j.elems.foldl (fun n p => n + p.2) 0

/-- A byte of a device range is unbacked (R358). -/
def anyUnbacked (a n : Nat) : Bool :=
  decide (a < 0x1000000000 ∧ 0xC00000000 < a + n) || decide (a < 0x8000000000 ∧ 0x1004000000 < a + n) || decide (0x10000000000 < a + n)

/-- The first check of R435 that a job fails, 0 none. -/
def State.jobStatus (s : State) (j : Job) : Nat :=
  match j.op with
  | 2 => if !s.split spINPUT then 5 else if (s.stall? (j.param / 4)).isNone then 4 else 0
  | 0x13 => match s.stall? (j.param % 4096) with
    | none => 4
    | some st =>
      let x := st.sub (j.param / 4096)
      if x.ty ≠ dHOSTIO then 4 else if 4096 < x.rx.length + j.length then 6 else 0
  | 0x10 => rangeStatus true
  | 0x11 => rangeStatus false
  | _ => 0
where
  rangeStatus (toDev : Bool) : Nat :=
    let n := max 1 j.length
    if anyUnbacked j.param n then 3
    else if !s.granted (s.get RNG_GRANT_SHEDS) j.param n ∨ (toDev ∧ s.sealed j.param n) then 2
    else 0

/-- Change the first job of a list of which `p` holds. -/
def onFirst (p : Job → Bool) (f : Job → Job) : List Job → List Job
  | [] => []
  | j :: r => if p j then f j :: r else j :: onFirst p f r

/-- End a job with a status and a result. -/
def Job.end_ (j : Job) (status result : Nat) : Job := { j with phase := .done status result, open_ := false }

def Job.queued (j : Job) : Bool := match j.phase with | .queued => true | _ => false
def Job.running (j : Job) : Bool := match j.phase with | .running => true | _ => false
def Job.ended (j : Job) : Bool := match j.phase with | .done _ _ => true | _ => false

/-- JOB_START: the first job not started, once its FENCE and the CQ allow (R433 – R435). -/
def jobStart (r : Nat) (s : State) : State := s.onRing r fun x s =>
  match x.jobs.find? Job.queued with
  | none => s
  | some j =>
    let first := match x.jobs with | h :: _ => h.queued | [] => false
    if s.cqFull x ∨ 64 ≤ (x.jobs.filter Job.running).length ∨ (j.fence ∧ !first) then s
    else
      let st := s.jobStatus j
      let go (j : Job) : Job :=
        if st ≠ 0 then j.end_ st 0
        else if hasElems j.op ∧ j.length = 0 then j.end_ 0 0
        else { j with phase := .running }
      s.setRing { x with jobs := onFirst Job.queued go x.jobs }

/-- Run `f` on the oldest running job of an opcode; `f` gives the job after it and the state. -/
def State.onJob (s : State) (r op : Nat) (f : Job → State → Job × State) : State := s.onRing r fun x s =>
  let p (j : Job) : Bool := j.running && j.op == op
  match x.jobs.find? p with
  | none => s
  | some j =>
    let (j', s) := f j s
    match s.ring? r with
    | some x => s.setRing { x with jobs := onFirst p (fun _ => j') x.jobs }
    | none => s

/-- RING_NOP (R429). -/
def ringNop (r : Nat) (s : State) : State := s.onJob r 0 fun j s => (j.end_ 0 0, s)

/-- LATCH_INPUT (R37, R430). -/
def latchInputJob (s : State) : State := s.onJob 0 2 fun j s =>
  (j.end_ 0 0, s.latchInput (j.param / 4) (j.param % 4) (leAt j.data 16 8) (sliceBytes j.data 0 16))

/-- The element in which the next byte of a job lies, and the offset within it. -/
def elemAt : List (Nat × Nat) → Nat → Option (Nat × Nat × Nat)
  | [], _ => none
  | (a, n) :: r, off => if off < n then some (a, n, off) else elemAt r (off - n)

/-- Count n bytes moved of an element of which `want` were left: fewer is a failed access, and the last element ends the job. -/
def Job.advance (j : Job) (n want : Nat) : Job :=
  let j := { j with moved := j.moved + n }
  if n < want then j.end_ 7 j.moved else if j.length ≤ j.moved then j.end_ 0 j.moved else j

/-- TO_DEVICE: the job's next element; `data` is what host memory gave, fewer bytes than LEN where an access failed. -/
def toDevice (r : Nat) (data : Bytes) (s : State) : State := s.onJob r 0x10 fun j s =>
  match elemAt j.elems j.moved with
  | none => (j.end_ 0 j.moved, s)
  | some (_, n, off) =>
    if !s.memServes then (j, s) else
    let bs := if s.linkUp then data.take (n - off) else []
    (j.advance bs.length (n - off), s.devPut (j.param + j.moved) bs)

/-- FROM_DEVICE: the job's next element; `taken` is how many bytes host memory took. -/
def fromDevice (r taken : Nat) (s : State) : State := s.onJob r 0x11 fun j s =>
  match elemAt j.elems j.moved with
  | none => (j.end_ 0 j.moved, s)
  | some (a, n, off) =>
    if !s.memServes then (j, s) else
    let k := if s.linkUp then min taken (n - off) else 0
    (j.advance k (n - off), s.hostWrite (a + off) (s.devBytes (j.param + j.moved) k))

/-- RX_BUFFER: a started job offers its buffers. -/
def rxBuffer (r : Nat) (s : State) : State := s.onRing r fun x s =>
  s.setRing { x with jobs := onFirst (fun j => j.running && j.op == 0x12 && !j.open_) (fun j => { j with open_ := true }) x.jobs }

/-- HOSTIO_TX: the job's bytes, whole; none: a host-memory access failed (R306, R323, R430). -/
def hostioTx (r : Nat) (data : Option Bytes) (s : State) : State := s.onJob r 0x13 fun j s =>
  match data, s.stall? (j.param % 4096) with
  | some bs, some st =>
    let i := j.param / 4096
    let x := st.sub i
    let bs := sliceBytes bs 0 j.length
    if !s.linkUp then (j.end_ 7 0, s.hostioFail st.num i)
    else if x.ty ≠ dHOSTIO then (j.end_ 4 0, s)
    else if 4096 < x.rx.length + bs.length then (j.end_ 6 0, s)
    else
      let compl := if x.phase = .waiting ∧ x.rx.isEmpty then st.tick else x.compl
      (j.end_ 0 bs.length, s.setStall (st.setSub i { x with rx := x.rx ++ bs, compl }))
  | none, _ => (j.end_ 7 0, s.hostioFail (j.param % 4096) (j.param / 4096))
  | _, none => (j.end_ 4 0, s)

/-! ### Completions (R434) -/

/-- A completion entry. -/
def completionEntry (x : Ring) (j : Job) (status result sqhead phase : Nat) : Bytes :=
  leBytes 2 j.tag ++ leBytes 1 status ++ leBytes 1 x.num ++ leBytes 4 result ++ leBytes 2 sqhead ++ List.replicate 5 0 ++ leBytes 1 (128 * phase)

/-- Write the completion entry of a job, with the vector where it is armed. -/
def State.complete (s : State) (x : Ring) (j : Job) (status result : Nat) : State :=
  let t := s.get (ringF RNG_STATE_CQTAIL x.num)
  let ph := s.get (ringF RNG_STATE_CQPHASE x.num)
  let s := if s.linkUp then s.hostWrite (x.cqBase + 16 * t) (completionEntry x j status result (s.sqHead x.num) ph) else s
  let s := if t + 1 = x.cqSize then s.puts [(ringF RNG_STATE_CQTAIL x.num, 0), (ringF RNG_STATE_CQPHASE x.num, 1 - ph)]
    else s.put (ringF RNG_STATE_CQTAIL x.num) (t + 1)
  if x.armed then s.msix x.vec else s

/-- Write the completion entry of the first job that has ended. -/
def State.completeNext (s : State) (r : Nat) : State :=
  match s.ring? r with
  | none => s
  | some x => match x.jobs.find? Job.ended with
    | some j => match j.phase with
      | .done status result =>
        if s.cqFull x then s
        else (s.complete x j status result).setRing { x with armed := false, jobs := x.jobs.erase j }
      | _ => s
    | none => s

/-- JOB_COMPLETE. -/
def jobComplete (r : Nat) (s : State) : State := s.onRing r fun _ s => s.completeNext r

/-- RING_DELETE's effect: jobs end ABORTED with their entries while there is room, and the pair is gone (R426, R445). -/
def State.deleteRing (s : State) (x : Ring) : State :=
  let end_ (j : Job) : Job := if j.ended then j else j.end_ 8 j.moved
  let s := s.setRing { x with jobs := x.jobs.map end_ }
  let s := (x.jobs.map (·.tag)).foldl (fun s _ => s.completeNext x.num) s
  { s.resetRange (0x1000 + 16 * x.num) (0x1010 + 16 * x.num) with rings := s.rings.filter fun y => y.num != x.num }

/-- RING_DELETE (R426). -/
def cmdRingDelete : Cmd := fun _ d _ s =>
  match s.ring? (d 1) with
  | none => (s, .err eNOT_FOUND)
  | some x => (s.deleteRing x, .ok)

def ringDeleteForm : Form := ⟨.fw, true, [1], [0xF]⟩

/-- RING_DELETE's row. -/
def ringDelete (e : Outer) (s : State) : State :=
  if s.reqWaits ∧ s.reqCode = ringDeleteCode then s.serveMail (serveForm ringDeleteForm cmdRingDelete false) e else s

/-! ### CONTROL (R430, R454) -/

/-- The dwords of a CONTROL job: ARG0 – ARG11 stand for D1 – D12. -/
def Job.args (j : Job) (k : Nat) : Nat := if 1 ≤ k ∧ k ≤ 12 then leAt j.data (4 * (k - 1)) 4 else 0

/-- RING_CONTROL: the admin ring's oldest running CONTROL job performs its command. -/
def ringControl (e : Outer) (s : State) : State :=
  if s.mpHalted then s
  else s.onRing 0 fun x s =>
    let p (j : Job) : Bool := j.running && j.op == 1
    match x.jobs.find? p with
    | none => s
    | some j =>
      let code := j.param % 65536
      let n := field j.param 16 4
      match s.moveWaits code true j.args n with
      | some k => s.park k rsnMOVE false
      | none =>
      let run := if code = ringDeleteCode then serveForm ringDeleteForm cmdRingDelete true else serve code true
      let (s, res) := run (s.outer e) j.args n s
      let status := if res.status = 0 then 0 else 1
      let result := if res.status = 0 then res.data.headD 0 else res.status
      let s := match s.ring? 0 with
        | some x => s.setRing { x with jobs := onFirst p (fun j => j.end_ status result) x.jobs }
        | none => s
      if code = 0x20 ∧ res.status = 0 ∧ j.args 1 = 1 then (s.completeNext 0).enterSlumber else s

/-! ### Deliveries (R464, R465) -/

/-- A delivery as host memory receives it. -/
def Delivery.bytes (d : Delivery) : Bytes :=
  let b := leBytes 1 d.cls ++ leBytes 1 0 ++ leBytes 2 d.id ++ leBytes 4 d.data.length ++ leBytes 8 d.time ++ d.data
  b ++ List.replicate ((64 - b.length % 64) % 64) 0

/-- Write bytes through the elements of a job from an offset. -/
def State.scatter (s : State) : List (Nat × Nat) → Nat → Bytes → State
  | [], _, _ => s
  | (a, n) :: r, off, bs =>
    if bs.isEmpty then s
    else if n ≤ off then s.scatter r (off - n) bs
    else (s.hostWrite (a + off) (bs.take (n - off))).scatter r 0 (bs.drop (n - off))

/-- RING_DELIVERY, where a failed host-memory transfer ends the HOSTIO program (R323): the first captured delivery of a class goes to the class's open job, ends it, or is dropped; `put` tells whether host
memory takes it. -/
def ringDelivery (cls : Nat) (put : Bool) (s : State) : State :=
  if !fwRuns s.mode then s
  else match s.captured.find? fun d => d.cls == cls with
    | none => s
    | some d =>
      let b := d.bytes
      let s1 := { s with captured := s.captured.erase d }
      let p (j : Job) : Bool := j.running && j.open_
      match s.ringOfClass cls with
      | none => s1.dropDelivery cls
      | some x => match x.jobs.find? p with
        | none => s1.dropDelivery cls
        | some j =>
          let on (s : State) (f : Job → Job) : State := s.setRing { x with jobs := onFirst p f x.jobs }
          if j.length < b.length then s1.dropDelivery cls
          else if j.length - j.moved < b.length then on s fun j => j.end_ 0 j.moved
          else if !put ∨ !s.linkUp then
            let s2 := (on s1 fun j => j.end_ 7 j.moved).dropDelivery cls
            if cls = 6 then s2.hostioFail (d.id / 8) (d.id % 8) else s2
          else
            let m := j.moved + b.length
            on (s1.scatter j.elems j.moved b) fun j =>
              let j := { j with moved := m, since := if j.moved = 0 then s.time else j.since }
              if m = j.length then j.end_ 0 m else j

/-- RX_JOB_TIMEOUT: 500 µs after its first delivery. -/
def rxJobTimeout (r : Nat) (s : State) : State := s.onRing r fun x s =>
  let p (j : Job) : Bool := j.running && j.open_ && decide (0 < j.moved) && decide (j.since + 500000 ≤ s.time)
  s.setRing { x with jobs := onFirst p (fun j => j.end_ 0 j.moved) x.jobs }

end Sys2Proof.Machine
end

