-- ==== Sys2Proof/Machine/RegWrite.lean ====
section
/-! DEFINITION. Reads and writes of BAR0: fields by access type, the registers on whose value the device acts, the host's
permissions, and the window of BAR2 (R7, R9, R418 – R420, R423, R477, R537). -/
namespace Sys2Proof.Machine

/-! ### Fields by access type (R7) -/

/-- The access-type bits of byte o of BAR0; the decode RAM is RW (R120). -/
def typeMask (o : Nat) (ty : AccTy) : Nat :=
  if inDecodeRam o then (if ty = .rw then 255 else 0)
  else match findReg barRegs o with
    | some (d, k) => byteMask d ty k
    | none => 0

/-- Byte o as stored. -/
def State.rawByte (s : State) (o : Nat) : Nat := s.get ⟨o, 0, 8⟩

/-- Byte o after a write of the bits of `v` that the mask `m` enables: RW bits take them, W1C bits clear, W1S bits set. -/
def State.storeByte (s : State) (o v m : Nat) : State :=
  let old := s.rawByte o
  let rw := typeMask o .rw &&& m
  let w1c := typeMask o .w1c &&& m &&& v
  let w1s := typeMask o .w1s &&& m &&& v
  s.put ⟨o, 0, 8⟩ (((old ^^^ (old &&& (rw ||| w1c))) ||| (v &&& rw)) ||| w1s)

/-- The 4 bytes of dword d likewise. -/
def State.store (s : State) (d v m : Nat) : State :=
  (upto 4).foldl (fun s i => s.storeByte (d + i) (field v (8 * i) 8) (field m (8 * i) 8)) s

/-- The RC fields in byte o clear. -/
def State.clearRc (s : State) (o : Nat) : State :=
  let rc := typeMask o .rc
  let old := s.rawByte o
  if rc = 0 then s else s.put ⟨o, 0, 8⟩ (old ^^^ (old &&& rc))

/-- A bit mask of dword bits but those of a field. -/
def butBits (lo w : Nat) : Nat := (2 ^ 32 - 1) ^^^ ((2 ^ w - 1) * 2 ^ lo)

/-! ### What a write acts on -/

/-- The DBG block: register r, raw value v under mask m, merged value w; `dam` makes the access of DAM_CTL.GO (R537).
A write of DAM_CTL while GO = 1 is ignored whole: the spec says only that GO reads 1 until the access is done (DESIGN CHOICE, log entry
101). -/
def State.dbgAct (s : State) (dam : State → State) (r v m w : Nat) : State :=
  let st (s : State) : State := s.store (0xF00000 + r) v m
  if r = 0x60 then
    match v % 4 with
    | 1 => dbgNonce s
    | 2 => dbgUnlock (field v 2 2) s
    | 3 => dbgLock s
    | _ => s
  else if 0x40 ≤ r ∧ r < 0x60 then s.put ⟨0xF00000 + r, 0, 32⟩ (v &&& m ||| (s.reg32 (0xF00000 + r) &&& ((2 ^ 32 - 1) ^^^ m)))
  else if r = 4 then
    s.dbgGate r fun s => let s := s.store 0xF00004 v (m &&& butBits 1 1); if bitAt v 1 then debugCoreReset false s else s
  else if r = 0x100 then
    s.dbgGate r fun s =>
      if s.get DAM_CTL_GO = 1 then s
      else let s := s.store 0xF00100 v (m &&& butBits 31 1); if bitAt v 31 then dam s else s
  else if r = 0x200 then
    s.dbgGate r fun s =>
      let s := s.store 0xF00200 v m
      let k := w % 4096
      match field v 12 3 with
      | 1 => dbgSctlHalt k (bitAt v 15) s
      | 2 => dbgSctlResume k s
      | 3 => dbgSctlStep k s
      | 4 => dbgSctlFeed k (field w 16 3) s
      | _ => s
  else if r = 0x400 then (if bitAt m 0 then dbgFreeze (bitAt v 0) s else s)
  else if r = 0x404 then dbgMpctl (bitAt w 0) (bitAt w 1) s
  else if r = 0x500 then
    s.dbgGate r fun s =>
      let s := s.store 0xF00500 v m
      match v % 4 with
      | 1 => otpAdvance (field v 2 7) s
      | 2 => otpRevoke (field v 2 1) s
      | _ => s
  else if r = 0x700 then
    let s := s.store 0xF00700 v (m &&& butBits 0 1)
    if bitAt v 0 then cnfEnd s else s
  else if 0x708 ≤ r ∧ r < 0x714 then (if s.mode = .conformance then s else st s)
  else s.dbgGate r st

/-- A yard port enabled begins to train; disabled, it is DOWN and its paths go (R384, R385). -/
def State.portEnable (s : State) (n : Nat) (en : Bool) : State :=
  let s := s.puts [(portCtl n YRD_PORT_CTL_EN, b2n en), (portCtl n YRD_PORT_STAT_STATE, b2n en)]
  if en then s.notePorts
  else
    let s := s.dropPaths fun _ p => p.port == n
    let s := { s with nets := s.nets.map (moveOff n), heard := s.heard.filter fun h => h.port != n }
    (s.notePeers n).notePorts

/-- A stable slot's registers. -/
def State.stbAct (s : State) (d v m : Nat) : State :=
  let slot := (d - 0x100000) / 65536
  let r := (d - 0x100000) % 65536
  if inDecodeRam d then (if s.loaded slot ((r - 0x8000) / 2048) then s else s.store d v m)
  else if r = 0x7F00 then
    match field v 4 2 with
    | 1 => ucsValidate slot (v % 16) s
    | 2 => ucsRelease slot (v % 16) s
    | _ => s
  else if r = 4 then
    let s := s.store d v (m &&& 1)
    let s := if bitAt m 1 ∧ b2n (bitAt v 1) ≠ s.get (atSlot STB_CTL_DRAIN slot) then stbDrain slot (bitAt v 1) s else s
    if bitAt v 2 then stbFence slot s else s
  else s.store d v m

/-- The HOD block. -/
def State.hodAct (s : State) (d v m w : Nat) : State :=
  if d = 0x600020 then (if bitAt v 31 then hodAssign (v % 4096) (field v 12 3) (field v 15 4) s else s)
  else if d = 0x600030 then hodHgrantWrite (bitAt w 0) (field w 1 6) s
  else if 0x601000 ≤ d ∧ d < 0x601800 ∧ d % 32 = 0x10 then
    let h := (d - 0x601000) / 32
    match v % 8 with
    | 1 => hodHstart h s
    | 2 => hodHhalt h s
    | 3 => hodHresume h s
    | 4 => hodHclear h s
    | _ => s
  else s.store d v m

/-- The MOV block: BASE and SIZE are ignored while the channel is not IDLE (R337). -/
def State.movAct (s : State) (d v m w : Nat) : State :=
  if d < 0x700100 ∨ 0x700300 ≤ d then s.store d v m
  else
    let c := (d - 0x700100) / 64
    let r := d % 64
    if r ≤ 8 then
      if s.get (mFld MOV_CH_STAT_STATE c) ≠ 0 then s
      else if r = 8 then (s.store d v m).movConfig c
      else s.store d v m
    else if r = 0xC then movChPi c (w % 4096) s
    else if r = 0x14 then
      let s := s.store d v (m &&& 1)
      if bitAt v 1 then movHalt c s else s
    else s.store d v m

/-- The YRD block. -/
def State.yrdAct (s : State) (d v m w : Nat) : State :=
  if d = 0x900000 then
    let on := s.get YRD_CTL_ATTACH == 1
    let s := s.store d v (m &&& butBits 1 1)
    if !bitAt m 1 then s
    else if bitAt v 1 && !on then s.attach
    else if !bitAt v 1 && on then yrdDetach s
    else s
  else if d = 0x900020 then
    if bitAt v 16 then yrdLoad (field w 14 2) (w % 2 ^ 14) s else s.store d v m
  else if d = 0x900088 then s.ptpSet w
  else if 0x900100 ≤ d ∧ d < 0x900200 ∧ d % 32 = 0 then
    let n := (d - 0x900100) / 32
    let was := s.get (portCtl n YRD_PORT_CTL_EN) == 1
    let s := s.store d v m
    if was != bitAt w 0 then s.portEnable n (bitAt w 0) else s
  else s.store d v m

/-- The MBX and RNG blocks. -/
def State.mbxAct (s : State) (d v m w : Nat) : State :=
  if 0x100 ≤ d ∧ d < 0x140 then (if s.get MBX_STATE_H2M_BUSY = 1 then s.put MBX_STATE_OVERRUN 1 else s.store d v m)
  else if d = 0x140 then mbxDoorbell (bitAt v 0) s
  else if d = 0x208 ∨ d = 0x20C then
    let n := (d - 0x208) / 4
    let was := s.get (mpwEn n)
    let s := s.store d v m
    if was = 0 ∧ s.get (mpwEn n) = 1 then s.mpwReload n else s
  else if d = 0x210 ∨ d = 0x214 then mpwKick ((d - 0x210) / 4) (v % 256) s
  else if 0x1000 ≤ d ∧ d < 0x1090 ∧ d % 16 = 0 then rngSqTail ((d - 0x1000) / 16) (w % 4096) s
  else if 0x1000 ≤ d ∧ d < 0x1090 ∧ d % 16 = 4 then rngCqHead ((d - 0x1000) / 16) (w % 4096) s
  else s.store d v m

/-- The dword that a write of v under mask m merges to: bits not written read as stored. -/
def State.merged (s : State) (d v m : Nat) : Nat := (v &&& m) ||| (s.reg32 d &&& ((2 ^ 32 - 1) ^^^ m))

/-- A write of dword d: v where mask m enables it. -/
def State.regAct (s : State) (dam : State → State) (d v m : Nat) : State :=
  let v := v &&& m
  let w := s.merged d v m
  if d < 0x2000 then s.mbxAct d v m w
  else if d < 0x20000 then
    if 0x10030 ≤ d ∧ d < 0x10040 then evtDone ((d - 0x10030) / 4) (v % 512) s else s.store d v m
  else if d < 0x40000 then
    if d ≤ 0x20080 then gpioCfgWrite ((d - 0x20000) / 4) w s
    else if d = 0x200A4 then (s.store d v m).thermalEdges s.throttling s.tempHigh
    else s.store d v m
  else if d < 0x100000 then
    if d = 0x40000 then
      let s := s.store d v (m &&& butBits 0 1)
      if bitAt m 0 then monEnable (bitAt v 0) s else s
    else if d = 0x40020 then (if bitAt v 0 then monCommit s else s)
    else s.store d v m
  else if d < 0x210000 then s.stbAct d v m
  else if d < 0x600000 then
    if d = 0x300004 then (if bitAt v 14 then cmpCommit (v % 2 ^ 14) s else s)
    else if d = 0x50000C then (if bitAt v 13 then audSwap (v % 4096) (bitAt v 12) s else s)
    else s.store d v m
  else if d < 0x700000 then s.hodAct d v m w
  else if d < 0x800000 then s.movAct d v m w
  else if d < 0x900000 then
    if d = 0x800048 ∧ bitAt v 31 then memInval (w % 4096) (field w 12 13) (bitAt w 25) (bitAt w 26) s else s.store d v m
  else if d < 0xF00000 then s.yrdAct d v m w
  else s.dbgAct dam (d - 0xF00000) v m w

/-! ### The host's permissions (R419, R420, R477) -/

/-- A register lies in dword d. -/
def definedDword (d : Nat) : Bool := inDecodeRam d || (upto 4).any fun i => (findReg barRegs (d + i)).isSome

/-- Bits of dword d that the host may write. -/
def State.hostMask (s : State) (d : Nat) : Nat :=
  let all := 2 ^ 32 - 1
  let may : Bool :=
    if d < 0x1000 then (decide (0x100 ≤ d) && decide (d < 0x144)) || d == 0x1C4 || d == 0x20
    else if d < 0x2000 then decide (d < 0x1090) && (d % 16 == 0 || d % 16 == 4)
    else if d < 0x20000 then d == 0x10018 || d == 0x10038
    else if d < 0x40000 then false
    else if d < 0x100000 then s.monGrant
    else if d < 0x600000 then false
    else if d < 0x700000 then s.get HOD_HGRANT_HOST == 1 && decide (0x601200 ≤ d) && decide (d < 0x601800)
    else if d < 0x800000 then s.get MOV_GRANT_HOST == 1 && decide (0x700200 ≤ d) && decide (d < 0x700300)
    else decide (0xF00000 ≤ d)
  if !definedDword d || may then all
  else if d = 0x70000C ∧ s.get MOV_GRANT_HOST = 1 then all ^^^ 0xF
  else if 0x10140 ≤ d ∧ d < 0x101C0 then bits32 (d % 64 / 4) fun n => s.get (evtRoute EVT_ROUTE_TARGET n) == 2
  else 0

/-- The host's write of dword d; `denied` tells whether some of it was not permitted. -/
def State.hostAct (dam : State → State) (p : State × Bool) (d v m : Nat) : State × Bool :=
  let (s, denied) := p
  let ok := s.hostMask d
  let no := ok == 0 || decide (v &&& m &&& ((2 ^ 32 - 1) ^^^ ok) ≠ 0)
  (if ok = 0 then s else s.regAct dam d v (m &&& ok), denied || no)

/-! ### Reads -/

/-- The side effects of a read of n bytes at o, dword by dword (R7, R473). Of an RC field only the bytes read are cleared, and a byte of
the low dword of MEM_XFAULT pops its record, one of the high dword alone none (DESIGN CHOICE, log entry 95). -/
def State.readEffect (s : State) (o n d : Nat) : State :=
  let has (a : Nat) : Bool := decide (o ≤ a) && decide (a < o + n)
  if d = 0x180 then
    let (b, s) := s.draw 2
    m2hData0Read (b == 0) s
  else if 0x10020 ≤ d ∧ d < 0x10030 then evtClaim ((d - 0x10020) / 4) s
  else if d = 0x900080 then cadTimeRead s
  else if d = 0x900084 then { s with cadLatch := none }
  else if d = 0x800050 then memXfaultPop s
  else if d = 0x800054 then s
  else (upto 4).foldl (fun s i => if has (d + i) then s.clearRc (d + i) else s) s

/-- The dwords that n bytes at o touch. -/
def dwordsOf (o n : Nat) : List Nat := (upto (if n = 0 then 0 else (o + n - 1) / 4 - o / 4 + 1)).map fun i => (o / 4 + i) * 4

/-- A byte as a reader sees it: DBG registers beyond the level read 0 (R537). -/
def State.seenByte (s : State) (o : Nat) : Byte :=
  if 0xF00000 ≤ o ∧ !s.dbgReach (o / 4 * 4 - 0xF00000) then 0 else s.readByte o

/-- A read of n bytes of BAR0 with its side effects. -/
def regRead (s : State) (o n : Nat) : Bytes × State :=
  let b := (upto n).map fun i => s.seenByte (o + i)
  let s := (dwordsOf o n).foldl (fun s d => s.readEffect o n d) s
  (b, { s with rdata := ofLE b })

/-! ### Writes -/

/-- The value and mask that bytes written at o put on dword d. -/
def laneOf (o : Nat) (bs : Bytes) (d : Nat) : Nat × Nat :=
  (upto 4).foldl (fun p i =>
    if o ≤ d + i ∧ d + i < o + bs.length then (p.1 + (nthD bs (d + i - o) 0).toNat * 2 ^ (8 * i), p.2 + 255 * 2 ^ (8 * i)) else p) (0, 0)

/-- A write of bytes by firmware or by an agent with its rights. -/
def regWrite (dam : State → State) (s : State) (o : Nat) (bs : Bytes) : State :=
  (dwordsOf o bs.length).foldl (fun s d => let (v, m) := laneOf o bs d; s.regAct dam d v m) s

/-- A host write: what is not permitted is ignored, and the request counted (R420). -/
def hostWriteBar (dam : State → State) (s : State) (o : Nat) (bs : Bytes) : State :=
  let (s, denied) := (dwordsOf o bs.length).foldl (fun p d => let (v, m) := laneOf o bs d; State.hostAct dam p d v m) (s, false)
  if denied then s.deny o else s

/-- The MMIO window for an access that DAM_CTL.GO makes: a nested GO has no effect, since the access in progress holds it. -/
def mmioBase : Mmio := { rd := regRead, wr := regWrite fun s => s }

/-- The access that DAM_CTL.GO makes; `host` is what host memory answers, `unmapped` that the walk of the stall fails. -/
def damRun (host : Option Bytes) (unmapped : Bool) (s : State) : State := damAccess mmioBase host unmapped s

/-- The MMIO window for every other agent. -/
def mmio (host : Option Bytes) : Mmio := { rd := regRead, wr := regWrite (damRun host false) }

/-! ### Requests of the host and of firmware -/

/-- An accepted request: 1, 2, 4 or 8 bytes, aligned (R420). -/
def accepted (o n : Nat) : Bool := [1, 2, 4, 8].contains n && o % n == 0

/-- In BOOT, LOAD and REJECT only the MBX and DBG blocks are served (R420). -/
def served (m : Mode) (o : Nat) : Bool :=
  match m with
  | .boot | .load | .reject => decide (o < 0x1000) || decide (0xF00000 ≤ o)
  | _ => true

/-- Where the function's own space lies past BAR0: BAR4, or the configuration space (`bar` 6), and its length (R418). -/
def pciSpace (bar : Nat) : Option (Nat × Nat) := if bar = 4 then some (0x4000000, 2 ^ 16) else if bar = 6 then some (0x4010000, 2 ^ 12) else none

/-- Pending vectors that are masked no more send their message (R439). -/
def State.msixFlush (s : State) : State :=
  if s.msixLive then
    (upto 64).foldl (fun s v => if s.get (msixPend v) = 1 ∧ !s.msixMasked v then (s.put (msixPend v) 0).emit (.msix v) else s) s
  else s

/-- A write of the function's own space; D1 and D2 are no power states of the device, and once MSI-X can send again each vector with an
unclaimed source does (R417, R439, R476). -/
def pciWrite (s : State) (o : Nat) (bs : Bytes) : State :=
  let t := (dwordsOf o bs.length).foldl (fun s d => let (v, m) := laneOf o bs d
    s.store d v (if d = 0x4010044 ∧ (s.merged d v m) % 4 ∈ [1, 2] then m &&& butBits 0 2 else m)) s
  if t.msixLive && !s.msixLive then t.msixFlush.evtRearm else t.msixFlush

/-- The BARs are decoded: the function is in D0 (R417). -/
def State.decodes (s : State) : Bool := s.get PCI_POWER == 0

/-- REGISTER_WRITE: of BAR0 by the host or by firmware, or by the host of BAR2, of BAR4 or of the configuration space, which `bar` 6 names
(R417 – R420). -/
def registerWrite (byHost : Bool) (bar off : Nat) (data : Bytes) (host : Option Bytes) (unmapped : Bool) (s : State) : State :=
  if s.held ∨ !s.awake ∨ (byHost ∧ !s.linkUp) then s
  else if byHost ∧ bar ≠ 6 ∧ !s.decodes then s.emit (.pcieError true)
  else if bar = 2 ∧ byHost then
    if s.get BAR2_WIN_EN = 0 ∨ 2 ^ 24 ≤ off ∨ 2 ^ 24 < off + data.length then s
    else match devWrite (mmio host) s (s.get BAR2_WIN_BASE * 2 ^ 24 + off) data host with
      | .ok s => s
      | .error _ => s
  else if bar ≠ 0 then
    match pciSpace bar with
    | some (b, n) => if byHost ∧ off + data.length ≤ n then pciWrite s (b + off) data else s
    | none => s
  else if !accepted off data.length ∨ 2 ^ 26 ≤ off then (if byHost then s.emit (.pcieError true) else s)
  else if !served s.mode off then s
  else if byHost then hostWriteBar (damRun host unmapped) s off data
  else if mayFailStop s.mode then regWrite (damRun host unmapped) s off data
  else s

/-- RC_READ: a read of BAR0 by the host or by firmware, with its side effects unless it carries the debug attribute, or by the host of
BAR2, of BAR4 or of the configuration space; `host` is what host memory answers. A read of BAR2 that reaches no memory completes with
Unsupported Request (DESIGN CHOICE, log entry 31) (R7, R9, R417, R418, R420). -/
def rcRead (byHost debug : Bool) (bar off size : Nat) (host : Option Bytes) (s : State) : State :=
  if s.held ∨ !s.awake ∨ (byHost ∧ !s.linkUp) then s
  else if byHost ∧ bar ≠ 6 ∧ !s.decodes then s.emit (.pcieError false)
  else if bar = 2 ∧ byHost then
    if s.get BAR2_WIN_EN = 0 ∨ 2 ^ 24 < off + size then { s with rdata := 0 }
    else match devRead (mmio host) s (s.get BAR2_WIN_BASE * 2 ^ 24 + off) size host with
      | .ok (bs, s) => { s with rdata := ofLE bs }
      | .error _ => s.emit (.pcieError false)
  else if bar ≠ 0 then
    match pciSpace bar with
    | some (b, n) => if byHost ∧ off + size ≤ n then { s with rdata := ofLE ((upto size).map fun i => s.readByte (b + off + i)) } else s
    | none => s
  else if !accepted off size ∨ 2 ^ 26 ≤ off then (if byHost then s.emit (.pcieError false) else s)
  else if !served s.mode off then { s with rdata := 0 }
  else if debug then { s with rdata := ofLE ((upto size).map fun i => s.seenByte (off + i)) }
  else (regRead s off size).2

/-! ### The TAP's DBGREG (R518) -/

/-- DBGREG with the access that a write of DAM_CTL.GO makes. -/
def tapDbgregCmd (off data : Nat) (write : Bool) (host : Option Bytes) (unmapped : Bool) (s : State) : State :=
  tapDbgreg (fun o v s => s.regAct (damRun host unmapped) o v (2 ^ 32 - 1)) off (data % 2 ^ 32) write s

end Sys2Proof.Machine
end

