-- ==== Sys2Proof/Machine/BusCmds.lean ====
section
/-! DEFINITION. The meanings of the rows that move data over the device physical address space, of the yard and its migrations, and of register accesses. -/
namespace Sys2Proof.Machine

/-- A host program moves one unit (R326 – R330). -/
def execHodHostUnit (h : Nat) (host : Option Bytes) (fault : Bool) (s : State) : Answer := .next (hodHostUnit (mmio host) h host fault s)

/-- A DMA descriptor: its start, or its next burst (R340, R341). -/
def execDma (ch : Nat) (host : Option Bytes) (s : State) : Answer := .next (movCmd (mmio host) [1] ch host s)

/-- A PLANE_PACK descriptor (R344). -/
def execPlanePack (ch : Nat) (host : Option Bytes) (s : State) : Answer := .next (movCmd (mmio host) [2] ch host s)

/-- A PLANE_UNPACK descriptor (R344). -/
def execPlaneUnpack (ch : Nat) (host : Option Bytes) (s : State) : Answer := .next (movCmd (mmio host) [3] ch host s)

/-- An INTERLEAVE descriptor (R344). -/
def execInterleave (ch : Nat) (host : Option Bytes) (s : State) : Answer := .next (movCmd (mmio host) [4] ch host s)

/-- A DEINTERLEAVE descriptor (R344). -/
def execDeinterleave (ch : Nat) (host : Option Bytes) (s : State) : Answer := .next (movCmd (mmio host) [5] ch host s)

/-- A FILL descriptor (R345). -/
def execFill (ch : Nat) (host : Option Bytes) (s : State) : Answer := .next (movCmd (mmio host) [0x10] ch host s)

/-- A BCOPY descriptor (R345). -/
def execBcopy (ch : Nat) (host : Option Bytes) (s : State) : Answer := .next (movCmd (mmio host) [0x11] ch host s)

/-- A BCONVERT descriptor (R345, R349). -/
def execBconvert (ch : Nat) (host : Option Bytes) (s : State) : Answer := .next (movCmd (mmio host) [0x12] ch host s)

/-- A peer is declared unreachable (R408). -/
def execPeerUnreachable (yard : Nat) (s : State) : Answer := .next (peerUnreachable yard s)

/-- A Sync exchange with the PTP master (R401). -/
def execPtpSync (offset : Int) (s : State) : Answer := .next (ptpSync offset s)

/-- The PTP master is lost (R401). -/
def execPtpHoldover (s : State) : Answer := .next (ptpHoldover s)

/-- A write of YRD_CTL.ATTACH = 0 (R415). -/
def execYrdDetach (s : State) : Answer := .next (yrdDetach s)

/-- The source parks the stall at its migration boundary (R412). -/
def execMigrationPark (stall : Nat) (s : State) : Answer := .next (migrationPark stall s)

/-- The target tells the source whether it is ready (R412, R413). -/
def execMigrateReady (source : Bool) (stall : Nat) (yard : Nat) (verdict : Nat) (snap : Bytes) (room : Bool) (image : Option Bytes) (s : State) : Answer :=
  .next (migrateReady source stall yard verdict snap room image s)

/-- The source commits the migration (R412). -/
def execMigrateCommit (stall : Nat) (s : State) : Answer := .next (migrateCommit stall s)

/-- The source takes the acknowledgement of the COMMIT (R412, R414). -/
def execCommitAck (stall : Nat) (s : State) : Answer := .next (commitAck stall s)

/-- A read of CAD_TIME_LO (R416). -/
def execCadTimeRead (s : State) : Answer := .next (cadTimeRead s)

/-- A read of MBX_M2H_DATA0 (R422, R423). -/
def execM2hData0Read (mp0 : Bool) (s : State) : Answer := .next (m2hData0Read mp0 s)

/-- A request with an undefined command code (R452). -/
def execUnknownCommand (s : State) : Answer := .next (unknownCommand s)

/-- A write of a register acts by the access types of its fields (R7, R420). -/
def execRegisterWrite (byHost : Bool) (bar : Nat) (off : Nat) (data : Bytes) (host : Option Bytes) (unmapped : Bool) (s : State) : Answer := .next (registerWrite byHost bar off data host unmapped s)

/-- A read of a register returns its value and clears its RC fields (R7, R9). -/
def execRcRead (byHost : Bool) (debug : Bool) (bar : Nat) (off : Nat) (size : Nat) (host : Option Bytes) (s : State) : Answer :=
  .next (rcRead byHost debug bar off size host s)

end Sys2Proof.Machine
end

