-- ==== Sys2Proof/Machine/DebugCmds.lean ====
section
/-! DEFINITION. The meanings of the rows on debug, OTP, the TAP and Conformance mode. -/
namespace Sys2Proof.Machine

/-- A write of DBG_UNLOCK with OP = NONCE (R509). -/
def execDbgNonce (s : State) : Answer := .next (dbgNonce s)

/-- A write of DBG_UNLOCK with OP = UNLOCK (R509, R510). -/
def execDbgUnlock (level : Nat) (s : State) : Answer := .next (dbgUnlock level s)

/-- A write of DBG_UNLOCK with OP = LOCK (R510). -/
def execDbgLock (s : State) : Answer := .next (dbgLock s)

/-- 10 s after it was drawn a nonce expires (R509). -/
def execNonceExpiry (s : State) : Answer := .next (nonceExpiry s)

/-- A write of DAM_CTL.GO (R520). -/
def execDamAccess (host : Option Bytes) (unmapped : Bool) (s : State) : Answer := .next (damRun host unmapped s)

/-- The stall-side access of the DAM at a boundary (R521). -/
def execDamStallAccess (unmapped : Bool) (s : State) : Answer := .next (damStallAccess unmapped s)

/-- DBG_SCTL HALT (R523). -/
def execDbgSctlHalt (stall : Nat) (force : Bool) (s : State) : Answer := .next (dbgSctlHalt stall force s)

/-- DBG_SCTL RESUME (R525). -/
def execDbgSctlResume (stall : Nat) (s : State) : Answer := .next (dbgSctlResume stall s)

/-- DBG_SCTL STEP (R525). -/
def execDbgSctlStep (stall : Nat) (s : State) : Answer := .next (dbgSctlStep stall s)

/-- DBG_SCTL FEED (R526). -/
def execDbgSctlFeed (stall : Nat) (flen : Nat) (s : State) : Answer := .next (dbgSctlFeed stall flen s)

/-- A write of DBG_FREEZE (R529). -/
def execDbgFreeze (freeze : Bool) (s : State) : Answer := .next (dbgFreeze freeze s)

/-- A write of DBG_MPCTL (R530). -/
def execDbgMpctl (halt0 : Bool) (halt1 : Bool) (s : State) : Answer := .next (dbgMpctl halt0 halt1 s)

/-- OTP_CMD ADVANCE (R516). -/
def execAdvance (epoch : Nat) (s : State) : Answer := .next (otpAdvance epoch s)

/-- OTP_CMD REVOKE (R516). -/
def execRevoke (key : Nat) (s : State) : Answer := .next (otpRevoke key s)

/-- A debug core reset (R519). -/
def execDebugCoreReset (tap : Bool) (s : State) : Answer := .next (debugCoreReset tap s)

/-- A write of CNF_CTL.END (R531). -/
def execCnfEnd (s : State) : Answer := .next (cnfEnd s)

/-- The TAP instruction IDCODE (R518). -/
def execIdcode (s : State) : Answer := .next (tapIdcode s)

/-- The TAP instruction SAMPLE⁄PRELOAD (R518). -/
def execSamplePreload (s : State) : Answer := .next (tapSample s)

/-- The TAP instruction EXTEST (R518). -/
def execExtest (s : State) : Answer := .next (tapExtest s)

/-- The TAP instruction CLAMP (R518). -/
def execClamp (s : State) : Answer := .next (tapClamp s)

/-- The TAP instruction HIGHZ (R518). -/
def execHighz (s : State) : Answer := .next (tapHighz s)

/-- The TAP instruction DBGREG (R518, R537). -/
def execDbgreg (off : Nat) (data : Nat) (write : Bool) (host : Option Bytes) (unmapped : Bool) (s : State) : Answer := .next (tapDbgregCmd off data write host unmapped s)

/-- The TAP instruction BYPASS (R518). -/
def execBypass (s : State) : Answer := .next (tapBypass s)

end Sys2Proof.Machine
end

