-- ==== Sys2Proof/Machine/StallCmds.lean ====
section
/-! DEFINITION. The meanings of the rows of the stalls' own events and of their scheduling. -/
namespace Sys2Proof.Machine

/-- The raster unit has reached the tick of a held read of VID_COLL or VID_STAT (R31). -/
def execCatchUpRead (stall : Nat) (s : State) : Answer := .next (catchUpRead stall s)

/-- The stamp queue has room again and the held writer resumes (R29). -/
def execStampQueueRelease (stall : Nat) (s : State) : Answer := .next (stampQueueRelease stall s)

/-- An access finds an entry of the page table that fails a check of R372; the entry as read and the page of the image are given. -/
def execTranslationFault (stall : Nat) (index : Nat) (entry : Nat) (agent : Nat) (write : Bool) (fetch : Bool) (page : Nat) (s : State) : Answer := .next (translationFault stall index entry agent write fetch page s)

/-- Firmware resolves the fault on an entry, with the title page that it could obtain: the waiting accesses restart (R382). -/
def execFaultResolve (stall : Nat) (index : Nat) (page : Option Bytes) (s : State) : Answer := .next (faultResolve stall index page s)

/-- The checkpoint writer has copied a frame with K = 1 (R377). -/
def execCkptPageCopy (stall : Nat) (index : Nat) (s : State) : Answer := .next (ckptPageCopy stall index s)

/-- The vertical blank source asserts (R20). -/
def execVblAssert (stall : Nat) (s : State) : Answer := .next (vblAssert stall s)

/-- The line match source asserts (R194). -/
def execLineMatch (stall : Nat) (s : State) : Answer := .next (lineMatch stall s)

/-- A timer expires (R101). -/
def execTimerExpiry (stall : Nat) (timer : Nat) (s : State) : Answer := .next (timerExpiry stall timer s)

/-- The sound period ends (R276). -/
def execSndPeriodExpiry (stall : Nat) (s : State) : Answer := .next (sndPeriodExpiry stall s)

/-- A latched input becomes visible (R35, R36). -/
def execInputVisible (stall : Nat) (s : State) : Answer := .next (inputVisible stall s)

/-- A delivery to a subchannel becomes visible (R322). -/
def execLinkDeliveryVisible (stall : Nat) (s : State) : Answer := .next (linkDeliveryVisible stall s)

/-- A placed stall reset takes effect (R38, R485). -/
def execStallResetApply (stall : Nat) (s : State) : Answer := .next (stallResetApplyD stall s)

/-- The sequencer captures a checkpoint, or holds the stall (R160, R162). -/
def execCheckpointCapture (stall : Nat) (s : State) : Answer := .next (checkpointCaptureM stall s)

/-- The newest checkpoint is complete (R162, R163). -/
def execCheckpointComplete (stall : Nat) (s : State) : Answer := .next (checkpointCompleteM stall s)

/-- The raster unit processes one dot (R172). -/
def execRenderDot (stall : Nat) (s : State) : Answer := .next (renderDotStep stall s)

/-- A slice is handed over at its deadline, or reported late (R173). -/
def execSliceDeadline (stall : Nat) (s : State) : Answer := .next (sliceDeadlineRegions stall s)

/-- A free hot slot of a core goes to a stall (R150). -/
def execSliceGrant (slot : Nat) (core : Nat) (s : State) : Answer := .next (sliceGrant slot core s)

/-- An execution slice ends (R149). -/
def execQuantumExpiry (stall : Nat) (s : State) : Answer := .next (quantumExpiry stall s)

/-- A long hold loses its hot slot (R153). -/
def execHoldEvict (stall : Nat) (s : State) : Answer := .next (holdEvict stall s)

/-- A HELD stall becomes runnable (R153). -/
def execHoldClear (stall : Nat) (s : State) : Answer := .next (holdClear stall s)

/-- A BLOCKED stall becomes runnable at a real line boundary (R151). -/
def execBlockedRelease (stall : Nat) (s : State) : Answer := .next (blockedRelease stall s)

/-- A fault unresolved for STB_PARK_TIMEOUT parks its stall (R157). -/
def execParkTimeout (stall : Nat) (s : State) : Answer := .next (parkTimeout stall s)

/-- A write of STB_CTL.DRAIN (R156). -/
def execStbDrain (slot : Nat) (drain : Bool) (s : State) : Answer := .next (stbDrain slot drain s)

/-- A stable reset; `pass` is the result of the self-test that follows (R486). -/
def execStableReset (slot : Nat) (pass : Bool) (s : State) : Answer := .next (stableReset slot pass s)

/-- UCS_CMD with OP = VALIDATE (R118). -/
def execUcsValidate (slot : Nat) (set : Nat) (s : State) : Answer := .next (ucsValidate slot set s)

/-- UCS_CMD with OP = RELEASE (R120). -/
def execUcsRelease (slot : Nat) (set : Nat) (s : State) : Answer := .next (ucsRelease slot set s)

end Sys2Proof.Machine
end

