-- ==== Sys2Proof/Machine/FaultCmds.lean ====
section
/-! DEFINITION. The meanings of the rows on faults, memory errors, the MP cores, events and the mailbox doorbell. -/
namespace Sys2Proof.Machine

/-- A write of STB_CTL.FENCE = 1 (R166). -/
def execStbFence (slot : Nat) (s : State) : Answer := .next (stbFence slot s)

/-- A session core or raster unit fails (R496). -/
def execCoreFault (slot : Nat) (unit : Nat) (lost : Nat) (s : State) : Answer := .next (coreFault slot unit lost s)

/-- A stall store fails (R496). -/
def execStoreFault (slot : Nat) (lost : Nat) (s : State) : Answer := .next (storeFault slot lost s)

/-- Every replayed stall has reached lag 0 (R166). -/
def execTakeoverComplete (s : State) : Answer := .next (takeoverComplete s)

/-- A replayed stall reaches its fault-point TICK (R498). -/
def execFaultPointReached (stall : Nat) (s : State) : Answer := .next (faultPointReached stall s)

/-- A fault that cannot be contained (R502). -/
def execUnrecoverableFault (reason : Nat) (unit : Nat) (s : State) : Answer := .next (unrecoverableFault reason unit s)

/-- An uncorrectable HBM error (R363). -/
def execHbmUe (addr : Nat) (agent : Nat) (who : Nat) (s : State) : Answer := .next (hbmUe addr agent who s)

/-- The patrol scrubber reads a burst (R364). -/
def execScrubRead (addr : Nat) (result : Nat) (s : State) : Answer := .next (scrubRead addr result s)

/-- A write of MEM_INVAL.GO (R380). -/
def execMemInval (stall : Nat) (index : Nat) (all : Bool) (global : Bool) (s : State) : Answer := .next (memInval stall index all global s)

/-- The invalidation completes (R380). -/
def execMemInvalDone (s : State) : Answer := .next (memInvalDone s)

/-- A read of MEM_XFAULT (R381). -/
def execMemXfaultPop (s : State) : Answer := .next (memXfaultPop s)

/-- A write of MPW_KICKn (R492). -/
def execMpwKick (n : Nat) (key : Nat) (s : State) : Answer := .next (mpwKick n key s)

/-- The count of MPWn reaches 0 (R492). -/
def execMpwExpiry (n : Nat) (lost : Nat) (s : State) : Answer := .next (mpwExpiry n lost s)

/-- The active MP core fails (R494). -/
def execMpFailure (cause : Nat) (lost : Nat) (s : State) : Answer := .next (mpFailure cause lost s)

/-- One arbitration (R471). -/
def execEvtArbitration (s : State) : Answer := .next (evtArbitration s)

/-- A read of EVT_CLAIMt (R473). -/
def execEvtClaim (target : Nat) (s : State) : Answer := .next (evtClaim target s)

/-- A write of EVT_DONEt (R474). -/
def execEvtDone (target : Nat) (source : Nat) (s : State) : Answer := .next (evtDone target source s)

/-- A write of MBX_H2M_DOORBELL (R422). -/
def execMbxDoorbell (go : Bool) (s : State) : Answer := .next (mbxDoorbell go s)

end Sys2Proof.Machine
end

