-- ==== Sys2Proof/Machine/MailCmds.lean ====
section
/-! DEFINITION. The meanings of the rows of the mailbox commands. -/
namespace Sys2Proof.Machine

/-- The mailbox command IDENTIFY is taken and answered (R457). -/
def execIdentify (s : State) : Answer := .next (mbxCmd 0x01 { host := none, put := false, room := false, verdict := 0 } s)

/-- The mailbox command FW_STATUS is taken and answered (R457). -/
def execFwStatus (s : State) : Answer := .next (mbxCmd 0x02 { host := none, put := false, room := false, verdict := 0 } s)

/-- The mailbox command LOG_READ is taken and answered (R458). -/
def execLogRead (put : Bool) (s : State) : Answer := .next (mbxCmd 0x03 { host := none, put, room := false, verdict := 0 } s)

/-- The mailbox command DEVICE_RESET is taken and answered (R458). -/
def execDeviceReset (s : State) : Answer := .next (mbxCmd 0x04 { host := none, put := false, room := false, verdict := 0 } s)

/-- The mailbox command ABORT_TO_BOOT is taken and answered (R458). -/
def execAbortToBoot (s : State) : Answer := .next (mbxCmd 0x05 { host := none, put := false, room := false, verdict := 0 } s)

/-- The mailbox command FW_BEGIN is taken and answered (R447). -/
def execFwBegin (s : State) : Answer := .next (mbxCmd 0x10 { host := none, put := false, room := false, verdict := 0 } s)

/-- The mailbox command FW_COMMIT is taken and answered (R447). -/
def execFwCommit (s : State) : Answer := .next (mbxCmd 0x11 { host := none, put := false, room := false, verdict := 0 } s)

/-- The mailbox command MODE_SET is taken and answered (R458). -/
def execModeSet (s : State) : Answer := .next (mbxCmd 0x20 { host := none, put := false, room := false, verdict := 0 } s)

/-- The mailbox command DEVICE_SET is taken and answered (R459). -/
def execDeviceSet (s : State) : Answer := .next (mbxCmd 0x21 { host := none, put := false, room := false, verdict := 0 } s)

/-- The mailbox command SET_SPLIT is taken and answered (R467). -/
def execSetSplit (s : State) : Answer := .next (mbxCmd 0x22 { host := none, put := false, room := false, verdict := 0 } s)

/-- The mailbox command RING_CREATE is taken and answered (R425). -/
def execRingCreate (s : State) : Answer := .next (mbxCmd 0x30 { host := none, put := false, room := false, verdict := 0 } s)

/-- The mailbox command TITLE_REGISTER is taken and answered (R460). -/
def execTitleRegister (host : Option Bytes) (room : Bool) (s : State) : Answer := .next (mbxCmd 0x40 { host, put := false, room, verdict := 0 } s)

/-- The mailbox command TITLE_REMOVE is taken and answered (R460). -/
def execTitleRemove (s : State) : Answer := .next (mbxCmd 0x41 { host := none, put := false, room := false, verdict := 0 } s)

/-- The mailbox command PAGE_SUPPLY is taken and answered (R460). -/
def execPageSupply (host : Option Bytes) (s : State) : Answer := .next (mbxCmd 0x42 { host, put := false, room := false, verdict := 0 } s)

/-- The mailbox command STALL_CREATE is taken and answered (R461). -/
def execStallCreate (room : Bool) (s : State) : Answer := .next (mbxCmd 0x50 { host := none, put := false, room, verdict := 0 } s)

/-- The mailbox command STALL_START is taken and answered (R147). -/
def execStallStart (s : State) : Answer := .next (mbxCmd 0x51 { host := none, put := false, room := false, verdict := 0 } s)

/-- The mailbox command STALL_PARK is taken and answered (R158). -/
def execStallPark (s : State) : Answer := .next (mbxCmd 0x52 { host := none, put := false, room := false, verdict := 0 } s)

/-- The mailbox command STALL_RESUME is taken and answered (R158). -/
def execStallResume (s : State) : Answer := .next (mbxCmd 0x53 { host := none, put := false, room := false, verdict := 0 } s)

/-- The mailbox command STALL_RESET is taken and answered (R38). -/
def execStallReset (s : State) : Answer := .next (mbxCmd 0x54 { host := none, put := false, room := false, verdict := 0 } s)

/-- The mailbox command STALL_SET is taken and answered (R146). -/
def execStallSet (s : State) : Answer := .next (mbxCmd 0x55 { host := none, put := false, room := false, verdict := 0 } s)

/-- The mailbox command STALL_MOVE is taken and answered (R164). -/
def execStallMove (s : State) : Answer := .next (mbxCmd 0x56 { host := none, put := false, room := false, verdict := 0 } s)

/-- The mailbox command STALL_DESTROY is taken and answered (R461). -/
def execStallDestroy (s : State) : Answer := .next (mbxCmd 0x57 { host := none, put := false, room := false, verdict := 0 } s)

/-- The mailbox command STALL_QUERY is taken and answered (R461). -/
def execStallQuery (s : State) : Answer := .next (mbxCmd 0x58 { host := none, put := false, room := false, verdict := 0 } s)

/-- The mailbox command SUBCH_ASSIGN is taken and answered (R299). -/
def execSubchAssign (s : State) : Answer := .next (mbxCmd 0x59 { host := none, put := false, room := false, verdict := 0 } s)

/-- The mailbox command LINK_PEER is taken and answered (R409). -/
def execLinkPeer (s : State) : Answer := .next (mbxCmd 0x5A { host := none, put := false, room := false, verdict := 0 } s)

/-- The mailbox command RESUME_FROM_CHECKPOINT is taken and answered (R461). -/
def execResumeFromCheckpoint (s : State) : Answer := .next (mbxCmd 0x5B { host := none, put := false, room := false, verdict := 0 } s)

/-- The mailbox command STREAM_CONFIG is taken and answered (R237). -/
def execStreamConfig (host : Option Bytes) (s : State) : Answer := .next (mbxCmd 0x60 { host, put := false, room := false, verdict := 0 } s)

/-- The mailbox command STREAM_NET is taken and answered (R396). -/
def execStreamNet (host : Option Bytes) (s : State) : Answer := .next (mbxCmd 0x61 { host, put := false, room := false, verdict := 0 } s)

/-- The mailbox command COURSE_SET is taken and answered (R462). -/
def execCourseSet (s : State) : Answer := .next (mbxCmd 0x62 { host := none, put := false, room := false, verdict := 0 } s)

/-- The mailbox command REGION_SET is taken and answered (R462). -/
def execRegionSet (s : State) : Answer := .next (mbxCmd 0x63 { host := none, put := false, room := false, verdict := 0 } s)

/-- The mailbox command STREAM_COMMIT is taken and answered (R462). -/
def execStreamCommit (room : Bool) (s : State) : Answer := .next (mbxCmd 0x64 { host := none, put := false, room, verdict := 0 } s)

/-- The mailbox command STREAM_KEYFRAME is taken and answered (R462). -/
def execStreamKeyframe (s : State) : Answer := .next (mbxCmd 0x65 { host := none, put := false, room := false, verdict := 0 } s)

/-- The mailbox command STREAM_QUERY is taken and answered (R462). -/
def execStreamQuery (s : State) : Answer := .next (mbxCmd 0x66 { host := none, put := false, room := false, verdict := 0 } s)

/-- The mailbox command STREAM_DESTROY is taken and answered (R460). -/
def execStreamDestroy (s : State) : Answer := .next (mbxCmd 0x67 { host := none, put := false, room := false, verdict := 0 } s)

/-- The mailbox command LANE_CONFIG is taken and answered (R462). -/
def execLaneConfig (s : State) : Answer := .next (mbxCmd 0x70 { host := none, put := false, room := false, verdict := 0 } s)

/-- The mailbox command LANE_OPWR is taken and answered (R289). -/
def execLaneOpwr (s : State) : Answer := .next (mbxCmd 0x71 { host := none, put := false, room := false, verdict := 0 } s)

/-- The mailbox command GRAPH_LOAD is taken and answered (R462). -/
def execGraphLoad (host : Option Bytes) (s : State) : Answer := .next (mbxCmd 0x72 { host, put := false, room := false, verdict := 0 } s)

/-- The mailbox command KEY_SET is taken and answered (R463). -/
def execKeySet (s : State) : Answer := .next (mbxCmd 0x80 { host := none, put := false, room := false, verdict := 0 } s)

/-- The mailbox command FLOW_SET is taken and answered (R391). -/
def execFlowSet (host : Option Bytes) (s : State) : Answer := .next (mbxCmd 0x81 { host, put := false, room := false, verdict := 0 } s)

/-- The mailbox command FLOW_CLEAR is taken and answered (R391). -/
def execFlowClear (s : State) : Answer := .next (mbxCmd 0x82 { host := none, put := false, room := false, verdict := 0 } s)

/-- The mailbox command YARD_SET is taken and answered (R463). -/
def execYardSet (s : State) : Answer := .next (mbxCmd 0x90 { host := none, put := false, room := false, verdict := 0 } s)

/-- The mailbox command ADDR_SET is taken and answered (R463). -/
def execAddrSet (s : State) : Answer := .next (mbxCmd 0x91 { host := none, put := false, room := false, verdict := 0 } s)

/-- The mailbox command ROUTE_SET is taken and answered (R463). -/
def execRouteSet (host : Option Bytes) (s : State) : Answer := .next (mbxCmd 0x92 { host, put := false, room := false, verdict := 0 } s)

/-- The mailbox command MIGRATE is taken and answered (R412). -/
def execMigrate (verdict : Nat) (s : State) : Answer := .next (mbxCmd 0xA0 { host := none, put := false, room := false, verdict } s)

/-- The mailbox command MIGRATE_RESOLVE is taken and answered (R414). -/
def execMigrateResolve (s : State) : Answer := .next (mbxCmd 0xA1 { host := none, put := false, room := false, verdict := 0 } s)

/-- The mailbox command SNAPSHOT_EXPORT is taken and answered (R410). -/
def execSnapshotExport (put : Bool) (s : State) : Answer := .next (mbxCmd 0xA2 { host := none, put, room := false, verdict := 0 } s)

/-- The mailbox command SNAPSHOT_IMPORT is taken and answered (R411). -/
def execSnapshotImport (host : Option Bytes) (room : Bool) (image : Option Bytes) (s : State) : Answer :=
  .next (mbxCmd 0xA3 { host, put := false, room, verdict := 0, image } s)

/-- The mailbox command DEBUG_TOKEN is taken and answered (R511). -/
def execDebugToken (s : State) : Answer := .next (mbxCmd 0xB0 { host := none, put := false, room := false, verdict := 0 } s)

/-- The mailbox command DEBUG_REVOKE is taken and answered (R511). -/
def execDebugRevoke (s : State) : Answer := .next (mbxCmd 0xB1 { host := none, put := false, room := false, verdict := 0 } s)

end Sys2Proof.Machine
end

