-- ==== Sys2Proof/Machine/Firmware.lean ====
section
/-! DEFINITION. The end of LOAD: the checks of a package and the start of firmware, with re-adoption after WARMRST (R136, R234,
R366, R449 – R451, R504, R505, R515). -/
namespace Sys2Proof.Machine

/-! ### The package (R449, R450, R515) -/

/-- An image of a package: TYPE, EPOCH, OFFSET, LENGTH. -/
structure PkgImage where
  ty    : Nat
  epoch : Nat
  off   : Nat
  len   : Nat
  deriving DecidableEq, Repr

def pkgImages (b : Bytes) : List PkgImage := (upto 4).map fun i =>
  { ty := leAt b (32 + 16 * i) 1, epoch := leAt b (34 + 16 * i) 2, off := leAt b (36 + 16 * i) 4, len := leAt b (40 + 16 * i) 4 }

/-- No two ranges of a list overlap. -/
def rangesApart : List PkgImage → Bool
  | [] => true
  | a :: r => (r.all fun b => decide (a.off + a.len ≤ b.off) || decide (b.off + b.len ≤ a.off)) && rangesApart r

/-- The reserved bytes of the header are 0. -/
def pkgZeros (b : Bytes) : Bool :=
  let z (o n : Nat) : Bool := (sliceBytes b o n).all fun x => x == 0
  z 21 3 && z (24 + leAt b 20 1) (8 - leAt b 20 1) && ((upto 4).all fun i => z (33 + 16 * i) 1 && z (44 + 16 * i) 4) && z 108 20 && z 320 192

/-- FORMAT. -/
def pkgFormat (b : Bytes) (len : Nat) : Bool :=
  let im := pkgImages b
  leAt b 0 4 == 0x33504649 && leAt b 4 2 == 3 && leAt b 6 2 == 512 && leAt b 8 4 == len && decide (1 ≤ leAt b 20 1) && decide (leAt b 20 1 ≤ 8) &&
    ([1, 2, 3, 4].all fun t => (im.filter fun i => i.ty == t).length == 1) &&
    (im.all fun i => decide (512 ≤ i.off) && decide (i.off + i.len ≤ len - 96)) && rangesApart im && pkgZeros b

/-- SIGNATURE: either key that is not revoked verifies it. -/
def State.pkgSigned (s : State) (b : Bytes) : Bool :=
  [0, 1].any fun n => !bitAt s.otpRevoked n && Config.sigOk (Config.fwKey n) (b.take (b.length - 96)) (b.drop (b.length - 96))

/-- DIGEST. -/
def pkgDigests (b : Bytes) : Bool :=
  (pkgImages b).zipIdx.all fun p => Config.sha384 (sliceBytes b p.1.off p.1.len) == sliceBytes b (128 + 48 * p.2) 48

/-- The first check of R450 that fails, 0 none; check `poison` reads a poisoned burst (R504). -/
def State.pkgCheck (s : State) (b : Bytes) (len poison : Nat) : Nat :=
  if poison = 1 ∨ !pkgFormat b len then 1
  else if poison = 2 ∨ !s.pkgSigned b then 2
  else if poison = 3 ∨ !((sliceBytes b 24 (leAt b 20 1)).any fun x => x.toNat == s.get DEV_STEP_STEP) then 3
  else if poison = 4 ∨ leAt b 16 4 < s.otpEpoch then 4
  else if poison = 5 ∨ !pkgDigests b then 5
  else 0

/-- The EPOCH of the image of a type, and whether it lies in its range of ACCEPT. -/
def pkgEpoch (b : Bytes) (ty : Nat) : Nat × Bool :=
  let e := match (pkgImages b).find? fun i => i.ty == ty with | some i => i.epoch | none => 0
  let o := 96 + 4 * (ty - 2)
  (e, decide (leAt b o 2 ≤ e) && decide (e ≤ leAt b (o + 2) 2))

def pkgOf (b : Bytes) : Pkg :=
  let (smc, smcOk) := pkgEpoch b 2
  let (hod, hodOk) := pkgEpoch b 3
  let (enc, encOk) := pkgEpoch b 4
  { version := leAt b 12 4, epoch := leAt b 16 4, smc, hod, enc, smcOk, hodOk, encOk }

/-- Answer the FW_COMMIT that waits, if a port reset has not discarded it. -/
def State.answerCommit (s : State) (r : Resp) : State := if s.reqTaken && s.get MBX_STATE_H2M_BUSY == 1 then s.respond r else s

/-- PACKAGE_CHECK: LOAD ends (R447, R450). -/
def packageCheck (poison : Nat) (s : State) : State :=
  match s.mode, s.pkg, s.fwLen with
  | .load, none, some len =>
    let b := s.hbmBytes stagingBase len
    let s := { s with fwLen := none }
    match s.pkgCheck b len poison with
    | 0 => (({ s with pkg := some (pkgOf b) }).answerCommit .ok).put MBX_STATE_READY 0
    | n => (s.toMode .reject n).answerCommit { status := eREJECTED, data := [n] }
  | _, _, _ => s

/-! ### The start of firmware (R136, R234, R451) -/

/-- The slot that carries logical stable L, by the slots that pass self-test. -/
def startMap (slots : Nat) (l : Nat) : Option Nat :=
  if bitAt slots l then some l
  else if bitAt slots 16 ∧ (upto 16).find? (fun p => !bitAt slots p) = some l then some 16
  else none

/-- At entry to SERVE map the logical stables and set the states of the slots; without stable sequencers the device enters SERVICE and
nothing is mapped (R136, R138, R451). -/
def State.startSlots (s : State) (slots : Nat) (smc : Bool) : State :=
  let s := if !smc then (upto 16).foldl (fun s p => if bitAt slots p then s.put (atSlot STB_STATE_STATE p) 2 else s) s else (upto 16).foldl (fun s l => match startMap slots l with
    | some p => s.puts [(lmapSlot l, p), (lmapValid l, 1), (atSlot STB_STATE_STATE p, 1), (atSlot STB_STATE_LSTABLE p, l),
        (atSlot STB_STATE_MAPPED p, 1), (atSlot STB_CTL_RUN p, b2n smc), (atSlot RAS_CTL_EN p, 1), (atSlot RAS_CTL_HINT p, 1)]
    | none => s.puts [(lmapValid l, 0), (FLT_DEGRADE_STABLE_LOST, 1)]) s
  let s := if bitAt slots 16 ∧ s.get (atSlot STB_STATE_MAPPED 16) = 0 then s.put (atSlot STB_STATE_STATE 16) 2 else s
  s.spareFlag

/-- Set the states of the encoder cores and the budget. -/
def State.startCores (s : State) (cores : Nat) : State :=
  let ok := (upto 25).filter fun c => bitAt cores c
  let s := (ok.take 24).foldl (fun s c => s.put (encState c) 1) s
  let s := (ok.drop 24).foldl (fun s c => s.put (encState c) 2) s
  let n := min 24 ok.length
  let s := s.put ENC_BUDGET_TOTAL_TOTAL (10000000 * n)
  s.puts [(FLT_DEGRADE_ENC_SPARE, b2n (decide (ok.length < 25))), (FLT_DEGRADE_ENC_LOST, b2n (decide (ok.length < 24)))]

/-- What firmware enables, and the FW areas it takes (the choice is the model's): the extents of the roots and of the staging area
carry shed code FW (R504). -/
def State.startBlocks (s : State) (p : Pkg) : State :=
  let s := s.puts [(MBX_STATE_READY, 1), (MBX_STATE_ROM, 0), (MBX_STATE_MINOR, 2), (MEM_CTL_EN, 1), (MEM_CTL_XLAT, 1), (AUD_CTL_EN, 1), (MOV_CTL_EN, 1),
    (EVT_CTL_EN, 1), (YRD_CTL_EN, 1), (HOD_CTL_EN, b2n p.hodOk), (ENC_CTL_EN, b2n p.encOk), (ENC_CTL_HINT, b2n p.encOk),
    (SPLIT_STATE_DIS_ENCODE, b2n (!p.encOk)), (evtRoute EVT_ROUTE_TARGET evDbgHalt, 3), (evtRoute EVT_ROUTE_PRIO evDbgHalt, 1)]
  ([0, 12288] ++ (upto 8).map fun i => extentOf stagingBase + i).foldl (fun s e => s.put (extFld e) 6) s

/-- Place the tables from an address on. -/
def State.placeTables (s : State) : List (Fld × Nat) → Nat → State
  | [], _ => s
  | (f, n) :: r, a => (s.put f (a / 512)).placeTables r (a + n)

/-- The bases of firmware's tables, in twinned FW extents (R366, R367). -/
def State.startBases (s : State) : State :=
  let s := (s.giveExts ((upto fwExts).map (1 + ·)) 6).giveExts ((upto fwExts).map (12289 + ·)) 6
  (s.placeTables fwTables 0x200000).put MEM_PTDIR_BASE_ADDR (fwPtdir / 65536)

/-! ### Re-adoption (R504, R505) -/

/-- Put back the extent map, seals, retired counts and page-table directory. -/
def State.adoptMap (s : State) (r : Root) : State :=
  let s := r.map.foldl (fun s q => { s with regs := setQ s.regs q.1 q.2 }) s
  let n (k : Nat) : Nat := (s.retired.filter fun f => frameStack f == k).length
  s.puts [(MEM_RETIRED_STACK0, n 0), (MEM_RETIRED_STACK1, n 1), (MEM_PTDIR_BASE_ADDR, r.ptdir)]

/-- A stall as re-adoption leaves it: restored, its log to be applied up to the last entry, PARKED with a reason. -/
def adopted (init save : Bytes) (time reason : Nat) (st : Stall) : Option Stall :=
  (restoreStall init save { st with replayTo := none, replayHalt := false }).map fun x =>
    let last := match x.replayLog.getLast? with | some e => if x.tick < e.tick then some e.tick else none | none => none
    let run := last.isSome && reason == rsnOPERATOR
    { x with reasons := [reason], l1 := false, hold := .none, sched := if run then .runnable else .parked, parkedAt := time
             replayTo := last, replayHalt := false, quiet := true, faults := [], waits := [], latched := [], resetAt := [], haltPend := none, dbgHalt := false
             stepping := false, hot := 0, core := 0, loaded := false }

/-- Bind stall k’s set on the slot of its stable, where it has one; what fails leaves UCSET as it was (R107, log entry 86). -/
def State.bindAt (s : State) (k : Nat) : Option Nat → State
  | none => s
  | some p => match s.rebind k p with
    | (.ok u, s) => s.setUcs k u
    | (.error _, s) => s

/-- Re-adopt one stall at its place; one that cannot be restored is lost. A stall whose set cannot be bound keeps its UCSET (DESIGN
CHOICE, log entry 86). -/
def State.adoptStall (s : State) (r : Root) (st : Stall) : State :=
  match r.places.find? fun p => p.1 == st.num with
  | none => s
  | some (_, l, pos) =>
    let (init, save) := s.creation st
    let slot := s.slotOfL l
    match adopted init save s.time (if slot.isSome then rsnOPERATOR else rsnFENCE) st with
    | none => s.notice nStallLost st.num 0 0
    | some x =>
      let s := State.place { s with stalls := insertBy (·.num) x s.stalls } st.num l pos st.cls
      (s.bindAt st.num slot).countUnits.showRamp.logEntry nRecovered (leBytes 4 st.num)

/-- Streams as they are recreated: nothing of a frame in progress remains. -/
def adoptStream (x : Stream) : Stream := { x with commit := none, frames := [], fresh := true, regHold := false, enc := Enc.idle }

/-- Network descriptors as they are recreated. -/
def adoptNet (time : Nat) (x : NetStream) : NetStream :=
  { x with port := ndPort x.desc, vq := [], vrec := [], vnum := 0, vkey := none, aq := [], arec := [], anum := 0, akey := none,
           bucket := leAt x.desc 80 4 * 1000000000, fillAt := time, srAt := time }

/-- Re-adopt what a root names. -/
def State.adopt (s : State) (r : Root) : State :=
  let s : State := { s.adoptMap r with titles := r.titles }
  let s := r.stalls.foldl (fun s st => s.adoptStall r st) s
  let owned (n : Nat) : Bool := (s.stall? (n / 4)).isSome
  let streams : List Stream := (r.streams.filter fun x => owned x.num).map adoptStream
  let nets : List NetStream := (r.nets.filter fun x => owned x.num).map (adoptNet s.time)
  -- areas that no stream holds any longer are free
  let kept := streams.flatMap fun x => x.exts ++ x.bedExts
  let s := s.giveExts ((r.streams.flatMap fun x => x.exts ++ x.bedExts).filter fun e => !kept.contains e) 0
  State.recost { s with streams, nets, flows := r.flows.filter fun f => owned f.num }

/-- FIRMWARE_READY: `slots` and `cores` are what passes self-test (R451, R505). -/
def firmwareReady (slots cores : Nat) (s : State) : State :=
  match s.mode, s.pkg with
  | .load, some p =>
    if s.get MBX_STATE_READY = 1 then s
    else
      let s := ((s.startBlocks p).startBases.startSlots slots p.smcOk).startCores cores
      let dis := b2n (!p.smcOk) + 2 * b2n (!p.hodOk) + 4 * b2n (!p.encOk)
      let s := if dis = 0 then s else s.notice nDisabled 0 dis 0
      let s := match s.root with
        | some r => if s.warm ∧ r.line = p.version / 2 ^ 24 then s.adopt r else if s.warm then s.logEntry 0 [] else s
        | none => if s.warm then s.logEntry 0 [] else s
      let s := { s with root := none, warm := false }
      if p.smcOk then s.enterServe else s.toMode .service 0x10
  | _, _ => s

end Sys2Proof.Machine
end

