-- ==== Sys2Proof/Machine/ResetCmds.lean ====
section
/-! DEFINITION. The meanings of the rows on resets, supplies, clocks, SLUMBER and the start of firmware. -/
namespace Sys2Proof.Machine

/-- VDD_AON applied, or removed (R482). -/
def execPor (on : Bool) (s : State) : Answer := .next (por on s)

/-- Every supply is good and the clocks run (R544). -/
def execResetRelease (mp0 : Bool) (s : State) : Answer := .next (resetRelease mp0 s)

/-- RESET_N low for 1 µs, or the reset due by mailbox (R482). -/
def execDevrst (pin : Bool) (mp0 : Bool) (s : State) : Answer := .next (devrst pin mp0 s)

/-- The warm reset due by mailbox (R482). -/
def execWarmrst (mp0 : Bool) (s : State) : Answer := .next (warmrst mp0 s)

/-- RESET_N rises (R482). -/
def execResetNRelease (mp0 : Bool) (s : State) : Answer := .next (resetNRelease mp0 s)

/-- TEST_EN high (R542). -/
def execTestEnAssert (s : State) : Answer := .next (testEnAssert s)

/-- PERST_N asserted with scope FULL (R440). -/
def execPerstFull (s : State) : Answer := .next (perstFull s)

/-- PERST_N deasserted (R441). -/
def execPerstDeassert (mp0 : Bool) (s : State) : Answer := .next (perstDeassert mp0 s)

/-- A port reset (R442). -/
def execPortReset (kind : Nat) (s : State) : Answer := .next (portResetCmd kind s)

/-- The PCI Express link trains (R441). -/
def execPcieLinkUp (s : State) : Answer := .next (pcieLinkUp s)

/-- The orphan timer reaches HOST_ORPHAN.SECONDS (R443). -/
def execOrphanTimeout (s : State) : Answer := .next (orphanTimeout s)

/-- A supply other than VDD_AON fails (R547). -/
def execRailLoss (s : State) : Answer := .next (railLoss s)

/-- A reference clock stops (R549). -/
def execRefclkLoss (clk : Nat) (s : State) : Answer := .next (refclkLoss clk s)

/-- A wake pin reaches its level in SLUMBER (R491, R562). -/
def execSlumberWake (pin : Nat) (s : State) : Answer := .next (slumberWake pin s)

/-- Every supply is good after a wake (R491). -/
def execSlumberExitReset (mp0 : Bool) (s : State) : Answer := .next (slumberExitReset mp0 s)

/-- LOAD ends with the package checks (R450). -/
def execPackageCheck (poison : Nat) (s : State) : Answer := .next (packageCheck poison s)

/-- The started firmware serves in its mode (R446, R505). -/
def execFirmwareReady (slots : Nat) (cores : Nat) (s : State) : Answer := .next (firmwareReady slots cores s)

end Sys2Proof.Machine
end

