-- ==== Sys2Proof/Machine/RingCmds.lean ====
section
/-! DEFINITION. The meanings of the rows on ring pairs, jobs and deliveries. -/
namespace Sys2Proof.Machine

/-- A write of RNG_SQ_TAILr (R426). -/
def execRngSqTail (ring : Nat) (tail : Nat) (s : State) : Answer := .next (rngSqTail ring tail s)

/-- A write of RNG_CQ_HEADr (R426, R434). -/
def execRngCqHead (ring : Nat) (head : Nat) (s : State) : Answer := .next (rngCqHead ring head s)

/-- Fetching is tried again 100 µs later (R432). -/
def execSqRepoll (ring : Nat) (s : State) : Answer := .next (sqRepoll ring s)

/-- An entry of the current phase is checked and taken; none: host memory does not answer (R432, R436). -/
def execSqEntryFetch (ring : Nat) (entry : Option Bytes) (s : State) : Answer := .next (sqEntryFetch ring entry s)

/-- A taken job starts (R433). -/
def execJobStart (ring : Nat) (s : State) : Answer := .next (jobStart ring s)

/-- A NOP job (R429). -/
def execRingNop (ring : Nat) (s : State) : Answer := .next (ringNop ring s)

/-- A CONTROL job (R430). -/
def execRingControl (host : Option Bytes) (put : Bool) (room : Bool) (verdict : Nat) (image : Option Bytes) (s : State) : Answer :=
  .next (ringControl { host, put, room, verdict, image } s)

/-- A LATCH_INPUT job (R430). -/
def execLatchInput (s : State) : Answer := .next (latchInputJob s)

/-- A TO_DEVICE job moves bytes to device memory (R430). -/
def execToDevice (ring : Nat) (data : Bytes) (s : State) : Answer := .next (toDevice ring data s)

/-- A FROM_DEVICE job moves bytes to the host (R430). -/
def execFromDevice (ring : Nat) (taken : Nat) (s : State) : Answer := .next (fromDevice ring taken s)

/-- An RX_BUFFER job offers its buffers (R430, R465). -/
def execRxBuffer (ring : Nat) (s : State) : Answer := .next (rxBuffer ring s)

/-- A HOSTIO_TX job appends to a receive buffer (R430). -/
def execHostioTx (ring : Nat) (data : Option Bytes) (s : State) : Answer := .next (hostioTx ring data s)

/-- A completion entry is written (R434). -/
def execJobComplete (ring : Nat) (s : State) : Answer := .next (jobComplete ring s)

/-- A captured delivery goes to the open RX_BUFFER job of its class (R465). -/
def execRingDelivery (cls : Nat) (put : Bool) (s : State) : Answer := .next (ringDelivery cls put s)

/-- 500 µs after its first delivery an RX_BUFFER job completes (R465). -/
def execRxJobTimeout (ring : Nat) (s : State) : Answer := .next (rxJobTimeout ring s)

/-- The mailbox command RING_DELETE (R459). -/
def execRingDelete (s : State) : Answer := .next (ringDelete { host := none, put := false, room := false, verdict := 0 } s)

end Sys2Proof.Machine
end

