-- ==== Sys2Proof/Machine/UnitCmds.lean ====
section
/-! DEFINITION. The meanings of the rows of the Hod engine, the Mover, the yard ports and the packet engine. -/
namespace Sys2Proof.Machine

/-- HOD_CMD START begins a stall program (R316). -/
def execHodStart (stall : Nat) (sub : Nat) (s : State) : Answer := .next (hodStartCmd stall sub s)

/-- HOD_CMD HALT (R316). -/
def execHodHalt (stall : Nat) (sub : Nat) (s : State) : Answer := .next (hodHaltCmd stall sub s)

/-- HOD_CMD RESUME (R316, R321). -/
def execHodResume (stall : Nat) (sub : Nat) (s : State) : Answer := .next (hodResumeCmd stall sub s)

/-- HOD_CMD CLEAR (R316). -/
def execHodClear (stall : Nat) (sub : Nat) (s : State) : Answer := .next (hodClearCmd stall sub s)

/-- A READ brick (R303, R307). -/
def execBrickRead (stall : Nat) (sub : Nat) (s : State) : Answer := .next (brickRead stall sub s)

/-- A WRITE brick to a device other than BLIT (R303, R307). -/
def execBrickWrite (stall : Nat) (sub : Nat) (s : State) : Answer := .next (brickWrite stall sub s)

/-- A BLIT WRITE with PARAM COPY (R308). -/
def execBlitCopy (stall : Nat) (sub : Nat) (s : State) : Answer := .next (blitCopy stall sub s)

/-- A BLIT WRITE with PARAM FILL (R308). -/
def execBlitFill (stall : Nat) (sub : Nat) (s : State) : Answer := .next (blitFill stall sub s)

/-- A QUERY brick (R322). -/
def execBrickQuery (stall : Nat) (sub : Nat) (s : State) : Answer := .next (brickQuery stall sub s)

/-- A CONTROL brick of a SAVE device (R307). -/
def execSetpos (stall : Nat) (sub : Nat) (s : State) : Answer := .next (brickSetpos stall sub s)

/-- A CONTROL brick of a MEDIA device (R307, R310). -/
def execSeek (stall : Nat) (sub : Nat) (s : State) : Answer := .next (brickSeek stall sub s)

/-- A CONTROL FLUSH brick (R307). -/
def execFlush (stall : Nat) (sub : Nat) (s : State) : Answer := .next (brickFlush stall sub s)

/-- A CONTROL brick of a BLIT device (R307). -/
def execSetdst (stall : Nat) (sub : Nat) (s : State) : Answer := .next (brickSetdst stall sub s)

/-- A GOTO brick (R303). -/
def execBrickGoto (stall : Nat) (sub : Nat) (s : State) : Answer := .next (plainStep 8 stall sub s)

/-- A WAIT brick begins to wait (R315). -/
def execBrickWait (stall : Nat) (sub : Nat) (s : State) : Answer := .next (brickWait stall sub s)

/-- The condition of a WAIT brick holds (R315). -/
def execWaitComplete (stall : Nat) (sub : Nat) (s : State) : Answer := .next (waitComplete stall sub s)

/-- A NOP brick (R303). -/
def execBrickNop (stall : Nat) (sub : Nat) (s : State) : Answer := .next (plainStep 10 stall sub s)

/-- A POST brick (R303). -/
def execBrickPost (stall : Nat) (sub : Nat) (s : State) : Answer := .next (plainStep 11 stall sub s)

/-- A PAUSE brick (R303). -/
def execBrickPause (stall : Nat) (sub : Nat) (s : State) : Answer := .next (brickPause stall sub s)

/-- A brick reaches its completion tick (R309). -/
def execBrickComplete (stall : Nat) (sub : Nat) (s : State) : Answer := .next (brickComplete stall sub s)

/-- The count of idle bricks reaches 256 (R319). -/
def execHodLoop (stall : Nat) (sub : Nat) (s : State) : Answer := .next (hodLoop stall sub s)

/-- The sequencer makes a stall-memory access at its boundary (R311, R313). -/
def execHodUnit (stall : Nat) (sub : Nat) (s : State) : Answer := .next (hodUnit stall sub s)

/-- A write of HOD_ASSIGN with GO = 1 (R299). -/
def execHodAssign (stall : Nat) (sub : Nat) (ty : Nat) (s : State) : Answer := .next (hodAssign stall sub ty s)

/-- HOD_HCMD START (R326). -/
def execHodHstart (h : Nat) (s : State) : Answer := .next (hodHstart h s)

/-- HOD_HCMD HALT (R326). -/
def execHodHhalt (h : Nat) (s : State) : Answer := .next (hodHhalt h s)

/-- HOD_HCMD RESUME (R321). -/
def execHodHresume (h : Nat) (s : State) : Answer := .next (hodHresume h s)

/-- HOD_HCMD CLEAR (R326). -/
def execHodHclear (h : Nat) (s : State) : Answer := .next (hodHclear h s)

/-- A write of HOD_HGRANT (R328). -/
def execHodHgrantWrite (host : Bool) (sheds : Nat) (s : State) : Answer := .next (hodHgrantWrite host sheds s)

/-- A LINK delivery reaches its release time (R409). -/
def execLinkRelease (s : State) : Answer := .next (linkRelease s)

/-- A write of MOV_CHn_PI (R336). -/
def execMovChPi (ch : Nat) (pi : Nat) (s : State) : Answer := .next (movChPi ch pi s)

/-- The stall-side access of a Mover burst or segment (R351). -/
def execMoverStallAccess (ch : Nat) (s : State) : Answer := .next (moverStallAccess ch s)

/-- A Mover channel leaves FAULT (R352). -/
def execMovFaultResume (ch : Nat) (s : State) : Answer := .next (movFaultResume ch s)

/-- A write of MOV_CHn_CTL.HALT (R354). -/
def execMovHalt (ch : Nat) (s : State) : Answer := .next (movHalt ch s)

/-- A yard port comes UP (R384). -/
def execPortTrained (port : Nat) (s : State) : Answer := .next (portTrained port s)

/-- A yard port becomes FAILED (R385). -/
def execPortFail (port : Nat) (s : State) : Answer := .next (portFail port s)

/-- The ingress classifier takes a received frame (R386). -/
def execFrameReceive (port : Nat) (uncorr : Nat) (frame : Bytes) (s : State) : Answer := .next (frameReceive port uncorr frame s)

/-- The input path checks a datagram (R388). -/
def execInputDatagram (s : State) : Answer := .next (inputDatagram s)

/-- A received report block (R398). -/
def execRtcpReport (s : State) : Answer := .next (rtcpReport s)

/-- A received TMMBR (R398). -/
def execTmmbr (s : State) : Answer := .next (tmmbr s)

/-- A received PLI or FIR (R398). -/
def execPli (s : State) : Answer := .next (pliFir s)

/-- The sender report of a stream (R398). -/
def execRtcpSrSend (stream : Nat) (s : State) : Answer := .next (rtcpSrSend stream s)

/-- A media packet leaves (R396). -/
def execPacketSend (audio : Bool) (num : Nat) (s : State) : Answer := .next (packetSend num audio s)

/-- The packet engine reads a record of an output ring (R397). -/
def execRecordRead (audio : Bool) (num : Nat) (s : State) : Answer := .next (recordRead audio num s)

/-- An UP port sends its HELLO (R404). -/
def execHelloSend (port : Nat) (s : State) : Answer := .next (helloSend port s)

/-- A HELLO received (R405). -/
def execHelloReceive (s : State) : Answer := .next (helloReceive s)

/-- A 1-hop path is removed after 3 missed HELLOs (R405). -/
def execRouteTimeout (port : Nat) (yard : Nat) (s : State) : Answer := .next (routeTimeout port yard s)

/-- A yard DATA packet received (R407). -/
def execYardDataReceive (s : State) : Answer := .next (yardDataReceive s)

/-- An ACK received (R407). -/
def execYardAckReceive (s : State) : Answer := .next (yardAckReceive s)

/-- A NAK received (R407). -/
def execYardNakReceive (s : State) : Answer := .next (yardNakReceive s)

/-- The acknowledgement timer (R407). -/
def execAckTimer (yard : Nat) (s : State) : Answer := .next (ackTimer yard s)

/-- A gap has stood for 20 µs (R407). -/
def execNakTimer (yard : Nat) (s : State) : Answer := .next (nakTimer yard s)

/-- No ACK has advanced for 200 µs (R407). -/
def execRetransmitTimeout (yard : Nat) (s : State) : Answer := .next (retransmitTimeout yard s)

/-- A write of YRD_LOAD.GO (R391). -/
def execYrdLoad (table : Nat) (index : Nat) (s : State) : Answer := .next (yrdLoad table index s)

end Sys2Proof.Machine
end

