-- ==== Sys2Proof/Machine/Dispatch.lean ====
section
/-! DEFINITION. The dispatch of a command to its meaning, one arm per constructor of Instr. -/
namespace Sys2Proof.Machine

def exec (i : Instr) (s : State) : Host.Outcome State Fault Refusal :=
  match i with
  | .nop stall => Sys2Proof.Machine.execNop stall s
  | .mov stall => Sys2Proof.Machine.execMov stall s
  | .xch stall => Sys2Proof.Machine.execXch stall s
  | .lea stall => Sys2Proof.Machine.execLea stall s
  | .push stall => Sys2Proof.Machine.execPush stall s
  | .pop stall => Sys2Proof.Machine.execPop stall s
  | .clr stall => Sys2Proof.Machine.execClr stall s
  | .swpb stall => Sys2Proof.Machine.execSwpb stall s
  | .add stall => Sys2Proof.Machine.execAdd stall s
  | .adc stall => Sys2Proof.Machine.execAdc stall s
  | .sub stall => Sys2Proof.Machine.execSub stall s
  | .sbc stall => Sys2Proof.Machine.execSbc stall s
  | .cmp stall => Sys2Proof.Machine.execCmp stall s
  | .neg stall => Sys2Proof.Machine.execNeg stall s
  | .inc stall => Sys2Proof.Machine.execInc stall s
  | .dec stall => Sys2Proof.Machine.execDec stall s
  | .and stall => Sys2Proof.Machine.execAnd stall s
  | .or stall => Sys2Proof.Machine.execOr stall s
  | .xor stall => Sys2Proof.Machine.execXor stall s
  | .not stall => Sys2Proof.Machine.execNot stall s
  | .tst stall => Sys2Proof.Machine.execTst stall s
  | .sext stall => Sys2Proof.Machine.execSext stall s
  | .mul stall => Sys2Proof.Machine.execMul stall s
  | .mulu stall => Sys2Proof.Machine.execMulu stall s
  | .div stall => Sys2Proof.Machine.execDiv stall s
  | .divs stall => Sys2Proof.Machine.execDivs stall s
  | .shl stall => Sys2Proof.Machine.execShl stall s
  | .shr stall => Sys2Proof.Machine.execShr stall s
  | .sar stall => Sys2Proof.Machine.execSar stall s
  | .rol stall => Sys2Proof.Machine.execRol stall s
  | .ror stall => Sys2Proof.Machine.execRor stall s
  | .bit stall => Sys2Proof.Machine.execBit stall s
  | .lda stall => Sys2Proof.Machine.execLda stall s
  | .sta stall => Sys2Proof.Machine.execSta stall s
  | .adda stall => Sys2Proof.Machine.execAdda stall s
  | .suba stall => Sys2Proof.Machine.execSuba stall s
  | .mpy stall => Sys2Proof.Machine.execMpy stall s
  | .mac stall => Sys2Proof.Machine.execMac stall s
  | .msu stall => Sys2Proof.Machine.execMsu stall s
  | .rnd stall => Sys2Proof.Machine.execRnd stall s
  | .sha stall => Sys2Proof.Machine.execSha stall s
  | .abs stall => Sys2Proof.Machine.execAbs stall s
  | .mvc stall => Sys2Proof.Machine.execMvc stall s
  | .br stall => Sys2Proof.Machine.execBr stall s
  | .jmp stall => Sys2Proof.Machine.execJmp stall s
  | .call stall => Sys2Proof.Machine.execCall stall s
  | .ret stall => Sys2Proof.Machine.execRet stall s
  | .reti stall => Sys2Proof.Machine.execReti stall s
  | .dbnz stall => Sys2Proof.Machine.execDbnz stall s
  | .dbrc stall => Sys2Proof.Machine.execDbrc stall s
  | .ldrc stall => Sys2Proof.Machine.execLdrc stall s
  | .rpt stall => Sys2Proof.Machine.execRpt stall s
  | .lock stall => Sys2Proof.Machine.execLock stall s
  | .swi stall => Sys2Proof.Machine.execSwi stall s
  | .wait stall => Sys2Proof.Machine.execWait stall s
  | .sync stall => Sys2Proof.Machine.execSync stall s
  | .userOpcode stall => Sys2Proof.Machine.execUserOpcode stall s
  | .repetition stall => Sys2Proof.Machine.execRepetition stall s
  | .idleStep stall => Sys2Proof.Machine.execIdleStep stall s
  | .interruptEntry stall => Sys2Proof.Machine.execInterruptEntry stall s
  | .illegalEntry stall => Sys2Proof.Machine.execIllegalEntry stall s
  | .divzeroEntry stall => Sys2Proof.Machine.execDivzeroEntry stall s
  | .catchUpRead stall => Sys2Proof.Machine.execCatchUpRead stall s
  | .stampQueueRelease stall => Sys2Proof.Machine.execStampQueueRelease stall s
  | .translationFault stall index entry agent write fetch page => Sys2Proof.Machine.execTranslationFault stall index entry agent write fetch page s
  | .faultResolve stall index page => Sys2Proof.Machine.execFaultResolve stall index page s
  | .ckptPageCopy stall index => Sys2Proof.Machine.execCkptPageCopy stall index s
  | .vblAssert stall => Sys2Proof.Machine.execVblAssert stall s
  | .lineMatch stall => Sys2Proof.Machine.execLineMatch stall s
  | .timerExpiry stall timer => Sys2Proof.Machine.execTimerExpiry stall timer s
  | .sndPeriodExpiry stall => Sys2Proof.Machine.execSndPeriodExpiry stall s
  | .inputVisible stall => Sys2Proof.Machine.execInputVisible stall s
  | .stallResetApply stall => Sys2Proof.Machine.execStallResetApply stall s
  | .checkpointCapture stall => Sys2Proof.Machine.execCheckpointCapture stall s
  | .checkpointComplete stall => Sys2Proof.Machine.execCheckpointComplete stall s
  | .renderDot stall => Sys2Proof.Machine.execRenderDot stall s
  | .sliceDeadline stall => Sys2Proof.Machine.execSliceDeadline stall s
  | .sliceGrant slot core => Sys2Proof.Machine.execSliceGrant slot core s
  | .quantumExpiry stall => Sys2Proof.Machine.execQuantumExpiry stall s
  | .holdEvict stall => Sys2Proof.Machine.execHoldEvict stall s
  | .holdClear stall => Sys2Proof.Machine.execHoldClear stall s
  | .blockedRelease stall => Sys2Proof.Machine.execBlockedRelease stall s
  | .parkTimeout stall => Sys2Proof.Machine.execParkTimeout stall s
  | .stbDrain slot drain => Sys2Proof.Machine.execStbDrain slot drain s
  | .stbFence slot => Sys2Proof.Machine.execStbFence slot s
  | .coreFault slot unit lost => Sys2Proof.Machine.execCoreFault slot unit lost s
  | .storeFault slot lost => Sys2Proof.Machine.execStoreFault slot lost s
  | .takeoverComplete => Sys2Proof.Machine.execTakeoverComplete s
  | .faultPointReached stall => Sys2Proof.Machine.execFaultPointReached stall s
  | .stableReset slot pass => Sys2Proof.Machine.execStableReset slot pass s
  | .ucsValidate slot set => Sys2Proof.Machine.execUcsValidate slot set s
  | .ucsRelease slot set => Sys2Proof.Machine.execUcsRelease slot set s
  | .cmpCommit stream => Sys2Proof.Machine.execCmpCommit stream s
  | .commitValidated bedRoom => Sys2Proof.Machine.execCommitValidated bedRoom s
  | .commitTakeEffect stream => Sys2Proof.Machine.execCommitTakeEffect stream s
  | .bedRebuildComplete stream => Sys2Proof.Machine.execBedRebuildComplete stream s
  | .composeSlice stream => Sys2Proof.Machine.execComposeSlice stream s
  | .sliceLateLimit stream => Sys2Proof.Machine.execSliceLateLimit stream s
  | .monCommit => Sys2Proof.Machine.execMonCommit s
  | .monTimingApply => Sys2Proof.Machine.execMonTimingApply s
  | .monEnable en => Sys2Proof.Machine.execMonEnable en s
  | .monFrameStart fills => Sys2Proof.Machine.execMonFrameStart fills s
  | .monUnderrun line pixel => Sys2Proof.Machine.execMonUnderrun line pixel s
  | .monFrameEnd pads => Sys2Proof.Machine.execMonFrameEnd pads s
  | .codingRowStart core => Sys2Proof.Machine.execCodingRowStart core s
  | .codingRowDone core => Sys2Proof.Machine.execCodingRowDone core s
  | .encRowWatchdog core => Sys2Proof.Machine.execEncRowWatchdog core s
  | .encCoreFault core cause => Sys2Proof.Machine.execEncCoreFault core cause s
  | .encSpareActivate => Sys2Proof.Machine.execEncSpareActivate s
  | .beamSample stall => Sys2Proof.Machine.execBeamSample stall s
  | .graphSample stall => Sys2Proof.Machine.execGraphSample stall s
  | .audSwap stall ramp => Sys2Proof.Machine.execAudSwap stall ramp s
  | .audSwapValidated => Sys2Proof.Machine.execAudSwapValidated s
  | .audioFrameForm stall op => Sys2Proof.Machine.execAudioFrameForm stall op s
  | .hodStart stall sub => Sys2Proof.Machine.execHodStart stall sub s
  | .hodHalt stall sub => Sys2Proof.Machine.execHodHalt stall sub s
  | .hodResume stall sub => Sys2Proof.Machine.execHodResume stall sub s
  | .hodClear stall sub => Sys2Proof.Machine.execHodClear stall sub s
  | .brickRead stall sub => Sys2Proof.Machine.execBrickRead stall sub s
  | .brickWrite stall sub => Sys2Proof.Machine.execBrickWrite stall sub s
  | .blitCopy stall sub => Sys2Proof.Machine.execBlitCopy stall sub s
  | .blitFill stall sub => Sys2Proof.Machine.execBlitFill stall sub s
  | .brickQuery stall sub => Sys2Proof.Machine.execBrickQuery stall sub s
  | .setpos stall sub => Sys2Proof.Machine.execSetpos stall sub s
  | .seek stall sub => Sys2Proof.Machine.execSeek stall sub s
  | .flush stall sub => Sys2Proof.Machine.execFlush stall sub s
  | .setdst stall sub => Sys2Proof.Machine.execSetdst stall sub s
  | .brickGoto stall sub => Sys2Proof.Machine.execBrickGoto stall sub s
  | .brickWait stall sub => Sys2Proof.Machine.execBrickWait stall sub s
  | .waitComplete stall sub => Sys2Proof.Machine.execWaitComplete stall sub s
  | .brickNop stall sub => Sys2Proof.Machine.execBrickNop stall sub s
  | .brickPost stall sub => Sys2Proof.Machine.execBrickPost stall sub s
  | .brickPause stall sub => Sys2Proof.Machine.execBrickPause stall sub s
  | .brickComplete stall sub => Sys2Proof.Machine.execBrickComplete stall sub s
  | .hodLoop stall sub => Sys2Proof.Machine.execHodLoop stall sub s
  | .hodUnit stall sub => Sys2Proof.Machine.execHodUnit stall sub s
  | .linkRelease => Sys2Proof.Machine.execLinkRelease s
  | .linkDeliveryVisible stall => Sys2Proof.Machine.execLinkDeliveryVisible stall s
  | .hodHstart h => Sys2Proof.Machine.execHodHstart h s
  | .hodHhalt h => Sys2Proof.Machine.execHodHhalt h s
  | .hodHresume h => Sys2Proof.Machine.execHodHresume h s
  | .hodHclear h => Sys2Proof.Machine.execHodHclear h s
  | .hodHostUnit h host fault => Sys2Proof.Machine.execHodHostUnit h host fault s
  | .hodHgrantWrite host sheds => Sys2Proof.Machine.execHodHgrantWrite host sheds s
  | .hodAssign stall sub ty => Sys2Proof.Machine.execHodAssign stall sub ty s
  | .movChPi ch pi => Sys2Proof.Machine.execMovChPi ch pi s
  | .dma ch host => Sys2Proof.Machine.execDma ch host s
  | .planePack ch host => Sys2Proof.Machine.execPlanePack ch host s
  | .planeUnpack ch host => Sys2Proof.Machine.execPlaneUnpack ch host s
  | .interleave ch host => Sys2Proof.Machine.execInterleave ch host s
  | .deinterleave ch host => Sys2Proof.Machine.execDeinterleave ch host s
  | .fill ch host => Sys2Proof.Machine.execFill ch host s
  | .bcopy ch host => Sys2Proof.Machine.execBcopy ch host s
  | .bconvert ch host => Sys2Proof.Machine.execBconvert ch host s
  | .moverStallAccess ch => Sys2Proof.Machine.execMoverStallAccess ch s
  | .movFaultResume ch => Sys2Proof.Machine.execMovFaultResume ch s
  | .movHalt ch => Sys2Proof.Machine.execMovHalt ch s
  | .memInval stall index all global => Sys2Proof.Machine.execMemInval stall index all global s
  | .memInvalDone => Sys2Proof.Machine.execMemInvalDone s
  | .hbmUe addr agent who => Sys2Proof.Machine.execHbmUe addr agent who s
  | .scrubRead addr result => Sys2Proof.Machine.execScrubRead addr result s
  | .memXfaultPop => Sys2Proof.Machine.execMemXfaultPop s
  | .portTrained port => Sys2Proof.Machine.execPortTrained port s
  | .portFail port => Sys2Proof.Machine.execPortFail port s
  | .frameReceive port uncorr frame => Sys2Proof.Machine.execFrameReceive port uncorr frame s
  | .inputDatagram => Sys2Proof.Machine.execInputDatagram s
  | .rtcpReport => Sys2Proof.Machine.execRtcpReport s
  | .tmmbr => Sys2Proof.Machine.execTmmbr s
  | .pli => Sys2Proof.Machine.execPli s
  | .rtcpSrSend stream => Sys2Proof.Machine.execRtcpSrSend stream s
  | .packetSend audio num => Sys2Proof.Machine.execPacketSend audio num s
  | .recordRead audio num => Sys2Proof.Machine.execRecordRead audio num s
  | .helloSend port => Sys2Proof.Machine.execHelloSend port s
  | .helloReceive => Sys2Proof.Machine.execHelloReceive s
  | .routeTimeout port yard => Sys2Proof.Machine.execRouteTimeout port yard s
  | .yardDataReceive => Sys2Proof.Machine.execYardDataReceive s
  | .yardAckReceive => Sys2Proof.Machine.execYardAckReceive s
  | .yardNakReceive => Sys2Proof.Machine.execYardNakReceive s
  | .ackTimer yard => Sys2Proof.Machine.execAckTimer yard s
  | .nakTimer yard => Sys2Proof.Machine.execNakTimer yard s
  | .retransmitTimeout yard => Sys2Proof.Machine.execRetransmitTimeout yard s
  | .peerUnreachable yard => Sys2Proof.Machine.execPeerUnreachable yard s
  | .ptpSync offset => Sys2Proof.Machine.execPtpSync offset s
  | .ptpHoldover => Sys2Proof.Machine.execPtpHoldover s
  | .yrdLoad table index => Sys2Proof.Machine.execYrdLoad table index s
  | .yrdDetach => Sys2Proof.Machine.execYrdDetach s
  | .migrationPark stall => Sys2Proof.Machine.execMigrationPark stall s
  | .migrateReady source stall yard verdict snap room image => Sys2Proof.Machine.execMigrateReady source stall yard verdict snap room image s
  | .migrateCommit stall => Sys2Proof.Machine.execMigrateCommit stall s
  | .commitAck stall => Sys2Proof.Machine.execCommitAck stall s
  | .cadTimeRead => Sys2Proof.Machine.execCadTimeRead s
  | .mbxDoorbell go => Sys2Proof.Machine.execMbxDoorbell go s
  | .m2hData0Read mp0 => Sys2Proof.Machine.execM2hData0Read mp0 s
  | .unknownCommand => Sys2Proof.Machine.execUnknownCommand s
  | .rngSqTail ring tail => Sys2Proof.Machine.execRngSqTail ring tail s
  | .rngCqHead ring head => Sys2Proof.Machine.execRngCqHead ring head s
  | .sqRepoll ring => Sys2Proof.Machine.execSqRepoll ring s
  | .sqEntryFetch ring entry => Sys2Proof.Machine.execSqEntryFetch ring entry s
  | .jobStart ring => Sys2Proof.Machine.execJobStart ring s
  | .ringNop ring => Sys2Proof.Machine.execRingNop ring s
  | .ringControl host put room verdict image => Sys2Proof.Machine.execRingControl host put room verdict image s
  | .latchInput => Sys2Proof.Machine.execLatchInput s
  | .toDevice ring data => Sys2Proof.Machine.execToDevice ring data s
  | .fromDevice ring taken => Sys2Proof.Machine.execFromDevice ring taken s
  | .rxBuffer ring => Sys2Proof.Machine.execRxBuffer ring s
  | .hostioTx ring data => Sys2Proof.Machine.execHostioTx ring data s
  | .jobComplete ring => Sys2Proof.Machine.execJobComplete ring s
  | .ringDelivery cls put => Sys2Proof.Machine.execRingDelivery cls put s
  | .rxJobTimeout ring => Sys2Proof.Machine.execRxJobTimeout ring s
  | .perstFull => Sys2Proof.Machine.execPerstFull s
  | .portReset kind => Sys2Proof.Machine.execPortReset kind s
  | .orphanTimeout => Sys2Proof.Machine.execOrphanTimeout s
  | .identify => Sys2Proof.Machine.execIdentify s
  | .fwStatus => Sys2Proof.Machine.execFwStatus s
  | .logRead put => Sys2Proof.Machine.execLogRead put s
  | .deviceReset => Sys2Proof.Machine.execDeviceReset s
  | .abortToBoot => Sys2Proof.Machine.execAbortToBoot s
  | .fwBegin => Sys2Proof.Machine.execFwBegin s
  | .fwCommit => Sys2Proof.Machine.execFwCommit s
  | .packageCheck poison => Sys2Proof.Machine.execPackageCheck poison s
  | .firmwareReady slots cores => Sys2Proof.Machine.execFirmwareReady slots cores s
  | .modeSet => Sys2Proof.Machine.execModeSet s
  | .deviceSet => Sys2Proof.Machine.execDeviceSet s
  | .setSplit => Sys2Proof.Machine.execSetSplit s
  | .ringCreate => Sys2Proof.Machine.execRingCreate s
  | .ringDelete => Sys2Proof.Machine.execRingDelete s
  | .titleRegister host room => Sys2Proof.Machine.execTitleRegister host room s
  | .titleRemove => Sys2Proof.Machine.execTitleRemove s
  | .pageSupply host => Sys2Proof.Machine.execPageSupply host s
  | .stallCreate room => Sys2Proof.Machine.execStallCreate room s
  | .stallStart => Sys2Proof.Machine.execStallStart s
  | .stallPark => Sys2Proof.Machine.execStallPark s
  | .stallResume => Sys2Proof.Machine.execStallResume s
  | .stallReset => Sys2Proof.Machine.execStallReset s
  | .stallSet => Sys2Proof.Machine.execStallSet s
  | .stallMove => Sys2Proof.Machine.execStallMove s
  | .stallDestroy => Sys2Proof.Machine.execStallDestroy s
  | .stallQuery => Sys2Proof.Machine.execStallQuery s
  | .subchAssign => Sys2Proof.Machine.execSubchAssign s
  | .linkPeer => Sys2Proof.Machine.execLinkPeer s
  | .resumeFromCheckpoint => Sys2Proof.Machine.execResumeFromCheckpoint s
  | .streamConfig host => Sys2Proof.Machine.execStreamConfig host s
  | .streamNet host => Sys2Proof.Machine.execStreamNet host s
  | .courseSet => Sys2Proof.Machine.execCourseSet s
  | .regionSet => Sys2Proof.Machine.execRegionSet s
  | .streamCommit room => Sys2Proof.Machine.execStreamCommit room s
  | .streamKeyframe => Sys2Proof.Machine.execStreamKeyframe s
  | .streamQuery => Sys2Proof.Machine.execStreamQuery s
  | .streamDestroy => Sys2Proof.Machine.execStreamDestroy s
  | .laneConfig => Sys2Proof.Machine.execLaneConfig s
  | .laneOpwr => Sys2Proof.Machine.execLaneOpwr s
  | .graphLoad host => Sys2Proof.Machine.execGraphLoad host s
  | .keySet => Sys2Proof.Machine.execKeySet s
  | .flowSet host => Sys2Proof.Machine.execFlowSet host s
  | .flowClear => Sys2Proof.Machine.execFlowClear s
  | .yardSet => Sys2Proof.Machine.execYardSet s
  | .addrSet => Sys2Proof.Machine.execAddrSet s
  | .routeSet host => Sys2Proof.Machine.execRouteSet host s
  | .migrate verdict => Sys2Proof.Machine.execMigrate verdict s
  | .migrateResolve => Sys2Proof.Machine.execMigrateResolve s
  | .snapshotExport put => Sys2Proof.Machine.execSnapshotExport put s
  | .snapshotImport host room image => Sys2Proof.Machine.execSnapshotImport host room image s
  | .debugToken => Sys2Proof.Machine.execDebugToken s
  | .debugRevoke => Sys2Proof.Machine.execDebugRevoke s
  | .por on => Sys2Proof.Machine.execPor on s
  | .devrst pin mp0 => Sys2Proof.Machine.execDevrst pin mp0 s
  | .warmrst mp0 => Sys2Proof.Machine.execWarmrst mp0 s
  | .slumberWake pin => Sys2Proof.Machine.execSlumberWake pin s
  | .slumberExitReset mp0 => Sys2Proof.Machine.execSlumberExitReset mp0 s
  | .railLoss => Sys2Proof.Machine.execRailLoss s
  | .refclkLoss clk => Sys2Proof.Machine.execRefclkLoss clk s
  | .mpwKick n key => Sys2Proof.Machine.execMpwKick n key s
  | .mpwExpiry n lost => Sys2Proof.Machine.execMpwExpiry n lost s
  | .mpFailure cause lost => Sys2Proof.Machine.execMpFailure cause lost s
  | .unrecoverableFault reason unit => Sys2Proof.Machine.execUnrecoverableFault reason unit s
  | .evtArbitration => Sys2Proof.Machine.execEvtArbitration s
  | .evtClaim target => Sys2Proof.Machine.execEvtClaim target s
  | .evtDone target source => Sys2Proof.Machine.execEvtDone target source s
  | .dbgNonce => Sys2Proof.Machine.execDbgNonce s
  | .dbgUnlock level => Sys2Proof.Machine.execDbgUnlock level s
  | .dbgLock => Sys2Proof.Machine.execDbgLock s
  | .nonceExpiry => Sys2Proof.Machine.execNonceExpiry s
  | .damAccess host unmapped => Sys2Proof.Machine.execDamAccess host unmapped s
  | .damStallAccess unmapped => Sys2Proof.Machine.execDamStallAccess unmapped s
  | .dbgSctlHalt stall force => Sys2Proof.Machine.execDbgSctlHalt stall force s
  | .dbgSctlResume stall => Sys2Proof.Machine.execDbgSctlResume stall s
  | .dbgSctlStep stall => Sys2Proof.Machine.execDbgSctlStep stall s
  | .dbgSctlFeed stall flen => Sys2Proof.Machine.execDbgSctlFeed stall flen s
  | .dbgFreeze freeze => Sys2Proof.Machine.execDbgFreeze freeze s
  | .dbgMpctl halt0 halt1 => Sys2Proof.Machine.execDbgMpctl halt0 halt1 s
  | .advance epoch => Sys2Proof.Machine.execAdvance epoch s
  | .revoke key => Sys2Proof.Machine.execRevoke key s
  | .debugCoreReset tap => Sys2Proof.Machine.execDebugCoreReset tap s
  | .cnfEnd => Sys2Proof.Machine.execCnfEnd s
  | .idcode => Sys2Proof.Machine.execIdcode s
  | .samplePreload => Sys2Proof.Machine.execSamplePreload s
  | .extest => Sys2Proof.Machine.execExtest s
  | .clamp => Sys2Proof.Machine.execClamp s
  | .highz => Sys2Proof.Machine.execHighz s
  | .dbgreg off data write host unmapped => Sys2Proof.Machine.execDbgreg off data write host unmapped s
  | .bypass => Sys2Proof.Machine.execBypass s
  | .gpioCfgWrite reg value => Sys2Proof.Machine.execGpioCfgWrite reg value s
  | .gpioEdge pin level => Sys2Proof.Machine.execGpioEdge pin level s
  | .throttlePin low => Sys2Proof.Machine.execThrottlePin low s
  | .tempSample temp sensor watts => Sys2Proof.Machine.execTempSample temp sensor watts s
  | .chainInRise => Sys2Proof.Machine.execChainInRise s
  | .smbusTimeout => Sys2Proof.Machine.execSmbusTimeout s
  | .alertResponse => Sys2Proof.Machine.execAlertResponse s
  | .assignAddr addr pec value => Sys2Proof.Machine.execAssignAddr addr pec value s
  | .releaseAddr addr pec => Sys2Proof.Machine.execReleaseAddr addr pec s
  | .lastStatus addr pec => Sys2Proof.Machine.execLastStatus addr pec s
  | .readId addr pec => Sys2Proof.Machine.execReadId addr pec s
  | .readMode addr pec => Sys2Proof.Machine.execReadMode addr pec s
  | .readRst addr pec => Sys2Proof.Machine.execReadRst addr pec s
  | .readFstop addr pec => Sys2Proof.Machine.execReadFstop addr pec s
  | .readTemp addr pec => Sys2Proof.Machine.execReadTemp addr pec s
  | .readPower addr pec => Sys2Proof.Machine.execReadPower addr pec s
  | .devReset addr pec value mp0 => Sys2Proof.Machine.execDevReset addr pec value mp0 s
  | .warmReset addr pec value mp0 => Sys2Proof.Machine.execWarmReset addr pec value mp0 s
  | .sleep addr pec value => Sys2Proof.Machine.execSleep addr pec value s
  | .wake addr pec value => Sys2Proof.Machine.execWake addr pec value s
  | .throttle addr pec value => Sys2Proof.Machine.execThrottle addr pec value s
  | .wakeCfg addr pec write value => Sys2Proof.Machine.execWakeCfg addr pec write value s
  | .registerWrite byHost bar off data host unmapped => Sys2Proof.Machine.execRegisterWrite byHost bar off data host unmapped s
  | .resetNRelease mp0 => Sys2Proof.Machine.execResetNRelease mp0 s
  | .perstDeassert mp0 => Sys2Proof.Machine.execPerstDeassert mp0 s
  | .pcieLinkUp => Sys2Proof.Machine.execPcieLinkUp s
  | .resetRelease mp0 => Sys2Proof.Machine.execResetRelease mp0 s
  | .testEnAssert => Sys2Proof.Machine.execTestEnAssert s
  | .chainInFall => Sys2Proof.Machine.execChainInFall s
  | .mgmtUnknownCommand addr pec code => Sys2Proof.Machine.execMgmtUnknownCommand addr pec code s
  | .rcRead byHost debug bar off size host => Sys2Proof.Machine.execRcRead byHost debug bar off size host s

end Sys2Proof.Machine
end

