-- ==== Sys2Proof/Safety.lean ====
section
/-! DEFINITION. The terms in which claims about the block are made: its invariant, fields that share no bit, and a stall that
stands ready for an operation. -/
namespace Sys2Proof.Machine

/-- What every step keeps: device memory, host memory and the register file in their canonical forms (R358, R7). -/
structure State.Inv (s : State) : Prop where
  hbm  : Memory.wf s.hbm = true
  host : Memory.wf s.host = true
  regs : regsWf s.regs = true

/-- Two fields that share no bit. -/
def Fld.apart (f g : Fld) : Bool :=
  decide (f.off / 8 ≠ g.off / 8) || decide (8 * (f.off % 8) + f.lo + f.w ≤ 8 * (g.off % 8) + g.lo) ||
    decide (8 * (g.off % 8) + g.lo + g.w ≤ 8 * (f.off % 8) + f.lo)

/-- A field lies within its 8-byte slot. -/
def Fld.fits (f : Fld) : Bool := decide (8 * (f.off % 8) + f.lo + f.w ≤ 64)

/-- The command of an opcode on stall k (R64). -/
def opCmd (op : Op) (k : Nat) : Instr :=
  match op with
  | .nop => .nop k | .mov => .mov k | .xch => .xch k | .lea => .lea k | .push => .push k | .pop => .pop k | .clr => .clr k
  | .swpb => .swpb k | .add => .add k | .adc => .adc k | .sub => .sub k | .sbc => .sbc k | .cmp => .cmp k | .neg => .neg k
  | .inc => .inc k | .dec => .dec k | .and => .and k | .or => .or k | .xor => .xor k | .not => .not k | .tst => .tst k
  | .sext => .sext k | .mul => .mul k | .mulu => .mulu k | .div => .div k | .divs => .divs k | .shl => .shl k | .shr => .shr k
  | .sar => .sar k | .rol => .rol k | .ror => .ror k | .bit => .bit k | .lda => .lda k | .sta => .sta k | .adda => .adda k
  | .suba => .suba k | .mpy => .mpy k | .mac => .mac k | .msu => .msu k | .rnd => .rnd k | .sha => .sha k | .abs => .abs k
  | .mvc => .mvc k | .br => .br k | .jmp => .jmp k | .call => .call k | .ret => .ret k | .reti => .reti k | .dbnz => .dbnz k
  | .dbrc => .dbrc k | .ldrc => .ldrc k | .rpt => .rpt k | .lock => .lock k | .swi => .swi k | .wait => .wait k
  | .sync => .sync k | .user => .userOpcode k

/-- No breakpoint names stall k or may halt it, no halt is pending, it is not single-stepped and holds no park reason: at the
end of an instruction it goes on (R155, R523, R525, R527). -/
structure GoesOn (s : State) (k : Nat) (st : Stall) : Prop where
  noBreak   : ∀ n, n < 8 → bpOn s n k [1, 2, 3, 4] = false
  noPending : st.haltPend = none
  noStep    : st.stepping = false
  noReason  : st.reasons = []

/-- The ticks that instruction `i` takes at the stall's boundary, six where it is an SWI that enters (R62, R104). -/
def instTicks (s : State) (st : Stall) (slot : Nat) (i : Inst) : Nat :=
  let (r, cost) := runInst (s.codeOf st slot) st s.time i
  ticksOf i r cost

/-- Stall k stands at a boundary at which instruction `i` starts: it is in an execution slice on a running slot, nothing of
the boundary is outstanding, `i` passes the static checks, R22 lets it go on, every access of it translates, and neither an agent
access nor a hold stands in the way, nor the store buffer for longer than the slot may be kept (R22, R29, R31, R64, R129, R149,
R313, R372). -/
structure Ready (s : State) (k : Nat) (st : Stall) (slot : Nat) (i : Inst) : Prop extends GoesOn s k st where
  live    : s.live k = some (st, slot)
  start   : mayStart s st = true
  decoded : nextInst (s.codeOf st slot) st = .ok i
  permits : permitted s st = true
  served  : instFails st i (runInst (s.codeOf st slot) st s.time i).1 = false
  agents  : agentsClear st (st.tick + instTicks s st slot i) = true
  holds   : holdFor st (runInst (s.codeOf st slot) st s.time i).1 (instTicks s st slot i) = .none
  stores  : s.storeHeld slot st (runInst (s.codeOf st slot) st s.time i).1 = true → s.storeEvicts slot st = false

/-- The stall after instruction `i`. -/
def afterInst (s : State) (st : Stall) (slot : Nat) (i : Inst) : Stall :=
  let (r, cost) := runInst (s.codeOf st slot) st s.time i
  (commit st i r cost).pastBreak

/-- The device once the writes of instruction `i` have entered the store buffer of the stall's core (R128). -/
def State.bufferInst (s : State) (st : Stall) (slot : Nat) (i : Inst) : State :=
  let r := (runInst (s.codeOf st slot) st s.time i).1
  s.buffer slot st (s.storeHeld slot st r) (st.tick + instTicks s st slot i - 1) (instWrites st r)

/-- The device once the frame of an entry has entered the store buffer of the stall's core (R128). -/
def State.bufferFrame (s : State) (slot : Nat) (st : Stall) : State := s.buffer slot st false (st.tick + 5) (frameWrites st 0 0 0)

/-- The latched bit of event source n (R468). -/
def State.evLatched (s : State) (n : Nat) : Bool := s.get ⟨0x10140 + 4 * (n / 32), n % 32, 1⟩ == 1

/-- The form of a firmware command's code: its modes and arguments (R457). -/
def formOf (code : Nat) : Option Form := if code = ringDeleteCode then some ringDeleteForm else (catalogue code).map (·.1)

/-- A request waits that carries a command of major version 3 which the present mode permits and whose arguments have its form:
firmware runs the command and answers it (R455 – R457). -/
structure Accepts (s : State) (code : Nat) : Prop where
  waits  : s.reqWaits = true
  isCode : s.reqCode = code
  major  : s.reqMajor = 3
  entry  : ∃ f, formOf code = some f ∧ f.modes.ok s.mode = true ∧ f.argsOk s.reqN s.reqDwords = true

end Sys2Proof.Machine
end

