-- ==== Sys2Proof/Certificates/Slice0/Obligations.lean ====
section
/-! DEFINITION. The statements about the block. -/

open Sys2Proof Sys2Proof.Machine

/-! ### The queue, the clock and the whole machine -/

/-- With a command at the front of the queue a step runs it on the state with the queue's rest. -/
def Obligations.StepRunsTheFront : Prop :=
  ∀ (s : State) (c : Instr), step { s with pending := c :: s.pending } = exec c s

/-- With an empty queue a step is one nanosecond of the oscillator (the model's choice, log entry 2): CAD_TIME advances by one
million plus the frequency correction, in millionths, the rest carried over; a correction of 0 to 100 ppm either way gives 0, 1
or 2 ns, and none gives 1. The queue stays empty and every stall, title, ring and memory stays; one nanosecond drains the store
buffers once, none leaves them; while the monitor port is not ACTIVE the register file stays too. -/
def Obligations.EmptyQueueTicks : Prop :=
  ∀ (s : State), s.pending = [] →
    let a := ((1000000 : Int) + s.slew + s.slewAcc).toNat
    ∃ t, step s = .next t ∧ t.time = s.time + a / 1000000 ∧ t.slewAcc = a % 1000000 ∧ t.slew = s.slew ∧ t.pending = [] ∧
      t.mode = s.mode ∧ t.stalls = s.stalls ∧ t.titles = s.titles ∧ t.rings = s.rings ∧ t.hbm = s.hbm ∧ t.host = s.host ∧
      (a / 1000000 = 0 → t.sbuf = s.sbuf) ∧ (a / 1000000 = 1 → t.sbuf = s.drainTick.sbuf) ∧
      (s.get MON_STAT_ACTIVE = 0 → t.regs = s.regs) ∧ (s.slew = 0 → s.slewAcc < 1000000 → t.time = s.time + 1) ∧
      (s.slew.natAbs ≤ 100 → s.slewAcc < 1000000 → t.time ≤ s.time + 2)

/-- Every step keeps the canonical forms of device memory, of host memory and of the register file. -/
def Obligations.StepKeepsInvariant : Prop :=
  ∀ (s t : State), s.Inv → step s = .next t → t.Inv

/-- The state after reset meets the invariant, with an empty queue, in mode BOOT, with every register of BAR0 at its Reset
value, HBM cleared and no stall, title or ring. -/
def Obligations.ResetState : Prop :=
  State.reset.Inv ∧ State.reset.pending = [] ∧ State.reset.mode = .boot ∧ State.reset.stalls = [] ∧ State.reset.titles = [] ∧
    State.reset.rings = [] ∧ (∀ q, getQ State.reset.regs q = resetQ q) ∧ ∀ a, Memory.get State.reset.hbm a = 0

/-- Every command answers a next state; it takes nothing from the queue behind it, draws free values forwards only, and never
restores a fuse: SEC_EPOCH never falls and no bit of FWKEY_REVOKE is cleared. -/
def Obligations.CommandsKeepQueueAndFuses : Prop :=
  ∀ (c : Instr) (s : State), ∃ t, exec c s = .next t ∧ t.pending = s.pending ∧ s.free ≤ t.free ∧ s.otpEpoch ≤ t.otpEpoch ∧
    ∀ n, bitAt s.otpRevoked n = true → bitAt t.otpRevoked n = true

/-! ### Instructions of a session core -/

/-- An instruction that stands ready at its stall's boundary executes under the command of its opcode: the stall becomes what
the instruction leaves, its writes enter the store buffer of its core, and everything else of the device stays. -/
def Obligations.OpcodesComplete : Prop :=
  ∀ (s : State) (k slot : Nat) (st : Stall) (i : Inst), Ready s k st slot i → (st.cpu.rep = 0 ∨ st.cpu.repFirst = true) →
    exec (opCmd i.op k) s = .next ((s.bufferInst st slot i).setStall (afterInst s st slot i))

/-- A further repetition executes the repeated instruction again, uses up one of the count, and leaves PC at the instruction
while repetitions remain. -/
def Obligations.RepetitionCompletes : Prop :=
  ∀ (s : State) (k slot : Nat) (st : Stall) (i : Inst), Ready s k st slot i → 0 < st.cpu.rep → st.cpu.repFirst = false →
    exec (.repetition k) s = .next ((s.bufferInst st slot i).setStall (afterInst s st slot i)) ∧
    (notRepeatable i.op = false → (afterInst s st slot i).cpu.rep = st.cpu.rep - 1 ∧
      (2 ≤ st.cpu.rep → (afterInst s st slot i).cpu.pc = st.cpu.pc))

/-- What an instruction that is no SWI leaves in the processor: TICK advances by its cost, PC goes where it says or to the next
instruction, and FLAGS, CTL, RC and the accumulators take its results. -/
def Obligations.InstructionRegisters : Prop :=
  ∀ (s : State) (st : Stall) (slot : Nat) (i : Inst), i.op ≠ .swi →
    let r := (runInst (s.codeOf st slot) st s.time i).1
    let t := afterInst s st slot i
    t.tick = st.tick + (runInst (s.codeOf st slot) st s.time i).2 ∧
    t.cpu.flags = BitVec.ofNat 16 r.flags ∧ t.cpu.ctl = BitVec.ofNat 16 r.ctl ∧ t.cpu.rc = BitVec.ofNat 16 r.rc ∧
    t.cpu.a0 = (r.a0.map (BitVec.ofNat 40)).getD st.cpu.a0 ∧ t.cpu.a1 = (r.a1.map (BitVec.ofNat 40)).getD st.cpu.a1 ∧
    (st.cpu.rep ≤ 1 → t.cpu.pc = BitVec.ofNat 22 (r.pc.getD ((st.cpu.pc.toNat + i.len) % 2 ^ 22)))

/-- R60: when each condition holds, on FLAGS and, for VB, on the line at the start tick; an instruction executes only if its
condition holds. -/
def Obligations.ConditionCodes : Prop :=
  ∀ (c : Code) (st : Stall) (time : Nat) (i : Inst),
    let f := st.cpu.flags.toNat
    let cf := bitAt f 0; let v := bitAt f 1; let z := bitAt f 2; let n := bitAt f 3
    let line := lineOf st.cls st.tick
    let e := Env.start st time c.cart
    let holds := condOk st i
    (i.cond = 0x0 → holds = true) ∧ (i.cond = 0x1 → holds = z) ∧ (i.cond = 0x2 → holds = !z) ∧ (i.cond = 0x3 → holds = cf) ∧
    (i.cond = 0x4 → holds = !cf) ∧ (i.cond = 0x5 → holds = n) ∧ (i.cond = 0x6 → holds = !n) ∧ (i.cond = 0x7 → holds = v) ∧
    (i.cond = 0x8 → holds = !v) ∧ (i.cond = 0x9 → (holds = true ↔ cf = false ∧ z = false)) ∧
    (i.cond = 0xA → (holds = true ↔ cf = true ∨ z = true)) ∧ (i.cond = 0xB → (holds = true ↔ n = v)) ∧
    (i.cond = 0xC → (holds = true ↔ n ≠ v)) ∧ (i.cond = 0xD → (holds = true ↔ z = false ∧ n = v)) ∧
    (i.cond = 0xE → (holds = true ↔ z = true ∨ n ≠ v)) ∧
    (i.cond = 0xF → (holds = true ↔ (if st.cls = .L then 240 else 480) ≤ line)) ∧
    (holds = true → (runInst c st time i).1 = operate c e i (nextPc st i)) ∧
    (holds = false → (runInst c st time i).1 = Res.none e)

/-- An instruction whose condition does not hold reads and writes nothing, applies no pointer update and changes no flag; it
costs its length in Class L and 1 tick in the others. With no agent or raster effect due, the stall's memory stays as it is. -/
def Obligations.ConditionFalse : Prop :=
  ∀ (s : State) (k slot : Nat) (st : Stall) (i : Inst), Ready s k st slot i → (st.cpu.rep = 0 ∨ st.cpu.repFirst = true) →
    condOk st i = false → st.pend = [] → st.src.collDue = [] → st.ras.ahead = [] →
    ∃ t st', exec (opCmd i.op k) s = .next t ∧ t.stall? k = some st' ∧
      st'.tick = st.tick + (if st.cls = .L then i.len else 1) ∧ st'.mem = st.mem ∧ st'.rview = st.rview ∧ st'.stamps = st.stamps ∧
      st'.cpu.flags = st.cpu.flags ∧ st'.cpu.ctl = st.cpu.ctl ∧ st'.cpu.rc = st.cpu.rc ∧ st'.cpu.a0 = st.cpu.a0 ∧
      st'.cpu.a1 = st.cpu.a1 ∧ st'.subs = st.subs ∧ st'.lane = st.lane

/-- Which registers an opcode can change at all: A0 and A1 only the accumulator loads, sums, products and shifts and user opcodes;
RC only DBRC and LDRC; CTL only MVC and RETI; P15 by itself only the stack operations; PC only the branches, RPT with count 0 and
RETI; the repeat latch only RPT and RETI; the lock count only LOCK; and FLAGS stay under the opcodes whose Flags column is four
dashes. -/
def Obligations.RegisterFrame : Prop :=
  ∀ (c : Code) (e : Env) (i : Inst) (next : Nat),
    let r := operate c e i next
    let cpu := e.st.cpu
    (i.op ∉ [.lda, .adda, .suba, .mpy, .mac, .msu, .sha, .user] → r.a0 = none ∧ r.a1 = none) ∧
    (i.op ∉ [.dbrc, .ldrc] → r.rc = cpu.rc.toNat) ∧
    (i.op ∉ [.mvc, .reti] → r.ctl = cpu.ctl.toNat) ∧
    (i.op ∉ [.push, .pop, .call, .ret, .reti] → r.sp = none) ∧
    (i.op ∉ [.br, .jmp, .call, .ret, .reti, .dbnz, .dbrc, .rpt] → r.pc = none) ∧
    (i.op ∉ [.rpt, .reti] → r.rep = none) ∧ (i.op ≠ .lock → r.lock = none) ∧ (i.op ≠ .swi → r.swi = none) ∧
    (i.op ≠ .reti → r.vec = none) ∧ (i.op ∉ [.wait, .sync] → r.idle = .none) ∧
    (i.op ∈ [.nop, .xch, .lea, .push, .lda, .sta, .br, .jmp, .call, .ret, .dbnz, .dbrc, .ldrc, .rpt, .lock, .swi, .wait, .sync] →
      r.flags = cpu.flags.toNat)

/-- The flags and results of the integer sums and differences in byte and word form: C is the carry or the borrow, V the signed
overflow, N and Z those of the result; INC and DEC leave C; NEG sets C unless its operand is 0 and V for the most negative value
only; ABS leaves C, and leaves the most negative value with V = 1; the logical operations clear V and leave C. -/
def Obligations.IntegerFlags : Prop :=
  ∀ (w d s c : Nat), (w = 8 ∨ w = 16) → d < 2 ^ w → s < 2 ^ w → c ≤ 1 →
    let out (x : Int) : Bool := decide (x < -(2 ^ (w - 1) : Nat)) || decide ((2 ^ (w - 1) : Nat) ≤ x)
    let nz (a : Alu) : Prop := a.r < 2 ^ w ∧ a.n = some (decide (2 ^ (w - 1) ≤ a.r)) ∧ a.z = some (decide (a.r = 0))
    (nz (aluAdd w d s c) ∧ (aluAdd w d s c).r = (d + s + c) % 2 ^ w ∧ (aluAdd w d s c).c = some (decide (2 ^ w ≤ d + s + c)) ∧
      (aluAdd w d s c).v = some (out (toSigned w d + toSigned w s + c))) ∧
    (nz (aluSub w d s c) ∧ ((aluSub w d s c).r : Int) = ((d : Int) - s - c) % (2 ^ w : Nat) ∧
      (aluSub w d s c).c = some (decide (d < s + c)) ∧ (aluSub w d s c).v = some (out (toSigned w d - toSigned w s - c))) ∧
    (nz (aluInc w d) ∧ (aluInc w d).r = (d + 1) % 2 ^ w ∧ (aluInc w d).c = none ∧ (aluInc w d).v = some (decide (d = 2 ^ (w - 1) - 1))) ∧
    (nz (aluDec w d) ∧ (aluDec w d).r = (d + (2 ^ w - 1)) % 2 ^ w ∧ (aluDec w d).c = none ∧
      (aluDec w d).v = some (decide (d = 2 ^ (w - 1)))) ∧
    (nz (aluNeg w d) ∧ (aluNeg w d).r = (2 ^ w - d) % 2 ^ w ∧ (aluNeg w d).c = some (decide (d ≠ 0)) ∧
      (aluNeg w d).v = some (decide (d = 2 ^ (w - 1)))) ∧
    (nz (aluAbs w d) ∧ (toSigned w d ≠ -(2 ^ (w - 1) : Nat) → (aluAbs w d).r = (toSigned w d).natAbs) ∧ (aluAbs w d).c = none ∧
      (aluAbs w d).v = some (decide (d = 2 ^ (w - 1))) ∧ (d = 2 ^ (w - 1) → (aluAbs w d).r = d)) ∧
    (nz (aluLogic w d) ∧ (aluLogic w d).r = d ∧ (aluLogic w d).v = some false ∧ (aluLogic w d).c = none)

/-- R70: the arithmetic edge results, in word form with a destination that has an effective address. -/
def Obligations.ArithmeticEdges : Prop :=
  ∀ (c : Code) (e0 : Env) (i : Inst) (next x : Nat),
    let eas := (e0.eas (sizeOf_ i) i.opds).1
    let e := (e0.eas (sizeOf_ i) i.opds).2
    let oa := nthD i.opds 0 ⟨0, 0, 0⟩
    let d := (e.value 2 oa (some x)).1
    let e1 := (e.value 2 oa (some x)).2
    let s := (e1.value 2 (nthD i.opds 1 ⟨0, 0, 0⟩) (nthD eas 1 none)).1
    let r := operate c e0 i next
    let old := e0.st.cpu.flags.toNat
    let fC := bitAt r.flags 0; let fV := bitAt r.flags 1; let fZ := bitAt r.flags 2; let fN := bitAt r.flags 3; let fDZ := bitAt r.flags 4
    sizeOf_ i = 2 → nthD eas 0 none = some x →
    (i.op = .neg → d = 0x8000 → r.wrs = [(x, leBytes 2 0x8000)] ∧ fN = true ∧ fZ = false ∧ fV = true ∧ fC = true) ∧
    (i.op = .neg → d = 0 → r.wrs = [(x, leBytes 2 0)] ∧ fZ = true ∧ fV = false ∧ fC = false) ∧
    (i.op = .abs → d = 0x8000 → r.wrs = [(x, leBytes 2 0x8000)] ∧ fN = true ∧ fV = true) ∧
    (i.op = .divs → d = 0x8000 → s = 0xFFFF →
      r.wrs = [(x, leBytes 2 0x8000), ((x + 2) % 2 ^ 24, leBytes 2 0)] ∧ fN = true ∧ fZ = false ∧ fV = true ∧ fDZ = false) ∧
    (i.op = .inc → d = 0x7FFF → r.wrs = [(x, leBytes 2 0x8000)] ∧ fN = true ∧ fV = true ∧ fC = bitAt old 0) ∧
    (i.op = .dec → d = 0x8000 → r.wrs = [(x, leBytes 2 0x7FFF)] ∧ fN = false ∧ fV = true ∧ fC = bitAt old 0) ∧
    (i.op = .mul → d = 0x8000 → s = 0x8000 →
      r.wrs = [(x, leBytes 2 0), ((x + 2) % 2 ^ 24, leBytes 2 0x4000)] ∧ fN = false ∧ fZ = false)

/-- R69: shifts and rotates take the count c = s[4:0] and give the result bit by bit, in byte and word form: count 0 changes
neither the value nor C; every one of them clears V and sets N and Z from the result; the shifted-out bit, the sign or the end bit of
a rotation goes to C. -/
def Obligations.ShiftResults : Prop :=
  (∀ (c : Code) (e0 : Env) (i : Inst) (next : Nat),
    let n := sizeOf_ i
    let eas := (e0.eas n i.opds).1
    let e := (e0.eas n i.opds).2
    let a := nthD eas 0 none
    let d := (e.value n (nthD i.opds 0 ⟨0, 0, 0⟩) a).1
    let e1 := (e.value n (nthD i.opds 0 ⟨0, 0, 0⟩) a).2
    let s := (e1.value n (nthD i.opds 1 ⟨0, 0, 0⟩) (nthD eas 1 none)).1
    let r := operate c e0 i next
    ∀ p ∈ [(Op.shl, aluShl), (.shr, aluShr), (.sar, aluSar), (.rol, aluRol), (.ror, aluRor)], i.op = p.1 →
      r.flags = withAlu e0.st.cpu.flags.toNat (p.2 (8 * n) d (s % 32)) ∧
      ∀ x, a = some x → r.wrs = [(x, leBytes n (p.2 (8 * n) d (s % 32)).r)]) ∧
  (∀ (w d c : Nat), (w = 8 ∨ w = 16) → d < 2 ^ w → c < 32 →
      (∀ f ∈ [aluShl, aluShr, aluSar, aluRol, aluRor], (f w d c).r < 2 ^ w ∧ (f w d c).v = some false ∧
        (f w d c).n = some (bitAt (f w d c).r (w - 1)) ∧ (f w d c).z = some (decide ((f w d c).r = 0)) ∧
        (c = 0 → (f w d c).r = d ∧ (f w d c).c = none)) ∧
      (0 < c → (∀ i, i < w → bitAt (aluShl w d c).r i = (decide (c ≤ i) && bitAt d (i - c))) ∧
        (aluShl w d c).c = some (decide (c ≤ w) && bitAt d (w - c))) ∧
      (0 < c → (∀ i, i < w → bitAt (aluShr w d c).r i = (decide (i + c < w) && bitAt d (i + c))) ∧
        (aluShr w d c).c = some (decide (c ≤ w) && bitAt d (c - 1))) ∧
      (0 < c → (∀ i, i < w → bitAt (aluSar w d c).r i = bitAt d (min (i + c) (w - 1))) ∧
        (aluSar w d c).c = some (bitAt d (min (c - 1) (w - 1)))) ∧
      (0 < c → (∀ i, i < w → bitAt (aluRol w d c).r ((i + c) % w) = bitAt d i) ∧ (aluRol w d c).c = some (bitAt (aluRol w d c).r 0)) ∧
      (0 < c → (∀ i, i < w → bitAt (aluRor w d c).r i = bitAt d ((i + c) % w)) ∧
        (aluRor w d c).c = some (bitAt (aluRor w d c).r (w - 1))))

/-- Products and quotients: MUL and MULU give the exact 32-bit product, DIV and DIVS quotient and remainder, DIVS truncating
towards zero with the dividend's sign in the remainder; a zero divisor gives the fixed results and DZ. -/
def Obligations.ProductsAndQuotients : Prop :=
  ∀ (a b : Nat), a < 65536 → b < 65536 →
    (toSigned 32 (aluMul true a b).r = toSigned 16 a * toSigned 16 b ∧ (aluMul false a b).r = a * b) ∧
    (b ≠ 0 → ∃ q m, divide false a b = (q, m, false, false) ∧ a = q * b + m ∧ m < b) ∧
    (b ≠ 0 → ¬(a = 32768 ∧ b = 65535) → ∃ q m, divide true a b = (q, m, false, false) ∧
      toSigned 16 a = toSigned 16 q * toSigned 16 b + toSigned 16 m ∧ (toSigned 16 m).natAbs < (toSigned 16 b).natAbs ∧
      (toSigned 16 m = 0 ∨ (0 < toSigned 16 m ↔ 0 < toSigned 16 a))) ∧
    divide false a 0 = (0xFFFF, a, false, true) ∧
    divide true a 0 = (if a < 32768 then 0x7FFF else 0x8000, a, false, true)

/-- Accumulator arithmetic: place puts an operand at bits 31:16 or sign-extends it; the product of two words is doubled with
CTL.FRAC; a sum is taken modulo 2^40 with V on signed overflow; SHA by a positive count multiplies and by a negative one divides
towards minus infinity; rounding saturates with CTL.SAT. -/
def Obligations.AccumulatorResults : Prop :=
  (∀ s, s < 65536 → toSigned 40 (place 0 s) = toSigned 16 s * 65536 ∧ toSigned 40 (place 1 s) = toSigned 16 s) ∧
  (∀ a b, a < 65536 → b < 65536 → toSigned 40 (prod false a b) = toSigned 16 a * toSigned 16 b ∧
    toSigned 40 (prod true a b) = 2 * (toSigned 16 a * toSigned 16 b)) ∧
  (∀ i : Int, (accRes i).r < 2 ^ 40 ∧ ((accRes i).r : Int) = i % (2 ^ 40 : Nat) ∧
    (accRes i).v = some (decide (i < -(2 ^ 39 : Nat)) || decide ((2 ^ 39 : Nat) ≤ i)) ∧
    (accRes i).n = some (decide (2 ^ 39 ≤ (accRes i).r)) ∧ (accRes i).z = some (decide ((accRes i).r = 0)) ∧ (accRes i).c = none) ∧
  (∀ a s, a < 2 ^ 40 → s < 65536 → toSigned 6 s < 0 →
    toSigned 40 (aluSha a s).r = toSigned 40 a / (2 ^ (-toSigned 6 s).toNat : Nat) ∧ (aluSha a s).v = some false) ∧
  (∀ a s, a < 2 ^ 40 → s < 65536 → 0 ≤ toSigned 6 s →
    (aluSha a s).r = a * 2 ^ (toSigned 6 s).toNat % 2 ^ 40 ∧
    ((aluSha a s).v = some false ↔ toSigned 40 (aluSha a s).r / (2 ^ (toSigned 6 s).toNat : Nat) = toSigned 40 a)) ∧
  (∀ (sat : Bool) (a : Nat), a < 2 ^ 40 →
    let x := toSigned 40 ((a + 0x8000) % 2 ^ 40)
    (-(2 ^ 31 : Nat) ≤ x ∧ x < (2 ^ 31 : Nat) → toSigned 16 (round16 sat a).r = x / 65536 ∧ (round16 sat a).v = some false) ∧
    ((2 ^ 31 : Nat) ≤ x → (round16 sat a).v = some true ∧ (round16 true a).r = 0x7FFF) ∧
    (x < -(2 ^ 31 : Nat) → (round16 sat a).v = some true ∧ (round16 true a).r = 0x8000))

/-- The operations of two operands: the destination is read first, then the source; the result goes to the destination's
effective address and the flags follow; CMP and TST write nothing. -/
def Obligations.TwoOperandForms : Prop :=
  ∀ (c : Code) (e0 : Env) (i : Inst) (next : Nat),
    let n := sizeOf_ i
    let w := 8 * n
    let eas := (e0.eas n i.opds).1
    let e := (e0.eas n i.opds).2
    let a := nthD eas 0 none
    let d := (e.value n (nthD i.opds 0 ⟨0, 0, 0⟩) a).1
    let e1 := (e.value n (nthD i.opds 0 ⟨0, 0, 0⟩) a).2
    let s := (e1.value n (nthD i.opds 1 ⟨0, 0, 0⟩) (nthD eas 1 none)).1
    let cin := b2n (bitAt e0.st.cpu.flags.toNat 0)
    let r := operate c e0 i next
    let gives (x : Alu) : Prop :=
      r.flags = withAlu e0.st.cpu.flags.toNat x ∧ r.wrs = (match a with | some a => [(a, leBytes n x.r)] | none => [])
    (i.op = .add → gives (aluAdd w d s 0)) ∧ (i.op = .adc → gives (aluAdd w d s cin)) ∧ (i.op = .sub → gives (aluSub w d s 0)) ∧
    (i.op = .sbc → gives (aluSub w d s cin)) ∧ (i.op = .and → gives (aluLogic w (d &&& s))) ∧
    (i.op = .or → gives (aluLogic w (d ||| s))) ∧ (i.op = .xor → gives (aluLogic w (d ^^^ s))) ∧
    (i.op = .shl → gives (aluShl w d (s % 32))) ∧ (i.op = .shr → gives (aluShr w d (s % 32))) ∧
    (i.op = .sar → gives (aluSar w d (s % 32))) ∧ (i.op = .rol → gives (aluRol w d (s % 32))) ∧
    (i.op = .ror → gives (aluRor w d (s % 32))) ∧
    (i.op = .cmp → r.flags = withAlu e0.st.cpu.flags.toNat (aluSub w d s 0) ∧ r.wrs = []) ∧
    (i.op = .tst → r.flags = withAlu e0.st.cpu.flags.toNat (aluLogic w (d &&& s)) ∧ r.wrs = []) ∧
    (i.op = .xch → r.flags = e0.st.cpu.flags.toNat ∧ (∀ x y, a = some x → nthD eas 1 none = some y →
      r.wrs = [(x, leBytes n s), (y, leBytes n d)]))

/-- The operations of one operand. -/
def Obligations.OneOperandForms : Prop :=
  ∀ (c : Code) (e0 : Env) (i : Inst) (next : Nat),
    let n := sizeOf_ i
    let w := 8 * n
    let eas := (e0.eas n i.opds).1
    let e := (e0.eas n i.opds).2
    let a := nthD eas 0 none
    let d := (e.value n (nthD i.opds 0 ⟨0, 0, 0⟩) a).1
    let e1 := (e.value n (nthD i.opds 0 ⟨0, 0, 0⟩) a).2
    let r := operate c e0 i next
    let gives (x : Alu) : Prop :=
      r.flags = withAlu e0.st.cpu.flags.toNat x ∧ r.wrs = (match a with | some a => [(a, leBytes n x.r)] | none => [])
    (i.op = .clr → gives (aluLogic w 0)) ∧ (i.op = .neg → gives (aluNeg w d)) ∧ (i.op = .inc → gives (aluInc w d)) ∧
    (i.op = .dec → gives (aluDec w d)) ∧ (i.op = .abs → gives (aluAbs w d)) ∧
    (i.op = .not → gives (aluLogic w (2 ^ w - 1 - d))) ∧
    (i.op = .swpb → gives (aluLogic 16 (d % 256 * 256 + d / 256))) ∧
    (i.op = .sext → gives (aluLogic 16 (ofSigned 16 (toSigned 8 d)))) ∧
    (i.op = .mov → gives (aluLogic w (e.value n (nthD i.opds 1 ⟨0, 0, 0⟩) (nthD eas 1 none)).1)) ∧
    (i.op = .bit → ∀ k, k = (e1.value n (nthD i.opds 1 ⟨0, 0, 0⟩) (nthD eas 1 none)).1 % w →
      bitAt r.flags 2 = !(bitAt d k) ∧
      (∀ x, a = some x →
        (i.form % 4 = 0 → r.wrs = []) ∧ (i.form % 4 = 1 → r.wrs = [(x, leBytes n (d ||| 2 ^ k))]) ∧
        (i.form % 4 = 2 → r.wrs = [(x, leBytes n (if bitAt d k then d - 2 ^ k else d))]) ∧
        (i.form % 4 = 3 → r.wrs = [(x, leBytes n (d ^^^ 2 ^ k))])))

/-- The stack operations all use P15 as it stood at the start: PUSH writes at P15 - 2, POP reads at P15 and adds 2, CALL pushes
the 32-bit address of the next instruction, RET and RETI pop, and RETI takes PC, FLAGS but LKB, CTL and REP from its frame. -/
def Obligations.StackOperations : Prop :=
  ∀ (c : Code) (e0 : Env) (i : Inst) (next : Nat),
    let p := e0.p15
    let eas := (e0.eas (sizeOf_ i) i.opds).1
    let e := (e0.eas (sizeOf_ i) i.opds).2
    let a := nthD eas 0 none
    let oa := nthD i.opds 0 ⟨0, 0, 0⟩
    let r := operate c e0 i next
    (i.op = .push → r.sp = some ((p + 2 ^ 24 - 2) % 2 ^ 24) ∧
      r.wrs = [((p + 2 ^ 24 - 2) % 2 ^ 24, leBytes 2 (e.value 2 oa a).1)]) ∧
    (i.op = .pop → r.sp = some ((p + 2) % 2 ^ 24) ∧ ∀ x, a = some x →
      r.wrs = [(x, leBytes 2 (ofLE (e.bytes p 2)))]) ∧
    (i.op = .call → r.sp = some ((p + 2 ^ 24 - 4) % 2 ^ 24) ∧ r.pc = some (farTarget e oa a).1 ∧
      r.wrs = [((p + 2 ^ 24 - 4) % 2 ^ 24, leBytes 2 (next % 65536)),
        (((p + 2 ^ 24 - 4) % 2 ^ 24 + 2) % 2 ^ 24, leBytes 2 (next / 65536))]) ∧
    (i.op = .ret → r.sp = some ((p + 4) % 2 ^ 24) ∧ r.pc = some (ofLE (e.bytes p 4) % 2 ^ 22) ∧ r.wrs = []) ∧
    (i.op = .reti → r.sp = some ((p + 12) % 2 ^ 24) ∧ r.pc = some (leAt (e.bytes p 12) 0 4 % 2 ^ 22) ∧
      r.flags = leAt (e.bytes p 12) 4 2 % 32 + e0.st.cpu.flags.toNat / 32 % 2 * 32 ∧ r.ctl = leAt (e.bytes p 12) 6 2 % 16 ∧
      r.rep = some (leAt (e.bytes p 12) 8 2 % 1024) ∧ r.vec = some (leAt (e.bytes p 12) 10 1) ∧ r.wrs = [])

/-- Where control goes: BR, DBNZ and DBRC by the signed field of mode 4 from the next instruction, JMP by the address of mode 5;
DBNZ writes d - 1 and branches while it is not zero; DBRC does nothing with RC = 0 and branches while RC - 1 is not zero; LDRC
moves RC; MVC moves FLAGS (six bits) and CTL (four bits). -/
def Obligations.ControlTransfers : Prop :=
  ∀ (c : Code) (e0 : Env) (i : Inst) (next : Nat),
    let eas := (e0.eas (sizeOf_ i) i.opds).1
    let e := (e0.eas (sizeOf_ i) i.opds).2
    let a := nthD eas 0 none
    let oa := nthD i.opds 0 ⟨0, 0, 0⟩
    let ob := nthD i.opds 1 ⟨0, 0, 0⟩
    let r := operate c e0 i next
    let rc := e0.st.cpu.rc.toNat
    (i.op = .br → r.pc = some (((next : Int) + toSigned 11 oa.field) % (2 ^ 22 : Nat)).toNat ∧ r.wrs = []) ∧
    (i.op = .jmp → oa.mode = 5 → r.pc = some (farAddr oa % 2 ^ 22) ∧ r.wrs = []) ∧
    (i.op = .dbnz → ∀ x, a = some x →
      let v := ((e.value 2 oa a).1 + 65535) % 65536
      r.wrs = [(x, leBytes 2 v)] ∧ r.pc = if v = 0 then none else some (((next : Int) + toSigned 11 ob.field) % (2 ^ 22 : Nat)).toNat) ∧
    (i.op = .dbrc → r.wrs = [] ∧ (rc = 0 → r.rc = 0 ∧ r.pc = none) ∧ (rc = 1 → r.rc = 0 ∧ r.pc = none) ∧
      (2 ≤ rc → r.rc = rc - 1 ∧ r.pc = some (((next : Int) + toSigned 11 oa.field) % (2 ^ 22 : Nat)).toNat)) ∧
    (i.op = .ldrc → (bitAt i.form 0 = false → r.rc = (e.value 2 oa a).1 ∧ r.wrs = []) ∧
      (bitAt i.form 0 = true → r.rc = rc ∧ ∀ x, a = some x → r.wrs = [(x, leBytes 2 rc)])) ∧
    (i.op = .mvc → (bitAt i.form 2 = true → i.form % 4 = 0 → r.flags = (e.value 2 oa a).1 % 64 ∧ r.ctl = e0.st.cpu.ctl.toNat) ∧
      (bitAt i.form 2 = true → i.form % 4 = 1 → r.ctl = (e.value 2 oa a).1 % 16 ∧ r.flags = e0.st.cpu.flags.toNat) ∧
      (bitAt i.form 2 = false → ∀ x, a = some x → r.wrs =
        [(x, leBytes 2 (if i.form % 4 = 0 then e0.st.cpu.flags.toNat else e0.st.cpu.ctl.toNat))]))

/-- The prefixes and the waits: RPT latches a count of 1 – 1,023 or, with 0, skips the instruction behind it; LOCK, SWI, WAIT and
SYNC only say what the commit is to do; LEA writes the effective address into its pointer cell; NOP does nothing. -/
def Obligations.PrefixesAndWaits : Prop :=
  ∀ (c : Code) (e0 : Env) (i : Inst) (next : Nat),
    let eas := (e0.eas (sizeOf_ i) i.opds).1
    let e := (e0.eas (sizeOf_ i) i.opds).2
    let a := nthD eas 0 none
    let oa := nthD i.opds 0 ⟨0, 0, 0⟩
    let r := operate c e0 i next
    (i.op = .nop → r.wrs = []) ∧
    (i.op = .lea → r.wrs = [(0x40 + 4 * (i.form % 16), leBytes 3 (a.getD 0 % 2 ^ 24) ++ [0])]) ∧
    (i.op = .rpt → (0 < (e.value 2 oa a).1 % 1024 → r.rep = some ((e.value 2 oa a).1 % 1024) ∧ r.pc = none) ∧
      ((e.value 2 oa a).1 % 1024 = 0 → r.rep = none ∧ r.pc = some ((next + (parseAt c.fetch c.ucs next).1.len) % 2 ^ 22))) ∧
    (i.op = .lock → r.lock = some (immVal 2 oa) ∧ r.wrs = []) ∧ (i.op = .swi → r.swi = some (immVal 2 oa) ∧ r.wrs = []) ∧
    (i.op = .wait → r.idle = .wait ∧ r.wrs = []) ∧ (i.op = .sync → r.idle = .sync ∧ r.wrs = [])

/-- The multiplications, divisions and accumulator operations: which values they take, and where their results go. -/
def Obligations.ProductForms : Prop :=
  ∀ (c : Code) (e0 : Env) (i : Inst) (next : Nat),
    let eas := (e0.eas (sizeOf_ i) i.opds).1
    let e := (e0.eas (sizeOf_ i) i.opds).2
    let a := nthD eas 0 none
    let oa := nthD i.opds 0 ⟨0, 0, 0⟩
    let d := (e.value 2 oa a).1
    let e1 := (e.value 2 oa a).2
    let s := (e1.value 2 (nthD i.opds 1 ⟨0, 0, 0⟩) (nthD eas 1 none)).1
    let r := operate c e0 i next
    let f := e0.st.cpu.flags.toNat
    let k := b2n (bitAt i.form 2)
    let z := e0.acc k
    let frac := bitAt e0.st.cpu.ctl.toNat 3
    let pair (x lo hi : Nat) : Prop := r.wrs = [(x, leBytes 2 lo), ((x + 2) % 2 ^ 24, leBytes 2 hi)]
    let acc (x : Alu) : Prop := (if k = 0 then r.a0 else r.a1) = some x.r ∧ (if k = 0 then r.a1 else r.a0) = none ∧ r.flags = withAlu f x ∧
      r.wrs = []
    (∀ x, a = some x →
      (i.op = .mul → pair x ((aluMul true d s).r % 65536) ((aluMul true d s).r / 65536) ∧ r.flags = withAlu f (aluMul true d s)) ∧
      (i.op = .mulu → pair x ((aluMul false d s).r % 65536) ((aluMul false d s).r / 65536) ∧
        r.flags = withAlu f (aluMul false d s)) ∧
      (i.op = .div → ∀ q m v dz, divide false d s = (q, m, v, dz) → pair x q m ∧
        r.flags = putField (withAlu f (divFlags q v)) 4 1 (b2n dz) ∧ r.dz = dz) ∧
      (i.op = .divs → ∀ q m v dz, divide true d s = (q, m, v, dz) → pair x q m ∧
        r.flags = putField (withAlu f (divFlags q v)) 4 1 (b2n dz) ∧ r.dz = dz) ∧
      (i.op = .sta → r.flags = f ∧ r.wrs = [(x, leBytes 2 (if i.form % 4 = 0 then field z 16 16 else if i.form % 4 = 1 then field z 0 16
        else ofSigned 16 (toSigned 8 (field z 32 8))))]) ∧
      (i.op = .rnd → r.flags = withAlu f (round16 (bitAt e0.st.cpu.ctl.toNat 1) z) ∧ r.a0 = none ∧ r.a1 = none ∧
        r.wrs = [(x, leBytes 2 (round16 (bitAt e0.st.cpu.ctl.toNat 1) z).r)])) ∧
    (i.op = .lda → (if k = 0 then r.a0 else r.a1) = some (place (i.form % 2) d) ∧ (if k = 0 then r.a1 else r.a0) = none ∧ r.wrs = []) ∧
    (i.op = .adda → acc (accRes (toSigned 40 z + toSigned 40 (place (i.form % 2) d)))) ∧
    (i.op = .suba → acc (accRes (toSigned 40 z - toSigned 40 (place (i.form % 2) d)))) ∧
    (i.op = .mpy → acc (accRes (toSigned 40 (prod frac d s)))) ∧
    (i.op = .mac → acc (accRes (toSigned 40 z + toSigned 40 (prod frac d s)))) ∧
    (i.op = .msu → acc (accRes (toSigned 40 z - toSigned 40 (prod frac d s)))) ∧
    (i.op = .sha → acc (aluSha z d))

/-- Interrupt, DIVZERO and ILLEGAL entry of a stall that stands ready for one, whose frame translates: each is an entry of its own vector, DIVZERO and
ILLEGAL whatever CTL.IE, INSV or a locked sequence says; the frame enters the store buffer. -/
def Obligations.EntriesComplete : Prop :=
  ∀ (s : State) (k slot : Nat) (st : Stall), s.live k = some (st, slot) → GoesOn s k st → mayEnter s st = true → permitted s st = true →
    agentsClear st (st.tick + 6) = true → ((frameWrites st 0 0 0).any fun p => rangeFaulted st p.1 p.2.length) = false →
    holdWrites st (st.tick + 6) (frameWrites st 0 0 0) = .none →
    let b := s.bufferFrame slot st
    (∀ l, topLine st = some l → st.cpu.dzDue = false → idling st = false →
      exec (.interruptEntry k) s = .next (b.setStall (enterLine st (entryLine s st l)).pastBreak)) ∧
    (st.cpu.dzDue = true → exec (.divzeroEntry k) s = .next (b.setStall (enterDivZero st).pastBreak)) ∧
    (∀ c, mayStart s st = true → nextInst (s.codeOf st slot) st = .error c →
      exec (.illegalEntry k) s = .next (b.setStall (enterIllegal st c).pastBreak))

/-- What an entry does: it costs 6 ticks, sets PC to four times the vector, lowers P15 by 12 and writes the frame of 12 bytes
there (work RAM, no agent or raster effect due), and changes neither FLAGS, CTL, RC nor an accumulator; a line's entry sets its INSV bit
and ILLEGAL writes its cause to ECAUSE. -/
def Obligations.EntryEffects : Prop :=
  ∀ (st : Stall) (e vec ret rep : Nat),
    let t := enter st e vec ret rep
    (t.tick = e + 6 ∧ t.cpu.pc = BitVec.ofNat 22 (4 * vec) ∧ t.cpu.rep = 0 ∧ t.cpu.lock = 0 ∧ t.cpu.flags = st.cpu.flags ∧
      t.cpu.ctl = st.cpu.ctl ∧ t.cpu.rc = st.cpu.rc ∧ t.cpu.a0 = st.cpu.a0 ∧ t.cpu.a1 = st.cpu.a1) ∧
    (st.pend = [] → st.src.collDue = [] → st.ras.ahead = [] → 0x80 ≤ frameAddr st → frameAddr st + 12 ≤ 0x20800 →
      Memory.getBytes t.mem (frameAddr st) 12 =
        leBytes 4 ret ++ leBytes 2 st.cpu.flags.toNat ++ leBytes 2 st.cpu.ctl.toNat ++ leBytes 2 rep ++ leBytes 1 vec ++ [0] ∧
      ofLE (Memory.getBytes t.mem 0x7C 3) = frameAddr st ∧
      ∀ a, ¬(0x7C ≤ a ∧ a < 0x80) → ¬(frameAddr st ≤ a ∧ a < frameAddr st + 12) → Memory.get t.mem a = Memory.get st.mem a) ∧
    (∀ l, l < 8 → (enterLine st l).cpu.pc = BitVec.ofNat 22 (4 * (4 + l)) ∧ bitAt ((Memory.get (enterLine st l).mem aINSV).toNat) l = true) ∧
    (∀ c, (enterIllegal st c).cpu.pc = 4 ∧ Memory.get (enterIllegal st c).mem aECAUSE = BitVec.ofNat 8 (causeCode c)) ∧
    (enterDivZero st).cpu.pc = 8

/-- An idle step of WAIT or SYNC advances TICK, to at most the next line boundary; the idling ends where its tick is reached. -/
def Obligations.IdleStepCompletes : Prop :=
  ∀ (s : State) (k slot : Nat) (st : Stall), s.live k = some (st, slot) → GoesOn s k st → running st = true → idling st = true →
    boundaryClear s st = true → agentsClear st (st.tick + 1) = true → st.cpu.dzDue = false → pendStuck st = false → permitted s st = true →
    let x := st.idledTo (idleEnd st)
    exec (.idleStep k) s = .next (s.setStall (if idling x then x else x.woken)) ∧
      st.tick < idleEnd st ∧ idleEnd st ≤ (st.tick / tpl st.cls + 1) * tpl st.cls ∧ x.tick = idleEnd st

/-- MEMORY FRAME. With no agent or raster effect due, an instruction that is no SWI changes no byte of its stall's memory but those its writes touch: not counting
the RC registers it reads, INSV under RETI, and the TCTL bytes whose EN bit a one-shot timer clears by itself. -/
def Obligations.MemoryFrame : Prop :=
  ∀ (s : State) (k slot : Nat) (st : Stall) (i : Inst), Ready s k st slot i → (st.cpu.rep = 0 ∨ st.cpu.repFirst = true) →
    i.op ≠ .swi → st.pend = [] → st.src.collDue = [] → st.ras.ahead = [] →
    ∃ t st', exec (opCmd i.op k) s = .next t ∧ t.stall? k = some st' ∧
      ∀ a, a < 2 ^ 24 → a ∉ touched (allWrites (runInst (s.codeOf st slot) st s.time i).1) → a ≠ 0x240120 → a ≠ 0x240130 →
        ¬(0x210892 ≤ a ∧ a < 0x210894) → ¬(0x210896 ≤ a ∧ a < 0x210898) → (i.op = .reti → a ≠ 0x240106) →
        Memory.get st'.mem a = Memory.get st.mem a

/-- ISOLATION. No operation of a session core on stall k, whatever state it starts in, changes another stall, device or host
memory, a ring, a title or the device's mode and clock. -/
def Obligations.CoreOperationsStayInTheirStall : Prop :=
  ∀ (s t : State) (k j : Nat), j ≠ k →
    ((∃ op, exec (opCmd op k) s = .next t) ∨ exec (.repetition k) s = .next t ∨ exec (.idleStep k) s = .next t ∨
      exec (.interruptEntry k) s = .next t ∨ exec (.illegalEntry k) s = .next t ∨ exec (.divzeroEntry k) s = .next t) →
    t.stall? j = s.stall? j ∧ t.hbm = s.hbm ∧ t.host = s.host ∧ t.rings = s.rings ∧ t.titles = s.titles ∧ t.mode = s.mode ∧
      t.time = s.time

/-- Holds, evictions and slots: a raster hold ends when the drawing reaches its tick, a stamp hold when an entry fits, a hold that
lasts costs the slot outside a locked sequence, a held or blocked stall becomes RUNNABLE again, and a stall's quantum ends at a boundary outside a locked
sequence. -/
def Obligations.HoldsComplete : Prop :=
  ∀ (s : State) (k slot : Nat) (st : Stall), s.live k = some (st, slot) →
    (st.hold = .catchUp → st.sched = .running → st.holdTick ≤ st.ras.rpos →
      exec (.catchUpRead k) s = .next (s.setStall { st with hold := .none })) ∧
    (st.hold = .stamps → st.sched = .running → stampRoom st [{ tick := 0, src := 0, addr := 0x200000, data := [0] }] = true →
      exec (.stampQueueRelease k) s = .next (s.setStall (flushBelow { st with hold := .none } st.tick))) ∧
    (st.sched = .running → st.cpu.lock = 0 → st.hold ≠ .none →
      (s.get (atSlot STB_HOLD_EVICT_CYCLES slot) = 0 ∨ s.get (atSlot STB_HOLD_EVICT_CYCLES slot) < 2 * (s.time - st.holdAt)) →
      exec (.holdEvict k) s = .next ((s.drainOf k).setStall { st with sched := .held, loaded := false })) ∧
    (st.sched = .held → holdOver st = true →
      exec (.holdClear k) s = .next (s.setStall { st with sched := .runnable, hold := .none })) ∧
    (st.sched = .blocked → permitted s st = true → exec (.blockedRelease k) s = .next (s.setStall { st with sched := .runnable })) ∧
    (st.sched = .running → st.cpu.lock = 0 → st.runAt + max 1000 (s.get (atSlot STB_QUANTUM_CYCLES slot)) / 2 ≤ s.time →
      exec (.quantumExpiry k) s = .next (s.setStall { st with sched := .runnable, hold := .none }))

/-- An assertion of a stall interrupt line sets its ISTAT bit and no other bit, and leaves IEN, INSV, TICK and the processor alone;
a write that cleared the bit at a later tick prevails. -/
def Obligations.LineAssertion : Prop :=
  ∀ (st : Stall) (l a : Nat), l < 8 →
    let t := assertLine st l a
    (a + 1 < nthD st.src.cleared l 0 → t.mem = st.mem) ∧
    (nthD st.src.cleared l 0 ≤ a + 1 → bitAt (Memory.get t.mem aISTAT).toNat l = true ∧
      (∀ j, j ≠ l → bitAt (Memory.get t.mem aISTAT).toNat j = bitAt (Memory.get st.mem aISTAT).toNat j) ∧
      ∀ x, x ≠ aISTAT → Memory.get t.mem x = Memory.get st.mem x) ∧
    t.tick = st.tick ∧ t.cpu = st.cpu

/-- The sources computed from ticks at a stall's boundary: each is taken at the first boundary whose tick has reached its
assertion tick, sets its ISTAT bit, and moves on to its next one; ONE stops a timer; LMIE decides whether a line match asserts LINE. -/
def Obligations.TickSourcesComplete : Prop :=
  ∀ (s : State) (k slot : Nat) (st : Stall), s.live k = some (st, slot) → running st = true → permitted s st = true →
    resetDue st = false →
    (vblTick st.cls st.src.vblFrame ≤ st.tick →
      exec (.vblAssert k) s = .next (s.setStall
        (assertLine { st with src := { st.src with vblFrame := st.src.vblFrame + 1 } } 0 (vblTick st.cls st.src.vblFrame)))) ∧
    (∀ a ie, st.src.lmDue = [] → lmNext st st.src.lmFrom = some a → lmie st = ie → a ≤ st.tick →
      let x := assertLM { st with src := { st.src with lmFrom := a + 1 } } a
      exec (.lineMatch k) s = .next (s.setStall (if ie then assertLine x 1 a else x))) ∧
    (∀ n, n < 2 → (st.src.tmr n).due = [] → bitAt (st.word (aTCTL n)) 0 = true → (st.src.tmr n).next ≤ st.tick →
      let t := st.src.tmr n
      let x := { st with src := st.src.setTmr n { t with next := t.next + timerPeriod st n, pre := field (st.word (aTCTL n)) 1 3 } }
      exec (.timerExpiry k n) s =
        .next (s.setStall (assertLine (if bitAt (st.word (aTCTL n)) 4 then clearEn x n else x) (2 + n) t.next))) ∧
    (∀ a, st.src.sndDue = [] → sndNext st st.src.sndFrom = some a → a ≤ st.tick →
      exec (.sndPeriodExpiry k) s = .next (s.setStall (assertLine { st with src := { st.src with sndFrom := a + 1 } } 7 a)))

/-- Inputs, deliveries, the stall reset and checkpoints at a stall's boundary: an input due shows in its player's latch, asserts
INPUT and is logged, or is applied again in a replay; a delivery due reaches its LINK subchannel; a placed reset due is logged and returns the stall to its
reset state; a checkpoint due is captured and later completed. -/
def Obligations.BoundaryEventsComplete : Prop :=
  ∀ (s : State) (k slot : Nat) (st : Stall), s.live k = some (st, slot) → running st = true → permitted s st = true →
    (∀ e r, st.replayLog = e :: r → e.kind = 0 → beforeReset st e.tick = true →
      exec (.inputVisible k) s = .next (s.setStall (assertLine (setLatch { st with replayLog := r } e.source e.payload) 6 e.tick))) ∧
    (∀ x rest, st.replayLog = [] → takeLatched st false = some (x, rest) →
      exec (.inputVisible k) s = .next (s.setStall (assertLine (setLatch (addLog (decide (s.mode = .conformance)) { st with latched := rest }
        [{ tick := x.bound, kind := 0, source := x.who, seq := x.seq % 2 ^ 32, payload := sliceBytes x.data 0 16 }]) x.who x.data) 6 x.bound))) ∧
    (∀ x rest, st.replayLog = [] → st.cpu.lock = 0 → takeLatched st true = some (x, rest) → (st.sub x.who).ty = dLINK → st.imported = false →
      exec (.linkDeliveryVisible k) s = .next (s.setStall (showDelivery (addLog (decide (s.mode = .conformance)) { st with latched := rest }
        (linkEntries x.bound x.who x.seq 65 false x.data)) x.bound x.who x.data))) ∧
    (∀ b, st.replayLog = [] → st.resetAt = [b] → b ≤ st.tick → st.cpu.lock = 0 → readyToReset s st = true → s.mode ≠ .conformance →
      st.l1 = false →
      exec (.stallResetApply k) s = .next (s.setStall
        (resetStall (addLog false st [{ tick := st.tick, kind := 2, source := 0, seq := 0, payload := [] }])))) ∧
    (st.ckptBound ≤ st.tick → st.cpu.lock = 0 → resetDue st = false → latchedDue st = false → ckptOpen st = false →
      (s.get HOD_CTL_EN = 0 ∨ agentsClear st st.tick = true) → s.mode ≠ .conformance → s.mig? k true = none →
      let f := atSlot STB_CKPT_STAT_CAPTURED slot
      exec (.checkpointCapture k) s = .next (((s.drainOf k).setStall (capture st)).put f (s.get f + 1))) ∧
    (ckptOpen st = true → s.mode ≠ .conformance → s.mig? k true = none →
      exec (.checkpointComplete k) s = .next ((s.writeCkpt st).setStall (completeCkpt false st)))

/-- Translation faults and checkpoint copies: a core's fault at an entry that its next instruction selects writes the entry read
into the table, is recorded, pushed into the MEM_XFAULT queue (or, while that is full, counted, and nothing else) and stops the stall
in FAULT_WAIT. A resolution clears the entry and makes the stall RUNNABLE; where the fault waits for a page of its title, the page
supplied goes into the title and resolves every fault that waits for it, and without one the stall parks. A fault that outlasts
STB_PARK_TIMEOUT parks the stall; a page copied releases the write held on it. -/
def Obligations.FaultWaitComplete : Prop :=
  ∀ (s : State) (k slot : Nat) (st : Stall), s.live k = some (st, slot) →
    (∀ index entry write fetch page,
      let e := (lookupN index st.pt).getD entry
      let kind := pteKind index e write fetch
      let x := ({ st with pt := insertN index e st.pt }.faulted kind index 0 page).inFaultWait s.time
      let m := s.mapEntry st index (some e)
      kind ≠ 0 → (bitAt e 4 && (st.dirty.contains index || st.copying.contains index)) = false → s.usesEntry st index = true →
      s.selects st slot 0 index write fetch = true → s.faultKnown st index = false →
      (64 ≤ s.xfaults.length → exec (.translationFault k index entry 0 write fetch page) s = .next (m.inc MEM_XFAULT_CNT_FULL)) ∧
      (s.xfaults.length < 64 → s.split spPAGING = false →
        exec (.translationFault k index entry 0 write fetch page) s =
          .next (State.setStall { m with xfaults := m.xfaults ++ [{ kind, agent := 0, write, stall := k, index }] } x) ∧
        (index, 0) ∈ x.faults ∧ x.sched = .faultWait ∧ x.faultAt = s.time ∧ x.cpu = st.cpu ∧ x.tick = st.tick ∧ x.mem = st.mem)) ∧
    (∀ index page, st.faults = [(index, 0)] → st.sched = .faultWait → st.dbgHalt = false → st.reasons = [] →
      (st.waits.find? fun w => w.1 == index) = none →
      let x := ({ st with pt := eraseN index st.pt }.resolved index).endFaultWait
      exec (.faultResolve k index page) s = .next ((s.mapEntry st index none).setStall x) ∧ x.faults = [] ∧ x.sched = .runnable ∧
        x.cpu = st.cpu ∧ x.tick = st.tick) ∧
    (∀ index w t, (st.waits.find? fun w => w.1 == index) = some w → s.title? st.title = some t →
      (s.split spPAGING = true → ∀ page, exec (.faultResolve k index page) s = .next s) ∧
      (s.split spPAGING = false → ∀ bs, exec (.faultResolve k index (some bs)) s = .next (s.supplyPage t w.2 bs)) ∧
      (s.split spPAGING = false → st.sched = .faultWait → exec (.faultResolve k index none) s = .next (s.park k rsnPAGE_FAULT true))) ∧
    (st.sched = .faultWait → st.faultAt + 1000 * s.get (atSlot STB_PARK_TIMEOUT_MICROS slot) ≤ s.time →
      let x := addReason s.time rsnPAGE_FAULT st
      let p := (s.writeBack x).setStall x
      exec (.parkTimeout k) s = .next (if st.waits = [] then p else p.notice nParked k rsnPAGE_FAULT 0) ∧ x.sched = .parked ∧
        rsnPAGE_FAULT ∈ x.reasons ∧ x.parkedAt = s.time) ∧
    (∀ index, st.copying.contains index = true →
      exec (.ckptPageCopy k index) s = .next (s.setStall (flushBelow
        { st with copying := st.copying.filter (fun x => x != index), hold := if st.hold = .write then .none else st.hold } st.tick)))

/-- The raster unit and the slot's scheduling: a dot that is ready is drawn and a finished line counted; a slice drawn by its
deadline is handed over and one that is not is reported late; a free hot context of a core goes to the stall chosen; a replayed
stall goes on at its fault point. -/
def Obligations.UnitsAndSlicesComplete : Prop :=
  ∀ (s : State) (k slot : Nat) (st : Stall), s.live k = some (st, slot) →
    (dotReady s st slot = true → dotNext s st slot = true → s.mode ≠ .conformance →
      let x := renderDot (enterAhead st st.ras.rpos).beganTo
      exec (.renderDot k) s = .next (if lineDone st then
        (s.setStall x).put (atSlot RAS_LINES_LINES slot) (s.get (atSlot RAS_LINES_LINES slot) + 1)
      else s.setStall x)) ∧
    (deadlinePast st s.time st.ras.handed = true → sliceDrawn st st.ras.handed = true →
      let x := handOver st (s.get (atSlot RAS_CTL_HINT slot) == 1)
      exec (.sliceDeadline k) s =
        .next ((s.setStall x).stage1 x (st.ras.handed / slicesPer st.cls) (st.ras.handed % slicesPer st.cls)) ∧
        x.ras.handed = st.ras.handed + 1) ∧
    (sliceDrawn st st.ras.handed = false → deadlinePast st s.time (max st.ras.handed st.ras.underrun) = true →
      ∃ t, exec (.sliceDeadline k) s = .next t ∧ t.stall? k = some (st.lateTo (max st.ras.handed st.ras.underrun + 1)) ∧
        t.get (atSlot RAS_UNDERRUN_STALL slot) = k % 4096 ∧ t.hbm = s.hbm ∧ t.streams = s.streams) ∧
    (∀ core, s.get (atSlot STB_CTL_RUN slot) = 1 → core < 4 → s.grantChoice slot core = some st → s.freeHot slot core ≠ [] →
      (s.runsOn slot core).any (fun x => x.ooo != nextOoo (s.restoring slot) st) = false →
      ∃ t h, exec (.sliceGrant slot core) s = .next t ∧ h ∈ s.hotChoice slot core st ∧
        t.stall? k = some (st.granted s.time core h (nextOoo (s.restoring slot) st))) ∧
    (∀ p, st.replayTo = some p → p ≤ st.tick → st.reasons.contains rsnRECOVER = false →
      let x := st.replayed s.time
      exec (.faultPointReached k) s = .next (if st.quiet then s.setStall x else (s.setStall x).notice nRecovered k 0 p) ∧
        x.replayTo = none ∧ x.cpu = st.cpu ∧ x.tick = st.tick)

/-! ### Stables, microcode and the composer -/

/-- The slot commands and what each leaves: STB_DRAIN parks the stalls of an active slot and its end unparks them; STB_FENCE,
CORE_FAULT and STORE_FAULT put a live slot out of use; TAKEOVER_COMPLETE makes the spare ACTIVE; STABLE_RESET leaves the slot as
its self-test says. UCS_VALIDATE loads a set that passes its checks and reports the first failed check of one that does not;
UCS_RELEASE frees a set not in use. -/
def Obligations.SlotsComplete : Prop :=
  (∀ (s : State) (slot : Nat), slot < 17 →
     let state := atSlot STB_STATE_STATE slot
     (blocksServe s.mode = true → s.get state = 1 → exec (.stbDrain slot true) s =
       .next (((s.put (atSlot STB_CTL_DRAIN slot) 1).put state 5).eachOn slot fun x k => x.park k rsnDRAIN false)) ∧
     (blocksServe s.mode = true → s.get state = 5 → exec (.stbDrain slot false) s =
       .next (((s.put (atSlot STB_CTL_DRAIN slot) 0).put state 1).eachOn slot fun x k => x.unpark k rsnDRAIN)) ∧
     (let f := s.put (atSlot STB_CTL_FENCE slot) 1
      (s.get state = 4 → exec (.stbFence slot) s = .next f) ∧
      (s.get state ≠ 4 → mayFailStop s.mode = true → exec (.stbFence slot) s = .next (f.slotGone slot 1)) ∧
      (s.get state ≠ 4 → mayFailStop s.mode = false → exec (.stbFence slot) s = .next (f.fenceSlot slot))) ∧
     (mayFailStop s.mode = true → s.get state ≠ 0 → s.get state ≠ 4 → ∀ unit lost, unit < 5 →
       exec (.coreFault slot unit lost) s = .next (((s.recordFault 1 (slot * 8 + unit)).discard lost).slotGone slot 1)) ∧
     (mayFailStop s.mode = true → s.get state ≠ 0 → s.get state ≠ 4 → ∀ lost,
       exec (.storeFault slot lost) s = .next (((s.recordFault 2 slot).discard lost).slotGone slot 2)) ∧
     (s.get (atSlot STB_STATE_STATE 16) = 3 → stallsExecute s.mode = true → (s.stallsOn 16).all (recovered s.time) = true →
       ∃ t, exec .takeoverComplete s = .next t ∧ t.get (atSlot STB_STATE_STATE 16) = 1 ∧
         t.get FLT_RECOVER_LAST_US = min 65535 ((s.time - s.takeoverAt) / 1000) ∧ t.stalls = s.stalls ∧ t.hbm = s.hbm) ∧
     (fwRuns s.mode = true → s.stallsOn slot = [] → s.get state ≠ 4 → ∀ pass,
       let x := s.resetRange (0x100000 + 0x10000 * slot) (0x110000 + 0x10000 * slot)
       let y := match x.lOfSlot slot with
         | some l => x.puts [(atSlot STB_STATE_MAPPED slot, 1), (atSlot STB_STATE_LSTABLE slot, l), (state, if pass then 1 else 4),
             (atSlot RAS_CTL_EN slot, b2n pass), (atSlot RAS_CTL_HINT slot, b2n pass), (atSlot STB_CTL_RUN slot, b2n pass)]
         | none => x.put state (if pass then 2 else 4)
       exec (.stableReset slot pass) s = .next (if slot = 16 then y.spareFlag else y))) ∧
  (∀ (s : State) (slot set : Nat), slot < 17 → set < 16 → fwRuns s.mode = true →
     let err (t : State) (code : Nat) : Prop :=
       t.get (atSlot UCS_ERR_SET slot) = set ∧ t.get (atSlot UCS_ERR_CODE slot) = code ∧ t.stalls = s.stalls ∧ t.titles = s.titles
     (s.loaded slot set = true → ∃ t, exec (.ucsValidate slot set) s = .next t ∧ err t 7 ∧ t.loaded slot set = true) ∧
     (s.loaded slot set = false → s.checkRam slot set = none →
       ∃ t, exec (.ucsValidate slot set) s = .next t ∧ err t 0 ∧ t.loaded slot set = true) ∧
     (∀ c u j, s.loaded slot set = false → s.checkRam slot set = some (c, u, j) →
       ∃ t, exec (.ucsValidate slot set) s = .next t ∧ err t (c % 16) ∧ t.loaded slot set = false ∧
         t.get (atSlot UCS_ERR_OPC slot) = u % 8 ∧ ∀ k, j = some k → t.get (atSlot UCS_ERR_UOP slot) = k % 256) ∧
     (s.ucsInUse slot set = true →
       ∃ t, exec (.ucsRelease slot set) s = .next t ∧ err t 7 ∧ t.loaded slot set = s.loaded slot set) ∧
     (s.ucsInUse slot set = false → ∃ t, exec (.ucsRelease slot set) s = .next t ∧ err t 0 ∧ t.loaded slot set = false))

/-- CMP_COMMIT starts a validation of the shadow copy; COMMIT_VALIDATED refuses it, or makes it the pending commit;
BED_REBUILD_COMPLETE draws each bed that is not kept; COMMIT_TAKE_EFFECT makes it the active description and reports it. A refused commit
records stream, reason, index and region in CMP_COMMIT_ERR and changes no stream. COMPOSE_SLICE writes the next slice when its
lines are ready and SLICE_LATE_LIMIT writes it with the lines it lacks 100 us after its time. -/
def Obligations.ComposerComplete : Prop :=
  (∀ (s : State) (n : Nat) (x : Stream), s.stream? n = some x →
     (fwRuns s.mode = true → s.get CMP_COMMIT_BUSY = 0 →
       exec (.cmpCommit n) s = .next { s.put CMP_COMMIT_BUSY 1 with validating := some (n, x.shadow) }) ∧
     (∀ d room, s.validating = some (n, d) →
       let s' : State := { s.put CMP_COMMIT_BUSY 0 with validating := none }
       let need := needsBeds x.beds d
       let refusedBed := exec (.commitValidated room) s = .next (s'.commitRefused n rBED none false)
       (∀ r i g, s'.commitCheck d = some (r, i, g) → exec (.commitValidated room) s = .next (s'.commitRefused n r i g)) ∧
       (s'.commitCheck d = none → need = true → room = false → refusedBed) ∧
       (s'.commitCheck d = none → s'.bedsFor n x.beds d = none → refusedBed) ∧
       (∀ beds t, s'.commitCheck d = none → (need = false ∨ room = true) → s'.bedsFor n x.beds d = some (beds, t) →
         exec (.commitValidated room) s = .next (t.replaceStream x
           { x with commit := some { copy := d, since := s.time, bedAt := if need then none else some s.time, beds } }))) ∧
     (∀ c, x.commit = some c → c.bedAt = none → exec (.bedRebuildComplete n) s =
       .next (s.setStream { x with commit := some { c with bedAt := some s.time
                                                           beds := c.beds.map fun b => if x.beds.contains b then b else s.buildBed b } })) ∧
     (∀ c b, x.commit = some c → c.bedAt = some b →
       let e := max (frameCeil (c.since + 100000)) (frameCeil b)
       cadFrame e ≤ s.time → (x.frames.all fun f => decide (f.n < e) || f.j == 0) = true →
       ∃ t y, exec (.commitTakeEffect n) s = .next t ∧ t.evLatched evCommitDone = true ∧ t.stream? n = some y ∧
         y.act = putBytes c.copy 32 (leBytes 4 e) ∧ y.beds = c.beds ∧ y.commit = none ∧ y.regHold = false ∧ y.shadow = x.shadow)) ∧
  (∀ (s : State) (n r : Nat) (i : Option Nat) (g : Bool), n < 16384 → r < 16 →
     let t := s.commitRefused n r i g
     t.get CMP_COMMIT_ERR_STREAM = n ∧ t.get CMP_COMMIT_ERR_REASON = r ∧ t.get CMP_COMMIT_ERR_RGN = b2n g ∧
     (∀ k, i = some k → t.get CMP_COMMIT_ERR_INDEX = k % 8) ∧ t.get CMP_COMMIT_ERR_VALID = 1 ∧ t.evLatched evCommitReject = true ∧ t.streams = s.streams) ∧
  (∀ (s : State) (n : Nat) (x : Stream) (f : SFrame) (rest : List SFrame), s.stream? n = some x → x.frames = f :: rest →
     stallsExecute s.mode = true → s.memServes = true → commitDue x f.n = false →
     (s.sliceDue f ≤ s.time → (f.held = true ∨ s.linesReady f = true) →
       exec (.composeSlice n) s = .next (s.writeSlice x f rest false)) ∧
     (s.sliceDue f + 100000 ≤ s.time → f.held = false → s.linesReady f = false →
       exec (.sliceLateLimit n) s = .next ((((s.writeSlice x f rest true).inc CMP_LATE_COUNT).put CMP_LATE_STREAM n).raise evSliceLate)))

/-- MON_COMMIT applies the shadow timing at once with the port off and at the first line of the next vertical blanking with it on, and an invalid
one only sets TERR; MON_ENABLE, MON_FRAME_START, MON_UNDERRUN and MON_FRAME_END act as the port’s rules say, the CRCs among them.
A coding row starts on an ACTIVE idle core, ends by leaving the core free and the slices taken from the ready list, and a core
fault, the watchdog and the spare act as the fault rules say. -/
def Obligations.MonitorAndEncoderComplete : Prop :=
  (∀ (s : State),
     (s.get MON_CTL_EN = 1 → exec .monCommit s = .next (s.put MON_COMMIT_GO 1)) ∧
     (s.get MON_CTL_EN = 0 → exec .monCommit s = .next ((s.put MON_COMMIT_GO 1).monApply)) ∧
     (∀ d, s.get MON_COMMIT_GO = 1 → s.get MON_CTL_EN = 1 → s.get MON_STAT_ACTIVE = 1 → s.mon.inFrame = false →
       s.monPos = some (s.monBlank, d) → exec .monTimingApply s = .next s.monApply) ∧
     (let t := s.monApply
      t.get MON_COMMIT_GO = 0 ∧ (monOk s.monShadow s.mode = true → t.mon = s.monShadow ∧ t.get MON_STAT_TERR = s.get MON_STAT_TERR) ∧
        (monOk s.monShadow s.mode = false → t.mon = s.mon ∧ t.get MON_STAT_TERR = 1)) ∧
     (s.get MON_CTL_EN = 0 → ∃ t, exec (.monEnable true) s = .next t ∧ t.get MON_CTL_EN = 1 ∧
       t.mon = { s.mon with start := frameAt s.time + 1 }) ∧
     (∃ t, exec (.monEnable false) s = .next t ∧ t.get MON_CTL_EN = 0 ∧ t.get MON_STAT_ACTIVE = 0 ∧ t.get MON_COMMIT_GO = 0 ∧
       (s.get MON_COMMIT_GO = 0 → t.mon = { s.mon with inFrame := false, under := [], fills := [], sent := [], pins := .low })) ∧
     (∀ fills a, s.monStart (frameAt s.time) = some a → s.get MON_CTL_EN = 1 → s.mon.start ≤ frameAt s.time → s.mon.inFrame = false → a ≤ s.time →
       ∃ t, exec (.monFrameStart fills) s = .next t ∧ t.get MON_STAT_ACTIVE = 1 ∧ t.mon.inFrame = true ∧ t.mon.frame = frameAt s.time ∧
         t.mon.under = [] ∧ t.mon.sent = [] ∧ t.mon.fills = fills ∧ t.mon.line = 0 ∧ t.stalls = s.stalls ∧ t.streams = s.streams) ∧
     (∀ fill, (fill < s.get MON_WMARK_LEVEL → (s.monLow fill).get MON_STAT_LOW = 1 ∧ (s.monLow fill).evLatched evMonLow = true) ∧
       (s.get MON_WMARK_LEVEL ≤ fill → s.monLow fill = s)) ∧
     (∀ x y, s.mon.inFrame = true → x < s.monDim.1 → y < s.monDim.2 → lookupN y s.mon.under = none →
       ∃ t, exec (.monUnderrun y x) s = .next t ∧ t.mon.under = insertN y x s.mon.under ∧ t.evLatched evMonUnderrun = true ∧
         t.get MON_STAT_UNDER = satInc (2 ^ MON_STAT_UNDER.w - 1) (s.get MON_STAT_UNDER)) ∧
     (∀ pads, s.mon.inFrame = true → s.monOver = true →
       let sent := s.mon.sent
       let back := pads.getD sent
       ∃ t, exec (.monFrameEnd pads) s = .next t ∧ t.mon.inFrame = false ∧ t.get MON_CRC_INT_CRC = (crc32 sent).toNat ∧
         t.get MON_CRC_PIN_CRC = (crc32 back).toNat ∧ t.out = s.out ++ [.monitor s.mon.frame sent] ∧
         (crc32 sent ≠ crc32 back → t.get MON_STAT_PINERR = 1 ∧ t.evLatched evMonPin = true))) ∧
  (∀ (s : State) (core : Nat), core < 25 →
     (∀ x sl row, stallsExecute s.mode = true → s.memServes = true → s.get ENC_CTL_EN = 1 → s.get (encState core) = 1 →
       s.encJobs.any (fun j => j.core == core) = false → s.nextStream = some (x, sl :: row) →
       ∃ t job, exec (.codingRowStart core) s = .next t ∧ t.encJobs = s.encJobs ++ [job] ∧ job.core = core ∧ job.stream = x.num ∧
         job.n = sl.n ∧ job.j = sl.j ∧ job.slices = sl :: row ∧ job.since = s.time ∧
         t.encFront = s.encFront.filter fun n => n != x.num) ∧
     (∀ job x sl rest, s.encJobs.find? (fun j => j.core == core) = some job → job.gone = false → s.stream? job.stream = some x → job.slices = sl :: rest →
       ∃ t, exec (.codingRowDone core) s = .next t ∧ t.encJobs = (s.encJobs.filter fun j => j.core != core) ∧ t.stalls = s.stalls ∧
         ∃ y, t.stream? job.stream = some y ∧ y.enc.ready = x.enc.ready.drop job.slices.length ∧
           y.esd.qpLast = if job.codec = 3 then 0 else job.qp) ∧
     (∀ job, s.encJobs.find? (fun j => j.core == core) = some job → job.gone = true → exec (.codingRowDone core) s =
       .next { s with encJobs := s.encJobs.filter fun j => j.core != core }) ∧
     (∀ cause, (s.get (encState core) = 1 ∨ s.get (encState core) = 2) → (fwRuns s.mode = true ∨ s.mode = .debugFreeze) →
       exec (.encCoreFault core cause) s = .next (s.encFail core (if cause = 2 then 2 else 1))) ∧
     (∀ job, s.encJobs.find? (fun j => j.core == core) = some job → stallsExecute s.mode = true → job.since + 400000 ≤ s.time →
       exec (.encRowWatchdog core) s = .next (s.encFail core 3)) ∧
     (s.spareDue = true → (upto 25).find? (fun c => s.get (encState c) == 2) = some core →
       ∃ t, exec .encSpareActivate s = .next t ∧ t.get (encState core) = 1 ∧ t.spareDue = false))

/-- BEAM_SAMPLE renders a sample that is ready; GRAPH_SAMPLE routes it and, where a swap may happen, swaps the graph and reports
it; AUD_SWAP requests a validation and AUD_SWAP_VALIDATED accepts it or records why not; AUDIO_FRAME_FORM forms the lane’s next
frame at its time. -/
def Obligations.AudioComplete : Prop :=
  ∀ (s : State) (k slot : Nat) (st : Stall) (l : Lane), s.live k = some (st, slot) → st.lane = some l →
    (sampleReady s st = true → sampleNext s st = true → s.mode ≠ .conformance → exec (.beamSample k) s = .next (s.setStall (beamSample st))) ∧
    (s.get AUD_CTL_EN = 1 → l.codec ≠ 0 → st.spos = l.gpos + 1 → swapMay s st l = false →
      let x := s.setStall { st with lane := some (routeSample st.cls st.voices (st.mixL, st.mixR) l) }
      exec (.graphSample k) s = .next (x.put AUD_RAMP_UNITS x.rampUnits)) ∧
    (s.get AUD_CTL_EN = 1 → l.codec ≠ 0 → st.spos = l.gpos + 1 → swapMay s st l = true →
      ∃ t, exec (.graphSample k) s = .next t ∧ t.evLatched evSwapDone = true ∧
        t.stalls = (s.setStall { st with lane := some (routeSample st.cls st.voices (st.mixL, st.mixR) (swapNow st.cls l)) }).stalls) ∧
    (∀ ramp, fwRuns s.mode = true → s.get AUD_SWAP_BUSY = 0 →
      exec (.audSwap k ramp) s = .next { s.put AUD_SWAP_BUSY 1 with swapReq := some (k, ramp) }) ∧
    (∀ ramp, s.swapReq = some (k, ramp) → l.codec ≠ 0 → l.swapState = 0 → l.otherG.check = 0 →
      ∃ t, exec .audSwapValidated s = .next t ∧ t.get AUD_SWAP_BUSY = 0 ∧ t.swapReq = none ∧
        t.stall? k = some { st with lane := some { l with swapState := 1, swapRamp := ramp } }) ∧
    (∀ ramp, s.swapReq = some (k, ramp) → swapCheck (some st) ≠ 0 → k < 4096 →
      ∃ t, exec .audSwapValidated s = .next t ∧ t.get AUD_SWAP_BUSY = 0 ∧ t.swapReq = none ∧ t.stalls = s.stalls ∧
        t.get AUD_SWAP_ERR_STALL = k ∧ t.get AUD_SWAP_ERR_REASON = swapCheck (some st) % 16 ∧ t.get AUD_SWAP_ERR_VALID = 1 ∧
        t.evLatched evSwapReject = true) ∧
    (∀ f0 op, st.f0 = some f0 → s.get AUD_CTL_EN = 1 → l.codec ≠ 0 → formTime f0 l.frame ≤ s.time →
      ∃ t x m, exec (.audioFrameForm k op) s = .next t ∧ t.stall? k = some x ∧ x.lane = some m ∧ m.frame = l.frame + 1)

/-! ### The hod, the Mover and memory -/

/-- A command write acts once no unit at or below its tick is left (R316). START begins a program on an idle subchannel, and a misaligned HOD_PROG ends as malformed; a command that the state does not
allow sets CERR; HALT, RESUME and CLEAR act in the states that allow them. The same of the host subchannels, with HOST_GRANT for
subchannels 16 and above, and a refusal with HOD_DISABLED while the engine is off. -/
def Obligations.HodProgramCommandsComplete : Prop :=
  (∀ (s : State) (k slot i w : Nat) (st : Stall) (r : List (Nat × Nat)), s.live k = some (st, slot) → i < 8 → s.get HOD_CTL_EN = 1 →
     let y := st.setSub i { st.sub i with cmds := r }
     let here := stepUpTo st i w = false
     ((st.sub i).cmds = (1, w) :: r → here → hodProg st i % 8 = 0 → (y.sub i).ty ≠ dNONE → (y.sub i).state = 0 →
       exec (.hodStart k i) s =
         .next (s.setStall (startBrick (y.setSub i { y.sub i with cerr := 0, state := 1, idleN := 0 }) i (hodProg st i) (w + 1) 0))) ∧
     ((st.sub i).cmds = (1, w) :: r → here → hodProg st i % 8 ≠ 0 → (y.sub i).ty ≠ dNONE → (y.sub i).state = 0 →
       ∃ t, exec (.hodStart k i) s = .next t ∧ t.stall? k = some (endMalformed
           (startBrick (y.setSub i { y.sub i with cerr := 0, state := 1, idleN := 0 }) i (hodProg st i) (w + 1) 0) i) ∧
         t.get HOD_ENDS_MALFORMED = satInc (2 ^ HOD_ENDS_MALFORMED.w - 1) (s.get HOD_ENDS_MALFORMED)) ∧
     ((st.sub i).cmds = (1, w) :: r → here → (st.sub i).state ≠ 0 → (y.sub i).state ≠ 0 → exec (.hodStart k i) s = .next (s.setStall (setCerr y i 1))) ∧
     ((st.sub i).cmds = (2, w) :: r → here → (y.sub i).state = 0 → exec (.hodHalt k i) s = .next (s.setStall (setCerr y i 2))) ∧
     ((st.sub i).cmds = (2, w) :: r → here → (y.sub i).state ≠ 0 → exec (.hodHalt k i) s = .next (s.setStall (hodHalt y i w))) ∧
     ((st.sub i).cmds = (3, w) :: r → here → (y.sub i).state ≠ 3 → exec (.hodResume k i) s = .next (s.setStall (setCerr y i 2))) ∧
     ((st.sub i).cmds = (3, w) :: r → here → (y.sub i).state = 3 → exec (.hodResume k i) s = .next (s.setStall (hodResume y i w))) ∧
     ((st.sub i).cmds = (4, w) :: r → here → (y.sub i).state ≠ 0 → exec (.hodClear k i) s = .next (s.setStall (setCerr y i 2))) ∧
     ((st.sub i).cmds = (4, w) :: r → here → (y.sub i).state = 0 →
       exec (.hodClear k i) s = .next (s.setStall (y.setSub i { y.sub i with cerr := 0, code := 0, resid := 0 })))) ∧
  (∀ (s : State) (h : Nat), h < 64 →
     let x := s.hsub h
     let p := s.get (hFld HOD_HPROG_ADDR h)
     let cerr (n : Nat) : State := s.put (hFld HOD_HSTAT_CERR h) n
     let started := (((cerr 0).setHsub h { x with idleN := 0 }).hostBrick h p 0)
     (s.get HOD_CTL_EN = 1 → x.phase ≠ .idle → exec (.hodHstart h) s = .next (cerr 1)) ∧
     (s.get HOD_CTL_EN = 1 → x.phase = .idle → (h < 16 ∨ s.get HOD_HGRANT_HOST ≠ 0) → p % 16 = 0 →
       exec (.hodHstart h) s = .next started) ∧
     (s.get HOD_CTL_EN = 1 → x.phase = .idle → (h < 16 ∨ s.get HOD_HGRANT_HOST ≠ 0) → p % 16 ≠ 0 →
       exec (.hodHstart h) s = .next ((started.hostEnd h 6 0).inc HOD_ENDS_MALFORMED)) ∧
     (s.get HOD_CTL_EN = 1 → x.phase = .idle → 16 ≤ h → s.get HOD_HGRANT_HOST = 0 →
       exec (.hodHstart h) s = .next (started.hostEnd h 8 0)) ∧
     (x.phase = .idle → exec (.hodHhalt h) s = .next (cerr 2)) ∧
     (x.phase ≠ .idle → exec (.hodHhalt h) s = .next ((cerr 0).hostEnd h 2 (hostResid x))) ∧
     (x.phase = .paused → hbLink x.brick = 0 → exec (.hodHresume h) s = .next ((cerr 0).hostEnd h 0 0)) ∧
     (x.phase = .paused → hbLink x.brick ≠ 0 → exec (.hodHresume h) s = .next
       ((if hbReport x.brick then (cerr 0).hostPost h 0 4 0 x.addr else cerr 0).hostContinue h)) ∧
     (x.phase = .fault → exec (.hodHresume h) s = .next
       (((cerr 0).setHsub h { x with phase := x.back }).put (hFld HOD_HSTAT_STATE h) (if x.back = .waiting then 2 else 1))) ∧
     (x.phase ≠ .paused → x.phase ≠ .fault → exec (.hodHresume h) s = .next (cerr 2)) ∧
     (s.get HOD_CTL_EN = 0 → exec (.hodHstart h) s = .next (s.emit (.refused h errHodDisabled))) ∧
     (x.phase ≠ .idle → exec (.hodHclear h) s = .next (cerr 2)) ∧
     (x.phase = .idle → exec (.hodHclear h) s = .next
       (s.puts [(hFld HOD_HSTAT_CERR h, 0), (hFld HOD_HSTAT_CODE h, 0), (hFld HOD_HRESID_RESID h, 0)])))

/-- A fetched brick that is well formed acts under the command of its operation and device: READ, WRITE, COPY, FILL, QUERY,
SETPOS, SEEK, FLUSH, SETDST, GOTO, WAIT, NOP, POST, PAUSE. A malformed one ends its program under any of them. -/
def Obligations.BricksComplete : Prop :=
  ∀ (s : State) (k slot i : Nat) (st : Stall), s.hodReady k i = some (st, slot) →
    let x := st.sub i
    let act (c : Instr) (st' : Stall) : Prop := exec c s = .next (s.setStall st')
    let all : List Instr := [.brickRead k i, .brickWrite k i, .blitCopy k i, .blitFill k i, .brickQuery k i, .setpos k i, .seek k i, .flush k i,
      .setdst k i, .brickGoto k i, .brickWait k i, .brickNop k i, .brickPost k i, .brickPause k i]
    let data (c : Instr) : Prop := act c (dataBrick (s.devsOf st) st i)
    x.phase = .fetched →
    (malformed x.ty x.joinOp x.brick = true → ∀ c ∈ all, exec c s = .next ((s.setStall (endMalformed st i)).inc HOD_ENDS_MALFORMED)) ∧
    (malformed x.ty x.joinOp x.brick = false →
      (bOp x.brick = 1 → data (.brickRead k i)) ∧
      (bOp x.brick = 2 → x.ty ≠ dBLIT → data (.brickWrite k i)) ∧
      (bOp x.brick = 2 → x.ty = dBLIT → bParam x.brick = 0 → data (.blitCopy k i)) ∧
      (bOp x.brick = 2 → x.ty = dBLIT → bParam x.brick = 1 → data (.blitFill k i)) ∧
      (bOp x.brick = 4 → data (.brickQuery k i)) ∧
      (bOp x.brick = 3 → x.ty = dSAVE → data (.setpos k i)) ∧
      (bOp x.brick = 3 → x.ty = dMEDIA → data (.seek k i)) ∧
      (bOp x.brick = 3 → x.ty = dBLIT → data (.setdst k i)) ∧
      (bOp x.brick = 3 → x.ty = dLINK → act (.flush k i)
        (let y := dataBrick (s.devsOf st) st i
         if (y.sub i).phase = .idle then y else y.setSub i { y.sub i with rx := [] })) ∧
      (bOp x.brick = 8 → act (.brickGoto k i) (planTransfer st i [] [] 0 false)) ∧
      (bOp x.brick = 10 → act (.brickNop k i) (planTransfer st i [] [] 0 false)) ∧
      (bOp x.brick = 11 → act (.brickPost k i) (planTransfer st i [] [] 0 false)) ∧
      (bOp x.brick = 9 → act (.brickWait k i) (startWait st i)) ∧
      (bOp x.brick = 12 → act (.brickPause k i)
        (subPend (st.setSub i { x with phase := .suspended, idleN := 0 }) i (dataStart st.cls x.b - 1) 1 0 [] (some 3)
          (some { code := 1, flags := 2, dev := 0, resid := 0, baddr := x.addr }))))

/-- A stall program fetches its next brick, moves its next unit, completes its brick, ends by the loop limit, or ends its WAIT; a
host program does the same through its bus; a LINK delivery whose release time has come reaches its stall or is counted as lost;
HOD_HGRANT opens or closes the host subchannels; an assignment that is made clears the device state of its subchannel (the model's
choice, log entry 98). -/
def Obligations.HodUnitsComplete : Prop :=
  (∀ (s : State) (k slot i : Nat) (st : Stall), s.hodReady k i = some (st, slot) →
     let x := st.sub i
     let moved := x.phase = .units ∧ x.units = [] ∧ controlReady x = false
     let loops := idleBrick x = true ∧ 255 ≤ x.idleN ∧ x.ends = false
     (∀ c, x.phase = .waiting → bParam x.brick ≠ 3 → waitTick st x = some c → exec (.waitComplete k i) s = .next (s.setStall (endWait st i c))) ∧
     (x.phase = .waiting → bParam x.brick = 3 → accessOk st false (bAddr x.brick) 1 (heldTick st (matchTick st x)) 1 [] = true →
       let y := st.accessed (bAddr x.brick) 1
       (matchHolds (s.cartOf st) st s.time i = true → exec (.waitComplete k i) s = .next
         (((s.drainOf k).setStall (endWait y i (max (dataStart st.cls x.b) (matchTick st x)))).makeResident (8 * k + i))) ∧
       (matchHolds (s.cartOf st) st s.time i = false → exec (.hodUnit k i) s = .next
         (((s.drainOf k).setStall (y.setSub i { x with moved := x.moved + 1 })).makeResident (8 * k + i)))) ∧
     (moved → ¬loops → exec (.brickComplete k i) s = .next (s.setStall (completeBrick st i))) ∧
     (moved → loops → exec (.hodLoop k i) s = .next ((s.setStall (endProgram st i (x.compl - 1) 3 0
       (if isData (bOp x.brick) then bCount x.brick else 0) (bReport x.brick || bOp x.brick == 11))).inc HOD_ENDS_LOOP)) ∧
     (x.phase = .fetch → accessOk st false x.addr 8 (heldTick st x.b) 1 [] = true →
       let e := heldTick st x.b
       exec (.hodUnit k i) s = .next (((s.drainOf k).setStall ((st.accessed x.addr 8).setSub i
         { x with phase := .fetched, brick := ofLE (hodBytes (s.cartOf st) (agentView st i e) s.time e x.addr 8)
                  noPeer := x.peer.isNone })).makeResident (8 * k + i))) ∧
     (∀ u r, x.phase = .units → x.units = u :: r → exec (.hodUnit k i) s = .next ((s.drainOf k).dataUnit st i u)) ∧
     (x.phase = .list → accessOk st false (bAddr x.brick) (listBytes (s.devsOf st) (s.cartOf st) st s.time i) (heldTick st (dataStart st.cls x.b)) 1 [] = true →
       let y := readList (s.devsOf st) (s.cartOf st) st s.time i
       let z := y.accessed (bAddr x.brick) (listBytes (s.devsOf st) (s.cartOf st) st s.time i)
       exec (.hodUnit k i) s = .next ((((s.drainOf k).setStall z).countEnd (decide ((y.sub i).phase = .idle))).makeResident (8 * k + i)))) ∧
  (∀ (s : State) (h : Nat) (host : Option Bytes), h < 64 → s.get HOD_CTL_EN = 1 → s.memServes = true →
     let x := s.hsub h
     let io := mmio host
     (x.phase ≠ .idle → x.phase ≠ .paused → x.phase ≠ .fault →
       ∃ t, exec (.hodHostUnit h host true) s = .next t ∧ t.evLatched evHodFault = true ∧ t.stalls = s.stalls ∧
         t.get ⟨0x600040 + 4 * (h / 32), h % 32, 1⟩ = 1 ∧ (s.get (hFld HOD_HCSA_ADDR h) = 0 → t.hbm = s.hbm ∧ t.host = s.host)) ∧
     (∀ b s', x.phase = .fetch → devRead io s x.addr 16 host = .ok (b, s') →
       exec (.hodHostUnit h host false) s = .next (s'.hostFetched h b)) ∧
     (x.phase = .waiting → x.since + 1000 * hbCount x.brick ≤ s.time → exec (.hodHostUnit h host false) s = .next (s.hostComplete h)) ∧
     (x.phase = .units → x.segs.all (fun p => p.2 == 0) = false → exec (.hodHostUnit h host false) s = .next (s.hostUnit io h host)) ∧
     (x.phase = .units → x.segs.all (fun p => p.2 == 0) = true → ¬(hbOp x.brick = 3 ∧ x.off = 5) →
       exec (.hodHostUnit h host false) s = .next (s.hostComplete h)) ∧
     (x.phase = .units → x.segs.all (fun p => p.2 == 0) = true → hbOp x.brick = 3 → x.off = 5 →
       exec (.hodHostUnit h host false) s = .next ((s.setHsub h { x with pos := leAt x.arg 0 5 }).hostComplete h)) ∧
     (∀ b s', x.phase = .list → s.hostListRead io host (hbAddr x.brick) 256 (hbCount x.brick) = .ok (b, s') → (gather (hostGather b) (hbCount x.brick)).2 = true →
       exec (.hodHostUnit h host false) s = .next (s'.setHsub h { x with phase := .units, segs := (gather (hostGather b) (hbCount x.brick)).1 }))) ∧
  (∀ (s : State),
     (∀ m, firstLink s.links = some m → m.release ≤ (s.time : Int) →
       let s1 : State := { s with links := s.links.erase m }
       let s2 := if m.late then s1.inc YRD_LINK_LATE_COUNT else s1
       (s.stall? m.stall = none → exec .linkRelease s = .next (s2.inc YRD_LINK_LOST_COUNT)) ∧
       (∀ st, s.stall? m.stall = some st → st.imported = false → exec .linkRelease s = .next
         (s2.setStall { st with latched := st.latched ++ [{ bound := latchBound st, link := true, who := m.sub, seq := m.seq, data := m.data, at_ := s.time }] }))) ∧
     (∀ k i ty, fwRuns s.mode = true → i < 8 → assignReason (s.stall? k) i ty = 0 → exec (.hodAssign k i ty) s =
       .next (State.put (s.onStall k fun st => st.setSub i { st.sub i with ty, pos := 0, rx := [], overruns := 0, overrun := false, later := none })
         HOD_ASSIGN_ERR_REASON 0)) ∧
     (∀ sheds, exec (.hodHgrantWrite true sheds) s = .next (s.puts [(HOD_HGRANT_HOST, 1), (HOD_HGRANT_SHEDS, sheds)])) ∧
     (∀ sheds, exec (.hodHgrantWrite false sheds) s = .next (((upto 48).map (· + 16)).foldl
       (fun x h => if (x.hsub h).phase = .idle then x else x.hostEnd h 8 (hostResid (x.hsub h)))
       (s.puts [(HOD_HGRANT_HOST, 0), (HOD_HGRANT_SHEDS, sheds)]))))

/-- R299: an assignment to a subchannel that is not idle, is one of 0 to 2, has a device type its stall does not allow, or names
no stall is refused: no stall changes and HOD_ASSIGN_ERR records one of the reasons that apply (which of several is the model’s
choice); any other is made and records NONE. -/
def Obligations.HodAssignments : Prop :=
  ∀ (s : State) (k i ty : Nat), fwRuns s.mode = true → i < 8 →
    let busy := ∃ st, s.stall? k = some st ∧ (st.sub i).state ≠ 0
    let fixed := i < 3
    let wrongClass := ∃ st, s.stall? k = some st ∧
      ¬(ty = 0 ∨ ty = 3 ∨ (ty = 4 ∧ st.cls = .N) ∨ (ty = 5 ∧ st.cls = .N ∧ st.freeRun = true))
    let absent := s.stall? k = none
    ∃ t, exec (.hodAssign k i ty) s = .next t ∧
      (busy ∨ fixed ∨ wrongClass ∨ absent → t.stalls = s.stalls ∧ t.get HOD_ASSIGN_ERR_VALID = 1 ∧
        (t.get HOD_ASSIGN_ERR_REASON = 1 ∧ busy ∨ t.get HOD_ASSIGN_ERR_REASON = 2 ∧ fixed ∨
          t.get HOD_ASSIGN_ERR_REASON = 3 ∧ wrongClass ∨ t.get HOD_ASSIGN_ERR_REASON = 4 ∧ absent)) ∧
      (¬(busy ∨ fixed ∨ wrongClass ∨ absent) → t.get HOD_ASSIGN_ERR_REASON = 0 ∧ ∀ st, s.stall? k = some st →
        ∃ y : Sub, t.stall? k = some (st.setSub i y) ∧ y.ty = ty)

/-- MOV_CH_PI writes the producer index. Each of the eight descriptor commands starts a descriptor of its operation, or ends it
with its check’s code and the bytes or rows not written; then, in its turn of the round robin, moves its next burst, and ends with
code 0 when none is left. A stall access goes through at its stall’s boundary or puts the channel in FAULT; the resume acts as its
rule says, and a halt ends the descriptor, a blit's at its next segment boundary. -/
def Obligations.MoverComplete : Prop :=
  ∀ (s : State) (c : Nat) (host : Option Bytes), c < 8 →
    let x := s.mov c
    let a := s.movBase c + 64 * s.get (mFld MOV_CH_CI_INDEX c)
    let d := s.devBytes a 64
    let moved (t : State) (z : MovCh) : State :=
      if z.halting = true ∧ z.acc = 0 then State.movEnd { t with movLast := c } c 13 z.resid (mCtl z.desc 4) else State.setMov { t with movLast := c } c z
    (∀ pi, exec (.movChPi c pi) s = .next (s.put (mFld MOV_CH_PI_INDEX c) pi)) ∧
    (∀ f op, (f, op) ∈ [(Instr.dma, 1), (Instr.planePack, 2), (Instr.planeUnpack, 3), (Instr.interleave, 4), (Instr.deinterleave, 5),
        (Instr.fill, 0x10), (Instr.bcopy, 0x11), (Instr.bconvert, 0x12)] →
      (x.busy = false → s.movMayStart c = true → regionOfRange a 64 = .hbm → mOp d = op →
        (∀ r, s.mCheck c d = some r → exec (f c host) s = .next (s.movEnd c r (if r = 1 then 0 else (MovCh.start d).resid) (mCtl d 4))) ∧
        (s.mCheck c d = none → exec (f c host) s = .next ((s.setMov c (MovCh.start d)).put (mFld MOV_CH_STAT_STATE c) 1))) ∧
      (x.busy = true → x.fault = false → mOp x.desc = op → s.get MOV_CTL_EN = 1 → s.memServes = true →
        (x.next = none → exec (f c host) s = .next (s.movEnd c 0 0 (mCtl x.desc 4))) ∧
        (∀ y bs s', s.movTurn c = true → x.next = some y → y.stall = none → y.write = false →
          devRead (mmio host) s y.addr y.len host = .ok (bs, s') → exec (f c host) s = .next (moved s' (x.advance y bs))) ∧
        (∀ y s', s.movTurn c = true → x.next = some y → y.stall = none → y.write = true →
          devWrite (mmio host) s y.addr y.data host = .ok s' → exec (f c host) s = .next (moved s' (x.advance y []))))) ∧
    (∀ y k, s.movReady c = true → s.movTurn c = true → x.next = some y → y.stall = some k →
      (s.live k = none → exec (.moverStallAccess c) s = .next (s.movEnd c 11 x.resid (mCtl x.desc 4))) ∧
      (∀ st slot, s.live k = some (st, slot) →
        (movFaulted st y = true → ∃ t, exec (.moverStallAccess c) s = .next t ∧ t.stalls = s.stalls ∧ t.evLatched evMovFault = true ∧
          (t.mov c).fault = true) ∧
        (movFaulted st y = false → y.write = true → exec (.moverStallAccess c) s =
          .next (moved ((s.drainOf k).setStall (agentWrite st 2 (st.tick - 1) 8 y.addr y.data)) (x.advance y []))) ∧
        (movFaulted st y = false → y.write = false → exec (.moverStallAccess c) s =
          .next (moved ((s.drainOf k).setStall (st.accessed y.addr y.len)) (x.advance y (movStallBytes (s.cartOf st) st s.time y.addr y.len)))))) ∧
    (∀ y k st slot, x.busy = true → x.fault = false → s.get MOV_CTL_EN = 1 → x.next = some y → y.stall = some k → s.live k = some (st, slot) →
      s.movReady c = true ∨ st.sched = .parked ∨ st.sched = .halted ∨ st.tick = 0 ∨ 0 < st.cpu.lock ∨ boundaryClear s st = false ∨
        agentsClear st st.tick = false ∨ pendStuck st = true ∨ (y.write = true ∧ (notAhead st = false ∨ copyPending st [(y.addr, y.data)] = true ∨
          stampRoom st (agentStamps st.cls (st.tick - 1) 2 y.addr y.data) = false)) ∨ (y.write = false ∧ catchUpOk st y.addr y.len st.tick = false)) ∧
    (∀ y k st, x.fault = true → x.next = some y → y.stall = some k → s.stall? k = some st → movFaulted st y = false →
      exec (.movFaultResume c) s = .next ((s.setMov c { x with fault := false }).put (mFld MOV_CH_STAT_STATE c) 1)) ∧
    (let h := s.put (mFld MOV_CH_CTL_RUN c) 0
     (x.busy = false → exec (.movHalt c) s = .next h) ∧
     (x.busy = true → ¬(isBlit (mOp x.desc) = true ∧ x.acc ≠ 0) → exec (.movHalt c) s = .next (h.movEnd c 13 x.resid (mCtl x.desc 4))) ∧
     (x.busy = true → isBlit (mOp x.desc) = true → x.acc ≠ 0 → exec (.movHalt c) s = .next (h.setMov c { x with halting := true })))

/-- MEM_INVAL records its operands and sets GO until no store-buffer entry that it names is left; MEM_XFAULT reads and removes the oldest fault or reads 0; an
uncorrectable error in HBM is handled by its frame and, where no twin serves the read, ends the host program or Mover descriptor that
met it; the scrubber counts
corrected errors by stack and retires a frame at the limit. -/
def Obligations.MemoryServiceComplete : Prop :=
  ∀ (s : State),
    (∀ k i all g, blocksServe s.mode = true → exec (.memInval k i all g) s = .next (s.puts [(MEM_INVAL_STALL, k), (MEM_INVAL_INDEX, i),
      (MEM_INVAL_STALLALL, b2n all), (MEM_INVAL_GLOBAL, b2n g), (MEM_INVAL_GO, 1)])) ∧
    (s.invalOpen = true → exec .memInvalDone s = .next s) ∧
    (s.invalOpen = false → ∃ t, exec .memInvalDone s = .next t ∧ t.get MEM_INVAL_GO = 0 ∧ t.stalls = s.stalls ∧ t.hbm = s.hbm) ∧
    (s.xfaults = [] → exec .memXfaultPop s = .next { s with rdata := 0 }) ∧
    (∀ x r, s.xfaults = x :: r → exec .memXfaultPop s = .next
      { s with xfaults := r, rdata := 1 + x.kind * 2 + x.agent * 16 + b2n x.write * 128 + x.stall * 256 + min 0x1FFF x.index * 2 ^ 20 }) ∧
    (∀ addr, memServed s = true → regionOf addr = .hbm →
      (∀ agent who, (agent ≠ 3 ∧ agent ≠ 4) ∨ s.twinned (extentOf addr) = true →
        exec (.hbmUe addr agent who) s = .next (s.hbmError (addr / 32 * 32) agent)) ∧
      (∀ who, let t := s.hbmError (addr / 32 * 32) 3
        s.twinned (extentOf addr) = false → who < 64 → (t.hsub who).phase ≠ .idle →
        exec (.hbmUe addr 3 who) s = .next (t.hostEnd who 10 (hostResid (t.hsub who)))) ∧
      (∀ who, let t := s.hbmError (addr / 32 * 32) 4
        s.twinned (extentOf addr) = false → who < 8 → (t.mov who).busy = true →
        exec (.hbmUe addr 4 who) s = .next (t.movEnd who 14 (t.mov who).resid (mCtl (t.mov who).desc 4))) ∧
      (s.get MEM_CTL_SCRUB = 1 →
        let t := s.puts [(MEM_SCRUB_EXTENT, extentOf addr % 12288), (MEM_SCRUB_STACK, extentOf addr / 12288)]
        let n := (lookupN (addr / 4096) s.ceFrames).getD 0 + 1
        let c := t.inc (if extentOf addr < 12288 then MEM_CE0_COUNT else MEM_CE1_COUNT)
        let u : State := { c with ceFrames := insertN (addr / 4096) n s.ceFrames }
        exec (.scrubRead addr 0) s = .next t ∧
        (n < max 1 (u.get MEM_CE_RETIRE_LIMIT) → exec (.scrubRead addr 1) s = .next u) ∧
        (max 1 (u.get MEM_CE_RETIRE_LIMIT) ≤ n → exec (.scrubRead addr 1) s = .next (u.retire (addr / 4096))) ∧
        exec (.scrubRead addr 2) s = .next (t.hbmError (addr / 32 * 32) 7)))

/-! ### Yard ports, streams and the yard -/

/-- A FAILED port goes to TRAINING and any other comes UP when trained, and a port moves its streams away when it fails; a frame
received for its MAC is dropped and counted, answered, classified or counted as a miss, and the uncorrectable blocks are counted; an input datagram that passes its checks latches its input and one that fails is counted; RTCP
reports, PLI and TMMBR act on their stream. An audio packet leaves first; a video packet leaves when the token bucket allows it,
and a record whose first packet has not left in time is dropped and counted; a packet that leaves takes the next number, is
sealed, and goes to its stream's address on its port; the sender report goes out every second. A video or audio record that is
read becomes the packets of its stream, a stale one is skipped and counted (and, for video, a key frame asked for), and with the
split of its service it is captured into the ring instead. -/
def Obligations.PortsAndPacketsComplete : Prop :=
  (∀ (s : State) (n : Nat) (f : Bytes), n < 8 →
     (s.get (portCtl n YRD_PORT_CTL_EN) = 1 → s.get (portCtl n YRD_PORT_STAT_STATE) ≠ 2 → exec (.portTrained n) s =
       .next ((s.put (portCtl n YRD_PORT_STAT_STATE) (if s.get (portCtl n YRD_PORT_STAT_STATE) = 3 then 1 else 2)).notePorts)) ∧
     (s.portUp n = true → ∃ t, exec (.portFail n) s = .next t ∧ t.stalls = s.stalls ∧ t.nets = s.nets.map (moveOff n) ∧
       t.heard = s.heard.filter fun h => h.port != n) ∧
     (∀ lost, s.portUp n = true → s.get YRD_CTL_EN = 1 →
       let u := s.put (portCtl n YRD_PORT_STAT_UNCORR) (min 0xFFFF (s.get (portCtl n YRD_PORT_STAT_UNCORR) + lost))
       (macTakes n (beAt f 0 6) = false → exec (.frameReceive n lost f) s = .next u) ∧
       (macTakes n (beAt f 0 6) = true → 9212 < f.length → exec (.frameReceive n lost f) s = .next (u.inc (portCtl n YRD_PORT_DROP_LONG))) ∧
       (∀ ty p, macTakes n (beAt f 0 6) = true → f.length ≤ 9212 → etherPayload f = some (ty, p) →
         (ty = 0x8808 → exec (.frameReceive n lost f) s = .next (u.inc (portCtl n YRD_PORT_DROP_PAUSE))) ∧
         (ty = 0x0806 → u.service false (sliceBytes p 24 4) = true → exec (.frameReceive n lost f) s = .next (u.answered n f)) ∧
         (∀ k, ty ≠ 0x8808 → ty ≠ 0x0806 → ipParse ty p = some k → exec (.frameReceive n lost f) s = .next (u.classify n f k)) ∧
         (ty ≠ 0x8808 → ty ≠ 0x0806 → ipParse ty p = none → exec (.frameReceive n lost f) s = .next (u.miss n f))))) ∧
  (∀ (s : State) (x : Ingress),
     let s' : State := { s with ingress := s.ingress.erase x }
     (∀ f, s.ingress.find? (fun y => y.kind == 2) = some x → s.flows.find? (fun f => f.num == x.who) = some f →
       (∀ c, s'.checkInput f x.data = .error c → exec .inputDatagram s = .next (s'.inc c)) ∧
       (∀ seq p, s'.checkInput f x.data = .ok (seq, p) → beAt x.data 1 1 = 1 → flowAction f.desc ≠ 1 → exec .inputDatagram s = .next
         ((s'.setFlow f 48 (leBytes 8 seq ++ leBytes 4 (leAt f.desc 56 4 + 1))).latchInput (f.num / 4) (f.num % 4) seq (sliceBytes p 0 16)))) ∧
     (s.ingress.find? (fun y => y.kind == 3) = some x →
       (∀ t y b r, rtcpKind x.data = 1 → s.net? x.who = some t → s.stream? x.who = some y →
         (reportBlocks x.data).filter (fun b => b.1 == leAt t.desc 4 4) = b :: r →
         exec .rtcpReport s = .next (s'.setStream { y with esd := { y.esd with loss := b.2 } })) ∧
       (∀ y, rtcpKind x.data = 3 → s.stream? x.who = some y →
         exec .pli s = .next (s'.setStream { y with esd := { y.esd with keyreq := true } })) ∧
       (∀ t y g r, rtcpKind x.data = 2 → s.net? x.who = some t → s.stream? x.who = some y →
         (((upto ((x.data.length - 12) / 8)).map fun j => sliceBytes x.data (12 + 8 * j) 8).filter fun f => beAt f 0 4 == leAt t.desc 4 4) = g :: r →
         ∃ u z, exec .tmmbr s = .next u ∧ u.stream? x.who = some z ∧
           z.esd = { y.esd with cap := (beAt g 4 4 / 512 % 2 ^ 17) * 2 ^ (beAt g 4 4 / 2 ^ 26) / 1000 % 2 ^ 32 }))) ∧
  (∀ (s : State) (n : Nat) (x : NetStream), s.net? n = some x → s.get YRD_CTL_EN = 1 → s.portUp x.port = true →
     stallsExecute s.mode = true → s.movedAway (n / 4) = false →
     (∀ p r k, x.aq = p :: r → x.akey = some k →
       let i := x.arec.length - x.aq.length
       let stale := i = 0 ∧ x.anum = 0 ∧ x.adone + 20000000 < s.time
       (stale → exec (.packetSend true n) s = .next
         (((s.setNet { x with aq := [], arec := [] }).audioDone (x.num / 4) x.ard).inc YRD_STALE_COUNT).pumpAll) ∧
       (¬stale →
         let y := { x with aq := r, arec := if r.isEmpty then [] else x.arec, anum := max x.anum (i + 1), count := (x.count.1, x.count.2 + 1)
                           octets := (x.octets.1, x.octets.2 + if x.anum ≤ i then p.data.length else 0) }
         let t := ((s.setNet y).sendMedia y true k x.anum i p).countSent x.num
         exec (.packetSend true n) s = .next (if r = [] then t.audioDone (x.num / 4) x.ard else t).pumpAll)) ∧
     (∀ p r k, x.vq = p :: r → x.vkey = some k → s.audioWaits x.port = false →
       let i := x.vrec.length - x.vq.length
       let b := bucketNow x (s.maxOf x.num) s.time
       let stale := i = 0 ∧ x.vnum = 0 ∧ x.vdone + 33300000 < s.time
       (stale → exec (.packetSend false n) s = .next
         (((s.setNet { x with vq := [], vrec := [] }).videoDone x.num x.vrd true).inc YRD_STALE_COUNT).pumpAll) ∧
       (¬stale → b < p.size * 1000000000 →
         exec (.packetSend false n) s = .next (s.setNet { x with bucket := b, fillAt := s.time }).pumpAll) ∧
       (¬stale → p.size * 1000000000 ≤ b →
         let y := { x with bucket := b - p.size * 1000000000, fillAt := s.time, vq := r, vrec := if r.isEmpty then [] else x.vrec
                           vnum := max x.vnum (i + 1), count := (x.count.1 + 1, x.count.2)
                           octets := (x.octets.1 + (if x.vnum ≤ i then p.data.length else 0), x.octets.2) }
         let t := ((s.setNet y).sendMedia y false k x.vnum i p).countSent x.num
         exec (.packetSend false n) s = .next (if r = [] then t.videoDone x.num x.vrd false else t).pumpAll)) ∧
     (ndEn x.desc = true → s.split spSTREAM = false → x.srAt + 1000000000 ≤ s.time → ∃ p, exec (.rtcpSrSend n) s =
       .next ((s.setNet { x with srAt := s.time }).sendRtcp { x with srAt := s.time } p)) ∧
     (∀ y o h pay e, s.stream? n = some y → s.ringNext y.esd.outAddr y.esd.wr y.esd.rd 12 = some (o, h, pay, e) →
       s.split spSTREAM = false → ndEn x.desc = true → x.vrec = [] → leAt h 16 8 + 33300000 < s.time → exec (.recordRead false n) s = .next
         ((s.setStream { y with esd := { y.esd with rd := ringWrap e y.esd.outSize, keyreq := true } }).inc YRD_STALE_COUNT))) ∧
  (∀ (s : State) (x : NetStream) (k : KeySlot) (num i : Nat) (p : TxPkt), s.pinsHeld = false → num ≤ i →
     (∃ w, (s.sendMedia x false k num i p).out = s.out ++ [.packet x.port w] ∧ w = mediaWire x
       (srtp k (b2n p.m) (leAt x.desc 2 1) (leAt x.desc 60 2) p.ts (leAt x.desc 4 4) (leAt x.desc 64 4) p.data)) ∧
     (∃ w, (s.sendMedia x true k num i p).out = s.out ++ [.packet x.port w] ∧ w = mediaWire x
       (srtp k (b2n p.m) (leAt x.desc 3 1) (leAt x.desc 62 2) p.ts (leAt x.desc 8 4) (leAt x.desc 68 4) p.data))) ∧
  (∀ (s : State) (n : Nat) (y : Stream) (o : Nat) (h pay : Bytes) (e : Nat), stallsExecute s.mode = true → s.movedAway (n / 4) = false →
     s.stream? n = some y → s.ringNext y.esd.outAddr y.esd.wr y.esd.rd 12 = some (o, h, pay, e) →
     (s.split spSTREAM = true → (∀ t, s.net? n = some t → t.vrec = []) → exec (.recordRead false n) s = .next
       ((s.setStream { y with esd := { y.esd with rd := ringWrap e y.esd.outSize } }).capture 2 n (h ++ pay))) ∧
     (∀ t f, s.split spSTREAM = false → s.net? n = some t → ndEn t.desc = true → s.get YRD_CTL_EN = 1 → t.vrec = [] →
       s.portUp t.port = true → s.time ≤ leAt h 16 8 + 33300000 → s.txKey n (fun k => decide (k ≤ leAt h 4 4)) = some f →
       let l := formPackets t (bitAt (leAt h 3 1) 1) (leAt t.desc 72 4 + 1500 * leAt h 4 4)
         (payloads (leAt h 2 1) (leAt h 3 1) (leAt t.desc 56 2 - pktOver (netIpv6 t.desc)) 0 pay)
       l ≠ [] → exec (.recordRead false n) s = .next
         (s.setNet { t with vq := l, vrec := l, vnum := 0, vkey := some f, vdone := leAt h 16 8, vrd := ringWrap e y.esd.outSize }))) ∧
  (∀ (s : State) (k : Nat) (st : Stall) (l : Lane) (o : Nat) (h pay : Bytes) (e : Nat), stallsExecute s.mode = true →
     s.movedAway k = false → s.stall? k = some st → st.lane = some l → s.ringNext l.outAddr l.wr l.rd 16 = some (o, h, pay, e) →
     (s.nets.any fun x => x.num / 4 == k && !x.arec.isEmpty) = false →
     let rd := ringWrap e l.outSize
     let past := s.laneRd k rd fun a => a == o
     let ts := (s.laneStreams k l).filter fun t => s.portUp t.port
     (l.pcm.contains o = true → exec (.recordRead true k) s = .next (past.capture 4 k (h ++ pay))) ∧
     (l.pcm.contains o = false → s.split spSTREAM = true → exec (.recordRead true k) s = .next (past.capture 2 k (h ++ pay))) ∧
     (l.pcm.contains o = false → s.split spSTREAM = false → s.get YRD_CTL_EN = 1 →
       (leAt h 20 8 + 20000000 < s.time → exec (.recordRead true k) s = .next (past.inc YRD_STALE_COUNT)) ∧
       (s.time ≤ leAt h 20 8 + 20000000 → ts = [] → exec (.recordRead true k) s = .next s) ∧
       (s.time ≤ leAt h 20 8 + 20000000 → ts ≠ [] → exec (.recordRead true k) s = .next ((ts.foldl
         (fun u t => u.queueAudio (st.f0.getD 0) l.channels (leAt h 2 1) (leAt h 4 4) (leAt h 20 8) rd pay t) s).audioDone k rd))))

/-- DATA, ACK and NAK messages, the three timers and the loss of a peer act on the peer’s window as the transport rules say; an UP
port sends a HELLO each 100 ms, a HELLO received adds a path unless it fails its checks, a path not heard for 300 ms is removed,
and YRD_LOAD loads a table entry. -/
def Obligations.YardTransportComplete : Prop :=
  (∀ (s s' : State) (p : Peer) (seq cls : Nat) (pt : Bytes),
     (s.yardTake 1 = (some (p, seq, cls, pt), s') → (s'.ingress.filter fun x => x.kind == 4) = [] →
       ((seq < p.rxExp ∨ p.rxHeld.any (fun d => d.seq == seq) = true) → exec .yardDataReceive s = .next (s'.sendAck p)) ∧
       (p.rxHeld.any (fun d => d.seq == seq) = false → p.rxExp + 64 ≤ seq → exec .yardDataReceive s = .next (s'.sendNak p seq)) ∧
       (p.rxHeld = [] → seq = p.rxExp →
         let u := s'.deliverData p.yard { seq, cls, data := pt, at_ := s'.time }
         let q := { p with rxExp := p.rxExp + 1, rxHeld := [], rxDue := p.rxDue + 1, rxSince := if p.rxDue = 0 then s'.time else p.rxSince }
         (p.rxDue < 15 → cls ≠ 0 → exec .yardDataReceive s = .next (u.setPeer { q with nakAt := none })) ∧
         (p.rxDue < 15 → cls = 0 → exec .yardDataReceive s = .next ((s'.setPeer { q with nakAt := none }).controlIn
           { kind := 4, port := 0, who := p.yard, mac := 0, data := pt, at_ := s'.time })) ∧
         (15 ≤ p.rxDue → cls ≠ 0 →
           let a := u.ySend { q with rxDue := 0 } 2 0 q.rxExp []
           exec .yardDataReceive s = .next (a.2.setPeer { a.1 with nakAt := none })))) ∧
     (s.yardTake 2 = (some (p, seq, cls, pt), s') → (p.unacked.filter fun d => decide (seq ≤ d.seq)).length < p.unacked.length →
       exec .yardAckReceive s = .next (s'.pumpPeer { p with unacked := p.unacked.filter fun d => decide (seq ≤ d.seq), advAt := s'.time
                                                            resentAt := s'.time })) ∧
     (s.yardTake 3 = (some (p, seq, cls, pt), s') → exec .yardNakReceive s = .next (s'.resend p (p.unacked.filter fun d =>
       d.seq == seq || (decide (seq < d.seq) && decide (d.seq - seq - 1 < 64) && bitAt (beAt pt 0 8) (d.seq - seq - 1))))) ∧
     (∀ y, s.peer? y = some p → s.attached = true →
       (0 < p.rxDue → p.rxSince + 20000 ≤ s.time → exec (.ackTimer y) s = .next (s.sendAck p)) ∧
       (∀ t, p.gapAt = some t → t + 20000 ≤ s.time → p.nakAt = none →
         exec (.nakTimer y) s = .next (s.sendNak p (p.rxHeld.foldl (fun m d => max m d.seq) 0))) ∧
       (p.unacked ≠ [] → max p.advAt p.resentAt + 200000 ≤ s.time →
         exec (.retransmitTimeout y) s = .next (s.resend { p with resentAt := s.time } p.unacked))) ∧
     (∀ y, s.peer? y = some p → peerStale s.time p = true → exec (.peerUnreachable y) s = .next
       ((((s.raise evPeerLost).linkLost (linksTo p)).setPeer
         { p with up := false, unacked := [], queued := [], rxHeld := [], rxDue := 0, nakAt := none }).endMigs eUNREACHABLE true
           fun m => m.yard == y))) ∧
  (∀ (s : State),
     (∀ port, port < 8 → s.portUp port = true → s.get YRD_CTL_EN = 1 → nthD s.helloAt port 0 + 100000 ≤ s.time → s.mcastPn < 2 ^ 56 →
       (s.attached = true ∨ 0 < nthD s.leaving port 0) →
       ∃ t, exec (.helloSend port) s = .next t ∧ t.mcastPn = s.mcastPn + 1 ∧ t.helloAt = setNth s.helloAt port s.time ∧
         t.hellos = setNth s.hellos port (nthD s.hellos port 0 + 1) ∧ t.leaving = setNth s.leaving port (nthD s.leaving port 0 - 1) ∧
         (s.pinsHeld = false → ∃ w, t.out = s.out ++ [.packet port w] ∧ w.dst = yardGroup ∧ w.mac = yardGroupMac)) ∧
     (∀ x, s.takeYard 4 = some x → s.attached = true →
       let s' : State := { s with ingress := s.ingress.erase x }
       (s'.yardOpen x.data = none → exec .helloReceive s = .next (s'.inc YRD_YARD_DROP_AUTH)) ∧
       (∀ pt, s'.yardOpen x.data = some pt →
         (beAt x.data 4 4 = s'.get YRD_NUMBER_YARD → x.mac ≠ portMac x.port → (upto 8).any (fun n => portMac n == x.mac) = false →
           exec .helloReceive s = .next ((s'.put YRD_NUMBER_CONFLICT 1).raise 0x079)) ∧
         (beAt x.data 4 4 ≠ s'.get YRD_NUMBER_YARD → pnSeen ((lookupN (beAt x.data 4 4) s'.helloPns).getD []) (beAt x.data 12 8) = true →
           exec .helloReceive s = .next (s'.inc YRD_YARD_DROP_AUTH)) ∧
         (beAt x.data 4 4 ≠ s'.get YRD_NUMBER_YARD → pnSeen ((lookupN (beAt x.data 4 4) s'.helloPns).getD []) (beAt x.data 12 8) = false →
           bitAt (beAt pt 0 4) 20 = false → s.split spROUTE = false →
           ∃ t, exec .helloReceive s = .next t ∧ t.stalls = s.stalls ∧ (t.heard.any fun h => h.yard == beAt x.data 4 4 && h.port == x.port) = true))) ∧
     (∀ port y h, s.heard.find? (fun h => h.port == port && h.yard == y) = some h → h.at_ + 300000 ≤ s.time →
       let s' : State := { s with heard := s.heard.erase h }
       exec (.routeTimeout port y) s = .next ((if s'.learns then s'.dropNeighbour y port else s').notePeers port)) ∧
     (∀ table i, blocksServe s.mode = true →
       exec (.yrdLoad table i) s = .next ((s.puts [(YRD_LOAD_INDEX, i), (YRD_LOAD_TABLE, table)]).loadEntry (table % 4) (i % 2 ^ 14))))

/-- A read of CAD_TIME_LO latches the high half; a PTP exchange steps the clock only with no stall and no stream and never
backwards, counts good exchanges within 1,000 ns and locks after 16; holdover follows the master’s loss; the migration messages
park, commit, and end a migration on each side. -/
def Obligations.ClockAndMigrationComplete : Prop :=
  ∀ (s : State),
    (exec .cadTimeRead s = .next { s with rdata := s.time % 2 ^ 32, cadLatch := some (s.time / 2 ^ 32 % 2 ^ 32) }) ∧
    (∀ o, s.get PTP_CTL_EN = 1 → fwRuns s.mode = true →
      let s' : State := { s with ingress := s.ingress.filter fun x => x.kind != 0 }
      exec (.ptpSync o) s = .next (if (s'.ptpExchange o).2 then (s'.ptpExchange o).1.clockLost else (s'.ptpExchange o).1)) ∧
    (∀ o, (-1000 < o ∧ o < 1000 → (s.ptpExchange o).1.ptpGood = s.ptpGood + 1 ∧
        (s.ptpExchange o).1.get PTP_STAT_STATE = if 15 ≤ s.ptpGood then 2 else 1) ∧
      (¬(-1000 < o ∧ o < 1000) → (s.ptpExchange o).1.ptpGood = 0 ∧ (s.ptpExchange o).1.get PTP_STAT_STATE = 1) ∧
      s.time ≤ (s.ptpExchange o).1.time ∧ ((s.stalls ≠ [] ∨ s.streamsOn = true) → (s.ptpExchange o).1.time = s.time ∧
        (s.ptpExchange o).1.slew.natAbs ≤ 100 ∧ (1000000 < o.natAbs → (s.ptpExchange o).1.get PTP_STAT_FAR = 1)) ∧
      (s.stalls = [] → s.streamsOn = false → (s.ptpExchange o).1.time = s.time + (-o).toNat)) ∧
    (s.get PTP_CTL_EN = 1 → s.get PTP_STAT_STATE = 1 →
      exec .ptpHoldover s = .next { (s.put PTP_STAT_STATE 3).raise evPtpHoldover with ptpGood := 0 }) ∧
    (s.get PTP_CTL_EN = 1 → s.get PTP_STAT_STATE = 2 →
      exec .ptpHoldover s = .next (State.clockLost { (s.put PTP_STAT_STATE 3).raise evPtpHoldover with ptpGood := 0 })) ∧
    (s.get YRD_CTL_ATTACH = 1 → fwRuns s.mode = true → ∃ t, exec .yrdDetach s = .next t ∧ t.peers = []) ∧
    (∀ k m st, s.migDue k = some m → s.stall? k = some st → 33554432 < recordSize st →
      let m' : Mig := { m with attempt := m.attempt + 1, tried := st.ckptBound }
      exec (.migrationPark k) s = .next (if 8 ≤ m'.attempt then (s.setMig m').endMig eDIRTY false m' else s.setMig m')) ∧
    (∀ k m st, s.migDue k = some m → s.stall? k = some st → recordSize st ≤ 33554432 →
      let a := (s.park k rsnMIGRATE false).onStall k fun st => completeCkpt (decide (s.mode = .conformance)) (capture st)
      let b := a.setMig { m with parked := true, flows := s.flows.filter fun f => f.num / 4 == k }
      let c := match (b.stall? k).bind newestComplete, b.stall? k with
        | some c, some st => b.sendImage m.yard (b.snapshot st c false true)
        | _, _ => b
      exec (.migrationPark k) s = .next (c.forwardFlows k m.yard m.dest)) ∧
    (∀ k y snap room image m, s.mig? k true = some m → m.parked = true → m.ready = false → m.doubt = false →
      exec (.migrateReady true k y 0 snap room image) s = .next ((s.setMig { m with ready := true }).sendControl m.yard 2 m.dest) ∧
      ∀ v, v ≠ 0 → exec (.migrateReady true k y v snap room image) s = .next (s.endMig v false m)) ∧
    (∀ k m, s.mig? k false = some m →
      exec (.migrateCommit k) s = .next ((((s.dropMig m).unpark k rsnMIGRATE).raise evMigrateDone).sendControl m.yard 3 m.dest)) ∧
    (∀ k m, s.mig? k true = some m → m.ready = true → m.doubt = false → exec (.commitAck k) s = .next
      (((((s.dropMig m).destroyStall k true).enforceLevel).raise evMigrateDone).notice nMigrateDone k m.yard m.dest))

/-! ### Mailbox commands and rings -/

/-- A doorbell with a request outstanding sets OVERRUN; one with READY raises H2M_BUSY; a response stands in M2H_DATA with its
status, count and sequence number and sends vector 0; the read of DATA0 frees the mailbox; an undefined code, a wrong major
version, a mode outside the command’s list and ill-formed arguments are answered 1, 2, 3 and 4; RING_CREATE and RING_DELETE act on
the ring named. -/
def Obligations.MailboxProtocol : Prop :=
  ∀ (s : State),
    (∀ go, s.get MBX_STATE_H2M_BUSY = 1 → exec (.mbxDoorbell go) s = .next (s.put MBX_STATE_OVERRUN 1)) ∧
    (s.get MBX_STATE_H2M_BUSY = 0 → s.get MBX_STATE_READY = 1 →
      exec (.mbxDoorbell true) s = .next { s.put MBX_STATE_H2M_BUSY 1 with reqTaken := false }) ∧
    (∀ mp0, s.get MBX_STATE_M2H_VALID = 1 → exec (.m2hData0Read mp0) s =
      .next (State.dueReset { s.puts [(MBX_STATE_H2M_BUSY, 0), (MBX_STATE_M2H_VALID, 0), (MBX_M2H_DOORBELL_VALID, 0)] with
        reqTaken := false, rdata := s.get MBX_M2H_DATA_DATA } mp0)) ∧
    (s.reqWaits = true → formOf s.reqCode = none → s.reqMajor = 3 → exec .unknownCommand s = .next (s.takeReq.respond (.err 1))) ∧
    (∀ c code f, (c, code) ∈ [(Instr.identify, 1), (.fwStatus, 2), (.deviceReset, 4), (.abortToBoot, 5), (.fwBegin, 0x10), (.fwCommit, 0x11), (.modeSet, 0x20),
        (.deviceSet, 0x21), (.setSplit, 0x22), (.ringCreate, 0x30), (.ringDelete, 0x31), (.titleRemove, 0x41), (.stallStart, 0x51), (.stallPark, 0x52),
        (.stallResume, 0x53), (.stallReset, 0x54), (.stallSet, 0x55), (.stallMove, 0x56), (.stallDestroy, 0x57), (.stallQuery, 0x58)] →
      formOf code = some f → s.reqWaits = true → s.reqCode = code →
      (s.reqMajor ≠ 3 → 5 < code → exec c s = .next (s.takeReq.respond (.err 2))) ∧
      (s.reqMajor = 3 → f.modes.ok s.mode = false → exec c s = .next (s.takeReq.respond (.err 3))) ∧
      (s.reqMajor = 3 → f.modes.ok s.mode = true → f.argsOk s.reqN s.reqDwords = false → exec c s = .next (s.takeReq.respond (.err 4)))) ∧
    (∀ r, r.data.length ≤ 15 → r.status < 65536 →
      let x := s.respond r
      x.get MBX_M2H_DATA_DATA = r.status + r.data.length * 2 ^ 16 + s.reqSeq * 2 ^ 20 + 3 * 2 ^ 28 ∧
      (∀ k, k < r.data.length → x.get (MBX_M2H_DATA_DATA.nth 4 (k + 1)) = nthD r.data k 0 % 2 ^ 32) ∧ x.get MBX_STATE_M2H_VALID = 1 ∧
      x.get MBX_M2H_DOORBELL_VALID = 1 ∧ x.get MBX_M2H_DOORBELL_SEQ = s.reqSeq ∧
      (s.msixLive = false → x.out = s.out) ∧ (s.msixLive = true → s.msixMasked 0 = false → x.out = s.out ++ [.msix 0]) ∧
      (s.msixLive = true → s.msixMasked 0 = true → x.out = s.out ∧ x.get (msixPend 0) = 1)) ∧
    (∀ x, Accepts s 0x31 → s.takeReq.ring? (s.reqDwords 1) = some x → exec .ringDelete s = .next ((s.takeReq.deleteRing x).respond .ok)) ∧
    (let w := s.takeReq
     let d := s.reqDwords
     let r := d 1 % 16
     let sq := field (d 1) 4 4
     let cq := field (d 1) 8 4
     let cls := field (d 1) 18 4
     Accepts s 0x30 → r ≤ 8 → 4 ≤ sq → sq ≤ 12 → 4 ≤ cq → cq ≤ 12 → wide d 2 % 4096 = 0 → wide d 4 % 4096 = 0 → cls ≤ 7 → (r = 0 → cls = 0) →
     w.ring? r = none → (cls ≠ 0 → w.ringOfClass cls = none) →
     let x : Ring := { num := r, sqLog := sq, cqLog := cq, vec := field (d 1) 12 6, cls, sqBase := wide d 2, cqBase := wide d 4, jobs := [],
                       chain := [], armed := true, fetching := false, pollAt := w.time }
     ∃ t : State, exec .ringCreate s = .next (t.respond .ok) ∧ t.rings = insertBy (·.num) x w.rings ∧
       t.get (ringF RNG_STATE_CREATED r) = 1 ∧ t.get (ringF RNG_STATE_SQPHASE r) = 1 ∧ t.get (ringF RNG_STATE_CQPHASE r) = 1 ∧
       t.get (ringF RNG_SQ_TAIL_TAIL r) = 0 ∧ t.get (ringF RNG_CQ_HEAD_HEAD r) = 0 ∧ t.get (ringF RNG_STATE_SQHEAD r) = 0 ∧
       t.get (ringF RNG_STATE_CQTAIL r) = 0)

/-- IDENTIFY, FW_STATUS, LOG_READ, DEVICE_RESET, ABORT_TO_BOOT, FW_BEGIN, FW_COMMIT, MODE_SET, DEVICE_SET and SET_SPLIT, accepted
in their modes, have their effects and answer the listed data. -/
def Obligations.DeviceCommandsComplete : Prop :=
  ∀ (s : State),
    let w := s.takeReq
    let d := s.reqDwords
    let answers (c : Instr) (x : State) (r : Resp) : Prop := exec c s = .next (x.respond r)
    (∀ p, Accepts s 0x01 → w.pkg = some p → answers .identify w (.ok [w.get DEV_ID_ID,
      w.get DEV_STEP_STEP + w.get DEV_CONF_LEVEL * 256 + modeCode s.mode * 65536, Config.devSerial.toNat % 2 ^ 32, Config.devSerial.toNat / 2 ^ 32,
      w.get MBX_STATE_MINOR + w.get MBX_STATE_MAJOR * 256, if w.get MBX_STATE_ROM = 1 then 0 else p.version])) ∧
    (∀ p, Accepts s 0x02 → w.pkg = some p → answers .fwStatus w (.ok ([w.devMode, w.reg32 SPLIT_STATE_MODE.off, p.smc + p.hod * 65536, p.enc,
      (w.logSeq + (2 ^ 32 - 1)) % 2 ^ 32, w.stalls.length % 4096 + w.units % 4096 * 4096] ++ w.dropped))) ∧
    (Accepts s 0x03 → s.linkUp = true → 0 < d 4 → d 4 ≤ 256 →
      let l := (logFrom w.log w.logSeq (d 1)).take (d 4)
      answers (.logRead true) (w.hostWrite (wide d 2) (l.flatMap LogRec.bytes)) (.ok [l.length,
        match l.getLast? with | some r => (r.seq + 1) % 2 ^ 32 | none => d 1, match w.log with | r :: _ => r.seq | [] => w.logSeq])) ∧
    (Accepts s 0x04 → answers .deviceReset { w with rstDue := some (bitAt (d 1) 0, w.time) } .ok) ∧
    (Accepts s 0x05 → (w.mode = .load ∨ w.mode = .reject → answers .abortToBoot (State.toMode { w with fwLen := none, pkg := none } .boot 0) .ok) ∧
      (w.mode ≠ .load → w.mode ≠ .reject → answers .abortToBoot { w with rstDue := some (true, w.time) } .ok)) ∧
    (Accepts s 0x10 → 1024 ≤ d 1 → d 1 ≤ 16777216 →
      let b := if w.mode = .reject then w.toMode .boot 0 else w
      let c : State := { b with fwLen := some (d 1), hbm := Memory.clearRange b.hbm stagingBase (stagingBase + 0x1000000) }
      answers .fwBegin (c.puts [(BAR2_WIN_BASE, stagingBase / 16777216), (BAR2_WIN_EN, 1)]) .ok) ∧
    (Accepts s 0x11 → w.fwLen = some (d 1) → exec .fwCommit s = .next (State.toMode (w.put BAR2_WIN_EN 0) .load 0)) ∧
    (Accepts s 0x20 → modeSetFrom (d 1) w.mode w.detail = true →
      (d 1 = 8 → (w.stalls.all fun st => decide (st.sched = .parked)) = true → answers .modeSet w.enterDrowse .ok) ∧
      (d 1 = 6 → w.mode = .drowse → answers .modeSet w.leaveDrowse .ok) ∧ (d 1 = 6 → w.mode ≠ .drowse → answers .modeSet w.enterServe .ok) ∧
      (d 1 = 5 → w.stalls = [] → answers .modeSet (w.toMode .service 0x11) .ok) ∧
      (d 1 = 11 → w.stalls = [] → answers .modeSet (w.toMode .conformance 0) .ok) ∧
      (d 1 = 1 → w.stalls = [] → exec .modeSet s = .next (w.respond .ok).enterSlumber)) ∧
    (Accepts s 0x21 →
      let v (k : Nat) : Nat := if k < s.reqN then d (k + 1) else 0
      (upto 4).any (fun k => decide (v (k + 1) &&& nthD (deviceMasks (d 1)) k 0 ≠ v (k + 1))) = false →
      (d 1 = 0 → answers .deviceSet (w.put PERST_SCOPE_SCOPE (v 1)) .ok) ∧
      (d 1 = 1 → answers .deviceSet (w.puts [(HOST_ORPHAN_SECONDS, v 1 % 65536), (HOST_ORPHAN_ACTION, v 1 / 65536)]) .ok) ∧
      (d 1 = 2 → answers .deviceSet { (hodHgrantWrite (bitAt (v 1) 0) (v 2 / 2) w).puts
        [(MOV_GRANT_HOST, field (v 1) 1 1), (MOV_GRANT_SHEDS, v 3 / 2), (RNG_GRANT_SHEDS, v 4 / 2)] with monGrant := bitAt (v 1) 2 } .ok) ∧
      (d 1 = 3 → answers .deviceSet (w.ptpSet (v 1)) .ok) ∧ (d 1 = 4 → answers .deviceSet (w.put YRD_CTL_MISS_HOST (v 1)) .ok)) ∧
    (Accepts s 0x22 → w.splitErr (d 1 % 128) (field (d 1) 8 7) = none →
      let m := (upto 7).foldl (fun m b => if bitAt (d 1 % 128) b then putField m b 1 (field (field (d 1) 8 7) b 1) else m) (w.get SPLIT_STATE_MODE)
      let x := w.put SPLIT_STATE_MODE m
      let y := if w.split spENCODE != x.split spENCODE then State.recost { x with encChange := some x.time } else x
      let z := if w.split spENCODE && !x.split spENCODE then y.keyNext else y
      answers .setSplit z (.ok [z.reg32 SPLIT_STATE_MODE.off]))

/-- TITLE_REGISTER, TITLE_REMOVE, PAGE_SUPPLY, STALL_CREATE, STALL_START, STALL_PARK, STALL_RESUME, STALL_RESET, STALL_SET,
STALL_MOVE, STALL_DESTROY, STALL_QUERY, SUBCH_ASSIGN, LINK_PEER and RESUME_FROM_CHECKPOINT, with operands that meet their
conditions, have their effects and answer 0 with the listed data; STALL_MOVE of a stall in a locked sequence asks for the park
first. -/
def Obligations.TitleAndStallCommandsComplete : Prop :=
  ∀ (s : State),
    let w := s.takeReq
    let d := s.reqDwords
    let answers (c : Instr) (x : State) (r : Resp) : Prop := exec c s = .next (x.respond r)
    (∀ bs, let img := sliceBytes bs 0 (4096 * d 3)
      let digest := (upto 8).flatMap fun i => leBytes 4 (d (4 + i))
      let t := titleOf img (d 3) w.freeHandle digest
      Accepts s 0x40 → s.linkUp = true → d 1 % 4096 = 0 → d 3 ≠ 0 → digest256 img = digest →
      w.titles.find? (fun t => t.digest == digest) = none → titleHeaderOk (sliceBytes img 0 64) (4096 * d 3) = true →
      w.titles.length < 1024 → t.ucs.bind checkImage = none →
      answers (.titleRegister (some bs) true) (w.enterTitle t img) (.ok [w.freeHandle])) ∧
    (∀ t, Accepts s 0x41 → w.title? (d 1) = some t → (w.stalls.any fun st => st.title == d 1) = false →
      let g := w.giveTitle t.exts false
      answers .titleRemove { g with titles := g.titles.filter fun t => t.handle != d 1 } .ok) ∧
    (∀ t bs, Accepts s 0x42 → s.linkUp = true → w.title? (d 1) = some t → d 2 < t.pages → w.split spPAGING = true →
      answers (.pageSupply (some bs)) (w.supplyPage t (d 2) bs) .ok) ∧
    (∀ c t slot u s1, let k := d 1 % 4096
      let free := bitAt (d 1) 14
      let cfg := field (d 1) 15 2
      let lead := d 2 / 65536
      Accepts s 0x50 → clsOf (field (d 1) 12 2) = some c → k < 3072 → cfg ≠ 3 → (free = true → c = .N ∧ w.mode ≠ .conformance) →
      (lead ≤ 255 ∨ lead = 0xFFFF) → w.stall? k = none → w.title? (d 2 % 65536) = some t → bitAt t.classes (clsIdx c) = true →
      (w.mode = .conformance → w.stalls.length < 16) →
      w.admitErr (k / 192) (weight c) (cfg == 2 || (cfg == 0 && decide (c = .N))) (some (k % 192)) true = none →
      w.slotOfL (k / 192) = some slot → w.bindTitle slot t.ucs = (.ok u, s1) → w.memFits k c t.save = true →
      w.get HOD_CTL_EN ≠ 0 →
      let s2 := s1.enterStall k t c free (if lead = 0xFFFF then leadDefault c else lead) cfg u (k / 192) (k % 192)
      let s3 := if s2.get (atSlot STB_CTL_DRAIN slot) = 1 then s2.park k rsnDRAIN false else s2
      answers (.stallCreate true) s3 (.ok [s3.units])) ∧
    (∀ st, let k := d 1 % 4096
      let least := w.cadNow + 2
      Accepts s 0x51 → w.stall? k = some st → st.f0 = none →
      (bitAt (d 1) 12 = false → s.reqN = 1 →
        answers .stallStart ((w.setStall { st with f0 := some least }).unpark k rsnOPERATOR) (.ok [least % 2 ^ 32, least / 2 ^ 32 % 2 ^ 32])) ∧
      (bitAt (d 1) 12 = true → s.reqN = 3 → least ≤ wide d 2 →
        answers .stallStart ((w.setStall { st with f0 := some (wide d 2) }).unpark k rsnOPERATOR)
          (.ok [wide d 2 % 2 ^ 32, wide d 2 / 2 ^ 32 % 2 ^ 32]))) ∧
    (∀ st f, w.stall? (d 1) = some st → st.f0 = some f →
      (Accepts s 0x52 → answers .stallPark (w.park st.num rsnOPERATOR false) .ok) ∧
      (Accepts s 0x53 → st.reasons.contains rsnOPERATOR = true → answers .stallResume (w.unpark st.num rsnOPERATOR) .ok) ∧
      (Accepts s 0x54 → answers .stallReset
        (w.setStall { st with resetAt := st.resetAt ++ [latchBound st], begun := max st.begun (latchBound st + 1) }) .ok)) ∧
    (∀ st, let k := d 1 % 4096
      w.stall? k = some st →
      (Accepts s 0x55 → bitAt (d 1) 12 = true → bitAt (d 1) 13 = false → 2 ≤ s.reqN → d 2 ≤ 255 →
        answers .stallSet (w.setStall { st with leadNext := d 2 }) .ok) ∧
      (Accepts s 0x55 → bitAt (d 1) 12 = false → bitAt (d 1) 13 = true → field (d 1) 14 2 ≠ 3 →
        (let x := { st with corecfgNext := field (d 1) 14 2 }
         groupsFit (addUnits (w.groups (w.get (placeL k)) (some k)) (weight st.cls) (nextOoo false x)) = true →
         answers .stallSet (w.setStall x) .ok)) ∧
      (Accepts s 0x56 → s.moveHolds k (field (d 1) 12 4) = true → exec .stallMove s = .next (s.park k rsnMOVE false)) ∧
      (∀ x, Accepts s 0x56 → s.moveHolds k (field (d 1) 12 4) = false → w.moveStall st.num (field (d 1) 12 4) = (x, .ok) →
        answers .stallMove x .ok) ∧
      (Accepts s 0x5A → answers .linkPeer (w.setStall (st.setSub (field (d 1) 12 3)
        { st.sub (field (d 1) 12 3) with peer := some (d 2 / 4096, d 2 % 4096, if s.reqN = 3 then d 3 else 2) })) .ok) ∧
      (Accepts s 0x5B → bitAt (d 1) 12 = false → w.split spRECOVER = true → st.reasons.contains rsnRECOVER = true →
        answers .resumeFromCheckpoint (w.replayStall k) .ok)) ∧
    (∀ st, w.stall? (d 1) = some st →
      (Accepts s 0x57 → (w.migs.any fun m => m.stall == st.num) = false →
        answers .stallDestroy ((w.destroyStall st.num false).enforceLevel) .ok) ∧
      (Accepts s 0x58 → answers .stallQuery w (.ok [w.posWord st, st.reasons.foldl (fun m r => m ||| 2 ^ r) 0, st.tick % 2 ^ 32,
        st.tick / 2 ^ 32 % 2 ^ 32, st.f0.getD 0 % 2 ^ 32, st.f0.getD 0 / 2 ^ 32 % 2 ^ 32]))) ∧
    (let k := d 1 % 4096
     let i := field (d 1) 12 3
     let ty := field (d 1) 15 4
     Accepts s 0x59 → assignReason (w.stall? k) i ty = 0 → answers .subchAssign (hodAssign k i ty w) .ok)

/-- STREAM_CONFIG, STREAM_NET, COURSE_SET, REGION_SET, STREAM_COMMIT, STREAM_KEYFRAME, STREAM_QUERY, STREAM_DESTROY, LANE_CONFIG,
LANE_OPWR and GRAPH_LOAD, with operands that meet their conditions, have their effects and answer 0 with the listed data. -/
def Obligations.StreamAndAudioCommandsComplete : Prop :=
  ∀ (s : State),
    let w := s.takeReq
    let d := s.reqDwords
    let answers (c : Instr) (x : State) (r : Resp) : Prop := exec c s = .next (x.respond r)
    (∀ bs st y z s1 s2, let b := sliceBytes bs 0 64
      let n := d 1
      let wd := d 2 % 65536
      let ht := d 2 / 65536
      let e := Esd.settings b y.esd
      Accepts s 0x60 → s.linkUp = true → w.stall? (n / 4) = some st → w.pixelRate n wd ht (bitAt (d 3) 24) ≤ 40000000000 →
      w.streamOr n = (y, s1) → esdErr b e wd ht = none → w.encErr n wd ht e = none →
      s1.resized y e wd ht (fun old => streamHeader old n wd ht (d 3 % 2 ^ 24) (bitAt (d 3) 24)) = (z, s2) →
      answers (.streamConfig (some bs)) ((s2.settleBucket n).setStream (z.withEsd e)).recost .ok) ∧
    (∀ bs x, let b := sliceBytes bs 0 128
      let n := d 1
      Accepts s 0x61 → s.linkUp = true → w.stream? n = some x → netReserved b = false → ndEn b = false → leAt b 56 2 ≤ leAt b 80 4 →
      let v := (w.resolveHop b).2
      let r := (w.resolveHop b).1
      let b' := match v.net? n with
        | some t => putBytes (putBytes r 60 (sliceBytes t.desc 60 12)) 84 (sliceBytes t.desc 84 4)
        | none => r
      answers (.streamNet (some bs)) ((v.hbmWrite (v.sndAddr n) b').loadEntry 1 n) .ok) ∧
    (∀ bs x, let b := sliceBytes bs 0 128
      let n := d 1
      let ip := netIpv6 b
      Accepts s 0x61 → s.linkUp = true → w.stream? n = some x → netReserved b = false → ndEn b = true → w.service ip (descAddr b 16 ip) = true →
      w.conflict ip (descAddr b 16 ip) (descAddr b 32 ip) (leAt b 12 2) (leAt b 14 2) (true, n) = false → leAt b 56 2 ≤ leAt b 80 4 →
      w.portLoad n (ndPort b) true ≤ 90000000 →
      let v := (w.resolveHop b).2
      let r := (w.resolveHop b).1
      let b' := match v.net? n with
        | some t => putBytes (putBytes r 60 (sliceBytes t.desc 60 12)) 84 (sliceBytes t.desc 84 4)
        | none => r
      answers (.streamNet (some bs)) ((v.hbmWrite (v.sndAddr n) b').loadEntry 1 n) .ok) ∧
    (∀ x, let n := d 1 % 16384
      let i := field (d 1) 14 3
      w.stream? n = some x →
      (Accepts s 0x62 → answers .courseSet
        (w.setStream { x with shadow := putBytes x.shadow (64 + 32 * i) ((upto 8).flatMap fun j => leBytes 4 (d (2 + j))) }) .ok) ∧
      (Accepts s 0x63 → answers .regionSet
        (w.setStream { x with shadow := putBytes x.shadow (320 + 24 * i) ((upto 4).flatMap fun j => leBytes 4 (d (2 + j))) }) .ok)) ∧
    (∀ x, w.stream? (d 1) = some x →
      (∀ room, Accepts s 0x64 → (commitValidated room w).refuses x room = false →
        answers (.streamCommit room) (commitValidated room (cmpCommit (d 1) (commitValidated room w))) .ok) ∧
      (Accepts s 0x65 → answers .streamKeyframe (w.setStream { x with esd := { x.esd with keyreq := true } }) .ok) ∧
      (∀ t, Accepts s 0x66 → w.net? x.num = some t → answers .streamQuery w (.ok [leAt x.act 32 4, x.esd.rateNow, leAt t.desc 84 4])) ∧
      (Accepts s 0x67 → answers .streamDestroy (w.dropStreams fun n => n == x.num) .ok)) ∧
    (∀ st, let codec := field (d 1) 12 8
      let a := wide d 4
      w.stall? (d 1 % 4096) = some st →
      (Accepts s 0x70 → (codec = 4 ∨ codec = 5) → (a ≠ 0 → w.inWindow a = true ∧ a % 64 = 0 ∧ d 6 % 64 = 0 ∧ 4096 ≤ d 6) →
        (codec = 4 → 16 ≤ d 2 ∧ d 2 ≤ 256 ∧ d 2 % 8 = 0) → (field (d 1) 20 2 = 1 ∨ field (d 1) 20 2 = 2) →
        ∃ t x l, exec .laneConfig s = .next t ∧ t.stall? (d 1 % 4096) = some x ∧ x.lane = some l ∧ l.codec = codec ∧
          l.channels = field (d 1) 20 2 ∧ l.streams = field (d 1) 22 4 ∧ l.bitrate = d 2 ∧ l.gameGain = d 3 % 65536 ∧ l.opGain = d 3 / 65536 ∧
          l.opAddr = (if a = 0 then 0 else 0x8000000000 + (a - w.get MEM_HOSTWIN_BASE * 4096)) ∧ l.opSize = d 6) ∧
      (Accepts s 0x70 → codec = 0 → a = 0 → (field (d 1) 20 2 = 1 ∨ field (d 1) 20 2 = 2) →
        answers .laneConfig ((w.giveExts (match st.lane with | some l => l.exts | none => []) 0).setStall { st with lane := none }).showRamp .ok) ∧
      (∀ bs, let g := Graph.ofBytes (sliceBytes (sliceBytes bs 0 (d 4)) 0 784)
        let x := (audSwapValidated w).onStall st.num fun x => { x with lane := x.lane.map fun l => l.putOther g }
        Accepts s 0x72 → s.linkUp = true → 16 ≤ d 4 → d 4 ≤ 784 → (∀ l, ((audSwapValidated w).stall? st.num).bind (·.lane) = some l → l.swapState = 0) →
        swapCheck (x.stall? st.num) = 0 →
        answers (.graphLoad (some bs)) (audSwapValidated (audSwap st.num (bitAt (d 1) 12) x)) .ok)) ∧
    (∀ st l, Accepts s 0x71 → w.stall? (d 1) = some st → st.lane = some l → d 2 < l.opSize → d 2 % 4 = 0 →
      answers .laneOpwr (w.setStall { st with lane := some { l with opWr := d 2 } }) .ok)

/-- KEY_SET, FLOW_SET, FLOW_CLEAR, YARD_SET, ADDR_SET, ROUTE_SET, MIGRATE, MIGRATE_RESOLVE, SNAPSHOT_EXPORT, SNAPSHOT_IMPORT,
DEBUG_TOKEN and DEBUG_REVOKE, with operands that meet their conditions, have their effects; a token that does not match counts as
a failed unlock. -/
def Obligations.YardAndKeyCommandsComplete : Prop :=
  ∀ (s : State),
    let w := s.takeReq
    let d := s.reqDwords
    let answers (c : Instr) (x : State) (r : Resp) : Prop := exec c s = .next (x.respond r)
    (∀ c code, (c, code) ∈ [(Instr.keySet, 0x80), (.debugToken, 0xB0)] → s.reqWaits = true → s.reqCode = code →
      (s.reqMajor ≠ 3 → exec c s = .next (w.wipeRequest.respond (.err 2))) ∧
      (∀ f, formOf code = some f → s.reqMajor = 3 →
        (f.modes.ok s.mode = false → exec c s = .next (w.wipeRequest.respond (.err 3))) ∧
        (f.modes.ok s.mode = true → f.argsOk s.reqN s.reqDwords = false → exec c s = .next (w.wipeRequest.respond (.err 4))))) ∧
    (let kind := d 1 % 4
     let idx := field (d 1) 2 14
     let raw := (upto 8).flatMap fun i => leBytes 4 (d (4 + i))
     let salt := (upto 3).flatMap fun i => leBytes 4 (d (12 + i))
     let n := w.keyLen kind idx
     Accepts s 0x80 → (kind = 0 ∨ kind = 3 → wide d 2 = 0) → (kind = 0 → (w.flows.any fun f => f.num == idx) = true) →
     (kind = 1 ∨ kind = 2 → (w.net? idx).isSome = true ∧ w.cadNow + 2 ≤ wide d 2) → (raw.drop n).all (fun b => b == 0) = true →
     (salt.drop (saltLen kind)).all (fun b => b == 0) = true → (kind ≠ 0 → bitAt (d 1) 16 = false) →
     answers .keySet (w.installKey { kind, idx := if kind = 3 then 0 else idx, slot := b2n (bitAt (d 1) 16), from_ := wide d 2,
                                     key := raw.take n, salt := salt.take (saltLen kind) }).wipeRequest .ok) ∧
    (∀ bs st, let i := d 1
      let b := sliceBytes bs 0 64
      let ip := flowIpv6 b
      Accepts s 0x81 → s.linkUp = true → w.stall? (i / 4) = some st → st.imported = false → flowReserved b = false →
      (flowV b = true → w.service ip (descAddr b 8 ip) = true ∧
        w.conflict ip (descAddr b 8 ip) (descAddr b 24 ip) (leAt b 4 2) (leAt b 6 2) (false, i) = false) →
      let engine := match w.flows.find? fun f => f.num == i with | some f => sliceBytes f.desc 48 12 | none => List.replicate 12 0
      answers (.flowSet (some bs)) ((w.hbmWrite (w.flowAddr i) (putBytes b 48 engine)).loadEntry 0 i) .ok) ∧
    (∀ f, Accepts s 0x82 → w.flows.find? (fun f => f.num == d 1) = some f →
      let x := (w.hbmWrite (w.flowAddr (d 1)) (putBytes f.desc 0 [f.desc.headD 0 &&& 0xFE])).loadEntry 0 (d 1)
      answers .flowClear { x with keys := x.keys.filter fun k => !(k.kind == 0 && k.idx == d 1) } .ok) ∧
    (Accepts s 0x90 →
      let settings (x : State) : State := x.puts [(YRD_NUMBER_YARD, d 1 % 2 ^ 20), (YRD_UDPPORT_PORT, d 2 % 65536), (YRD_LINKLAT_MICROS, field (d 2) 16 14)]
      (bitAt (d 1) 20 = false → answers .yardSet (settings (yrdDetach w)) .ok) ∧
      (bitAt (d 1) 20 = true → d 1 % 2 ^ 20 ≠ 0 → d 1 % 2 ^ 20 ≠ 0xFFFFF →
        (w.get YRD_CTL_ATTACH = 1 → d 1 % 2 ^ 20 = w.get YRD_NUMBER_YARD → (w.yardKeyUsed = true ∨ w.yardKey = []) →
          answers .yardSet w (.err eKEY)) ∧
        (w.get YRD_CTL_ATTACH = 1 → d 1 % 2 ^ 20 = w.get YRD_NUMBER_YARD → w.yardKeyUsed = false → w.yardKey ≠ [] →
          answers .yardSet (settings w) .ok) ∧
        (w.get YRD_CTL_ATTACH = 0 → w.yardKeyUsed = false → w.yardKey ≠ [] → answers .yardSet ((settings w).attach) .ok))) ∧
    (let i := d 1 % 16
     let ip := bitAt (d 1) 4
     let a := (upto (if ip then 4 else 1)).flatMap fun k => leBytes 4 (d (2 + k))
     Accepts s 0x91 → i < 8 → (∀ x, w.addrs.find? (fun x => x.idx == i && x.ipv6 == ip) = some x → w.addrUsed x = false) →
     let rest := w.addrs.filter fun x => !(x.idx == i && x.ipv6 == ip)
     answers .addrSet { w with addrs := if bitAt (d 1) 5 then rest ++ [{ idx := i, ipv6 := ip, addr := a }] else rest } .ok) ∧
    (∀ bs, let b := sliceBytes bs 0 48
      Accepts s 0x92 → s.linkUp = true → w.split spROUTE = true → routeReserved b = false →
      answers (.routeSet (some bs)) ((w.hbmWrite (w.get YRD_ROUTE_BASE_BASE * 512 + 48 * d 1) b).loadEntry 2 (d 1)) .ok) ∧
    (∀ st, w.stall? (d 1) = some st →
      (Accepts s 0xA0 → w.migs.any (fun m => m.stall == st.num) = false → st.imported = false → st.sched ≠ .halted → w.reachable (d 2) = true →
        w.get PTP_STAT_STATE = 2 →
        (answers (.migrate 0) ((State.sendControl { w with migs := w.migs ++ [{ stall := st.num, yard := d 2, dest := d 3, source := true,
                                                                                 parked := false, ready := false, doubt := false, attempt := 0,
                                                                                 tried := 0, flows := [] }] } (d 2) 0 (d 3)).sendImage (d 2)
          (Config.baseImage st)) .ok) ∧
        ∀ v, v ≠ 0 → answers (.migrate v) (w.sendControl (d 2) 0 (d 3)) (.err v)) ∧
      (∀ m, Accepts s 0xA1 → w.mig? st.num true = some m → m.doubt = true →
        (bitAt (d 2) 0 = true → answers .migrateResolve (((w.dropMig m).destroyStall st.num true).enforceLevel) .ok) ∧
        (bitAt (d 2) 0 = false → answers .migrateResolve (((w.dropMig m).restoreFlows m.flows).unpark st.num rsnMIGRATE) .ok)) ∧
      (∀ c, let b := w.snapshot st c false false
        Accepts s 0xA2 → s.linkUp = true → w.mode ≠ .conformance → newestComplete st = some c → b.length ≤ d 4 →
        answers (.snapshotExport true) (w.hostWrite (wide d 2) b) (.ok [b.length])) ∧
      (Accepts s 0xB0 →
        let token := (upto 8).flatMap fun i => leBytes 4 (d (2 + i))
        (mac256 Config.keyL2 ([0x4C, 0x31] ++ leBytes 8 Config.devSerial.toNat ++ leBytes 2 st.num) = token →
          answers .debugToken (w.setStall { st with l1 := true }).wipeRequest .ok) ∧
        (mac256 Config.keyL2 ([0x4C, 0x31] ++ leBytes 8 Config.devSerial.toNat ++ leBytes 2 st.num) ≠ token →
          answers .debugToken w.unlockFailed.wipeRequest (.err 0x40))) ∧
      (Accepts s 0xB1 → answers .debugRevoke ((w.setStall { st with l1 := false }).enforceLevel) .ok)) ∧
    (∀ bs room image h p t, Accepts s 0xA3 → s.linkUp = true → d 1 < 3072 → snapParts (sliceBytes bs 0 (d 4)) = some (h, p) →
      w.importSnap (d 1) h p room image rsnOPERATOR = (t, none) → answers (.snapshotImport (some bs) room image) t .ok)

/-- A tail or head within the queue is taken and one outside is counted; an entry of the current phase is taken or stops the
device; a job starts, moves its bytes and completes; the admin ring’s CONTROL and LATCH_INPUT jobs serve a command and latch an
input; a captured delivery goes to the open RX_BUFFER job of its class or is dropped; a HOSTIO transfer that host memory fails ends
its program with BUS_ERR. -/
def Obligations.RingsComplete : Prop :=
  (∀ (s : State) (r : Nat) (x : Ring), s.ring? r = some x → r ≤ 8 → fwRuns s.mode = true →
     let running (op : Nat) (j : Job) : Bool := j.running && j.op == op
     let ends (t : State) (op : Nat) (j : Job) : State := t.setRing { x with jobs := onFirst (running op) (fun _ => j) x.jobs }
     (x.fetching = false → s.sqHead r ≠ s.sqTail r → x.pollAt + 100000 ≤ s.time →
       exec (.sqRepoll r) s = .next (s.setRing { x with fetching := true })) ∧
     (∀ e, x.fetching = true → s.linkUp = true → s.sqHead r ≠ s.sqTail r → e.length = 64 →
       (field (leAt e 63 1) 7 1 ≠ s.get (ringF RNG_STATE_SQPHASE r) →
         exec (.sqEntryFetch r (some e)) s = .next (s.setRing { x with fetching := false, pollAt := s.time })) ∧
       (field (leAt e 63 1) 7 1 = s.get (ringF RNG_STATE_SQPHASE r) →
         (entryFault x e = 0 → exec (.sqEntryFetch r (some e)) s = .next (s.takeEntry x e)) ∧
         (∀ n, n ≠ 0 → entryFault x e = n → exec (.sqEntryFetch r (some e)) s = .next (s.failStop n r (s.sqHead r) e)))) ∧
     (∀ j, x.jobs.find? Job.queued = some j → s.cqFull x = false → (x.jobs.filter Job.running).length < 64 →
       (j.fence = true → x.jobs.head? = some j) →
       (s.jobStatus j ≠ 0 → exec (.jobStart r) s = .next (s.setRing { x with jobs := onFirst Job.queued (fun j => j.end_ (s.jobStatus j) 0) x.jobs })) ∧
       (s.jobStatus j = 0 → (hasElems j.op = true → j.length ≠ 0) →
         exec (.jobStart r) s = .next (s.setRing { x with jobs := onFirst Job.queued (fun j => { j with phase := .running }) x.jobs }))) ∧
     (∀ j, x.jobs.find? (running 0) = some j → exec (.ringNop r) s = .next (ends s 0 (j.end_ 0 0))) ∧
     (∀ j data a n off, x.jobs.find? (running 0x10) = some j → elemAt j.elems j.moved = some (a, n, off) → s.linkUp = true →
       let bs := data.take (n - off)
       exec (.toDevice r data) s = .next (ends (s.hbmWrite (j.param + j.moved) bs) 0x10 (j.advance bs.length (n - off)))) ∧
     (∀ j taken a n off, x.jobs.find? (running 0x11) = some j → elemAt j.elems j.moved = some (a, n, off) → s.linkUp = true →
       let k := min taken (n - off)
       exec (.fromDevice r taken) s = .next (ends (s.hostWrite (a + off) (s.devBytes (j.param + j.moved) k)) 0x11 (j.advance k (n - off)))) ∧
     (exec (.rxBuffer r) s = .next (s.setRing { x with jobs := onFirst (fun j => j.running && j.op == 0x12 && !j.open_) (fun j => { j with open_ := true }) x.jobs })) ∧
     (∀ j bs st, let i := j.param / 4096
       let y := st.sub i
       x.jobs.find? (running 0x13) = some j → s.stall? (j.param % 4096) = some st → s.linkUp = true → bs.length = j.length → y.ty = dHOSTIO →
       (y.rx.length + bs.length ≤ 4096 → exec (.hostioTx r (some bs)) s = .next (ends (s.setStall (st.setSub i { y with
         rx := y.rx ++ bs, compl := if y.phase = .waiting ∧ y.rx = [] then st.tick else y.compl })) 0x13 (j.end_ 0 bs.length))) ∧
       (4096 < y.rx.length + bs.length → exec (.hostioTx r (some bs)) s = .next (ends s 0x13 (j.end_ 6 0)))) ∧
     (∀ j, x.jobs.find? (running 0x13) = some j → exec (.hostioTx r none) s =
       .next (ends (s.hostioFail (j.param % 4096) (j.param / 4096)) 0x13 (j.end_ 7 0))) ∧
     (∀ j status result, x.jobs.find? Job.ended = some j → j.phase = .done status result → s.cqFull x = false →
       exec (.jobComplete r) s = .next ((s.complete x j status result).setRing { x with armed := false, jobs := x.jobs.erase j })) ∧
     (let p := fun (j : Job) => j.running && j.open_ && decide (0 < j.moved) && decide (j.since + 500000 ≤ s.time)
      exec (.rxJobTimeout r) s = .next (s.setRing { x with jobs := onFirst p (fun j => j.end_ 0 j.moved) x.jobs }))) ∧
  (∀ (s : State) (r : Nat) (x : Ring), s.ring? r = some x → r ≤ 8 → doorbells s.mode = true →
     (∀ tail, (tail % 4096 < 2 ^ x.sqLog →
         exec (.rngSqTail r tail) s = .next ((s.put (ringF RNG_SQ_TAIL_TAIL r) tail).setRing { x with fetching := true })) ∧
       (2 ^ x.sqLog ≤ tail % 4096 → exec (.rngSqTail r tail) s = .next ((s.inc RNG_DB_ERR_COUNT).put RNG_DB_ERR_RING r))) ∧
     (∀ head, (head % 4096 < 2 ^ x.cqLog →
         exec (.rngCqHead r head) s = .next ((s.put (ringF RNG_CQ_HEAD_HEAD r) head).setRing { x with armed := true })) ∧
       (2 ^ x.cqLog ≤ head % 4096 → exec (.rngCqHead r head) s = .next ((s.inc RNG_DB_ERR_COUNT).put RNG_DB_ERR_RING r)))) ∧
  (∀ (s : State) (x : Ring),
     (∀ j, s.ring? 0 = some x → fwRuns s.mode = true → x.jobs.find? (fun j => j.running && j.op == 2) = some j →
       let jobs := onFirst (fun j => j.running && j.op == 2) (fun _ => j.end_ 0 0) x.jobs
       exec .latchInput s = .next ((s.latchInput (j.param / 4) (j.param % 4) (leAt j.data 16 8) (sliceBytes j.data 0 16)).setRing { x with jobs })) ∧
     (∀ j host put room verdict image t res, let e : Outer := { host, put, room, verdict, image }
       let code := j.param % 65536
       s.ring? 0 = some x → fwRuns s.mode = true → s.mpHalted = false → x.jobs.find? (fun j => j.running && j.op == 1) = some j →
       code ≠ 0x20 → code ≠ ringDeleteCode → s.linkUp = true → s.moveWaits code true j.args (field j.param 16 4) = none →
       serve code true e j.args (field j.param 16 4) s = (t, res) → t.ring? 0 = some x →
       let jobs := onFirst (fun j => j.running && j.op == 1)
         (fun j => j.end_ (if res.status = 0 then 0 else 1) (if res.status = 0 then res.data.headD 0 else res.status)) x.jobs
       exec (.ringControl host put room verdict image) s = .next (t.setRing { x with jobs })) ∧
     (∀ cls d j, let p := fun (j : Job) => j.running && j.open_
       let b := d.bytes
       let s1 : State := { s with captured := s.captured.erase d }
       fwRuns s.mode = true → s.captured.find? (fun d => d.cls == cls) = some d →
       (s.ringOfClass cls = none → ∀ put, exec (.ringDelivery cls put) s = .next (s1.dropDelivery cls)) ∧
       (s.ringOfClass cls = some x → x.jobs.find? p = none → ∀ put, exec (.ringDelivery cls put) s = .next (s1.dropDelivery cls)) ∧
       (s.ringOfClass cls = some x → x.jobs.find? p = some j → b.length ≤ j.length →
         (j.length - j.moved < b.length → ∀ put, exec (.ringDelivery cls put) s =
           .next (s.setRing { x with jobs := onFirst p (fun j => j.end_ 0 j.moved) x.jobs })) ∧
         (b.length ≤ j.length - j.moved →
           let failed := (s1.setRing { x with jobs := onFirst p (fun j => j.end_ 7 j.moved) x.jobs }).dropDelivery cls
           exec (.ringDelivery cls false) s = .next (if cls = 6 then failed.hostioFail (d.id / 8) (d.id % 8) else failed)) ∧
         (b.length ≤ j.length - j.moved → s.linkUp = true →
           let m := j.moved + b.length
           let taken (k : Job) : Job := { k with moved := m, since := if k.moved = 0 then s.time else k.since }
           let jobs := onFirst p (fun k => if m = j.length then (taken k).end_ 0 m else taken k) x.jobs
           exec (.ringDelivery cls true) s = .next ((s1.scatter j.elems j.moved b).setRing { x with jobs })))))

/-! ### Resets, faults, events and debug -/

/-- A reset keeps host memory, the fuses and the registers listed for its kind, clears every other register to its Reset value (but the PCI Express
registers while the link lasts) and destroys stalls, titles, rings, streams, keys and log; HBM survives only a warm reset; RST_CAUSE shifts in the new cause; the boot
trains HBM, starts an MP core and sets READY. -/
def Obligations.ResetKeeps : Prop :=
  (∀ (s : State) (fstop link warm : Bool),
    let t := s.afterReset fstop link warm
    t.mode = .boot ∧ t.held = true ∧ t.stalls = [] ∧ t.titles = [] ∧ t.rings = [] ∧ t.streams = [] ∧ t.keys = [] ∧ t.log = [] ∧
    t.host = s.host ∧ t.otpEpoch = s.otpEpoch ∧ t.otpRevoked = s.otpRevoked ∧ t.hbm = (if warm then s.hbm else []) ∧
    t.linkUp = (s.linkUp && link) ∧
    (∀ o, o ∈ aonRegs ∨ (fstop = true ∧ o ∈ fstopRegs) → t.reg32 o = s.reg32 o) ∧
    (∀ o, o % 4 = 0 → o ∉ aonRegs → (fstop = true → o ∉ fstopRegs) → (link = true → o < 0x4000000) → t.reg32 o = State.reset.reg32 o) ∧
    (∀ o, o % 4 = 0 → 0x4000000 ≤ o → link = true → t.reg32 o = s.reg32 o)) ∧
  (∀ (s : State) (c : Nat), c < 16 → (s.cause c).get RST_CAUSE_CAUSES = (s.get RST_CAUSE_CAUSES * 16 + c) % 2 ^ 32) ∧
  (∀ (s : State) (mp0 : Bool),
    let t := s.boot mp0
    t.mode = .boot ∧ t.held = false ∧ t.get MBX_STATE_READY = 1 ∧ t.get MEM_STAT_TRAINED0 = 1 ∧ t.get MEM_STAT_TRAINED1 = 1 ∧ t.hbm = s.hbm ∧
    (mp0 = false → t.get MP_STATE_ACTIVE = 1 ∧ t.get MP_STATE_MP0 = 3 ∧ t.get MP_STATE_MP1 = 1))

/-- Each reset, supply and clock command has its effect when its condition holds: POR, release, DEVRST, WARMRST, RESET_N, TEST_EN,
PERST, port resets, link up, the orphan timer, rail loss, clock loss, wake and the exit from SLUMBER; the package check accepts or
rejects the package, and the started firmware enters SERVE or SERVICE. -/
def Obligations.ResetsComplete : Prop :=
  (∀ (s : State) (mp0 : Bool),
     (∀ on, ∃ t, exec (.por on) s = .next t ∧ t.mode = (if on then .boot else .off) ∧ t.regs = State.reset.regs ∧ t.hbm = [] ∧ t.stalls = [] ∧
       t.keys = [] ∧ t.held = true ∧ t.otpEpoch = s.otpEpoch ∧ t.otpRevoked = s.otpRevoked) ∧
     (let x : State := { s with rails := true, clocks := s.clocks ||| 3 }
      s.held = true → s.railLost = false → s.awake = true → x.bootable = true → s.mode = .boot →
      exec (.resetRelease mp0) s = .next (x.boot mp0)) ∧
     (s.awake = true → exec (.devrst true mp0) s = .next (({ s with resetN := true } : State).afterReset false true false |>.cause 6)) ∧
     (∀ t, s.rstDue = some (false, t) → t + 1000000 ≤ s.time →
       exec (.devrst false mp0) s = .next (((s.afterReset false true false).cause 4).tryBoot mp0)) ∧
     (∀ t, s.rstDue = some (true, t) → t + 1000000 ≤ s.time → s.held = false →
       exec (.warmrst mp0) s = .next (((s.afterReset true true true).cause 7).tryBoot mp0)) ∧
     (let x : State := { s with resetN := false }
      s.held = true → x.bootable = true → s.mode = .boot → exec (.resetNRelease mp0) s = .next (x.boot mp0)) ∧
     (s.mode ≠ .off → s.trip = false → exec .testEnAssert s = .next { s.afterReset true false false with testEn := true }) ∧
     (s.awake = true → s.get PERST_SCOPE_SCOPE = 0 →
       exec .perstFull s = .next { (s.afterReset true false false).cause 2 with perst := true }) ∧
     (s.perst = true → s.mode = .slumber → exec (.perstDeassert mp0) s = .next { s with perst := false, waking := true }) ∧
     (let x : State := { s with perst := false }
      s.perst = true → s.held = true → x.bootable = true → s.mode = .boot → exec (.perstDeassert mp0) s = .next (x.boot mp0)) ∧
     (s.held = false → s.awake = true →
       (s.get PERST_SCOPE_SCOPE = 1 → exec (.portReset 0) s = .next { s.portReset with perst := true }) ∧
       (∀ kind, s.linkUp = true → 1 ≤ kind → kind ≤ 3 → exec (.portReset kind) s = .next s.portReset) ∧
       (s.perst = false → s.linkUp = false → exec .pcieLinkUp s = .next (State.evtRearm { s with linkUp := true, clocks := s.clocks ||| 4 }))) ∧
     (∀ t, s.orphanAt = some t → fwRuns s.mode = true → 0 < s.get HOST_ORPHAN_SECONDS →
       t + 1000000000 * s.get HOST_ORPHAN_SECONDS ≤ s.time →
       let x : State := { s.put HOST_ORPHAN_RUNNING 0 with orphanAt := none }
       (s.get HOST_ORPHAN_ACTION ≠ 1 → exec .orphanTimeout s = .next x) ∧
       (s.get HOST_ORPHAN_ACTION = 1 →
         exec .orphanTimeout s = .next ((s.stalls.map (·.num)).foldl (fun s k => s.park k rsnOPERATOR false) x))) ∧
     (s.awake = true → exec .railLoss s = .next { s.afterReset true false false with rails := false, railLost := true }) ∧
     (∀ clk, clk < 4 → bitAt s.clocks clk = true → s.held = false → s.awake = true →
       let x : State := { s with clocks := s.clocks - 2 ^ clk }
       (clk = 0 → exec (.refclkLoss clk) s = .next { x.afterReset true false false with rails := false, railLost := true }) ∧
       (clk = 1 → exec (.refclkLoss clk) s = .next { x.afterReset true false false with rails := false }) ∧
       (clk = 2 → s.linkUp = true → exec (.refclkLoss clk) s = .next x.portReset) ∧
       (clk = 3 → exec (.refclkLoss clk) s = .next x.portsDown)) ∧
     (∀ pin, s.mode = .slumber → pin < 8 → bitAt (s.get BRD_WAKE_EN) pin = true → exec (.slumberWake pin) s = .next { s with
       waking := true, wakeN := true, pads := putField s.pads pin 1 (b2n (bitAt (s.get BRD_WAKE_LEVEL) pin)) }) ∧
     (s.mode = .slumber → s.waking = true →
       let r := (s.afterReset true false false).cause 8
       exec (.slumberExitReset mp0) s = .next (State.tryBoot { r with rails := true, clocks := s.clocks ||| 3, railLost := false } mp0))) ∧
  (∀ (s : State),
     (∀ len poison, s.mode = .load → s.pkg = none → s.fwLen = some len →
       let b := s.hbmBytes stagingBase len
       let x : State := { s with fwLen := none }
       (x.pkgCheck b len poison = 0 →
         exec (.packageCheck poison) s = .next ((({ x with pkg := some (pkgOf b) } : State).answerCommit .ok).put MBX_STATE_READY 0)) ∧
       (∀ n, n ≠ 0 → x.pkgCheck b len poison = n →
         exec (.packageCheck poison) s = .next ((x.toMode .reject n).answerCommit { status := eREJECTED, data := [n] }))) ∧
     (∀ p slots cores, s.mode = .load → s.pkg = some p → s.get MBX_STATE_READY = 0 → s.warm = false → p.hodOk = true → p.encOk = true →
       let x := ((s.startBlocks p).startBases.startSlots slots p.smcOk).startCores cores
       (p.smcOk = true → exec (.firmwareReady slots cores) s = .next (State.enterServe { x with root := none, warm := false })) ∧
       (p.smcOk = false → ∃ t, exec (.firmwareReady slots cores) s = .next t ∧ t.mode = .service ∧ t.detail = 0x10)))

/-- MPW_KICK restarts a watchdog with the key 0xA5; its expiry and a failure of the active core fail over to the standby, or fail-
stop; an unrecoverable fault enters FAIL_STOP and records its reason. Arbitration takes the eligible sources; a claim answers the
highest priority arbitrated to its target and puts it in service; DONE takes it out of service, and a stray one is counted. -/
def Obligations.FaultsAndEventsComplete : Prop :=
  (∀ (s : State),
     (∀ n, n < 2 → nthD s.mpwLeft n none = none → ∀ key, key % 256 = 0xA5 →
       exec (.mpwKick n key) s = .next { s with mpwEnd := setNth s.mpwEnd n (s.time + 1000 * max 100 (s.get (mpwLimit n))) }) ∧
     (∀ n lost, n < 2 → s.get (mpwEn n) = 1 → nthD s.mpwLeft n none = none → nthD s.mpwEnd n 0 ≤ s.time → mayFailStop s.mode = true →
       s.get (mpCore n) ≠ 3 →
       let x := s.raise evMpwExpired
       (s.get MP_STATE_ACTIVE = n → exec (.mpwExpiry n lost) s = .next (x.mpFail 0 lost)) ∧
       (s.get MP_STATE_ACTIVE ≠ n → exec (.mpwExpiry n lost) s = .next ((x.fenceMp n).setDegrade FLT_DEGRADE_MP_STANDBY 1))) ∧
     (∀ cause lost, mayFailStop s.mode = true → s.mode ≠ .debugFreeze →
       let c := s.get MP_STATE_ACTIVE
       let x := ((s.recordFault 6 c).fenceMp c).discard lost
       exec (.mpFailure cause lost) s = .next (x.mpRecover c (if cause = 1 then 0x42 else 0x40))) ∧
     (∀ core reason, core < 2 → s.get (mpCore (1 - core)) = 2 →
       let t := s.mpRecover core reason
       t.get (mpCore (1 - core)) = 1 ∧ t.get MP_STATE_ACTIVE = 1 - core ∧ t.evLatched evMpFailover = true ∧
       t.get FLT_DEGRADE_MP_STANDBY = 1) ∧
     (∀ core reason, s.get (mpCore (1 - core)) ≠ 2 → s.mpRecover core reason = s.failStop reason 0 0 (leBytes 2 core)) ∧
     (∀ reason unit, mayFailStop s.mode = true → 0x40 ≤ reason → reason ≤ 0x44 →
       exec (.unrecoverableFault reason unit) s = .next (s.failStop reason 0 0 (leBytes 2 unit))) ∧
     (∀ reason ring index e, reason < 256 →
       let t := s.failStop reason ring index e
       t.mode = .failStop ∧ t.detail = reason ∧ t.alert = true ∧ t.get FSTOP_CAUSE_REASON = reason ∧ t.get FSTOP_CAUSE_VALID = 1 ∧
       t.evLatched evFailStop = true ∧ t.stalls = s.stalls ∧ t.hbm = s.hbm)) ∧
  (∀ (s : State),
     (let l := (upto 512).filterMap s.evtEligible
      exec .evtArbitration s = .next (State.wakeCores { s.evtMessages l with arb := l } s.evtLine)) ∧
     (∀ n, s.evtEligible n = none ∨ ∃ t, s.evtEligible n = some (n, t, s.get (evtRoute EVT_ROUTE_PRIO n)) ∧ s.get EVT_CTL_EN = 1 ∧
       s.evtLevel n = true ∧ s.evtTarget n = some t ∧ (∀ u, (n, u) ∉ s.inServ) ∧
       s.get (EVT_THRESH_LEVEL.nth 4 t) < s.get (evtRoute EVT_ROUTE_PRIO n)) ∧
     (s.get EVT_CTL_EN = 0 → ∀ t, s.claimable t = none) ∧
     (∀ t, t < 4 → s.claimable t = none → exec (.evtClaim t) s = .next { s with rdata := 0 }) ∧
     (∀ t n p, t < 4 → s.claimable t = some (n, p) → exec (.evtClaim t) s = .next { s with
       rdata := n + p * 4096 + 2 ^ 31, inServ := s.inServ ++ [(n, t)], told := s.told.filter fun m => m != n }) ∧
     (∀ t n p, s.claimable t = some (n, p) → s.get EVT_CTL_EN = 1 ∧ (n, t, p) ∈ s.arb ∧ s.evtLevel n = true ∧ (∀ u, (n, u) ∉ s.inServ) ∧
       ∀ m q, (m, t, q) ∈ s.arb → s.evtLevel m = true → (∀ u, (m, u) ∉ s.inServ) → q ≤ p) ∧
     (∀ t n, t < 4 → n < 512 → (n, t) ∈ s.inServ → exec (.evtDone t n) s = .next { s.put (evtSwset n) 0 with
       inServ := s.inServ.filter (fun p => p != (n, t)), arb := s.arb.filter fun p => p.1 != n }) ∧
     (∀ t n, t < 4 → n < 512 → (n, t) ∉ s.inServ →
       exec (.evtDone t n) s = .next ((s.inc EVT_STRAY_COUNT_COUNT).puts [(EVT_STRAY_LAST_SOURCE, n), (EVT_STRAY_LAST_TARGET, t)])))

/-- NONCE draws a nonce, but not within a second of a failure; UNLOCK takes the wanted level exactly if a nonce has not expired, no
lockout holds and the response is right, and spends the nonce either way; a failure counts towards the lockout; LOCK returns to L0
and a nonce expires after 10 s. DBG_FREEZE, DBG_MPCTL and OTP_CMD are denied below their levels and act at them; END leaves
Conformance mode. Each TAP instruction loads its register, BYPASS where it is not permitted, and changes nothing else but what
DBGREG writes; a debug core reset returns the access master and the breakpoints to their reset values and changes no other
register. -/
def Obligations.DebugAuthorityComplete : Prop :=
  (∀ (s : State), s.held = false →
     ((∀ t, s.failAt = some t → t + 1000000000 ≤ s.time) →
       ∃ t b, exec .dbgNonce s = .next t ∧ s.freeBytes 32 = (b, { s with free := t.free }) ∧ t.nonceAt = some s.time ∧ t.eight DBG_NONCE_DATA = b ∧
         t.get DBG_STATUS_LEVEL = s.get DBG_STATUS_LEVEL) ∧
     (∀ t, s.failAt = some t → s.time < t + 1000000000 → exec .dbgNonce s = .next s) ∧
     (∀ level, s.responseOk level = true → level = 2 → exec (.dbgUnlock level) s = .next ((s.spendNonce.put DBG_STATUS_LEVEL 2).enforceLevel)) ∧
     (∀ level, s.responseOk level = true → level = 3 →
       exec (.dbgUnlock level) s = .next ((({ s.spendNonce with keys := [] } : State).put DBG_STATUS_LEVEL 3).enforceLevel)) ∧
     (∀ level, s.responseOk level = true → ∃ t, exec (.dbgUnlock level) s = .next t ∧ t.get DBG_STATUS_LEVEL = level ∧ t.nonceAt = none ∧
       ∀ k, k < 8 → t.get (DBG_NONCE_DATA.nth 4 k) = 0) ∧
     (∀ level, s.responseOk level = false → exec (.dbgUnlock level) s = .next s.spendNonce.unlockFailed) ∧
     (∀ level, s.responseOk level = true ↔ (level = 2 ∨ level = 3) ∧ s.get DBG_STATUS_LOCKOUT = 0 ∧
       (∃ t, s.nonceAt = some t ∧ s.time < t + 10000000000) ∧
       mac256 (if level = 2 then Config.keyL2 else Config.keyL3)
         (s.eight DBG_NONCE_DATA ++ leBytes 8 Config.devSerial.toNat ++ leBytes 1 level) = s.eight DBG_RESP_DATA) ∧
     (let t := s.unlockFailed
      t.get DBG_STATUS_FAILS = min 8 (s.get DBG_STATUS_FAILS + 1) ∧ (7 ≤ s.get DBG_STATUS_FAILS → t.get DBG_STATUS_LOCKOUT = 1) ∧
        t.get DBG_STATUS_LEVEL = s.get DBG_STATUS_LEVEL ∧ t.failAt = some s.time) ∧
     (exec .dbgLock s = .next ((s.put DBG_STATUS_LEVEL 0).enforceLevel)) ∧
     (∀ t, s.nonceAt = some t → t + 10000000000 ≤ s.time → exec .nonceExpiry s = .next { s with nonceAt := none }) ∧
     (∀ t, s.nonceAt = some t → s.time < t + 10000000000 → exec .nonceExpiry s = .next s) ∧
     (∀ freeze, s.get DBG_STATUS_LEVEL < 2 → exec (.dbgFreeze freeze) s = .next (s.deny 0xF00400)) ∧
     (2 ≤ s.get DBG_STATUS_LEVEL → (s.mode = .service ∨ s.mode = .serve ∨ s.mode = .serveDegraded ∨ s.mode = .conformance) →
       ∃ t, exec (.dbgFreeze true) s = .next t ∧ t.mode = .debugFreeze ∧ t.prior = s.mode ∧ t.get DBG_FREEZE_FREEZE = 1 ∧ t.get DBG_STATUS_FREEZE = 1) ∧
     (2 ≤ s.get DBG_STATUS_LEVEL → ¬(s.mode = .service ∨ s.mode = .serve ∨ s.mode = .serveDegraded ∨ s.mode = .conformance) →
       exec (.dbgFreeze true) s = .next (s.put DBG_FREEZE_FREEZE 1)) ∧
     (2 ≤ s.get DBG_STATUS_LEVEL → s.mode = .debugFreeze → exec (.dbgFreeze false) s = .next s.unfreeze) ∧
     (2 ≤ s.get DBG_STATUS_LEVEL → s.mode ≠ .debugFreeze → exec (.dbgFreeze false) s = .next (s.put DBG_FREEZE_FREEZE 0)) ∧
     (∀ a b, s.get DBG_STATUS_LEVEL < 3 → exec (.dbgMpctl a b) s = .next (s.deny 0xF00404)) ∧
     (∀ a b, 3 ≤ s.get DBG_STATUS_LEVEL → exec (.dbgMpctl a b) s = .next
       (let x := if a then s.haltMp 0 else s.releaseMp 0
        if b then x.haltMp 1 else x.releaseMp 1)) ∧
     (∀ c e n, c = .advance e ∨ c = .revoke n → s.get DBG_STATUS_LEVEL < 2 → exec c s = .next (s.deny 0xF00500)) ∧
     (∀ n, s.get DBG_STATUS_LEVEL = 2 → exec (.revoke n) s = .next (s.put OTP_CMD_ERR 1)) ∧
     (∀ e p, 2 ≤ s.get DBG_STATUS_LEVEL → s.pkg = some p → e ≤ p.epoch → e ≤ 64 →
       exec (.advance e) s = .next { s with otpEpoch := max s.otpEpoch e }) ∧
     (∀ e p, 2 ≤ s.get DBG_STATUS_LEVEL → s.pkg = some p → (p.epoch < e ∨ 64 < e) → exec (.advance e) s = .next (s.put OTP_CMD_ERR 1)) ∧
     (∀ n, 3 ≤ s.get DBG_STATUS_LEVEL → n < 2 → bitAt s.otpRevoked (1 - n) = false →
       exec (.revoke n) s = .next { s with otpRevoked := s.otpRevoked ||| 2 ^ n }) ∧
     (∀ n, 3 ≤ s.get DBG_STATUS_LEVEL → n < 2 → bitAt s.otpRevoked (1 - n) = true → exec (.revoke n) s = .next (s.put OTP_CMD_ERR 1)) ∧
     (s.mode = .conformance → s.stalls = [] → exec .cnfEnd s = .next s.enterServe) ∧
     (s.mode = .conformance → s.stalls ≠ [] → exec .cnfEnd s = .next (s.put CNF_CTL_ERR 1)) ∧
     (s.mode ≠ .conformance → exec .cnfEnd s = .next s)) ∧
  (∀ (s : State),
     exec .idcode s = .next { s with tapIr := 0x01, tapDr := 0x130729AF } ∧ exec .bypass s = .next { s with tapIr := 0x3F, tapDr := 0 } ∧
     (∃ d, exec .samplePreload s = .next { s with tapIr := 0x02, tapDr := d, free := s.free + 1 }) ∧
     (s.tapMay = true → (∃ d, exec .extest s = .next { s with tapIr := 0x03, tapDr := d, free := s.free + 1 }) ∧
       exec .clamp s = .next { s with tapIr := 0x04, tapDr := 0 } ∧ exec .highz s = .next { s with tapIr := 0x05, tapDr := 0 }) ∧
     (s.tapMay = false → ∀ c ∈ [Instr.extest, .clamp, .highz], exec c s = .next { s with tapIr := 0x3F, tapDr := 0 }) ∧
     (∀ off data host unmapped, off < 65536 → off % 4 = 0 →
       (s.dbgReach off = true → exec (.dbgreg off data false host unmapped) s = .next { s with
         tapIr := 0x10, tapDr := off + leAt (s.readBytes (0xF00000 + off) 4) 0 4 * 65536 }) ∧
       (s.dbgReach off = false → exec (.dbgreg off data false host unmapped) s = .next { s with tapIr := 0x10, tapDr := off }) ∧
       ∃ t, exec (.dbgreg off data true host unmapped) s = .next { t with tapIr := 0x10, tapDr := off + data % 2 ^ 32 * 65536 + 2 ^ 48 } ∧
         t = s.regAct (damRun host unmapped) (0xF00000 + off) (data % 2 ^ 32) (2 ^ 32 - 1)) ∧
     (∀ pin, pin = true ∨ (s.held = false ∧ s.dbgReach 4 = true) →
       ∃ t, exec (.debugCoreReset pin) s = .next t ∧ t = { s with tapIr := 0x01, tapDr := 0x130729AF, regs := t.regs } ∧
         (∀ f : Fld, let a := f.off / 8 * 8
           ((0xF00100 ≤ a ∧ a < 0xF00120) ∨ (0xF00300 ≤ a ∧ a < 0xF00340) → t.get f = State.reset.get f) ∧
           (¬((0xF00100 ≤ a ∧ a < 0xF00120) ∨ (0xF00300 ≤ a ∧ a < 0xF00340)) → t.get f = s.get f))) ∧
     (s.held = false → s.dbgReach 4 = false → exec (.debugCoreReset false) s = .next (s.deny 0xF00004)))

/-- With authority over a stall DBG_SCTL halts, resumes and steps it and feeds it an instruction whose accesses translate; a feed
that is not allowed sets FERR, and the DAM reads or writes its memory while it is halted, a write once its page and its stamp
have room. -/
def Obligations.DebugAccessComplete : Prop :=
  ∀ (s : State) (k : Nat) (st : Stall), s.held = false → s.stall? k = some st →
    (2 ≤ s.get DBG_STATUS_LEVEL ∨ st.l1 = true) →
    let x := s.put DBG_SCTL_STALL k
    (∀ force, (st.sched ≠ .halted → st.sched ≠ .parked → st.sched ≠ .faultWait → exec (.dbgSctlHalt k force) s = .next (askHalt x st force 1)) ∧
      (st.sched = .parked ∨ st.sched = .faultWait → exec (.dbgSctlHalt k force) s =
        .next (x.setStall { st with dbgHalt := true, haltWhy := 1, haltPend := if force then some true else st.haltPend }))) ∧
    (exec (.dbgSctlResume k) s = .next (x.setStall (resumeHalted s.time st))) ∧
    (st.sched = .halted → exec (.dbgSctlStep k) s = .next (x.setStall { st with sched := .runnable, stepping := true, bpSkip := true })) ∧
    (∀ flen slot i, let y := x.put DBG_SCTL_FLEN flen
      let c := y.feedCode (y.codeOf st slot) st.cpu.pc.toNat flen
      st.sched = .halted → s.mode ≠ .conformance → 0 < flen → flen ≤ 6 → y.live k = some (st, slot) →
      decodeAt c.fetch c.ucs 0 st.cpu.pc.toNat = .ok i → i.len ≤ flen → notFeedable i.op = false → permitted y st = true → boundaryClear y st = true →
      let u := st.unrepeated
      let q := runInst c u s.time i
      let n := ticksOf i q.1 q.2
      agentsClear st (st.tick + n) = true → holdFor u q.1 n = .none → accFails u q.1 = false →
      exec (.dbgSctlFeed k flen) s = .next ((y.buffer slot u (y.storeHeld slot u q.1) (st.tick + n - 1) (instWrites u q.1)).setStall
        (st.afterFeed (commit u i q.1 q.2)))) ∧
    (∀ flen, st.sched = .halted → (flen = 0 ∨ 6 < flen ∨ s.mode = .conformance) →
      exec (.dbgSctlFeed k flen) s = .next ((x.put DBG_SCTL_FLEN flen).put DBG_SSTAT_FERR 1)) ∧
    (∀ unmapped host, let a := s.get DAM_ADDR_VALUE
      let n := s.damSize
      s.get DAM_CTL_GO = 0 → s.get DAM_CTL_SPACE = 1 → s.get DAM_CTL_STALL = k → a % n = 0 →
      (st.sched = .halted → exec (.damAccess host unmapped) s = .next (s.damHalted st unmapped)) ∧
      (st.sched ≠ .halted → exec (.damAccess host unmapped) s = .next (s.put DAM_CTL_GO 1))) ∧
    (∀ unmapped, s.get DAM_CTL_GO = 1 → s.get DAM_CTL_SPACE = 1 → s.get DAM_CTL_STALL = k → st.sched = .halted →
      exec (.damStallAccess unmapped) s = .next (s.damHalted st unmapped)) ∧
    (let a := s.get DAM_ADDR_VALUE % 2 ^ 24
     let n := s.damSize
     let d := s.drainOf st.num
     let may := damWriteMay st a (leBytes n (s.get DAM_DATA_VALUE))
     (s.get DAM_CTL_WRITE = 1 → may = false → ∀ unmapped, s.damHalted st unmapped = s.put DAM_CTL_GO 1) ∧
     (s.get DAM_CTL_WRITE = 0 ∨ may = true → ∀ unmapped, s.damHalted st unmapped = s.damStall st unmapped) ∧
     (s.mode ≠ .conformance → s.get DAM_CTL_WRITE = 1 → rangeFaulted st a n = false → st.cpu.lock = 0 → s.damStall st false =
       (d.setStall (damWrite st a (leBytes n (s.get DAM_DATA_VALUE)))).puts [(DAM_CTL_GO, 0), (DAM_STAT_CODE, 0)]) ∧
     (s.get DAM_CTL_WRITE = 0 → s.get DAM_CTL_SIDEFX = 0 → readFaulted st a n = false → s.damStall st false =
       ((d.setStall (st.accessed a n)).puts [(DAM_CTL_GO, 0), (DAM_STAT_CODE, 0)]).put DAM_DATA_VALUE (ofLE (damBytes (s.cartOf st) st s.time a n))) ∧
     (s.mode ≠ .conformance → s.damStall st true = d.puts [(DAM_CTL_GO, 0), (DAM_STAT_CODE, 3)]))

/-! ### The board interface and the registers -/

/-- A write of a GPIO register settles the pads; an edge on an undriven pin sets its ISTAT bit as IMODE says; THROTTLE_N and the
temperature throttle, and 110 degrees trip; the chain pins, the alert response and the SMBus timeout act as their rules say. -/
def Obligations.PinsAndThermalComplete : Prop :=
  ∀ (s : State),
    (fwRuns s.mode = true → s.held = false → ∀ reg value,
      (reg < 32 → exec (.gpioCfgWrite reg value) s = .next ((s.put ⟨0x20000 + 4 * reg, 0, 13⟩ value).padsSettle)) ∧
      (reg = 32 → exec (.gpioCfgWrite reg value) s = .next ((s.put BRD_GPIO_OUT_OUT value).padsSettle))) ∧
    (∀ p lvl, p < 32 → s.padDriven p = none →
      let m := s.get (BRD_GPIO_CFG_IMODE.nth 4 p)
      let edge := (bitAt s.pads p = false ∧ lvl = true ∧ (m = 3 ∨ m = 5)) ∨ (bitAt s.pads p = true ∧ lvl = false ∧ (m = 4 ∨ m = 5))
      ∃ t, exec (.gpioEdge p lvl) s = .next t ∧ t.pads = putField s.pads p 1 (b2n lvl) ∧
        (s.awake = true → s.held = false → edge → t.regs = (s.put ⟨BRD_GPIO_ISTAT_EDGE.off, p, 1⟩ 1).regs) ∧ (¬edge → t.regs = s.regs)) ∧
    (∀ low, ∃ t, exec (.throttlePin low) s = .next t ∧ t.pinLow = low ∧ t.stalls = s.stalls ∧
      (low = true → s.throttling = false → s.awake = true → t.alert = true ∧
        (s.held = false → t.get BRD_THERM_COUNT = satInc 65535 (s.get BRD_THERM_COUNT)))) ∧
    (∀ (temp : Int) sensor watts, s.awake = true → s.held = false → temp < 1760 →
      ∃ t, exec (.tempSample temp sensor watts) s = .next t ∧ t.get BRD_TEMP_TEMP = ofSigned 16 temp ∧ t.get BRD_TEMP_SENSOR = sensor % 24 ∧
        t.get BRD_POWER_WATTS = watts % 65536 ∧ t.hot = (if 1520 ≤ temp then true else if temp < 1472 then false else s.hot) ∧ t.trip = s.trip ∧
        t.stalls = s.stalls) ∧
    (∀ (temp : Int) sensor watts, s.awake = true → s.held = false → 1760 ≤ temp →
      ∃ t, exec (.tempSample temp sensor watts) s = .next t ∧ t.trip = true ∧ t.held = true ∧ t.hbm = [] ∧ t.stalls = []) ∧
    (s.chainIn = false → exec .chainInRise s = .next { s with chainIn := true, chainAt := s.time, chainUp := false }) ∧
    (exec .chainInFall s = .next { s with chainIn := false, chainUp := false }) ∧ (exec .smbusTimeout s = .next s) ∧
    (∀ a, s.chainAddr = some a → s.alert = true →
      exec .alertResponse s = .next (State.emit { s with alert := false } (.mgmt [BitVec.ofNat 8 (2 * a)]))) ∧
    (s.mode ≠ .off → (s.get BRD_CHAIN_ASSIGNED = 1 → s.chainAddr = some (s.get BRD_CHAIN_ADDR)) ∧
      (s.get BRD_CHAIN_ASSIGNED = 0 → s.chainAddr = if s.chainReady then some 0x3C else none))

/-- Each management command addressed to the device with a right PEC has its effect or answers its data; a wrong PEC, an unlisted
code, a value not permitted, a mode or address that does not permit it, and a trip leave everything unchanged but LAST_STATUS,
which takes 1, 2, 3, 4 or 5. -/
def Obligations.MgmtCommandsComplete : Prop :=
  (∀ (s : State) (addr : Nat), s.chainAddr = some addr →
     let ok : State := { s with mgmt := 0 }
     let replies (c : Instr) (data : Bytes) : Prop := exec c s = .next (ok.emit (.mgmt data))
     (exec (.lastStatus addr false) s = .next (s.emit (.mgmt [BitVec.ofNat 8 s.mgmt]))) ∧
     (replies (.readId addr false) (leBytes 4 (s.get DEV_ID_ID) ++ leBytes 1 (s.get DEV_STEP_STEP) ++ leBytes 1 (s.get DEV_CONF_LEVEL) ++
       leBytes 2 s.mgmtMode ++ leBytes 8 Config.devSerial.toNat)) ∧
     (s.mode ≠ .slumber → replies (.readTemp addr false) (leBytes 2 (s.get BRD_TEMP_TEMP))) ∧
     (s.trip = false →
       (s.get BRD_CHAIN_ASSIGNED = 0 → ∀ v, 0x40 ≤ v → v ≤ 0x4F → exec (.assignAddr addr false v) s =
         .next (ok.puts [(BRD_CHAIN_ADDR, v), (BRD_CHAIN_ASSIGNED, 1), (BRD_CHAIN_RELEASED, 1)])) ∧
       (s.get BRD_CHAIN_ASSIGNED = 1 → exec (.releaseAddr addr false) s =
         .next (ok.puts [(BRD_CHAIN_ADDR, 0), (BRD_CHAIN_ASSIGNED, 0), (BRD_CHAIN_RELEASED, 0)])) ∧
       replies (.readMode addr false) (leBytes 2 s.mgmtMode) ∧ replies (.readRst addr false) (leBytes 4 (s.get RST_CAUSE_CAUSES)) ∧
       replies (.readFstop addr false) (leBytes 4 (s.reg32 0x20) ++ leBytes 8 (s.get FSTOP_TIME_TIME)) ∧
       (∀ v, exec (.wakeCfg addr false true v) s = .next (ok.put ⟨0x20090, 0, 16⟩ v) ∧ replies (.wakeCfg addr false false v) (leBytes 2 (s.reg32 0x20090))) ∧
       (s.mode ≠ .slumber → replies (.readPower addr false) (leBytes 2 (s.get BRD_POWER_WATTS)) ∧
         (∀ mp0, exec (.devReset addr false 0xD5 mp0) s = .next (ok.devReset 5 mp0) ∧
           exec (.warmReset addr false 0xD5 mp0) s = .next (ok.warmReset mp0)) ∧
         (∀ v, v < 2 → exec (.throttle addr false v) s = .next (State.thermalEdges (ok.put BRD_THERM_MGMT v) s.throttling s.tempHigh))) ∧
       (s.mode = .slumber → exec (.wake addr false 0xD5) s = .next { ok with waking := true, wakeN := true }) ∧
       (s.maySleep = true → exec (.sleep addr false 0xD5) s = .next ok.enterSlumber))) ∧
  (∀ (s : State) (addr : Nat), s.chainAddr = some addr →
     let result (c : Instr) (n : Nat) : Prop := exec c s = .next { s with mgmt := n }
     let rows (pec : Bool) (v : Nat) (mp0 write : Bool) : List Instr :=
       [.assignAddr addr pec v, .releaseAddr addr pec, .readMode addr pec, .readRst addr pec, .readFstop addr pec, .readPower addr pec,
         .devReset addr pec v mp0, .warmReset addr pec v mp0, .sleep addr pec v, .wake addr pec v, .throttle addr pec v, .wakeCfg addr pec write v]
     (∀ v mp0 write, ∀ c ∈ [Instr.lastStatus addr true, .readId addr true, .readTemp addr true] ++ rows true v mp0 write, result c 1) ∧
     (∀ code, code ∉ [0x01, 0x02, 0x0F, 0x10, 0x11, 0x12, 0x13, 0x20, 0x21, 0x30, 0x31, 0x32, 0x33, 0x34, 0x40] →
       result (.mgmtUnknownCommand addr false code) 2 ∧ result (.mgmtUnknownCommand addr true code) 1) ∧
     (s.trip = true → ∀ v mp0 write, ∀ c ∈ rows false v mp0 write, result c 5) ∧
     (s.trip = false → ∀ v mp0,
       (s.get BRD_CHAIN_ASSIGNED ≠ 0 → result (.assignAddr addr false v) 4) ∧ (s.get BRD_CHAIN_ASSIGNED ≠ 1 → result (.releaseAddr addr false) 4) ∧
       (s.mode = .slumber → ∀ c ∈ [Instr.readTemp addr false, .readPower addr false, .devReset addr false v mp0, .warmReset addr false v mp0,
         .throttle addr false v], result c 4) ∧
       (s.maySleep = false → result (.sleep addr false v) 4) ∧ (s.mode ≠ .slumber → result (.wake addr false v) 4) ∧
       (s.get BRD_CHAIN_ASSIGNED = 0 → (v < 0x40 ∨ 0x4F < v) → result (.assignAddr addr false v) 3) ∧
       (s.mode ≠ .slumber → (v ≠ 0xD5 → result (.devReset addr false v mp0) 3 ∧ result (.warmReset addr false v mp0) 3) ∧
         (2 ≤ v → result (.throttle addr false v) 3)) ∧
       (s.mode = .slumber → v ≠ 0xD5 → result (.wake addr false v) 3) ∧ (s.maySleep = true → v ≠ 0xD5 → result (.sleep addr false v) 3)))

/-- An aligned access of a served register acts by the access types of its fields, byte by byte: RW takes the written bits, W1S
and W1C set and clear where 1 is written, RC clears after a read; a host write that HOST_MASK does not allow is counted as denied;
BAR2 reads and writes device memory through its window, BAR4 the MSI-X table and its pending bits; a host access that the device
does not decode or accept is an error at the port; a read answers the bytes seen. -/
def Obligations.RegisterAccessesComplete : Prop :=
  ∀ (s : State) (off : Nat), s.held = false → s.awake = true → off < 2 ^ 26 → served s.mode off = true →
    (∀ data host unmapped, accepted off data.length = true → mayFailStop s.mode = true →
      exec (.registerWrite false 0 off data host unmapped) s = .next (regWrite (damRun host unmapped) s off data)) ∧
    (∀ data host unmapped, s.linkUp = true → s.decodes = true →
      (accepted off data.length = true → exec (.registerWrite true 0 off data host unmapped) s = .next (hostWriteBar (damRun host unmapped) s off data)) ∧
      (accepted off data.length = false → exec (.registerWrite true 0 off data host unmapped) s = .next (s.emit (.pcieError true))) ∧
      (data.length = 4 → off % 4 = 0 → s.hostMask off = 0 → exec (.registerWrite true 0 off data host unmapped) s =
        .next ((s.inc HOST_DENIED_COUNT).put HOST_DENIED_OFFSET (off / 4)))) ∧
    (∀ bar data size host unmapped, s.linkUp = true → s.decodes = false → bar ≠ 6 →
      exec (.registerWrite true bar off data host unmapped) s = .next (s.emit (.pcieError true)) ∧
      ∀ debug, exec (.rcRead true debug bar off size host) s = .next (s.emit (.pcieError false))) ∧
    (∀ data size host unmapped debug, let a := s.get BAR2_WIN_BASE * 2 ^ 24 + off
      s.linkUp = true → s.decodes = true →
      (s.get BAR2_WIN_EN = 1 → data ≠ [] → off + data.length ≤ 2 ^ 24 → regionOfRange a data.length = .hbm →
        exec (.registerWrite true 2 off data host unmapped) s = .next (s.devPut a data)) ∧
      (s.get BAR2_WIN_EN = 1 → 0 < size → off + size ≤ 2 ^ 24 → regionOfRange a size = .hbm →
        exec (.rcRead true debug 2 off size host) s = .next { s with rdata := ofLE (s.devBytes a size) }) ∧
      (s.get BAR2_WIN_EN = 0 → exec (.registerWrite true 2 off data host unmapped) s = .next s ∧
        exec (.rcRead true debug 2 off size host) s = .next { s with rdata := 0 })) ∧
    (∀ bar base n data size host unmapped debug, pciSpace bar = some (base, n) → s.linkUp = true → (bar = 6 ∨ s.decodes = true) →
      (off + data.length ≤ n → exec (.registerWrite true bar off data host unmapped) s = .next (pciWrite s (base + off) data)) ∧
      (off + size ≤ n → exec (.rcRead true debug bar off size host) s =
        .next { s with rdata := ofLE ((upto size).map fun i => s.readByte (base + off + i)) })) ∧
    (∀ size host debug, s.linkUp = true → s.decodes = true → accepted off size = false →
      exec (.rcRead true debug 0 off size host) s = .next (s.emit (.pcieError false))) ∧
    (∀ byHost size host, accepted off size = true → (byHost = true → s.linkUp = true ∧ s.decodes = true) →
      exec (.rcRead byHost true 0 off size host) s = .next { s with rdata := ofLE ((upto size).map fun i => s.seenByte (off + i)) } ∧
      ∃ t, exec (.rcRead byHost false 0 off size host) s = .next t ∧ t.rdata = ofLE ((upto size).map fun i => s.seenByte (off + i))) ∧
    (∀ v m j, j < 8 →
      bitAt ((s.storeByte off v m).rawByte off) j =
        (if bitAt (typeMask off .rw) j && bitAt m j then bitAt v j
         else if bitAt (typeMask off .w1s) j && bitAt m j && bitAt v j then true
         else if bitAt (typeMask off .w1c) j && bitAt m j && bitAt v j then false
         else bitAt (s.rawByte off) j) ∧
      bitAt ((s.clearRc off).rawByte off) j = (bitAt (s.rawByte off) j && !bitAt (typeMask off .rc) j))
end

