-- ==== Sys2Proof/Laws/Mem.lean ====
section
/-! SUPPORT. The canonical forms of memories and of the register file, and what every operation on them does: a read after a
write, and that each operation keeps the form. -/
namespace Sys2Proof.Machine

/-! ### Memories -/

theorem Memory.wfFrom_mono {lo : Option Nat} {m : Mem} (h : Memory.wfFrom lo m = true) : Memory.wfFrom none m = true := by
  cases m with
  | nil => rfl
  | cons p r => obtain ⟨k, v⟩ := p; simp [Memory.wfFrom] at h ⊢; exact ⟨h.1.2, h.2⟩

theorem Memory.wfFrom_lower {a b : Nat} {m : Mem} (hab : a ≤ b) (h : Memory.wfFrom (some b) m = true) :
    Memory.wfFrom (some a) m = true := by
  cases m with
  | nil => rfl
  | cons p r =>
    obtain ⟨k, v⟩ := p
    simp [Memory.wfFrom] at h ⊢
    exact ⟨⟨by omega, h.1.2⟩, h.2⟩

theorem Memory.wfFrom_tail {lo : Option Nat} {k : Nat} {v : Byte} {r : Mem} (h : Memory.wfFrom lo ((k, v) :: r) = true) :
    Memory.wfFrom (some k) r = true := by simp [Memory.wfFrom] at h; exact h.2

theorem Memory.filter_wfFrom {lo : Option Nat} (m : Mem) (p : Nat × Byte → Bool) (h : Memory.wfFrom lo m = true) :
    Memory.wfFrom lo (m.filter p) = true := by
  induction m generalizing lo with
  | nil => rfl
  | cons q r ih =>
    obtain ⟨k, v⟩ := q
    have ht := Memory.wfFrom_tail h
    simp only [Memory.wfFrom, Bool.and_eq_true] at h
    by_cases hp : p (k, v) = true
    · rw [List.filter_cons_of_pos hp]
      simp only [Memory.wfFrom, Bool.and_eq_true]
      exact ⟨h.1, ih ht⟩
    · rw [List.filter_cons_of_neg hp]
      apply ih
      cases lo with
      | none => exact Memory.wfFrom_mono ht
      | some l => exact Memory.wfFrom_lower (Nat.le_of_lt (by simpa using h.1.1)) ht

theorem Memory.insertN_wfFrom {lo : Option Nat} (m : Mem) (a : Nat) (b : Byte) (h : Memory.wfFrom lo m = true) (hb : b ≠ 0)
    (ha : ∀ l, lo = some l → l < a) : Memory.wfFrom lo (insertN a b m) = true := by
  have here : ∀ r, Memory.wfFrom (some a) r = true → Memory.wfFrom lo ((a, b) :: r) = true := by
    intro r hr
    simp only [Memory.wfFrom, Bool.and_eq_true]
    refine ⟨⟨?_, by simpa using hb⟩, hr⟩
    cases lo with
    | none => rfl
    | some l => simpa using ha l rfl
  induction m generalizing lo with
  | nil => exact here [] rfl
  | cons p r ih =>
    obtain ⟨k, w⟩ := p
    have ht := Memory.wfFrom_tail h
    unfold insertN
    split
    · rename_i hk
      obtain rfl : k = a := by simpa using hk
      exact here r ht
    · rename_i hk
      have hk : k ≠ a := by simpa using hk
      simp only [Memory.wfFrom, Bool.and_eq_true] at h
      split
      · rename_i hlt
        apply here
        simp only [Memory.wfFrom, Bool.and_eq_true]
        exact ⟨⟨by simpa using hlt, h.1.2⟩, ht⟩
      · simp only [Memory.wfFrom, Bool.and_eq_true]
        refine ⟨h.1, ih ht ?_ ?_⟩
        · intro l hl; obtain rfl : k = l := by simpa using hl
          omega
        · intro r hr
          simp only [Memory.wfFrom, Bool.and_eq_true]
          exact ⟨⟨by simp; omega, by simpa using hb⟩, hr⟩

/-- A one-byte write keeps the canonical form. -/
theorem Memory.set_wf (m : Mem) (a : Nat) (b : Byte) (h : Memory.wf m = true) : Memory.wf (Memory.set m a b) = true := by
  unfold Memory.set
  split
  · exact Memory.filter_wfFrom m _ h
  · exact Memory.insertN_wfFrom m a b h (by simpa using ‹¬(b == 0) = true›) (by simp)

/-- A write of several bytes keeps the canonical form. -/
theorem Memory.setBytes_wf (m : Mem) (a : Nat) (bs : Bytes) (h : Memory.wf m = true) :
    Memory.wf (Memory.setBytes m a bs) = true := by
  induction bs generalizing m a with
  | nil => exact h
  | cons b bs ih => exact ih _ _ (Memory.set_wf m a b h)

/-- Clearing a range keeps the canonical form. -/
theorem Memory.clearRange_wf (m : Mem) (lo hi : Nat) (h : Memory.wf m = true) : Memory.wf (Memory.clearRange m lo hi) = true :=
  Memory.filter_wfFrom m _ h

theorem lookupN_insertN {α : Type} (m : List (Nat × α)) (q p : Nat) (v : α) :
    lookupN p (insertN q v m) = if q = p then some v else lookupN p m := by
  induction m with
  | nil => by_cases h : q = p <;> simp [insertN, lookupN, h]
  | cons x r ih =>
    obtain ⟨k, w⟩ := x
    unfold insertN
    split
    · rename_i hk
      obtain rfl : k = q := by simpa using hk
      by_cases h : k = p <;> simp [lookupN, h]
    · rename_i hk
      have hk : k ≠ q := by simpa using hk
      split
      · by_cases h : q = p <;> simp [lookupN, h]
      · by_cases hkp : k = p
        · subst hkp; simp [lookupN, Ne.symm hk]
        · simp [lookupN, hkp, ih]

theorem lookupN_eraseN {α : Type} (m : List (Nat × α)) (q p : Nat) :
    lookupN p (eraseN q m) = if q = p then none else lookupN p m := by
  induction m with
  | nil => simp [eraseN, lookupN]
  | cons x r ih =>
    obtain ⟨k, w⟩ := x
    unfold eraseN at ih ⊢
    by_cases hk : k = q
    · subst hk
      rw [List.filter_cons_of_neg (by simp), ih]
      by_cases hp : k = p <;> simp [lookupN, hp]
    · rw [List.filter_cons_of_pos (by simpa using hk)]
      by_cases hp : k = p
      · subst hp; simp [lookupN, Ne.symm hk]
      · simp [lookupN, hp, ih]

/-- A read after a one-byte write: the byte written at its address, the old byte elsewhere. -/
theorem Memory.get_set (m : Mem) (a c : Nat) (b : Byte) :
    Memory.get (Memory.set m a b) c = if a = c then b else Memory.get m c := by
  unfold Memory.set Memory.get
  split
  · rename_i hb
    rw [lookupN_eraseN]
    by_cases h : a = c
    · have hb : b = 0 := by simpa using hb
      simp [h, hb]
    · simp [h]
  · rw [lookupN_insertN]
    by_cases h : a = c <;> simp [h]

/-- A read outside the bytes written gives what it gave before. -/
theorem Memory.get_setBytes_outside (m : Mem) (a c : Nat) (bs : Bytes) (hc : c < a ∨ a + bs.length ≤ c) :
    Memory.get (Memory.setBytes m a bs) c = Memory.get m c := by
  induction bs generalizing m a with
  | nil => rfl
  | cons b bs ih =>
    simp only [List.length_cons] at hc
    show Memory.get (Memory.setBytes (Memory.set m a b) (a + 1) bs) c = _
    rw [ih _ _ (by omega), Memory.get_set m a c b, if_neg (by omega)]

/-- A read inside the bytes written gives the byte written there. -/
theorem Memory.get_setBytes_inside (m : Mem) (a i : Nat) (bs : Bytes) (hi : i < bs.length) :
    Memory.get (Memory.setBytes m a bs) (a + i) = bs.getD i 0 := by
  induction bs generalizing m a i with
  | nil => simp at hi
  | cons b bs ih =>
    show Memory.get (Memory.setBytes (Memory.set m a b) (a + 1) bs) (a + i) = _
    cases i with
    | zero =>
      rw [Memory.get_setBytes_outside _ _ _ _ (by omega), Memory.get_set m a _ b]
      simp
    | succ i =>
      rw [show a + (i + 1) = (a + 1) + i by omega, ih _ _ _ (by simpa using hi)]
      simp

/-! ### The register file -/

theorem regsWfFrom_mono {lo : Option Nat} {m : List (Nat × QWord)} (h : regsWfFrom lo m = true) : regsWfFrom none m = true := by
  cases m with
  | nil => rfl
  | cons p r => obtain ⟨k, v⟩ := p; simp [regsWfFrom] at h ⊢; exact ⟨h.1.2, h.2⟩

theorem regsWfFrom_lower {a b : Nat} {m : List (Nat × QWord)} (hab : a ≤ b) (h : regsWfFrom (some b) m = true) :
    regsWfFrom (some a) m = true := by
  cases m with
  | nil => rfl
  | cons p r =>
    obtain ⟨k, v⟩ := p
    simp [regsWfFrom] at h ⊢
    exact ⟨⟨by omega, h.1.2⟩, h.2⟩

theorem regsWfFrom_tail {lo : Option Nat} {k : Nat} {v : QWord} {r : List (Nat × QWord)}
    (h : regsWfFrom lo ((k, v) :: r) = true) : regsWfFrom (some k) r = true := by
  simp [regsWfFrom] at h; exact h.2

theorem regsWfFrom_filter {lo : Option Nat} (m : List (Nat × QWord)) (p : Nat × QWord → Bool) (h : regsWfFrom lo m = true) :
    regsWfFrom lo (m.filter p) = true := by
  induction m generalizing lo with
  | nil => rfl
  | cons q r ih =>
    obtain ⟨k, v⟩ := q
    have ht := regsWfFrom_tail h
    simp only [regsWfFrom, Bool.and_eq_true] at h
    by_cases hp : p (k, v) = true
    · rw [List.filter_cons_of_pos hp]
      simp only [regsWfFrom, Bool.and_eq_true]
      exact ⟨h.1, ih ht⟩
    · rw [List.filter_cons_of_neg hp]
      apply ih
      cases lo with
      | none => exact regsWfFrom_mono ht
      | some l => exact regsWfFrom_lower (Nat.le_of_lt (by simpa using h.1.1)) ht

theorem regsWfFrom_insertN {lo : Option Nat} (m : List (Nat × QWord)) (q : Nat) (v : QWord) (h : regsWfFrom lo m = true)
    (hv : v ≠ resetQ q) (hq : ∀ l, lo = some l → l < q) : regsWfFrom lo (insertN q v m) = true := by
  have here : ∀ r, regsWfFrom (some q) r = true → regsWfFrom lo ((q, v) :: r) = true := by
    intro r hr
    simp only [regsWfFrom, Bool.and_eq_true]
    refine ⟨⟨?_, by simpa using hv⟩, hr⟩
    cases lo with
    | none => rfl
    | some l => simpa using hq l rfl
  induction m generalizing lo with
  | nil => exact here [] rfl
  | cons p r ih =>
    obtain ⟨k, w⟩ := p
    have ht := regsWfFrom_tail h
    unfold insertN
    split
    · rename_i hk
      obtain rfl : k = q := by simpa using hk
      exact here r ht
    · rename_i hk
      have hk : k ≠ q := by simpa using hk
      split
      · rename_i hlt
        apply here
        simp only [regsWfFrom, Bool.and_eq_true] at h ⊢
        exact ⟨⟨by simpa using hlt, h.1.2⟩, ht⟩
      · simp only [regsWfFrom, Bool.and_eq_true] at h ⊢
        refine ⟨h.1, ih ht ?_ ?_⟩
        · intro l hl; obtain rfl : k = l := by simpa using hl
          omega
        · intro r hr
          simp only [regsWfFrom, Bool.and_eq_true]
          exact ⟨⟨by simp; omega, by simpa using hv⟩, hr⟩

/-- Setting a slot keeps the register file canonical. -/
theorem setQ_wf (m : List (Nat × QWord)) (q : Nat) (v : QWord) (h : regsWf m = true) : regsWf (setQ m q v) = true := by
  unfold setQ
  split
  · exact regsWfFrom_filter m _ h
  · exact regsWfFrom_insertN m q v h ‹_› (by simp)

/-- A slot reads the value last set; every other slot reads as before. -/
theorem getQ_setQ (m : List (Nat × QWord)) (q p : Nat) (v : QWord) : getQ (setQ m q v) p = if q = p then v else getQ m p := by
  unfold setQ getQ
  split
  · rename_i h
    rw [lookupN_eraseN]
    by_cases hp : q = p
    · subst hp; simp [h]
    · simp [hp]
  · rw [lookupN_insertN]
    by_cases hp : q = p <;> simp [hp]

end Sys2Proof.Machine
end

