-- ==== Sys2Proof/Laws/State.lean ====
section
/-! SUPPORT. The register fields and the state: what a field reads after a put, and what each named update leaves of every
field of State. -/
namespace Sys2Proof.Machine

/-! ### Bit fields -/

theorem field_eq (x lo w : Nat) : field x lo w = x / 2 ^ lo % 2 ^ w := by
  unfold field; rw [Nat.shiftRight_eq_div_pow]

theorem putField_eq (x lo w v : Nat) :
    putField x lo w v = 2 ^ lo * (2 ^ w * (x / 2 ^ lo / 2 ^ w) + v % 2 ^ w) + x % 2 ^ lo := by
  unfold putField
  rw [field_eq]
  have h1 := Nat.div_add_mod x (2 ^ lo)
  have h2 := Nat.div_add_mod (x / 2 ^ lo) (2 ^ w)
  generalize x / 2 ^ lo / 2 ^ w = H at *
  generalize x / 2 ^ lo % 2 ^ w = F at *
  generalize x % 2 ^ lo = L at *
  have e : x = 2 ^ lo * (2 ^ w * H) + 2 ^ lo * F + L := by rw [← Nat.mul_add, h2, h1]
  rw [e, Nat.mul_add, Nat.mul_comm F, Nat.mul_comm (v % 2 ^ w)]
  omega

/-- The bits of a number with one field replaced. -/
theorem testBit_putField (x lo w v i : Nat) :
    (putField x lo w v).testBit i = if lo ≤ i ∧ i < lo + w then v.testBit (i - lo) else x.testBit i := by
  rw [putField_eq, Nat.testBit_two_pow_mul_add _ (Nat.mod_lt _ (Nat.two_pow_pos _))]
  by_cases h : i < lo
  · rw [if_pos h, if_neg (by omega), Nat.testBit_mod_two_pow]; simp [h]
  · rw [if_neg h, Nat.testBit_two_pow_mul_add _ (Nat.mod_lt _ (Nat.two_pow_pos _))]
    by_cases h2 : i - lo < w
    · rw [if_pos h2, if_pos (by omega), Nat.testBit_mod_two_pow]; simp [h2]
    · rw [if_neg h2, if_neg (by omega), Nat.testBit_div_two_pow, Nat.testBit_div_two_pow]
      congr 1; omega

theorem testBit_field (x lo w i : Nat) : (field x lo w).testBit i = (decide (i < w) && x.testBit (lo + i)) := by
  rw [field_eq, Nat.testBit_mod_two_pow, Nat.testBit_div_two_pow, Nat.add_comm]

theorem field_putField_same (x lo w v : Nat) : field (putField x lo w v) lo w = v % 2 ^ w := by
  apply Nat.eq_of_testBit_eq
  intro i
  rw [testBit_field, testBit_putField, Nat.testBit_mod_two_pow]
  by_cases h : i < w
  · rw [if_pos (by omega)]; simp [h]
  · simp [h]

theorem field_putField_apart (x lo w v lo' w' : Nat) (h : lo' + w' ≤ lo ∨ lo + w ≤ lo') :
    field (putField x lo w v) lo' w' = field x lo' w' := by
  apply Nat.eq_of_testBit_eq
  intro i
  rw [testBit_field, testBit_field, testBit_putField]
  by_cases h2 : i < w'
  · rw [if_neg (by omega)]
  · simp [h2]

theorem putField_lt (x lo w v n : Nat) (hx : x < 2 ^ n) (h : lo + w ≤ n) : putField x lo w v < 2 ^ n := by
  apply Nat.lt_pow_two_of_testBit
  intro i hi
  rw [testBit_putField, if_neg (by omega)]
  exact Nat.testBit_lt_two_pow (Nat.lt_of_lt_of_le hx (Nat.pow_le_pow_right (by decide) hi))

theorem State.put_slot (s : State) (f : Fld) (v q : Nat) (hf : f.fits = true) :
    (getQ (s.put f v).regs q).toNat =
      if f.off / 8 = q then putField (getQ s.regs q).toNat (8 * (f.off % 8) + f.lo) f.w v else (getQ s.regs q).toNat := by
  unfold State.put
  simp only [getQ_setQ]
  split
  · rename_i h
    subst h
    rw [BitVec.toNat_ofNat]
    exact Nat.mod_eq_of_lt (putField_lt _ _ _ _ _ (getQ s.regs _).isLt (by simpa [Fld.fits] using hf))
  · rfl

/-- A field reads what was last put into it. -/
theorem State.get_put (s : State) (f : Fld) (v : Nat) (hf : f.fits = true) : (s.put f v).get f = v % 2 ^ f.w := by
  unfold State.get
  rw [State.put_slot s f v _ hf, if_pos rfl, field_putField_same]

/-- Putting one field leaves every field apart from it. -/
theorem State.get_put_apart (s : State) (f g : Fld) (v : Nat) (hf : f.fits = true) (h : f.apart g = true) :
    (s.put f v).get g = s.get g := by
  unfold State.get
  rw [State.put_slot s f v _ hf]
  split
  · rename_i e
    rw [field_putField_apart]
    simp [Fld.apart, e] at h
    omega
  · rfl
/-! ### What put leaves -/

@[simp] theorem State.put_pending (s : State) (f : Fld) (v : Nat) : (s.put f v).pending = s.pending := rfl
@[simp] theorem State.put_time (s : State) (f : Fld) (v : Nat) : (s.put f v).time = s.time := rfl
@[simp] theorem State.put_free (s : State) (f : Fld) (v : Nat) : (s.put f v).free = s.free := rfl
@[simp] theorem State.put_mode (s : State) (f : Fld) (v : Nat) : (s.put f v).mode = s.mode := rfl
@[simp] theorem State.put_prior (s : State) (f : Fld) (v : Nat) : (s.put f v).prior = s.prior := rfl
@[simp] theorem State.put_detail (s : State) (f : Fld) (v : Nat) : (s.put f v).detail = s.detail := rfl
@[simp] theorem State.put_hbm (s : State) (f : Fld) (v : Nat) : (s.put f v).hbm = s.hbm := rfl
@[simp] theorem State.put_host (s : State) (f : Fld) (v : Nat) : (s.put f v).host = s.host := rfl
@[simp] theorem State.put_out (s : State) (f : Fld) (v : Nat) : (s.put f v).out = s.out := rfl
@[simp] theorem State.put_titles (s : State) (f : Fld) (v : Nat) : (s.put f v).titles = s.titles := rfl
@[simp] theorem State.put_stalls (s : State) (f : Fld) (v : Nat) : (s.put f v).stalls = s.stalls := rfl
@[simp] theorem State.put_sbuf (s : State) (f : Fld) (v : Nat) : (s.put f v).sbuf = s.sbuf := rfl
@[simp] theorem State.put_log (s : State) (f : Fld) (v : Nat) : (s.put f v).log = s.log := rfl
@[simp] theorem State.put_logSeq (s : State) (f : Fld) (v : Nat) : (s.put f v).logSeq = s.logSeq := rfl
@[simp] theorem State.put_captured (s : State) (f : Fld) (v : Nat) : (s.put f v).captured = s.captured := rfl
@[simp] theorem State.put_dropped (s : State) (f : Fld) (v : Nat) : (s.put f v).dropped = s.dropped := rfl
@[simp] theorem State.put_rings (s : State) (f : Fld) (v : Nat) : (s.put f v).rings = s.rings := rfl
@[simp] theorem State.put_linkUp (s : State) (f : Fld) (v : Nat) : (s.put f v).linkUp = s.linkUp := rfl
@[simp] theorem State.put_reqTaken (s : State) (f : Fld) (v : Nat) : (s.put f v).reqTaken = s.reqTaken := rfl
@[simp] theorem State.put_xfaults (s : State) (f : Fld) (v : Nat) : (s.put f v).xfaults = s.xfaults := rfl
@[simp] theorem State.put_streams (s : State) (f : Fld) (v : Nat) : (s.put f v).streams = s.streams := rfl
@[simp] theorem State.put_validating (s : State) (f : Fld) (v : Nat) : (s.put f v).validating = s.validating := rfl
@[simp] theorem State.put_encChange (s : State) (f : Fld) (v : Nat) : (s.put f v).encChange = s.encChange := rfl
@[simp] theorem State.put_encJobs (s : State) (f : Fld) (v : Nat) : (s.put f v).encJobs = s.encJobs := rfl
@[simp] theorem State.put_encFront (s : State) (f : Fld) (v : Nat) : (s.put f v).encFront = s.encFront := rfl
@[simp] theorem State.put_spareDue (s : State) (f : Fld) (v : Nat) : (s.put f v).spareDue = s.spareDue := rfl
@[simp] theorem State.put_mon (s : State) (f : Fld) (v : Nat) : (s.put f v).mon = s.mon := rfl
@[simp] theorem State.put_swapReq (s : State) (f : Fld) (v : Nat) : (s.put f v).swapReq = s.swapReq := rfl
@[simp] theorem State.put_deferred (s : State) (f : Fld) (v : Nat) : (s.put f v).deferred = s.deferred := rfl
@[simp] theorem State.put_resident (s : State) (f : Fld) (v : Nat) : (s.put f v).resident = s.resident := rfl
@[simp] theorem State.put_hsubs (s : State) (f : Fld) (v : Nat) : (s.put f v).hsubs = s.hsubs := rfl
@[simp] theorem State.put_movs (s : State) (f : Fld) (v : Nat) : (s.put f v).movs = s.movs := rfl
@[simp] theorem State.put_movLast (s : State) (f : Fld) (v : Nat) : (s.put f v).movLast = s.movLast := rfl
@[simp] theorem State.put_links (s : State) (f : Fld) (v : Nat) : (s.put f v).links = s.links := rfl
@[simp] theorem State.put_ingress (s : State) (f : Fld) (v : Nat) : (s.put f v).ingress = s.ingress := rfl
@[simp] theorem State.put_flows (s : State) (f : Fld) (v : Nat) : (s.put f v).flows = s.flows := rfl
@[simp] theorem State.put_keys (s : State) (f : Fld) (v : Nat) : (s.put f v).keys = s.keys := rfl
@[simp] theorem State.put_nets (s : State) (f : Fld) (v : Nat) : (s.put f v).nets = s.nets := rfl
@[simp] theorem State.put_addrs (s : State) (f : Fld) (v : Nat) : (s.put f v).addrs = s.addrs := rfl
@[simp] theorem State.put_routes (s : State) (f : Fld) (v : Nat) : (s.put f v).routes = s.routes := rfl
@[simp] theorem State.put_peers (s : State) (f : Fld) (v : Nat) : (s.put f v).peers = s.peers := rfl
@[simp] theorem State.put_mcastPn (s : State) (f : Fld) (v : Nat) : (s.put f v).mcastPn = s.mcastPn := rfl
@[simp] theorem State.put_yardKeyUsed (s : State) (f : Fld) (v : Nat) : (s.put f v).yardKeyUsed = s.yardKeyUsed := rfl
@[simp] theorem State.put_leaving (s : State) (f : Fld) (v : Nat) : (s.put f v).leaving = s.leaving := rfl
@[simp] theorem State.put_slew (s : State) (f : Fld) (v : Nat) : (s.put f v).slew = s.slew := rfl
@[simp] theorem State.put_slewAcc (s : State) (f : Fld) (v : Nat) : (s.put f v).slewAcc = s.slewAcc := rfl
@[simp] theorem State.put_yardOn (s : State) (f : Fld) (v : Nat) : (s.put f v).yardOn = s.yardOn := rfl
@[simp] theorem State.put_leaveYard (s : State) (f : Fld) (v : Nat) : (s.put f v).leaveYard = s.leaveYard := rfl
@[simp] theorem State.put_early (s : State) (f : Fld) (v : Nat) : (s.put f v).early = s.early := rfl
@[simp] theorem State.put_heard (s : State) (f : Fld) (v : Nat) : (s.put f v).heard = s.heard := rfl
@[simp] theorem State.put_helloPns (s : State) (f : Fld) (v : Nat) : (s.put f v).helloPns = s.helloPns := rfl
@[simp] theorem State.put_hellos (s : State) (f : Fld) (v : Nat) : (s.put f v).hellos = s.hellos := rfl
@[simp] theorem State.put_helloAt (s : State) (f : Fld) (v : Nat) : (s.put f v).helloAt = s.helloAt := rfl
@[simp] theorem State.put_migs (s : State) (f : Fld) (v : Nat) : (s.put f v).migs = s.migs := rfl
@[simp] theorem State.put_ptpGood (s : State) (f : Fld) (v : Nat) : (s.put f v).ptpGood = s.ptpGood := rfl
@[simp] theorem State.put_cadLatch (s : State) (f : Fld) (v : Nat) : (s.put f v).cadLatch = s.cadLatch := rfl
@[simp] theorem State.put_takeoverAt (s : State) (f : Fld) (v : Nat) : (s.put f v).takeoverAt = s.takeoverAt := rfl
@[simp] theorem State.put_rdata (s : State) (f : Fld) (v : Nat) : (s.put f v).rdata = s.rdata := rfl
@[simp] theorem State.put_ueFrames (s : State) (f : Fld) (v : Nat) : (s.put f v).ueFrames = s.ueFrames := rfl
@[simp] theorem State.put_ceFrames (s : State) (f : Fld) (v : Nat) : (s.put f v).ceFrames = s.ceFrames := rfl
@[simp] theorem State.put_retired (s : State) (f : Fld) (v : Nat) : (s.put f v).retired = s.retired := rfl
@[simp] theorem State.put_inServ (s : State) (f : Fld) (v : Nat) : (s.put f v).inServ = s.inServ := rfl
@[simp] theorem State.put_arb (s : State) (f : Fld) (v : Nat) : (s.put f v).arb = s.arb := rfl
@[simp] theorem State.put_told (s : State) (f : Fld) (v : Nat) : (s.put f v).told = s.told := rfl
@[simp] theorem State.put_mpwEnd (s : State) (f : Fld) (v : Nat) : (s.put f v).mpwEnd = s.mpwEnd := rfl
@[simp] theorem State.put_mpwLeft (s : State) (f : Fld) (v : Nat) : (s.put f v).mpwLeft = s.mpwLeft := rfl
@[simp] theorem State.put_orphanAt (s : State) (f : Fld) (v : Nat) : (s.put f v).orphanAt = s.orphanAt := rfl
@[simp] theorem State.put_rstDue (s : State) (f : Fld) (v : Nat) : (s.put f v).rstDue = s.rstDue := rfl
@[simp] theorem State.put_fwLen (s : State) (f : Fld) (v : Nat) : (s.put f v).fwLen = s.fwLen := rfl
@[simp] theorem State.put_pkg (s : State) (f : Fld) (v : Nat) : (s.put f v).pkg = s.pkg := rfl
@[simp] theorem State.put_warm (s : State) (f : Fld) (v : Nat) : (s.put f v).warm = s.warm := rfl
@[simp] theorem State.put_root (s : State) (f : Fld) (v : Nat) : (s.put f v).root = s.root := rfl
@[simp] theorem State.put_monGrant (s : State) (f : Fld) (v : Nat) : (s.put f v).monGrant = s.monGrant := rfl
@[simp] theorem State.put_frozen (s : State) (f : Fld) (v : Nat) : (s.put f v).frozen = s.frozen := rfl
@[simp] theorem State.put_nonceAt (s : State) (f : Fld) (v : Nat) : (s.put f v).nonceAt = s.nonceAt := rfl
@[simp] theorem State.put_failAt (s : State) (f : Fld) (v : Nat) : (s.put f v).failAt = s.failAt := rfl
@[simp] theorem State.put_otpEpoch (s : State) (f : Fld) (v : Nat) : (s.put f v).otpEpoch = s.otpEpoch := rfl
@[simp] theorem State.put_otpRevoked (s : State) (f : Fld) (v : Nat) : (s.put f v).otpRevoked = s.otpRevoked := rfl
@[simp] theorem State.put_tapIr (s : State) (f : Fld) (v : Nat) : (s.put f v).tapIr = s.tapIr := rfl
@[simp] theorem State.put_tapDr (s : State) (f : Fld) (v : Nat) : (s.put f v).tapDr = s.tapDr := rfl
@[simp] theorem State.put_pads (s : State) (f : Fld) (v : Nat) : (s.put f v).pads = s.pads := rfl
@[simp] theorem State.put_pinLow (s : State) (f : Fld) (v : Nat) : (s.put f v).pinLow = s.pinLow := rfl
@[simp] theorem State.put_hot (s : State) (f : Fld) (v : Nat) : (s.put f v).hot = s.hot := rfl
@[simp] theorem State.put_trip (s : State) (f : Fld) (v : Nat) : (s.put f v).trip = s.trip := rfl
@[simp] theorem State.put_alert (s : State) (f : Fld) (v : Nat) : (s.put f v).alert = s.alert := rfl
@[simp] theorem State.put_mgmt (s : State) (f : Fld) (v : Nat) : (s.put f v).mgmt = s.mgmt := rfl
@[simp] theorem State.put_chainIn (s : State) (f : Fld) (v : Nat) : (s.put f v).chainIn = s.chainIn := rfl
@[simp] theorem State.put_chainAt (s : State) (f : Fld) (v : Nat) : (s.put f v).chainAt = s.chainAt := rfl
@[simp] theorem State.put_chainUp (s : State) (f : Fld) (v : Nat) : (s.put f v).chainUp = s.chainUp := rfl
@[simp] theorem State.put_perst (s : State) (f : Fld) (v : Nat) : (s.put f v).perst = s.perst := rfl
@[simp] theorem State.put_resetN (s : State) (f : Fld) (v : Nat) : (s.put f v).resetN = s.resetN := rfl
@[simp] theorem State.put_testEn (s : State) (f : Fld) (v : Nat) : (s.put f v).testEn = s.testEn := rfl
@[simp] theorem State.put_rails (s : State) (f : Fld) (v : Nat) : (s.put f v).rails = s.rails := rfl
@[simp] theorem State.put_clocks (s : State) (f : Fld) (v : Nat) : (s.put f v).clocks = s.clocks := rfl
@[simp] theorem State.put_railLost (s : State) (f : Fld) (v : Nat) : (s.put f v).railLost = s.railLost := rfl
@[simp] theorem State.put_held (s : State) (f : Fld) (v : Nat) : (s.put f v).held = s.held := rfl
@[simp] theorem State.put_waking (s : State) (f : Fld) (v : Nat) : (s.put f v).waking = s.waking := rfl
@[simp] theorem State.put_wakeN (s : State) (f : Fld) (v : Nat) : (s.put f v).wakeN = s.wakeN := rfl

/-! ### What setStall leaves -/

@[simp] theorem State.setStall_pending (s : State) (st : Stall) : (s.setStall st).pending = s.pending := rfl
@[simp] theorem State.setStall_time (s : State) (st : Stall) : (s.setStall st).time = s.time := rfl
@[simp] theorem State.setStall_free (s : State) (st : Stall) : (s.setStall st).free = s.free := rfl
@[simp] theorem State.setStall_mode (s : State) (st : Stall) : (s.setStall st).mode = s.mode := rfl
@[simp] theorem State.setStall_prior (s : State) (st : Stall) : (s.setStall st).prior = s.prior := rfl
@[simp] theorem State.setStall_detail (s : State) (st : Stall) : (s.setStall st).detail = s.detail := rfl
@[simp] theorem State.setStall_regs (s : State) (st : Stall) : (s.setStall st).regs = s.regs := rfl
@[simp] theorem State.setStall_hbm (s : State) (st : Stall) : (s.setStall st).hbm = s.hbm := rfl
@[simp] theorem State.setStall_host (s : State) (st : Stall) : (s.setStall st).host = s.host := rfl
@[simp] theorem State.setStall_out (s : State) (st : Stall) : (s.setStall st).out = s.out := rfl
@[simp] theorem State.setStall_titles (s : State) (st : Stall) : (s.setStall st).titles = s.titles := rfl
@[simp] theorem State.setStall_sbuf (s : State) (st : Stall) : (s.setStall st).sbuf = s.sbuf := rfl
@[simp] theorem State.setStall_log (s : State) (st : Stall) : (s.setStall st).log = s.log := rfl
@[simp] theorem State.setStall_logSeq (s : State) (st : Stall) : (s.setStall st).logSeq = s.logSeq := rfl
@[simp] theorem State.setStall_captured (s : State) (st : Stall) : (s.setStall st).captured = s.captured := rfl
@[simp] theorem State.setStall_dropped (s : State) (st : Stall) : (s.setStall st).dropped = s.dropped := rfl
@[simp] theorem State.setStall_rings (s : State) (st : Stall) : (s.setStall st).rings = s.rings := rfl
@[simp] theorem State.setStall_linkUp (s : State) (st : Stall) : (s.setStall st).linkUp = s.linkUp := rfl
@[simp] theorem State.setStall_reqTaken (s : State) (st : Stall) : (s.setStall st).reqTaken = s.reqTaken := rfl
@[simp] theorem State.setStall_xfaults (s : State) (st : Stall) : (s.setStall st).xfaults = s.xfaults := rfl
@[simp] theorem State.setStall_streams (s : State) (st : Stall) : (s.setStall st).streams = s.streams := rfl
@[simp] theorem State.setStall_validating (s : State) (st : Stall) : (s.setStall st).validating = s.validating := rfl
@[simp] theorem State.setStall_encChange (s : State) (st : Stall) : (s.setStall st).encChange = s.encChange := rfl
@[simp] theorem State.setStall_encJobs (s : State) (st : Stall) : (s.setStall st).encJobs = s.encJobs := rfl
@[simp] theorem State.setStall_encFront (s : State) (st : Stall) : (s.setStall st).encFront = s.encFront := rfl
@[simp] theorem State.setStall_spareDue (s : State) (st : Stall) : (s.setStall st).spareDue = s.spareDue := rfl
@[simp] theorem State.setStall_mon (s : State) (st : Stall) : (s.setStall st).mon = s.mon := rfl
@[simp] theorem State.setStall_swapReq (s : State) (st : Stall) : (s.setStall st).swapReq = s.swapReq := rfl
@[simp] theorem State.setStall_deferred (s : State) (st : Stall) : (s.setStall st).deferred = s.deferred := rfl
@[simp] theorem State.setStall_resident (s : State) (st : Stall) : (s.setStall st).resident = s.resident := rfl
@[simp] theorem State.setStall_hsubs (s : State) (st : Stall) : (s.setStall st).hsubs = s.hsubs := rfl
@[simp] theorem State.setStall_movs (s : State) (st : Stall) : (s.setStall st).movs = s.movs := rfl
@[simp] theorem State.setStall_movLast (s : State) (st : Stall) : (s.setStall st).movLast = s.movLast := rfl
@[simp] theorem State.setStall_links (s : State) (st : Stall) : (s.setStall st).links = s.links := rfl
@[simp] theorem State.setStall_ingress (s : State) (st : Stall) : (s.setStall st).ingress = s.ingress := rfl
@[simp] theorem State.setStall_flows (s : State) (st : Stall) : (s.setStall st).flows = s.flows := rfl
@[simp] theorem State.setStall_keys (s : State) (st : Stall) : (s.setStall st).keys = s.keys := rfl
@[simp] theorem State.setStall_nets (s : State) (st : Stall) : (s.setStall st).nets = s.nets := rfl
@[simp] theorem State.setStall_addrs (s : State) (st : Stall) : (s.setStall st).addrs = s.addrs := rfl
@[simp] theorem State.setStall_routes (s : State) (st : Stall) : (s.setStall st).routes = s.routes := rfl
@[simp] theorem State.setStall_peers (s : State) (st : Stall) : (s.setStall st).peers = s.peers := rfl
@[simp] theorem State.setStall_mcastPn (s : State) (st : Stall) : (s.setStall st).mcastPn = s.mcastPn := rfl
@[simp] theorem State.setStall_yardKeyUsed (s : State) (st : Stall) : (s.setStall st).yardKeyUsed = s.yardKeyUsed := rfl
@[simp] theorem State.setStall_leaving (s : State) (st : Stall) : (s.setStall st).leaving = s.leaving := rfl
@[simp] theorem State.setStall_slew (s : State) (st : Stall) : (s.setStall st).slew = s.slew := rfl
@[simp] theorem State.setStall_slewAcc (s : State) (st : Stall) : (s.setStall st).slewAcc = s.slewAcc := rfl
@[simp] theorem State.setStall_yardOn (s : State) (st : Stall) : (s.setStall st).yardOn = s.yardOn := rfl
@[simp] theorem State.setStall_leaveYard (s : State) (st : Stall) : (s.setStall st).leaveYard = s.leaveYard := rfl
@[simp] theorem State.setStall_early (s : State) (st : Stall) : (s.setStall st).early = s.early := rfl
@[simp] theorem State.setStall_heard (s : State) (st : Stall) : (s.setStall st).heard = s.heard := rfl
@[simp] theorem State.setStall_helloPns (s : State) (st : Stall) : (s.setStall st).helloPns = s.helloPns := rfl
@[simp] theorem State.setStall_hellos (s : State) (st : Stall) : (s.setStall st).hellos = s.hellos := rfl
@[simp] theorem State.setStall_helloAt (s : State) (st : Stall) : (s.setStall st).helloAt = s.helloAt := rfl
@[simp] theorem State.setStall_migs (s : State) (st : Stall) : (s.setStall st).migs = s.migs := rfl
@[simp] theorem State.setStall_ptpGood (s : State) (st : Stall) : (s.setStall st).ptpGood = s.ptpGood := rfl
@[simp] theorem State.setStall_cadLatch (s : State) (st : Stall) : (s.setStall st).cadLatch = s.cadLatch := rfl
@[simp] theorem State.setStall_takeoverAt (s : State) (st : Stall) : (s.setStall st).takeoverAt = s.takeoverAt := rfl
@[simp] theorem State.setStall_rdata (s : State) (st : Stall) : (s.setStall st).rdata = s.rdata := rfl
@[simp] theorem State.setStall_ueFrames (s : State) (st : Stall) : (s.setStall st).ueFrames = s.ueFrames := rfl
@[simp] theorem State.setStall_ceFrames (s : State) (st : Stall) : (s.setStall st).ceFrames = s.ceFrames := rfl
@[simp] theorem State.setStall_retired (s : State) (st : Stall) : (s.setStall st).retired = s.retired := rfl
@[simp] theorem State.setStall_inServ (s : State) (st : Stall) : (s.setStall st).inServ = s.inServ := rfl
@[simp] theorem State.setStall_arb (s : State) (st : Stall) : (s.setStall st).arb = s.arb := rfl
@[simp] theorem State.setStall_told (s : State) (st : Stall) : (s.setStall st).told = s.told := rfl
@[simp] theorem State.setStall_mpwEnd (s : State) (st : Stall) : (s.setStall st).mpwEnd = s.mpwEnd := rfl
@[simp] theorem State.setStall_mpwLeft (s : State) (st : Stall) : (s.setStall st).mpwLeft = s.mpwLeft := rfl
@[simp] theorem State.setStall_orphanAt (s : State) (st : Stall) : (s.setStall st).orphanAt = s.orphanAt := rfl
@[simp] theorem State.setStall_rstDue (s : State) (st : Stall) : (s.setStall st).rstDue = s.rstDue := rfl
@[simp] theorem State.setStall_fwLen (s : State) (st : Stall) : (s.setStall st).fwLen = s.fwLen := rfl
@[simp] theorem State.setStall_pkg (s : State) (st : Stall) : (s.setStall st).pkg = s.pkg := rfl
@[simp] theorem State.setStall_warm (s : State) (st : Stall) : (s.setStall st).warm = s.warm := rfl
@[simp] theorem State.setStall_root (s : State) (st : Stall) : (s.setStall st).root = s.root := rfl
@[simp] theorem State.setStall_monGrant (s : State) (st : Stall) : (s.setStall st).monGrant = s.monGrant := rfl
@[simp] theorem State.setStall_frozen (s : State) (st : Stall) : (s.setStall st).frozen = s.frozen := rfl
@[simp] theorem State.setStall_nonceAt (s : State) (st : Stall) : (s.setStall st).nonceAt = s.nonceAt := rfl
@[simp] theorem State.setStall_failAt (s : State) (st : Stall) : (s.setStall st).failAt = s.failAt := rfl
@[simp] theorem State.setStall_otpEpoch (s : State) (st : Stall) : (s.setStall st).otpEpoch = s.otpEpoch := rfl
@[simp] theorem State.setStall_otpRevoked (s : State) (st : Stall) : (s.setStall st).otpRevoked = s.otpRevoked := rfl
@[simp] theorem State.setStall_tapIr (s : State) (st : Stall) : (s.setStall st).tapIr = s.tapIr := rfl
@[simp] theorem State.setStall_tapDr (s : State) (st : Stall) : (s.setStall st).tapDr = s.tapDr := rfl
@[simp] theorem State.setStall_pads (s : State) (st : Stall) : (s.setStall st).pads = s.pads := rfl
@[simp] theorem State.setStall_pinLow (s : State) (st : Stall) : (s.setStall st).pinLow = s.pinLow := rfl
@[simp] theorem State.setStall_hot (s : State) (st : Stall) : (s.setStall st).hot = s.hot := rfl
@[simp] theorem State.setStall_trip (s : State) (st : Stall) : (s.setStall st).trip = s.trip := rfl
@[simp] theorem State.setStall_alert (s : State) (st : Stall) : (s.setStall st).alert = s.alert := rfl
@[simp] theorem State.setStall_mgmt (s : State) (st : Stall) : (s.setStall st).mgmt = s.mgmt := rfl
@[simp] theorem State.setStall_chainIn (s : State) (st : Stall) : (s.setStall st).chainIn = s.chainIn := rfl
@[simp] theorem State.setStall_chainAt (s : State) (st : Stall) : (s.setStall st).chainAt = s.chainAt := rfl
@[simp] theorem State.setStall_chainUp (s : State) (st : Stall) : (s.setStall st).chainUp = s.chainUp := rfl
@[simp] theorem State.setStall_perst (s : State) (st : Stall) : (s.setStall st).perst = s.perst := rfl
@[simp] theorem State.setStall_resetN (s : State) (st : Stall) : (s.setStall st).resetN = s.resetN := rfl
@[simp] theorem State.setStall_testEn (s : State) (st : Stall) : (s.setStall st).testEn = s.testEn := rfl
@[simp] theorem State.setStall_rails (s : State) (st : Stall) : (s.setStall st).rails = s.rails := rfl
@[simp] theorem State.setStall_clocks (s : State) (st : Stall) : (s.setStall st).clocks = s.clocks := rfl
@[simp] theorem State.setStall_railLost (s : State) (st : Stall) : (s.setStall st).railLost = s.railLost := rfl
@[simp] theorem State.setStall_held (s : State) (st : Stall) : (s.setStall st).held = s.held := rfl
@[simp] theorem State.setStall_waking (s : State) (st : Stall) : (s.setStall st).waking = s.waking := rfl
@[simp] theorem State.setStall_wakeN (s : State) (st : Stall) : (s.setStall st).wakeN = s.wakeN := rfl

/-! ### What hbmWrite leaves -/

@[simp] theorem State.hbmWrite_pending (s : State) (a : Nat) (bs : Bytes) : (s.hbmWrite a bs).pending = s.pending := rfl
@[simp] theorem State.hbmWrite_time (s : State) (a : Nat) (bs : Bytes) : (s.hbmWrite a bs).time = s.time := rfl
@[simp] theorem State.hbmWrite_free (s : State) (a : Nat) (bs : Bytes) : (s.hbmWrite a bs).free = s.free := rfl
@[simp] theorem State.hbmWrite_mode (s : State) (a : Nat) (bs : Bytes) : (s.hbmWrite a bs).mode = s.mode := rfl
@[simp] theorem State.hbmWrite_prior (s : State) (a : Nat) (bs : Bytes) : (s.hbmWrite a bs).prior = s.prior := rfl
@[simp] theorem State.hbmWrite_detail (s : State) (a : Nat) (bs : Bytes) : (s.hbmWrite a bs).detail = s.detail := rfl
@[simp] theorem State.hbmWrite_regs (s : State) (a : Nat) (bs : Bytes) : (s.hbmWrite a bs).regs = s.regs := rfl
@[simp] theorem State.hbmWrite_host (s : State) (a : Nat) (bs : Bytes) : (s.hbmWrite a bs).host = s.host := rfl
@[simp] theorem State.hbmWrite_out (s : State) (a : Nat) (bs : Bytes) : (s.hbmWrite a bs).out = s.out := rfl
@[simp] theorem State.hbmWrite_titles (s : State) (a : Nat) (bs : Bytes) : (s.hbmWrite a bs).titles = s.titles := rfl
@[simp] theorem State.hbmWrite_stalls (s : State) (a : Nat) (bs : Bytes) : (s.hbmWrite a bs).stalls = s.stalls := rfl
@[simp] theorem State.hbmWrite_sbuf (s : State) (a : Nat) (bs : Bytes) : (s.hbmWrite a bs).sbuf = s.sbuf := rfl
@[simp] theorem State.hbmWrite_log (s : State) (a : Nat) (bs : Bytes) : (s.hbmWrite a bs).log = s.log := rfl
@[simp] theorem State.hbmWrite_logSeq (s : State) (a : Nat) (bs : Bytes) : (s.hbmWrite a bs).logSeq = s.logSeq := rfl
@[simp] theorem State.hbmWrite_captured (s : State) (a : Nat) (bs : Bytes) : (s.hbmWrite a bs).captured = s.captured := rfl
@[simp] theorem State.hbmWrite_dropped (s : State) (a : Nat) (bs : Bytes) : (s.hbmWrite a bs).dropped = s.dropped := rfl
@[simp] theorem State.hbmWrite_rings (s : State) (a : Nat) (bs : Bytes) : (s.hbmWrite a bs).rings = s.rings := rfl
@[simp] theorem State.hbmWrite_linkUp (s : State) (a : Nat) (bs : Bytes) : (s.hbmWrite a bs).linkUp = s.linkUp := rfl
@[simp] theorem State.hbmWrite_reqTaken (s : State) (a : Nat) (bs : Bytes) : (s.hbmWrite a bs).reqTaken = s.reqTaken := rfl
@[simp] theorem State.hbmWrite_xfaults (s : State) (a : Nat) (bs : Bytes) : (s.hbmWrite a bs).xfaults = s.xfaults := rfl
@[simp] theorem State.hbmWrite_streams (s : State) (a : Nat) (bs : Bytes) : (s.hbmWrite a bs).streams = s.streams := rfl
@[simp] theorem State.hbmWrite_validating (s : State) (a : Nat) (bs : Bytes) : (s.hbmWrite a bs).validating = s.validating := rfl
@[simp] theorem State.hbmWrite_encChange (s : State) (a : Nat) (bs : Bytes) : (s.hbmWrite a bs).encChange = s.encChange := rfl
@[simp] theorem State.hbmWrite_encJobs (s : State) (a : Nat) (bs : Bytes) : (s.hbmWrite a bs).encJobs = s.encJobs := rfl
@[simp] theorem State.hbmWrite_encFront (s : State) (a : Nat) (bs : Bytes) : (s.hbmWrite a bs).encFront = s.encFront := rfl
@[simp] theorem State.hbmWrite_spareDue (s : State) (a : Nat) (bs : Bytes) : (s.hbmWrite a bs).spareDue = s.spareDue := rfl
@[simp] theorem State.hbmWrite_mon (s : State) (a : Nat) (bs : Bytes) : (s.hbmWrite a bs).mon = s.mon := rfl
@[simp] theorem State.hbmWrite_swapReq (s : State) (a : Nat) (bs : Bytes) : (s.hbmWrite a bs).swapReq = s.swapReq := rfl
@[simp] theorem State.hbmWrite_deferred (s : State) (a : Nat) (bs : Bytes) : (s.hbmWrite a bs).deferred = s.deferred := rfl
@[simp] theorem State.hbmWrite_resident (s : State) (a : Nat) (bs : Bytes) : (s.hbmWrite a bs).resident = s.resident := rfl
@[simp] theorem State.hbmWrite_hsubs (s : State) (a : Nat) (bs : Bytes) : (s.hbmWrite a bs).hsubs = s.hsubs := rfl
@[simp] theorem State.hbmWrite_movs (s : State) (a : Nat) (bs : Bytes) : (s.hbmWrite a bs).movs = s.movs := rfl
@[simp] theorem State.hbmWrite_movLast (s : State) (a : Nat) (bs : Bytes) : (s.hbmWrite a bs).movLast = s.movLast := rfl
@[simp] theorem State.hbmWrite_links (s : State) (a : Nat) (bs : Bytes) : (s.hbmWrite a bs).links = s.links := rfl
@[simp] theorem State.hbmWrite_ingress (s : State) (a : Nat) (bs : Bytes) : (s.hbmWrite a bs).ingress = s.ingress := rfl
@[simp] theorem State.hbmWrite_flows (s : State) (a : Nat) (bs : Bytes) : (s.hbmWrite a bs).flows = s.flows := rfl
@[simp] theorem State.hbmWrite_keys (s : State) (a : Nat) (bs : Bytes) : (s.hbmWrite a bs).keys = s.keys := rfl
@[simp] theorem State.hbmWrite_nets (s : State) (a : Nat) (bs : Bytes) : (s.hbmWrite a bs).nets = s.nets := rfl
@[simp] theorem State.hbmWrite_addrs (s : State) (a : Nat) (bs : Bytes) : (s.hbmWrite a bs).addrs = s.addrs := rfl
@[simp] theorem State.hbmWrite_routes (s : State) (a : Nat) (bs : Bytes) : (s.hbmWrite a bs).routes = s.routes := rfl
@[simp] theorem State.hbmWrite_peers (s : State) (a : Nat) (bs : Bytes) : (s.hbmWrite a bs).peers = s.peers := rfl
@[simp] theorem State.hbmWrite_mcastPn (s : State) (a : Nat) (bs : Bytes) : (s.hbmWrite a bs).mcastPn = s.mcastPn := rfl
@[simp] theorem State.hbmWrite_yardKeyUsed (s : State) (a : Nat) (bs : Bytes) : (s.hbmWrite a bs).yardKeyUsed = s.yardKeyUsed := rfl
@[simp] theorem State.hbmWrite_leaving (s : State) (a : Nat) (bs : Bytes) : (s.hbmWrite a bs).leaving = s.leaving := rfl
@[simp] theorem State.hbmWrite_slew (s : State) (a : Nat) (bs : Bytes) : (s.hbmWrite a bs).slew = s.slew := rfl
@[simp] theorem State.hbmWrite_slewAcc (s : State) (a : Nat) (bs : Bytes) : (s.hbmWrite a bs).slewAcc = s.slewAcc := rfl
@[simp] theorem State.hbmWrite_yardOn (s : State) (a : Nat) (bs : Bytes) : (s.hbmWrite a bs).yardOn = s.yardOn := rfl
@[simp] theorem State.hbmWrite_leaveYard (s : State) (a : Nat) (bs : Bytes) : (s.hbmWrite a bs).leaveYard = s.leaveYard := rfl
@[simp] theorem State.hbmWrite_early (s : State) (a : Nat) (bs : Bytes) : (s.hbmWrite a bs).early = s.early := rfl
@[simp] theorem State.hbmWrite_heard (s : State) (a : Nat) (bs : Bytes) : (s.hbmWrite a bs).heard = s.heard := rfl
@[simp] theorem State.hbmWrite_helloPns (s : State) (a : Nat) (bs : Bytes) : (s.hbmWrite a bs).helloPns = s.helloPns := rfl
@[simp] theorem State.hbmWrite_hellos (s : State) (a : Nat) (bs : Bytes) : (s.hbmWrite a bs).hellos = s.hellos := rfl
@[simp] theorem State.hbmWrite_helloAt (s : State) (a : Nat) (bs : Bytes) : (s.hbmWrite a bs).helloAt = s.helloAt := rfl
@[simp] theorem State.hbmWrite_migs (s : State) (a : Nat) (bs : Bytes) : (s.hbmWrite a bs).migs = s.migs := rfl
@[simp] theorem State.hbmWrite_ptpGood (s : State) (a : Nat) (bs : Bytes) : (s.hbmWrite a bs).ptpGood = s.ptpGood := rfl
@[simp] theorem State.hbmWrite_cadLatch (s : State) (a : Nat) (bs : Bytes) : (s.hbmWrite a bs).cadLatch = s.cadLatch := rfl
@[simp] theorem State.hbmWrite_takeoverAt (s : State) (a : Nat) (bs : Bytes) : (s.hbmWrite a bs).takeoverAt = s.takeoverAt := rfl
@[simp] theorem State.hbmWrite_rdata (s : State) (a : Nat) (bs : Bytes) : (s.hbmWrite a bs).rdata = s.rdata := rfl
@[simp] theorem State.hbmWrite_ueFrames (s : State) (a : Nat) (bs : Bytes) : (s.hbmWrite a bs).ueFrames = s.ueFrames := rfl
@[simp] theorem State.hbmWrite_ceFrames (s : State) (a : Nat) (bs : Bytes) : (s.hbmWrite a bs).ceFrames = s.ceFrames := rfl
@[simp] theorem State.hbmWrite_retired (s : State) (a : Nat) (bs : Bytes) : (s.hbmWrite a bs).retired = s.retired := rfl
@[simp] theorem State.hbmWrite_inServ (s : State) (a : Nat) (bs : Bytes) : (s.hbmWrite a bs).inServ = s.inServ := rfl
@[simp] theorem State.hbmWrite_arb (s : State) (a : Nat) (bs : Bytes) : (s.hbmWrite a bs).arb = s.arb := rfl
@[simp] theorem State.hbmWrite_told (s : State) (a : Nat) (bs : Bytes) : (s.hbmWrite a bs).told = s.told := rfl
@[simp] theorem State.hbmWrite_mpwEnd (s : State) (a : Nat) (bs : Bytes) : (s.hbmWrite a bs).mpwEnd = s.mpwEnd := rfl
@[simp] theorem State.hbmWrite_mpwLeft (s : State) (a : Nat) (bs : Bytes) : (s.hbmWrite a bs).mpwLeft = s.mpwLeft := rfl
@[simp] theorem State.hbmWrite_orphanAt (s : State) (a : Nat) (bs : Bytes) : (s.hbmWrite a bs).orphanAt = s.orphanAt := rfl
@[simp] theorem State.hbmWrite_rstDue (s : State) (a : Nat) (bs : Bytes) : (s.hbmWrite a bs).rstDue = s.rstDue := rfl
@[simp] theorem State.hbmWrite_fwLen (s : State) (a : Nat) (bs : Bytes) : (s.hbmWrite a bs).fwLen = s.fwLen := rfl
@[simp] theorem State.hbmWrite_pkg (s : State) (a : Nat) (bs : Bytes) : (s.hbmWrite a bs).pkg = s.pkg := rfl
@[simp] theorem State.hbmWrite_warm (s : State) (a : Nat) (bs : Bytes) : (s.hbmWrite a bs).warm = s.warm := rfl
@[simp] theorem State.hbmWrite_root (s : State) (a : Nat) (bs : Bytes) : (s.hbmWrite a bs).root = s.root := rfl
@[simp] theorem State.hbmWrite_monGrant (s : State) (a : Nat) (bs : Bytes) : (s.hbmWrite a bs).monGrant = s.monGrant := rfl
@[simp] theorem State.hbmWrite_frozen (s : State) (a : Nat) (bs : Bytes) : (s.hbmWrite a bs).frozen = s.frozen := rfl
@[simp] theorem State.hbmWrite_nonceAt (s : State) (a : Nat) (bs : Bytes) : (s.hbmWrite a bs).nonceAt = s.nonceAt := rfl
@[simp] theorem State.hbmWrite_failAt (s : State) (a : Nat) (bs : Bytes) : (s.hbmWrite a bs).failAt = s.failAt := rfl
@[simp] theorem State.hbmWrite_otpEpoch (s : State) (a : Nat) (bs : Bytes) : (s.hbmWrite a bs).otpEpoch = s.otpEpoch := rfl
@[simp] theorem State.hbmWrite_otpRevoked (s : State) (a : Nat) (bs : Bytes) : (s.hbmWrite a bs).otpRevoked = s.otpRevoked := rfl
@[simp] theorem State.hbmWrite_tapIr (s : State) (a : Nat) (bs : Bytes) : (s.hbmWrite a bs).tapIr = s.tapIr := rfl
@[simp] theorem State.hbmWrite_tapDr (s : State) (a : Nat) (bs : Bytes) : (s.hbmWrite a bs).tapDr = s.tapDr := rfl
@[simp] theorem State.hbmWrite_pads (s : State) (a : Nat) (bs : Bytes) : (s.hbmWrite a bs).pads = s.pads := rfl
@[simp] theorem State.hbmWrite_pinLow (s : State) (a : Nat) (bs : Bytes) : (s.hbmWrite a bs).pinLow = s.pinLow := rfl
@[simp] theorem State.hbmWrite_hot (s : State) (a : Nat) (bs : Bytes) : (s.hbmWrite a bs).hot = s.hot := rfl
@[simp] theorem State.hbmWrite_trip (s : State) (a : Nat) (bs : Bytes) : (s.hbmWrite a bs).trip = s.trip := rfl
@[simp] theorem State.hbmWrite_alert (s : State) (a : Nat) (bs : Bytes) : (s.hbmWrite a bs).alert = s.alert := rfl
@[simp] theorem State.hbmWrite_mgmt (s : State) (a : Nat) (bs : Bytes) : (s.hbmWrite a bs).mgmt = s.mgmt := rfl
@[simp] theorem State.hbmWrite_chainIn (s : State) (a : Nat) (bs : Bytes) : (s.hbmWrite a bs).chainIn = s.chainIn := rfl
@[simp] theorem State.hbmWrite_chainAt (s : State) (a : Nat) (bs : Bytes) : (s.hbmWrite a bs).chainAt = s.chainAt := rfl
@[simp] theorem State.hbmWrite_chainUp (s : State) (a : Nat) (bs : Bytes) : (s.hbmWrite a bs).chainUp = s.chainUp := rfl
@[simp] theorem State.hbmWrite_perst (s : State) (a : Nat) (bs : Bytes) : (s.hbmWrite a bs).perst = s.perst := rfl
@[simp] theorem State.hbmWrite_resetN (s : State) (a : Nat) (bs : Bytes) : (s.hbmWrite a bs).resetN = s.resetN := rfl
@[simp] theorem State.hbmWrite_testEn (s : State) (a : Nat) (bs : Bytes) : (s.hbmWrite a bs).testEn = s.testEn := rfl
@[simp] theorem State.hbmWrite_rails (s : State) (a : Nat) (bs : Bytes) : (s.hbmWrite a bs).rails = s.rails := rfl
@[simp] theorem State.hbmWrite_clocks (s : State) (a : Nat) (bs : Bytes) : (s.hbmWrite a bs).clocks = s.clocks := rfl
@[simp] theorem State.hbmWrite_railLost (s : State) (a : Nat) (bs : Bytes) : (s.hbmWrite a bs).railLost = s.railLost := rfl
@[simp] theorem State.hbmWrite_held (s : State) (a : Nat) (bs : Bytes) : (s.hbmWrite a bs).held = s.held := rfl
@[simp] theorem State.hbmWrite_waking (s : State) (a : Nat) (bs : Bytes) : (s.hbmWrite a bs).waking = s.waking := rfl
@[simp] theorem State.hbmWrite_wakeN (s : State) (a : Nat) (bs : Bytes) : (s.hbmWrite a bs).wakeN = s.wakeN := rfl

/-! ### What hostWrite leaves -/

@[simp] theorem State.hostWrite_pending (s : State) (a : Nat) (bs : Bytes) : (s.hostWrite a bs).pending = s.pending := rfl
@[simp] theorem State.hostWrite_time (s : State) (a : Nat) (bs : Bytes) : (s.hostWrite a bs).time = s.time := rfl
@[simp] theorem State.hostWrite_free (s : State) (a : Nat) (bs : Bytes) : (s.hostWrite a bs).free = s.free := rfl
@[simp] theorem State.hostWrite_mode (s : State) (a : Nat) (bs : Bytes) : (s.hostWrite a bs).mode = s.mode := rfl
@[simp] theorem State.hostWrite_prior (s : State) (a : Nat) (bs : Bytes) : (s.hostWrite a bs).prior = s.prior := rfl
@[simp] theorem State.hostWrite_detail (s : State) (a : Nat) (bs : Bytes) : (s.hostWrite a bs).detail = s.detail := rfl
@[simp] theorem State.hostWrite_regs (s : State) (a : Nat) (bs : Bytes) : (s.hostWrite a bs).regs = s.regs := rfl
@[simp] theorem State.hostWrite_hbm (s : State) (a : Nat) (bs : Bytes) : (s.hostWrite a bs).hbm = s.hbm := rfl
@[simp] theorem State.hostWrite_out (s : State) (a : Nat) (bs : Bytes) : (s.hostWrite a bs).out = s.out := rfl
@[simp] theorem State.hostWrite_titles (s : State) (a : Nat) (bs : Bytes) : (s.hostWrite a bs).titles = s.titles := rfl
@[simp] theorem State.hostWrite_stalls (s : State) (a : Nat) (bs : Bytes) : (s.hostWrite a bs).stalls = s.stalls := rfl
@[simp] theorem State.hostWrite_sbuf (s : State) (a : Nat) (bs : Bytes) : (s.hostWrite a bs).sbuf = s.sbuf := rfl
@[simp] theorem State.hostWrite_log (s : State) (a : Nat) (bs : Bytes) : (s.hostWrite a bs).log = s.log := rfl
@[simp] theorem State.hostWrite_logSeq (s : State) (a : Nat) (bs : Bytes) : (s.hostWrite a bs).logSeq = s.logSeq := rfl
@[simp] theorem State.hostWrite_captured (s : State) (a : Nat) (bs : Bytes) : (s.hostWrite a bs).captured = s.captured := rfl
@[simp] theorem State.hostWrite_dropped (s : State) (a : Nat) (bs : Bytes) : (s.hostWrite a bs).dropped = s.dropped := rfl
@[simp] theorem State.hostWrite_rings (s : State) (a : Nat) (bs : Bytes) : (s.hostWrite a bs).rings = s.rings := rfl
@[simp] theorem State.hostWrite_linkUp (s : State) (a : Nat) (bs : Bytes) : (s.hostWrite a bs).linkUp = s.linkUp := rfl
@[simp] theorem State.hostWrite_reqTaken (s : State) (a : Nat) (bs : Bytes) : (s.hostWrite a bs).reqTaken = s.reqTaken := rfl
@[simp] theorem State.hostWrite_xfaults (s : State) (a : Nat) (bs : Bytes) : (s.hostWrite a bs).xfaults = s.xfaults := rfl
@[simp] theorem State.hostWrite_streams (s : State) (a : Nat) (bs : Bytes) : (s.hostWrite a bs).streams = s.streams := rfl
@[simp] theorem State.hostWrite_validating (s : State) (a : Nat) (bs : Bytes) : (s.hostWrite a bs).validating = s.validating := rfl
@[simp] theorem State.hostWrite_encChange (s : State) (a : Nat) (bs : Bytes) : (s.hostWrite a bs).encChange = s.encChange := rfl
@[simp] theorem State.hostWrite_encJobs (s : State) (a : Nat) (bs : Bytes) : (s.hostWrite a bs).encJobs = s.encJobs := rfl
@[simp] theorem State.hostWrite_encFront (s : State) (a : Nat) (bs : Bytes) : (s.hostWrite a bs).encFront = s.encFront := rfl
@[simp] theorem State.hostWrite_spareDue (s : State) (a : Nat) (bs : Bytes) : (s.hostWrite a bs).spareDue = s.spareDue := rfl
@[simp] theorem State.hostWrite_mon (s : State) (a : Nat) (bs : Bytes) : (s.hostWrite a bs).mon = s.mon := rfl
@[simp] theorem State.hostWrite_swapReq (s : State) (a : Nat) (bs : Bytes) : (s.hostWrite a bs).swapReq = s.swapReq := rfl
@[simp] theorem State.hostWrite_deferred (s : State) (a : Nat) (bs : Bytes) : (s.hostWrite a bs).deferred = s.deferred := rfl
@[simp] theorem State.hostWrite_resident (s : State) (a : Nat) (bs : Bytes) : (s.hostWrite a bs).resident = s.resident := rfl
@[simp] theorem State.hostWrite_hsubs (s : State) (a : Nat) (bs : Bytes) : (s.hostWrite a bs).hsubs = s.hsubs := rfl
@[simp] theorem State.hostWrite_movs (s : State) (a : Nat) (bs : Bytes) : (s.hostWrite a bs).movs = s.movs := rfl
@[simp] theorem State.hostWrite_movLast (s : State) (a : Nat) (bs : Bytes) : (s.hostWrite a bs).movLast = s.movLast := rfl
@[simp] theorem State.hostWrite_links (s : State) (a : Nat) (bs : Bytes) : (s.hostWrite a bs).links = s.links := rfl
@[simp] theorem State.hostWrite_ingress (s : State) (a : Nat) (bs : Bytes) : (s.hostWrite a bs).ingress = s.ingress := rfl
@[simp] theorem State.hostWrite_flows (s : State) (a : Nat) (bs : Bytes) : (s.hostWrite a bs).flows = s.flows := rfl
@[simp] theorem State.hostWrite_keys (s : State) (a : Nat) (bs : Bytes) : (s.hostWrite a bs).keys = s.keys := rfl
@[simp] theorem State.hostWrite_nets (s : State) (a : Nat) (bs : Bytes) : (s.hostWrite a bs).nets = s.nets := rfl
@[simp] theorem State.hostWrite_addrs (s : State) (a : Nat) (bs : Bytes) : (s.hostWrite a bs).addrs = s.addrs := rfl
@[simp] theorem State.hostWrite_routes (s : State) (a : Nat) (bs : Bytes) : (s.hostWrite a bs).routes = s.routes := rfl
@[simp] theorem State.hostWrite_peers (s : State) (a : Nat) (bs : Bytes) : (s.hostWrite a bs).peers = s.peers := rfl
@[simp] theorem State.hostWrite_mcastPn (s : State) (a : Nat) (bs : Bytes) : (s.hostWrite a bs).mcastPn = s.mcastPn := rfl
@[simp] theorem State.hostWrite_yardKeyUsed (s : State) (a : Nat) (bs : Bytes) : (s.hostWrite a bs).yardKeyUsed = s.yardKeyUsed := rfl
@[simp] theorem State.hostWrite_leaving (s : State) (a : Nat) (bs : Bytes) : (s.hostWrite a bs).leaving = s.leaving := rfl
@[simp] theorem State.hostWrite_slew (s : State) (a : Nat) (bs : Bytes) : (s.hostWrite a bs).slew = s.slew := rfl
@[simp] theorem State.hostWrite_slewAcc (s : State) (a : Nat) (bs : Bytes) : (s.hostWrite a bs).slewAcc = s.slewAcc := rfl
@[simp] theorem State.hostWrite_yardOn (s : State) (a : Nat) (bs : Bytes) : (s.hostWrite a bs).yardOn = s.yardOn := rfl
@[simp] theorem State.hostWrite_leaveYard (s : State) (a : Nat) (bs : Bytes) : (s.hostWrite a bs).leaveYard = s.leaveYard := rfl
@[simp] theorem State.hostWrite_early (s : State) (a : Nat) (bs : Bytes) : (s.hostWrite a bs).early = s.early := rfl
@[simp] theorem State.hostWrite_heard (s : State) (a : Nat) (bs : Bytes) : (s.hostWrite a bs).heard = s.heard := rfl
@[simp] theorem State.hostWrite_helloPns (s : State) (a : Nat) (bs : Bytes) : (s.hostWrite a bs).helloPns = s.helloPns := rfl
@[simp] theorem State.hostWrite_hellos (s : State) (a : Nat) (bs : Bytes) : (s.hostWrite a bs).hellos = s.hellos := rfl
@[simp] theorem State.hostWrite_helloAt (s : State) (a : Nat) (bs : Bytes) : (s.hostWrite a bs).helloAt = s.helloAt := rfl
@[simp] theorem State.hostWrite_migs (s : State) (a : Nat) (bs : Bytes) : (s.hostWrite a bs).migs = s.migs := rfl
@[simp] theorem State.hostWrite_ptpGood (s : State) (a : Nat) (bs : Bytes) : (s.hostWrite a bs).ptpGood = s.ptpGood := rfl
@[simp] theorem State.hostWrite_cadLatch (s : State) (a : Nat) (bs : Bytes) : (s.hostWrite a bs).cadLatch = s.cadLatch := rfl
@[simp] theorem State.hostWrite_takeoverAt (s : State) (a : Nat) (bs : Bytes) : (s.hostWrite a bs).takeoverAt = s.takeoverAt := rfl
@[simp] theorem State.hostWrite_rdata (s : State) (a : Nat) (bs : Bytes) : (s.hostWrite a bs).rdata = s.rdata := rfl
@[simp] theorem State.hostWrite_ueFrames (s : State) (a : Nat) (bs : Bytes) : (s.hostWrite a bs).ueFrames = s.ueFrames := rfl
@[simp] theorem State.hostWrite_ceFrames (s : State) (a : Nat) (bs : Bytes) : (s.hostWrite a bs).ceFrames = s.ceFrames := rfl
@[simp] theorem State.hostWrite_retired (s : State) (a : Nat) (bs : Bytes) : (s.hostWrite a bs).retired = s.retired := rfl
@[simp] theorem State.hostWrite_inServ (s : State) (a : Nat) (bs : Bytes) : (s.hostWrite a bs).inServ = s.inServ := rfl
@[simp] theorem State.hostWrite_arb (s : State) (a : Nat) (bs : Bytes) : (s.hostWrite a bs).arb = s.arb := rfl
@[simp] theorem State.hostWrite_told (s : State) (a : Nat) (bs : Bytes) : (s.hostWrite a bs).told = s.told := rfl
@[simp] theorem State.hostWrite_mpwEnd (s : State) (a : Nat) (bs : Bytes) : (s.hostWrite a bs).mpwEnd = s.mpwEnd := rfl
@[simp] theorem State.hostWrite_mpwLeft (s : State) (a : Nat) (bs : Bytes) : (s.hostWrite a bs).mpwLeft = s.mpwLeft := rfl
@[simp] theorem State.hostWrite_orphanAt (s : State) (a : Nat) (bs : Bytes) : (s.hostWrite a bs).orphanAt = s.orphanAt := rfl
@[simp] theorem State.hostWrite_rstDue (s : State) (a : Nat) (bs : Bytes) : (s.hostWrite a bs).rstDue = s.rstDue := rfl
@[simp] theorem State.hostWrite_fwLen (s : State) (a : Nat) (bs : Bytes) : (s.hostWrite a bs).fwLen = s.fwLen := rfl
@[simp] theorem State.hostWrite_pkg (s : State) (a : Nat) (bs : Bytes) : (s.hostWrite a bs).pkg = s.pkg := rfl
@[simp] theorem State.hostWrite_warm (s : State) (a : Nat) (bs : Bytes) : (s.hostWrite a bs).warm = s.warm := rfl
@[simp] theorem State.hostWrite_root (s : State) (a : Nat) (bs : Bytes) : (s.hostWrite a bs).root = s.root := rfl
@[simp] theorem State.hostWrite_monGrant (s : State) (a : Nat) (bs : Bytes) : (s.hostWrite a bs).monGrant = s.monGrant := rfl
@[simp] theorem State.hostWrite_frozen (s : State) (a : Nat) (bs : Bytes) : (s.hostWrite a bs).frozen = s.frozen := rfl
@[simp] theorem State.hostWrite_nonceAt (s : State) (a : Nat) (bs : Bytes) : (s.hostWrite a bs).nonceAt = s.nonceAt := rfl
@[simp] theorem State.hostWrite_failAt (s : State) (a : Nat) (bs : Bytes) : (s.hostWrite a bs).failAt = s.failAt := rfl
@[simp] theorem State.hostWrite_otpEpoch (s : State) (a : Nat) (bs : Bytes) : (s.hostWrite a bs).otpEpoch = s.otpEpoch := rfl
@[simp] theorem State.hostWrite_otpRevoked (s : State) (a : Nat) (bs : Bytes) : (s.hostWrite a bs).otpRevoked = s.otpRevoked := rfl
@[simp] theorem State.hostWrite_tapIr (s : State) (a : Nat) (bs : Bytes) : (s.hostWrite a bs).tapIr = s.tapIr := rfl
@[simp] theorem State.hostWrite_tapDr (s : State) (a : Nat) (bs : Bytes) : (s.hostWrite a bs).tapDr = s.tapDr := rfl
@[simp] theorem State.hostWrite_pads (s : State) (a : Nat) (bs : Bytes) : (s.hostWrite a bs).pads = s.pads := rfl
@[simp] theorem State.hostWrite_pinLow (s : State) (a : Nat) (bs : Bytes) : (s.hostWrite a bs).pinLow = s.pinLow := rfl
@[simp] theorem State.hostWrite_hot (s : State) (a : Nat) (bs : Bytes) : (s.hostWrite a bs).hot = s.hot := rfl
@[simp] theorem State.hostWrite_trip (s : State) (a : Nat) (bs : Bytes) : (s.hostWrite a bs).trip = s.trip := rfl
@[simp] theorem State.hostWrite_alert (s : State) (a : Nat) (bs : Bytes) : (s.hostWrite a bs).alert = s.alert := rfl
@[simp] theorem State.hostWrite_mgmt (s : State) (a : Nat) (bs : Bytes) : (s.hostWrite a bs).mgmt = s.mgmt := rfl
@[simp] theorem State.hostWrite_chainIn (s : State) (a : Nat) (bs : Bytes) : (s.hostWrite a bs).chainIn = s.chainIn := rfl
@[simp] theorem State.hostWrite_chainAt (s : State) (a : Nat) (bs : Bytes) : (s.hostWrite a bs).chainAt = s.chainAt := rfl
@[simp] theorem State.hostWrite_chainUp (s : State) (a : Nat) (bs : Bytes) : (s.hostWrite a bs).chainUp = s.chainUp := rfl
@[simp] theorem State.hostWrite_perst (s : State) (a : Nat) (bs : Bytes) : (s.hostWrite a bs).perst = s.perst := rfl
@[simp] theorem State.hostWrite_resetN (s : State) (a : Nat) (bs : Bytes) : (s.hostWrite a bs).resetN = s.resetN := rfl
@[simp] theorem State.hostWrite_testEn (s : State) (a : Nat) (bs : Bytes) : (s.hostWrite a bs).testEn = s.testEn := rfl
@[simp] theorem State.hostWrite_rails (s : State) (a : Nat) (bs : Bytes) : (s.hostWrite a bs).rails = s.rails := rfl
@[simp] theorem State.hostWrite_clocks (s : State) (a : Nat) (bs : Bytes) : (s.hostWrite a bs).clocks = s.clocks := rfl
@[simp] theorem State.hostWrite_railLost (s : State) (a : Nat) (bs : Bytes) : (s.hostWrite a bs).railLost = s.railLost := rfl
@[simp] theorem State.hostWrite_held (s : State) (a : Nat) (bs : Bytes) : (s.hostWrite a bs).held = s.held := rfl
@[simp] theorem State.hostWrite_waking (s : State) (a : Nat) (bs : Bytes) : (s.hostWrite a bs).waking = s.waking := rfl
@[simp] theorem State.hostWrite_wakeN (s : State) (a : Nat) (bs : Bytes) : (s.hostWrite a bs).wakeN = s.wakeN := rfl

/-! ### What resetRange leaves -/

@[simp] theorem State.resetRange_pending (s : State) (a b : Nat) : (s.resetRange a b).pending = s.pending := rfl
@[simp] theorem State.resetRange_time (s : State) (a b : Nat) : (s.resetRange a b).time = s.time := rfl
@[simp] theorem State.resetRange_free (s : State) (a b : Nat) : (s.resetRange a b).free = s.free := rfl
@[simp] theorem State.resetRange_mode (s : State) (a b : Nat) : (s.resetRange a b).mode = s.mode := rfl
@[simp] theorem State.resetRange_prior (s : State) (a b : Nat) : (s.resetRange a b).prior = s.prior := rfl
@[simp] theorem State.resetRange_detail (s : State) (a b : Nat) : (s.resetRange a b).detail = s.detail := rfl
@[simp] theorem State.resetRange_hbm (s : State) (a b : Nat) : (s.resetRange a b).hbm = s.hbm := rfl
@[simp] theorem State.resetRange_host (s : State) (a b : Nat) : (s.resetRange a b).host = s.host := rfl
@[simp] theorem State.resetRange_out (s : State) (a b : Nat) : (s.resetRange a b).out = s.out := rfl
@[simp] theorem State.resetRange_titles (s : State) (a b : Nat) : (s.resetRange a b).titles = s.titles := rfl
@[simp] theorem State.resetRange_stalls (s : State) (a b : Nat) : (s.resetRange a b).stalls = s.stalls := rfl
@[simp] theorem State.resetRange_sbuf (s : State) (a b : Nat) : (s.resetRange a b).sbuf = s.sbuf := rfl
@[simp] theorem State.resetRange_log (s : State) (a b : Nat) : (s.resetRange a b).log = s.log := rfl
@[simp] theorem State.resetRange_logSeq (s : State) (a b : Nat) : (s.resetRange a b).logSeq = s.logSeq := rfl
@[simp] theorem State.resetRange_captured (s : State) (a b : Nat) : (s.resetRange a b).captured = s.captured := rfl
@[simp] theorem State.resetRange_dropped (s : State) (a b : Nat) : (s.resetRange a b).dropped = s.dropped := rfl
@[simp] theorem State.resetRange_rings (s : State) (a b : Nat) : (s.resetRange a b).rings = s.rings := rfl
@[simp] theorem State.resetRange_linkUp (s : State) (a b : Nat) : (s.resetRange a b).linkUp = s.linkUp := rfl
@[simp] theorem State.resetRange_reqTaken (s : State) (a b : Nat) : (s.resetRange a b).reqTaken = s.reqTaken := rfl
@[simp] theorem State.resetRange_xfaults (s : State) (a b : Nat) : (s.resetRange a b).xfaults = s.xfaults := rfl
@[simp] theorem State.resetRange_streams (s : State) (a b : Nat) : (s.resetRange a b).streams = s.streams := rfl
@[simp] theorem State.resetRange_validating (s : State) (a b : Nat) : (s.resetRange a b).validating = s.validating := rfl
@[simp] theorem State.resetRange_encChange (s : State) (a b : Nat) : (s.resetRange a b).encChange = s.encChange := rfl
@[simp] theorem State.resetRange_encJobs (s : State) (a b : Nat) : (s.resetRange a b).encJobs = s.encJobs := rfl
@[simp] theorem State.resetRange_encFront (s : State) (a b : Nat) : (s.resetRange a b).encFront = s.encFront := rfl
@[simp] theorem State.resetRange_spareDue (s : State) (a b : Nat) : (s.resetRange a b).spareDue = s.spareDue := rfl
@[simp] theorem State.resetRange_mon (s : State) (a b : Nat) : (s.resetRange a b).mon = s.mon := rfl
@[simp] theorem State.resetRange_swapReq (s : State) (a b : Nat) : (s.resetRange a b).swapReq = s.swapReq := rfl
@[simp] theorem State.resetRange_deferred (s : State) (a b : Nat) : (s.resetRange a b).deferred = s.deferred := rfl
@[simp] theorem State.resetRange_resident (s : State) (a b : Nat) : (s.resetRange a b).resident = s.resident := rfl
@[simp] theorem State.resetRange_hsubs (s : State) (a b : Nat) : (s.resetRange a b).hsubs = s.hsubs := rfl
@[simp] theorem State.resetRange_movs (s : State) (a b : Nat) : (s.resetRange a b).movs = s.movs := rfl
@[simp] theorem State.resetRange_movLast (s : State) (a b : Nat) : (s.resetRange a b).movLast = s.movLast := rfl
@[simp] theorem State.resetRange_links (s : State) (a b : Nat) : (s.resetRange a b).links = s.links := rfl
@[simp] theorem State.resetRange_ingress (s : State) (a b : Nat) : (s.resetRange a b).ingress = s.ingress := rfl
@[simp] theorem State.resetRange_flows (s : State) (a b : Nat) : (s.resetRange a b).flows = s.flows := rfl
@[simp] theorem State.resetRange_keys (s : State) (a b : Nat) : (s.resetRange a b).keys = s.keys := rfl
@[simp] theorem State.resetRange_nets (s : State) (a b : Nat) : (s.resetRange a b).nets = s.nets := rfl
@[simp] theorem State.resetRange_addrs (s : State) (a b : Nat) : (s.resetRange a b).addrs = s.addrs := rfl
@[simp] theorem State.resetRange_routes (s : State) (a b : Nat) : (s.resetRange a b).routes = s.routes := rfl
@[simp] theorem State.resetRange_peers (s : State) (a b : Nat) : (s.resetRange a b).peers = s.peers := rfl
@[simp] theorem State.resetRange_mcastPn (s : State) (a b : Nat) : (s.resetRange a b).mcastPn = s.mcastPn := rfl
@[simp] theorem State.resetRange_yardKeyUsed (s : State) (a b : Nat) : (s.resetRange a b).yardKeyUsed = s.yardKeyUsed := rfl
@[simp] theorem State.resetRange_leaving (s : State) (a b : Nat) : (s.resetRange a b).leaving = s.leaving := rfl
@[simp] theorem State.resetRange_slew (s : State) (a b : Nat) : (s.resetRange a b).slew = s.slew := rfl
@[simp] theorem State.resetRange_slewAcc (s : State) (a b : Nat) : (s.resetRange a b).slewAcc = s.slewAcc := rfl
@[simp] theorem State.resetRange_yardOn (s : State) (a b : Nat) : (s.resetRange a b).yardOn = s.yardOn := rfl
@[simp] theorem State.resetRange_leaveYard (s : State) (a b : Nat) : (s.resetRange a b).leaveYard = s.leaveYard := rfl
@[simp] theorem State.resetRange_early (s : State) (a b : Nat) : (s.resetRange a b).early = s.early := rfl
@[simp] theorem State.resetRange_heard (s : State) (a b : Nat) : (s.resetRange a b).heard = s.heard := rfl
@[simp] theorem State.resetRange_helloPns (s : State) (a b : Nat) : (s.resetRange a b).helloPns = s.helloPns := rfl
@[simp] theorem State.resetRange_hellos (s : State) (a b : Nat) : (s.resetRange a b).hellos = s.hellos := rfl
@[simp] theorem State.resetRange_helloAt (s : State) (a b : Nat) : (s.resetRange a b).helloAt = s.helloAt := rfl
@[simp] theorem State.resetRange_migs (s : State) (a b : Nat) : (s.resetRange a b).migs = s.migs := rfl
@[simp] theorem State.resetRange_ptpGood (s : State) (a b : Nat) : (s.resetRange a b).ptpGood = s.ptpGood := rfl
@[simp] theorem State.resetRange_cadLatch (s : State) (a b : Nat) : (s.resetRange a b).cadLatch = s.cadLatch := rfl
@[simp] theorem State.resetRange_takeoverAt (s : State) (a b : Nat) : (s.resetRange a b).takeoverAt = s.takeoverAt := rfl
@[simp] theorem State.resetRange_rdata (s : State) (a b : Nat) : (s.resetRange a b).rdata = s.rdata := rfl
@[simp] theorem State.resetRange_ueFrames (s : State) (a b : Nat) : (s.resetRange a b).ueFrames = s.ueFrames := rfl
@[simp] theorem State.resetRange_ceFrames (s : State) (a b : Nat) : (s.resetRange a b).ceFrames = s.ceFrames := rfl
@[simp] theorem State.resetRange_retired (s : State) (a b : Nat) : (s.resetRange a b).retired = s.retired := rfl
@[simp] theorem State.resetRange_inServ (s : State) (a b : Nat) : (s.resetRange a b).inServ = s.inServ := rfl
@[simp] theorem State.resetRange_arb (s : State) (a b : Nat) : (s.resetRange a b).arb = s.arb := rfl
@[simp] theorem State.resetRange_told (s : State) (a b : Nat) : (s.resetRange a b).told = s.told := rfl
@[simp] theorem State.resetRange_mpwEnd (s : State) (a b : Nat) : (s.resetRange a b).mpwEnd = s.mpwEnd := rfl
@[simp] theorem State.resetRange_mpwLeft (s : State) (a b : Nat) : (s.resetRange a b).mpwLeft = s.mpwLeft := rfl
@[simp] theorem State.resetRange_orphanAt (s : State) (a b : Nat) : (s.resetRange a b).orphanAt = s.orphanAt := rfl
@[simp] theorem State.resetRange_rstDue (s : State) (a b : Nat) : (s.resetRange a b).rstDue = s.rstDue := rfl
@[simp] theorem State.resetRange_fwLen (s : State) (a b : Nat) : (s.resetRange a b).fwLen = s.fwLen := rfl
@[simp] theorem State.resetRange_pkg (s : State) (a b : Nat) : (s.resetRange a b).pkg = s.pkg := rfl
@[simp] theorem State.resetRange_warm (s : State) (a b : Nat) : (s.resetRange a b).warm = s.warm := rfl
@[simp] theorem State.resetRange_root (s : State) (a b : Nat) : (s.resetRange a b).root = s.root := rfl
@[simp] theorem State.resetRange_monGrant (s : State) (a b : Nat) : (s.resetRange a b).monGrant = s.monGrant := rfl
@[simp] theorem State.resetRange_frozen (s : State) (a b : Nat) : (s.resetRange a b).frozen = s.frozen := rfl
@[simp] theorem State.resetRange_nonceAt (s : State) (a b : Nat) : (s.resetRange a b).nonceAt = s.nonceAt := rfl
@[simp] theorem State.resetRange_failAt (s : State) (a b : Nat) : (s.resetRange a b).failAt = s.failAt := rfl
@[simp] theorem State.resetRange_otpEpoch (s : State) (a b : Nat) : (s.resetRange a b).otpEpoch = s.otpEpoch := rfl
@[simp] theorem State.resetRange_otpRevoked (s : State) (a b : Nat) : (s.resetRange a b).otpRevoked = s.otpRevoked := rfl
@[simp] theorem State.resetRange_tapIr (s : State) (a b : Nat) : (s.resetRange a b).tapIr = s.tapIr := rfl
@[simp] theorem State.resetRange_tapDr (s : State) (a b : Nat) : (s.resetRange a b).tapDr = s.tapDr := rfl
@[simp] theorem State.resetRange_pads (s : State) (a b : Nat) : (s.resetRange a b).pads = s.pads := rfl
@[simp] theorem State.resetRange_pinLow (s : State) (a b : Nat) : (s.resetRange a b).pinLow = s.pinLow := rfl
@[simp] theorem State.resetRange_hot (s : State) (a b : Nat) : (s.resetRange a b).hot = s.hot := rfl
@[simp] theorem State.resetRange_trip (s : State) (a b : Nat) : (s.resetRange a b).trip = s.trip := rfl
@[simp] theorem State.resetRange_alert (s : State) (a b : Nat) : (s.resetRange a b).alert = s.alert := rfl
@[simp] theorem State.resetRange_mgmt (s : State) (a b : Nat) : (s.resetRange a b).mgmt = s.mgmt := rfl
@[simp] theorem State.resetRange_chainIn (s : State) (a b : Nat) : (s.resetRange a b).chainIn = s.chainIn := rfl
@[simp] theorem State.resetRange_chainAt (s : State) (a b : Nat) : (s.resetRange a b).chainAt = s.chainAt := rfl
@[simp] theorem State.resetRange_chainUp (s : State) (a b : Nat) : (s.resetRange a b).chainUp = s.chainUp := rfl
@[simp] theorem State.resetRange_perst (s : State) (a b : Nat) : (s.resetRange a b).perst = s.perst := rfl
@[simp] theorem State.resetRange_resetN (s : State) (a b : Nat) : (s.resetRange a b).resetN = s.resetN := rfl
@[simp] theorem State.resetRange_testEn (s : State) (a b : Nat) : (s.resetRange a b).testEn = s.testEn := rfl
@[simp] theorem State.resetRange_rails (s : State) (a b : Nat) : (s.resetRange a b).rails = s.rails := rfl
@[simp] theorem State.resetRange_clocks (s : State) (a b : Nat) : (s.resetRange a b).clocks = s.clocks := rfl
@[simp] theorem State.resetRange_railLost (s : State) (a b : Nat) : (s.resetRange a b).railLost = s.railLost := rfl
@[simp] theorem State.resetRange_held (s : State) (a b : Nat) : (s.resetRange a b).held = s.held := rfl
@[simp] theorem State.resetRange_waking (s : State) (a b : Nat) : (s.resetRange a b).waking = s.waking := rfl
@[simp] theorem State.resetRange_wakeN (s : State) (a b : Nat) : (s.resetRange a b).wakeN = s.wakeN := rfl

/-! ### Registers through other updates -/

/-- A field depends on the register file alone. -/
theorem State.get_congr {s t : State} (h : t.regs = s.regs) (f : Fld) : t.get f = s.get f := by unfold State.get; rw [h]

@[simp] theorem State.get_setStall (s : State) (st : Stall) (f : Fld) : (s.setStall st).get f = s.get f := rfl
@[simp] theorem State.get_hbmWrite (s : State) (a : Nat) (bs : Bytes) (f : Fld) : (s.hbmWrite a bs).get f = s.get f := rfl
@[simp] theorem State.get_hostWrite (s : State) (a : Nat) (bs : Bytes) (f : Fld) : (s.hostWrite a bs).get f = s.get f := rfl
@[simp] theorem State.puts_nil (s : State) : s.puts [] = s := rfl
@[simp] theorem State.puts_cons (s : State) (p : Fld × Nat) (l : List (Fld × Nat)) : s.puts (p :: l) = (s.put p.1 p.2).puts l := rfl

/-! ### The store buffer -/

/-- Draining, on a read, by the clock or for want of room, and buffering change the store buffer alone (R128, R130). -/
theorem State.drainOf_eq (s : State) (k : Nat) : s.drainOf k = { s with sbuf := (s.drainOf k).sbuf } := rfl
theorem State.drainOldest_eq (s : State) (p c n : Nat) : s.drainOldest p c n = { s with sbuf := (s.drainOldest p c n).sbuf } := rfl
@[simp] theorem State.drainOf_regs (s : State) (k : Nat) : (s.drainOf k).regs = s.regs := rfl
@[simp] theorem State.drainOf_stalls (s : State) (k : Nat) : (s.drainOf k).stalls = s.stalls := rfl
@[simp] theorem State.drainOf_titles (s : State) (k : Nat) : (s.drainOf k).titles = s.titles := rfl
@[simp] theorem State.drainOf_time (s : State) (k : Nat) : (s.drainOf k).time = s.time := rfl
@[simp] theorem State.drainOf_mode (s : State) (k : Nat) : (s.drainOf k).mode = s.mode := rfl
@[simp] theorem State.drainOf_hbm (s : State) (k : Nat) : (s.drainOf k).hbm = s.hbm := rfl
@[simp] theorem State.get_drainOf (s : State) (k : Nat) (f : Fld) : (s.drainOf k).get f = s.get f := rfl
@[simp] theorem State.stall?_drainOf (s : State) (k j : Nat) : (s.drainOf k).stall? j = s.stall? j := rfl

/-! ### Messages, and records that a write of HBM reaches -/

/-- All that sending an MSI-X message can do: nothing, one pending bit, or one output (R439). -/
theorem State.msix_cases (s : State) (v : Nat) :
    s.msix v = s ∨ s.msix v = s.put (msixPend v) 1 ∨ s.msix v = s.emit (.msix v) := by
  unfold State.msix
  split
  · exact .inl rfl
  · split
    · exact .inr (.inl rfl)
    · exact .inr (.inr rfl)

/-- Bytes of HBM that an agent writes change records of streams and stalls alone (log entry 22). -/
theorem State.takeBytes_eq (s : State) (a : Nat) (bs : Bytes) :
    s.takeBytes a bs = { s with streams := (s.takeBytes a bs).streams, stalls := (s.takeBytes a bs).stalls } := by
  unfold State.takeBytes
  split
  · rfl
  · generalize bs.zipIdx = l
    suffices h : ∀ t : State, t = { s with streams := t.streams, stalls := t.stalls } →
        ∀ u, u = l.foldl (fun s p =>
          let s := s.takeByte (a + p.2) p.1
          if s.twinned (extentOf (a + p.2)) then s.takeByte (twinOf (a + p.2)) p.1 else s) t →
          u = { s with streams := u.streams, stalls := u.stalls } from h s rfl _ rfl
    induction l with
    | nil => intro t h u hu; subst hu; exact h
    | cons p r ih =>
      intro t h u hu
      refine ih _ ?_ u hu
      dsimp only
      rw [h]
      split <;> rfl

/-! ### Stalls -/

@[simp] theorem State.stall?_put (s : State) (f : Fld) (v k : Nat) : (s.put f v).stall? k = s.stall? k := rfl

/-- The stall that a replacement puts in place. -/
theorem State.stall?_setStall_same (s : State) (st x : Stall) (k : Nat) (h : s.stall? k = some x) (hk : st.num = k) :
    (s.setStall st).stall? k = some st := by
  subst hk
  unfold State.stall? State.setStall at *
  simp only
  generalize s.stalls = l at h
  induction l with
  | nil => simp at h
  | cons y r ih =>
    by_cases e : y.num = st.num
    · simp [e]
    · rw [List.find?_cons_of_neg (by simpa using e)] at h
      rw [List.map_cons, List.find?_cons_of_neg (by simp [e])]
      exact ih h

/-- Replacing one stall leaves every stall of another number. -/
theorem State.stall?_setStall_other (s : State) (st : Stall) (k : Nat) (hk : st.num ≠ k) :
    (s.setStall st).stall? k = s.stall? k := by
  unfold State.stall? State.setStall
  simp only
  generalize s.stalls = l
  induction l with
  | nil => rfl
  | cons y r ih =>
    by_cases e : y.num = st.num
    · simp [e, hk]; simpa using ih
    · by_cases e2 : y.num = k
      · have : ¬ k = st.num := fun h => hk h.symm
        simp [e2, this]
      · simp [e, e2]; simpa using ih

/-- A stall found by its number has that number. -/
theorem State.stall?_num {s : State} {k : Nat} {st : Stall} (h : s.stall? k = some st) : st.num = k := by
  unfold State.stall? at h
  simpa using List.find?_some h

end Sys2Proof.Machine
end

