-- ==== Sys2Proof/Laws/Stall.lean ====
section
/-! SUPPORT. What the accesses of a stall leave of it: its processor registers, its place in the schedule and the requests on
it. Every operation on stall memory has a lemma here, and so have the commit of an instruction and an entry. -/
set_option linter.unusedVariables false
namespace Sys2Proof.Machine

/-- Stall b has what stall a has outside its memory, sources, subchannels and units. -/
structure Same (a b : Stall) : Prop where
  num       : b.num = a.num
  title     : b.title = a.title
  cls       : b.cls = a.cls
  ucset     : b.ucset = a.ucset
  lead      : b.lead = a.lead
  f0        : b.f0 = a.f0
  sched     : b.sched = a.sched
  hold      : b.hold = a.hold
  reasons   : b.reasons = a.reasons
  faults    : b.faults = a.faults
  replayTo  : b.replayTo = a.replayTo
  latched   : b.latched = a.latched
  resetAt   : b.resetAt = a.resetAt
  log       : b.log = a.log
  haltPend  : b.haltPend = a.haltPend
  haltWhy   : b.haltWhy = a.haltWhy
  stepping  : b.stepping = a.stepping
  l1        : b.l1 = a.l1

/-- As `Same`, with the processor registers and TICK. -/
structure SameCpu (a b : Stall) : Prop extends Same a b where
  cpu  : b.cpu = a.cpu
  tick : b.tick = a.tick

theorem SameCpu.refl (a : Stall) : SameCpu a a :=
  { num := rfl, title := rfl, cls := rfl, ucset := rfl, lead := rfl, f0 := rfl, sched := rfl, hold := rfl, reasons := rfl
    faults := rfl, replayTo := rfl, latched := rfl, resetAt := rfl, log := rfl, haltPend := rfl, haltWhy := rfl
    stepping := rfl, l1 := rfl, cpu := rfl, tick := rfl }

theorem Same.trans {a b c : Stall} (h : Same a b) (k : Same b c) : Same a c :=
  { num := k.num.trans h.num, title := k.title.trans h.title, cls := k.cls.trans h.cls, ucset := k.ucset.trans h.ucset
    lead := k.lead.trans h.lead, f0 := k.f0.trans h.f0, sched := k.sched.trans h.sched, hold := k.hold.trans h.hold
    reasons := k.reasons.trans h.reasons, faults := k.faults.trans h.faults, replayTo := k.replayTo.trans h.replayTo
    latched := k.latched.trans h.latched, resetAt := k.resetAt.trans h.resetAt, log := k.log.trans h.log
    haltPend := k.haltPend.trans h.haltPend, haltWhy := k.haltWhy.trans h.haltWhy, stepping := k.stepping.trans h.stepping
    l1 := k.l1.trans h.l1 }

theorem SameCpu.trans {a b c : Stall} (h : SameCpu a b) (k : SameCpu b c) : SameCpu a c :=
  { Same.trans h.toSame k.toSame with cpu := k.cpu.trans h.cpu, tick := k.tick.trans h.tick }

/-- A change of the other fields. -/
theorem SameCpu.upd {a b c : Stall} (h : SameCpu a b) (k : SameCpu b c := by exact { SameCpu.refl b with }) : SameCpu a c := h.trans k

theorem SameCpu.foldl {α : Type} {a : Stall} {f : Stall → α → Stall} (hf : ∀ b x, SameCpu a b → SameCpu a (f b x)) (l : List α)
    {b : Stall} (h : SameCpu a b) : SameCpu a (l.foldl f b) := by
  induction l generalizing b with
  | nil => exact h
  | cons x l ih => exact ih (hf b x h)

theorem SameCpu.ite {a b c : Stall} {p : Prop} [Decidable p] (hb : SameCpu a b) (hc : SameCpu a c) :
    SameCpu a (if p then b else c) := by
  split
  · exact hb
  · exact hc

/-- The fields that `SameCpu` names agree. -/
theorem SameCpu.mk' {a b c : Stall} (h : SameCpu a b) (e : (c.num, c.title, c.cls, c.ucset, c.lead, c.f0, c.sched, c.hold, c.reasons)
      = (b.num, b.title, b.cls, b.ucset, b.lead, b.f0, b.sched, b.hold, b.reasons))
    (e2 : (c.faults, c.replayTo, c.latched, c.resetAt, c.log, c.haltPend, c.haltWhy, c.stepping, c.l1, c.cpu, c.tick)
      = (b.faults, b.replayTo, b.latched, b.resetAt, b.log, b.haltPend, b.haltWhy, b.stepping, b.l1, b.cpu, b.tick)) : SameCpu a c := by
  simp only [Prod.mk.injEq] at e e2
  obtain ⟨a1, a2, a3, a4, a5, a6, a7, a8, a9⟩ := e
  obtain ⟨b1, b2, b3, b4, b5, b6, b7, b8, b9, b10, b11⟩ := e2
  exact h.trans { num := a1, title := a2, cls := a3, ucset := a4, lead := a5, f0 := a6, sched := a7, hold := a8, reasons := a9
                  faults := b1, replayTo := b2, latched := b3, resetAt := b4, log := b5, haltPend := b6, haltWhy := b7
                  stepping := b8, l1 := b9, cpu := b10, tick := b11 }

/-- A step that may change the processor and TICK only. -/
theorem Same.of {a b c : Stall} (h : Same a b) (e : (c.num, c.title, c.cls, c.ucset, c.lead, c.f0, c.sched, c.hold, c.reasons)
      = (b.num, b.title, b.cls, b.ucset, b.lead, b.f0, b.sched, b.hold, b.reasons))
    (e2 : (c.faults, c.replayTo, c.latched, c.resetAt, c.log, c.haltPend, c.haltWhy, c.stepping, c.l1)
      = (b.faults, b.replayTo, b.latched, b.resetAt, b.log, b.haltPend, b.haltWhy, b.stepping, b.l1)) : Same a c := by
  simp only [Prod.mk.injEq] at e e2
  obtain ⟨a1, a2, a3, a4, a5, a6, a7, a8, a9⟩ := e
  obtain ⟨b1, b2, b3, b4, b5, b6, b7, b8, b9⟩ := e2
  exact h.trans { num := a1, title := a2, cls := a3, ucset := a4, lead := a5, f0 := a6, sched := a7, hold := a8, reasons := a9
                  faults := b1, replayTo := b2, latched := b3, resetAt := b4, log := b5, haltPend := b6, haltWhy := b7
                  stepping := b8, l1 := b9 }

theorem clearEn_same {s0 s : Stall} {a1} (h : SameCpu s0 s) : SameCpu s0 (clearEn s a1) := by
  unfold clearEn
  exact h.mk' rfl rfl

theorem settleTimer_same {s0 : Stall} (fuel : Nat) : ∀ {s : Stall}, SameCpu s0 s → ∀ {n w}, SameCpu s0 (settleTimer fuel s n w) := by
  induction fuel with
  | zero => intro s h n w; exact h
  | succ fuel ih =>
    intro s h n w
    unfold settleTimer
    refine SameCpu.ite (SameCpu.ite ?_ ?_) h
    · refine clearEn_same ?_
      exact h.mk' rfl rfl
    · refine ih ?_
      exact h.mk' rfl rfl

theorem settle_same {s0 s : Stall} {a1} (h : SameCpu s0 s) : SameCpu s0 (settle s a1) := by
  have h1 : SameCpu s0 (settleLm s a1) := h.mk' rfl rfl
  have h2 : SameCpu s0 (settleSnd (settleLm s a1) a1) := h1.mk' rfl rfl
  exact settleTimer_same _ (settleTimer_same _ h2)

theorem timerWritten_same {s0 s : Stall} {a1 a2 a3} (h : SameCpu s0 s) : SameCpu s0 (timerWritten s a1 a2 a3) := by
  unfold timerWritten
  extract_lets +onlyGivenNames x0
  clear_value x0
  extract_lets +onlyGivenNames x1
  clear_value x1
  refine SameCpu.ite ?_ ?_
  · refine SameCpu.mk' (b := s) ?_ rfl rfl
    assumption
  · assumption

theorem markDirty_same {s0 s : Stall} {a1} (h : SameCpu s0 s) : SameCpu s0 (markDirty s a1) := by
  unfold markDirty
  refine SameCpu.ite ?_ ?_
  · refine SameCpu.mk' (b := s) ?_ rfl rfl
    assumption
  · refine SameCpu.ite ?_ ?_
    · refine SameCpu.mk' (b := s) ?_ rfl rfl
      assumption
    · assumption

theorem procByte_same {s0 s : Stall} {a1 a2} (h : SameCpu s0 s) : SameCpu s0 (procByte s a1 a2) := by
  unfold procByte
  exact SameCpu.ite (markDirty_same (h.mk' rfl rfl)) h

theorem procBytes_same {s0 : Stall} : ∀ {s : Stall} {a bs}, SameCpu s0 s → SameCpu s0 (procBytes s a bs) := by
  intro s a bs
  induction bs generalizing s a with
  | nil => intro h; exact h
  | cons b bs ih => intro h; exact ih (procByte_same h)

theorem addStamps_same {s0 s : Stall} {a1} (h : SameCpu s0 s) : SameCpu s0 (addStamps s a1) := by
  unfold addStamps
  exact SameCpu.ite h (h.mk' rfl rfl)

theorem Stall.setSub_same {s0 s : Stall} {a1 a2} (h : SameCpu s0 s) : SameCpu s0 (Stall.setSub s a1 a2) := by
  unfold Stall.setSub
  refine SameCpu.mk' (b := s) ?_ rfl rfl
  assumption

theorem sideByte_same {s0 s : Stall} {a1 a2 a3} (h : SameCpu s0 s) : SameCpu s0 (sideByte s a1 a2 a3) := by
  unfold sideByte
  extract_lets +onlyGivenNames x0
  clear_value x0
  extract_lets +onlyGivenNames x1
  have h2 : SameCpu s0 x1 := by
    unfold x1
    refine SameCpu.ite ?_ ?_
    · refine SameCpu.mk' (b := s) ?_ rfl rfl
      assumption
    · refine SameCpu.ite ?_ ?_
      · refine SameCpu.mk' (b := s) ?_ rfl rfl
        assumption
      · assumption
  clear_value x1
  split
  · rename_i y3 y4 y5
    extract_lets +onlyGivenNames x6
    clear_value x6
    refine SameCpu.ite ?_ ?_
    · exact Stall.setSub_same (by assumption)
    · assumption
  · rename_i y7 y8
    assumption

theorem sideBytes_same {s0 : Stall} : ∀ {s : Stall} {w a bs}, SameCpu s0 s → SameCpu s0 (sideBytes s w a bs) := by
  intro s w a bs
  induction bs generalizing s a with
  | nil => intro h; exact h
  | cons b bs ih => intro h; exact ih (sideByte_same h)

theorem procWrite_same {s0 s : Stall} {a1 a2 a3} (h : SameCpu s0 s) : SameCpu s0 (procWrite s a1 a2 a3) := by
  unfold procWrite
  extract_lets +onlyGivenNames x0
  clear_value x0
  refine sideBytes_same ?_
  refine addStamps_same ?_
  exact procBytes_same (by assumption)

theorem shadowStop_same {s0 s : Stall} {n x} (h : SameCpu s0 s) : SameCpu s0 (shadowStop s n x) := by
  unfold shadowStop
  exact SameCpu.ite (h.mk' rfl rfl) h

theorem procWrites_same {s0 s : Stall} {a1 a2} (h : SameCpu s0 s) : SameCpu s0 (procWrites s a1 a2) := by
  unfold procWrites
  extract_lets t x e0 e1 y0 y1 z
  have h1 : SameCpu s0 x := SameCpu.ite (settle_same h) h
  clear_value x
  have h2 : SameCpu s0 z := SameCpu.foldl (fun _ _ k => procWrite_same k) _ h1
  exact SameCpu.ite (shadowStop_same (shadowStop_same (timerWritten_same (timerWritten_same h2)))) h2

theorem settleAgent_same {s0 s : Stall} {a1 a2 a3} (h : SameCpu s0 s) : SameCpu s0 (settleAgent s a1 a2 a3) := by
  have h1 : SameCpu s0 (settleLm s a1) := h.mk' rfl rfl
  have h2 : SameCpu s0 (settleSnd (settleLm s a1) a1) := h1.mk' rfl rfl
  unfold settleAgent
  exact SameCpu.ite h2 h

theorem devSetBit_same {s0 s : Stall} {a1 a2} (h : SameCpu s0 s) : SameCpu s0 (devSetBit s a1 a2) := by
  unfold devSetBit
  extract_lets +onlyGivenNames x0
  clear_value x0
  refine SameCpu.mk' (b := s) ?_ rfl rfl
  assumption

theorem devSetOld_same {s0 s : Stall} {a1 a2} (h : SameCpu s0 s) : SameCpu s0 (devSetOld s a1 a2) := by
  unfold devSetOld
  refine SameCpu.mk' (b := s) ?_ rfl rfl
  assumption

theorem assertLine_same {s0 s : Stall} {a1 a2} (h : SameCpu s0 s) : SameCpu s0 (assertLine s a1 a2) := by
  unfold assertLine
  refine SameCpu.ite ?_ ?_
  · exact devSetOld_same (by assumption)
  · exact devSetBit_same (by assumption)

theorem assertLM_same {s0 s : Stall} {a1} (h : SameCpu s0 s) : SameCpu s0 (assertLM s a1) := by
  unfold assertLM
  refine SameCpu.ite ?_ ?_
  · exact devSetOld_same (by assumption)
  · exact devSetBit_same (by assumption)

theorem applyColl_same {s0 s : Stall} (h : SameCpu s0 s) : SameCpu s0 (applyColl s) := by
  unfold applyColl
  extract_lets +onlyGivenNames x0
  clear_value x0
  refine SameCpu.foldl (fun t1 x2 h3 => ?_) _ ?_
  · exact assertLine_same (by assumption)
  · refine SameCpu.mk' (b := s) ?_ rfl rfl
    assumption

theorem noteCollLine_same {s0 s : Stall} {a1} (h : SameCpu s0 s) : SameCpu s0 (noteCollLine s a1) := by
  unfold noteCollLine
  refine applyColl_same ?_
  refine SameCpu.mk' (b := s) ?_ rfl rfl
  assumption

theorem agentByte_same {s0 s : Stall} {e o a : Nat} {v : Byte} (h : SameCpu s0 s) : SameCpu s0 (agentByte s e o a v) := by
  unfold agentByte
  refine SameCpu.ite ?_ h
  dsimp only
  split
  · exact (markDirty_same h).mk' rfl rfl
  · exact (markDirty_same h).mk' rfl rfl

theorem agentBytes_same {s0 : Stall} {e o : Nat} : ∀ {s : Stall} {a bs}, SameCpu s0 s → SameCpu s0 (agentBytes s e o a bs) := by
  intro s a bs
  induction bs generalizing s a with
  | nil => intro h; exact h
  | cons b bs ih => intro h; exact ih (agentByte_same h)

theorem agentWrite_same {s0 s : Stall} {a1 a2 a3 a4 a5} (h : SameCpu s0 s) : SameCpu s0 (agentWrite s a1 a2 a3 a4 a5) := by
  unfold agentWrite
  exact addStamps_same (agentBytes_same (settleAgent_same h))

theorem makePost_same {s0 s : Stall} {a1 a2 a3 a4} (h : SameCpu s0 s) : SameCpu s0 (makePost s a1 a2 a3 a4) := by
  unfold makePost
  extract_lets x z bs w
  have h1 : SameCpu s0 z := devSetBit_same (Stall.setSub_same h)
  have h2 : SameCpu s0 w := SameCpu.ite (h1.mk' rfl rfl) h1
  exact SameCpu.ite (assertLine_same h2) h2

theorem applyPend_same {s0 s : Stall} {a1} (h : SameCpu s0 s) : SameCpu s0 (applyPend s a1) := by
  unfold applyPend
  extract_lets +onlyGivenNames x0
  have h1 : SameCpu s0 x0 := by
    unfold x0
    refine SameCpu.ite ?_ ?_
    · assumption
    · exact SameCpu.ite (agentBytes_same (settleAgent_same h)) (agentWrite_same h)
  clear_value x0
  extract_lets +onlyGivenNames x2
  clear_value x2
  extract_lets +onlyGivenNames x3
  have h4 : SameCpu s0 x3 := by
    unfold x3
    split
    · rename_i y5 y6 y7
      exact Stall.setSub_same (by assumption)
    · rename_i y8 y9
      assumption
  clear_value x3
  split
  · rename_i y10 y11 y12
    exact makePost_same (by assumption)
  · rename_i y13 y14
    assumption

theorem applyDue_same {s0 : Stall} (l : List Pend) : ∀ {s : Stall}, SameCpu s0 s → SameCpu s0 (applyDue l s) := by
  induction l with
  | nil => intro s h; exact h
  | cons p r ih =>
    intro s h
    unfold applyDue
    exact SameCpu.ite (ih (applyPend_same h)) (h.mk' rfl rfl)

theorem flushOnce_same {s0 s : Stall} {a1} (h : SameCpu s0 s) : SameCpu s0 (flushOnce s a1) := by
  unfold flushOnce
  exact applyDue_same _ (h.mk' rfl rfl)

theorem flushBelow_same {s0 s : Stall} {a1} (h : SameCpu s0 s) : SameCpu s0 (flushBelow s a1) := by
  unfold flushBelow
  refine SameCpu.ite ?_ ?_
  · assumption
  · refine flushOnce_same ?_
    exact flushOnce_same (by assumption)

theorem addPend_same {s0 s : Stall} {a1} (h : SameCpu s0 s) : SameCpu s0 (addPend s a1) := by
  unfold addPend
  refine flushBelow_same ?_
  refine SameCpu.mk' (b := s) ?_ rfl rfl
  assumption

theorem rasSet_same {s0 s : Stall} {t a v} (h : SameCpu s0 s) : SameCpu s0 (rasSet s t a v) := by
  exact SameCpu.mk' h rfl rfl

theorem noteMark_same {s0 s : Stall} {m} (h : SameCpu s0 s) : SameCpu s0 (noteMark s m) := by
  unfold noteMark
  dsimp only
  exact SameCpu.ite (SameCpu.mk' (SameCpu.ite h (rasSet_same h)) rfl rfl) (SameCpu.ite h (rasSet_same h))

theorem passMarks_same {s0 s : Stall} {t} (h : SameCpu s0 s) : SameCpu s0 (passMarks s t) := by
  unfold passMarks
  exact SameCpu.ite h (SameCpu.foldl (fun _ _ h => noteMark_same h) _ (h.mk' rfl rfl))

theorem afterTick_same {s0 s : Stall} (h : SameCpu s0 s) : SameCpu s0 (afterTick s) := by
  unfold afterTick
  exact applyColl_same (flushBelow_same (passMarks_same h))

/-- An access marks its entries and leaves what a stall's schedule and processor rest on (R377). -/
theorem accessed_same {s0 s : Stall} {a n} (h : SameCpu s0 s) : SameCpu s0 (s.accessed a n) := h.mk' rfl rfl

theorem Same.atTick (s : Stall) (c : Cpu) (t l : Nat) : Same s (s.atTick t l c) := Same.of (SameCpu.refl s).toSame rfl rfl

@[simp] theorem Stall.atTick_cpu (s : Stall) (c : Cpu) (t l : Nat) : (s.atTick t l c).cpu = c := rfl

@[simp] theorem Stall.atTick_tick (s : Stall) (c : Cpu) (t l : Nat) : (s.atTick t l c).tick = t := rfl

theorem SameCpu.memOnly (s : Stall) (m : Mem) : SameCpu s { s with mem := m } := SameCpu.mk' (SameCpu.refl s) rfl rfl

theorem SameCpu.start (s : Stall) (sh : Shadow) (m : Mem) : SameCpu s { s with shadow := sh, mem := m } :=
  SameCpu.mk' (SameCpu.refl s) rfl rfl

theorem SameCpu.shadowOnly (s : Stall) (sh : Shadow) : SameCpu s { s with shadow := sh } := SameCpu.mk' (SameCpu.refl s) rfl rfl

theorem frameWritten_same {st : Stall} {e vec ret rep : Nat} : SameCpu st (frameWritten st e vec ret rep) :=
  procWrites_same (flushBelow_same (SameCpu.shadowOnly st _))

theorem enter_same {st : Stall} {e vec ret rep : Nat} : Same st (enter st e vec ret rep) :=
  (frameWritten_same.toSame.trans (Same.atTick _ _ _ _)).trans (afterTick_same (SameCpu.refl _)).toSame

theorem enter_tick (st : Stall) (e vec ret rep : Nat) : (enter st e vec ret rep).tick = e + 6 :=
  (afterTick_same (SameCpu.refl _)).tick

/-- The processor after an entry (R96, R98, R102). -/
theorem enter_cpu (st : Stall) (e vec ret rep : Nat) : (enter st e vec ret rep).cpu = cpuEntered st.cpu e vec :=
  (afterTick_same (SameCpu.refl _)).cpu.trans (congrArg (fun c => cpuEntered c e vec) frameWritten_same.cpu)

/-- What an instruction starts with: the shadow emptied, and the clears of what it read. -/
theorem SameCpu.clearRead (s : Stall) (sh : Shadow) (l : List Nat) : SameCpu s (Stall.clearRead { s with shadow := sh } l) :=
  SameCpu.mk' (SameCpu.refl s) rfl rfl

theorem written_same {st : Stall} {r : Res} {w : Nat} : SameCpu st (written st r w) :=
  procWrites_same (flushBelow_same ((SameCpu.foldl (fun _ _ h => accessed_same h) _ (SameCpu.refl st)).trans (SameCpu.clearRead _ _ _)))

theorem endService_same {a st : Stall} (h : SameCpu a st) {v : Option Nat} : SameCpu a (endService st v) := by
  unfold endService
  split
  · exact SameCpu.ite (h.trans (SameCpu.memOnly st _)) h
  · exact h

theorem retire_same {st : Stall} {i : Inst} {r : Res} {cost : Nat} : Same st (retire st i r cost) := by
  unfold retire
  extract_lets t x y
  have h : SameCpu st x := (SameCpu.refl st).mk' rfl rfl
  exact ((endService_same (h.trans written_same)).toSame.trans (Same.atTick _ _ _ _)).trans (Same.atTick _ _ _ _)

/-- An instruction leaves a stall's place, schedule and requests. -/
theorem commit_same (st : Stall) (i : Inst) (r : Res) (cost : Nat) : Same st (commit st i r cost) := by
  unfold commit
  split
  · exact (retire_same.trans (Same.atTick _ _ _ _)).trans enter_same
  · exact retire_same.trans (afterTick_same (SameCpu.refl _)).toSame

/-- TICK after an instruction that is no SWI (R17). -/
theorem commit_tick (st : Stall) (i : Inst) (r : Res) (cost : Nat) (h : r.swi = none) : (commit st i r cost).tick = st.tick + cost := by
  unfold commit
  rw [h]
  exact (afterTick_same (SameCpu.refl _)).tick

/-- The processor after an instruction that is no SWI, but for the idle ticks it begins (R58, R77, R78). -/
theorem commit_cpu (st : Stall) (i : Inst) (r : Res) (cost : Nat) (h : r.swi = none) :
    ∃ x, (commit st i r cost).cpu = { cpuAfter st i r (st.tick + cost) with idle := x } := by
  unfold commit
  rw [h]
  exact ⟨_, (afterTick_same (SameCpu.refl _)).cpu⟩

/-! ### The boundary after an instruction -/

theorem State.live_stall {s : State} {k slot : Nat} {st : Stall} (h : s.live k = some (st, slot)) : s.stall? k = some st := by
  unfold State.live at h
  split at h
  · split at h
    · split at h
      · cases h; assumption
      · cases h
    · cases h
  · cases h

theorem bpOn_none {s : State} {k n : Nat} {l : List Nat} (h : bpOn s n k [1, 2, 3, 4] = false)
    (hl : ∀ x ∈ l, x ∈ [1, 2, 3, 4]) : bpOn s n k l = false := by
  cases e : bpOn s n k l with
  | false => rfl
  | true =>
    unfold bpOn at e h
    simp only [Bool.and_eq_true, List.contains_iff_mem] at e
    have := hl _ e.1.2
    have hc : [1, 2, 3, 4].contains (bpGet s n DBG_BP_KIND) = true := by rw [List.contains_iff_mem]; exact this
    rw [e.1.1, e.2, hc] at h
    simp at h

/-- Without breakpoints that name it no access of a stall hits one. -/
theorem dataHit_none {s : State} {st : Stall} (h : ∀ n, n < 8 → bpOn s n st.num [1, 2, 3, 4] = false)
    (rd wr : List Nat) : dataHit s st rd wr = none := by
  unfold dataHit
  rw [List.find?_eq_none]
  intro n hn
  have hn : n < 8 := by simpa [upto] using hn
  rw [bpOn_none (h n hn) (l := [2, 4]) (by simp), bpOn_none (h n hn) (l := [3, 4]) (by simp)]
  simp

theorem execHit_none {s : State} {st : Stall} (h : ∀ n, n < 8 → bpOn s n st.num [1, 2, 3, 4] = false) : execHit s st = none := by
  unfold execHit
  split
  · rfl
  · rw [List.find?_eq_none]
    intro n hn
    have hn : n < 8 := by simpa [upto] using hn
    rw [bpOn_none (h n hn) (l := [1]) (by simp)]
    simp

theorem bpHit_none {s : State} {st : Stall} (h : ∀ n, n < 8 → bpOn s n st.num [1, 2, 3, 4] = false) (rd wr : List Nat) :
    bpHit s st rd wr = none := by
  unfold bpHit
  rw [dataHit_none h, execHit_none h]
  rfl

/-- A stall that goes on is put in place as it is. -/
theorem arrive_goesOn {s : State} {k : Nat} {st st' : Stall} (h : GoesOn s k st) (hk : st'.num = k) (e1 : st'.haltPend = st.haltPend)
    (e2 : st'.stepping = st.stepping) (e3 : st'.reasons = st.reasons) (rd wr : List Nat) :
    arrive s st' rd wr = s.setStall st' := by
  subst hk
  unfold arrive
  rw [e1, h.noPending, bpHit_none h.noBreak, e2, h.noStep]
  simp [parkHere, e3, h.noReason, State.setParked]

/-- The store buffer of a core holds none of what lets a stall go on. -/
theorem GoesOn.buffer {s : State} {k : Nat} {st : Stall} (h : GoesOn s k st) (slot : Nat) (x : Stall) (held : Bool) (w : Nat)
    (wrs : List (Nat × Bytes)) : GoesOn (s.buffer slot x held w wrs) k st := ⟨h.noBreak, h.noPending, h.noStep, h.noReason⟩

/-- What an instruction that is ready does (R64, R85). -/
theorem startInst_ready {s : State} {k slot : Nat} {st : Stall} {i : Inst} (h : Ready s k st slot i) :
    startInst s slot st (s.codeOf st slot) i = (s.bufferInst st slot i).setStall (afterInst s st slot i) := by
  have hn := State.stall?_num (State.live_stall h.live)
  unfold startInst
  rw [if_neg (by simp [h.permits])]
  have ha := h.agents
  have hh := h.holds
  have hs := h.stores
  have hv := h.served
  unfold afterInst State.bufferInst
  unfold instTicks at ha hh ⊢
  generalize runInst (s.codeOf st slot) st s.time i = p at *
  obtain ⟨r, cost⟩ := p
  dsimp only at ha hh hs hv ⊢
  rw [if_neg (by simp [ha]), if_neg (by simp [hv]), hh]
  dsimp only
  rw [if_neg (by simp only [Bool.and_eq_true, not_and, Bool.not_eq_true]; exact hs)]
  have c := commit_same st i r cost
  exact arrive_goesOn (st' := (commit st i r cost).pastBreak) (h.toGoesOn.buffer _ _ _ _ _) (c.num.trans hn) c.haltPend c.stepping c.reasons _ _

end Sys2Proof.Machine
end

