-- ==== Sys2Proof/Laws/Inst.lean ====
section
/-! SUPPORT. What reading operands and computing an instruction's result leave: the stall an instruction reads through, and the
parts of a result that each shared operation does not touch. -/
namespace Sys2Proof.Machine

/-! ### The stall that an instruction reads through is the stall at its start -/

@[simp] theorem Env.noteSplit_st (e : Env) (a w : Nat) : (e.noteSplit a w).st = e.st := by unfold Env.noteSplit; split <;> rfl

@[simp] theorem Env.noteRead_st (e : Env) (a n : Nat) : (e.noteRead a n).st = e.st := rfl

@[simp] theorem Env.read_st (e : Env) (a n : Nat) : (e.read a n).2.st = e.st := Env.noteSplit_st _ _ _

@[simp] theorem Env.value_st (e : Env) (n : Nat) (o : Operand) (a : Option Nat) : (e.value n o a).2.st = e.st := by
  unfold Env.value; split
  · rfl
  · exact Env.read_st _ _ _

@[simp] theorem Env.ea_st (e : Env) (n : Nat) (o : Operand) : (e.ea n o).2.st = e.st := by
  unfold Env.ea; dsimp only; split <;> rfl

@[simp] theorem Env.eas_st (n : Nat) (os : List Operand) : ∀ (e : Env), (e.eas n os).2.st = e.st := by
  induction os with
  | nil => intro e; rfl
  | cons o os ih => intro e; unfold Env.eas; dsimp only; rw [ih, Env.ea_st]

@[simp] theorem farTarget_st (e : Env) (o : Operand) (a : Option Nat) : (farTarget e o a).2.st = e.st := by
  unfold farTarget; split
  · rfl
  · split
    · exact Env.read_st _ _ _
    · rfl

/-! ### Micro-ops -/

@[simp] theorem UState.store_st (u : UState) (a : Nat) (bs : Bytes) : (u.store a bs).env.st = u.env.st := Env.noteSplit_st _ _ _

@[simp] theorem runUop_st (i : Inst) (ent : UEntry) (eas : List (Option Nat)) (o : UOp) (u : UState) :
    (runUop i ent eas o u).env.st = u.env.st := by
  simp only [runUop]
  repeat' split
  all_goals simp

@[simp] theorem runUops_st (c : Code) (i : Inst) (ent : UEntry) (eas : List (Option Nat)) (n : Nat) :
    ∀ (j : Nat) (u : UState), (runUops c i ent eas n j u).env.st = u.env.st := by
  induction n with
  | zero => intro j u; rfl
  | succ n ih =>
    intro j u
    simp only [runUops]
    split
    · exact runUop_st _ _ _ _ _
    · rw [ih, runUop_st]

/-! ### Results -/

/-- Adding a write to a result touches its writes and its environment only. -/
theorem Res.put_rest (r : Res) (a : Option Nat) (n v : Nat) :
    (r.put a n v).a0 = r.a0 ∧ (r.put a n v).a1 = r.a1 ∧ (r.put a n v).rc = r.rc ∧ (r.put a n v).ctl = r.ctl ∧
    (r.put a n v).sp = r.sp ∧ (r.put a n v).pc = r.pc ∧ (r.put a n v).rep = r.rep ∧ (r.put a n v).lock = r.lock ∧
    (r.put a n v).swi = r.swi ∧ (r.put a n v).vec = r.vec ∧ (r.put a n v).idle = r.idle ∧ (r.put a n v).flags = r.flags ∧
    (r.put a n v).dz = r.dz := by
  unfold Res.put; split <;> simp

end Sys2Proof.Machine
end

