-- ==== Sys2Proof/Laws/Keeps.lean ====
section
/-! SUPPORT. What no command ever undoes: the queue behind it, the canonical forms, the count of free values drawn, and the
fuses blown. `Keeps s t` says it of a state t reached from s; every operation on the device has a lemma in this form. -/
namespace Sys2Proof.Machine

/-- State t keeps what state s had: the queue, the canonical forms of device memory, of host memory and of the register file,
the free values already drawn, and the fuses already blown. -/
structure Keeps (s t : State) : Prop where
  pending : t.pending = s.pending
  hbm     : Memory.wf s.hbm = true → Memory.wf t.hbm = true
  host    : Memory.wf s.host = true → Memory.wf t.host = true
  regs    : regsWf s.regs = true → regsWf t.regs = true
  free    : s.free ≤ t.free
  epoch   : s.otpEpoch ≤ t.otpEpoch
  revoked : ∀ n, bitAt s.otpRevoked n = true → bitAt t.otpRevoked n = true

theorem Keeps.refl (s : State) : Keeps s s := ⟨rfl, id, id, id, Nat.le_refl _, Nat.le_refl _, fun _ h => h⟩

/-- A change of fields other than those that `Keeps` names. -/
theorem Keeps.upd {s0 s t : State} (h1 : s.pending = t.pending) (h2 : s.hbm = t.hbm) (h3 : s.host = t.host) (h4 : s.regs = t.regs)
    (h5 : s.free = t.free) (h6 : s.otpEpoch = t.otpEpoch) (h7 : s.otpRevoked = t.otpRevoked) (h : Keeps s0 s) : Keeps s0 t :=
  ⟨h1 ▸ h.1, h2 ▸ h.2, h3 ▸ h.3, h4 ▸ h.4, h5 ▸ h.5, h6 ▸ h.6, h7 ▸ h.7⟩

/-- As `upd`, with free values drawn. -/
theorem Keeps.drawn {s0 s t : State} (h1 : s.pending = t.pending) (h2 : s.hbm = t.hbm) (h3 : s.host = t.host) (h4 : s.regs = t.regs)
    (h6 : s.otpEpoch = t.otpEpoch) (h7 : s.otpRevoked = t.otpRevoked) (h5 : s.free ≤ t.free) (h : Keeps s0 s) : Keeps s0 t :=
  ⟨h1 ▸ h.1, h2 ▸ h.2, h3 ▸ h.3, h4 ▸ h.4, Nat.le_trans h.5 h5, h6 ▸ h.6, h7 ▸ h.7⟩

theorem Keeps.foldl {α : Type} {s0 : State} {f : State → α → State} (hf : ∀ s x, Keeps s0 s → Keeps s0 (f s x)) (l : List α)
    {s : State} (h : Keeps s0 s) : Keeps s0 (l.foldl f s) := by
  induction l generalizing s with
  | nil => exact h
  | cons x l ih => exact ih (hf s x h)

/-- A fold whose accumulator holds the state beside something else. -/
theorem Keeps.foldlSnd {α β : Type} {s0 : State} {f : β × State → α → β × State}
    (hf : ∀ p x, Keeps s0 p.2 → Keeps s0 (f p x).2) (l : List α) {p : β × State} (h : Keeps s0 p.2) : Keeps s0 (l.foldl f p).2 := by
  induction l generalizing p with
  | nil => exact h
  | cons x l ih => exact ih (hf p x h)

theorem Keeps.foldlFst {α β : Type} {s0 : State} {f : State × β → α → State × β}
    (hf : ∀ p x, Keeps s0 p.1 → Keeps s0 (f p x).1) (l : List α) {p : State × β} (h : Keeps s0 p.1) : Keeps s0 (l.foldl f p).1 := by
  induction l generalizing p with
  | nil => exact h
  | cons x l ih => exact ih (hf p x h)

theorem Keeps.ite {s0 s t : State} {c : Prop} [Decidable c] (hs : Keeps s0 s) (ht : Keeps s0 t) : Keeps s0 (if c then s else t) := by
  split
  · exact hs
  · exact ht

theorem Keeps.snd {α : Type} {s0 t : State} {p : α × State} {a : α} (e : p = (a, t)) (h : Keeps s0 p.2) : Keeps s0 t := by
  subst e; exact h

/-- The state behind two other results. -/
theorem Keeps.snd2 {α β : Type} {s0 t : State} {p : α × β × State} {a : α} {b : β} (e : p = (a, b, t)) (h : Keeps s0 p.2.2) :
    Keeps s0 t := by
  subst e; exact h

theorem Keeps.fst {α : Type} {s0 t : State} {p : State × α} {a : α} (e : p = (t, a)) (h : Keeps s0 p.1) : Keeps s0 t := by
  subst e; exact h

theorem State.put_keeps {s0 s : State} (h : Keeps s0 s) {f v} : Keeps s0 (s.put f v) :=
  ⟨h.1, h.2, h.3, fun w => setQ_wf _ _ _ (h.4 w), h.5, h.6, h.7⟩

theorem State.puts_keeps {s0 s : State} (h : Keeps s0 s) {l} : Keeps s0 (s.puts l) :=
  Keeps.foldl (fun _ _ h => State.put_keeps h) l h

theorem State.resetRange_keeps {s0 s : State} {a b} (h : Keeps s0 s) : Keeps s0 (State.resetRange s a b) :=
  ⟨h.1, h.2, h.3, fun w => regsWfFrom_filter _ _ (h.4 w), h.5, h.6, h.7⟩

theorem State.hbmWrite_keeps {s0 s : State} {a b} (h : Keeps s0 s) : Keeps s0 (State.hbmWrite s a b) :=
  ⟨h.1, fun w => by
      unfold State.hbmWrite
      dsimp only
      generalize extentsOf a b.length = l
      have hm : Memory.wf (Memory.setBytes s.hbm a b) = true := Memory.setBytes_wf _ _ _ (h.2 w)
      generalize Memory.setBytes s.hbm a b = m at hm ⊢
      induction l generalizing m with
      | nil => exact hm
      | cons e l ih =>
        refine ih _ ?_
        show Memory.wf (if _ then _ else _) = true
        split
        · exact Memory.setBytes_wf _ _ _ hm
        · exact hm, h.3, h.4, h.5, h.6, h.7⟩

theorem State.hostWrite_keeps {s0 s : State} {a b} (h : Keeps s0 s) : Keeps s0 (State.hostWrite s a b) :=
  ⟨h.1, h.2, fun w => Memory.setBytes_wf _ _ _ (h.3 w), h.4, h.5, h.6, h.7⟩

/-- A reset state that carries over what `Keeps` names. -/
theorem Keeps.fresh {s0 s t : State} (h1 : s.pending = t.pending) (h2 : t.hbm = []) (h3 : s.host = t.host) (h4 : t.regs = [])
    (h5 : s.free = t.free) (h6 : s.otpEpoch = t.otpEpoch) (h7 : s.otpRevoked = t.otpRevoked) (h : Keeps s0 s) : Keeps s0 t :=
  ⟨h1 ▸ h.1, fun _ => by rw [h2]; rfl, h3 ▸ h.3, fun _ => by rw [h4]; rfl, h5 ▸ h.5, h6 ▸ h.6, h7 ▸ h.7⟩

theorem State.keepRegs_keeps {s0 old s : State} {l} (h : Keeps s0 s) : Keeps s0 (State.keepRegs old s l) := by
  unfold State.keepRegs State.putReg32
  exact Keeps.foldl (fun _ _ h => State.put_keeps h) l h

theorem State.afterReset_keeps {s0 s : State} {a b c} (h : Keeps s0 s) : Keeps s0 (State.afterReset s a b c) := by
  unfold State.afterReset
  extract_lets r0 r1 r2 r3
  have h1 : Keeps s0 r1 := ⟨h.1, fun _ => rfl, h.3, fun w => by
    show regsWf (if b then s.pciRegs else []) = true
    split
    · exact regsWfFrom_filter _ _ (h.4 w)
    · rfl, h.5, h.6, h.7⟩
  have h2 : Keeps s0 r2 := by
    unfold r2
    split
    · exact ⟨h1.1, h.2, h1.3, h1.4, h1.5, h1.6, h1.7⟩
    · exact h1
  have h3 : Keeps s0 r3 := State.keepRegs_keeps h2
  split
  · exact State.keepRegs_keeps h3
  · exact h3

theorem por_keeps {s0 s : State} {on} (h : Keeps s0 s) : Keeps s0 (por on s) := by
  unfold por
  extract_lets r0 r
  have h1 : Keeps s0 r := Keeps.fresh (s := s) rfl rfl rfl rfl rfl rfl rfl h
  split
  · exact h1
  · exact Keeps.upd (s := r) rfl rfl rfl rfl rfl rfl rfl h1

theorem State.takeIngress_keeps {s0 s : State} {k ok} (h : Keeps s0 s) (p : Ingress × State) (e : State.takeIngress s k ok = some p) :
    Keeps s0 p.2 := by
  unfold State.takeIngress at e
  split at e
  · split at e
    · cases e
      exact Keeps.upd (s := s) rfl rfl rfl rfl rfl rfl rfl h
    · cases e
  · cases e

theorem devRead_keeps {s0 s : State} {io : Mmio} {a n host} (h : Keeps s0 s)
    (hrd : ∀ t x n, Keeps s0 t → Keeps s0 (io.rd t x n).2) (p : Bytes × State) (e : devRead io s a n host = .ok p) : Keeps s0 p.2 := by
  unfold devRead at e
  split at e
  · cases e; exact h
  · split at e
    · cases e; exact h
    · cases e; exact hrd _ _ _ h
    · split at e
      · split at e
        · cases e; exact h
        · cases e
      · cases e
    · cases e

theorem bitAt_or_left {x y n : Nat} (h : bitAt x n = true) : bitAt (x ||| y) n = true := by
  have e (z : Nat) : bitAt z n = z.testBit n := by
    unfold bitAt Nat.testBit
    rw [Nat.one_and_eq_mod_two]
    cases Nat.mod_two_eq_zero_or_one (z >>> n) with
    | inl h => simp [h]
    | inr h => simp [h]
  rw [e] at h ⊢
  simp [Nat.testBit_or, h]

end Sys2Proof.Machine
end

