-- ==== Sys2Proof/Laws/KeepsStall.lean ====
section
/-! SUPPORT. `Keeps` for the operations on stalls, cores, class units, the composer and the encoders: one lemma for each
operation, in the form that a chain of them composes (what held of the state before holds of the state after). -/
set_option linter.unusedVariables false
namespace Sys2Proof.Machine

theorem State.inc_keeps {s0 s : State} {a1} (h : Keeps s0 s) : Keeps s0 (State.inc s a1) := by
  unfold State.inc
  exact State.put_keeps (by assumption)

theorem State.putReg32_keeps {s0 s : State} {a1 a2} (h : Keeps s0 s) : Keeps s0 (State.putReg32 s a1 a2) := by
  unfold State.putReg32
  exact State.put_keeps (by assumption)

theorem State.setStall_keeps {s0 s : State} {a1} (h : Keeps s0 s) : Keeps s0 (State.setStall s a1) := by
  unfold State.setStall
  exact Keeps.upd (s := s) rfl rfl rfl rfl rfl rfl rfl (by assumption)

theorem State.onStall_keeps {s0 s : State} {a1 a2} (h : Keeps s0 s) : Keeps s0 (State.onStall s a1 a2) := by
  unfold State.onStall
  split
  · rename_i y0 y1 y2
    exact State.setStall_keeps (by assumption)
  · rename_i y3 y4
    assumption

theorem State.raise_keeps {s0 s : State} {a1} (h : Keeps s0 s) : Keeps s0 (State.raise s a1) := by
  unfold State.raise
  exact State.put_keeps (by assumption)

theorem State.emit_keeps {s0 s : State} {a1} (h : Keeps s0 s) : Keeps s0 (State.emit s a1) := by
  unfold State.emit
  refine Keeps.ite ?_ ?_
  · assumption
  · exact Keeps.upd (s := s) rfl rfl rfl rfl rfl rfl rfl (by assumption)

theorem State.draw_keeps {s0 s : State} {a1} (h : Keeps s0 s) : Keeps s0 (State.draw s a1).2 := by
  unfold State.draw
  dsimp only
  exact Keeps.drawn (s := s) rfl rfl rfl rfl rfl rfl (by dsimp only; omega) (by assumption)

theorem State.freeBytes_keeps {s0 s : State} {a1} (h : Keeps s0 s) : Keeps s0 (State.freeBytes s a1).2 := by
  unfold State.freeBytes
  dsimp only
  exact Keeps.drawn (s := s) rfl rfl rfl rfl rfl rfl (by dsimp only; omega) (by assumption)

theorem State.drainOf_keeps {s0 s : State} {a0} (h : Keeps s0 s) : Keeps s0 (State.drainOf s a0) := by
  unfold State.drainOf
  exact Keeps.upd (s := s) rfl rfl rfl rfl rfl rfl rfl h

theorem State.drainOldest_keeps {s0 s : State} {a0 a1 a2} (h : Keeps s0 s) : Keeps s0 (State.drainOldest s a0 a1 a2) := by
  unfold State.drainOldest
  exact Keeps.upd (s := s) rfl rfl rfl rfl rfl rfl rfl h

theorem State.drainTick_keeps {s0 s : State} (h : Keeps s0 s) : Keeps s0 (State.drainTick s) := by
  unfold State.drainTick
  split
  · exact h
  · exact Keeps.foldl (fun _ _ h => Keeps.foldl (fun _ _ h => State.drainOldest_keeps h) _ h) _ h

theorem State.giveExts_keeps {s0 s : State} {a0 a1} (h : Keeps s0 s) : Keeps s0 (State.giveExts s a0 a1) := by
  unfold State.giveExts
  exact State.puts_keeps h

theorem State.giveTitle_keeps {s0 s : State} {a0 a1} (h : Keeps s0 s) : Keeps s0 (State.giveTitle s a0 a1) := by
  unfold State.giveTitle
  exact State.puts_keeps (State.giveExts_keeps h)

theorem State.allocate_keeps {s0 s : State} {a0 a1 a2} (h : Keeps s0 s) : Keeps s0 (State.allocate s a0 a1 a2).2.2 := by
  unfold State.allocate
  dsimp only
  split
  · exact State.giveExts_keeps h
  · exact State.draw_keeps (a1 := 0xC00000000 / 64) h

theorem stopStall_keeps {s0 s : State} {a0 a1} (h : Keeps s0 s) : Keeps s0 (stopStall s a0 a1) := by
  unfold stopStall
  refine State.raise_keeps ?_
  exact State.setStall_keeps (by assumption)

theorem haltStall_keeps {s0 s : State} {a1 a2} (h : Keeps s0 s) : Keeps s0 (haltStall s a1 a2) := by
  unfold haltStall
  refine stopStall_keeps ?_
  refine Keeps.ite ?_ ?_
  · exact State.put_keeps (by assumption)
  · assumption

theorem askHalt_keeps {s0 s : State} {a1 a2 a3} (h : Keeps s0 s) : Keeps s0 (askHalt s a1 a2 a3) := by
  unfold askHalt
  refine Keeps.ite ?_ ?_
  · exact haltStall_keeps (by assumption)
  · exact State.setStall_keeps (by assumption)

theorem State.areaWrite_keeps {s0 s : State} {a0 a1 a2} (h : Keeps s0 s) : Keeps s0 (State.areaWrite s a0 a1 a2) := by
  unfold State.areaWrite
  refine Keeps.foldl (fun a0 a1 h2 => ?_) _ ?_
  · exact State.hbmWrite_keeps (by assumption)
  · assumption

theorem State.writeBack_keeps {s0 s : State} {a0} (h : Keeps s0 s) : Keeps s0 (State.writeBack s a0) := by
  unfold State.writeBack
  extract_lets +onlyGivenNames x0
  have h1 : Keeps s0 x0 := by
    unfold x0
    exact State.drainOf_keeps (by assumption)
  clear_value x0
  refine Keeps.ite ?_ ?_
  · assumption
  · exact State.areaWrite_keeps (by assumption)

theorem State.setParked_keeps {s0 s : State} {a0 a1} (h : Keeps s0 s) : Keeps s0 (State.setParked s a0 a1) := by
  unfold State.setParked
  refine State.setStall_keeps ?_
  refine Keeps.ite ?_ ?_
  · exact State.writeBack_keeps (by assumption)
  · assumption

theorem arrive_keeps {s0 s : State} {a1 a2 a3} (h : Keeps s0 s) : Keeps s0 (arrive s a1 a2 a3) := by
  unfold arrive
  split
  · rename_i y0 y1 y2
    refine Keeps.ite ?_ ?_
    · exact haltStall_keeps (by assumption)
    · split
      · rename_i y3 y4 y5
        exact haltStall_keeps (by assumption)
      · rename_i y6 y7
        exact State.setParked_keeps (by assumption)
  · rename_i y8 y9
    split
    · rename_i y10 y11 y12
      exact askHalt_keeps (by assumption)
    · rename_i y13 y14
      refine Keeps.ite ?_ ?_
      · exact stopStall_keeps (by assumption)
      · exact State.setParked_keeps (by assumption)

theorem State.buffer_keeps {s0 s : State} {a0 a1 a2 a3 a4} (h : Keeps s0 s) : Keeps s0 (State.buffer s a0 a1 a2 a3 a4) := by
  unfold State.buffer
  extract_lets +onlyGivenNames x0
  clear_value x0
  extract_lets +onlyGivenNames x1
  clear_value x1
  extract_lets +onlyGivenNames x2
  have h3 : Keeps s0 x2 := by
    unfold x2
    exact State.drainOldest_keeps (by assumption)
  clear_value x2
  exact Keeps.upd (s := x2) rfl rfl rfl rfl rfl rfl rfl (by assumption)

theorem startInst_keeps {s0 s : State} {a0 a1 a2 a3} (h : Keeps s0 s) : Keeps s0 (startInst s a0 a1 a2 a3) := by
  unfold startInst
  refine Keeps.ite ?_ ?_
  · exact State.setStall_keeps (by assumption)
  · split
    rename_i y0 y1 y2 y3
    extract_lets +onlyGivenNames x4
    clear_value x4
    refine Keeps.ite ?_ ?_
    · exact State.setStall_keeps (by assumption)
    · refine Keeps.ite ?_ ?_
      · assumption
      · split
        · rename_i y5 y6
          refine Keeps.ite ?_ ?_
          · exact State.setStall_keeps (by assumption)
          · refine arrive_keeps ?_
            exact State.buffer_keeps (by assumption)
        · rename_i y7 y8
          exact State.setStall_keeps (by assumption)

theorem stepOp_keeps {s0 s : State} {a0 a1} (h : Keeps s0 s) : Keeps s0 (stepOp a0 a1 s) := by
  unfold stepOp
  split
  · rename_i y0 y1
    assumption
  · rename_i y2 y3 y4 y5
    extract_lets +onlyGivenNames x6
    clear_value x6
    refine Keeps.ite ?_ ?_
    · split
      · rename_i y7 y8 y9
        refine Keeps.ite ?_ ?_
        · exact startInst_keeps (by assumption)
        · assumption
      · rename_i y10 y11 y12
        assumption
    · assumption

theorem stepRep_keeps {s0 s : State} {a0} (h : Keeps s0 s) : Keeps s0 (stepRep a0 s) := by
  unfold stepRep
  split
  · rename_i y0 y1
    assumption
  · rename_i y2 y3 y4 y5
    extract_lets +onlyGivenNames x6
    clear_value x6
    refine Keeps.ite ?_ ?_
    · split
      · rename_i y7 y8 y9
        exact startInst_keeps (by assumption)
      · rename_i y10 y11 y12
        assumption
    · assumption

theorem beginEntry_keeps {s0 s : State} {a0 a1 a2} (h : Keeps s0 s) : Keeps s0 (beginEntry s a0 a1 a2) := by
  unfold beginEntry
  refine Keeps.ite ?_ ?_
  · exact State.setStall_keeps (by assumption)
  · refine Keeps.ite ?_ ?_
    · exact State.setStall_keeps (by assumption)
    · refine Keeps.ite ?_ ?_
      · assumption
      · split
        · rename_i y0 y1
          refine arrive_keeps ?_
          exact State.buffer_keeps (by assumption)
        · rename_i y2 y3
          exact State.setStall_keeps (by assumption)

theorem stepInterrupt_keeps {s0 s : State} {a0} (h : Keeps s0 s) : Keeps s0 (stepInterrupt a0 s) := by
  unfold stepInterrupt
  split
  · rename_i y0 y1
    assumption
  · rename_i y2 y3 y4 y5
    split
    · rename_i y6 y7
      assumption
    · rename_i y8 y9 y10
      refine Keeps.ite ?_ ?_
      · exact beginEntry_keeps (by assumption)
      · assumption

theorem stepDivZero_keeps {s0 s : State} {a0} (h : Keeps s0 s) : Keeps s0 (stepDivZero a0 s) := by
  unfold stepDivZero
  split
  · rename_i y0 y1
    assumption
  · rename_i y2 y3 y4 y5
    refine Keeps.ite ?_ ?_
    · exact beginEntry_keeps (by assumption)
    · assumption

theorem stepIllegal_keeps {s0 s : State} {a0} (h : Keeps s0 s) : Keeps s0 (stepIllegal a0 s) := by
  unfold stepIllegal
  split
  · rename_i y0 y1
    assumption
  · rename_i y2 y3 y4 y5
    refine Keeps.ite ?_ ?_
    · split
      · rename_i y6 y7 y8
        exact beginEntry_keeps (by assumption)
      · rename_i y9 y10 y11
        assumption
    · assumption

theorem stepIdle_keeps {s0 s : State} {a0} (h : Keeps s0 s) : Keeps s0 (stepIdle a0 s) := by
  unfold stepIdle
  split
  · rename_i y0 y1
    assumption
  · rename_i y2 y3 y4 y5
    refine Keeps.ite ?_ ?_
    · refine Keeps.ite ?_ ?_
      · exact State.setStall_keeps (by assumption)
      · refine Keeps.ite ?_ ?_
        · exact State.setStall_keeps (by assumption)
        · refine Keeps.ite ?_ ?_
          · exact State.setStall_keeps (by assumption)
          · extract_lets +onlyGivenNames x6
            clear_value x6
            refine Keeps.ite ?_ ?_
            · exact State.setStall_keeps (by assumption)
            · exact arrive_keeps (by assumption)
    · assumption

theorem State.logEntry_keeps {s0 s : State} {a1 a2} (h : Keeps s0 s) : Keeps s0 (State.logEntry s a1 a2) := by
  unfold State.logEntry
  split
  rename_i y0 y1 y2 y3
  split
  rename_i y4 y5 y6 y7
  extract_lets +onlyGivenNames x8
  clear_value x8
  refine Keeps.upd (s := y6) rfl rfl rfl rfl rfl rfl rfl ?_
  refine Keeps.snd (by assumption) ?_
  refine State.draw_keeps ?_
  refine Keeps.snd (by assumption) ?_
  exact State.draw_keeps (by assumption)

theorem State.dropDelivery_keeps {s0 s : State} {a1} (h : Keeps s0 s) : Keeps s0 (State.dropDelivery s a1) := by
  unfold State.dropDelivery
  exact Keeps.upd (s := s) rfl rfl rfl rfl rfl rfl rfl (by assumption)

theorem State.capture_keeps {s0 s : State} {a1 a2 a3} (h : Keeps s0 s) : Keeps s0 (State.capture s a1 a2 a3) := by
  unfold State.capture
  split
  · rename_i y0 y1 y2
    exact Keeps.upd (s := s) rfl rfl rfl rfl rfl rfl rfl (by assumption)
  · rename_i y3 y4
    exact State.dropDelivery_keeps (by assumption)

theorem State.notice_keeps {s0 s : State} {a1 a2 a3 a4} (h : Keeps s0 s) : Keeps s0 (State.notice s a1 a2 a3 a4) := by
  unfold State.notice
  extract_lets +onlyGivenNames x0
  have h1 : Keeps s0 x0 := by
    unfold x0
    exact State.logEntry_keeps (by assumption)
  clear_value x0
  exact State.capture_keeps (by assumption)

theorem State.msix_keeps {s0 s : State} {a1} (h : Keeps s0 s) : Keeps s0 (State.msix s a1) := by
  unfold State.msix
  refine Keeps.ite ?_ ?_
  · assumption
  · refine Keeps.ite ?_ ?_
    · exact State.put_keeps (by assumption)
    · exact State.emit_keeps (by assumption)

theorem State.toMode_keeps {s0 s : State} {a1 a2} (h : Keeps s0 s) : Keeps s0 (State.toMode s a1 a2) := by
  unfold State.toMode
  extract_lets +onlyGivenNames x0
  have h1 : Keeps s0 x0 := by
    unfold x0
    exact Keeps.upd (s := s) rfl rfl rfl rfl rfl rfl rfl (by assumption)
  clear_value x0
  extract_lets +onlyGivenNames x2
  have h3 : Keeps s0 x2 := by
    unfold x2
    exact State.logEntry_keeps (by assumption)
  clear_value x2
  split
  · rename_i y4 y5 y6
    exact State.capture_keeps (by assumption)
  · rename_i y7 y8
    assumption

theorem State.enterServe_keeps {s0 s : State} (h : Keeps s0 s) : Keeps s0 (State.enterServe s) := by
  unfold State.enterServe
  refine Keeps.ite ?_ ?_
  · exact State.toMode_keeps (by assumption)
  · exact State.toMode_keeps (by assumption)

theorem State.followDegrade_keeps {s0 s : State} (h : Keeps s0 s) : Keeps s0 (State.followDegrade s) := by
  unfold State.followDegrade
  split
  · rename_i y0 y1
    refine Keeps.ite ?_ ?_
    · assumption
    · exact State.enterServe_keeps (by assumption)
  · rename_i y2 y3
    refine Keeps.ite ?_ ?_
    · exact State.enterServe_keeps (by assumption)
    · exact Keeps.upd (s := s) rfl rfl rfl rfl rfl rfl rfl (by assumption)
  · rename_i y4 y5 y6
    assumption

theorem State.setDegrade_keeps {s0 s : State} {a1 a2} (h : Keeps s0 s) : Keeps s0 (State.setDegrade s a1 a2) := by
  unfold State.setDegrade
  refine State.followDegrade_keeps ?_
  exact State.put_keeps (by assumption)

theorem State.park_keeps {s0 s : State} {a1 a2 a3} (h : Keeps s0 s) : Keeps s0 (State.park s a1 a2 a3) := by
  unfold State.park
  extract_lets +onlyGivenNames x0
  have h1 : Keeps s0 x0 := by
    unfold x0
    split
    · rename_i y2 y3 y4
      exact State.setParked_keeps (by assumption)
    · rename_i y5 y6
      assumption
  clear_value x0
  refine Keeps.ite ?_ ?_
  · exact State.notice_keeps (by assumption)
  · assumption

theorem catchUpRead_keeps {s0 s : State} {a0} (h : Keeps s0 s) : Keeps s0 (catchUpRead a0 s) := by
  unfold catchUpRead
  split
  · rename_i y0 y1 y2 y3
    refine Keeps.ite ?_ ?_
    · exact State.setStall_keeps (by assumption)
    · assumption
  · rename_i y4 y5
    assumption

theorem stampQueueRelease_keeps {s0 s : State} {a0} (h : Keeps s0 s) : Keeps s0 (stampQueueRelease a0 s) := by
  unfold stampQueueRelease
  split
  · rename_i y0 y1 y2 y3
    refine Keeps.ite ?_ ?_
    · exact State.setStall_keeps (by assumption)
    · assumption
  · rename_i y4 y5
    assumption

theorem State.hodFault_keeps {s0 s : State} {a0 a1 a2} (h : Keeps s0 s) : Keeps s0 (State.hodFault s a0 a1 a2) := by
  unfold State.hodFault
  generalize (if a1 = 3 then faultSub a0 a2 else none) = o
  cases o with
  | none => exact h
  | some i => exact State.inc_keeps (State.puts_keeps h)

theorem State.tellFault_keeps {s0 s : State} {a1 a2 a3 a4 a5 a6} (h : Keeps s0 s) : Keeps s0 (State.tellFault s a1 a2 a3 a4 a5 a6) := by
  unfold State.tellFault
  refine Keeps.ite ?_ ?_
  · assumption
  · extract_lets +onlyGivenNames x0
    have h1 : Keeps s0 x0 := by
      unfold x0
      refine Keeps.ite ?_ ?_
      · exact State.notice_keeps (by assumption)
      · assumption
    clear_value x0
    refine Keeps.ite ?_ ?_
    · exact State.park_keeps (by assumption)
    · assumption

theorem State.mapEntry_keeps {s0 s : State} {a0 a1 a2} (h : Keeps s0 s) : Keeps s0 (State.mapEntry s a0 a1 a2) := by
  unfold State.mapEntry
  extract_lets +onlyGivenNames x0
  clear_value x0
  exact Keeps.upd (s := s) rfl rfl rfl rfl rfl rfl rfl (by assumption)

theorem translationFault_keeps {s0 s : State} {a0 a1 a2 a3 a4 a5 a6} (h : Keeps s0 s) : Keeps s0 (translationFault a0 a1 a2 a3 a4 a5 a6 s) := by
  unfold translationFault
  split
  · rename_i y0 y1
    assumption
  · rename_i y2 y3 y4 y5
    extract_lets +onlyGivenNames x6
    clear_value x6
    extract_lets +onlyGivenNames x7
    clear_value x7
    extract_lets +onlyGivenNames x8
    clear_value x8
    refine Keeps.ite ?_ ?_
    · assumption
    · extract_lets +onlyGivenNames x9
      clear_value x9
      extract_lets +onlyGivenNames x10
      have h11 : Keeps s0 x10 := by
        unfold x10
        exact State.mapEntry_keeps (by assumption)
      clear_value x10
      refine Keeps.ite ?_ ?_
      · exact State.inc_keeps (by assumption)
      · extract_lets +onlyGivenNames x12
        have h13 : Keeps s0 x12 := by
          unfold x12
          refine Keeps.ite ?_ ?_
          · assumption
          · exact Keeps.upd (s := x10) rfl rfl rfl rfl rfl rfl rfl (by assumption)
        clear_value x12
        extract_lets +onlyGivenNames x14
        clear_value x14
        extract_lets +onlyGivenNames x15
        clear_value x15
        refine State.tellFault_keeps ?_
        refine State.hodFault_keeps ?_
        exact State.setStall_keeps (by assumption)

theorem State.noteHalt_keeps {s0 s : State} {a0 a1} (h : Keeps s0 s) : Keeps s0 (State.noteHalt s a0 a1) := by
  unfold State.noteHalt
  split
  · rename_i y0 y1 y2
    refine Keeps.ite ?_ ?_
    · refine State.raise_keeps ?_
      refine Keeps.ite ?_ ?_
      · exact State.put_keeps (by assumption)
      · assumption
    · assumption
  · rename_i y3 y4
    assumption

theorem State.unpark_keeps {s0 s : State} {a1 a2} (h : Keeps s0 s) : Keeps s0 (State.unpark s a1 a2) := by
  unfold State.unpark
  split
  · rename_i y0 y1
    assumption
  · rename_i y2 y3 y4
    extract_lets +onlyGivenNames x5
    have h6 : Keeps s0 x5 := by
      unfold x5
      exact State.setStall_keeps (by assumption)
    clear_value x5
    refine Keeps.ite ?_ ?_
    · exact State.noteHalt_keeps (by assumption)
    · assumption

theorem State.restart_keeps {s0 s : State} {a0 a1} (h : Keeps s0 s) : Keeps s0 (State.restart s a0 a1) := by
  unfold State.restart
  split
  · rename_i y0 y1
    assumption
  · rename_i y2 y3 y4
    extract_lets +onlyGivenNames x5
    clear_value x5
    extract_lets +onlyGivenNames x6
    clear_value x6
    extract_lets +onlyGivenNames x7
    clear_value x7
    extract_lets +onlyGivenNames x8
    have h9 : Keeps s0 x8 := by
      unfold x8
      exact State.setStall_keeps (by assumption)
    clear_value x8
    extract_lets +onlyGivenNames x10
    have h11 : Keeps s0 x10 := by
      unfold x10
      refine Keeps.ite ?_ ?_
      · exact State.noteHalt_keeps (by assumption)
      · assumption
    clear_value x10
    refine Keeps.ite ?_ ?_
    · exact State.unpark_keeps (by assumption)
    · assumption

theorem State.resolveFault_keeps {s0 s : State} {a1 a2} (h : Keeps s0 s) : Keeps s0 (State.resolveFault s a1 a2) := by
  unfold State.resolveFault
  split
  · rename_i y0 y1
    assumption
  · rename_i y2 y3 y4
    refine State.restart_keeps ?_
    exact State.mapEntry_keeps (by assumption)

theorem State.supplyPage_keeps {s0 s : State} {a0 a1 a2} (h : Keeps s0 s) : Keeps s0 (State.supplyPage s a0 a1 a2) := by
  unfold State.supplyPage
  extract_lets +onlyGivenNames x0
  clear_value x0
  extract_lets +onlyGivenNames x1
  clear_value x1
  extract_lets +onlyGivenNames x2
  clear_value x2
  extract_lets +onlyGivenNames x3
  clear_value x3
  extract_lets +onlyGivenNames x4
  have h5 : Keeps s0 x4 := by
    unfold x4
    refine Keeps.ite ?_ ?_
    · exact State.hbmWrite_keeps (by assumption)
    · assumption
  clear_value x4
  refine Keeps.foldl (fun a6 a7 h8 => ?_) _ ?_
  · exact State.resolveFault_keeps (by assumption)
  · exact Keeps.upd (s := x4) rfl rfl rfl rfl rfl rfl rfl (by assumption)

theorem faultResolve_keeps {s0 s : State} {a0 a1 a2} (h : Keeps s0 s) : Keeps s0 (faultResolve a0 a1 a2 s) := by
  unfold faultResolve
  split
  · rename_i y0 y1
    assumption
  · rename_i y2 y3 y4
    split
    · rename_i y5 y6 y7 y8 y9 y10
      refine Keeps.ite ?_ ?_
      · assumption
      · split
        · rename_i y11 y12
          exact State.supplyPage_keeps (by assumption)
        · rename_i y13
          refine Keeps.ite ?_ ?_
          · exact State.park_keeps (by assumption)
          · assumption
    · rename_i y14 y15 y16
      exact State.resolveFault_keeps (by assumption)

theorem ckptPageCopy_keeps {s0 s : State} {a0 a1} (h : Keeps s0 s) : Keeps s0 (ckptPageCopy a0 a1 s) := by
  unfold ckptPageCopy
  exact State.onStall_keeps (by assumption)

theorem State.atEdge_keeps {s0 s : State} {a1 a2} (h : Keeps s0 s) : Keeps s0 (State.atEdge s a1 a2) := by
  unfold State.atEdge
  refine Keeps.ite ?_ ?_
  · assumption
  · refine Keeps.ite ?_ ?_
    · exact State.setStall_keeps (by assumption)
    · exact State.setStall_keeps (by assumption)

theorem State.atBoundary_keeps {s0 s : State} {a1 a2} (h : Keeps s0 s) : Keeps s0 (State.atBoundary s a1 a2) := by
  unfold State.atBoundary
  split
  · rename_i y0 y1 y2 y3
    refine Keeps.ite ?_ ?_
    · assumption
    · split
      · rename_i y4 y5 y6
        exact State.atEdge_keeps (by assumption)
      · rename_i y7 y8
        assumption
  · rename_i y9 y10
    assumption

theorem vblAssert_keeps {s0 s : State} {a0} (h : Keeps s0 s) : Keeps s0 (vblAssert a0 s) := by
  unfold vblAssert
  exact State.atBoundary_keeps (by assumption)

theorem lineMatch_keeps {s0 s : State} {a0} (h : Keeps s0 s) : Keeps s0 (lineMatch a0 s) := by
  unfold lineMatch
  exact State.atBoundary_keeps (by assumption)

theorem timerExpiry_keeps {s0 s : State} {a0 a1} (h : Keeps s0 s) : Keeps s0 (timerExpiry a0 a1 s) := by
  unfold timerExpiry
  exact State.atBoundary_keeps (by assumption)

theorem sndPeriodExpiry_keeps {s0 s : State} {a0} (h : Keeps s0 s) : Keeps s0 (sndPeriodExpiry a0 s) := by
  unfold sndPeriodExpiry
  exact State.atBoundary_keeps (by assumption)

theorem inputVisible_keeps {s0 s : State} {a0} (h : Keeps s0 s) : Keeps s0 (inputVisible a0 s) := by
  unfold inputVisible
  split
  · rename_i y0 y1
    assumption
  · rename_i y2 y3 y4 y5
    split
    · rename_i y6 y7 y8 y9
      refine Keeps.ite ?_ ?_
      · exact State.atEdge_keeps (by assumption)
      · assumption
    · rename_i y10 y11
      split
      · rename_i y12 y13 y14 y15
        extract_lets +onlyGivenNames x16
        clear_value x16
        exact State.atEdge_keeps (by assumption)
      · rename_i y17 y18
        assumption

theorem linkDeliveryVisible_keeps {s0 s : State} {a0} (h : Keeps s0 s) : Keeps s0 (linkDeliveryVisible a0 s) := by
  unfold linkDeliveryVisible
  split
  · rename_i y0 y1
    assumption
  · rename_i y2 y3 y4 y5
    refine Keeps.ite ?_ ?_
    · assumption
    · split
      · rename_i y6 y7 y8 y9
        refine Keeps.ite ?_ ?_
        · split
          rename_i y10 y11 y12 y13
          exact State.atEdge_keeps (by assumption)
        · assumption
      · rename_i y14 y15
        split
        · rename_i y16 y17 y18 y19
          extract_lets +onlyGivenNames x20
          clear_value x20
          refine Keeps.ite ?_ ?_
          · extract_lets +onlyGivenNames x21
            clear_value x21
            exact State.atEdge_keeps (by assumption)
          · refine Keeps.ite ?_ ?_
            · refine State.inc_keeps ?_
              exact State.setStall_keeps (by assumption)
            · exact State.atEdge_keeps (by assumption)
        · rename_i y22 y23
          assumption

theorem stallResetApply_keeps {s0 s : State} {a0} (h : Keeps s0 s) : Keeps s0 (stallResetApply a0 s) := by
  unfold stallResetApply
  split
  · rename_i y0 y1
    assumption
  · rename_i y2 y3 y4 y5
    refine Keeps.ite ?_ ?_
    · extract_lets +onlyGivenNames x6
      clear_value x6
      exact State.atEdge_keeps (by assumption)
    · assumption

theorem checkpointCapture_keeps {s0 s : State} {a0} (h : Keeps s0 s) : Keeps s0 (checkpointCapture a0 s) := by
  unfold checkpointCapture
  split
  · rename_i y0 y1
    assumption
  · rename_i y2 y3 y4 y5
    refine Keeps.ite ?_ ?_
    · refine Keeps.ite ?_ ?_
      · exact State.setStall_keeps (by assumption)
      · refine Keeps.ite ?_ ?_
        · refine Keeps.ite ?_ ?_
          · assumption
          · extract_lets +onlyGivenNames x6
            have h7 : Keeps s0 x6 := by
              unfold x6
              exact State.setStall_keeps (by assumption)
            clear_value x6
            refine State.raise_keeps ?_
            exact State.inc_keeps (by assumption)
        · extract_lets +onlyGivenNames x8
          clear_value x8
          refine State.put_keeps ?_
          refine State.setStall_keeps ?_
          exact State.drainOf_keeps (by assumption)
    · assumption

theorem State.overlay_keeps {s0 s : State} {a0 a1} (h : Keeps s0 s) : Keeps s0 (State.overlay s a0 a1) := by
  unfold State.overlay
  extract_lets +onlyGivenNames x0
  have h1 : ∀ y0 y1 y2, Keeps s0 y0 → Keeps s0 (x0 y0 y1 y2) := by
    intro a2 a3 a4 a5
    unfold x0
    exact State.hbmWrite_keeps (by assumption)
  clear_value x0
  extract_lets +onlyGivenNames x6
  have h7 : Keeps s0 x6 := by
    unfold x6
    refine Keeps.foldl (fun a8 a9 h10 => ?_) _ ?_
    · exact h1 _ _ _ (by assumption)
    · assumption
  clear_value x6
  extract_lets +onlyGivenNames x11
  have h12 : Keeps s0 x11 := by
    unfold x11
    refine Keeps.foldl (fun a13 a14 h15 => ?_) _ ?_
    · exact h1 _ _ _ (by assumption)
    · assumption
  clear_value x11
  refine Keeps.foldl (fun a16 a17 h18 => ?_) _ ?_
  · exact h1 _ _ _ (by assumption)
  · assumption

theorem State.writeCkpt_keeps {s0 s : State} {a0} (h : Keeps s0 s) : Keeps s0 (State.writeCkpt s a0) := by
  unfold State.writeCkpt
  split
  · rename_i y0 y1
    assumption
  · rename_i y2 y3 y4
    extract_lets +onlyGivenNames x5
    have h6 : Keeps s0 x5 := by
      unfold x5
      exact State.areaWrite_keeps (by assumption)
    clear_value x5
    extract_lets +onlyGivenNames x7
    have h8 : Keeps s0 x7 := by
      unfold x7
      refine Keeps.foldl (fun a9 a10 h11 => ?_) _ ?_
      · exact State.hbmWrite_keeps (by assumption)
      · assumption
    clear_value x7
    refine Keeps.ite ?_ ?_
    · exact State.overlay_keeps (by assumption)
    · refine Keeps.ite ?_ ?_
      · split
        · rename_i y12 y13 y14
          exact State.overlay_keeps (by assumption)
        · rename_i y15 y16
          assumption
      · assumption

theorem checkpointComplete_keeps {s0 s : State} {a0} (h : Keeps s0 s) : Keeps s0 (checkpointComplete a0 s) := by
  unfold checkpointComplete
  split
  · rename_i y0 y1
    assumption
  · rename_i y2 y3 y4
    refine Keeps.ite ?_ ?_
    · refine State.setStall_keeps ?_
      exact State.writeCkpt_keeps (by assumption)
    · assumption

theorem State.setLoaded_keeps {s0 s : State} {a1 a2 a3} (h : Keeps s0 s) : Keeps s0 (State.setLoaded s a1 a2 a3) := by
  unfold State.setLoaded
  exact State.put_keeps (by assumption)

theorem State.ucsResult_keeps {s0 s : State} {a1 a2 a3 a4 a5} (h : Keeps s0 s) : Keeps s0 (State.ucsResult s a1 a2 a3 a4 a5) := by
  unfold State.ucsResult
  split
  rename_i y0 y1 y2 y3
  split
  rename_i y4 y5 y6 y7
  refine State.puts_keeps ?_
  refine Keeps.snd (by assumption) ?_
  refine State.draw_keeps ?_
  refine Keeps.snd (by assumption) ?_
  exact State.draw_keeps (by assumption)

theorem ucsValidate_keeps {s0 s : State} {a0 a1} (h : Keeps s0 s) : Keeps s0 (ucsValidate a0 a1 s) := by
  unfold ucsValidate
  refine Keeps.ite ?_ ?_
  · assumption
  · refine Keeps.ite ?_ ?_
    · exact State.ucsResult_keeps (by assumption)
    · split
      · rename_i y0 y1
        refine State.ucsResult_keeps ?_
        exact State.setLoaded_keeps (by assumption)
      · rename_i y2 y3 y4 y5 y6
        exact State.ucsResult_keeps (by assumption)

theorem ucsRelease_keeps {s0 s : State} {a0 a1} (h : Keeps s0 s) : Keeps s0 (ucsRelease a0 a1 s) := by
  unfold ucsRelease
  refine Keeps.ite ?_ ?_
  · assumption
  · refine Keeps.ite ?_ ?_
    · exact State.ucsResult_keeps (by assumption)
    · refine State.ucsResult_keeps ?_
      exact State.setLoaded_keeps (by assumption)

theorem State.writeSet_keeps {s0 s : State} {a1 a2 a3} (h : Keeps s0 s) : Keeps s0 (State.writeSet s a1 a2 a3) := by
  unfold State.writeSet
  refine Keeps.foldl (fun t0 x1 h2 => ?_) _ ?_
  · exact State.put_keeps (by assumption)
  · assumption

theorem State.bindSet_keeps {s0 s : State} {a1 a2} (h : Keeps s0 s) : Keeps s0 (State.bindSet s a1 a2).2 := by
  unfold State.bindSet
  split
  · rename_i y0 y1 y2
    dsimp only
    assumption
  · rename_i y3 y4
    split
    · rename_i y5 y6
      dsimp only
      assumption
    · rename_i y7 y8 y9
      extract_lets +lift +onlyGivenNames x10 x11
      have h12 : ∀ y0, Keeps s0 y0 → Keeps s0 (x10 y0) := by
        intro a13 a14
        unfold x10
        exact State.resetRange_keeps (by assumption)
      clear_value x10
      have h15 : Keeps s0 x11 := by
        unfold x11
        refine State.writeSet_keeps ?_
        exact h12 _ (by assumption)
      clear_value x11
      split
      · rename_i y16 y17 y18 y19 y20
        dsimp only
        refine h12 _ ?_
        exact State.ucsResult_keeps (by assumption)
      · rename_i y21 y22
        dsimp only
        refine State.ucsResult_keeps ?_
        exact State.setLoaded_keeps (by assumption)

theorem State.bindTitle_keeps {s0 s : State} {a1 a2} (h : Keeps s0 s) : Keeps s0 (State.bindTitle s a1 a2).2 := by
  unfold State.bindTitle
  split
  · rename_i y0
    dsimp only
    assumption
  · rename_i y1 y2
    exact State.bindSet_keeps (by assumption)

theorem State.sigStep_keeps {s0 s : State} {a1} (h : Keeps s0 s) : Keeps s0 (State.sigStep s a1) := by
  unfold State.sigStep
  split
  · rename_i y0 y1
    assumption
  · rename_i y2 y3 y4
    split
    · rename_i y5 y6 y7 y8 y9
      refine Keeps.ite ?_ ?_
      · extract_lets +onlyGivenNames x10
        clear_value x10
        extract_lets +onlyGivenNames x11
        have h12 : Keeps s0 x11 := by
          unfold x11
          exact State.hbmWrite_keeps (by assumption)
        clear_value x11
        extract_lets +onlyGivenNames x13
        have h14 : Keeps s0 x13 := by
          unfold x13
          exact State.put_keeps (by assumption)
        clear_value x13
        exact State.setStall_keeps (by assumption)
      · assumption
    · rename_i y15 y16
      assumption

theorem renderDotStep_keeps {s0 s : State} {a0} (h : Keeps s0 s) : Keeps s0 (renderDotStep a0 s) := by
  unfold renderDotStep
  split
  · rename_i y0 y1
    assumption
  · rename_i y2 y3 y4 y5
    refine Keeps.ite ?_ ?_
    · extract_lets +onlyGivenNames x6
      have h7 : Keeps s0 x6 := by
        unfold x6
        exact State.setStall_keeps (by assumption)
      clear_value x6
      extract_lets +onlyGivenNames x8
      clear_value x8
      extract_lets +onlyGivenNames x9
      have h10 : Keeps s0 x9 := by
        unfold x9
        refine Keeps.ite ?_ ?_
        · exact State.put_keeps (by assumption)
        · assumption
      clear_value x9
      exact State.sigStep_keeps (by assumption)
    · assumption

theorem sliceDeadline_keeps {s0 s : State} {a0} (h : Keeps s0 s) : Keeps s0 (sliceDeadline a0 s) := by
  unfold sliceDeadline
  split
  · rename_i y0 y1
    assumption
  · rename_i y2 y3 y4 y5
    extract_lets +onlyGivenNames x6
    clear_value x6
    extract_lets +onlyGivenNames x7
    clear_value x7
    refine Keeps.ite ?_ ?_
    · exact State.setStall_keeps (by assumption)
    · refine Keeps.ite ?_ ?_
      · extract_lets +onlyGivenNames x8
        have h9 : Keeps s0 x8 := by
          unfold x8
          exact State.setStall_keeps (by assumption)
        clear_value x8
        extract_lets +onlyGivenNames x10
        have h11 : Keeps s0 x10 := by
          unfold x10
          refine State.put_keeps ?_
          exact State.inc_keeps (by assumption)
        clear_value x10
        exact State.raise_keeps (by assumption)
      · assumption

theorem State.evictHot_keeps {s0 s : State} {a0 a1 a2 a3} (h : Keeps s0 s) : Keeps s0 (State.evictHot s a0 a1 a2 a3) := by
  unfold State.evictHot
  split
  · rename_i y0 y1 y2
    refine State.setStall_keeps ?_
    exact State.drainOf_keeps (by assumption)
  · rename_i y3 y4
    assumption

theorem sliceGrant_keeps {s0 s : State} {a0 a1} (h : Keeps s0 s) : Keeps s0 (sliceGrant a0 a1 s) := by
  unfold sliceGrant
  refine Keeps.ite ?_ ?_
  · assumption
  · split
    · rename_i y0 y1
      assumption
    · rename_i y2 y3 y4
      extract_lets +onlyGivenNames x5
      clear_value x5
      refine Keeps.ite ?_ ?_
      · assumption
      · extract_lets +onlyGivenNames x6
        clear_value x6
        split
        rename_i y7 y8 y9 y10
        extract_lets +onlyGivenNames x11
        clear_value x11
        extract_lets +onlyGivenNames x12
        have h13 : Keeps s0 x12 := by
          unfold x12
          refine State.evictHot_keeps ?_
          refine Keeps.snd y10 ?_
          exact State.draw_keeps (by assumption)
        clear_value x12
        extract_lets +onlyGivenNames x14
        have h15 : Keeps s0 x14 := by
          unfold x14
          refine Keeps.ite ?_ ?_
          · assumption
          · exact State.drainOf_keeps (by assumption)
        clear_value x14
        exact State.setStall_keeps (by assumption)

theorem quantumExpiry_keeps {s0 s : State} {a0} (h : Keeps s0 s) : Keeps s0 (quantumExpiry a0 s) := by
  unfold quantumExpiry
  split
  · rename_i y0 y1
    assumption
  · rename_i y2 y3 y4 y5
    refine Keeps.ite ?_ ?_
    · exact State.setStall_keeps (by assumption)
    · assumption

theorem holdEvict_keeps {s0 s : State} {a0} (h : Keeps s0 s) : Keeps s0 (holdEvict a0 s) := by
  unfold holdEvict
  split
  · rename_i y0 y1
    assumption
  · rename_i y2 y3 y4 y5
    extract_lets +onlyGivenNames x6
    clear_value x6
    refine Keeps.ite ?_ ?_
    · refine State.setStall_keeps ?_
      exact State.drainOf_keeps (by assumption)
    · assumption

theorem holdClear_keeps {s0 s : State} {a0} (h : Keeps s0 s) : Keeps s0 (holdClear a0 s) := by
  unfold holdClear
  split
  · rename_i y0 y1
    assumption
  · rename_i y2 y3 y4 y5
    refine Keeps.ite ?_ ?_
    · exact State.setStall_keeps (by assumption)
    · assumption

theorem blockedRelease_keeps {s0 s : State} {a0} (h : Keeps s0 s) : Keeps s0 (blockedRelease a0 s) := by
  unfold blockedRelease
  split
  · rename_i y0 y1
    assumption
  · rename_i y2 y3 y4 y5
    refine Keeps.ite ?_ ?_
    · exact State.setStall_keeps (by assumption)
    · assumption

theorem parkTimeout_keeps {s0 s : State} {a0} (h : Keeps s0 s) : Keeps s0 (parkTimeout a0 s) := by
  unfold parkTimeout
  split
  · rename_i y0 y1
    assumption
  · rename_i y2 y3 y4 y5
    refine Keeps.ite ?_ ?_
    · exact State.park_keeps (by assumption)
    · assumption

theorem State.eachOn_keeps {s0 s : State} {a1 a2} (h : Keeps s0 s) (ha2 : ∀ t y1, Keeps s0 t → Keeps s0 (a2 t y1)) : Keeps s0 (State.eachOn s a1 a2) := by
  unfold State.eachOn
  refine Keeps.foldl (fun t0 x1 h2 => ?_) _ ?_
  · exact ha2 _ _ (by assumption)
  · assumption

theorem stbDrain_keeps {s0 s : State} {a0 a1} (h : Keeps s0 s) : Keeps s0 (stbDrain a0 a1 s) := by
  unfold stbDrain
  refine Keeps.ite ?_ ?_
  · assumption
  · extract_lets +onlyGivenNames x0
    have h1 : Keeps s0 x0 := by
      unfold x0
      exact State.put_keeps (by assumption)
    clear_value x0
    extract_lets +onlyGivenNames x2
    clear_value x2
    refine Keeps.ite ?_ ?_
    · extract_lets +onlyGivenNames x3
      have h4 : Keeps s0 x3 := by
        unfold x3
        refine Keeps.ite ?_ ?_
        · exact State.put_keeps (by assumption)
        · assumption
      clear_value x3
      refine State.eachOn_keeps ?_ ?_
      · assumption
      · intro a5 a6 a7
        exact State.park_keeps (by assumption)
    · extract_lets +onlyGivenNames x8
      have h9 : Keeps s0 x8 := by
        unfold x8
        refine Keeps.ite ?_ ?_
        · exact State.put_keeps (by assumption)
        · assumption
      clear_value x8
      refine State.eachOn_keeps ?_ ?_
      · assumption
      · intro a10 a11 a12
        exact State.unpark_keeps (by assumption)

theorem State.spareFlag_keeps {s0 s : State} (h : Keeps s0 s) : Keeps s0 (State.spareFlag s) := by
  unfold State.spareFlag
  exact State.setDegrade_keeps (by assumption)

theorem State.fenceSlot_keeps {s0 s : State} {a1} (h : Keeps s0 s) : Keeps s0 (State.fenceSlot s a1) := by
  unfold State.fenceSlot
  extract_lets +onlyGivenNames x0
  have h1 : Keeps s0 x0 := by
    unfold x0
    refine State.eachOn_keeps ?_ ?_
    · assumption
    · intro a2 a3 a4
      exact State.onStall_keeps (by assumption)
  clear_value x0
  extract_lets +onlyGivenNames x5
  have h6 : Keeps s0 x5 := by
    unfold x5
    exact Keeps.upd (s := x0) rfl rfl rfl rfl rfl rfl rfl (by assumption)
  clear_value x5
  extract_lets +onlyGivenNames x7
  have h8 : Keeps s0 x7 := by
    unfold x7
    exact State.puts_keeps (by assumption)
  clear_value x7
  refine Keeps.ite ?_ ?_
  · exact State.spareFlag_keeps (by assumption)
  · assumption

theorem stableReset_keeps {s0 s : State} {a0 a1} (h : Keeps s0 s) : Keeps s0 (stableReset a0 a1 s) := by
  unfold stableReset
  refine Keeps.ite ?_ ?_
  · assumption
  · extract_lets +onlyGivenNames x0
    have h1 : Keeps s0 x0 := by
      unfold x0
      exact State.resetRange_keeps (by assumption)
    clear_value x0
    extract_lets +onlyGivenNames x2
    have h3 : Keeps s0 x2 := by
      unfold x2
      split
      · rename_i y4 y5 y6
        exact State.puts_keeps (by assumption)
      · rename_i y7 y8
        exact State.put_keeps (by assumption)
    clear_value x2
    refine Keeps.ite ?_ ?_
    · exact State.spareFlag_keeps (by assumption)
    · assumption

theorem State.setStream_keeps {s0 s : State} {a1} (h : Keeps s0 s) : Keeps s0 (State.setStream s a1) := by
  unfold State.setStream
  exact Keeps.upd (s := s) rfl rfl rfl rfl rfl rfl rfl (by assumption)

theorem State.regionDone_keeps {s0 s : State} {a1 a2 a3 a4 a5} (h : Keeps s0 s) : Keeps s0 (State.regionDone s a1 a2 a3 a4 a5) := by
  unfold State.regionDone
  split
  · rename_i y0 y1
    assumption
  · rename_i y2 y3 y4
    extract_lets +onlyGivenNames x5
    clear_value x5
    extract_lets +onlyGivenNames x6
    clear_value x6
    extract_lets +onlyGivenNames x7
    have h8 : Keeps s0 x7 := by
      unfold x7
      exact State.setStream_keeps (by assumption)
    clear_value x7
    refine Keeps.ite ?_ ?_
    · refine State.raise_keeps ?_
      refine State.inc_keeps ?_
      exact State.puts_keeps (by assumption)
    · assumption

theorem State.stage0_keeps {s0 s : State} {a1 a2} (h : Keeps s0 s) : Keeps s0 (State.stage0 s a1 a2) := by
  unfold State.stage0
  refine Keeps.ite ?_ ?_
  · assumption
  · refine Keeps.foldl (fun t0 x1 h2 => ?_) _ ?_
    · extract_lets +onlyGivenNames x3
      clear_value x3
      refine Keeps.ite ?_ ?_
      · exact State.regionDone_keeps (by assumption)
      · assumption
    · assumption

theorem State.stage1_keeps {s0 s : State} {a1 a2 a3} (h : Keeps s0 s) : Keeps s0 (State.stage1 s a1 a2 a3) := by
  unfold State.stage1
  refine Keeps.foldl (fun t0 x1 h2 => ?_) _ ?_
  · refine Keeps.ite ?_ ?_
    · refine Keeps.foldl (fun t3 x4 h5 => ?_) _ ?_
      · extract_lets +onlyGivenNames x6
        clear_value x6
        refine Keeps.ite ?_ ?_
        · exact State.regionDone_keeps (by assumption)
        · assumption
      · assumption
    · assumption
  · assumption

theorem State.replaceStream_keeps {s0 s : State} {a0 a1} (h : Keeps s0 s) : Keeps s0 (State.replaceStream s a0 a1) := by
  unfold State.replaceStream
  extract_lets +onlyGivenNames x0
  clear_value x0
  refine State.setStream_keeps ?_
  exact State.giveExts_keeps (by assumption)

theorem State.writeSlice_keeps {s0 s : State} {a1 a2 a3 a4} (h : Keeps s0 s) : Keeps s0 (State.writeSlice s a1 a2 a3 a4) := by
  unfold State.writeSlice
  extract_lets +onlyGivenNames x0
  clear_value x0
  extract_lets +onlyGivenNames x1
  clear_value x1
  extract_lets +onlyGivenNames x2
  clear_value x2
  split
  rename_i y3 y4 y5 y6 y7
  extract_lets +onlyGivenNames x8
  clear_value x8
  extract_lets +onlyGivenNames x9
  clear_value x9
  extract_lets +onlyGivenNames x10
  have h11 : Keeps s0 x10 := by
    unfold x10
    exact State.hbmWrite_keeps (by assumption)
  clear_value x10
  extract_lets +onlyGivenNames x12
  have h13 : Keeps s0 x12 := by
    unfold x12
    exact State.hbmWrite_keeps (by assumption)
  clear_value x12
  extract_lets +onlyGivenNames x14
  clear_value x14
  extract_lets +onlyGivenNames x15
  clear_value x15
  extract_lets +onlyGivenNames x16
  clear_value x16
  extract_lets +onlyGivenNames x17
  have h18 : Keeps s0 x17 := by
    unfold x17
    exact State.replaceStream_keeps (by assumption)
  clear_value x17
  extract_lets +onlyGivenNames x19
  have h20 : Keeps s0 x19 := by
    unfold x19
    refine Keeps.ite ?_ ?_
    · exact State.capture_keeps (by assumption)
    · assumption
  clear_value x19
  exact State.stage0_keeps (by assumption)

theorem composeSlice_keeps {s0 s : State} {a0} (h : Keeps s0 s) : Keeps s0 (composeSlice a0 s) := by
  unfold composeSlice
  split
  · rename_i y0 y1
    assumption
  · rename_i y2 y3 y4
    split
    · rename_i y5 y6 y7 y8
      refine Keeps.ite ?_ ?_
      · exact State.writeSlice_keeps (by assumption)
      · assumption
    · rename_i y9 y10
      assumption

theorem sliceLateLimit_keeps {s0 s : State} {a0} (h : Keeps s0 s) : Keeps s0 (sliceLateLimit a0 s) := by
  unfold sliceLateLimit
  split
  · rename_i y0 y1
    assumption
  · rename_i y2 y3 y4
    split
    · rename_i y5 y6 y7 y8
      refine Keeps.ite ?_ ?_
      · extract_lets +onlyGivenNames x9
        have h10 : Keeps s0 x9 := by
          unfold x9
          exact State.writeSlice_keeps (by assumption)
        clear_value x9
        refine State.raise_keeps ?_
        refine State.put_keeps ?_
        exact State.inc_keeps (by assumption)
      · assumption
    · rename_i y11 y12
      assumption

theorem State.beginFrames_keeps {s0 s : State} {a1} (h : Keeps s0 s) : Keeps s0 (State.beginFrames s a1) := by
  unfold State.beginFrames
  refine Keeps.ite ?_ ?_
  · exact Keeps.upd (s := s) rfl rfl rfl rfl rfl rfl rfl (by assumption)
  · assumption

theorem State.monLow_keeps {s0 s : State} {a0} (h : Keeps s0 s) : Keeps s0 (State.monLow s a0) := by
  unfold State.monLow
  split
  · exact State.raise_keeps (State.put_keeps h)
  · exact h

theorem State.monUnder_keeps {s0 s : State} {a0 a1} (h : Keeps s0 s) : Keeps s0 (State.monUnder s a0 a1) := by
  unfold State.monUnder
  extract_lets +onlyGivenNames x0
  clear_value x0
  extract_lets +onlyGivenNames x1
  have h2 : Keeps s0 x1 := by
    unfold x1
    exact Keeps.upd (s := s) rfl rfl rfl rfl rfl rfl rfl (by assumption)
  clear_value x1
  refine State.raise_keeps ?_
  refine State.inc_keeps ?_
  exact State.monLow_keeps (by assumption)

theorem State.monLine_keeps {s0 s : State} (h : Keeps s0 s) : Keeps s0 (State.monLine s) := by
  unfold State.monLine
  split
  rename_i y0 y1 y2 y3
  extract_lets +onlyGivenNames x4
  clear_value x4
  extract_lets +onlyGivenNames x5
  clear_value x5
  refine Keeps.ite ?_ ?_
  · extract_lets +onlyGivenNames x6
    clear_value x6
    extract_lets +onlyGivenNames x7
    have h8 : Keeps s0 x7 := by
      unfold x7
      exact Keeps.upd (s := s) rfl rfl rfl rfl rfl rfl rfl (by assumption)
    clear_value x7
    extract_lets +onlyGivenNames x9
    have h10 : Keeps s0 x9 := by
      unfold x9
      exact State.monLow_keeps (by assumption)
    clear_value x9
    extract_lets +onlyGivenNames x11
    clear_value x11
    refine Keeps.ite ?_ ?_
    · exact State.monUnder_keeps (by assumption)
    · assumption
  · assumption

theorem State.monSend_keeps {s0 s : State} (h : Keeps s0 s) : Keeps s0 (State.monSend s) := by
  unfold State.monSend
  extract_lets +onlyGivenNames x0
  clear_value x0
  extract_lets +onlyGivenNames x1
  clear_value x1
  extract_lets +onlyGivenNames x2
  clear_value x2
  refine Keeps.ite ?_ ?_
  · exact Keeps.upd (s := s) rfl rfl rfl rfl rfl rfl rfl (by assumption)
  · assumption

theorem State.monTick_keeps {s0 s : State} (h : Keeps s0 s) : Keeps s0 (State.monTick s) := by
  unfold State.monTick
  refine Keeps.ite ?_ ?_
  · extract_lets +onlyGivenNames x0
    have h1 : Keeps s0 x0 := by
      unfold x0
      refine State.monSend_keeps ?_
      exact State.monLine_keeps (by assumption)
    clear_value x0
    exact Keeps.upd (s := x0) rfl rfl rfl rfl rfl rfl rfl (by assumption)
  · assumption

theorem State.cadTick_keeps {s0 s : State} (h : Keeps s0 s) : Keeps s0 (State.cadTick s) := by
  unfold State.cadTick
  extract_lets +onlyGivenNames x0
  clear_value x0
  extract_lets +onlyGivenNames x1
  have h2 : Keeps s0 x1 := by
    unfold x1
    exact Keeps.upd (s := s) rfl rfl rfl rfl rfl rfl rfl (by assumption)
  clear_value x1
  extract_lets +onlyGivenNames x3
  have h4 : Keeps s0 x3 := by
    unfold x3
    refine State.monTick_keeps ?_
    exact State.drainTick_keeps (by assumption)
  clear_value x3
  refine Keeps.ite ?_ ?_
  · exact State.beginFrames_keeps (by assumption)
  · assumption

theorem State.tickNs_keeps {s0 s : State} (h : Keeps s0 s) : Keeps s0 (State.tickNs s) := by
  unfold State.tickNs
  extract_lets +onlyGivenNames x0
  clear_value x0
  refine Keeps.foldl (fun a1 a2 h3 => ?_) _ ?_
  · exact State.cadTick_keeps (by assumption)
  · exact Keeps.upd (s := s) rfl rfl rfl rfl rfl rfl rfl (by assumption)

theorem cmpCommit_keeps {s0 s : State} {a0} (h : Keeps s0 s) : Keeps s0 (cmpCommit a0 s) := by
  unfold cmpCommit
  refine Keeps.ite ?_ ?_
  · assumption
  · extract_lets +onlyGivenNames x0
    clear_value x0
    extract_lets +onlyGivenNames x1
    have h2 : Keeps s0 x1 := by
      unfold x1
      exact State.put_keeps (by assumption)
    clear_value x1
    exact Keeps.upd (s := x1) rfl rfl rfl rfl rfl rfl rfl (by assumption)

theorem State.commitRefused_keeps {s0 s : State} {a1 a2 a3 a4} (h : Keeps s0 s) : Keeps s0 (State.commitRefused s a1 a2 a3 a4) := by
  unfold State.commitRefused
  split
  rename_i y0 y1 y2 y3
  refine State.raise_keeps ?_
  refine State.puts_keeps ?_
  refine Keeps.snd (by assumption) ?_
  exact State.draw_keeps (by assumption)

theorem State.placeBeds_keeps {s0 : State} {a1 w hh : Nat} {old : List Bed} (l : List (List Course)) :
    ∀ {s : State}, Keeps s0 s → ∀ p, s.placeBeds a1 w hh old l = some p → Keeps s0 p.2 := by
  induction l with
  | nil =>
    intro s h p e
    obtain rfl := Option.some.inj (by simpa [State.placeBeds] using e)
    exact h
  | cons g l ih =>
    intro s h p e
    unfold State.placeBeds at e
    dsimp only at e
    split at e
    · obtain ⟨q, hq, rfl⟩ := Option.map_eq_some_iff.1 e
      exact ih h q hq
    · split at e
      · obtain ⟨q, hq, rfl⟩ := Option.map_eq_some_iff.1 e
        exact ih h q hq
      · split at e
        · cases e
        · obtain ⟨q, hq, rfl⟩ := Option.map_eq_some_iff.1 e
          exact ih (State.giveExts_keeps h) q hq

theorem commitValidated_keeps {s0 s : State} {a0} (h : Keeps s0 s) : Keeps s0 (commitValidated a0 s) := by
  unfold commitValidated
  split
  · exact h
  · rename_i n d _
    extract_lets x y
    have h1 : Keeps s0 y := Keeps.upd (s := x) rfl rfl rfl rfl rfl rfl rfl (State.put_keeps h)
    split
    · exact State.commitRefused_keeps h1
    · exact h1
    · rename_i v _ _
      extract_lets need
      have hk : ∀ o : Option (List Bed × State), (∀ p, o = some p → Keeps s0 p.2) → Keeps s0 (match o with
          | none => y.commitRefused n rBED none false
          | some (beds, s) => s.replaceStream v
              { v with commit := some { copy := d, since := s.time, bedAt := if need then none else some s.time, beds } }) := by
        intro o ho
        cases o with
        | none => exact State.commitRefused_keeps h1
        | some p => exact State.replaceStream_keeps (ho p rfl)
      refine hk _ fun p e => ?_
      split at e
      · cases e
      · exact State.placeBeds_keeps _ h1 p e

theorem bedRebuildComplete_keeps {s0 s : State} {a0} (h : Keeps s0 s) : Keeps s0 (bedRebuildComplete a0 s) := by
  unfold bedRebuildComplete
  split
  · rename_i y0 y1
    assumption
  · rename_i y2 y3 y4
    split
    · rename_i y5 y6 y7
      refine Keeps.ite ?_ ?_
      · exact State.setStream_keeps (by assumption)
      · assumption
    · rename_i y8 y9
      assumption

theorem commitTakeEffect_keeps {s0 s : State} {a0} (h : Keeps s0 s) : Keeps s0 (commitTakeEffect a0 s) := by
  unfold commitTakeEffect
  split
  · rename_i y0 y1
    assumption
  · rename_i y2 y3 y4
    split
    · rename_i y5 y6
      assumption
    · rename_i y7 y8 y9
      split
      · rename_i y10 y11
        assumption
      · rename_i y12 y13 y14
        refine Keeps.ite ?_ ?_
        · extract_lets +onlyGivenNames x15
          clear_value x15
          extract_lets +onlyGivenNames x16
          clear_value x16
          extract_lets +onlyGivenNames x17
          clear_value x17
          extract_lets +onlyGivenNames x18
          clear_value x18
          extract_lets +onlyGivenNames x19
          clear_value x19
          extract_lets +onlyGivenNames x20
          clear_value x20
          refine State.raise_keeps ?_
          exact State.replaceStream_keeps (by assumption)
        · assumption

theorem sliceDeadlineRegions_keeps {s0 s : State} {a0} (h : Keeps s0 s) : Keeps s0 (sliceDeadlineRegions a0 s) := by
  unfold sliceDeadlineRegions
  extract_lets +onlyGivenNames x0
  have h1 : Keeps s0 x0 := by
    unfold x0
    exact sliceDeadline_keeps (by assumption)
  clear_value x0
  split
  · rename_i y2 y3 y4 y5 y6 y7
    refine Keeps.ite ?_ ?_
    · exact State.stage1_keeps (by assumption)
    · assumption
  · rename_i y8 y9 y10
    assumption

theorem State.recost_keeps {s0 s : State} (h : Keeps s0 s) : Keeps s0 (State.recost s) := by
  unfold State.recost
  exact State.put_keeps (by assumption)

theorem codingRowStart_keeps {s0 s : State} {a0} (h : Keeps s0 s) : Keeps s0 (codingRowStart a0 s) := by
  unfold codingRowStart
  refine Keeps.ite ?_ ?_
  · assumption
  · split
    · rename_i y0 y1
      assumption
    · rename_i y2 y3 y4 y5
      split
      · rename_i y6
        assumption
      · rename_i y7 y8 y9
        extract_lets +onlyGivenNames x10
        clear_value x10
        extract_lets +onlyGivenNames x11
        clear_value x11
        extract_lets +onlyGivenNames x12
        clear_value x12
        extract_lets +onlyGivenNames x13
        clear_value x13
        extract_lets +onlyGivenNames x14
        clear_value x14
        extract_lets +onlyGivenNames x15
        clear_value x15
        extract_lets +onlyGivenNames x16
        clear_value x16
        extract_lets +onlyGivenNames x17
        have h18 : Keeps s0 x17 := by
          unfold x17
          exact State.setStream_keeps (by assumption)
        clear_value x17
        exact Keeps.upd (s := x17) rfl rfl rfl rfl rfl rfl rfl (by assumption)

theorem State.ringWrite_keeps {s0 s : State} {a0 a1 a2 a3 a4 a5} (h : Keeps s0 s) : Keeps s0 (State.ringWrite s a0 a1 a2 a3 a4 a5) := by
  unfold State.ringWrite
  refine Keeps.ite ?_ ?_
  · split
    rename_i y0 y1 y2 y3
    refine State.hbmWrite_keeps ?_
    refine State.hbmWrite_keeps ?_
    refine Keeps.snd y3 ?_
    exact State.freeBytes_keeps (by assumption)
  · exact State.hbmWrite_keeps (by assumption)

theorem codingRowDone_keeps {s0 s : State} {a0} (h : Keeps s0 s) : Keeps s0 (codingRowDone a0 s) := by
  unfold codingRowDone
  split
  · rename_i y0 y1
    assumption
  · rename_i y2 y3 y4
    extract_lets +onlyGivenNames x5
    have h6 : Keeps s0 x5 := by
      unfold x5
      exact Keeps.upd (s := s) rfl rfl rfl rfl rfl rfl rfl (by assumption)
    clear_value x5
    refine Keeps.ite ?_ ?_
    · assumption
    · extract_lets +onlyGivenNames x7
      have h8 : Keeps s0 x7 := by
        unfold x7
        exact State.put_keeps (by assumption)
      clear_value x7
      split
      · rename_i y9 y10 y11 y12 y13 y14 y15
        extract_lets +onlyGivenNames x16
        clear_value x16
        extract_lets +onlyGivenNames x17
        clear_value x17
        extract_lets +onlyGivenNames x18
        clear_value x18
        extract_lets +onlyGivenNames x19
        clear_value x19
        split
        rename_i y20 y21 y22 y23
        split
        rename_i y24 y25 y26 y27
        extract_lets +onlyGivenNames x28
        have h29 : Keeps s0 x28 := by
          unfold x28
          refine Keeps.ite ?_ ?_
          · refine State.raise_keeps ?_
            refine State.put_keeps ?_
            refine State.inc_keeps ?_
            refine Keeps.snd y27 ?_
            exact State.draw_keeps (by assumption)
          · refine Keeps.snd y27 ?_
            exact State.draw_keeps (by assumption)
        clear_value x28
        extract_lets +onlyGivenNames x30
        clear_value x30
        extract_lets +onlyGivenNames x31
        clear_value x31
        extract_lets +onlyGivenNames x32
        clear_value x32
        extract_lets +onlyGivenNames x33
        clear_value x33
        extract_lets +onlyGivenNames x34
        clear_value x34
        extract_lets +onlyGivenNames x35
        clear_value x35
        split
        · rename_i y36 y37 y38 y39 y40
          extract_lets +onlyGivenNames x41
          have h42 : Keeps s0 x41 := by
            unfold x41
            exact State.ringWrite_keeps (by assumption)
          clear_value x41
          exact State.setStream_keeps (by assumption)
        · rename_i y43 y44
          extract_lets +onlyGivenNames x45
          clear_value x45
          extract_lets +onlyGivenNames x46
          have h47 : Keeps s0 x46 := by
            unfold x46
            exact State.setStream_keeps (by assumption)
          clear_value x46
          refine State.raise_keeps ?_
          refine State.put_keeps ?_
          exact State.inc_keeps (by assumption)
      · rename_i y48 y49 y50
        assumption

theorem State.recordFault_keeps {s0 s : State} {a1 a2} (h : Keeps s0 s) : Keeps s0 (State.recordFault s a1 a2) := by
  unfold State.recordFault
  extract_lets +onlyGivenNames x0
  have h1 : Keeps s0 x0 := by
    unfold x0
    exact State.puts_keeps (by assumption)
  clear_value x0
  exact State.inc_keeps (by assumption)

theorem State.stopStream_keeps {s0 s : State} {a1} (h : Keeps s0 s) : Keeps s0 (State.stopStream s a1) := by
  unfold State.stopStream
  extract_lets +onlyGivenNames x0
  clear_value x0
  extract_lets +onlyGivenNames x1
  clear_value x1
  extract_lets +onlyGivenNames x2
  have h3 : Keeps s0 x2 := by
    unfold x2
    exact State.setStream_keeps (by assumption)
  clear_value x2
  extract_lets +onlyGivenNames x4
  have h5 : Keeps s0 x4 := by
    unfold x4
    exact State.recost_keeps (by assumption)
  clear_value x4
  exact State.notice_keeps (by assumption)

theorem State.shed_keeps {s0 s : State} {a1 a2} (h : Keeps s0 s) : Keeps s0 (State.shed s a1 a2) := by
  unfold State.shed
  refine Keeps.foldl (fun t0 x1 h2 => ?_) _ ?_
  · refine Keeps.ite ?_ ?_
    · assumption
    · split
      · rename_i y3 y4 y5
        refine Keeps.ite ?_ ?_
        · assumption
        · extract_lets +onlyGivenNames x6
          have h7 : Keeps s0 x6 := by
            unfold x6
            exact State.stopStream_keeps (by assumption)
          clear_value x6
          refine Keeps.ite ?_ ?_
          · exact State.park_keeps (by assumption)
          · assumption
      · rename_i y8 y9
        assumption
  · assumption

theorem State.encRecover_keeps {s0 s : State} (h : Keeps s0 s) : Keeps s0 (State.encRecover s) := by
  unfold State.encRecover
  extract_lets +onlyGivenNames x0
  clear_value x0
  extract_lets +onlyGivenNames x1
  have h2 : Keeps s0 x1 := by
    unfold x1
    exact State.setDegrade_keeps (by assumption)
  clear_value x1
  extract_lets +onlyGivenNames x3
  have h4 : Keeps s0 x3 := by
    unfold x3
    exact Keeps.upd (s := x1) rfl rfl rfl rfl rfl rfl rfl (by assumption)
  clear_value x3
  refine Keeps.ite ?_ ?_
  · assumption
  · refine Keeps.ite ?_ ?_
    · exact Keeps.upd (s := x3) rfl rfl rfl rfl rfl rfl rfl (by assumption)
    · extract_lets +onlyGivenNames x5
      have h6 : Keeps s0 x5 := by
        unfold x5
        exact State.put_keeps (by assumption)
      clear_value x5
      extract_lets +onlyGivenNames x7
      have h8 : Keeps s0 x7 := by
        unfold x7
        exact State.setDegrade_keeps (by assumption)
      clear_value x7
      extract_lets +onlyGivenNames x9
      have h10 : Keeps s0 x9 := by
        unfold x9
        exact State.shed_keeps (by assumption)
      clear_value x9
      exact State.shed_keeps (by assumption)

theorem State.encFail_keeps {s0 s : State} {a b} (h : Keeps s0 s) : Keeps s0 (State.encFail s a b) := by
  have h1 : Keeps s0 ((s.recordFault 3 a).puts [(encState a, 3), (encCause a, b)]) :=
    State.puts_keeps (State.recordFault_keeps h)
  unfold State.encFail
  revert h1
  dsimp only
  generalize (s.recordFault 3 a).puts [(encState a, 3), (encCause a, b)] = t
  intro h1
  generalize ((t.encJobs.filter fun j => j.core == a && !j.gone).map RowJob.stream) = l
  have h2 : Keeps s0 (State.raise { t with
      encJobs := t.encJobs.filter fun j => j.core != a
      encFront := t.encFront ++ l } evEncCore) :=
    State.raise_keeps (Keeps.upd (s := t) rfl rfl rfl rfl rfl rfl rfl h1)
  revert h2
  generalize State.raise { t with
      encJobs := t.encJobs.filter fun j => j.core != a
      encFront := t.encFront ++ l } evEncCore = u
  intro h2
  exact Keeps.ite (Keeps.upd (s := u) rfl rfl rfl rfl rfl rfl rfl h2) (State.encRecover_keeps h2)

theorem encCoreFault_keeps {s0 s : State} {a0 a1} (h : Keeps s0 s) : Keeps s0 (encCoreFault a0 a1 s) := by
  unfold encCoreFault
  refine Keeps.ite ?_ ?_
  · exact State.encFail_keeps (by assumption)
  · assumption

theorem encRowWatchdog_keeps {s0 s : State} {a0} (h : Keeps s0 s) : Keeps s0 (encRowWatchdog a0 s) := by
  unfold encRowWatchdog
  split
  · rename_i y0 y1
    assumption
  · rename_i y2 y3 y4
    refine Keeps.ite ?_ ?_
    · exact State.encFail_keeps (by assumption)
    · assumption

theorem encSpareActivate_keeps {s0 s : State} (h : Keeps s0 s) : Keeps s0 (encSpareActivate s) := by
  unfold encSpareActivate
  refine Keeps.ite ?_ ?_
  · split
    · rename_i y0 y1 y2
      extract_lets +onlyGivenNames x3
      have h4 : Keeps s0 x3 := by
        unfold x3
        exact State.put_keeps (by assumption)
      clear_value x3
      exact Keeps.upd (s := x3) rfl rfl rfl rfl rfl rfl rfl (by assumption)
    · rename_i y5 y6
      exact Keeps.upd (s := s) rfl rfl rfl rfl rfl rfl rfl (by assumption)
  · assumption

theorem State.dropCommit_keeps {s0 s : State} {a0} (h : Keeps s0 s) : Keeps s0 (State.dropCommit s a0) := by
  unfold State.dropCommit
  split
  · rename_i y0 y1 y2 y3
    refine Keeps.ite ?_ ?_
    · extract_lets +onlyGivenNames x4
      have h5 : Keeps s0 x4 := by
        unfold x4
        exact State.put_keeps (by assumption)
      clear_value x4
      exact Keeps.upd (s := x4) rfl rfl rfl rfl rfl rfl rfl (by assumption)
    · assumption
  · rename_i y6 y7
    assumption

theorem State.dropStreams_keeps {s0 s : State} {a1} (h : Keeps s0 s) : Keeps s0 (State.dropStreams s a1) := by
  unfold State.dropStreams
  extract_lets +onlyGivenNames x0
  have h1 : Keeps s0 x0 := by
    unfold x0
    exact State.dropCommit_keeps (by assumption)
  clear_value x0
  extract_lets +onlyGivenNames x2
  have h3 : Keeps s0 x2 := by
    unfold x2
    exact State.giveExts_keeps (by assumption)
  clear_value x2
  extract_lets +onlyGivenNames x4
  have h5 : Keeps s0 x4 := by
    unfold x4
    exact Keeps.upd (s := x2) rfl rfl rfl rfl rfl rfl rfl (by assumption)
  clear_value x4
  exact State.recost_keeps (by assumption)

theorem State.keepPicture_keeps {s0 s : State} {a0} (h : Keeps s0 s) : Keeps s0 (State.keepPicture s a0) := by
  unfold State.keepPicture
  split
  · rename_i y0 y1 y2
    exact Keeps.upd (s := s) rfl rfl rfl rfl rfl rfl rfl (by assumption)
  · rename_i y3 y4
    assumption

theorem State.putResident_keeps {s0 s : State} {a0} (h : Keeps s0 s) : Keeps s0 (State.putResident s a0) := by
  unfold State.putResident
  exact Keeps.upd (s := s) rfl rfl rfl rfl rfl rfl rfl (by assumption)

theorem State.place_keeps {s0 s : State} {a1 a2 a3 a4} (h : Keeps s0 s) : Keeps s0 (State.place s a1 a2 a3 a4) := by
  unfold State.place
  exact State.puts_keeps (by assumption)

theorem State.unplace_keeps {s0 s : State} {a1} (h : Keeps s0 s) : Keeps s0 (State.unplace s a1) := by
  unfold State.unplace
  exact State.puts_keeps (by assumption)

theorem State.showRamp_keeps {s0 s : State} (h : Keeps s0 s) : Keeps s0 (State.showRamp s) := by
  unfold State.showRamp
  exact State.put_keeps (by assumption)

theorem State.countUnits_keeps {s0 s : State} (h : Keeps s0 s) : Keeps s0 (State.countUnits s) := by
  unfold State.countUnits
  exact State.puts_keeps (by assumption)

theorem State.forget_keeps {s0 s : State} {a1 a2} (h : Keeps s0 s) : Keeps s0 (State.forget s a1 a2) :=
  Keeps.upd (s := s) rfl rfl rfl rfl rfl rfl rfl h

theorem State.destroyStall_keeps {s0 s : State} {a1 a2} (h : Keeps s0 s) : Keeps s0 (State.destroyStall s a1 a2) := by
  unfold State.destroyStall
  exact State.showRamp_keeps (State.countUnits_keeps (State.unplace_keeps (State.forget_keeps (State.putResident_keeps
    (State.drainOf_keeps (State.giveExts_keeps (State.dropStreams_keeps (State.keepPicture_keeps h))))))))

theorem State.giveAreas_keeps {s0 s : State} {a0 a1} (h : Keeps s0 s) : Keeps s0 (State.giveAreas s a0 a1).2 := by
  unfold State.giveAreas
  extract_lets +lift +onlyGivenNames e c u
  have h1 : Keeps s0 u := by
    unfold u
    exact State.giveExts_keeps (State.giveExts_keeps h)
  clear_value u
  have h2 := State.allocate_keeps (a0 := 4) (a1 := homeStack a0.num) (a2 := lineBytes a0.cls) h1
  generalize State.allocate u 4 (homeStack a0.num) (lineBytes a0.cls) = p at h2 ⊢
  obtain ⟨x, y, z⟩ := p
  exact h2

theorem State.enterStall_keeps {s0 s : State} {a1 a2 a3 a4 a5 a6 a7 a8 a9} (h : Keeps s0 s) : Keeps s0 (State.enterStall s a1 a2 a3 a4 a5 a6 a7 a8 a9) := by
  unfold State.enterStall
  extract_lets +onlyGivenNames x0
  clear_value x0
  split
  rename_i y1 y2 y3 y4
  refine State.countUnits_keeps ?_
  extract_lets +onlyGivenNames x5
  have h6 : Keeps s0 x5 := by
    unfold x5
    refine State.place_keeps ?_
    refine Keeps.snd y4 ?_
    exact State.giveAreas_keeps (by assumption)
  clear_value x5
  exact Keeps.upd (s := x5) rfl rfl rfl rfl rfl rfl rfl (by assumption)

theorem State.rebind_keeps {s0 s : State} {a1 a2} (h : Keeps s0 s) : Keeps s0 (State.rebind s a1 a2).2 := by
  unfold State.rebind
  split
  · rename_i y0 y1
    dsimp only
    assumption
  · rename_i y2 y3 y4
    exact State.bindTitle_keeps (by assumption)

theorem State.takeByte_keeps {s0 s : State} {a0 a1} (h : Keeps s0 s) : Keeps s0 (State.takeByte s a0 a1) := by
  unfold State.takeByte
  exact Keeps.upd (s := s) rfl rfl rfl rfl rfl rfl rfl (by assumption)

theorem State.takeBytes_keeps {s0 s : State} {a0 a1} (h : Keeps s0 s) : Keeps s0 (State.takeBytes s a0 a1) := by
  unfold State.takeBytes
  refine Keeps.ite ?_ ?_
  · assumption
  · refine Keeps.foldl (fun a0 a1 h2 => ?_) _ ?_
    · extract_lets +onlyGivenNames x3
      have h4 : Keeps s0 x3 := by
        unfold x3
        exact State.takeByte_keeps (by assumption)
      clear_value x3
      refine Keeps.ite ?_ ?_
      · exact State.takeByte_keeps (by assumption)
      · assumption
    · assumption

theorem State.remapped_keeps {s0 s : State} {a0} (h : Keeps s0 s) : Keeps s0 (State.remapped s a0) := by
  unfold State.remapped
  split
  · rename_i y0 y1
    assumption
  · rename_i y2 y3 y4
    refine Keeps.ite ?_ ?_
    · assumption
    · refine Keeps.foldl (fun a5 a6 h7 => ?_) _ ?_
      · refine Keeps.ite ?_ ?_
        · exact State.restart_keeps (by assumption)
        · assumption
      · assumption

theorem State.devPut_keeps {s0 s : State} {a0 a1} (h : Keeps s0 s) : Keeps s0 (State.devPut s a0 a1) := by
  unfold State.devPut
  extract_lets +onlyGivenNames x0
  have h1 : Keeps s0 x0 := by
    unfold x0
    refine State.takeBytes_keeps ?_
    exact State.hbmWrite_keeps (by assumption)
  clear_value x0
  refine Keeps.foldl (fun a2 a3 h4 => ?_) _ ?_
  · exact State.remapped_keeps (by assumption)
  · assumption

theorem devWrite_keeps {s0 s : State} {io : Mmio} {a bs host} (h : Keeps s0 s)
    (hwr : ∀ t x bs, Keeps s0 t → Keeps s0 (io.wr t x bs)) (t : State) (e : devWrite io s a bs host = .ok t) : Keeps s0 t := by
  unfold devWrite at e
  split at e
  · cases e; exact h
  · split at e
    · cases e; exact State.devPut_keeps h
    · cases e; exact hwr _ _ _ h
    · split at e
      · cases e; exact State.hostWrite_keeps h
      · cases e
    · cases e

end Sys2Proof.Machine
end

