-- ==== Sys2Proof/Laws/KeepsUnits.lean ====
section
/-! SUPPORT. `Keeps` for the yard, the network, the HOD unit and the mover: one lemma for each
operation, in the form that a chain of them composes (what held of the state before holds of the state after). -/
set_option linter.unusedVariables false
namespace Sys2Proof.Machine

theorem State.setUcs_keeps {s0 s : State} {a1 a2} (h : Keeps s0 s) : Keeps s0 (State.setUcs s a1 a2) := by
  unfold State.setUcs
  exact State.onStall_keeps (by assumption)

theorem State.endMove_keeps {s0 s : State} {a0} (h : Keeps s0 s) : Keeps s0 (State.endMove s a0) := by
  unfold State.endMove
  split
  · rename_i y0 y1 y2
    refine Keeps.ite ?_ ?_
    · exact State.unpark_keeps (by assumption)
    · assumption
  · rename_i y3 y4
    assumption

theorem State.moveTo_keeps {s0 s : State} {a0 a1 a2 a3 a4} (h : Keeps s0 s) : Keeps s0 (State.moveTo s a0 a1 a2 a3 a4) := by
  unfold State.moveTo
  extract_lets fenced bound u t1 t2 t3 t4
  have hb : Keeps s0 bound.2 := State.rebind_keeps (State.park_keeps h)
  clear_value bound
  have h1 : Keeps s0 t1 := State.setUcs_keeps (State.place_keeps hb)
  clear_value t1
  have h2 : Keeps s0 t2 := State.unpark_keeps h1
  clear_value t2
  have h3 : Keeps s0 t3 := Keeps.ite (State.unpark_keeps h2) h2
  clear_value t3
  have h4 : Keeps s0 t4 := Keeps.ite (State.park_keeps h3) h3
  exact State.unpark_keeps h4

theorem State.moveStall_keeps {s0 s : State} {a1 a2} (h : Keeps s0 s) : Keeps s0 (State.moveStall s a1 a2).1 := by
  unfold State.moveStall
  split
  · rename_i y0 y1
    dsimp only
    assumption
  · rename_i y2 y3 y4
    split
    · rename_i y5 y6 y7 y8 y9
      dsimp only
      exact State.endMove_keeps (by assumption)
    · rename_i y10 y11 y12 y13 y14 y15 y16 y17
      split
      · rename_i y18 y19 y20
        dsimp only
        exact State.endMove_keeps (by assumption)
      · rename_i y21 y22
        dsimp only
        exact State.moveTo_keeps (by assumption)
    · rename_i y23 y24 y25 y26 y27
      dsimp only
      exact State.endMove_keeps (by assumption)

theorem State.latchAt_keeps {s0 s : State} {a0 a1 a2 a3 a4} (h : Keeps s0 s) : Keeps s0 (State.latchAt s a0 a1 a2 a3 a4) := by
  unfold State.latchAt
  split
  · rename_i y0 y1
    assumption
  · rename_i y2 y3 y4
    refine Keeps.ite ?_ ?_
    · assumption
    · refine Keeps.ite ?_ ?_
      · exact State.inc_keeps (by assumption)
      · exact State.setStall_keeps (by assumption)

theorem State.latchInput_keeps {s0 s : State} {a1 a2 a3 a4} (h : Keeps s0 s) : Keeps s0 (State.latchInput s a1 a2 a3 a4) := by
  unfold State.latchInput
  exact State.latchAt_keeps (by assumption)

theorem State.linkIn_keeps {s0 s : State} {a1 a2 a3 a4 a5} (h : Keeps s0 s) : Keeps s0 (State.linkIn s a1 a2 a3 a4 a5) := by
  unfold State.linkIn
  exact Keeps.upd (s := s) rfl rfl rfl rfl rfl rfl rfl (by assumption)

theorem linkRelease_keeps {s0 s : State} (h : Keeps s0 s) : Keeps s0 (linkRelease s) := by
  unfold linkRelease
  split
  · rename_i y0 y1
    assumption
  · rename_i y2 y3 y4
    refine Keeps.ite ?_ ?_
    · assumption
    · extract_lets +onlyGivenNames x5
      have h6 : Keeps s0 x5 := by
        unfold x5
        exact Keeps.upd (s := s) rfl rfl rfl rfl rfl rfl rfl (by assumption)
      clear_value x5
      extract_lets +onlyGivenNames x7
      have h8 : Keeps s0 x7 := by
        unfold x7
        refine Keeps.ite ?_ ?_
        · exact State.inc_keeps (by assumption)
        · assumption
      clear_value x7
      split
      · rename_i y9 y10
        exact State.inc_keeps (by assumption)
      · rename_i y11 y12 y13
        refine Keeps.ite ?_ ?_
        · assumption
        · exact State.setStall_keeps (by assumption)

theorem State.setPeer_keeps {s0 s : State} {a1} (h : Keeps s0 s) : Keeps s0 (State.setPeer s a1) := by
  unfold State.setPeer
  exact Keeps.upd (s := s) rfl rfl rfl rfl rfl rfl rfl (by assumption)

theorem State.notePaths_keeps {s0 s : State} (h : Keeps s0 s) : Keeps s0 (State.notePaths s) := by
  unfold State.notePaths
  exact Keeps.upd (s := s) rfl rfl rfl rfl rfl rfl rfl (by assumption)

theorem State.ySendTo_keeps {s0 s : State} {a0 a1 a2 a3} (h : Keeps s0 s) : Keeps s0 (State.ySendTo s a0 a1 a2 a3) := by
  unfold State.ySendTo
  extract_lets +onlyGivenNames x0
  clear_value x0
  exact State.emit_keeps (by assumption)

theorem State.ySend_keeps {s0 s : State} {a1 a2 a3 a4 a5} (h : Keeps s0 s) : Keeps s0 (State.ySend s a1 a2 a3 a4 a5).2 := by
  unfold State.ySend
  split
  · rename_i y0 y1
    dsimp only
    assumption
  · rename_i y2 y3 y4
    extract_lets +lift +onlyGivenNames x5
    clear_value x5
    dsimp only
    exact State.ySendTo_keeps (by assumption)

theorem State.pump_keeps {s0 s : State} {n p} (h : Keeps s0 s) : Keeps s0 (State.pump n s p) := by
  induction n generalizing s p with
  | zero => exact State.setPeer_keeps h
  | succ n ih =>
    unfold State.pump
    split
    · exact State.setPeer_keeps h
    · refine Keeps.ite ?_ (State.setPeer_keeps h)
      extract_lets
      split
      exact ih (Keeps.snd (by assumption) (State.ySend_keeps h))

theorem State.pumpPeer_keeps {s0 s : State} {a1} (h : Keeps s0 s) : Keeps s0 (State.pumpPeer s a1) := by
  unfold State.pumpPeer
  exact State.pump_keeps (by assumption)

theorem State.yardSend_keeps {s0 s : State} {a1 a2 a3} (h : Keeps s0 s) : Keeps s0 (State.yardSend s a1 a2 a3) := by
  unfold State.yardSend
  extract_lets +onlyGivenNames x0
  have h1 : Keeps s0 x0 := by
    unfold x0
    refine Keeps.ite ?_ ?_
    · exact State.inc_keeps (by assumption)
    · assumption
  clear_value x0
  refine Keeps.ite ?_ ?_
  · assumption
  · extract_lets +onlyGivenNames x2
    have h3 : Keeps s0 x2 := by
      unfold x2
      split
      · rename_i y4 y5 y6
        assumption
      · rename_i y7 y8
        refine State.notePaths_keeps ?_
        exact Keeps.upd (s := s) rfl rfl rfl rfl rfl rfl rfl (by assumption)
    clear_value x2
    split
    · rename_i y9 y10 y11
      refine Keeps.ite ?_ ?_
      · exact State.pumpPeer_keeps (by assumption)
      · assumption
    · rename_i y12 y13
      assumption

theorem State.yardSendLong_keeps {s0 s : State} {c y n bs} (h : Keeps s0 s) : Keeps s0 (State.yardSendLong c y n s bs) := by
  induction n generalizing s bs with
  | zero => exact h
  | succ n ih => exact Keeps.ite h (ih (State.yardSend_keeps h))

theorem State.linkOut_keeps {s0 s : State} {a1 a2 a3 a4 a5} (h : Keeps s0 s) : Keeps s0 (State.linkOut s a1 a2 a3 a4 a5) := by
  unfold State.linkOut
  split
  · rename_i y0 y1
    assumption
  · rename_i y2 y3 y4 y5 y6
    extract_lets +onlyGivenNames x7
    clear_value x7
    refine Keeps.ite ?_ ?_
    · exact State.linkIn_keeps (by assumption)
    · exact State.yardSend_keeps (by assumption)

theorem State.relay_keeps {s0 s : State} {a1} (h : Keeps s0 s) : Keeps s0 (State.relay s a1) := by
  unfold State.relay
  refine Keeps.ite ?_ ?_
  · exact State.inc_keeps (by assumption)
  · split
    · rename_i y0 y1
      assumption
    · rename_i y2 y3 y4 y5
      exact State.emit_keeps (by assumption)

theorem State.yardTake_keeps {s0 s : State} {a1} (h : Keeps s0 s) : Keeps s0 (State.yardTake s a1).2 := by
  unfold State.yardTake
  split
  · rename_i y0 y1
    dsimp only
    assumption
  · rename_i y2 y3 y4
    extract_lets +onlyGivenNames x5
    have h6 : Keeps s0 x5 := by
      unfold x5
      exact Keeps.upd (s := s) rfl rfl rfl rfl rfl rfl rfl (by assumption)
    clear_value x5
    split
    · rename_i y7
      dsimp only
      assumption
    · rename_i y8
      split
      · rename_i y9
        dsimp only
        exact State.relay_keeps (by assumption)
      · rename_i y10
        extract_lets +onlyGivenNames x11
        clear_value x11
        extract_lets +onlyGivenNames x12
        clear_value x12
        extract_lets +onlyGivenNames x13
        clear_value x13
        split
        · rename_i y14 y15
          dsimp only
          exact State.inc_keeps (by assumption)
        · rename_i y16 y17 y18
          split
          · rename_i y19
            dsimp only
            exact State.inc_keeps (by assumption)
          · rename_i y20
            extract_lets +onlyGivenNames x21
            have h22 : Keeps s0 x21 := by
              unfold x21
              refine Keeps.ite ?_ ?_
              · assumption
              · exact Keeps.upd (s := x5) rfl rfl rfl rfl rfl rfl rfl (by assumption)
            clear_value x21
            extract_lets +onlyGivenNames x23
            clear_value x23
            dsimp only
            exact State.setPeer_keeps (by assumption)

theorem State.latchEarly_keeps {s0 s : State} {a0 a1 a2 a3} (h : Keeps s0 s) : Keeps s0 (State.latchEarly s a0 a1 a2 a3) := by
  unfold State.latchEarly
  refine Keeps.ite ?_ ?_
  · exact State.inc_keeps (by assumption)
  · exact Keeps.upd (s := s) rfl rfl rfl rfl rfl rfl rfl (by assumption)

theorem State.deliverData_keeps {s0 s : State} {a0 a1} (h : Keeps s0 s) : Keeps s0 (State.deliverData s a0 a1) := by
  unfold State.deliverData
  split
  · rename_i y0 y1
    exact Keeps.upd (s := s) rfl rfl rfl rfl rfl rfl rfl (by assumption)
  · rename_i y2 y3
    exact State.linkIn_keeps (by assumption)
  · rename_i y4 y5
    extract_lets +onlyGivenNames x6
    clear_value x6
    extract_lets +onlyGivenNames x7
    clear_value x7
    refine Keeps.ite ?_ ?_
    · exact State.latchInput_keeps (by assumption)
    · exact State.latchEarly_keeps (by assumption)
  · rename_i y8 y9 y10 y11
    assumption

theorem State.sendAck_keeps {s0 s : State} {a1} (h : Keeps s0 s) : Keeps s0 (State.sendAck s a1) := by
  unfold State.sendAck
  split
  rename_i y0 y1 y2 y3
  refine State.setPeer_keeps ?_
  refine Keeps.snd (by assumption) ?_
  exact State.ySend_keeps (by assumption)

theorem State.sendNak_keeps {s0 s : State} {a1 a2} (h : Keeps s0 s) : Keeps s0 (State.sendNak s a1 a2) := by
  unfold State.sendNak
  split
  rename_i y0 y1 y2 y3
  refine State.setPeer_keeps ?_
  refine Keeps.snd (by assumption) ?_
  exact State.ySend_keeps (by assumption)

theorem State.deliverNext_keeps {s0 s : State} {a0 a1} (h : Keeps s0 s) : Keeps s0 (State.deliverNext s a0 a1).1 := by
  unfold State.deliverNext
  extract_lets +lift +onlyGivenNames x0 x1
  have h2 : Keeps s0 x0 := by
    unfold x0
    exact State.deliverData_keeps (by assumption)
  clear_value x0
  clear_value x1
  split
  · rename_i y3
    split
    rename_i y4 y5 y6 y7
    dsimp only
    refine Keeps.snd y7 ?_
    exact State.ySend_keeps (by assumption)
  · rename_i y8
    dsimp only
    assumption

theorem State.drainHeld_keeps {s0 s : State} {n p} (h : Keeps s0 s) : Keeps s0 (State.drainHeld n s p).1 := by
  induction n generalizing s p with
  | zero => exact h
  | succ n ih =>
    unfold State.drainHeld
    split
    · exact ih (State.deliverNext_keeps h)
    · exact h

theorem yardDataTake_keeps {s0 s : State} (h : Keeps s0 s) : Keeps s0 (yardDataTake s) := by
  unfold yardDataTake
  split
  · rename_i y0 y1 y2
    refine Keeps.snd y2 ?_
    exact State.yardTake_keeps (by assumption)
  · rename_i y3 y4 y5 y6 y7 y8 y9
    refine Keeps.ite ?_ ?_
    · refine State.sendAck_keeps ?_
      refine Keeps.snd y9 ?_
      exact State.yardTake_keeps (by assumption)
    · refine Keeps.ite ?_ ?_
      · refine State.sendNak_keeps ?_
        refine Keeps.snd y9 ?_
        exact State.yardTake_keeps (by assumption)
      · extract_lets +onlyGivenNames x10
        clear_value x10
        split
        rename_i y11 y12 y13 y14
        refine State.setPeer_keeps ?_
        refine Keeps.fst y14 ?_
        refine State.drainHeld_keeps ?_
        refine Keeps.snd y9 ?_
        exact State.yardTake_keeps (by assumption)

theorem State.setMig_keeps {s0 s : State} {a0} (h : Keeps s0 s) : Keeps s0 (State.setMig s a0) := by
  unfold State.setMig
  exact Keeps.upd (s := s) rfl rfl rfl rfl rfl rfl rfl (by assumption)

theorem State.sendControl_keeps {s0 s : State} {a0 a1 a2} (h : Keeps s0 s) : Keeps s0 (State.sendControl s a0 a1 a2) := by
  unfold State.sendControl
  exact State.yardSend_keeps (by assumption)

theorem State.setFlow_keeps {s0 s : State} {a1 a2 a3} (h : Keeps s0 s) : Keeps s0 (State.setFlow s a1 a2 a3) := by
  unfold State.setFlow
  extract_lets +onlyGivenNames x0
  clear_value x0
  extract_lets +onlyGivenNames x1
  have h2 : Keeps s0 x1 := by
    unfold x1
    exact Keeps.upd (s := s) rfl rfl rfl rfl rfl rfl rfl (by assumption)
  clear_value x1
  exact State.hbmWrite_keeps (by assumption)

theorem State.onFlow_keeps {s0 s : State} {a1 a2} (h : Keeps s0 s) (ha2 : ∀ y0 t, Keeps s0 t → Keeps s0 (a2 y0 t)) : Keeps s0 (State.onFlow s a1 a2) := by
  unfold State.onFlow
  split
  · rename_i y0 y1 y2
    exact ha2 _ _ (by assumption)
  · rename_i y3 y4
    assumption

theorem State.restoreFlows_keeps {s0 s : State} {a0} (h : Keeps s0 s) : Keeps s0 (State.restoreFlows s a0) := by
  unfold State.restoreFlows
  refine Keeps.foldl (fun _ _ h1 => ?_) _ h
  split
  · exact State.onFlow_keeps (State.setFlow_keeps h1) fun _ _ h2 => State.setFlow_keeps h2
  · exact h1

theorem State.dropMig_keeps {s0 s : State} {a0} (h : Keeps s0 s) : Keeps s0 (State.dropMig s a0) := by
  unfold State.dropMig
  exact Keeps.upd (s := s) rfl rfl rfl rfl rfl rfl rfl (by assumption)

theorem State.endMig_keeps {s0 s : State} {a0 a1 a2} (h : Keeps s0 s) : Keeps s0 (State.endMig s a0 a1 a2) := by
  unfold State.endMig
  refine Keeps.ite ?_ ?_
  · refine Keeps.ite ?_ ?_
    · assumption
    · refine Keeps.ite ?_ ?_
      · refine Keeps.ite ?_ ?_
        · refine State.notice_keeps ?_
          exact State.setMig_keeps (by assumption)
        · assumption
      · extract_lets +onlyGivenNames x0
        have h1 : Keeps s0 x0 := by
          unfold x0
          refine State.sendControl_keeps ?_
          refine State.notice_keeps ?_
          refine State.restoreFlows_keeps ?_
          exact State.dropMig_keeps (by assumption)
        clear_value x0
        refine Keeps.ite ?_ ?_
        · exact State.unpark_keeps (by assumption)
        · assumption
  · refine State.sendControl_keeps ?_
    refine State.destroyStall_keeps ?_
    exact State.dropMig_keeps (by assumption)

theorem State.endMigs_keeps {s0 s : State} {a0 a1 a2} (h : Keeps s0 s) : Keeps s0 (State.endMigs s a0 a1 a2) := by
  unfold State.endMigs
  refine Keeps.foldl (fun a0 a1 h2 => ?_) _ ?_
  · exact State.endMig_keeps (by assumption)
  · assumption

theorem State.controlIn_keeps {s0 s : State} {a0} (h : Keeps s0 s) : Keeps s0 (State.controlIn s a0) := by
  unfold State.controlIn
  split
  · rename_i y0 y1 y2
    exact State.endMigs_keeps (by assumption)
  · rename_i y3 y4 y5
    exact State.endMigs_keeps (by assumption)
  · rename_i y6 y7 y8
    assumption

theorem yardDataReceive_keeps {s0 s : State} (h : Keeps s0 s) : Keeps s0 (yardDataReceive s) := by
  unfold yardDataReceive
  extract_lets +onlyGivenNames x0
  have h1 : Keeps s0 x0 := by
    unfold x0
    exact yardDataTake_keeps (by assumption)
  clear_value x0
  refine Keeps.foldl (fun a2 a3 h4 => ?_) _ ?_
  · refine State.controlIn_keeps ?_
    exact Keeps.upd (s := a2) rfl rfl rfl rfl rfl rfl rfl (by assumption)
  · assumption

theorem yardAckReceive_keeps {s0 s : State} (h : Keeps s0 s) : Keeps s0 (yardAckReceive s) := by
  unfold yardAckReceive
  split
  · rename_i y0 y1 y2
    refine Keeps.snd (by assumption) ?_
    exact State.yardTake_keeps (by assumption)
  · rename_i y3 y4 y5 y6 y7 y8 y9
    extract_lets +onlyGivenNames x10
    clear_value x10
    refine Keeps.ite ?_ ?_
    · refine State.pumpPeer_keeps ?_
      refine Keeps.snd (by assumption) ?_
      exact State.yardTake_keeps (by assumption)
    · refine Keeps.snd (by assumption) ?_
      exact State.yardTake_keeps (by assumption)

theorem State.resend_keeps {s0 s : State} {a1 a2} (h : Keeps s0 s) : Keeps s0 (State.resend s a1 a2) := by
  unfold State.resend
  split
  rename_i y0 y1 y2 y3
  refine State.setPeer_keeps ?_
  refine Keeps.snd (by assumption) ?_
  refine Keeps.foldlSnd (fun p4 x5 h6 => ?_) _ ?_
  · exact State.ySend_keeps (by assumption)
  · dsimp only
    assumption

theorem yardNakReceive_keeps {s0 s : State} (h : Keeps s0 s) : Keeps s0 (yardNakReceive s) := by
  unfold yardNakReceive
  split
  · rename_i y0 y1 y2
    refine Keeps.snd (by assumption) ?_
    exact State.yardTake_keeps (by assumption)
  · rename_i y3 y4 y5 y6 y7 y8 y9
    extract_lets +onlyGivenNames x10
    clear_value x10
    refine State.resend_keeps ?_
    refine Keeps.snd (by assumption) ?_
    exact State.yardTake_keeps (by assumption)

theorem ackTimer_keeps {s0 s : State} {a0} (h : Keeps s0 s) : Keeps s0 (ackTimer a0 s) := by
  unfold ackTimer
  split
  · rename_i y0 y1 y2
    refine Keeps.ite ?_ ?_
    · exact State.sendAck_keeps (by assumption)
    · assumption
  · rename_i y3 y4
    assumption

theorem nakTimer_keeps {s0 s : State} {a0} (h : Keeps s0 s) : Keeps s0 (nakTimer a0 s) := by
  unfold nakTimer
  split
  · rename_i y0 y1 y2
    split
    · rename_i y3 y4 y5
      refine Keeps.ite ?_ ?_
      · exact State.sendNak_keeps (by assumption)
      · assumption
    · rename_i y6 y7
      assumption
  · rename_i y8 y9
    assumption

theorem retransmitTimeout_keeps {s0 s : State} {a0} (h : Keeps s0 s) : Keeps s0 (retransmitTimeout a0 s) := by
  unfold retransmitTimeout
  split
  · rename_i y0 y1 y2
    refine Keeps.ite ?_ ?_
    · exact State.resend_keeps (by assumption)
    · assumption
  · rename_i y3 y4
    assumption

theorem State.notePeers_keeps {s0 s : State} {a1} (h : Keeps s0 s) : Keeps s0 (State.notePeers s a1) := by
  unfold State.notePeers
  exact State.put_keeps (by assumption)

theorem helloSend_keeps {s0 s : State} {a0} (h : Keeps s0 s) : Keeps s0 (helloSend a0 s) := by
  unfold helloSend
  extract_lets +onlyGivenNames x0
  clear_value x0
  refine Keeps.ite ?_ ?_
  · assumption
  · extract_lets +onlyGivenNames x1
    clear_value x1
    extract_lets +onlyGivenNames x2
    clear_value x2
    extract_lets +onlyGivenNames x3
    clear_value x3
    extract_lets +onlyGivenNames x4
    clear_value x4
    extract_lets +onlyGivenNames x5
    have h6 : Keeps s0 x5 := by
      unfold x5
      exact State.ySendTo_keeps (by assumption)
    clear_value x5
    exact Keeps.upd (s := x5) rfl rfl rfl rfl rfl rfl rfl (by assumption)

theorem State.setRoutes_keeps {s0 s : State} {a0} (h : Keeps s0 s) : Keeps s0 (State.setRoutes s a0) := by
  unfold State.setRoutes
  extract_lets +onlyGivenNames x0
  clear_value x0
  extract_lets +onlyGivenNames x1
  clear_value x1
  extract_lets +onlyGivenNames x2
  have h3 : Keeps s0 x2 := by
    unfold x2
    refine Keeps.foldl (fun a4 a5 h6 => ?_) _ ?_
    · exact State.hbmWrite_keeps (by assumption)
    · exact Keeps.upd (s := s) rfl rfl rfl rfl rfl rfl rfl (by assumption)
  clear_value x2
  refine Keeps.foldl (fun a7 a8 h9 => ?_) _ ?_
  · exact State.hbmWrite_keeps (by assumption)
  · assumption

theorem State.dropPaths_keeps {s0 s : State} {a1} (h : Keeps s0 s) : Keeps s0 (State.dropPaths s a1) := by
  unfold State.dropPaths
  extract_lets +onlyGivenNames x0
  clear_value x0
  refine State.notePaths_keeps ?_
  exact State.setRoutes_keeps (by assumption)

theorem State.learn_keeps {s0 s : State} {a1 a2} (h : Keeps s0 s) : Keeps s0 (State.learn s a1 a2) := by
  unfold State.learn
  split
  · rename_i y0 y1 y2
    extract_lets +onlyGivenNames x3
    clear_value x3
    extract_lets +onlyGivenNames x4
    clear_value x4
    exact State.setRoutes_keeps (by assumption)
  · rename_i y5 y6
    split
    · rename_i y7 y8 y9
      exact State.setRoutes_keeps (by assumption)
    · rename_i y10 y11
      assumption

theorem State.dropNeighbour_keeps {s0 s : State} {a1 a2} (h : Keeps s0 s) : Keeps s0 (State.dropNeighbour s a1 a2) := by
  unfold State.dropNeighbour
  extract_lets +onlyGivenNames x0
  have h1 : Keeps s0 x0 := by
    unfold x0
    exact State.dropPaths_keeps (by assumption)
  clear_value x0
  exact State.dropPaths_keeps (by assumption)

theorem State.peerUp_keeps {s0 s : State} {a1} (h : Keeps s0 s) : Keeps s0 (State.peerUp s a1) := by
  unfold State.peerUp
  split
  · rename_i y0 y1 y2
    refine Keeps.ite ?_ ?_
    · assumption
    · refine State.raise_keeps ?_
      exact State.setPeer_keeps (by assumption)
  · rename_i y3 y4
    exact Keeps.upd (s := s) rfl rfl rfl rfl rfl rfl rfl (by assumption)

theorem helloReceive_keeps {s0 s : State} (h : Keeps s0 s) : Keeps s0 (helloReceive s) := by
  unfold helloReceive
  split
  · rename_i y0 y1
    assumption
  · rename_i y2 y3 y4
    extract_lets +onlyGivenNames x5
    have h6 : Keeps s0 x5 := by
      unfold x5
      exact Keeps.upd (s := s) rfl rfl rfl rfl rfl rfl rfl (by assumption)
    clear_value x5
    refine Keeps.ite ?_ ?_
    · assumption
    · split
      · rename_i y7 y8
        exact State.inc_keeps (by assumption)
      · rename_i y9 y10 y11
        extract_lets +onlyGivenNames x12
        clear_value x12
        extract_lets +onlyGivenNames x13
        clear_value x13
        extract_lets +onlyGivenNames x14
        clear_value x14
        extract_lets +onlyGivenNames x15
        clear_value x15
        refine Keeps.ite ?_ ?_
        · refine Keeps.ite ?_ ?_
          · refine State.raise_keeps ?_
            exact State.put_keeps (by assumption)
          · assumption
        · refine Keeps.ite ?_ ?_
          · exact State.inc_keeps (by assumption)
          · extract_lets +onlyGivenNames x16
            have h17 : Keeps s0 x16 := by
              unfold x16
              exact Keeps.upd (s := x5) rfl rfl rfl rfl rfl rfl rfl (by assumption)
            clear_value x16
            extract_lets +onlyGivenNames x18
            clear_value x18
            extract_lets +onlyGivenNames x19
            clear_value x19
            extract_lets +onlyGivenNames x20
            have h21 : Keeps s0 x20 := by
              unfold x20
              refine Keeps.ite ?_ ?_
              · assumption
              · exact State.notice_keeps (by assumption)
            clear_value x20
            refine Keeps.ite ?_ ?_
            · extract_lets +onlyGivenNames x22
              have h23 : Keeps s0 x22 := by
                unfold x22
                exact Keeps.upd (s := x20) rfl rfl rfl rfl rfl rfl rfl (by assumption)
              clear_value x22
              refine State.notePeers_keeps ?_
              refine Keeps.ite ?_ ?_
              · exact State.dropNeighbour_keeps (by assumption)
              · assumption
            · extract_lets +onlyGivenNames x24
              have h25 : Keeps s0 x24 := by
                unfold x24
                exact State.peerUp_keeps (by assumption)
              clear_value x24
              extract_lets +onlyGivenNames x26
              clear_value x26
              extract_lets +onlyGivenNames x27
              clear_value x27
              extract_lets +onlyGivenNames x28
              have h29 : Keeps s0 x28 := by
                unfold x28
                exact Keeps.upd (s := x24) rfl rfl rfl rfl rfl rfl rfl (by assumption)
              clear_value x28
              extract_lets +onlyGivenNames x30
              have h31 : Keeps s0 x30 := by
                unfold x30
                exact State.notePeers_keeps (by assumption)
              clear_value x30
              refine Keeps.ite ?_ ?_
              · assumption
              · extract_lets +onlyGivenNames x32
                have h33 : Keeps s0 x32 := by
                  unfold x32
                  exact State.learn_keeps (by assumption)
                clear_value x32
                extract_lets +onlyGivenNames x34
                clear_value x34
                extract_lets +onlyGivenNames x35
                have h36 : Keeps s0 x35 := by
                  unfold x35
                  exact State.dropPaths_keeps (by assumption)
                clear_value x35
                extract_lets +onlyGivenNames x37
                have h38 : Keeps s0 x37 := by
                  unfold x37
                  refine Keeps.ite ?_ ?_
                  · refine Keeps.foldl (fun t39 x40 h41 => ?_) _ ?_
                    · exact State.learn_keeps (by assumption)
                    · assumption
                  · assumption
                clear_value x37
                exact State.notePaths_keeps (by assumption)

theorem routeTimeout_keeps {s0 s : State} {a0 a1} (h : Keeps s0 s) : Keeps s0 (routeTimeout a0 a1 s) := by
  unfold routeTimeout
  split
  · rename_i y0 y1 y2
    refine Keeps.ite ?_ ?_
    · extract_lets +onlyGivenNames x3
      have h4 : Keeps s0 x3 := by
        unfold x3
        exact Keeps.upd (s := s) rfl rfl rfl rfl rfl rfl rfl (by assumption)
      clear_value x3
      refine State.notePeers_keeps ?_
      refine Keeps.ite ?_ ?_
      · exact State.dropNeighbour_keeps (by assumption)
      · assumption
    · assumption
  · rename_i y5 y6
    assumption

theorem State.notePorts_keeps {s0 s : State} (h : Keeps s0 s) : Keeps s0 (State.notePorts s) := by
  unfold State.notePorts
  exact State.setDegrade_keeps (by assumption)

theorem portTrained_keeps {s0 s : State} {a0} (h : Keeps s0 s) : Keeps s0 (portTrained a0 s) := by
  unfold portTrained
  extract_lets +onlyGivenNames x0
  clear_value x0
  refine Keeps.ite ?_ ?_
  · refine State.notePorts_keeps ?_
    exact State.put_keeps (by assumption)
  · assumption

theorem portFail_keeps {s0 s : State} {a0} (h : Keeps s0 s) : Keeps s0 (portFail a0 s) := by
  unfold portFail
  refine Keeps.ite ?_ ?_
  · extract_lets +onlyGivenNames x0
    have h1 : Keeps s0 x0 := by
      unfold x0
      exact State.recordFault_keeps (by assumption)
    clear_value x0
    extract_lets +onlyGivenNames x2
    have h3 : Keeps s0 x2 := by
      unfold x2
      refine State.raise_keeps ?_
      exact State.put_keeps (by assumption)
    clear_value x2
    extract_lets +onlyGivenNames x4
    have h5 : Keeps s0 x4 := by
      unfold x4
      exact State.dropPaths_keeps (by assumption)
    clear_value x4
    extract_lets +onlyGivenNames x6
    have h7 : Keeps s0 x6 := by
      unfold x6
      exact Keeps.upd (s := x4) rfl rfl rfl rfl rfl rfl rfl (by assumption)
    clear_value x6
    refine State.notePorts_keeps ?_
    exact State.notePeers_keeps (by assumption)
  · assumption

theorem State.setNet_keeps {s0 s : State} {a1} (h : Keeps s0 s) : Keeps s0 (State.setNet s a1) := by
  unfold State.setNet
  exact Keeps.upd (s := s) rfl rfl rfl rfl rfl rfl rfl (by assumption)

theorem State.netPut_keeps {s0 s : State} {a1 a2 a3} (h : Keeps s0 s) : Keeps s0 (State.netPut s a1 a2 a3) := by
  unfold State.netPut
  split
  · rename_i y0 y1 y2
    refine State.hbmWrite_keeps ?_
    exact State.setNet_keeps (by assumption)
  · rename_i y3 y4
    assumption

theorem State.rtcpIn_keeps {s0 s : State} {a1 a2 a3} (h : Keeps s0 s) : Keeps s0 (State.rtcpIn s a1 a2 a3) := by
  unfold State.rtcpIn
  split
  · rename_i y0 y1
    exact State.inc_keeps (by assumption)
  · rename_i y2 y3 y4
    split
    · rename_i y5 y6
      exact State.inc_keeps (by assumption)
    · rename_i y7 y8 y9
      refine Keeps.foldl (fun t10 x11 h12 => ?_) _ ?_
      · refine Keeps.ite ?_ ?_
        · exact State.inc_keeps (by assumption)
        · exact Keeps.upd (s := t10) rfl rfl rfl rfl rfl rfl rfl (by assumption)
      · assumption

theorem State.miss_keeps {s0 s : State} {a1 a2} (h : Keeps s0 s) : Keeps s0 (State.miss s a1 a2) := by
  unfold State.miss
  refine Keeps.ite ?_ ?_
  · exact State.capture_keeps (by assumption)
  · exact State.inc_keeps (by assumption)

theorem State.answered_keeps {s0 s : State} {a1 a2} (h : Keeps s0 s) : Keeps s0 (State.answered s a1 a2) := by
  unfold State.answered
  have h1 : Keeps s0 (s.emit (.frame a1 (Config.answer s.free a2))) := State.emit_keeps h
  have hf : (s.emit (.frame a1 (Config.answer s.free a2))).free = s.free := by unfold State.emit; split <;> rfl
  exact Keeps.drawn (s := s.emit (.frame a1 (Config.answer s.free a2))) rfl rfl rfl rfl rfl rfl (by dsimp only; omega) h1

theorem State.ptpIn_keeps {s0 s : State} {a0 a1 a2} (h : Keeps s0 s) : Keeps s0 (State.ptpIn s a0 a1 a2) := by
  unfold State.ptpIn
  refine Keeps.ite ?_ ?_
  · exact Keeps.upd (s := s) rfl rfl rfl rfl rfl rfl rfl (by assumption)
  · assumption

theorem State.classify_keeps {s0 s : State} {a1 a2 a3} (h : Keeps s0 s) : Keeps s0 (State.classify s a1 a2 a3) := by
  unfold State.classify
  extract_lets +onlyGivenNames x0
  clear_value x0
  extract_lets +onlyGivenNames x1
  clear_value x1
  extract_lets +onlyGivenNames x2
  clear_value x2
  extract_lets +onlyGivenNames x3
  clear_value x3
  extract_lets +onlyGivenNames x4
  clear_value x4
  refine Keeps.ite ?_ ?_
  · exact State.ptpIn_keeps (by assumption)
  · refine Keeps.ite ?_ ?_
    · extract_lets +onlyGivenNames x5
      clear_value x5
      refine Keeps.ite ?_ ?_
      · exact Keeps.upd (s := s) rfl rfl rfl rfl rfl rfl rfl (by assumption)
      · assumption
    · refine Keeps.ite ?_ ?_
      · split
        · rename_i y6 y7 y8
          refine Keeps.ite ?_ ?_
          · exact State.capture_keeps (by assumption)
          · exact Keeps.upd (s := s) rfl rfl rfl rfl rfl rfl rfl (by assumption)
        · rename_i y9 y10
          split
          · rename_i y11 y12 y13
            refine Keeps.ite ?_ ?_
            · exact State.capture_keeps (by assumption)
            · exact State.rtcpIn_keeps (by assumption)
          · rename_i y14 y15
            exact State.miss_keeps (by assumption)
      · refine Keeps.ite ?_ ?_
        · exact State.answered_keeps (by assumption)
        · exact State.miss_keeps (by assumption)

theorem frameReceive_keeps {s0 s : State} {a0 a1 a2} (h : Keeps s0 s) : Keeps s0 (frameReceive a0 a1 a2 s) := by
  unfold frameReceive
  extract_lets +onlyGivenNames x0
  clear_value x0
  extract_lets +onlyGivenNames x1
  have h2 : Keeps s0 x1 := by
    unfold x1
    refine Keeps.ite ?_ ?_
    · exact State.put_keeps (by assumption)
    · assumption
  clear_value x1
  refine Keeps.ite ?_ ?_
  · assumption
  · refine Keeps.ite ?_ ?_
    · exact State.inc_keeps (by assumption)
    · split
      · rename_i y3 y4
        assumption
      · rename_i y5 y6 y7 y8
        refine Keeps.ite ?_ ?_
        · exact State.inc_keeps (by assumption)
        · refine Keeps.ite ?_ ?_
          · exact State.answered_keeps (by assumption)
          · split
            · rename_i y9 y10 y11
              exact State.classify_keeps (by assumption)
            · rename_i y12 y13
              exact State.miss_keeps (by assumption)

theorem inputDatagram_keeps {s0 s : State} (h : Keeps s0 s) : Keeps s0 (inputDatagram s) := by
  unfold inputDatagram
  split
  · rename_i y0 y1
    assumption
  · rename_i y2 y3 y4 y5
    split
    · rename_i y6 y7
      refine State.takeIngress_keeps ?_ _ (by assumption)
      assumption
    · rename_i y8 y9 y10
      split
      · rename_i y11 y12 y13
        refine State.inc_keeps ?_
        refine State.takeIngress_keeps ?_ _ (by assumption)
        assumption
      · rename_i y14 y15 y16 y17
        extract_lets +onlyGivenNames x18
        have h19 : Keeps s0 x18 := by
          unfold x18
          refine State.setFlow_keeps ?_
          refine State.takeIngress_keeps ?_ _ (by assumption)
          assumption
        clear_value x18
        refine Keeps.ite ?_ ?_
        · assumption
        · refine Keeps.ite ?_ ?_
          · exact State.yardSend_keeps (by assumption)
          · exact State.latchInput_keeps (by assumption)

theorem State.readVideo_keeps {s0 s : State} {a1} (h : Keeps s0 s) : Keeps s0 (State.readVideo s a1) := by
  unfold State.readVideo
  split
  · rename_i y0 y1
    assumption
  · rename_i y2 y3 y4
    split
    · rename_i y5 y6
      assumption
    · rename_i y7 y8 y9 y10 y11 y12
      extract_lets +onlyGivenNames x13
      clear_value x13
      extract_lets +onlyGivenNames x14
      have h15 : ∀ y0 y1, Keeps s0 y0 → Keeps s0 (x14 y0 y1) := by
        intro a16 a17 a18
        unfold x14
        split
        · rename_i y19 y20 y21
          exact State.setStream_keeps (by assumption)
        · rename_i y22 y23
          assumption
      clear_value x14
      extract_lets +onlyGivenNames x24
      clear_value x24
      refine Keeps.ite ?_ ?_
      · refine Keeps.ite ?_ ?_
        · assumption
        · refine State.capture_keeps ?_
          exact h15 _ _ (by assumption)
      · split
        · rename_i y25 y26
          assumption
        · rename_i y27 y28 y29
          refine Keeps.ite ?_ ?_
          · assumption
          · refine Keeps.ite ?_ ?_
            · refine State.inc_keeps ?_
              exact h15 _ _ (by assumption)
            · refine Keeps.ite ?_ ?_
              · assumption
              · split
                · rename_i y30 y31
                  assumption
                · rename_i y32 y33 y34
                  extract_lets +onlyGivenNames x35
                  clear_value x35
                  extract_lets +onlyGivenNames x36
                  clear_value x36
                  extract_lets +onlyGivenNames x37
                  clear_value x37
                  refine Keeps.ite ?_ ?_
                  · exact h15 _ _ (by assumption)
                  · exact State.setNet_keeps (by assumption)

theorem State.queueAudio_keeps {s0 s : State} {a0 a1 a2 a3 a4 a5 a6 a7} (h : Keeps s0 s) : Keeps s0 (State.queueAudio s a0 a1 a2 a3 a4 a5 a6 a7) := by
  unfold State.queueAudio
  split
  · rename_i y0 y1
    assumption
  · rename_i y2 y3 y4
    extract_lets +onlyGivenNames x5
    clear_value x5
    extract_lets +onlyGivenNames x6
    clear_value x6
    exact State.setNet_keeps (by assumption)

theorem State.laneRd_keeps {s0 s : State} {a0 a1 a2} (h : Keeps s0 s) : Keeps s0 (State.laneRd s a0 a1 a2) := by
  unfold State.laneRd
  exact State.onStall_keeps (by assumption)

theorem State.audioDone_keeps {s0 s : State} {a0 a1} (h : Keeps s0 s) : Keeps s0 (State.audioDone s a0 a1) := by
  unfold State.audioDone
  refine Keeps.ite ?_ ?_
  · assumption
  · exact State.laneRd_keeps (by assumption)

theorem State.readAudio_keeps {s0 s : State} {a1} (h : Keeps s0 s) : Keeps s0 (State.readAudio s a1) := by
  unfold State.readAudio
  split
  · rename_i y0 y1
    assumption
  · rename_i y2 y3 y4
    split
    · rename_i y5 y6
      assumption
    · rename_i y7 y8 y9
      split
      · rename_i y10 y11
        assumption
      · rename_i y12 y13 y14 y15 y16 y17
        extract_lets +onlyGivenNames x18
        clear_value x18
        extract_lets +onlyGivenNames x19
        have h20 : ∀ y0, Keeps s0 y0 → Keeps s0 (x19 y0) := by
          intro a21 a22
          unfold x19
          exact State.laneRd_keeps (by assumption)
        clear_value x19
        refine Keeps.ite ?_ ?_
        · assumption
        · refine Keeps.ite ?_ ?_
          · refine State.capture_keeps ?_
            exact h20 _ (by assumption)
          · refine Keeps.ite ?_ ?_
            · refine State.capture_keeps ?_
              exact h20 _ (by assumption)
            · refine Keeps.ite ?_ ?_
              · assumption
              · refine Keeps.ite ?_ ?_
                · refine State.inc_keeps ?_
                  exact h20 _ (by assumption)
                · extract_lets +onlyGivenNames x23
                  clear_value x23
                  refine Keeps.ite ?_ ?_
                  · assumption
                  · refine State.audioDone_keeps ?_
                    refine Keeps.foldl (fun a24 a25 h26 => ?_) _ ?_
                    · exact State.queueAudio_keeps (by assumption)
                    · assumption

theorem recordRead_keeps {s0 s : State} {a0 a1} (h : Keeps s0 s) : Keeps s0 (recordRead a0 a1 s) := by
  unfold recordRead
  refine Keeps.ite ?_ ?_
  · assumption
  · refine Keeps.ite ?_ ?_
    · exact State.readAudio_keeps (by assumption)
    · exact State.readVideo_keeps (by assumption)

theorem State.videoDone_keeps {s0 s : State} {a1 a2 a3} (h : Keeps s0 s) : Keeps s0 (State.videoDone s a1 a2 a3) := by
  unfold State.videoDone
  split
  · rename_i y0 y1 y2
    exact State.setStream_keeps (by assumption)
  · rename_i y3 y4
    assumption

theorem State.countSent_keeps {s0 s : State} {a1} (h : Keeps s0 s) : Keeps s0 (State.countSent s a1) := by
  unfold State.countSent
  split
  · rename_i y0 y1 y2
    exact State.netPut_keeps (by assumption)
  · rename_i y3 y4
    assumption

theorem State.pumpAll_keeps {s0 s : State} (h : Keeps s0 s) : Keeps s0 (State.pumpAll s) := by
  unfold State.pumpAll
  refine Keeps.foldl (fun a0 a1 h2 => ?_) _ ?_
  · split
    · rename_i y3 y4 y5
      exact State.pumpPeer_keeps (by assumption)
    · rename_i y6 y7
      assumption
  · assumption

theorem State.sendMedia_keeps {s0 s : State} {a0 a1 a2 a3 a4 a5} (h : Keeps s0 s) : Keeps s0 (State.sendMedia s a0 a1 a2 a3 a4 a5) := by
  unfold State.sendMedia
  extract_lets +onlyGivenNames x0
  clear_value x0
  extract_lets +onlyGivenNames x1
  clear_value x1
  extract_lets +onlyGivenNames x2
  clear_value x2
  extract_lets +onlyGivenNames x3
  clear_value x3
  extract_lets +onlyGivenNames x4
  clear_value x4
  extract_lets +onlyGivenNames x5
  clear_value x5
  extract_lets +onlyGivenNames x6
  have h7 : Keeps s0 x6 := by
    unfold x6
    exact State.emit_keeps (by assumption)
  clear_value x6
  refine Keeps.ite ?_ ?_
  · assumption
  · extract_lets +onlyGivenNames x8
    clear_value x8
    refine State.netPut_keeps ?_
    exact State.netPut_keeps (by assumption)

theorem State.sendAudio_keeps {s0 s : State} {a0} (h : Keeps s0 s) : Keeps s0 (State.sendAudio s a0) := by
  unfold State.sendAudio
  split
  · rename_i y0 y1 y2 y3 y4 y5 y6
    extract_lets +onlyGivenNames x7
    clear_value x7
    refine Keeps.ite ?_ ?_
    · refine State.inc_keeps ?_
      refine State.audioDone_keeps ?_
      exact State.setNet_keeps (by assumption)
    · extract_lets +onlyGivenNames x8
      extract_lets +onlyGivenNames x9
      clear_value x9
      extract_lets +onlyGivenNames x10
      have h11 : Keeps s0 x10 := by
        unfold x10
        refine State.countSent_keeps ?_
        refine State.sendMedia_keeps ?_
        exact State.setNet_keeps (by assumption)
      clear_value x10
      refine Keeps.ite ?_ ?_
      · exact State.audioDone_keeps (by assumption)
      · assumption
  · rename_i y12 y13 y14
    assumption

theorem State.sendVideo_keeps {s0 s : State} {a0} (h : Keeps s0 s) : Keeps s0 (State.sendVideo s a0) := by
  unfold State.sendVideo
  split
  · rename_i y0 y1 y2 y3 y4 y5 y6
    extract_lets +onlyGivenNames x7
    clear_value x7
    refine Keeps.ite ?_ ?_
    · assumption
    · refine Keeps.ite ?_ ?_
      · refine State.inc_keeps ?_
        refine State.videoDone_keeps ?_
        exact State.setNet_keeps (by assumption)
      · extract_lets +onlyGivenNames x8
        clear_value x8
        refine Keeps.ite ?_ ?_
        · exact State.setNet_keeps (by assumption)
        · extract_lets +onlyGivenNames x9
          extract_lets +onlyGivenNames x10
          clear_value x10
          extract_lets +onlyGivenNames x11
          have h12 : Keeps s0 x11 := by
            unfold x11
            refine State.countSent_keeps ?_
            refine State.sendMedia_keeps ?_
            exact State.setNet_keeps (by assumption)
          clear_value x11
          refine Keeps.ite ?_ ?_
          · exact State.videoDone_keeps (by assumption)
          · assumption
  · rename_i y13 y14 y15
    assumption

theorem packetSend_keeps {s0 s : State} {a0 a1} (h : Keeps s0 s) : Keeps s0 (packetSend a0 a1 s) := by
  unfold packetSend
  split
  · rename_i y0 y1
    assumption
  · rename_i y2 y3 y4
    refine Keeps.ite ?_ ?_
    · assumption
    · refine State.pumpAll_keeps ?_
      refine Keeps.ite ?_ ?_
      · exact State.sendAudio_keeps (by assumption)
      · exact State.sendVideo_keeps (by assumption)

theorem State.sendRtcp_keeps {s0 s : State} {a1 a2} (h : Keeps s0 s) : Keeps s0 (State.sendRtcp s a1 a2) := by
  unfold State.sendRtcp
  split
  · rename_i y0 y1
    assumption
  · rename_i y2 y3 y4
    extract_lets +onlyGivenNames x5
    clear_value x5
    extract_lets +onlyGivenNames x6
    clear_value x6
    refine State.emit_keeps ?_
    exact State.setNet_keeps (by assumption)

theorem rtcpReport_keeps {s0 s : State} (h : Keeps s0 s) : Keeps s0 (rtcpReport s) := by
  unfold rtcpReport
  split
  · rename_i y0 y1
    assumption
  · rename_i y2 y3 y4 y5
    split
    · rename_i y6 y7 y8 y9 y10 y11
      split
      · rename_i y12 y13
        refine State.takeIngress_keeps ?_ _ (by assumption)
        assumption
      · rename_i y14 y15 y16 y17
        refine State.setStream_keeps ?_
        refine State.takeIngress_keeps ?_ _ (by assumption)
        assumption
    · rename_i y18 y19 y20
      refine State.takeIngress_keeps ?_ _ (by assumption)
      assumption

theorem tmmbr_keeps {s0 s : State} (h : Keeps s0 s) : Keeps s0 (tmmbr s) := by
  unfold tmmbr
  split
  · rename_i y0 y1
    assumption
  · rename_i y2 y3 y4 y5
    split
    · rename_i y6 y7 y8 y9 y10 y11
      extract_lets +onlyGivenNames x12
      clear_value x12
      split
      · rename_i y13 y14
        refine State.takeIngress_keeps ?_ _ (by assumption)
        assumption
      · rename_i y15 y16 y17 y18
        extract_lets +onlyGivenNames x19
        clear_value x19
        extract_lets +onlyGivenNames x20
        clear_value x20
        extract_lets +onlyGivenNames x21
        clear_value x21
        extract_lets +onlyGivenNames x22
        have h23 : Keeps s0 x22 := by
          unfold x22
          refine State.setStream_keeps ?_
          refine State.takeIngress_keeps ?_ _ (by assumption)
          assumption
        clear_value x22
        exact State.sendRtcp_keeps (by assumption)
    · rename_i y24 y25 y26
      refine State.takeIngress_keeps ?_ _ (by assumption)
      assumption

theorem pliFir_keeps {s0 s : State} (h : Keeps s0 s) : Keeps s0 (pliFir s) := by
  unfold pliFir
  split
  · rename_i y0 y1
    assumption
  · rename_i y2 y3 y4 y5
    split
    · rename_i y6 y7 y8
      refine State.setStream_keeps ?_
      refine State.takeIngress_keeps ?_ _ (by assumption)
      assumption
    · rename_i y9 y10
      refine State.takeIngress_keeps ?_ _ (by assumption)
      assumption

theorem rtcpSrSend_keeps {s0 s : State} {a0} (h : Keeps s0 s) : Keeps s0 (rtcpSrSend a0 s) := by
  unfold rtcpSrSend
  split
  · rename_i y0 y1
    assumption
  · rename_i y2 y3 y4
    refine Keeps.ite ?_ ?_
    · assumption
    · extract_lets +onlyGivenNames x5
      clear_value x5
      extract_lets +onlyGivenNames x6
      clear_value x6
      extract_lets +onlyGivenNames x7
      clear_value x7
      extract_lets +onlyGivenNames x8
      clear_value x8
      extract_lets +onlyGivenNames x9
      clear_value x9
      refine State.sendRtcp_keeps ?_
      exact State.setNet_keeps (by assumption)

theorem State.loadEntry_keeps {s0 s : State} {a1 a2} (h : Keeps s0 s) : Keeps s0 (State.loadEntry s a1 a2) := by
  unfold State.loadEntry
  split
  · rename_i y0
    extract_lets +onlyGivenNames x1
    clear_value x1
    extract_lets +onlyGivenNames x2
    clear_value x2
    exact Keeps.upd (s := s) rfl rfl rfl rfl rfl rfl rfl (by assumption)
  · rename_i y3
    extract_lets +onlyGivenNames x4
    clear_value x4
    split
    · rename_i y5 y6 y7
      exact State.setNet_keeps (by assumption)
    · rename_i y8 y9
      exact Keeps.upd (s := s) rfl rfl rfl rfl rfl rfl rfl (by assumption)
  · rename_i y10
    extract_lets +onlyGivenNames x11
    clear_value x11
    extract_lets +onlyGivenNames x12
    clear_value x12
    extract_lets +onlyGivenNames x13
    clear_value x13
    refine State.notePaths_keeps ?_
    exact Keeps.upd (s := s) rfl rfl rfl rfl rfl rfl rfl (by assumption)
  · rename_i y14 y15 y16 y17
    assumption

theorem yrdLoad_keeps {s0 s : State} {a0 a1} (h : Keeps s0 s) : Keeps s0 (yrdLoad a0 a1 s) := by
  unfold yrdLoad
  refine Keeps.ite ?_ ?_
  · assumption
  · extract_lets +onlyGivenNames x0
    have h1 : Keeps s0 x0 := by
      unfold x0
      exact State.puts_keeps (by assumption)
    clear_value x0
    exact State.loadEntry_keeps (by assumption)

theorem State.ptpExchange_keeps {s0 s : State} {a1} (h : Keeps s0 s) : Keeps s0 (State.ptpExchange s a1).1 := by
  unfold State.ptpExchange
  extract_lets small was good t u n w v r
  have ht : Keeps s0 t := Keeps.upd (s := s) rfl rfl rfl rfl rfl rfl rfl h
  have hu : Keeps s0 u := by
    unfold u
    exact State.puts_keeps ht
  have hw : Keeps s0 w := by
    unfold w n
    exact State.draw_keeps hu
  have hv : Keeps s0 v := Keeps.upd (s := w) rfl rfl rfl rfl rfl rfl rfl hw
  have hr : Keeps s0 r := by
    unfold r
    refine Keeps.ite (Keeps.upd (s := u) rfl rfl rfl rfl rfl rfl rfl hu) (Keeps.ite ?_ hv)
    exact State.raise_keeps (State.put_keeps hv)
  exact hr

theorem State.makeResident_keeps {s0 s : State} {a1} (h : Keeps s0 s) : Keeps s0 (State.makeResident s a1) := by
  unfold State.makeResident
  refine Keeps.ite ?_ ?_
  · assumption
  · extract_lets +onlyGivenNames x0
    clear_value x0
    extract_lets +onlyGivenNames x1
    have h2 : Keeps s0 x1 := by
      unfold x1
      exact Keeps.upd (s := s) rfl rfl rfl rfl rfl rfl rfl (by assumption)
    clear_value x1
    exact State.inc_keeps (by assumption)

theorem State.countEnd_keeps {s0 s : State} {a1} (h : Keeps s0 s) : Keeps s0 (State.countEnd s a1) := by
  unfold State.countEnd
  refine Keeps.ite ?_ ?_
  · exact State.inc_keeps (by assumption)
  · assumption

theorem brickStep_keeps {s0 s : State} {a0 a1 a2 a3} (h : Keeps s0 s) : Keeps s0 (brickStep a0 a1 a2 a3 s) := by
  unfold brickStep
  split
  · rename_i y0 y1
    assumption
  · rename_i y2 y3 y4 y5
    extract_lets +onlyGivenNames x6
    clear_value x6
    refine Keeps.ite ?_ ?_
    · refine Keeps.ite ?_ ?_
      · refine State.inc_keeps ?_
        exact State.setStall_keeps (by assumption)
      · refine Keeps.ite ?_ ?_
        · exact State.setStall_keeps (by assumption)
        · assumption
    · refine Keeps.ite ?_ ?_
      · exact State.setStall_keeps (by assumption)
      · assumption

theorem dataStep_keeps {s0 s : State} {a0 a1 a2 a3} (h : Keeps s0 s) : Keeps s0 (dataStep a0 a1 a2 a3 s) := by
  unfold dataStep
  exact brickStep_keeps (by assumption)

theorem brickRead_keeps {s0 s : State} {a0 a1} (h : Keeps s0 s) : Keeps s0 (brickRead a0 a1 s) := by
  unfold brickRead
  exact dataStep_keeps (by assumption)

theorem brickWrite_keeps {s0 s : State} {a0 a1} (h : Keeps s0 s) : Keeps s0 (brickWrite a0 a1 s) := by
  unfold brickWrite
  exact dataStep_keeps (by assumption)

theorem blitCopy_keeps {s0 s : State} {a0 a1} (h : Keeps s0 s) : Keeps s0 (blitCopy a0 a1 s) := by
  unfold blitCopy
  exact dataStep_keeps (by assumption)

theorem blitFill_keeps {s0 s : State} {a0 a1} (h : Keeps s0 s) : Keeps s0 (blitFill a0 a1 s) := by
  unfold blitFill
  exact dataStep_keeps (by assumption)

theorem brickQuery_keeps {s0 s : State} {a0 a1} (h : Keeps s0 s) : Keeps s0 (brickQuery a0 a1 s) := by
  unfold brickQuery
  exact dataStep_keeps (by assumption)

theorem brickSetpos_keeps {s0 s : State} {a0 a1} (h : Keeps s0 s) : Keeps s0 (brickSetpos a0 a1 s) := by
  unfold brickSetpos
  exact dataStep_keeps (by assumption)

theorem brickSeek_keeps {s0 s : State} {a0 a1} (h : Keeps s0 s) : Keeps s0 (brickSeek a0 a1 s) := by
  unfold brickSeek
  exact dataStep_keeps (by assumption)

theorem brickSetdst_keeps {s0 s : State} {a0 a1} (h : Keeps s0 s) : Keeps s0 (brickSetdst a0 a1 s) := by
  unfold brickSetdst
  exact dataStep_keeps (by assumption)

theorem brickFlush_keeps {s0 s : State} {a0 a1} (h : Keeps s0 s) : Keeps s0 (brickFlush a0 a1 s) := by
  unfold brickFlush
  exact brickStep_keeps (by assumption)

theorem plainStep_keeps {s0 s : State} {a0 a1 a2} (h : Keeps s0 s) : Keeps s0 (plainStep a0 a1 a2 s) := by
  unfold plainStep
  exact brickStep_keeps (by assumption)

theorem brickPause_keeps {s0 s : State} {a0 a1} (h : Keeps s0 s) : Keeps s0 (brickPause a0 a1 s) := by
  unfold brickPause
  exact brickStep_keeps (by assumption)

theorem brickWait_keeps {s0 s : State} {a0 a1} (h : Keeps s0 s) : Keeps s0 (brickWait a0 a1 s) := by
  unfold brickWait
  exact brickStep_keeps (by assumption)

theorem waitComplete_keeps {s0 s : State} {a0 a1} (h : Keeps s0 s) : Keeps s0 (waitComplete a0 a1 s) := by
  unfold waitComplete
  split
  · rename_i y0 y1
    assumption
  · rename_i y2 y3 y4 y5
    extract_lets +onlyGivenNames x6
    clear_value x6
    refine Keeps.ite ?_ ?_
    · assumption
    · refine Keeps.ite ?_ ?_
      · extract_lets +onlyGivenNames x7
        clear_value x7
        extract_lets +onlyGivenNames x8
        have h9 : Keeps s0 x8 := by
          unfold x8
          exact State.drainOf_keeps (by assumption)
        clear_value x8
        refine Keeps.ite ?_ ?_
        · refine State.makeResident_keeps ?_
          exact State.setStall_keeps (by assumption)
        · assumption
      · split
        · rename_i y10 y11 y12
          exact State.setStall_keeps (by assumption)
        · rename_i y13 y14
          assumption

theorem brickComplete_keeps {s0 s : State} {a0 a1} (h : Keeps s0 s) : Keeps s0 (brickComplete a0 a1 s) := by
  unfold brickComplete
  split
  · rename_i y0 y1
    assumption
  · rename_i y2 y3 y4 y5
    extract_lets +onlyGivenNames x6
    clear_value x6
    refine Keeps.ite ?_ ?_
    · exact State.setStall_keeps (by assumption)
    · assumption

theorem hodLoop_keeps {s0 s : State} {a0 a1} (h : Keeps s0 s) : Keeps s0 (hodLoop a0 a1 s) := by
  unfold hodLoop
  split
  · rename_i y0 y1
    assumption
  · rename_i y2 y3 y4 y5
    extract_lets +onlyGivenNames x6
    clear_value x6
    refine Keeps.ite ?_ ?_
    · refine State.inc_keeps ?_
      exact State.setStall_keeps (by assumption)
    · assumption

theorem State.dataUnit_keeps {s0 s : State} {a1 a2 a3} (h : Keeps s0 s) : Keeps s0 (State.dataUnit s a1 a2 a3) := by
  unfold State.dataUnit
  extract_lets +onlyGivenNames x0
  clear_value x0
  refine Keeps.ite ?_ ?_
  · assumption
  · split
    rename_i y1 y2 y3 y4
    extract_lets +onlyGivenNames x5
    have h6 : Keeps s0 x5 := by
      unfold x5
      refine State.makeResident_keeps ?_
      exact State.setStall_keeps (by assumption)
    clear_value x5
    split
    · rename_i y7
      assumption
    · rename_i y8 y9
      refine Keeps.ite ?_ ?_
      · split
        · rename_i y10 y11 y12
          refine Keeps.ite ?_ ?_
          · assumption
          · exact State.linkOut_keeps (by assumption)
        · rename_i y13 y14
          exact State.linkOut_keeps (by assumption)
      · refine Keeps.ite ?_ ?_
        · exact State.capture_keeps (by assumption)
        · assumption

theorem hodUnit_keeps {s0 s : State} {a0 a1} (h : Keeps s0 s) : Keeps s0 (hodUnit a0 a1 s) := by
  unfold hodUnit
  split
  · rename_i y0 y1
    assumption
  · rename_i y2 y3 y4 y5
    extract_lets +onlyGivenNames x6
    clear_value x6
    extract_lets +onlyGivenNames x7
    clear_value x7
    extract_lets +onlyGivenNames x8
    have h9 : Keeps s0 x8 := by
      unfold x8
      exact State.drainOf_keeps (by assumption)
    clear_value x8
    split
    · rename_i y10 y11
      refine Keeps.ite ?_ ?_
      · extract_lets +onlyGivenNames x12
        clear_value x12
        refine State.makeResident_keeps ?_
        exact State.setStall_keeps (by assumption)
      · assumption
    · rename_i y13 y14
      extract_lets +onlyGivenNames x15
      clear_value x15
      extract_lets +onlyGivenNames x16
      clear_value x16
      refine Keeps.ite ?_ ?_
      · extract_lets +onlyGivenNames x17
        clear_value x17
        refine State.makeResident_keeps ?_
        refine State.countEnd_keeps ?_
        exact State.setStall_keeps (by assumption)
      · assumption
    · rename_i y18 y19
      split
      · rename_i y20 y21 y22 y23
        exact State.dataUnit_keeps (by assumption)
      · rename_i y24 y25
        assumption
    · rename_i y26 y27
      refine Keeps.ite ?_ ?_
      · refine State.makeResident_keeps ?_
        exact State.setStall_keeps (by assumption)
      · assumption
    · rename_i y28 y29 y30 y31 y32
      assumption

theorem cmdStep_keeps {s0 s : State} {a0 a1 a2 a3} (h : Keeps s0 s) : Keeps s0 (cmdStep a0 a1 a2 a3 s) := by
  unfold cmdStep
  split
  · rename_i y0 y1
    assumption
  · rename_i y2 y3 y4 y5
    refine Keeps.ite ?_ ?_
    · assumption
    · split
      · rename_i y6 y7 y8 y9 y10
        refine Keeps.ite ?_ ?_
        · exact State.setStall_keeps (by assumption)
        · assumption
      · rename_i y11 y12
        assumption

theorem hodStartCmd_keeps {s0 s : State} {a0 a1} (h : Keeps s0 s) : Keeps s0 (hodStartCmd a0 a1 s) := by
  unfold hodStartCmd
  extract_lets +onlyGivenNames x0
  have h1 : Keeps s0 x0 := by
    unfold x0
    exact cmdStep_keeps (by assumption)
  clear_value x0
  extract_lets +onlyGivenNames x2
  clear_value x2
  exact State.countEnd_keeps (by assumption)

theorem hodHaltCmd_keeps {s0 s : State} {a0 a1} (h : Keeps s0 s) : Keeps s0 (hodHaltCmd a0 a1 s) := by
  unfold hodHaltCmd
  exact cmdStep_keeps (by assumption)

theorem hodResumeCmd_keeps {s0 s : State} {a0 a1} (h : Keeps s0 s) : Keeps s0 (hodResumeCmd a0 a1 s) := by
  unfold hodResumeCmd
  exact cmdStep_keeps (by assumption)

theorem hodClearCmd_keeps {s0 s : State} {a0 a1} (h : Keeps s0 s) : Keeps s0 (hodClearCmd a0 a1 s) := by
  unfold hodClearCmd
  exact cmdStep_keeps (by assumption)

theorem hodAssign_keeps {s0 s : State} {a0 a1 a2} (h : Keeps s0 s) : Keeps s0 (hodAssign a0 a1 a2 s) := by
  unfold hodAssign
  refine Keeps.ite ?_ ?_
  · assumption
  · split
    · rename_i y0 y1
      refine State.put_keeps ?_
      exact State.onStall_keeps (by assumption)
    · rename_i y2 y3
      exact State.puts_keeps (by assumption)

theorem State.setHsub_keeps {s0 s : State} {a1 a2} (h : Keeps s0 s) : Keeps s0 (State.setHsub s a1 a2) := by
  unfold State.setHsub
  exact Keeps.upd (s := s) rfl rfl rfl rfl rfl rfl rfl (by assumption)

theorem State.hostPost_keeps {s0 s : State} {a1 a2 a3 a4 a5} (h : Keeps s0 s) : Keeps s0 (State.hostPost s a1 a2 a3 a4 a5) := by
  unfold State.hostPost
  extract_lets +onlyGivenNames x0
  have h1 : Keeps s0 x0 := by
    unfold x0
    exact State.puts_keeps (by assumption)
  clear_value x0
  extract_lets +onlyGivenNames x2
  clear_value x2
  extract_lets +onlyGivenNames x3
  clear_value x3
  extract_lets +onlyGivenNames x4
  have h5 : Keeps s0 x4 := by
    unfold x4
    refine Keeps.ite ?_ ?_
    · assumption
    · split
      · rename_i y6 y7
        exact State.hbmWrite_keeps (by assumption)
      · rename_i y8 y9
        refine Keeps.ite ?_ ?_
        · exact State.hostWrite_keeps (by assumption)
        · assumption
      · rename_i y10 y11 y12
        assumption
  clear_value x4
  exact State.raise_keeps (by assumption)

theorem State.hostEnd_keeps {s0 s : State} {a1 a2 a3} (h : Keeps s0 s) : Keeps s0 (State.hostEnd s a1 a2 a3) := by
  unfold State.hostEnd
  extract_lets +onlyGivenNames x0
  clear_value x0
  extract_lets +onlyGivenNames x1
  clear_value x1
  extract_lets +onlyGivenNames x2
  have h3 : Keeps s0 x2 := by
    unfold x2
    exact State.setHsub_keeps (by assumption)
  clear_value x2
  refine State.hostPost_keeps ?_
  exact State.put_keeps (by assumption)

theorem State.hostBrick_keeps {s0 s : State} {a1 a2 a3} (h : Keeps s0 s) : Keeps s0 (State.hostBrick s a1 a2 a3) := by
  unfold State.hostBrick
  extract_lets +onlyGivenNames x0
  clear_value x0
  extract_lets +onlyGivenNames x1
  have h2 : Keeps s0 x1 := by
    unfold x1
    exact State.setHsub_keeps (by assumption)
  clear_value x1
  exact State.put_keeps (by assumption)

theorem State.hostContinue_keeps {s0 s : State} {a1} (h : Keeps s0 s) : Keeps s0 (State.hostContinue s a1) := by
  unfold State.hostContinue
  extract_lets +onlyGivenNames x0
  clear_value x0
  exact State.hostBrick_keeps (by assumption)

theorem State.hostComplete_keeps {s0 s : State} {a1} (h : Keeps s0 s) : Keeps s0 (State.hostComplete s a1) := by
  unfold State.hostComplete
  extract_lets +onlyGivenNames x0
  clear_value x0
  extract_lets +onlyGivenNames x1
  clear_value x1
  extract_lets +onlyGivenNames x2
  clear_value x2
  extract_lets +onlyGivenNames x3
  clear_value x3
  extract_lets +onlyGivenNames x4
  have h5 : Keeps s0 x4 := by
    unfold x4
    exact State.setHsub_keeps (by assumption)
  clear_value x4
  extract_lets +onlyGivenNames x6
  clear_value x6
  refine Keeps.ite ?_ ?_
  · refine State.inc_keeps ?_
    exact State.hostEnd_keeps (by assumption)
  · refine Keeps.ite ?_ ?_
    · exact State.hostEnd_keeps (by assumption)
    · extract_lets +onlyGivenNames x7
      have h8 : Keeps s0 x7 := by
        unfold x7
        refine Keeps.ite ?_ ?_
        · exact State.hostPost_keeps (by assumption)
        · assumption
      clear_value x7
      exact State.hostContinue_keeps (by assumption)

theorem hodHstart_keeps {s0 s : State} {a0} (h : Keeps s0 s) : Keeps s0 (hodHstart a0 s) := by
  unfold hodHstart
  refine Keeps.ite ?_ ?_
  · assumption
  · refine Keeps.ite ?_ ?_
    · exact State.emit_keeps (by assumption)
    · extract_lets +onlyGivenNames x0
      clear_value x0
      extract_lets +onlyGivenNames x1
      clear_value x1
      refine Keeps.ite ?_ ?_
      · exact State.put_keeps (by assumption)
      · extract_lets +onlyGivenNames x2
        have h3 : Keeps s0 x2 := by
          unfold x2
          exact State.put_keeps (by assumption)
        clear_value x2
        extract_lets +onlyGivenNames x4
        clear_value x4
        extract_lets +onlyGivenNames x5
        have h6 : Keeps s0 x5 := by
          unfold x5
          refine State.hostBrick_keeps ?_
          exact State.setHsub_keeps (by assumption)
        clear_value x5
        refine Keeps.ite ?_ ?_
        · exact State.hostEnd_keeps (by assumption)
        · refine Keeps.ite ?_ ?_
          · refine State.inc_keeps ?_
            exact State.hostEnd_keeps (by assumption)
          · assumption

theorem hodHhalt_keeps {s0 s : State} {a0} (h : Keeps s0 s) : Keeps s0 (hodHhalt a0 s) := by
  unfold hodHhalt
  refine Keeps.ite ?_ ?_
  · assumption
  · extract_lets +onlyGivenNames x0
    clear_value x0
    refine Keeps.ite ?_ ?_
    · exact State.put_keeps (by assumption)
    · refine State.hostEnd_keeps ?_
      exact State.put_keeps (by assumption)

theorem hodHresume_keeps {s0 s : State} {a0} (h : Keeps s0 s) : Keeps s0 (hodHresume a0 s) := by
  unfold hodHresume
  refine Keeps.ite ?_ ?_
  · assumption
  · extract_lets +onlyGivenNames x0
    clear_value x0
    extract_lets +onlyGivenNames x1
    have h2 : Keeps s0 x1 := by
      unfold x1
      exact State.put_keeps (by assumption)
    clear_value x1
    split
    · rename_i y3 y4
      refine Keeps.ite ?_ ?_
      · exact State.hostEnd_keeps (by assumption)
      · refine State.hostContinue_keeps ?_
        refine Keeps.ite ?_ ?_
        · exact State.hostPost_keeps (by assumption)
        · assumption
    · rename_i y5 y6
      refine State.put_keeps ?_
      exact State.setHsub_keeps (by assumption)
    · rename_i y7 y8 y9
      exact State.put_keeps (by assumption)

theorem hodHclear_keeps {s0 s : State} {a0} (h : Keeps s0 s) : Keeps s0 (hodHclear a0 s) := by
  unfold hodHclear
  refine Keeps.ite ?_ ?_
  · assumption
  · refine Keeps.ite ?_ ?_
    · exact State.put_keeps (by assumption)
    · exact State.puts_keeps (by assumption)

theorem hodHgrantWrite_keeps {s0 s : State} {a0 a1} (h : Keeps s0 s) : Keeps s0 (hodHgrantWrite a0 a1 s) := by
  unfold hodHgrantWrite
  extract_lets +onlyGivenNames x0
  have h1 : Keeps s0 x0 := by
    unfold x0
    exact State.puts_keeps (by assumption)
  clear_value x0
  refine Keeps.ite ?_ ?_
  · assumption
  · refine Keeps.foldl (fun t2 x3 h4 => ?_) _ ?_
    · refine Keeps.ite ?_ ?_
      · assumption
      · exact State.hostEnd_keeps (by assumption)
    · assumption

theorem State.hostUnit_keeps {s0 s : State} {a1 a2 a3} (h : Keeps s0 s) (hrd : ∀ t x n, Keeps s0 t → Keeps s0 (a1.rd t x n).2) (hwr : ∀ t x bs, Keeps s0 t → Keeps s0 (a1.wr t x bs)) : Keeps s0 (State.hostUnit s a1 a2 a3) := by
  unfold State.hostUnit
  extract_lets +onlyGivenNames x0
  clear_value x0
  extract_lets +onlyGivenNames x1
  clear_value x1
  split
  · rename_i y2 y3
    exact State.hostComplete_keeps (by assumption)
  · rename_i y4 y5 y6 y7 y8
    refine Keeps.ite ?_ ?_
    · exact State.setHsub_keeps (by assumption)
    · extract_lets +onlyGivenNames x9
      clear_value x9
      extract_lets +onlyGivenNames x10
      clear_value x10
      extract_lets +onlyGivenNames x11
      clear_value x11
      extract_lets +onlyGivenNames x12
      clear_value x12
      refine Keeps.ite ?_ ?_
      · exact State.hostEnd_keeps (by assumption)
      · extract_lets +onlyGivenNames x13
        unfold x13
        extract_lets +onlyGivenNames x14
        clear_value x14
        split
        · rename_i y15 y16 y17
          split
          · rename_i y18
            exact State.hostEnd_keeps (by assumption)
          · rename_i y19
            exact State.hostEnd_keeps (by assumption)
        · rename_i y20 y21 y22 y23
          refine Keeps.ite ?_ ?_
          · refine State.setHsub_keeps ?_
            refine devRead_keeps ?_ ?_ _ (by assumption)
            · assumption
            · intro a24 a25 a26 a27
              exact hrd _ _ _ (by assumption)
          · refine Keeps.ite ?_ ?_
            · refine State.setHsub_keeps ?_
              refine devRead_keeps ?_ ?_ _ (by assumption)
              · assumption
              · intro a28 a29 a30 a31
                exact hrd _ _ _ (by assumption)
            · split
              · rename_i y32 y33 y34
                split
                · rename_i y35
                  refine State.hostEnd_keeps ?_
                  refine devRead_keeps ?_ ?_ _ (by assumption)
                  · assumption
                  · intro a36 a37 a38 a39
                    exact hrd _ _ _ (by assumption)
                · rename_i y40
                  refine State.hostEnd_keeps ?_
                  refine devRead_keeps ?_ ?_ _ (by assumption)
                  · assumption
                  · intro a41 a42 a43 a44
                    exact hrd _ _ _ (by assumption)
              · rename_i y45 y46 y47
                refine State.setHsub_keeps ?_
                refine devWrite_keeps ?_ ?_ _ (by assumption)
                · refine devRead_keeps ?_ ?_ _ (by assumption)
                  · assumption
                  · intro a48 a49 a50 a51
                    exact hrd _ _ _ (by assumption)
                · intro a52 a53 a54 a55
                  exact hwr _ _ _ (by assumption)

theorem State.hostFetched_keeps {s0 s : State} {a1 a2} (h : Keeps s0 s) : Keeps s0 (State.hostFetched s a1 a2) := by
  unfold State.hostFetched
  extract_lets +onlyGivenNames x0
  clear_value x0
  refine Keeps.ite ?_ ?_
  · refine State.inc_keeps ?_
    refine State.hostEnd_keeps ?_
    exact Keeps.upd (s := s) rfl rfl rfl rfl rfl rfl rfl (by assumption)
  · extract_lets +onlyGivenNames x1
    clear_value x1
    extract_lets +onlyGivenNames x2
    clear_value x2
    split
    · rename_i y3 y4
      refine State.put_keeps ?_
      exact State.setHsub_keeps (by assumption)
    · rename_i y5 y6
      refine State.hostPost_keeps ?_
      refine State.put_keeps ?_
      exact State.setHsub_keeps (by assumption)
    · rename_i y7 y8
      refine Keeps.ite ?_ ?_
      · refine State.hostEnd_keeps ?_
        exact State.setHsub_keeps (by assumption)
      · refine Keeps.ite ?_ ?_
        · exact State.setHsub_keeps (by assumption)
        · exact State.setHsub_keeps (by assumption)
    · rename_i y9 y10
      refine Keeps.ite ?_ ?_
      · exact State.setHsub_keeps (by assumption)
      · exact State.setHsub_keeps (by assumption)
    · rename_i y11 y12
      refine Keeps.ite ?_ ?_
      · exact State.setHsub_keeps (by assumption)
      · exact State.setHsub_keeps (by assumption)
    · rename_i y13 y14 y15 y16 y17 y18
      exact State.setHsub_keeps (by assumption)

theorem State.hostListRead_keeps {s0 s : State} {io : Mmio} {host a m need} (h : Keeps s0 s)
    (hrd : ∀ t x n, Keeps s0 t → Keeps s0 (io.rd t x n).2) (p : Bytes × State) (e : State.hostListRead s io host a m need = .ok p) :
    Keeps s0 p.2 := by
  induction m generalizing s host a need p with
  | zero => unfold State.hostListRead at e; cases e; exact h
  | succ m ih =>
    unfold State.hostListRead at e
    split at e
    · cases e; exact h
    · cases e; exact h
    · rename_i m' hm _
      cases hm
      split at e
      · cases e
      · rename_i b t hb
        have ht : Keeps s0 t := devRead_keeps h hrd _ hb
        split at e
        · cases e
        · rename_i r u hu
          have hv := ih ht _ hu
          cases e
          exact hv

theorem hodHostUnit_keeps {s0 s : State} {a0 a1 a2 a3} (h : Keeps s0 s) (hrd : ∀ t x n, Keeps s0 t → Keeps s0 (a0.rd t x n).2) (hwr : ∀ t x bs, Keeps s0 t → Keeps s0 (a0.wr t x bs)) : Keeps s0 (hodHostUnit a0 a1 a2 a3 s) := by
  unfold hodHostUnit
  extract_lets +onlyGivenNames x0
  clear_value x0
  refine Keeps.ite ?_ ?_
  · assumption
  · refine Keeps.ite ?_ ?_
    · extract_lets +onlyGivenNames x1
      have h2 : Keeps s0 x1 := by
        unfold x1
        exact State.setHsub_keeps (by assumption)
      clear_value x1
      extract_lets +onlyGivenNames x3
      have h4 : Keeps s0 x3 := by
        unfold x3
        exact State.puts_keeps (by assumption)
      clear_value x3
      refine State.raise_keeps ?_
      refine State.hostPost_keeps ?_
      exact State.inc_keeps (by assumption)
    · split
      · rename_i y5 y6
        split
        · rename_i y7 y8 y9 y10
          refine State.hostFetched_keeps ?_
          refine devRead_keeps ?_ ?_ _ (by assumption)
          · assumption
          · intro a11 a12 a13 a14
            exact hrd _ _ _ (by assumption)
        · rename_i y15 y16
          exact State.hostEnd_keeps (by assumption)
        · rename_i y17 y18
          exact State.hostEnd_keeps (by assumption)
      · rename_i y19 y20
        split
        · rename_i y21 y22 y23 y24
          split
          rename_i y25 y26 y27 y28
          refine Keeps.ite ?_ ?_
          · refine State.setHsub_keeps ?_
            refine State.hostListRead_keeps ?_ ?_ _ (by assumption)
            · assumption
            · intro a29 a30 a31 a32
              exact hrd _ _ _ (by assumption)
          · refine State.inc_keeps ?_
            refine State.hostEnd_keeps ?_
            refine State.hostListRead_keeps ?_ ?_ _ (by assumption)
            · assumption
            · intro a33 a34 a35 a36
              exact hrd _ _ _ (by assumption)
        · rename_i y37 y38
          exact State.hostEnd_keeps (by assumption)
        · rename_i y39 y40
          exact State.hostEnd_keeps (by assumption)
      · rename_i y41 y42
        refine Keeps.ite ?_ ?_
        · exact State.hostComplete_keeps (by assumption)
        · assumption
      · rename_i y43 y44
        refine Keeps.ite ?_ ?_
        · extract_lets +onlyGivenNames x45
          have h46 : Keeps s0 x45 := by
            unfold x45
            refine Keeps.ite ?_ ?_
            · exact State.setHsub_keeps (by assumption)
            · assumption
          clear_value x45
          exact State.hostComplete_keeps (by assumption)
        · refine State.hostUnit_keeps ?_ ?_ ?_
          · assumption
          · intro a47 a48 a49 a50
            exact hrd _ _ _ (by assumption)
          · intro a51 a52 a53 a54
            exact hwr _ _ _ (by assumption)
      · rename_i y55 y56 y57 y58 y59
        assumption

theorem State.abortHost_keeps {s0 s : State} (h : Keeps s0 s) : Keeps s0 (State.abortHost s) := by
  unfold State.abortHost
  refine Keeps.foldl (fun t0 x1 h2 => ?_) _ ?_
  · refine Keeps.ite ?_ ?_
    · assumption
    · exact State.hostEnd_keeps (by assumption)
  · assumption

theorem State.setMov_keeps {s0 s : State} {a1 a2} (h : Keeps s0 s) : Keeps s0 (State.setMov s a1 a2) := by
  unfold State.setMov
  exact Keeps.upd (s := s) rfl rfl rfl rfl rfl rfl rfl (by assumption)

theorem State.ringPut_keeps {s0 s : State} {a1 a2} (h : Keeps s0 s) : Keeps s0 (State.ringPut s a1 a2) := by
  unfold State.ringPut
  split
  · rename_i y0 y1
    exact State.hbmWrite_keeps (by assumption)
  · rename_i y2 y3
    refine Keeps.ite ?_ ?_
    · exact State.hostWrite_keeps (by assumption)
    · assumption
  · rename_i y4 y5 y6
    assumption

theorem State.movEnd_keeps {s0 s : State} {a1 a2 a3 a4} (h : Keeps s0 s) : Keeps s0 (State.movEnd s a1 a2 a3 a4) := by
  unfold State.movEnd
  extract_lets +onlyGivenNames x0
  clear_value x0
  extract_lets +onlyGivenNames x1
  clear_value x1
  extract_lets +onlyGivenNames x2
  have h3 : Keeps s0 x2 := by
    unfold x2
    exact State.ringPut_keeps (by assumption)
  clear_value x2
  extract_lets +onlyGivenNames x4
  have h5 : Keeps s0 x4 := by
    unfold x4
    exact State.setMov_keeps (by assumption)
  clear_value x4
  extract_lets +onlyGivenNames x6
  have h7 : Keeps s0 x6 := by
    unfold x6
    exact State.puts_keeps (by assumption)
  clear_value x6
  extract_lets +onlyGivenNames x8
  have h9 : Keeps s0 x8 := by
    unfold x8
    refine Keeps.ite ?_ ?_
    · refine State.raise_keeps ?_
      exact State.put_keeps (by assumption)
    · assumption
  clear_value x8
  refine Keeps.ite ?_ ?_
  · exact State.raise_keeps (by assumption)
  · assumption

theorem State.movConfig_keeps {s0 s : State} {a1} (h : Keeps s0 s) : Keeps s0 (State.movConfig s a1) := by
  unfold State.movConfig
  extract_lets +onlyGivenNames x0
  clear_value x0
  exact State.put_keeps (by assumption)

theorem State.movRefuse_keeps {s0 s : State} {a0 a1 a2} (h : Keeps s0 s) : Keeps s0 (State.movRefuse s a0 a1 a2) := by
  unfold State.movRefuse
  refine Keeps.ite ?_ ?_
  · exact State.movEnd_keeps (by assumption)
  · split
    rename_i y0 y1 y2 y3
    refine State.movEnd_keeps ?_
    refine Keeps.snd y3 ?_
    exact State.draw_keeps (by assumption)

theorem State.movStart_keeps {s0 s : State} {a1 a2 a3} (h : Keeps s0 s) : Keeps s0 (State.movStart s a1 a2 a3) := by
  unfold State.movStart
  extract_lets +onlyGivenNames x0
  clear_value x0
  extract_lets +onlyGivenNames x1
  clear_value x1
  split
  · rename_i y2
    exact State.movEnd_keeps (by assumption)
  · rename_i y3 y4
    refine Keeps.ite ?_ ?_
    · assumption
    · split
      · rename_i y5 y6 y7
        exact State.movRefuse_keeps (by assumption)
      · rename_i y8 y9
        refine State.put_keeps ?_
        exact State.setMov_keeps (by assumption)

theorem State.movStep_keeps {s0 s : State} {a0 a1} (h : Keeps s0 s) : Keeps s0 (State.movStep s a0 a1) := by
  unfold State.movStep
  extract_lets +onlyGivenNames x0
  have h1 : Keeps s0 x0 := by
    unfold x0
    exact Keeps.upd (s := s) rfl rfl rfl rfl rfl rfl rfl (by assumption)
  clear_value x0
  refine Keeps.ite ?_ ?_
  · exact State.movEnd_keeps (by assumption)
  · exact State.setMov_keeps (by assumption)

theorem State.movAccess_keeps {s0 s : State} {a1 a2 a3} (h : Keeps s0 s) (hrd : ∀ t x n, Keeps s0 t → Keeps s0 (a1.rd t x n).2) (hwr : ∀ t x bs, Keeps s0 t → Keeps s0 (a1.wr t x bs)) : Keeps s0 (State.movAccess s a1 a2 a3) := by
  unfold State.movAccess
  extract_lets +onlyGivenNames x0
  clear_value x0
  extract_lets +onlyGivenNames x1
  clear_value x1
  split
  · rename_i y2 y3
    exact State.movEnd_keeps (by assumption)
  · rename_i y4 y5 y6
    refine Keeps.ite ?_ ?_
    · assumption
    · extract_lets +onlyGivenNames x7
      have h8 : ∀ y0 y1, Keeps s0 y1 → Keeps s0 (x7 y0 y1) := by
        intro a9 a10 a11
        unfold x7
        exact State.movEnd_keeps (by assumption)
      clear_value x7
      refine Keeps.ite ?_ ?_
      · split
        · rename_i y12 y13 y14
          refine State.movStep_keeps ?_
          refine devWrite_keeps ?_ ?_ _ (by assumption)
          · assumption
          · intro a15 a16 a17 a18
            exact hwr _ _ _ (by assumption)
        · rename_i y19 y20 y21
          exact h8 _ _ (by assumption)
      · split
        · rename_i y22 y23 y24 y25
          refine State.movStep_keeps ?_
          refine devRead_keeps ?_ ?_ _ (by assumption)
          · assumption
          · intro a26 a27 a28 a29
            exact hrd _ _ _ (by assumption)
        · rename_i y30 y31 y32
          exact h8 _ _ (by assumption)

theorem movCmd_keeps {s0 s : State} {a0 a1 a2 a3} (h : Keeps s0 s) (hrd : ∀ t x n, Keeps s0 t → Keeps s0 (a0.rd t x n).2) (hwr : ∀ t x bs, Keeps s0 t → Keeps s0 (a0.wr t x bs)) : Keeps s0 (movCmd a0 a1 a2 a3 s) := by
  unfold movCmd
  refine Keeps.ite ?_ ?_
  · assumption
  · extract_lets +onlyGivenNames x0
    clear_value x0
    refine Keeps.ite ?_ ?_
    · refine Keeps.ite ?_ ?_
      · refine State.movAccess_keeps ?_ ?_ ?_
        · assumption
        · intro a1 a2 a3 a4
          exact hrd _ _ _ (by assumption)
        · intro a5 a6 a7 a8
          exact hwr _ _ _ (by assumption)
      · assumption
    · refine Keeps.ite ?_ ?_
      · exact State.movStart_keeps (by assumption)
      · assumption

theorem movChPi_keeps {s0 s : State} {a0 a1} (h : Keeps s0 s) : Keeps s0 (movChPi a0 a1 s) := by
  unfold movChPi
  refine Keeps.ite ?_ ?_
  · exact State.put_keeps (by assumption)
  · assumption

theorem moverStallAccess_keeps {s0 s : State} {a0} (h : Keeps s0 s) : Keeps s0 (moverStallAccess a0 s) := by
  unfold moverStallAccess
  extract_lets +onlyGivenNames x0
  clear_value x0
  refine Keeps.ite ?_ ?_
  · assumption
  · split
    · rename_i y1 y2
      assumption
    · rename_i y3 y4 y5
      split
      · rename_i y6 y7
        assumption
      · rename_i y8 y9 y10
        split
        · rename_i y11 y12
          exact State.movEnd_keeps (by assumption)
        · rename_i y13 y14 y15 y16
          refine Keeps.ite ?_ ?_
          · extract_lets +onlyGivenNames x17
            have h18 : Keeps s0 x17 := by
              unfold x17
              refine State.setMov_keeps ?_
              exact Keeps.upd (s := s) rfl rfl rfl rfl rfl rfl rfl (by assumption)
            clear_value x17
            extract_lets +onlyGivenNames x19
            have h20 : Keeps s0 x19 := by
              unfold x19
              exact State.puts_keeps (by assumption)
            clear_value x19
            refine State.raise_keeps ?_
            exact State.inc_keeps (by assumption)
          · extract_lets +onlyGivenNames x21
            have h22 : Keeps s0 x21 := by
              unfold x21
              exact State.drainOf_keeps (by assumption)
            clear_value x21
            refine Keeps.ite ?_ ?_
            · refine State.movStep_keeps ?_
              exact State.setStall_keeps (by assumption)
            · refine State.movStep_keeps ?_
              exact State.setStall_keeps (by assumption)

theorem movFaultResume_keeps {s0 s : State} {a0} (h : Keeps s0 s) : Keeps s0 (movFaultResume a0 s) := by
  unfold movFaultResume
  extract_lets +onlyGivenNames x0
  clear_value x0
  refine Keeps.ite ?_ ?_
  · assumption
  · split
    · rename_i y1 y2
      assumption
    · rename_i y3 y4 y5 y6
      split
      · rename_i y7 y8 y9
        refine Keeps.ite ?_ ?_
        · assumption
        · refine State.put_keeps ?_
          exact State.setMov_keeps (by assumption)
      · rename_i y10 y11
        assumption

end Sys2Proof.Machine
end

