-- ==== Sys2Proof/Laws/KeepsDevice.lean ====
section
/-! SUPPORT. `Keeps` for memory errors, events, mail, resets, the board, the monitors and the audio lanes: one lemma for each
operation, in the form that a chain of them composes (what held of the state before holds of the state after). -/
set_option linter.unusedVariables false
namespace Sys2Proof.Machine

theorem movHalt_keeps {s0 s : State} {a0} (h : Keeps s0 s) : Keeps s0 (movHalt a0 s) := by
  unfold movHalt
  refine Keeps.ite ?_ ?_
  · assumption
  · extract_lets +onlyGivenNames x0
    clear_value x0
    extract_lets +onlyGivenNames x1
    have h2 : Keeps s0 x1 := by
      unfold x1
      exact State.put_keeps (by assumption)
    clear_value x1
    refine Keeps.ite ?_ ?_
    · assumption
    · refine Keeps.ite ?_ ?_
      · exact State.setMov_keeps (by assumption)
      · exact State.movEnd_keeps (by assumption)

theorem State.abortMover_keeps {s0 s : State} (h : Keeps s0 s) : Keeps s0 (State.abortMover s) := by
  unfold State.abortMover
  refine Keeps.foldl (fun t0 x1 h2 => ?_) _ ?_
  · extract_lets +onlyGivenNames x3
    clear_value x3
    refine Keeps.ite ?_ ?_
    · exact State.movEnd_keeps (by assumption)
    · assumption
  · assumption

theorem State.failStop_keeps {s0 s : State} {a1 a2 a3 a4} (h : Keeps s0 s) : Keeps s0 (State.failStop s a1 a2 a3 a4) := by
  unfold State.failStop
  extract_lets +onlyGivenNames x0
  have h1 : Keeps s0 x0 := by
    unfold x0
    exact State.puts_keeps (by assumption)
  clear_value x0
  extract_lets +onlyGivenNames x2
  have h3 : Keeps s0 x2 := by
    unfold x2
    refine Keeps.foldl (fun t4 x5 h6 => ?_) _ ?_
    · exact State.put_keeps (by assumption)
    · assumption
  clear_value x2
  extract_lets +onlyGivenNames x7
  have h8 : Keeps s0 x7 := by
    unfold x7
    exact Keeps.upd (s := x2) rfl rfl rfl rfl rfl rfl rfl (by assumption)
  clear_value x7
  refine State.msix_keeps ?_
  refine State.raise_keeps ?_
  exact State.toMode_keeps (by assumption)

theorem unrecoverableFault_keeps {s0 s : State} {a0 a1} (h : Keeps s0 s) : Keeps s0 (unrecoverableFault a0 a1 s) := by
  unfold unrecoverableFault
  refine Keeps.ite ?_ ?_
  · exact State.failStop_keeps (by assumption)
  · assumption

theorem State.abortJobs_keeps {s0 s : State} {a1} (h : Keeps s0 s) : Keeps s0 (State.abortJobs s a1) := by
  unfold State.abortJobs
  extract_lets +onlyGivenNames x0
  clear_value x0
  extract_lets +onlyGivenNames x1
  clear_value x1
  exact Keeps.upd (s := s) rfl rfl rfl rfl rfl rfl rfl (by assumption)

theorem State.discard_keeps {s0 s : State} {a1} (h : Keeps s0 s) : Keeps s0 (State.discard s a1) := by
  unfold State.discard
  extract_lets +onlyGivenNames x0
  have h1 : Keeps s0 x0 := by
    unfold x0
    refine Keeps.ite ?_ ?_
    · exact State.abortHost_keeps (by assumption)
    · assumption
  clear_value x0
  extract_lets +onlyGivenNames x2
  have h3 : Keeps s0 x2 := by
    unfold x2
    refine Keeps.ite ?_ ?_
    · exact State.abortMover_keeps (by assumption)
    · assumption
  clear_value x2
  refine Keeps.ite ?_ ?_
  · exact State.abortJobs_keeps (by assumption)
  · assumption

theorem State.loseStall_keeps {s0 s : State} {a1} (h : Keeps s0 s) : Keeps s0 (State.loseStall s a1) := by
  unfold State.loseStall
  refine State.notice_keeps ?_
  exact State.destroyStall_keeps (by assumption)

theorem State.restore_keeps {s0 s : State} {a1 a2} (h : Keeps s0 s) : Keeps s0 (State.restore s a1 a2) := by
  unfold State.restore
  split
  · rename_i y0 y1
    assumption
  · rename_i y2 y3 y4
    extract_lets +onlyGivenNames x5
    have h6 : Keeps s0 x5 := by
      unfold x5
      exact State.drainOf_keeps (by assumption)
    clear_value x5
    split
    rename_i y7 y8 y9 y10
    split
    · rename_i y11 y12
      exact State.loseStall_keeps (by assumption)
    · rename_i y13 y14 y15
      split
      · rename_i y16
        exact State.setStall_keeps (by assumption)
      · rename_i y17 y18
        refine State.notice_keeps ?_
        exact State.setStall_keeps (by assumption)

theorem State.recoverSlot_keeps {s0 s : State} {a1} (h : Keeps s0 s) : Keeps s0 (State.recoverSlot s a1) := by
  unfold State.recoverSlot
  split
  · rename_i y0 y1
    assumption
  · rename_i y2 y3 y4
    extract_lets +onlyGivenNames x5
    clear_value x5
    extract_lets +onlyGivenNames x6
    clear_value x6
    refine Keeps.ite ?_ ?_
    · extract_lets +onlyGivenNames x7
      have h8 : Keeps s0 x7 := by
        unfold x7
        exact State.puts_keeps (by assumption)
      clear_value x7
      extract_lets +onlyGivenNames x9
      have h10 : Keeps s0 x9 := by
        unfold x9
        exact Keeps.upd (s := x7) rfl rfl rfl rfl rfl rfl rfl (by assumption)
      clear_value x9
      extract_lets +onlyGivenNames x11
      have h12 : Keeps s0 x11 := by
        unfold x11
        refine State.spareFlag_keeps ?_
        exact State.raise_keeps (by assumption)
      clear_value x11
      extract_lets +onlyGivenNames x13
      clear_value x13
      refine Keeps.foldl (fun t14 x15 h16 => ?_) _ ?_
      · split
        rename_i y17 y18 y19 y20
        extract_lets +onlyGivenNames x21
        have h22 : Keeps s0 x21 := by
          unfold x21
          refine State.setUcs_keeps ?_
          refine Keeps.snd (by assumption) ?_
          exact State.rebind_keeps (by assumption)
        clear_value x21
        exact State.restore_keeps (by assumption)
      · assumption
    · extract_lets +onlyGivenNames x23
      have h24 : Keeps s0 x23 := by
        unfold x23
        exact State.puts_keeps (by assumption)
      clear_value x23
      extract_lets +onlyGivenNames x25
      have h26 : Keeps s0 x25 := by
        unfold x25
        exact State.setDegrade_keeps (by assumption)
      clear_value x25
      refine Keeps.foldl (fun t27 x28 h29 => ?_) _ ?_
      · exact State.restore_keeps (by assumption)
      · assumption

theorem State.slotGone_keeps {s0 s : State} {a1 a2} (h : Keeps s0 s) : Keeps s0 (State.slotGone s a1 a2) := by
  unfold State.slotGone
  extract_lets +onlyGivenNames x0
  have h1 : Keeps s0 x0 := by
    unfold x0
    exact State.fenceSlot_keeps (by assumption)
  clear_value x0
  refine Keeps.ite ?_ ?_
  · exact Keeps.upd (s := x0) rfl rfl rfl rfl rfl rfl rfl (by assumption)
  · exact State.recoverSlot_keeps (by assumption)

theorem coreFault_keeps {s0 s : State} {a0 a1 a2} (h : Keeps s0 s) : Keeps s0 (coreFault a0 a1 a2 s) := by
  unfold coreFault
  refine Keeps.ite ?_ ?_
  · refine State.slotGone_keeps ?_
    refine State.discard_keeps ?_
    exact State.recordFault_keeps (by assumption)
  · assumption

theorem storeFault_keeps {s0 s : State} {a0 a1} (h : Keeps s0 s) : Keeps s0 (storeFault a0 a1 s) := by
  unfold storeFault
  refine Keeps.ite ?_ ?_
  · refine State.slotGone_keeps ?_
    refine State.discard_keeps ?_
    exact State.recordFault_keeps (by assumption)
  · assumption

theorem stbFence_keeps {s0 s : State} {a0} (h : Keeps s0 s) : Keeps s0 (stbFence a0 s) := by
  unfold stbFence
  refine Keeps.ite ?_ ?_
  · assumption
  · extract_lets +onlyGivenNames x0
    have h1 : Keeps s0 x0 := by
      unfold x0
      exact State.put_keeps (by assumption)
    clear_value x0
    refine Keeps.ite ?_ ?_
    · assumption
    · refine Keeps.ite ?_ ?_
      · exact State.slotGone_keeps (by assumption)
      · exact State.fenceSlot_keeps (by assumption)

theorem takeoverComplete_keeps {s0 s : State} (h : Keeps s0 s) : Keeps s0 (takeoverComplete s) := by
  unfold takeoverComplete
  refine Keeps.ite ?_ ?_
  · exact State.puts_keeps (by assumption)
  · assumption

theorem faultPointReached_keeps {s0 s : State} {a0} (h : Keeps s0 s) : Keeps s0 (faultPointReached a0 s) := by
  unfold faultPointReached
  split
  · rename_i y0 y1
    assumption
  · rename_i y2 y3 y4 y5
    split
    · rename_i y6 y7
      assumption
    · rename_i y8 y9 y10
      refine Keeps.ite ?_ ?_
      · extract_lets +onlyGivenNames x11
        have h12 : Keeps s0 x11 := by
          unfold x11
          exact State.setStall_keeps (by assumption)
        clear_value x11
        refine Keeps.ite ?_ ?_
        · assumption
        · exact State.notice_keeps (by assumption)
      · assumption

theorem State.noteHbm_keeps {s0 s : State} {a1} (h : Keeps s0 s) : Keeps s0 (State.noteHbm s a1) := by
  unfold State.noteHbm
  refine Keeps.ite ?_ ?_
  · exact State.setDegrade_keeps (by assumption)
  · assumption

theorem State.shiftTables_keeps {s0 s : State} {a0} (h : Keeps s0 s) : Keeps s0 (State.shiftTables s a0) := by
  unfold State.shiftTables
  extract_lets +onlyGivenNames x0
  have h1 : Keeps s0 x0 := by
    unfold x0
    refine Keeps.foldl (fun a2 a3 h4 => ?_) _ ?_
    · exact State.put_keeps (by assumption)
    · assumption
  clear_value x0
  exact State.put_keeps (by assumption)

theorem copyExtent_wf (m : Mem) (e x : Nat) (h : Memory.wf m = true) : Memory.wf (copyExtent m e x) = true := by
  unfold copyExtent
  generalize (m.filter fun p => p.1 / 0x200000 == e) = l
  induction l generalizing m with
  | nil => exact h
  | cons p l ih => exact ih _ (Memory.set_wf _ _ _ h)

theorem copyExtents_wf (l : List (Nat × Nat)) (m : Mem) (h : Memory.wf m = true) :
    Memory.wf (l.foldl (fun m p => copyExtent m p.1 p.2) m) = true := by
  induction l generalizing m with
  | nil => exact h
  | cons p l ih => exact ih _ (copyExtent_wf _ _ _ h)

theorem State.shift_keeps {s0 s : State} {a0} (h : Keeps s0 s) : Keeps s0 (State.shift s a0) := by
  unfold State.shift
  extract_lets l new t u v
  have h1 : Keeps s0 t := by
    unfold t
    exact State.puts_keeps h
  clear_value t
  have h2 : Keeps s0 u := by
    unfold u
    exact State.puts_keeps h1
  clear_value u
  have h3 : Keeps s0 v := by
    unfold v
    exact Keeps.ite (State.shiftTables_keeps h2) h2
  clear_value v
  exact ⟨h3.1, fun w => copyExtents_wf _ _ (h3.2 w), h3.3, h3.4, h3.5, h3.6, h3.7⟩

theorem State.moveOut_keeps {s0 s : State} {a0 a1} (h : Keeps s0 s) : Keeps s0 (State.moveOut s a0 a1) := by
  unfold State.moveOut
  refine Keeps.ite ?_ ?_
  · split
    · rename_i y0 y1 y2
      exact State.shift_keeps (by assumption)
    · rename_i y3 y4
      assumption
  · assumption

theorem State.withdraw_keeps {s0 s : State} {a0} (h : Keeps s0 s) : Keeps s0 (State.withdraw s a0) := by
  unfold State.withdraw
  refine Keeps.ite ?_ ?_
  · exact State.put_keeps (by assumption)
  · assumption

theorem State.retire_keeps {s0 s : State} {a1} (h : Keeps s0 s) : Keeps s0 (State.retire s a1) := by
  unfold State.retire
  refine Keeps.ite ?_ ?_
  · assumption
  · extract_lets +onlyGivenNames x0
    have h1 : Keeps s0 x0 := by
      unfold x0
      exact State.moveOut_keeps (by assumption)
    clear_value x0
    extract_lets +onlyGivenNames x2
    clear_value x2
    extract_lets +onlyGivenNames x3
    clear_value x3
    extract_lets +onlyGivenNames x4
    have h5 : Keeps s0 x4 := by
      unfold x4
      exact State.put_keeps (by assumption)
    clear_value x4
    extract_lets +onlyGivenNames x6
    have h7 : Keeps s0 x6 := by
      unfold x6
      refine Keeps.ite ?_ ?_
      · exact Keeps.upd (s := x4) rfl rfl rfl rfl rfl rfl rfl (by assumption)
      · refine State.noteHbm_keeps ?_
        exact State.withdraw_keeps (by assumption)
    clear_value x6
    exact State.raise_keeps (by assumption)

theorem State.fencePchan_keeps {s0 s : State} {a0} (h : Keeps s0 s) : Keeps s0 (State.fencePchan s a0) := by
  unfold State.fencePchan
  extract_lets +onlyGivenNames x0
  clear_value x0
  extract_lets +onlyGivenNames x1
  have h2 : Keeps s0 x1 := by
    unfold x1
    refine Keeps.foldl (fun a3 a4 h5 => ?_) _ ?_
    · exact State.moveOut_keeps (by assumption)
    · assumption
  clear_value x1
  extract_lets +onlyGivenNames x6
  clear_value x6
  extract_lets +onlyGivenNames x7
  have h8 : Keeps s0 x7 := by
    unfold x7
    refine Keeps.foldl (fun a9 a10 h11 => ?_) _ ?_
    · exact State.withdraw_keeps (by assumption)
    · assumption
  clear_value x7
  extract_lets +onlyGivenNames x12
  have h13 : Keeps s0 x12 := by
    unfold x12
    refine State.noteHbm_keeps ?_
    exact State.setDegrade_keeps (by assumption)
  clear_value x12
  refine Keeps.foldl (fun a14 a15 h16 => ?_) _ ?_
  · split
    · rename_i y17 y18 y19
      exact State.park_keeps (by assumption)
    · rename_i y20 y21
      assumption
  · assumption

theorem State.remake_keeps {s0 s : State} {a0} (h : Keeps s0 s) : Keeps s0 (State.remake s a0) := by
  unfold State.remake
  extract_lets +onlyGivenNames x0
  clear_value x0
  extract_lets +onlyGivenNames x1
  clear_value x1
  exact Keeps.upd (s := s) rfl rfl rfl rfl rfl rfl rfl (by assumption)

theorem State.rebuildBeds_keeps {s0 s : State} {a0} (h : Keeps s0 s) : Keeps s0 (State.rebuildBeds s a0) := by
  unfold State.rebuildBeds
  exact Keeps.upd (s := s) rfl rfl rfl rfl rfl rfl rfl (by assumption)

theorem State.poison_keeps {s0 s : State} {a0 a1} (h : Keeps s0 s) : Keeps s0 (State.poison s a0 a1) := by
  unfold State.poison
  refine Keeps.ite ?_ ?_
  · exact State.remake_keeps (by assumption)
  · refine Keeps.ite ?_ ?_
    · exact State.rebuildBeds_keeps (by assumption)
    · refine Keeps.ite ?_ ?_
      · extract_lets +onlyGivenNames x0
        clear_value x0
        refine Keeps.ite ?_ ?_
        · exact Keeps.upd (s := s) rfl rfl rfl rfl rfl rfl rfl (by assumption)
        · extract_lets +onlyGivenNames x1
          clear_value x1
          refine Keeps.foldl (fun a2 a3 h4 => ?_) _ ?_
          · exact State.restore_keeps (by assumption)
          · assumption
      · refine Keeps.ite ?_ ?_
        · extract_lets +onlyGivenNames x5
          clear_value x5
          refine Keeps.foldl (fun a6 a7 h8 => ?_) _ ?_
          · exact State.onStall_keeps (by assumption)
          · assumption
        · assumption

theorem State.noteUe_keeps {s0 s : State} {a1} (h : Keeps s0 s) : Keeps s0 (State.noteUe s a1) := by
  unfold State.noteUe
  exact Keeps.upd (s := s) rfl rfl rfl rfl rfl rfl rfl (by assumption)

theorem State.hbmError_keeps {s0 s : State} {a0 a1} (h : Keeps s0 s) : Keeps s0 (State.hbmError s a0 a1) := by
  unfold State.hbmError
  extract_lets +onlyGivenNames x0
  clear_value x0
  extract_lets +onlyGivenNames x1
  clear_value x1
  extract_lets +onlyGivenNames x2
  have h3 : Keeps s0 x2 := by
    unfold x2
    refine Keeps.ite ?_ ?_
    · exact State.puts_keeps (by assumption)
    · assumption
  clear_value x2
  extract_lets +onlyGivenNames x4
  have h5 : Keeps s0 x4 := by
    unfold x4
    refine State.raise_keeps ?_
    exact State.inc_keeps (by assumption)
  clear_value x4
  extract_lets +onlyGivenNames x6
  have h7 : Keeps s0 x6 := by
    unfold x6
    exact State.recordFault_keeps (by assumption)
  clear_value x6
  extract_lets +onlyGivenNames x8
  clear_value x8
  extract_lets +onlyGivenNames x9
  have h10 : Keeps s0 x9 := by
    unfold x9
    exact State.poison_keeps (by assumption)
  clear_value x9
  extract_lets +onlyGivenNames x11
  have h12 : Keeps s0 x11 := by
    unfold x11
    refine State.retire_keeps ?_
    exact State.noteUe_keeps (by assumption)
  clear_value x11
  refine Keeps.ite ?_ ?_
  · exact State.fencePchan_keeps (by assumption)
  · assumption

theorem hbmUe_keeps {s0 s : State} {a0 a1 a2} (h : Keeps s0 s) : Keeps s0 (hbmUe a0 a1 a2 s) := by
  unfold hbmUe
  refine Keeps.ite ?_ ?_
  · assumption
  · extract_lets +onlyGivenNames x0
    clear_value x0
    extract_lets +onlyGivenNames x1
    have h2 : Keeps s0 x1 := by
      unfold x1
      exact State.hbmError_keeps (by assumption)
    clear_value x1
    refine Keeps.ite ?_ ?_
    · assumption
    · refine Keeps.ite ?_ ?_
      · refine Keeps.ite ?_ ?_
        · exact State.hostEnd_keeps (by assumption)
        · assumption
      · refine Keeps.ite ?_ ?_
        · refine Keeps.ite ?_ ?_
          · exact State.movEnd_keeps (by assumption)
          · assumption
        · assumption

theorem scrubRead_keeps {s0 s : State} {a0 a1} (h : Keeps s0 s) : Keeps s0 (scrubRead a0 a1 s) := by
  unfold scrubRead
  refine Keeps.ite ?_ ?_
  · assumption
  · extract_lets +onlyGivenNames x0
    clear_value x0
    extract_lets +onlyGivenNames x1
    have h2 : Keeps s0 x1 := by
      unfold x1
      exact State.puts_keeps (by assumption)
    clear_value x1
    refine Keeps.ite ?_ ?_
    · extract_lets +onlyGivenNames x3
      clear_value x3
      extract_lets +onlyGivenNames x4
      clear_value x4
      extract_lets +onlyGivenNames x5
      have h6 : Keeps s0 x5 := by
        unfold x5
        exact State.inc_keeps (by assumption)
      clear_value x5
      extract_lets +onlyGivenNames x7
      have h8 : Keeps s0 x7 := by
        unfold x7
        exact Keeps.upd (s := x5) rfl rfl rfl rfl rfl rfl rfl (by assumption)
      clear_value x7
      refine Keeps.ite ?_ ?_
      · exact State.retire_keeps (by assumption)
      · assumption
    · refine Keeps.ite ?_ ?_
      · exact State.hbmError_keeps (by assumption)
      · assumption

theorem memInval_keeps {s0 s : State} {a0 a1 a2 a3} (h : Keeps s0 s) : Keeps s0 (memInval a0 a1 a2 a3 s) := by
  unfold memInval
  refine Keeps.ite ?_ ?_
  · assumption
  · exact State.puts_keeps (by assumption)

theorem memInvalDone_keeps {s0 s : State} (h : Keeps s0 s) : Keeps s0 (memInvalDone s) := by
  unfold memInvalDone
  refine Keeps.ite ?_ ?_
  · assumption
  · exact State.put_keeps (by assumption)

theorem memXfaultPop_keeps {s0 s : State} (h : Keeps s0 s) : Keeps s0 (memXfaultPop s) := by
  unfold memXfaultPop
  split
  · rename_i y0 y1
    exact Keeps.upd (s := s) rfl rfl rfl rfl rfl rfl rfl (by assumption)
  · rename_i y2 y3 y4 y5
    exact Keeps.upd (s := s) rfl rfl rfl rfl rfl rfl rfl (by assumption)

theorem State.mpwReload_keeps {s0 s : State} {a1} (h : Keeps s0 s) : Keeps s0 (State.mpwReload s a1) := by
  unfold State.mpwReload
  split
  · rename_i y0 y1 y2
    exact Keeps.upd (s := s) rfl rfl rfl rfl rfl rfl rfl (by assumption)
  · rename_i y3 y4
    exact Keeps.upd (s := s) rfl rfl rfl rfl rfl rfl rfl (by assumption)

theorem mpwKick_keeps {s0 s : State} {a0 a1} (h : Keeps s0 s) : Keeps s0 (mpwKick a0 a1 s) := by
  unfold mpwKick
  refine Keeps.ite ?_ ?_
  · exact State.mpwReload_keeps (by assumption)
  · assumption

theorem State.fenceMp_keeps {s0 s : State} {a1} (h : Keeps s0 s) : Keeps s0 (State.fenceMp s a1) := by
  unfold State.fenceMp
  extract_lets +onlyGivenNames x0
  have h1 : Keeps s0 x0 := by
    unfold x0
    exact State.put_keeps (by assumption)
  clear_value x0
  exact Keeps.upd (s := x0) rfl rfl rfl rfl rfl rfl rfl (by assumption)

theorem State.mpRecover_keeps {s0 s : State} {a1 a2} (h : Keeps s0 s) : Keeps s0 (State.mpRecover s a1 a2) := by
  unfold State.mpRecover
  extract_lets +onlyGivenNames x0
  clear_value x0
  refine Keeps.ite ?_ ?_
  · extract_lets +onlyGivenNames x1
    have h2 : Keeps s0 x1 := by
      unfold x1
      exact State.puts_keeps (by assumption)
    clear_value x1
    extract_lets +onlyGivenNames x3
    have h4 : Keeps s0 x3 := by
      unfold x3
      refine State.raise_keeps ?_
      exact State.inc_keeps (by assumption)
    clear_value x3
    extract_lets +onlyGivenNames x5
    have h6 : Keeps s0 x5 := by
      unfold x5
      exact State.setDegrade_keeps (by assumption)
    clear_value x5
    exact State.abortJobs_keeps (by assumption)
  · exact State.failStop_keeps (by assumption)

theorem State.mpFail_keeps {s0 s : State} {a1 a2} (h : Keeps s0 s) : Keeps s0 (State.mpFail s a1 a2) := by
  unfold State.mpFail
  extract_lets +onlyGivenNames x0
  clear_value x0
  extract_lets +onlyGivenNames x1
  have h2 : Keeps s0 x1 := by
    unfold x1
    exact State.recordFault_keeps (by assumption)
  clear_value x1
  extract_lets +onlyGivenNames x3
  have h4 : Keeps s0 x3 := by
    unfold x3
    refine State.discard_keeps ?_
    exact State.fenceMp_keeps (by assumption)
  clear_value x3
  extract_lets +onlyGivenNames x5
  clear_value x5
  refine Keeps.ite ?_ ?_
  · exact Keeps.upd (s := x3) rfl rfl rfl rfl rfl rfl rfl (by assumption)
  · exact State.mpRecover_keeps (by assumption)

theorem mpFailure_keeps {s0 s : State} {a0 a1} (h : Keeps s0 s) : Keeps s0 (mpFailure a0 a1 s) := by
  unfold mpFailure
  refine Keeps.ite ?_ ?_
  · exact State.mpFail_keeps (by assumption)
  · assumption

theorem mpwExpiry_keeps {s0 s : State} {a0 a1} (h : Keeps s0 s) : Keeps s0 (mpwExpiry a0 a1 s) := by
  unfold mpwExpiry
  refine Keeps.ite ?_ ?_
  · extract_lets +onlyGivenNames x0
    have h1 : Keeps s0 x0 := by
      unfold x0
      exact State.raise_keeps (by assumption)
    clear_value x0
    refine Keeps.ite ?_ ?_
    · exact State.mpFail_keeps (by assumption)
    · refine State.setDegrade_keeps ?_
      exact State.fenceMp_keeps (by assumption)
  · assumption

theorem State.runDeferred_keeps {s0 s : State} (h : Keeps s0 s) : Keeps s0 (State.runDeferred s) := by
  unfold State.runDeferred
  extract_lets +onlyGivenNames x0
  clear_value x0
  refine Keeps.foldl (fun t1 x2 h3 => ?_) _ ?_
  · split
    · rename_i y4 y5
      exact State.encRecover_keeps (by assumption)
    · rename_i y6 y7
      exact State.restore_keeps (by assumption)
    · rename_i y8 y9
      exact State.mpRecover_keeps (by assumption)
    · rename_i y10 y11 y12 y13
      exact State.recoverSlot_keeps (by assumption)
  · exact Keeps.upd (s := s) rfl rfl rfl rfl rfl rfl rfl (by assumption)

theorem State.evtMessages_keeps {s0 s : State} {a1} (h : Keeps s0 s) : Keeps s0 (State.evtMessages s a1) := by
  unfold State.evtMessages
  extract_lets +onlyGivenNames x0
  clear_value x0
  extract_lets +onlyGivenNames x1
  have h2 : Keeps s0 x1 := by
    unfold x1
    exact Keeps.upd (s := s) rfl rfl rfl rfl rfl rfl rfl (by assumption)
  clear_value x1
  refine Keeps.ite ?_ ?_
  · extract_lets +onlyGivenNames x3
    clear_value x3
    extract_lets +onlyGivenNames x4
    have h5 : Keeps s0 x4 := by
      unfold x4
      refine Keeps.foldl (fun t6 x7 h8 => ?_) _ ?_
      · exact State.msix_keeps (by assumption)
      · assumption
    clear_value x4
    exact Keeps.upd (s := x4) rfl rfl rfl rfl rfl rfl rfl (by assumption)
  · assumption

theorem State.wakeCores_keeps {s0 s : State} {a0} (h : Keeps s0 s) : Keeps s0 (State.wakeCores s a0) := by
  unfold State.wakeCores
  refine Keeps.foldl (fun a0 a1 h2 => ?_) _ ?_
  · refine Keeps.ite ?_ ?_
    · exact State.emit_keeps (by assumption)
    · assumption
  · assumption

theorem evtArbitration_keeps {s0 s : State} (h : Keeps s0 s) : Keeps s0 (evtArbitration s) := by
  unfold evtArbitration
  extract_lets +onlyGivenNames x0
  clear_value x0
  refine State.wakeCores_keeps ?_
  extract_lets +onlyGivenNames x1
  have h2 : Keeps s0 x1 := by
    unfold x1
    exact State.evtMessages_keeps (by assumption)
  clear_value x1
  exact Keeps.upd (s := x1) rfl rfl rfl rfl rfl rfl rfl (by assumption)

theorem evtClaim_keeps {s0 s : State} {a0} (h : Keeps s0 s) : Keeps s0 (evtClaim a0 s) := by
  unfold evtClaim
  refine Keeps.ite ?_ ?_
  · assumption
  · extract_lets +onlyGivenNames x0
    clear_value x0
    extract_lets +onlyGivenNames x1
    have h2 : Keeps s0 x1 := by
      unfold x1
      exact Keeps.upd (s := s) rfl rfl rfl rfl rfl rfl rfl (by assumption)
    clear_value x1
    split
    · rename_i y3 y4 y5
      exact Keeps.upd (s := x1) rfl rfl rfl rfl rfl rfl rfl (by assumption)
    · rename_i y6
      assumption

theorem evtDone_keeps {s0 s : State} {a0 a1} (h : Keeps s0 s) : Keeps s0 (evtDone a0 a1 s) := by
  unfold evtDone
  refine Keeps.ite ?_ ?_
  · assumption
  · refine Keeps.ite ?_ ?_
    · extract_lets +onlyGivenNames x0
      have h1 : Keeps s0 x0 := by
        unfold x0
        exact State.put_keeps (by assumption)
      clear_value x0
      exact Keeps.upd (s := x0) rfl rfl rfl rfl rfl rfl rfl (by assumption)
    · refine State.puts_keeps ?_
      exact State.inc_keeps (by assumption)

theorem State.evtRearm_keeps {s0 s : State} (h : Keeps s0 s) : Keeps s0 (State.evtRearm s) := by
  unfold State.evtRearm
  refine Keeps.ite ?_ ?_
  · assumption
  · extract_lets +onlyGivenNames x0
    clear_value x0
    extract_lets +onlyGivenNames x1
    clear_value x1
    extract_lets +onlyGivenNames x2
    have h3 : Keeps s0 x2 := by
      unfold x2
      refine Keeps.foldl (fun a4 a5 h6 => ?_) _ ?_
      · exact State.msix_keeps (by assumption)
      · assumption
    clear_value x2
    exact Keeps.upd (s := x2) rfl rfl rfl rfl rfl rfl rfl (by assumption)

theorem State.dbgResume_keeps {s0 s : State} {a1} (h : Keeps s0 s) : Keeps s0 (State.dbgResume s a1) := by
  unfold State.dbgResume
  exact State.onStall_keeps (by assumption)

theorem State.unfreeze_keeps {s0 s : State} (h : Keeps s0 s) : Keeps s0 (State.unfreeze s) := by
  unfold State.unfreeze
  refine Keeps.ite ?_ ?_
  · extract_lets +onlyGivenNames x0
    clear_value x0
    extract_lets +onlyGivenNames x1
    have h2 : Keeps s0 x1 := by
      unfold x1
      exact Keeps.upd (s := s) rfl rfl rfl rfl rfl rfl rfl (by assumption)
    clear_value x1
    extract_lets +onlyGivenNames x3
    have h4 : Keeps s0 x3 := by
      unfold x3
      refine State.put_keeps ?_
      exact State.put_keeps (by assumption)
    clear_value x3
    extract_lets +onlyGivenNames x5
    have h6 : Keeps s0 x5 := by
      unfold x5
      split
      · rename_i y7 y8
        exact State.enterServe_keeps (by assumption)
      · rename_i y9 y10
        exact State.enterServe_keeps (by assumption)
      · rename_i y11 y12
        exact State.toMode_keeps (by assumption)
      · rename_i y13 y14 y15 y16
        exact State.toMode_keeps (by assumption)
    clear_value x5
    refine State.runDeferred_keeps ?_
    refine Keeps.foldl (fun t17 x18 h19 => ?_) _ ?_
    · exact State.dbgResume_keeps (by assumption)
    · assumption
  · assumption

theorem State.releaseMp_keeps {s0 s : State} {a1} (h : Keeps s0 s) : Keeps s0 (State.releaseMp s a1) := by
  unfold State.releaseMp
  extract_lets +onlyGivenNames x0
  have h1 : Keeps s0 x0 := by
    unfold x0
    exact State.put_keeps (by assumption)
  clear_value x0
  split
  · rename_i y2 y3 y4
    exact Keeps.upd (s := x0) rfl rfl rfl rfl rfl rfl rfl (by assumption)
  · rename_i y5 y6
    assumption

theorem State.haltMp_keeps {s0 s : State} {a1} (h : Keeps s0 s) : Keeps s0 (State.haltMp s a1) := by
  unfold State.haltMp
  extract_lets +onlyGivenNames x0
  clear_value x0
  refine Keeps.ite ?_ ?_
  · assumption
  · extract_lets +onlyGivenNames x1
    have h2 : Keeps s0 x1 := by
      unfold x1
      exact State.put_keeps (by assumption)
    clear_value x1
    refine Keeps.ite ?_ ?_
    · exact Keeps.upd (s := x1) rfl rfl rfl rfl rfl rfl rfl (by assumption)
    · assumption

theorem State.clearBps_keeps {s0 s : State} {a1} (h : Keeps s0 s) : Keeps s0 (State.clearBps s a1) := by
  unfold State.clearBps
  refine Keeps.foldl (fun t0 x1 h2 => ?_) _ ?_
  · refine Keeps.ite ?_ ?_
    · exact State.put_keeps (by assumption)
    · assumption
  · assumption

theorem State.enforceLevel_keeps {s0 s : State} (h : Keeps s0 s) : Keeps s0 (State.enforceLevel s) := by
  unfold State.enforceLevel
  extract_lets +onlyGivenNames x0
  clear_value x0
  extract_lets +onlyGivenNames x1
  have h2 : Keeps s0 x1 := by
    unfold x1
    refine Keeps.ite ?_ ?_
    · refine State.releaseMp_keeps ?_
      exact State.releaseMp_keeps (by assumption)
    · assumption
  clear_value x1
  refine Keeps.ite ?_ ?_
  · assumption
  · extract_lets +onlyGivenNames x3
    clear_value x3
    extract_lets +onlyGivenNames x4
    have h5 : Keeps s0 x4 := by
      unfold x4
      exact State.unfreeze_keeps (by assumption)
    clear_value x4
    extract_lets +onlyGivenNames x6
    have h7 : Keeps s0 x6 := by
      unfold x6
      exact State.clearBps_keeps (by assumption)
    clear_value x6
    refine Keeps.foldl (fun t8 x9 h10 => ?_) _ ?_
    · exact State.dbgResume_keeps (by assumption)
    · assumption

theorem stallResetApplyD_keeps {s0 s : State} {a0} (h : Keeps s0 s) : Keeps s0 (stallResetApplyD a0 s) := by
  unfold stallResetApplyD
  extract_lets +onlyGivenNames x0
  have h1 : Keeps s0 x0 := by
    unfold x0
    exact stallResetApply_keeps (by assumption)
  clear_value x0
  refine Keeps.ite ?_ ?_
  · exact State.enforceLevel_keeps (by assumption)
  · assumption

theorem State.dropDebug_keeps {s0 s : State} (h : Keeps s0 s) : Keeps s0 (State.dropDebug s) := by
  unfold State.dropDebug
  extract_lets +onlyGivenNames x0
  have h1 : Keeps s0 x0 := by
    unfold x0
    exact State.puts_keeps (by assumption)
  clear_value x0
  extract_lets +onlyGivenNames x2
  have h3 : Keeps s0 x2 := by
    unfold x2
    refine Keeps.foldl (fun t4 x5 h6 => ?_) _ ?_
    · exact State.put_keeps (by assumption)
    · assumption
  clear_value x2
  extract_lets +onlyGivenNames x7
  clear_value x7
  refine State.enforceLevel_keeps ?_
  exact Keeps.upd (s := x2) rfl rfl rfl rfl rfl rfl rfl (by assumption)

theorem State.stopOrphan_keeps {s0 s : State} (h : Keeps s0 s) : Keeps s0 (State.stopOrphan s) := by
  unfold State.stopOrphan
  extract_lets +onlyGivenNames x0
  have h1 : Keeps s0 x0 := by
    unfold x0
    exact State.put_keeps (by assumption)
  clear_value x0
  exact Keeps.upd (s := x0) rfl rfl rfl rfl rfl rfl rfl (by assumption)

theorem State.takeReq_keeps {s0 s : State} (h : Keeps s0 s) : Keeps s0 (State.takeReq s) := by
  unfold State.takeReq
  extract_lets +onlyGivenNames x0
  have h1 : Keeps s0 x0 := by
    unfold x0
    exact Keeps.upd (s := s) rfl rfl rfl rfl rfl rfl rfl (by assumption)
  refine Keeps.ite ?_ ?_
  · exact State.stopOrphan_keeps (by assumption)
  · assumption

theorem State.respond_keeps {s0 s : State} {a1} (h : Keeps s0 s) : Keeps s0 (State.respond s a1) := by
  unfold State.respond
  extract_lets +onlyGivenNames x0
  clear_value x0
  extract_lets +onlyGivenNames x1
  clear_value x1
  extract_lets +onlyGivenNames x2
  have h3 : Keeps s0 x2 := by
    unfold x2
    exact State.put_keeps (by assumption)
  clear_value x2
  extract_lets +onlyGivenNames x4
  have h5 : Keeps s0 x4 := by
    unfold x4
    refine Keeps.foldl (fun t6 x7 h8 => ?_) _ ?_
    · exact State.put_keeps (by assumption)
    · assumption
  clear_value x4
  extract_lets +onlyGivenNames x9
  have h10 : Keeps s0 x9 := by
    unfold x9
    exact State.puts_keeps (by assumption)
  clear_value x9
  exact State.msix_keeps (by assumption)

theorem State.clearMail_keeps {s0 s : State} (h : Keeps s0 s) : Keeps s0 (State.clearMail s) := by
  unfold State.clearMail
  extract_lets +onlyGivenNames x0
  have h1 : Keeps s0 x0 := by
    unfold x0
    exact State.puts_keeps (by assumption)
  clear_value x0
  exact Keeps.upd (s := x0) rfl rfl rfl rfl rfl rfl rfl (by assumption)

theorem mbxDoorbell_keeps {s0 s : State} {a0} (h : Keeps s0 s) : Keeps s0 (mbxDoorbell a0 s) := by
  unfold mbxDoorbell
  refine Keeps.ite ?_ ?_
  · exact State.put_keeps (by assumption)
  · refine Keeps.ite ?_ ?_
    · assumption
    · extract_lets +onlyGivenNames x0
      have h1 : Keeps s0 x0 := by
        unfold x0
        exact State.put_keeps (by assumption)
      clear_value x0
      exact Keeps.upd (s := x0) rfl rfl rfl rfl rfl rfl rfl (by assumption)

theorem State.linkLost_keeps {s0 s : State} {a1} (h : Keeps s0 s) : Keeps s0 (State.linkLost s a1) := by
  unfold State.linkLost
  exact State.put_keeps (by assumption)

theorem peerUnreachable_keeps {s0 s : State} {a0} (h : Keeps s0 s) : Keeps s0 (peerUnreachable a0 s) := by
  unfold peerUnreachable
  split
  · rename_i y0 y1
    assumption
  · rename_i y2 y3 y4
    refine Keeps.ite ?_ ?_
    · extract_lets +onlyGivenNames x5
      have h6 : Keeps s0 x5 := by
        unfold x5
        refine State.linkLost_keeps ?_
        exact State.raise_keeps (by assumption)
      clear_value x5
      extract_lets +onlyGivenNames x7
      have h8 : Keeps s0 x7 := by
        unfold x7
        exact State.setPeer_keeps (by assumption)
      clear_value x7
      exact State.endMigs_keeps (by assumption)
    · assumption

theorem yrdDetach_keeps {s0 s : State} (h : Keeps s0 s) : Keeps s0 (yrdDetach s) := by
  unfold yrdDetach
  refine Keeps.ite ?_ ?_
  · extract_lets +onlyGivenNames x0
    clear_value x0
    extract_lets +onlyGivenNames x1
    have h2 : Keeps s0 x1 := by
      unfold x1
      exact State.put_keeps (by assumption)
    clear_value x1
    extract_lets +onlyGivenNames x3
    have h4 : Keeps s0 x3 := by
      unfold x3
      exact Keeps.upd (s := x1) rfl rfl rfl rfl rfl rfl rfl (by assumption)
    clear_value x3
    extract_lets +onlyGivenNames x5
    have h6 : Keeps s0 x5 := by
      unfold x5
      exact State.linkLost_keeps (by assumption)
    clear_value x5
    extract_lets +onlyGivenNames x7
    have h8 : Keeps s0 x7 := by
      unfold x7
      exact State.endMigs_keeps (by assumption)
    clear_value x7
    exact Keeps.upd (s := x7) rfl rfl rfl rfl rfl rfl rfl (by assumption)
  · assumption

theorem State.clockLost_keeps {s0 s : State} (h : Keeps s0 s) : Keeps s0 (State.clockLost s) := by
  unfold State.clockLost
  exact State.endMigs_keeps (by assumption)

theorem ptpSync_keeps {s0 s : State} {a0} (h : Keeps s0 s) : Keeps s0 (ptpSync a0 s) := by
  unfold ptpSync
  refine Keeps.ite ?_ ?_
  · assumption
  · extract_lets +onlyGivenNames x0
    have h1 : Keeps s0 x0 := by
      unfold x0
      exact Keeps.upd (s := s) rfl rfl rfl rfl rfl rfl rfl (by assumption)
    clear_value x0
    split
    · rename_i y2 y3 y4
      refine State.clockLost_keeps ?_
      refine Keeps.fst (by assumption) ?_
      exact State.ptpExchange_keeps (by assumption)
    · rename_i y5 y6 y7
      refine Keeps.fst (by assumption) ?_
      exact State.ptpExchange_keeps (by assumption)

theorem ptpHoldover_keeps {s0 s : State} (h : Keeps s0 s) : Keeps s0 (ptpHoldover s) := by
  unfold ptpHoldover
  extract_lets +onlyGivenNames x0
  clear_value x0
  refine Keeps.ite ?_ ?_
  · extract_lets +onlyGivenNames x1
    have h2 : Keeps s0 x1 := by
      unfold x1
      refine State.raise_keeps ?_
      exact State.put_keeps (by assumption)
    clear_value x1
    extract_lets +onlyGivenNames x3
    have h4 : Keeps s0 x3 := by
      unfold x3
      exact Keeps.upd (s := x1) rfl rfl rfl rfl rfl rfl rfl (by assumption)
    clear_value x3
    refine Keeps.ite ?_ ?_
    · exact State.clockLost_keeps (by assumption)
    · assumption
  · assumption

theorem cadTimeRead_keeps {s0 s : State} (h : Keeps s0 s) : Keeps s0 (cadTimeRead s) := by
  unfold cadTimeRead
  exact Keeps.upd (s := s) rfl rfl rfl rfl rfl rfl rfl (by assumption)

theorem State.cause_keeps {s0 s : State} {a1} (h : Keeps s0 s) : Keeps s0 (State.cause s a1) := by
  unfold State.cause
  exact State.put_keeps (by assumption)

theorem State.boot_keeps {s0 s : State} {a1} (h : Keeps s0 s) : Keeps s0 (State.boot s a1) := by
  unfold State.boot
  extract_lets +onlyGivenNames x0
  have h1 : Keeps s0 x0 := by
    unfold x0
    exact Keeps.upd (s := s) rfl rfl rfl rfl rfl rfl rfl (by assumption)
  clear_value x0
  extract_lets +onlyGivenNames x2
  have h3 : Keeps s0 x2 := by
    unfold x2
    exact State.puts_keeps (by assumption)
  clear_value x2
  extract_lets +onlyGivenNames x4
  have h5 : Keeps s0 x4 := by
    unfold x4
    refine Keeps.ite ?_ ?_
    · assumption
    · exact State.puts_keeps (by assumption)
  clear_value x4
  exact State.toMode_keeps (by assumption)

theorem State.tryBoot_keeps {s0 s : State} {a1} (h : Keeps s0 s) : Keeps s0 (State.tryBoot s a1) := by
  unfold State.tryBoot
  refine Keeps.ite ?_ ?_
  · exact State.boot_keeps (by assumption)
  · assumption

theorem resetRelease_keeps {s0 s : State} {a0} (h : Keeps s0 s) : Keeps s0 (resetRelease a0 s) := by
  unfold resetRelease
  refine Keeps.ite ?_ ?_
  · refine State.tryBoot_keeps ?_
    exact Keeps.upd (s := s) rfl rfl rfl rfl rfl rfl rfl (by assumption)
  · assumption

theorem State.devReset_keeps {s0 s : State} {a1 a2} (h : Keeps s0 s) : Keeps s0 (State.devReset s a1 a2) := by
  unfold State.devReset
  refine State.tryBoot_keeps ?_
  refine State.cause_keeps ?_
  exact State.afterReset_keeps (by assumption)

theorem State.warmReset_keeps {s0 s : State} {a1} (h : Keeps s0 s) : Keeps s0 (State.warmReset s a1) := by
  unfold State.warmReset
  refine Keeps.ite ?_ ?_
  · exact State.cause_keeps (by assumption)
  · refine State.tryBoot_keeps ?_
    refine State.cause_keeps ?_
    exact State.afterReset_keeps (by assumption)

theorem State.dueReset_keeps {s0 s : State} {a1} (h : Keeps s0 s) : Keeps s0 (State.dueReset s a1) := by
  unfold State.dueReset
  split
  · rename_i y0 y1 y2
    exact State.warmReset_keeps (by assumption)
  · rename_i y3 y4 y5
    exact State.devReset_keeps (by assumption)
  · rename_i y6 y7
    assumption

theorem devrst_keeps {s0 s : State} {a0 a1} (h : Keeps s0 s) : Keeps s0 (devrst a0 a1 s) := by
  unfold devrst
  refine Keeps.ite ?_ ?_
  · refine Keeps.ite ?_ ?_
    · refine State.devReset_keeps ?_
      exact Keeps.upd (s := s) rfl rfl rfl rfl rfl rfl rfl (by assumption)
    · exact Keeps.upd (s := s) rfl rfl rfl rfl rfl rfl rfl (by assumption)
  · refine Keeps.ite ?_ ?_
    · exact State.dueReset_keeps (by assumption)
    · assumption

theorem warmrst_keeps {s0 s : State} {a0} (h : Keeps s0 s) : Keeps s0 (warmrst a0 s) := by
  unfold warmrst
  refine Keeps.ite ?_ ?_
  · exact State.dueReset_keeps (by assumption)
  · assumption

theorem resetNRelease_keeps {s0 s : State} {a0} (h : Keeps s0 s) : Keeps s0 (resetNRelease a0 s) := by
  unfold resetNRelease
  refine State.tryBoot_keeps ?_
  exact Keeps.upd (s := s) rfl rfl rfl rfl rfl rfl rfl (by assumption)

theorem testEnAssert_keeps {s0 s : State} (h : Keeps s0 s) : Keeps s0 (testEnAssert s) := by
  unfold testEnAssert
  refine Keeps.ite ?_ ?_
  · exact Keeps.upd (s := s) rfl rfl rfl rfl rfl rfl rfl (by assumption)
  · extract_lets +onlyGivenNames x0
    have h1 : Keeps s0 x0 := by
      unfold x0
      exact State.afterReset_keeps (by assumption)
    clear_value x0
    exact Keeps.upd (s := x0) rfl rfl rfl rfl rfl rfl rfl (by assumption)

theorem perstFull_keeps {s0 s : State} (h : Keeps s0 s) : Keeps s0 (perstFull s) := by
  unfold perstFull
  refine Keeps.ite ?_ ?_
  · exact Keeps.upd (s := s) rfl rfl rfl rfl rfl rfl rfl (by assumption)
  · refine Keeps.ite ?_ ?_
    · extract_lets +onlyGivenNames x0
      have h1 : Keeps s0 x0 := by
        unfold x0
        refine State.cause_keeps ?_
        exact State.afterReset_keeps (by assumption)
      clear_value x0
      exact Keeps.upd (s := x0) rfl rfl rfl rfl rfl rfl rfl (by assumption)
    · assumption

theorem State.dropCaptured_keeps {s0 s : State} (h : Keeps s0 s) : Keeps s0 (State.dropCaptured s) := by
  unfold State.dropCaptured
  extract_lets +onlyGivenNames x0
  clear_value x0
  refine Keeps.foldl (fun t1 x2 h3 => ?_) _ ?_
  · exact State.dropDelivery_keeps (by assumption)
  · exact Keeps.upd (s := s) rfl rfl rfl rfl rfl rfl rfl (by assumption)

theorem State.dropRings_keeps {s0 s : State} (h : Keeps s0 s) : Keeps s0 (State.dropRings s) := by
  unfold State.dropRings
  refine State.resetRange_keeps ?_
  extract_lets +onlyGivenNames x0
  have h1 : Keeps s0 x0 := by
    unfold x0
    exact State.puts_keeps (by assumption)
  clear_value x0
  exact Keeps.upd (s := x0) rfl rfl rfl rfl rfl rfl rfl (by assumption)

theorem State.dropPort_keeps {s0 s : State} (h : Keeps s0 s) : Keeps s0 (State.dropPort s) := by
  unfold State.dropPort
  refine State.resetRange_keeps ?_
  exact Keeps.upd (s := s) rfl rfl rfl rfl rfl rfl rfl (by assumption)

theorem State.startOrphan_keeps {s0 s : State} (h : Keeps s0 s) : Keeps s0 (State.startOrphan s) := by
  unfold State.startOrphan
  refine Keeps.ite ?_ ?_
  · exact State.stopOrphan_keeps (by assumption)
  · extract_lets +onlyGivenNames x0
    have h1 : Keeps s0 x0 := by
      unfold x0
      exact State.put_keeps (by assumption)
    clear_value x0
    exact Keeps.upd (s := x0) rfl rfl rfl rfl rfl rfl rfl (by assumption)

theorem State.portReset_keeps {s0 s : State} (h : Keeps s0 s) : Keeps s0 (State.portReset s) := by
  unfold State.portReset
  refine State.startOrphan_keeps (State.dropPort_keeps (State.dropDebug_keeps ?_))
  exact State.dropCaptured_keeps (State.clearMail_keeps (State.dropRings_keeps (State.cause_keeps h)))

theorem State.assertPerst_keeps {s0 s : State} (h : Keeps s0 s) : Keeps s0 (State.assertPerst s) :=
  Keeps.upd (s := s) rfl rfl rfl rfl rfl rfl rfl h

theorem portResetCmd_keeps {s0 s : State} {a0} (h : Keeps s0 s) : Keeps s0 (portResetCmd a0 s) := by
  unfold portResetCmd
  exact Keeps.ite (Keeps.ite (State.assertPerst_keeps h) h)
    (Keeps.ite (Keeps.ite (State.assertPerst_keeps (State.portReset_keeps h)) h) (Keeps.ite (State.portReset_keeps h) h))

theorem perstDeassert_keeps {s0 s : State} {a0} (h : Keeps s0 s) : Keeps s0 (perstDeassert a0 s) := by
  unfold perstDeassert
  refine Keeps.ite ?_ ?_
  · assumption
  · extract_lets +onlyGivenNames x0
    have h1 : Keeps s0 x0 := by
      unfold x0
      exact Keeps.upd (s := s) rfl rfl rfl rfl rfl rfl rfl (by assumption)
    refine Keeps.ite ?_ ?_
    · exact Keeps.upd (s := x0) rfl rfl rfl rfl rfl rfl rfl (by assumption)
    · exact State.tryBoot_keeps (by assumption)

theorem pcieLinkUp_keeps {s0 s : State} (h : Keeps s0 s) : Keeps s0 (pcieLinkUp s) := by
  unfold pcieLinkUp
  refine Keeps.ite ?_ ?_
  · assumption
  · refine State.evtRearm_keeps ?_
    exact Keeps.upd (s := s) rfl rfl rfl rfl rfl rfl rfl (by assumption)

theorem orphanTimeout_keeps {s0 s : State} (h : Keeps s0 s) : Keeps s0 (orphanTimeout s) := by
  unfold orphanTimeout
  split
  · rename_i y0 y1 y2
    refine Keeps.ite ?_ ?_
    · extract_lets +onlyGivenNames x3
      extract_lets +onlyGivenNames x4
      have h5 : Keeps s0 x4 := by
        unfold x4
        exact State.stopOrphan_keeps (by assumption)
      clear_value x4
      refine Keeps.ite ?_ ?_
      · refine Keeps.foldl (fun t6 x7 h8 => ?_) _ ?_
        · exact State.park_keeps (by assumption)
        · assumption
      · assumption
    · assumption
  · rename_i y9 y10
    assumption

theorem railLoss_keeps {s0 s : State} (h : Keeps s0 s) : Keeps s0 (railLoss s) := by
  unfold railLoss
  refine Keeps.ite ?_ ?_
  · assumption
  · refine Keeps.ite ?_ ?_
    · exact Keeps.upd (s := s) rfl rfl rfl rfl rfl rfl rfl (by assumption)
    · extract_lets +onlyGivenNames x0
      have h1 : Keeps s0 x0 := by
        unfold x0
        exact State.afterReset_keeps (by assumption)
      clear_value x0
      exact Keeps.upd (s := x0) rfl rfl rfl rfl rfl rfl rfl (by assumption)

theorem State.portsDown_keeps {s0 s : State} (h : Keeps s0 s) : Keeps s0 (State.portsDown s) := by
  unfold State.portsDown
  extract_lets +onlyGivenNames x0
  have h1 : Keeps s0 x0 := by
    unfold x0
    refine Keeps.foldl (fun t2 x3 h4 => ?_) _ ?_
    · exact State.put_keeps (by assumption)
    · assumption
  clear_value x0
  extract_lets +onlyGivenNames x5
  have h6 : Keeps s0 x5 := by
    unfold x5
    exact Keeps.upd (s := x0) rfl rfl rfl rfl rfl rfl rfl (by assumption)
  clear_value x5
  extract_lets +onlyGivenNames x7
  have h8 : Keeps s0 x7 := by
    unfold x7
    refine Keeps.foldl (fun t9 x10 h11 => ?_) _ ?_
    · exact State.notePeers_keeps (by assumption)
    · assumption
  clear_value x7
  exact State.dropPaths_keeps (by assumption)

theorem refclkLoss_keeps {s0 s : State} {a0} (h : Keeps s0 s) : Keeps s0 (refclkLoss a0 s) := by
  unfold refclkLoss
  refine Keeps.ite ?_ ?_
  · assumption
  · extract_lets +onlyGivenNames x0
    have h1 : Keeps s0 x0 := by
      unfold x0
      exact Keeps.upd (s := s) rfl rfl rfl rfl rfl rfl rfl (by assumption)
    refine Keeps.ite ?_ ?_
    · assumption
    · refine Keeps.ite ?_ ?_
      · extract_lets +onlyGivenNames x2
        have h3 : Keeps s0 x2 := by
          unfold x2
          exact State.afterReset_keeps (by assumption)
        clear_value x2
        exact Keeps.upd (s := x2) rfl rfl rfl rfl rfl rfl rfl (by assumption)
      · refine Keeps.ite ?_ ?_
        · extract_lets +onlyGivenNames x4
          have h5 : Keeps s0 x4 := by
            unfold x4
            exact State.afterReset_keeps (by assumption)
          clear_value x4
          exact Keeps.upd (s := x4) rfl rfl rfl rfl rfl rfl rfl (by assumption)
        · refine Keeps.ite ?_ ?_
          · refine Keeps.ite ?_ ?_
            · exact State.portReset_keeps (by assumption)
            · assumption
          · exact State.portsDown_keeps (by assumption)

theorem State.enterSlumber_keeps {s0 s : State} (h : Keeps s0 s) : Keeps s0 (State.enterSlumber s) := by
  unfold State.enterSlumber
  extract_lets +onlyGivenNames x0
  have h1 : Keeps s0 x0 := by
    unfold x0
    exact State.afterReset_keeps (by assumption)
  clear_value x0
  exact Keeps.upd (s := x0) rfl rfl rfl rfl rfl rfl rfl (by assumption)

theorem slumberWake_keeps {s0 s : State} {a0} (h : Keeps s0 s) : Keeps s0 (slumberWake a0 s) := by
  unfold slumberWake
  refine Keeps.ite ?_ ?_
  · extract_lets +onlyGivenNames x0
    clear_value x0
    exact Keeps.upd (s := s) rfl rfl rfl rfl rfl rfl rfl (by assumption)
  · assumption

theorem slumberExitReset_keeps {s0 s : State} {a0} (h : Keeps s0 s) : Keeps s0 (slumberExitReset a0 s) := by
  unfold slumberExitReset
  refine Keeps.ite ?_ ?_
  · extract_lets +onlyGivenNames x0
    have h1 : Keeps s0 x0 := by
      unfold x0
      refine State.cause_keeps ?_
      exact State.afterReset_keeps (by assumption)
    clear_value x0
    refine State.tryBoot_keeps ?_
    exact Keeps.upd (s := x0) rfl rfl rfl rfl rfl rfl rfl (by assumption)
  · assumption

theorem State.padSet_keeps {s0 s : State} {a1 a2} (h : Keeps s0 s) : Keeps s0 (State.padSet s a1 a2) := by
  unfold State.padSet
  extract_lets +onlyGivenNames x0
  clear_value x0
  extract_lets +onlyGivenNames x1
  have h2 : Keeps s0 x1 := by
    unfold x1
    exact Keeps.upd (s := s) rfl rfl rfl rfl rfl rfl rfl (by assumption)
  clear_value x1
  extract_lets +onlyGivenNames x3
  clear_value x3
  refine Keeps.ite ?_ ?_
  · exact State.put_keeps (by assumption)
  · assumption

theorem State.padsSettle_keeps {s0 s : State} (h : Keeps s0 s) : Keeps s0 (State.padsSettle s) := by
  unfold State.padsSettle
  refine Keeps.foldl (fun t0 x1 h2 => ?_) _ ?_
  · split
    · rename_i y3 y4 y5
      exact State.padSet_keeps (by assumption)
    · rename_i y6 y7
      assumption
  · assumption

theorem gpioCfgWrite_keeps {s0 s : State} {a0 a1} (h : Keeps s0 s) : Keeps s0 (gpioCfgWrite a0 a1 s) := by
  unfold gpioCfgWrite
  refine Keeps.ite ?_ ?_
  · assumption
  · refine Keeps.ite ?_ ?_
    · refine State.padsSettle_keeps ?_
      exact State.put_keeps (by assumption)
    · refine Keeps.ite ?_ ?_
      · refine State.padsSettle_keeps ?_
        exact State.put_keeps (by assumption)
      · assumption

theorem gpioEdge_keeps {s0 s : State} {a0 a1} (h : Keeps s0 s) : Keeps s0 (gpioEdge a0 a1 s) := by
  unfold gpioEdge
  refine Keeps.ite ?_ ?_
  · exact State.padSet_keeps (by assumption)
  · assumption

theorem State.thermalEdges_keeps {s0 s : State} {a1 a2} (h : Keeps s0 s) : Keeps s0 (State.thermalEdges s a1 a2) := by
  unfold State.thermalEdges
  refine Keeps.ite ?_ ?_
  · assumption
  · extract_lets +onlyGivenNames x0
    have h1 : Keeps s0 x0 := by
      unfold x0
      refine Keeps.ite ?_ ?_
      · assumption
      · exact State.inc_keeps (by assumption)
    clear_value x0
    extract_lets +onlyGivenNames x2
    have h3 : Keeps s0 x2 := by
      unfold x2
      refine Keeps.ite ?_ ?_
      · exact Keeps.upd (s := x0) rfl rfl rfl rfl rfl rfl rfl (by assumption)
      · assumption
    clear_value x2
    refine Keeps.ite ?_ ?_
    · exact Keeps.upd (s := x2) rfl rfl rfl rfl rfl rfl rfl (by assumption)
    · assumption

theorem throttlePin_keeps {s0 s : State} {a0} (h : Keeps s0 s) : Keeps s0 (throttlePin a0 s) := by
  unfold throttlePin
  refine State.thermalEdges_keeps ?_
  exact Keeps.upd (s := s) rfl rfl rfl rfl rfl rfl rfl (by assumption)

theorem State.tripNow_keeps {s0 s : State} (h : Keeps s0 s) : Keeps s0 (State.tripNow s) := by
  have h1 : Keeps s0 (s.afterReset true false false) := State.afterReset_keeps h
  unfold State.tripNow
  revert h1
  generalize s.afterReset true false false = t
  intro h1
  exact ⟨h1.1, fun _ => rfl, h1.3, h1.4, h1.5, h1.6, h1.7⟩

theorem tempSample_keeps {s0 s : State} {a0 a1 a2} (h : Keeps s0 s) : Keeps s0 (tempSample a0 a1 a2 s) := by
  unfold tempSample
  refine Keeps.ite ?_ ?_
  · assumption
  · extract_lets +onlyGivenNames x0
    clear_value x0
    extract_lets +onlyGivenNames x1
    clear_value x1
    extract_lets +onlyGivenNames x2
    clear_value x2
    extract_lets +onlyGivenNames x3
    have h4 : Keeps s0 x3 := by
      unfold x3
      exact State.puts_keeps (by assumption)
    clear_value x3
    extract_lets +onlyGivenNames x5
    have h6 : Keeps s0 x5 := by
      unfold x5
      exact Keeps.upd (s := x3) rfl rfl rfl rfl rfl rfl rfl (by assumption)
    clear_value x5
    extract_lets +onlyGivenNames x7
    have h8 : Keeps s0 x7 := by
      unfold x7
      exact State.thermalEdges_keeps (by assumption)
    clear_value x7
    refine Keeps.ite ?_ ?_
    · refine State.puts_keeps ?_
      exact State.tripNow_keeps (by assumption)
    · assumption

theorem chainInRise_keeps {s0 s : State} (h : Keeps s0 s) : Keeps s0 (chainInRise s) := by
  unfold chainInRise
  refine Keeps.ite ?_ ?_
  · assumption
  · exact Keeps.upd (s := s) rfl rfl rfl rfl rfl rfl rfl (by assumption)

theorem chainInFall_keeps {s0 s : State} (h : Keeps s0 s) : Keeps s0 (chainInFall s) := by
  unfold chainInFall
  exact Keeps.upd (s := s) rfl rfl rfl rfl rfl rfl rfl (by assumption)

theorem alertResponse_keeps {s0 s : State} (h : Keeps s0 s) : Keeps s0 (alertResponse s) := by
  unfold alertResponse
  split
  · rename_i y0 y1 y2
    refine Keeps.ite ?_ ?_
    · refine State.emit_keeps ?_
      exact Keeps.upd (s := s) rfl rfl rfl rfl rfl rfl rfl (by assumption)
    · assumption
  · rename_i y3 y4
    assumption

theorem smbusTimeout_keeps {s0 s : State} (h : Keeps s0 s) : Keeps s0 (smbusTimeout s) := by
  unfold smbusTimeout
  assumption

theorem State.mgmtDo_keeps {s0 s : State} {a1 a2 a3 a4 a5 a6} (h : Keeps s0 s) (ha6 : ∀ t, Keeps s0 t → Keeps s0 (a6 t)) : Keeps s0 (State.mgmtDo s a1 a2 a3 a4 a5 a6) := by
  unfold State.mgmtDo
  refine Keeps.ite ?_ ?_
  · assumption
  · refine Keeps.ite ?_ ?_
    · exact Keeps.upd (s := s) rfl rfl rfl rfl rfl rfl rfl (by assumption)
    · refine Keeps.ite ?_ ?_
      · exact Keeps.upd (s := s) rfl rfl rfl rfl rfl rfl rfl (by assumption)
      · refine Keeps.ite ?_ ?_
        · exact Keeps.upd (s := s) rfl rfl rfl rfl rfl rfl rfl (by assumption)
        · refine Keeps.ite ?_ ?_
          · exact Keeps.upd (s := s) rfl rfl rfl rfl rfl rfl rfl (by assumption)
          · refine ha6 _ ?_
            exact Keeps.upd (s := s) rfl rfl rfl rfl rfl rfl rfl (by assumption)

theorem State.mgmtRead_keeps {s0 s : State} {a1 a2 a3 a4 a5} (h : Keeps s0 s) : Keeps s0 (State.mgmtRead s a1 a2 a3 a4 a5) := by
  unfold State.mgmtRead
  refine State.mgmtDo_keeps ?_ ?_
  · assumption
  · intro a0 a1
    exact State.emit_keeps (by assumption)

theorem mgmtAssign_keeps {s0 s : State} {a0 a1 a2} (h : Keeps s0 s) : Keeps s0 (mgmtAssign a0 a1 a2 s) := by
  unfold mgmtAssign
  refine State.mgmtDo_keeps ?_ ?_
  · assumption
  · intro a0 a1
    exact State.puts_keeps (by assumption)

theorem mgmtRelease_keeps {s0 s : State} {a0 a1} (h : Keeps s0 s) : Keeps s0 (mgmtRelease a0 a1 s) := by
  unfold mgmtRelease
  refine State.mgmtDo_keeps ?_ ?_
  · assumption
  · intro a0 a1
    exact State.puts_keeps (by assumption)

theorem mgmtLastStatus_keeps {s0 s : State} {a0 a1} (h : Keeps s0 s) : Keeps s0 (mgmtLastStatus a0 a1 s) := by
  unfold mgmtLastStatus
  refine Keeps.ite ?_ ?_
  · assumption
  · refine Keeps.ite ?_ ?_
    · exact Keeps.upd (s := s) rfl rfl rfl rfl rfl rfl rfl (by assumption)
    · exact State.emit_keeps (by assumption)

theorem mgmtReadId_keeps {s0 s : State} {a0 a1} (h : Keeps s0 s) : Keeps s0 (mgmtReadId a0 a1 s) := by
  unfold mgmtReadId
  exact State.mgmtRead_keeps (by assumption)

theorem mgmtReadMode_keeps {s0 s : State} {a0 a1} (h : Keeps s0 s) : Keeps s0 (mgmtReadMode a0 a1 s) := by
  unfold mgmtReadMode
  exact State.mgmtRead_keeps (by assumption)

theorem mgmtReadRst_keeps {s0 s : State} {a0 a1} (h : Keeps s0 s) : Keeps s0 (mgmtReadRst a0 a1 s) := by
  unfold mgmtReadRst
  exact State.mgmtRead_keeps (by assumption)

theorem mgmtReadFstop_keeps {s0 s : State} {a0 a1} (h : Keeps s0 s) : Keeps s0 (mgmtReadFstop a0 a1 s) := by
  unfold mgmtReadFstop
  exact State.mgmtRead_keeps (by assumption)

theorem mgmtReadTemp_keeps {s0 s : State} {a0 a1} (h : Keeps s0 s) : Keeps s0 (mgmtReadTemp a0 a1 s) := by
  unfold mgmtReadTemp
  exact State.mgmtRead_keeps (by assumption)

theorem mgmtReadPower_keeps {s0 s : State} {a0 a1} (h : Keeps s0 s) : Keeps s0 (mgmtReadPower a0 a1 s) := by
  unfold mgmtReadPower
  exact State.mgmtRead_keeps (by assumption)

theorem mgmtDevReset_keeps {s0 s : State} {a0 a1 a2 a3} (h : Keeps s0 s) : Keeps s0 (mgmtDevReset a0 a1 a2 a3 s) := by
  unfold mgmtDevReset
  refine State.mgmtDo_keeps ?_ ?_
  · assumption
  · intro a0 a1
    exact State.devReset_keeps (by assumption)

theorem mgmtWarmReset_keeps {s0 s : State} {a0 a1 a2 a3} (h : Keeps s0 s) : Keeps s0 (mgmtWarmReset a0 a1 a2 a3 s) := by
  unfold mgmtWarmReset
  refine State.mgmtDo_keeps ?_ ?_
  · assumption
  · intro a0 a1
    exact State.warmReset_keeps (by assumption)

theorem mgmtSleep_keeps {s0 s : State} {a0 a1 a2} (h : Keeps s0 s) : Keeps s0 (mgmtSleep a0 a1 a2 s) := by
  unfold mgmtSleep
  refine State.mgmtDo_keeps ?_ ?_
  · assumption
  · intro a0 a1
    exact State.enterSlumber_keeps (by assumption)

theorem mgmtWake_keeps {s0 s : State} {a0 a1 a2} (h : Keeps s0 s) : Keeps s0 (mgmtWake a0 a1 a2 s) := by
  unfold mgmtWake
  refine State.mgmtDo_keeps ?_ ?_
  · assumption
  · intro a0 a1
    exact Keeps.upd (s := a0) rfl rfl rfl rfl rfl rfl rfl (by assumption)

theorem mgmtThrottle_keeps {s0 s : State} {a0 a1 a2} (h : Keeps s0 s) : Keeps s0 (mgmtThrottle a0 a1 a2 s) := by
  unfold mgmtThrottle
  refine State.mgmtDo_keeps ?_ ?_
  · assumption
  · intro a0 a1
    refine State.thermalEdges_keeps ?_
    exact State.put_keeps (by assumption)

theorem mgmtWakeCfg_keeps {s0 s : State} {a0 a1 a2 a3} (h : Keeps s0 s) : Keeps s0 (mgmtWakeCfg a0 a1 a2 a3 s) := by
  unfold mgmtWakeCfg
  refine State.mgmtDo_keeps ?_ ?_
  · assumption
  · intro a0 a1
    refine Keeps.ite ?_ ?_
    · exact State.put_keeps (by assumption)
    · exact State.emit_keeps (by assumption)

theorem mgmtUnknown_keeps {s0 s : State} {a0 a1 a2} (h : Keeps s0 s) : Keeps s0 (mgmtUnknown a0 a1 a2 s) := by
  unfold mgmtUnknown
  refine Keeps.ite ?_ ?_
  · assumption
  · exact Keeps.upd (s := s) rfl rfl rfl rfl rfl rfl rfl (by assumption)

theorem State.monApply_keeps {s0 s : State} (h : Keeps s0 s) : Keeps s0 (State.monApply s) := by
  unfold State.monApply
  extract_lets +onlyGivenNames x0
  clear_value x0
  extract_lets +onlyGivenNames x1
  have h2 : Keeps s0 x1 := by
    unfold x1
    exact State.put_keeps (by assumption)
  clear_value x1
  refine Keeps.ite ?_ ?_
  · exact Keeps.upd (s := x1) rfl rfl rfl rfl rfl rfl rfl (by assumption)
  · exact State.put_keeps (by assumption)

theorem monCommit_keeps {s0 s : State} (h : Keeps s0 s) : Keeps s0 (monCommit s) := by
  unfold monCommit
  extract_lets +onlyGivenNames x0
  have h1 : Keeps s0 x0 := by
    unfold x0
    exact State.put_keeps (by assumption)
  clear_value x0
  refine Keeps.ite ?_ ?_
  · assumption
  · exact State.monApply_keeps (by assumption)

theorem monTimingApply_keeps {s0 s : State} (h : Keeps s0 s) : Keeps s0 (monTimingApply s) := by
  unfold monTimingApply
  refine Keeps.ite ?_ ?_
  · exact State.monApply_keeps (by assumption)
  · assumption

theorem monEnable_keeps {s0 s : State} {a0} (h : Keeps s0 s) : Keeps s0 (monEnable a0 s) := by
  unfold monEnable
  refine Keeps.ite ?_ ?_
  · refine Keeps.ite h ?_
    extract_lets x0
    have h1 : Keeps s0 x0 := State.put_keeps h
    clear_value x0
    exact Keeps.upd (s := x0) rfl rfl rfl rfl rfl rfl rfl h1
  · extract_lets x2 m x3
    have h2 : Keeps s0 x2 := by
      unfold x2
      exact State.puts_keeps h
    have h3 : Keeps s0 x3 := Keeps.upd (s := x2) rfl rfl rfl rfl rfl rfl rfl h2
    split
    · exact State.monApply_keeps h3
    · exact h3

theorem monFrameStart_keeps {s0 s : State} {a0} (h : Keeps s0 s) : Keeps s0 (monFrameStart a0 s) := by
  unfold monFrameStart
  extract_lets +onlyGivenNames x0
  clear_value x0
  split
  · rename_i y1 y2 y3
    refine Keeps.ite ?_ ?_
    · extract_lets +onlyGivenNames x4
      have h5 : Keeps s0 x4 := by
        unfold x4
        exact State.put_keeps (by assumption)
      clear_value x4
      extract_lets +onlyGivenNames x6
      clear_value x6
      exact Keeps.upd (s := x4) rfl rfl rfl rfl rfl rfl rfl (by assumption)
    · assumption
  · rename_i y7 y8
    assumption

theorem monUnderrun_keeps {s0 s : State} {a0 a1} (h : Keeps s0 s) : Keeps s0 (monUnderrun a0 a1 s) := by
  unfold monUnderrun
  split
  rename_i y0 y1 y2 y3
  refine Keeps.ite ?_ ?_
  · exact State.monUnder_keeps (by assumption)
  · assumption

theorem monFrameEnd_keeps {s0 s : State} {a0} (h : Keeps s0 s) : Keeps s0 (monFrameEnd a0 s) := by
  unfold monFrameEnd
  refine Keeps.ite ?_ ?_
  · extract_lets +onlyGivenNames x0
    clear_value x0
    extract_lets +onlyGivenNames x1
    clear_value x1
    extract_lets +onlyGivenNames x2
    clear_value x2
    extract_lets +onlyGivenNames x3
    have h4 : Keeps s0 x3 := by
      unfold x3
      exact State.emit_keeps (by assumption)
    clear_value x3
    extract_lets +onlyGivenNames x5
    have h6 : Keeps s0 x5 := by
      unfold x5
      exact State.puts_keeps (by assumption)
    clear_value x5
    extract_lets +onlyGivenNames x7
    clear_value x7
    extract_lets +onlyGivenNames x8
    have h9 : Keeps s0 x8 := by
      unfold x8
      exact Keeps.upd (s := x5) rfl rfl rfl rfl rfl rfl rfl (by assumption)
    clear_value x8
    refine Keeps.ite ?_ ?_
    · assumption
    · refine State.raise_keeps ?_
      exact State.put_keeps (by assumption)
  · assumption

theorem beamSampleStep_keeps {s0 s : State} {a0} (h : Keeps s0 s) : Keeps s0 (beamSampleStep a0 s) := by
  unfold beamSampleStep
  split
  · rename_i y0 y1
    assumption
  · rename_i y2 y3 y4 y5
    refine Keeps.ite ?_ ?_
    · extract_lets +onlyGivenNames x6
      clear_value x6
      refine Keeps.ite ?_ ?_
      · refine State.sigStep_keeps ?_
        exact State.setStall_keeps (by assumption)
      · exact State.setStall_keeps (by assumption)
    · assumption

theorem graphSample_keeps {s0 s : State} {a0} (h : Keeps s0 s) : Keeps s0 (graphSample a0 s) := by
  unfold graphSample
  split
  · rename_i y0 y1
    assumption
  · rename_i y2 y3 y4 y5
    split
    · rename_i y6 y7
      assumption
    · rename_i y8 y9 y10
      refine Keeps.ite ?_ ?_
      · extract_lets +onlyGivenNames x11
        clear_value x11
        extract_lets +onlyGivenNames x12
        clear_value x12
        extract_lets +onlyGivenNames x13
        clear_value x13
        extract_lets +onlyGivenNames x14
        have h15 : Keeps s0 x14 := by
          unfold x14
          exact State.setStall_keeps (by assumption)
        clear_value x14
        extract_lets +onlyGivenNames x16
        have h17 : Keeps s0 x16 := by
          unfold x16
          exact State.put_keeps (by assumption)
        clear_value x16
        extract_lets +onlyGivenNames x18
        have h19 : Keeps s0 x18 := by
          unfold x18
          refine Keeps.ite ?_ ?_
          · exact State.raise_keeps (by assumption)
          · assumption
        clear_value x18
        refine Keeps.ite ?_ ?_
        · exact State.raise_keeps (by assumption)
        · assumption
      · assumption

theorem audSwap_keeps {s0 s : State} {a0 a1} (h : Keeps s0 s) : Keeps s0 (audSwap a0 a1 s) := by
  unfold audSwap
  refine Keeps.ite ?_ ?_
  · assumption
  · extract_lets +onlyGivenNames x0
    have h1 : Keeps s0 x0 := by
      unfold x0
      exact State.put_keeps (by assumption)
    clear_value x0
    exact Keeps.upd (s := x0) rfl rfl rfl rfl rfl rfl rfl (by assumption)

end Sys2Proof.Machine
end

