-- ==== Sys2Proof/Laws/KeepsFirmware.lean ====
section
/-! SUPPORT. `Keeps` for the operations of the firmware command catalogue: one lemma for each
operation, in the form that a chain of them composes (what held of the state before holds of the state after). -/
set_option linter.unusedVariables false
namespace Sys2Proof.Machine

theorem audSwapValidated_keeps {s0 s : State} (h : Keeps s0 s) : Keeps s0 (audSwapValidated s) := by
  unfold audSwapValidated
  split
  · rename_i y0 y1
    assumption
  · rename_i y2 y3 y4 y5
    extract_lets +onlyGivenNames x6
    have h7 : Keeps s0 x6 := by
      unfold x6
      exact State.put_keeps (by assumption)
    clear_value x6
    extract_lets +onlyGivenNames x8
    have h9 : Keeps s0 x8 := by
      unfold x8
      exact Keeps.upd (s := x6) rfl rfl rfl rfl rfl rfl rfl (by assumption)
    clear_value x8
    split
    · rename_i y10 y11
      exact State.onStall_keeps (by assumption)
    · rename_i y12 y13
      refine State.raise_keeps ?_
      exact State.puts_keeps (by assumption)

theorem audioFrameForm_keeps {s0 s : State} {a0 a1} (h : Keeps s0 s) : Keeps s0 (audioFrameForm a0 a1 s) := by
  unfold audioFrameForm
  split
  · rename_i y0 y1
    assumption
  · rename_i y2 y3 y4
    split
    · rename_i y5 y6 y7 y8 y9 y10
      extract_lets +onlyGivenNames x11
      clear_value x11
      refine Keeps.ite ?_ ?_
      · extract_lets +onlyGivenNames x12
        clear_value x12
        extract_lets +onlyGivenNames x13
        clear_value x13
        extract_lets +onlyGivenNames x14
        clear_value x14
        extract_lets +onlyGivenNames x15
        clear_value x15
        extract_lets +onlyGivenNames x16
        clear_value x16
        extract_lets +onlyGivenNames x17
        clear_value x17
        extract_lets +onlyGivenNames x18
        clear_value x18
        extract_lets +onlyGivenNames x19
        clear_value x19
        split
        rename_i y20 y21 y22 y23
        extract_lets +onlyGivenNames x24
        clear_value x24
        extract_lets +onlyGivenNames x25
        clear_value x25
        extract_lets +onlyGivenNames x26
        clear_value x26
        extract_lets +onlyGivenNames x27
        clear_value x27
        extract_lets +onlyGivenNames x28
        have h29 : Keeps s0 x28 := by
          unfold x28
          refine Keeps.ite ?_ ?_
          · refine State.raise_keeps ?_
            refine State.put_keeps ?_
            refine State.inc_keeps ?_
            refine Keeps.snd y23 ?_
            split
            · rename_i y30
              dsimp only
              assumption
            · rename_i y31
              extract_lets +lift +onlyGivenNames x32
              clear_value x32
              dsimp only
              refine Keeps.drawn (s := s) rfl rfl rfl rfl rfl rfl (by dsimp only; omega) ?_
              assumption
          · refine Keeps.snd y23 ?_
            split
            · rename_i y33
              dsimp only
              assumption
            · rename_i y34
              extract_lets +lift +onlyGivenNames x35
              clear_value x35
              dsimp only
              refine Keeps.drawn (s := s) rfl rfl rfl rfl rfl rfl (by dsimp only; omega) ?_
              assumption
        clear_value x28
        extract_lets +onlyGivenNames x36
        have h37 : Keeps s0 x36 := by
          unfold x36
          refine Keeps.ite ?_ ?_
          · refine State.raise_keeps ?_
            refine State.put_keeps ?_
            exact State.inc_keeps (by assumption)
          · assumption
        clear_value x36
        split
        · rename_i y38 y39 y40 y41 y42
          extract_lets +onlyGivenNames x43
          have h44 : Keeps s0 x43 := by
            unfold x43
            exact State.ringWrite_keeps (by assumption)
          clear_value x43
          exact State.setStall_keeps (by assumption)
        · rename_i y45 y46
          extract_lets +onlyGivenNames x47
          have h48 : Keeps s0 x47 := by
            unfold x47
            exact State.setStall_keeps (by assumption)
          clear_value x47
          refine State.raise_keeps ?_
          refine State.put_keeps ?_
          exact State.inc_keeps (by assumption)
      · assumption
    · rename_i y49 y50 y51
      assumption

theorem State.withStall_keeps {s0 s : State} {a1 a2} (h : Keeps s0 s) (ha2 : ∀ y0, Keeps s0 (a2 y0).1) : Keeps s0 (State.withStall s a1 a2).1 := by
  unfold State.withStall
  split
  · rename_i y0 y1 y2
    refine ha2 ?_
  · rename_i y3 y4
    dsimp only
    assumption

theorem State.withStarted_keeps {s0 s : State} {a1 a2} (h : Keeps s0 s) (ha2 : ∀ y0, Keeps s0 (a2 y0).1) : Keeps s0 (State.withStarted s a1 a2).1 := by
  unfold State.withStarted
  refine State.withStall_keeps ?_ ?_
  · assumption
  · intro a0
    split
    · rename_i y1
      dsimp only
      assumption
    · rename_i y2
      refine ha2 ?_

theorem State.enterTitle_keeps {s0 s : State} {a0 a1} (h : Keeps s0 s) : Keeps s0 (State.enterTitle s a0 a1) := by
  unfold State.enterTitle
  split
  · rename_i y0 y1 y2
    extract_lets +onlyGivenNames x3
    clear_value x3
    extract_lets +onlyGivenNames x4
    have h5 : Keeps s0 x4 := by
      unfold x4
      refine State.hbmWrite_keeps ?_
      refine State.hbmWrite_keeps ?_
      exact State.giveTitle_keeps (by assumption)
    clear_value x4
    exact Keeps.upd (s := x4) rfl rfl rfl rfl rfl rfl rfl (by assumption)
  · rename_i y6 y7
    exact Keeps.upd (s := s) rfl rfl rfl rfl rfl rfl rfl (by assumption)

theorem cmdTitleRegister_keeps {s0 s : State} {a0 a1 a2} (h : Keeps s0 s) : Keeps s0 (cmdTitleRegister a0 a1 a2 s).1 := by
  unfold cmdTitleRegister
  extract_lets +lift +onlyGivenNames x0 x1
  clear_value x0
  clear_value x1
  split
  · rename_i y2
    dsimp only
    assumption
  · rename_i y3
    split
    · rename_i y4 y5
      dsimp only
      assumption
    · rename_i y6 y7 y8
      extract_lets +lift +onlyGivenNames x9 x10
      clear_value x9
      clear_value x10
      split
      · rename_i y11
        dsimp only
        assumption
      · rename_i y12
        split
        · rename_i y13 y14 y15
          dsimp only
          assumption
        · rename_i y16 y17
          split
          · rename_i y18
            dsimp only
            assumption
          · rename_i y19
            split
            · rename_i y20
              dsimp only
              assumption
            · rename_i y21
              split
              · rename_i y22 y23 y24 y25 y26
                dsimp only
                assumption
              · rename_i y27 y28
                dsimp only
                exact State.enterTitle_keeps (by assumption)

theorem cmdTitleRemove_keeps {s0 s : State} {a0 a1 a2} (h : Keeps s0 s) : Keeps s0 (cmdTitleRemove a0 a1 a2 s).1 := by
  unfold cmdTitleRemove
  split
  · rename_i y0 y1
    dsimp only
    assumption
  · rename_i y2 y3 y4
    split
    · rename_i y5
      dsimp only
      assumption
    · rename_i y6
      extract_lets +lift +onlyGivenNames x7
      have h8 : Keeps s0 x7 := by
        unfold x7
        exact State.giveTitle_keeps (by assumption)
      clear_value x7
      dsimp only
      exact Keeps.upd (s := x7) rfl rfl rfl rfl rfl rfl rfl (by assumption)

theorem cmdPageSupply_keeps {s0 s : State} {a0 a1 a2} (h : Keeps s0 s) : Keeps s0 (cmdPageSupply a0 a1 a2 s).1 := by
  unfold cmdPageSupply
  split
  · rename_i y0 y1
    dsimp only
    assumption
  · rename_i y2 y3 y4
    split
    · rename_i y5
      dsimp only
      assumption
    · rename_i y6
      split
      · rename_i y7
        dsimp only
        assumption
      · rename_i y8
        split
        · rename_i y9 y10
          dsimp only
          assumption
        · rename_i y11 y12 y13
          dsimp only
          exact State.supplyPage_keeps (by assumption)

theorem cmdStallCreate_keeps {s0 s : State} {a0 a1 a2} (h : Keeps s0 s) : Keeps s0 (cmdStallCreate a0 a1 a2 s).1 := by
  unfold cmdStallCreate
  extract_lets +lift +onlyGivenNames x0 x1 x2 x3 x4
  clear_value x0
  clear_value x1
  clear_value x2
  clear_value x3
  clear_value x4
  split
  · rename_i y5 y6
    dsimp only
    assumption
  · rename_i y7 y8 y9
    extract_lets +lift +onlyGivenNames x10
    clear_value x10
    split
    · rename_i y11
      dsimp only
      assumption
    · rename_i y12
      split
      · rename_i y13
        dsimp only
        assumption
      · rename_i y14
        split
        · rename_i y15 y16
          dsimp only
          assumption
        · rename_i y17 y18 y19
          split
          · rename_i y20
            dsimp only
            assumption
          · rename_i y21
            split
            · rename_i y22
              dsimp only
              assumption
            · rename_i y23
              split
              · rename_i y24 y25 y26 y27
                dsimp only
                assumption
              · rename_i y28 y29 y30 y31
                dsimp only
                assumption
              · rename_i y32 y33 y34 y35 y36
                split
                · rename_i y37 y38 y39 y40
                  dsimp only
                  refine Keeps.snd y40 ?_
                  exact State.bindTitle_keeps (by assumption)
                · rename_i y41 y42 y43 y44
                  extract_lets +lift +onlyGivenNames x45 x46
                  have h47 : Keeps s0 x45 := by
                    unfold x45
                    refine State.enterStall_keeps ?_
                    refine Keeps.snd y44 ?_
                    exact State.bindTitle_keeps (by assumption)
                  clear_value x45
                  have h48 : Keeps s0 x46 := by
                    unfold x46
                    refine Keeps.ite ?_ ?_
                    · exact State.park_keeps (by assumption)
                    · assumption
                  clear_value x46
                  split
                  · rename_i y49
                    dsimp only
                    assumption
                  · rename_i y50
                    split
                    · rename_i y51
                      dsimp only
                      assumption
                    · rename_i y52
                      dsimp only
                      assumption

theorem cmdStallStart_keeps {s0 s : State} {a0 a1 a2} (h : Keeps s0 s) : Keeps s0 (cmdStallStart a0 a1 a2 s).1 := by
  unfold cmdStallStart
  extract_lets +onlyGivenNames x0
  clear_value x0
  extract_lets +onlyGivenNames x1
  clear_value x1
  extract_lets +onlyGivenNames x2
  clear_value x2
  extract_lets +onlyGivenNames x3
  clear_value x3
  split
  · rename_i y4
    split
    · rename_i y5
      dsimp only
      assumption
    · rename_i y6
      refine State.withStall_keeps ?_ ?_
      · assumption
      · intro a7
        split
        · rename_i y8
          dsimp only
          assumption
        · rename_i y9
          split
          · rename_i y10
            dsimp only
            assumption
          · rename_i y11
            dsimp only
            refine State.unpark_keeps ?_
            exact State.setStall_keeps (by assumption)
  · rename_i y12
    split
    · rename_i y13
      dsimp only
      assumption
    · rename_i y14
      refine State.withStall_keeps ?_ ?_
      · assumption
      · intro a15
        split
        · rename_i y16
          dsimp only
          assumption
        · rename_i y17
          split
          · rename_i y18
            dsimp only
            assumption
          · rename_i y19
            dsimp only
            refine State.unpark_keeps ?_
            exact State.setStall_keeps (by assumption)

theorem cmdStallPark_keeps {s0 s : State} {a0 a1 a2} (h : Keeps s0 s) : Keeps s0 (cmdStallPark a0 a1 a2 s).1 := by
  unfold cmdStallPark
  refine State.withStarted_keeps ?_ ?_
  · assumption
  · intro a0
    dsimp only
    exact State.park_keeps (by assumption)

theorem cmdStallResume_keeps {s0 s : State} {a0 a1 a2} (h : Keeps s0 s) : Keeps s0 (cmdStallResume a0 a1 a2 s).1 := by
  unfold cmdStallResume
  refine State.withStarted_keeps ?_ ?_
  · assumption
  · intro a0
    split
    · rename_i y1
      dsimp only
      exact State.unpark_keeps (by assumption)
    · rename_i y2
      dsimp only
      assumption

theorem cmdStallReset_keeps {s0 s : State} {a0 a1 a2} (h : Keeps s0 s) : Keeps s0 (cmdStallReset a0 a1 a2 s).1 := by
  unfold cmdStallReset
  refine State.withStarted_keeps ?_ ?_
  · assumption
  · intro a0
    extract_lets +onlyGivenNames x1
    clear_value x1
    dsimp only
    exact State.setStall_keeps (by assumption)

theorem cmdStallSet_keeps {s0 s : State} {a0 a1 a2} (h : Keeps s0 s) : Keeps s0 (cmdStallSet a0 a1 a2 s).1 := by
  unfold cmdStallSet
  extract_lets +onlyGivenNames x0
  clear_value x0
  extract_lets +onlyGivenNames x1
  clear_value x1
  extract_lets +onlyGivenNames x2
  clear_value x2
  extract_lets +onlyGivenNames x3
  clear_value x3
  split
  · rename_i y4
    dsimp only
    assumption
  · rename_i y5
    refine State.withStall_keeps ?_ ?_
    · assumption
    · intro a6
      extract_lets +onlyGivenNames x7
      clear_value x7
      extract_lets +onlyGivenNames x8
      clear_value x8
      extract_lets +onlyGivenNames x9
      clear_value x9
      extract_lets +onlyGivenNames x10
      clear_value x10
      split
      · rename_i y11
        dsimp only
        assumption
      · rename_i y12
        dsimp only
        exact State.setStall_keeps (by assumption)

theorem cmdStallMove_keeps {s0 s : State} {a0 a1 a2} (h : Keeps s0 s) : Keeps s0 (cmdStallMove a0 a1 a2 s).1 := by
  unfold cmdStallMove
  refine State.withStall_keeps ?_ ?_
  · assumption
  · intro a0
    exact State.moveStall_keeps (by assumption)

theorem cmdStallDestroy_keeps {s0 s : State} {a0 a1 a2} (h : Keeps s0 s) : Keeps s0 (cmdStallDestroy a0 a1 a2 s).1 := by
  unfold cmdStallDestroy
  refine State.withStall_keeps ?_ ?_
  · assumption
  · intro a0
    split
    · rename_i y1
      dsimp only
      assumption
    · rename_i y2
      dsimp only
      refine State.enforceLevel_keeps ?_
      exact State.destroyStall_keeps (by assumption)

theorem cmdStallQuery_keeps {s0 s : State} {a0 a1 a2} (h : Keeps s0 s) : Keeps s0 (cmdStallQuery a0 a1 a2 s).1 := by
  unfold cmdStallQuery
  refine State.withStall_keeps ?_ ?_
  · assumption
  · intro a0
    extract_lets +onlyGivenNames x1
    clear_value x1
    dsimp only
    assumption

theorem cmdSubchAssign_keeps {s0 s : State} {a0 a1 a2} (h : Keeps s0 s) : Keeps s0 (cmdSubchAssign a0 a1 a2 s).1 := by
  unfold cmdSubchAssign
  extract_lets +onlyGivenNames x0
  clear_value x0
  extract_lets +onlyGivenNames x1
  clear_value x1
  extract_lets +onlyGivenNames x2
  clear_value x2
  split
  · rename_i y3 y4
    dsimp only
    exact hodAssign_keeps (by assumption)
  · rename_i y5 y6
    dsimp only
    exact hodAssign_keeps (by assumption)

theorem cmdLinkPeer_keeps {s0 s : State} {a0 a1 a2} (h : Keeps s0 s) : Keeps s0 (cmdLinkPeer a0 a1 a2 s).1 := by
  unfold cmdLinkPeer
  refine State.withStall_keeps ?_ ?_
  · assumption
  · intro a0
    extract_lets +onlyGivenNames x1
    clear_value x1
    extract_lets +onlyGivenNames x2
    clear_value x2
    dsimp only
    exact State.setStall_keeps (by assumption)

theorem State.replayStall_keeps {s0 s : State} {a1} (h : Keeps s0 s) : Keeps s0 (State.replayStall s a1) := by
  unfold State.replayStall
  split
  · rename_i y0 y1
    assumption
  · rename_i y2 y3 y4
    refine Keeps.ite ?_ ?_
    · exact State.setStall_keeps (by assumption)
    · exact State.unpark_keeps (by assumption)

theorem cmdResumeFromCheckpoint_keeps {s0 s : State} {a0 a1 a2} (h : Keeps s0 s) : Keeps s0 (cmdResumeFromCheckpoint a0 a1 a2 s).1 := by
  unfold cmdResumeFromCheckpoint
  extract_lets +onlyGivenNames x0
  clear_value x0
  extract_lets +onlyGivenNames x1
  clear_value x1
  split
  · rename_i y2
    dsimp only
    assumption
  · rename_i y3
    split
    · rename_i y4
      dsimp only
      assumption
    · rename_i y5
      split
      · rename_i y6
        dsimp only
        refine Keeps.foldl (fun t7 x8 h9 => ?_) _ ?_
        · exact State.replayStall_keeps (by assumption)
        · assumption
      · rename_i y10
        refine State.withStall_keeps ?_ ?_
        · assumption
        · intro a11
          split
          · rename_i y12
            dsimp only
            exact State.replayStall_keeps (by assumption)
          · rename_i y13
            dsimp only
            assumption

theorem State.withStream_keeps {s0 s : State} {a1 a2} (h : Keeps s0 s) (ha2 : ∀ y0, Keeps s0 (a2 y0).1) : Keeps s0 (State.withStream s a1 a2).1 := by
  unfold State.withStream
  split
  · rename_i y0 y1 y2
    refine ha2 ?_
  · rename_i y3 y4
    dsimp only
    assumption

theorem State.keepExts_keeps {s0 s : State} {a0 a1 a2} (h : Keeps s0 s) : Keeps s0 (State.keepExts s a0 a1 a2).2 := by
  unfold State.keepExts
  dsimp only
  exact State.giveExts_keeps (by assumption)

theorem State.placeAreas_keeps {s0 s : State} {a0 a1 a2 a3} (h : Keeps s0 s) : Keeps s0 (State.placeAreas s a0 a1 a2 a3).2 := by
  unfold State.placeAreas
  extract_lets +lift +onlyGivenNames x0
  clear_value x0
  split
  rename_i y1 y2 y3 y4 y5
  split
  rename_i y6 y7 y8 y9 y10
  refine State.keepExts_keeps ?_
  refine Keeps.snd2 y10 ?_
  refine State.allocate_keeps ?_
  refine Keeps.snd2 y5 ?_
  exact State.allocate_keeps (by assumption)

theorem State.newStream_keeps {s0 s : State} {a1} (h : Keeps s0 s) : Keeps s0 (State.newStream s a1).2 := by
  unfold State.newStream
  exact State.allocate_keeps (State.draw_keeps h)

theorem State.streamOr_keeps {s0 s : State} {a1} (h : Keeps s0 s) : Keeps s0 (State.streamOr s a1).2 := by
  unfold State.streamOr
  split
  · rename_i y0 y1 y2
    dsimp only
    assumption
  · rename_i y3 y4
    split
    rename_i y5 y6 y7 y8
    dsimp only
    refine Keeps.upd (s := y7) rfl rfl rfl rfl rfl rfl rfl ?_
    refine Keeps.snd y8 ?_
    exact State.newStream_keeps (by assumption)

theorem State.placeRef_keeps {s0 s : State} {a1 a2} (h : Keeps s0 s) : Keeps s0 (State.placeRef s a1 a2).2 := by
  unfold State.placeRef
  dsimp only
  split
  · exact State.keepExts_keeps h
  · exact State.keepExts_keeps (State.allocate_keeps h)

theorem State.resized_keeps {s0 s : State} {a1 a2 a3 a4 a5} (h : Keeps s0 s) : Keeps s0 (State.resized s a1 a2 a3 a4 a5).2 := by
  unfold State.resized
  dsimp only
  generalize hp : (if dW a1.shadow = a3 ∧ dH a1.shadow = a4 then (a1, s) else _ : Stream × State) = p
  have h1 : Keeps s0 p.2 := by
    subst hp
    split
    · exact h
    · exact State.placeAreas_keeps h
  rcases p with ⟨x, s1⟩
  dsimp only at h1 ⊢
  split
  · exact h1
  · exact State.placeRef_keeps h1

theorem State.settleBucket_keeps {s0 s : State} {a0} (h : Keeps s0 s) : Keeps s0 (State.settleBucket s a0) := by
  unfold State.settleBucket
  split
  · rename_i y0 y1 y2
    exact State.setNet_keeps (by assumption)
  · rename_i y3 y4
    assumption

theorem cmdStreamConfig_keeps {s0 s : State} {a0 a1 a2} (h : Keeps s0 s) : Keeps s0 (cmdStreamConfig a0 a1 a2 s).1 := by
  unfold cmdStreamConfig
  extract_lets n w hh en
  split
  · exact h
  · extract_lets b
    split
    · exact h
    · split
      · exact h
      · rcases e : s.streamOr n with ⟨x, s1⟩
        have h1 : Keeps s0 s1 := Keeps.snd e (State.streamOr_keeps h)
        dsimp only
        split
        · exact h
        · exact State.recost_keeps (State.setStream_keeps (State.settleBucket_keeps (State.resized_keeps h1)))

theorem State.resolveHop_keeps {s0 s : State} {a0} (h : Keeps s0 s) : Keeps s0 (State.resolveHop s a0).2 := by
  unfold State.resolveHop
  split
  rename_i y0 y1 y2 y3
  dsimp only
  refine Keeps.snd y3 ?_
  exact State.freeBytes_keeps (by assumption)

theorem cmdStreamNet_keeps {s0 s : State} {a0 a1 a2} (h : Keeps s0 s) : Keeps s0 (cmdStreamNet a0 a1 a2 s).1 := by
  unfold cmdStreamNet
  extract_lets +lift +onlyGivenNames x0
  clear_value x0
  split
  · rename_i y1 y2
    dsimp only
    assumption
  · rename_i y3 y4 y5
    extract_lets +lift +onlyGivenNames x6 x7
    clear_value x6
    clear_value x7
    split
    · rename_i y8
      dsimp only
      assumption
    · rename_i y9
      split
      · rename_i y10
        dsimp only
        assumption
      · rename_i y11
        split
        · rename_i y12
          dsimp only
          assumption
        · rename_i y13
          split
          · rename_i y14
            dsimp only
            assumption
          · rename_i y15
            split
            · rename_i y16
              dsimp only
              assumption
            · rename_i y17
              split
              · rename_i y18
                dsimp only
                assumption
              · rename_i y19
                split
                rename_i y20 y21 y22 y23
                extract_lets +lift +onlyGivenNames x24
                clear_value x24
                dsimp only
                refine State.loadEntry_keeps ?_
                refine State.hbmWrite_keeps ?_
                refine Keeps.snd y23 ?_
                exact State.resolveHop_keeps (by assumption)

theorem State.shadowPut_keeps {s0 s : State} {a1 a2 a3} (h : Keeps s0 s) : Keeps s0 (State.shadowPut s a1 a2 a3).1 := by
  unfold State.shadowPut
  refine State.withStream_keeps ?_ ?_
  · assumption
  · intro a0
    dsimp only
    exact State.setStream_keeps (by assumption)

theorem cmdCourseSet_keeps {s0 s : State} {a0 a1 a2} (h : Keeps s0 s) : Keeps s0 (cmdCourseSet a0 a1 a2 s).1 := by
  unfold cmdCourseSet
  exact State.shadowPut_keeps (by assumption)

theorem cmdRegionSet_keeps {s0 s : State} {a0 a1 a2} (h : Keeps s0 s) : Keeps s0 (cmdRegionSet a0 a1 a2 s).1 := by
  unfold cmdRegionSet
  exact State.shadowPut_keeps (by assumption)

theorem cmdStreamCommit_keeps {s0 s : State} {a0 a1 a2} (h : Keeps s0 s) : Keeps s0 (cmdStreamCommit a0 a1 a2 s).1 := by
  unfold cmdStreamCommit
  refine State.withStream_keeps ?_ ?_
  · assumption
  · intro a0
    extract_lets +onlyGivenNames x1
    have h2 : Keeps s0 x1 := by
      unfold x1
      exact commitValidated_keeps (by assumption)
    clear_value x1
    extract_lets +onlyGivenNames x3
    clear_value x3
    extract_lets +onlyGivenNames x4
    have h5 : Keeps s0 x4 := by
      unfold x4
      refine commitValidated_keeps ?_
      exact cmpCommit_keeps (by assumption)
    clear_value x4
    split
    · rename_i y6
      dsimp only
      assumption
    · rename_i y7
      dsimp only
      assumption

theorem cmdStreamKeyframe_keeps {s0 s : State} {a0 a1 a2} (h : Keeps s0 s) : Keeps s0 (cmdStreamKeyframe a0 a1 a2 s).1 := by
  unfold cmdStreamKeyframe
  refine State.withStream_keeps ?_ ?_
  · assumption
  · intro a0
    dsimp only
    exact State.setStream_keeps (by assumption)

theorem cmdStreamQuery_keeps {s0 s : State} {a0 a1 a2} (h : Keeps s0 s) : Keeps s0 (cmdStreamQuery a0 a1 a2 s).1 := by
  unfold cmdStreamQuery
  refine State.withStream_keeps ?_ ?_
  · assumption
  · intro a0
    dsimp only
    assumption

theorem cmdStreamDestroy_keeps {s0 s : State} {a0 a1 a2} (h : Keeps s0 s) : Keeps s0 (cmdStreamDestroy a0 a1 a2 s).1 := by
  unfold cmdStreamDestroy
  refine State.withStream_keeps ?_ ?_
  · assumption
  · intro a0
    dsimp only
    exact State.dropStreams_keeps (by assumption)

theorem State.newLane_keeps {s0 s : State} {a0} (h : Keeps s0 s) : Keeps s0 (State.newLane s a0).2 := by
  unfold State.newLane
  split
  rename_i y0 y1 y2 y3
  split
  rename_i y4 y5 y6 y7 y8
  dsimp only
  refine Keeps.snd2 y8 ?_
  refine State.allocate_keeps ?_
  refine Keeps.snd y3 ?_
  exact State.draw_keeps (by assumption)

theorem cmdLaneConfig_keeps {s0 s : State} {a0 a1 a2} (h : Keeps s0 s) : Keeps s0 (cmdLaneConfig a0 a1 a2 s).1 := by
  unfold cmdLaneConfig
  refine State.withStall_keeps ?_ ?_
  · assumption
  · intro a0
    extract_lets +lift +onlyGivenNames x1 x2 x3 x4 x5
    clear_value x1
    clear_value x2
    clear_value x3
    clear_value x4
    clear_value x5
    split
    · rename_i y6
      dsimp only
      assumption
    · rename_i y7
      split
      · rename_i y8
        dsimp only
        assumption
      · rename_i y9
        split
        · rename_i y10
          dsimp only
          assumption
        · rename_i y11
          split
          · rename_i y12
            dsimp only
            refine State.showRamp_keeps ?_
            refine State.setStall_keeps ?_
            exact State.giveExts_keeps (by assumption)
          · rename_i y13
            split
            rename_i y14 y15 y16 y17
            extract_lets +lift +onlyGivenNames x18 x19 x20
            clear_value x18
            clear_value x19
            clear_value x20
            dsimp only
            refine State.setStall_keeps ?_
            refine Keeps.snd y17 ?_
            split
            · rename_i y21 y22 y23
              dsimp only
              assumption
            · rename_i y24 y25
              exact State.newLane_keeps (by assumption)

theorem cmdLaneOpwr_keeps {s0 s : State} {a0 a1 a2} (h : Keeps s0 s) : Keeps s0 (cmdLaneOpwr a0 a1 a2 s).1 := by
  unfold cmdLaneOpwr
  refine State.withStall_keeps ?_ ?_
  · assumption
  · intro a0
    split
    · rename_i y1 y2
      dsimp only
      assumption
    · rename_i y3 y4 y5
      split
      · rename_i y6
        dsimp only
        assumption
      · rename_i y7
        dsimp only
        exact State.setStall_keeps (by assumption)

theorem cmdGraphLoad_keeps {s0 s : State} {a0 a1 a2} (h : Keeps s0 s) : Keeps s0 (cmdGraphLoad a0 a1 a2 s).1 := by
  unfold cmdGraphLoad
  refine State.withStall_keeps ?_ ?_
  · assumption
  · intro a0
    split
    · rename_i y1
      dsimp only
      assumption
    · rename_i y2
      split
      · rename_i y3 y4
        dsimp only
        assumption
      · rename_i y5 y6 y7
        extract_lets +onlyGivenNames x8
        have h9 : Keeps s0 x8 := by
          unfold x8
          exact audSwapValidated_keeps (by assumption)
        clear_value x8
        extract_lets +onlyGivenNames x10
        clear_value x10
        split
        · rename_i y11
          dsimp only
          assumption
        · rename_i y12
          extract_lets +onlyGivenNames x13
          clear_value x13
          extract_lets +onlyGivenNames x14
          have h15 : Keeps s0 x14 := by
            unfold x14
            exact State.onStall_keeps (by assumption)
          clear_value x14
          extract_lets +onlyGivenNames x16
          clear_value x16
          extract_lets +onlyGivenNames x17
          have h18 : Keeps s0 x17 := by
            unfold x17
            refine audSwapValidated_keeps ?_
            exact audSwap_keeps (by assumption)
          clear_value x17
          split
          · rename_i y19
            dsimp only
            assumption
          · rename_i y20
            dsimp only
            assumption

theorem State.wipeRequest_keeps {s0 s : State} (h : Keeps s0 s) : Keeps s0 (State.wipeRequest s) := by
  unfold State.wipeRequest
  refine Keeps.foldl (fun t0 x1 h2 => ?_) _ ?_
  · exact State.put_keeps (by assumption)
  · assumption

theorem State.joinYard_keeps {s0 s : State} (h : Keeps s0 s) : Keeps s0 (State.joinYard s) := by
  unfold State.joinYard
  exact Keeps.upd (s := s) rfl rfl rfl rfl rfl rfl rfl (by assumption)

theorem State.mayJoin_keeps {s0 s : State} (h : Keeps s0 s) : Keeps s0 (State.mayJoin s) := by
  unfold State.mayJoin
  refine Keeps.ite ?_ ?_
  · exact State.joinYard_keeps (by assumption)
  · assumption

theorem State.installKey_keeps {s0 s : State} {a1} (h : Keeps s0 s) : Keeps s0 (State.installKey s a1) := by
  unfold State.installKey
  extract_lets +onlyGivenNames x0
  clear_value x0
  extract_lets +onlyGivenNames x1
  clear_value x1
  refine Keeps.ite ?_ ?_
  · exact Keeps.upd (s := s) rfl rfl rfl rfl rfl rfl rfl (by assumption)
  · refine Keeps.ite ?_ ?_
    · refine State.mayJoin_keeps ?_
      exact Keeps.upd (s := s) rfl rfl rfl rfl rfl rfl rfl (by assumption)
    · extract_lets +onlyGivenNames x2
      clear_value x2
      exact Keeps.upd (s := s) rfl rfl rfl rfl rfl rfl rfl (by assumption)

theorem cmdKeySet_keeps {s0 s : State} {a0 a1 a2} (h : Keeps s0 s) : Keeps s0 (cmdKeySet a0 a1 a2 s).1 := by
  unfold cmdKeySet
  extract_lets +onlyGivenNames x2
  clear_value x2
  extract_lets +onlyGivenNames x3
  clear_value x3
  extract_lets +onlyGivenNames x4
  clear_value x4
  extract_lets +onlyGivenNames x5
  clear_value x5
  extract_lets +onlyGivenNames x6
  clear_value x6
  extract_lets +onlyGivenNames x7
  clear_value x7
  extract_lets +onlyGivenNames x8
  clear_value x8
  extract_lets +onlyGivenNames x9
  clear_value x9
  split
  · rename_i y10
    dsimp only
    assumption
  · rename_i y11
    split
    · rename_i y12
      dsimp only
      assumption
    · rename_i y13
      split
      · rename_i y14
        dsimp only
        assumption
      · rename_i y15
        split
        · rename_i y16
          dsimp only
          assumption
        · rename_i y17
          dsimp only
          exact State.installKey_keeps (by assumption)

theorem cmdFlowSet_keeps {s0 s : State} {a0 a1 a2} (h : Keeps s0 s) : Keeps s0 (cmdFlowSet a0 a1 a2 s).1 := by
  unfold cmdFlowSet
  extract_lets +onlyGivenNames x0
  clear_value x0
  split
  · rename_i y1 y2
    dsimp only
    assumption
  · rename_i y3 y4 y5
    extract_lets +onlyGivenNames x6
    clear_value x6
    extract_lets +onlyGivenNames x7
    clear_value x7
    split
    · rename_i y8 y9
      dsimp only
      assumption
    · rename_i y10 y11 y12
      split
      · rename_i y13
        dsimp only
        assumption
      · rename_i y14
        split
        · rename_i y15
          dsimp only
          assumption
        · rename_i y16
          split
          · rename_i y17
            dsimp only
            assumption
          · rename_i y18
            split
            · rename_i y19
              dsimp only
              assumption
            · rename_i y20
              extract_lets +onlyGivenNames x21
              clear_value x21
              dsimp only
              refine State.loadEntry_keeps ?_
              exact State.hbmWrite_keeps (by assumption)

theorem cmdFlowClear_keeps {s0 s : State} {a0 a1 a2} (h : Keeps s0 s) : Keeps s0 (cmdFlowClear a0 a1 a2 s).1 := by
  unfold cmdFlowClear
  extract_lets +onlyGivenNames x0
  clear_value x0
  split
  · rename_i y1 y2
    dsimp only
    assumption
  · rename_i y3 y4 y5
    extract_lets +onlyGivenNames x6
    have h7 : Keeps s0 x6 := by
      unfold x6
      refine State.loadEntry_keeps ?_
      exact State.hbmWrite_keeps (by assumption)
    clear_value x6
    dsimp only
    exact Keeps.upd (s := x6) rfl rfl rfl rfl rfl rfl rfl (by assumption)

theorem State.attach_keeps {s0 s : State} (h : Keeps s0 s) : Keeps s0 (State.attach s) := by
  unfold State.attach
  refine State.mayJoin_keeps ?_
  extract_lets +onlyGivenNames x0
  have h1 : Keeps s0 x0 := by
    unfold x0
    exact State.put_keeps (by assumption)
  clear_value x0
  exact Keeps.upd (s := x0) rfl rfl rfl rfl rfl rfl rfl (by assumption)

theorem cmdYardSet_keeps {s0 s : State} {a0 a1 a2} (h : Keeps s0 s) : Keeps s0 (cmdYardSet a0 a1 a2 s).1 := by
  unfold cmdYardSet
  extract_lets +lift +onlyGivenNames x0 x1 x2 x3
  clear_value x0
  clear_value x1
  clear_value x2
  have h4 : ∀ y0, Keeps s0 y0 → Keeps s0 (x3 y0) := by
    intro a5 a6
    unfold x3
    exact State.puts_keeps (by assumption)
  clear_value x3
  split
  · rename_i y7
    dsimp only
    refine h4 _ ?_
    exact yrdDetach_keeps (by assumption)
  · rename_i y8
    split
    · rename_i y9
      dsimp only
      assumption
    · rename_i y10
      split
      · rename_i y11
        dsimp only
        assumption
      · rename_i y12
        split
        · rename_i y13
          dsimp only
          assumption
        · rename_i y14
          split
          · rename_i y15
            dsimp only
            exact h4 _ (by assumption)
          · rename_i y16
            dsimp only
            refine State.attach_keeps ?_
            exact h4 _ (by assumption)

theorem cmdAddrSet_keeps {s0 s : State} {a0 a1 a2} (h : Keeps s0 s) : Keeps s0 (cmdAddrSet a0 a1 a2 s).1 := by
  unfold cmdAddrSet
  extract_lets +onlyGivenNames x0
  clear_value x0
  extract_lets +onlyGivenNames x1
  clear_value x1
  extract_lets +onlyGivenNames x2
  clear_value x2
  extract_lets +onlyGivenNames x3
  clear_value x3
  split
  · rename_i y4
    dsimp only
    assumption
  · rename_i y5
    extract_lets +onlyGivenNames x6
    clear_value x6
    extract_lets +onlyGivenNames x7
    clear_value x7
    split
    · rename_i y8
      dsimp only
      assumption
    · rename_i y9
      extract_lets +onlyGivenNames x10
      clear_value x10
      dsimp only
      exact Keeps.upd (s := s) rfl rfl rfl rfl rfl rfl rfl (by assumption)

theorem cmdRouteSet_keeps {s0 s : State} {a0 a1 a2} (h : Keeps s0 s) : Keeps s0 (cmdRouteSet a0 a1 a2 s).1 := by
  unfold cmdRouteSet
  split
  · rename_i y0
    dsimp only
    assumption
  · rename_i y1
    split
    · rename_i y2 y3
      dsimp only
      assumption
    · rename_i y4 y5 y6
      extract_lets +onlyGivenNames x7
      clear_value x7
      split
      · rename_i y8
        dsimp only
        assumption
      · rename_i y9
        dsimp only
        refine State.loadEntry_keeps ?_
        exact State.hbmWrite_keeps (by assumption)

theorem cmdIdentify_keeps {s0 s : State} {a0 a1 a2} (h : Keeps s0 s) : Keeps s0 (cmdIdentify a0 a1 a2 s).1 := by
  unfold cmdIdentify
  extract_lets +onlyGivenNames x0
  clear_value x0
  dsimp only
  assumption

theorem State.epochs_keeps {s0 s : State} (h : Keeps s0 s) : Keeps s0 (State.epochs s).2.2.2 := by
  unfold State.epochs
  split
  · exact h
  · exact State.draw_keeps (State.draw_keeps (State.draw_keeps h))

theorem cmdFwStatus_keeps {s0 s : State} {e d n} (h : Keeps s0 s) : Keeps s0 (cmdFwStatus e d n s).1 := by
  exact State.epochs_keeps h

theorem cmdLogRead_keeps {s0 s : State} {a0 a1 a2} (h : Keeps s0 s) : Keeps s0 (cmdLogRead a0 a1 a2 s).1 := by
  unfold cmdLogRead
  split
  · rename_i y0
    dsimp only
    assumption
  · rename_i y1
    split
    · rename_i y2
      dsimp only
      assumption
    · rename_i y3
      extract_lets +onlyGivenNames x4
      clear_value x4
      extract_lets +onlyGivenNames x5
      have h6 : Keeps s0 x5 := by
        unfold x5
        exact State.hostWrite_keeps (by assumption)
      clear_value x5
      extract_lets +onlyGivenNames x7
      clear_value x7
      extract_lets +onlyGivenNames x8
      clear_value x8
      dsimp only
      assumption

theorem State.resetAfter_keeps {s0 s : State} {a1} (h : Keeps s0 s) : Keeps s0 (State.resetAfter s a1) := by
  unfold State.resetAfter
  exact Keeps.upd (s := s) rfl rfl rfl rfl rfl rfl rfl (by assumption)

theorem cmdDeviceReset_keeps {s0 s : State} {a0 a1 a2} (h : Keeps s0 s) : Keeps s0 (cmdDeviceReset a0 a1 a2 s).1 := by
  unfold cmdDeviceReset
  dsimp only
  exact State.resetAfter_keeps (by assumption)

theorem cmdAbortToBoot_keeps {s0 s : State} {a0 a1 a2} (h : Keeps s0 s) : Keeps s0 (cmdAbortToBoot a0 a1 a2 s).1 := by
  unfold cmdAbortToBoot
  split
  · rename_i y0
    dsimp only
    refine State.toMode_keeps ?_
    exact Keeps.upd (s := s) rfl rfl rfl rfl rfl rfl rfl (by assumption)
  · rename_i y1
    dsimp only
    exact State.resetAfter_keeps (by assumption)

theorem cmdFwBegin_keeps {s0 s : State} {e d n} (h : Keeps s0 s) : Keeps s0 (cmdFwBegin e d n s).1 := by
  have hp : ∀ t v a b, Keeps s0 t → Keeps s0 { t with fwLen := v, hbm := Memory.clearRange t.hbm a b } := fun t v a b ht =>
    ⟨ht.1, fun w => Memory.clearRange_wf _ _ _ (ht.2 w), ht.3, ht.4, ht.5, ht.6, ht.7⟩
  unfold cmdFwBegin
  split
  · exact h
  · exact State.puts_keeps (hp _ _ _ _ (Keeps.ite (State.toMode_keeps h) h))

theorem cmdFwCommit_keeps {s0 s : State} {a0 a1 a2} (h : Keeps s0 s) : Keeps s0 (cmdFwCommit a0 a1 a2 s).1 := by
  unfold cmdFwCommit
  split
  · rename_i y0
    dsimp only
    refine State.toMode_keeps ?_
    exact State.put_keeps (by assumption)
  · rename_i y1
    dsimp only
    assumption

theorem State.runStables_keeps {s0 s : State} {a1} (h : Keeps s0 s) : Keeps s0 (State.runStables s a1) := by
  unfold State.runStables
  refine Keeps.foldl (fun t0 x1 h2 => ?_) _ ?_
  · refine Keeps.ite ?_ ?_
    · exact State.put_keeps (by assumption)
    · assumption
  · assumption

theorem State.enterDrowse_keeps {s0 s : State} (h : Keeps s0 s) : Keeps s0 (State.enterDrowse s) := by
  unfold State.enterDrowse
  refine State.toMode_keeps ?_
  refine State.put_keeps ?_
  exact State.runStables_keeps (by assumption)

theorem State.leaveDrowse_keeps {s0 s : State} (h : Keeps s0 s) : Keeps s0 (State.leaveDrowse s) := by
  unfold State.leaveDrowse
  refine State.enterServe_keeps ?_
  refine State.put_keeps ?_
  exact State.runStables_keeps (by assumption)

theorem cmdModeSet_keeps {s0 s : State} {a0 a1 a2} (h : Keeps s0 s) : Keeps s0 (cmdModeSet a0 a1 a2 s).1 := by
  unfold cmdModeSet
  extract_lets +onlyGivenNames x0
  clear_value x0
  split
  · rename_i y1
    dsimp only
    assumption
  · rename_i y2
    split
    · rename_i y3
      dsimp only
      assumption
    · rename_i y4
      split
      · rename_i y5
        split
        · rename_i y6
          dsimp only
          exact State.enterDrowse_keeps (by assumption)
        · rename_i y7
          dsimp only
          assumption
      · rename_i y8
        split
        · rename_i y9
          dsimp only
          refine Keeps.ite ?_ ?_
          · exact State.leaveDrowse_keeps (by assumption)
          · exact State.enterServe_keeps (by assumption)
        · rename_i y10
          split
          · rename_i y11
            dsimp only
            assumption
          · rename_i y12
            split
            · rename_i y13
              dsimp only
              exact State.toMode_keeps (by assumption)
            · rename_i y14
              split
              · rename_i y15
                dsimp only
                exact State.toMode_keeps (by assumption)
              · rename_i y16
                dsimp only
                assumption

theorem State.ptpSet_keeps {s0 s : State} {a1} (h : Keeps s0 s) : Keeps s0 (State.ptpSet s a1) := by
  unfold State.ptpSet
  extract_lets +onlyGivenNames x0
  have h1 : Keeps s0 x0 := by
    unfold x0
    exact State.putReg32_keeps (by assumption)
  clear_value x0
  refine Keeps.ite ?_ ?_
  · assumption
  · extract_lets +onlyGivenNames x2
    clear_value x2
    extract_lets +onlyGivenNames x3
    have h4 : Keeps s0 x3 := by
      unfold x3
      exact State.put_keeps (by assumption)
    clear_value x3
    extract_lets +onlyGivenNames x5
    have h6 : Keeps s0 x5 := by
      unfold x5
      exact Keeps.upd (s := x3) rfl rfl rfl rfl rfl rfl rfl (by assumption)
    clear_value x5
    refine Keeps.ite ?_ ?_
    · exact State.clockLost_keeps (by assumption)
    · assumption

theorem cmdDeviceSet_keeps {s0 s : State} {a0 a1 a2} (h : Keeps s0 s) : Keeps s0 (cmdDeviceSet a0 a1 a2 s).1 := by
  unfold cmdDeviceSet
  extract_lets +onlyGivenNames x0
  clear_value x0
  extract_lets +onlyGivenNames x1
  clear_value x1
  split
  · rename_i y2
    dsimp only
    assumption
  · rename_i y3
    split
    · rename_i y4 y5
      dsimp only
      exact State.put_keeps (by assumption)
    · rename_i y6 y7
      dsimp only
      exact State.puts_keeps (by assumption)
    · rename_i y8 y9
      extract_lets +onlyGivenNames x10
      have h11 : Keeps s0 x10 := by
        unfold x10
        exact hodHgrantWrite_keeps (by assumption)
      clear_value x10
      dsimp only
      refine Keeps.upd (s := (x10.puts [(MOV_GRANT_HOST, field (x0 1) 1 1), (MOV_GRANT_SHEDS, x0 3 / 2), (RNG_GRANT_SHEDS, x0 4 / 2)])) rfl rfl rfl rfl rfl rfl rfl ?_
      exact State.puts_keeps (by assumption)
    · rename_i y12 y13
      dsimp only
      exact State.ptpSet_keeps (by assumption)
    · rename_i y14 y15 y16 y17 y18
      dsimp only
      exact State.put_keeps (by assumption)

theorem State.keyNext_keeps {s0 s : State} (h : Keeps s0 s) : Keeps s0 (State.keyNext s) := by
  unfold State.keyNext
  extract_lets +onlyGivenNames x0
  clear_value x0
  exact Keeps.upd (s := s) rfl rfl rfl rfl rfl rfl rfl (by assumption)

theorem cmdSetSplit_keeps {s0 s : State} {a0 a1 a2} (h : Keeps s0 s) : Keeps s0 (cmdSetSplit a0 a1 a2 s).1 := by
  unfold cmdSetSplit
  extract_lets +onlyGivenNames x0
  clear_value x0
  extract_lets +onlyGivenNames x1
  clear_value x1
  split
  · rename_i y2 y3 y4
    dsimp only
    assumption
  · rename_i y5 y6
    extract_lets +onlyGivenNames x7
    clear_value x7
    extract_lets +onlyGivenNames x8
    clear_value x8
    extract_lets +onlyGivenNames x9
    have h10 : Keeps s0 x9 := by
      unfold x9
      exact State.put_keeps (by assumption)
    clear_value x9
    extract_lets +onlyGivenNames x11
    clear_value x11
    extract_lets +onlyGivenNames x12
    have h13 : Keeps s0 x12 := by
      unfold x12
      refine Keeps.ite ?_ ?_
      · refine State.recost_keeps ?_
        exact Keeps.upd (s := x9) rfl rfl rfl rfl rfl rfl rfl (by assumption)
      · assumption
    clear_value x12
    extract_lets +onlyGivenNames x14
    have h15 : Keeps s0 x14 := by
      unfold x14
      refine Keeps.ite ?_ ?_
      · exact State.keyNext_keeps (by assumption)
      · assumption
    clear_value x14
    dsimp only
    assumption

theorem cmdRingCreate_keeps {s0 s : State} {a0 a1 a2} (h : Keeps s0 s) : Keeps s0 (cmdRingCreate a0 a1 a2 s).1 := by
  unfold cmdRingCreate
  extract_lets +onlyGivenNames x0
  clear_value x0
  extract_lets +onlyGivenNames x1
  clear_value x1
  extract_lets +onlyGivenNames x2
  clear_value x2
  extract_lets +onlyGivenNames x3
  clear_value x3
  split
  · rename_i y4
    dsimp only
    assumption
  · rename_i y5
    split
    · rename_i y6
      dsimp only
      assumption
    · rename_i y7
      extract_lets +onlyGivenNames x8
      clear_value x8
      extract_lets +onlyGivenNames x9
      have h10 : Keeps s0 x9 := by
        unfold x9
        exact State.puts_keeps (by assumption)
      clear_value x9
      dsimp only
      exact Keeps.upd (s := x9) rfl rfl rfl rfl rfl rfl rfl (by assumption)

theorem cmdSnapshotExport_keeps {s0 s : State} {a0 a1 a2} (h : Keeps s0 s) : Keeps s0 (cmdSnapshotExport a0 a1 a2 s).1 := by
  unfold cmdSnapshotExport
  refine State.withStall_keeps ?_ ?_
  · assumption
  · intro a0
    extract_lets +onlyGivenNames x1
    clear_value x1
    split
    · rename_i y2
      dsimp only
      assumption
    · rename_i y3
      split
      · rename_i y4 y5
        dsimp only
        assumption
      · rename_i y6 y7 y8
        extract_lets +onlyGivenNames x9
        clear_value x9
        split
        · rename_i y10
          dsimp only
          assumption
        · rename_i y11
          split
          · rename_i y12
            dsimp only
            assumption
          · rename_i y13
            dsimp only
            exact State.hostWrite_keeps (by assumption)

theorem State.importRest_keeps {s0 s : State} {a0 a1} (h : Keeps s0 s) : Keeps s0 (State.importRest s a0 a1) := by
  unfold State.importRest
  extract_lets +onlyGivenNames x0
  have h1 : Keeps s0 x0 := by
    unfold x0
    refine Keeps.foldl (fun a2 a3 h4 => ?_) _ ?_
    · split
      rename_i y5 y6 y7 y8
      extract_lets +onlyGivenNames x9
      clear_value x9
      extract_lets +onlyGivenNames x10
      clear_value x10
      refine Keeps.upd (s := y7) rfl rfl rfl rfl rfl rfl rfl ?_
      refine Keeps.snd y8 ?_
      exact State.newStream_keeps (by assumption)
    · assumption
  clear_value x0
  extract_lets +onlyGivenNames x11
  have h12 : Keeps s0 x11 := by
    unfold x11
    refine Keeps.foldl (fun a13 a14 h15 => ?_) _ ?_
    · extract_lets +onlyGivenNames x16
      clear_value x16
      split
      rename_i y17 y18 y19 y20
      extract_lets +onlyGivenNames x21
      clear_value x21
      extract_lets +onlyGivenNames x22
      clear_value x22
      extract_lets +onlyGivenNames x23
      have h24 : Keeps s0 x23 := by
        unfold x23
        refine State.loadEntry_keeps ?_
        refine State.hbmWrite_keeps ?_
        refine Keeps.snd y20 ?_
        exact State.resolveHop_keeps (by assumption)
      clear_value x23
      split
      · rename_i y25 y26 y27
        exact State.setNet_keeps (by assumption)
      · rename_i y28 y29
        assumption
    · assumption
  clear_value x11
  extract_lets +onlyGivenNames x30
  have h31 : Keeps s0 x30 := by
    unfold x30
    refine Keeps.foldl (fun a32 a33 h34 => ?_) _ ?_
    · extract_lets +onlyGivenNames x35
      clear_value x35
      extract_lets +onlyGivenNames x36
      clear_value x36
      extract_lets +onlyGivenNames x37
      clear_value x37
      refine State.loadEntry_keeps ?_
      exact State.hbmWrite_keeps (by assumption)
    · assumption
  clear_value x30
  extract_lets +onlyGivenNames x38
  clear_value x38
  extract_lets +onlyGivenNames x39
  clear_value x39
  split
  rename_i y40 y41 y42 y43 y44
  extract_lets +onlyGivenNames x45
  have h46 : Keeps s0 x45 := by
    unfold x45
    refine Keeps.upd (s := y43) rfl rfl rfl rfl rfl rfl rfl ?_
    refine Keeps.snd2 y44 ?_
    split
    · rename_i y47 y48
      exact State.allocate_keeps (by assumption)
    · rename_i y49
      dsimp only
      assumption
  clear_value x45
  refine State.showRamp_keeps ?_
  refine State.recost_keeps ?_
  exact State.onStall_keeps (by assumption)

theorem State.enterImport_keeps {s0 s : State} {a1 a2 a3} (h : Keeps s0 s) : Keeps s0 (State.enterImport s a1 a2 a3) := by
  unfold State.enterImport
  extract_lets +onlyGivenNames x0
  clear_value x0
  extract_lets +onlyGivenNames x1
  have h2 : Keeps s0 x1 := by
    unfold x1
    refine State.place_keeps ?_
    exact Keeps.upd (s := s) rfl rfl rfl rfl rfl rfl rfl (by assumption)
  clear_value x1
  refine Keeps.ite ?_ ?_
  · exact State.park_keeps (by assumption)
  · assumption

theorem State.importHere_keeps {s0 s : State} {a0 a1 a2 a3 a4} (h : Keeps s0 s) : Keeps s0 (State.importHere s a0 a1 a2 a3 a4).1 := by
  unfold State.importHere
  extract_lets +lift +onlyGivenNames x0
  clear_value x0
  split
  · rename_i y1 y2 y3
    dsimp only
    assumption
  · rename_i y4 y5 y6 y7 y8
    split
    · rename_i y9
      dsimp only
      assumption
    · rename_i y10
      dsimp only
      assumption
  · rename_i y11 y12 y13 y14 y15 y16
    split
    · rename_i y17
      dsimp only
      assumption
    · rename_i y18
      split
      · rename_i y19
        dsimp only
        assumption
      · rename_i y20
        split
        · rename_i y21
          dsimp only
          assumption
        · rename_i y22
          split
          · rename_i y23 y24 y25 y26
            dsimp only
            assumption
          · rename_i y27 y28 y29 y30
            dsimp only
            assumption
          · rename_i y31 y32 y33 y34 y35
            split
            · rename_i y36
              dsimp only
              assumption
            · rename_i y37
              split
              · rename_i y38 y39 y40 y41
                dsimp only
                refine Keeps.snd y41 ?_
                exact State.bindTitle_keeps (by assumption)
              · rename_i y42 y43 y44 y45
                split
                · rename_i y46
                  dsimp only
                  assumption
                · rename_i y47
                  split
                  · rename_i y48
                    dsimp only
                    assumption
                  · rename_i y49
                    split
                    · rename_i y50
                      dsimp only
                      assumption
                    · rename_i y51
                      split
                      rename_i y52 y53 y54 y55
                      dsimp only
                      refine State.countUnits_keeps ?_
                      refine State.importRest_keeps ?_
                      refine State.enterImport_keeps ?_
                      refine Keeps.snd y55 ?_
                      refine State.giveAreas_keeps ?_
                      refine Keeps.snd y45 ?_
                      exact State.bindTitle_keeps (by assumption)

theorem State.obtainTitle_keeps {s0 s : State} {a0 a1 a2} (h : Keeps s0 s) : Keeps s0 (State.obtainTitle s a0 a1 a2) := by
  unfold State.obtainTitle
  refine Keeps.ite ?_ ?_
  · assumption
  · split
    · rename_i y0 y1
      extract_lets +onlyGivenNames x2
      clear_value x2
      extract_lets +onlyGivenNames x3
      clear_value x3
      extract_lets +onlyGivenNames x4
      clear_value x4
      refine Keeps.ite ?_ ?_
      · exact State.enterTitle_keeps (by assumption)
      · assumption
    · rename_i y5
      assumption

theorem State.importSnap_keeps {s0 s : State} {a0 a1 a2 a3 a4 a5} (h : Keeps s0 s) : Keeps s0 (State.importSnap s a0 a1 a2 a3 a4 a5).1 := by
  unfold State.importSnap
  split
  · rename_i y0 y1 y2 y3
    dsimp only
    assumption
  · rename_i y4 y5 y6
    dsimp only
    refine Keeps.fst y6 ?_
    refine State.importHere_keeps ?_
    exact State.obtainTitle_keeps (by assumption)

theorem cmdSnapshotImport_keeps {s0 s : State} {a0 a1 a2} (h : Keeps s0 s) : Keeps s0 (cmdSnapshotImport a0 a1 a2 s).1 := by
  unfold cmdSnapshotImport
  split
  · rename_i y0 y1
    dsimp only
    assumption
  · rename_i y2 y3 y4
    split
    · rename_i y5
      dsimp only
      assumption
    · rename_i y6
      split
      · rename_i y7 y8
        dsimp only
        assumption
      · rename_i y9 y10 y11 y12
        split
        · rename_i y13 y14 y15 y16
          dsimp only
          refine Keeps.fst (by assumption) ?_
          exact State.importSnap_keeps (by assumption)
        · rename_i y17 y18 y19
          dsimp only
          refine Keeps.fst (by assumption) ?_
          exact State.importSnap_keeps (by assumption)

theorem State.sendImage_keeps {s0 s : State} {a1 a2} (h : Keeps s0 s) : Keeps s0 (State.sendImage s a1 a2) := by
  unfold State.sendImage
  exact State.yardSendLong_keeps (by assumption)

theorem cmdMigrate_keeps {s0 s : State} {a0 a1 a2} (h : Keeps s0 s) : Keeps s0 (cmdMigrate a0 a1 a2 s).1 := by
  unfold cmdMigrate
  refine State.withStall_keeps ?_ ?_
  · assumption
  · intro a0
    extract_lets +onlyGivenNames x1
    clear_value x1
    split
    · rename_i y2
      dsimp only
      assumption
    · rename_i y3
      split
      · rename_i y4
        dsimp only
        assumption
      · rename_i y5
        split
        · rename_i y6
          dsimp only
          assumption
        · rename_i y7
          split
          · rename_i y8
            dsimp only
            exact State.sendControl_keeps (by assumption)
          · rename_i y9
            extract_lets +onlyGivenNames x10
            clear_value x10
            extract_lets +onlyGivenNames x11
            have h12 : Keeps s0 x11 := by
              unfold x11
              exact Keeps.upd (s := s) rfl rfl rfl rfl rfl rfl rfl (by assumption)
            clear_value x11
            dsimp only
            refine State.sendImage_keeps ?_
            exact State.sendControl_keeps (by assumption)

theorem checkpointCaptureM_keeps {s0 s : State} {a0} (h : Keeps s0 s) : Keeps s0 (checkpointCaptureM a0 s) := by
  unfold checkpointCaptureM
  refine Keeps.ite ?_ ?_
  · assumption
  · exact checkpointCapture_keeps (by assumption)

theorem checkpointCompleteM_keeps {s0 s : State} {a0} (h : Keeps s0 s) : Keeps s0 (checkpointCompleteM a0 s) := by
  unfold checkpointCompleteM
  extract_lets +onlyGivenNames x0
  have h1 : Keeps s0 x0 := by
    unfold x0
    exact checkpointComplete_keeps (by assumption)
  clear_value x0
  split
  · rename_i y2 y3 y4 y5 y6 y7
    split
    · rename_i y8 y9 y10 y11 y12
      refine Keeps.ite ?_ ?_
      · assumption
      · exact State.sendImage_keeps (by assumption)
    · rename_i y13 y14 y15
      assumption
  · rename_i y16 y17 y18
    assumption

theorem State.forwardFlows_keeps {s0 s : State} {a1 a2 a3} (h : Keeps s0 s) : Keeps s0 (State.forwardFlows s a1 a2 a3) := by
  unfold State.forwardFlows
  refine Keeps.foldl (fun t0 x1 h2 => ?_) _ ?_
  · extract_lets +onlyGivenNames x3
    clear_value x3
    extract_lets +onlyGivenNames x4
    have h5 : Keeps s0 x4 := by
      unfold x4
      exact State.setFlow_keeps (by assumption)
    clear_value x4
    refine State.onFlow_keeps ?_ ?_
    · assumption
    · intro a6 a7 a8
      exact State.setFlow_keeps (by assumption)
  · assumption

theorem migrationPark_keeps {s0 s : State} {a0} (h : Keeps s0 s) : Keeps s0 (migrationPark a0 s) := by
  unfold migrationPark
  split
  · rename_i y0 y1 y2 y3 y4 y5
    refine Keeps.ite ?_ ?_
    · extract_lets +onlyGivenNames x6
      refine Keeps.ite ?_ ?_
      · refine State.endMig_keeps ?_
        exact State.setMig_keeps (by assumption)
      · exact State.setMig_keeps (by assumption)
    · extract_lets +onlyGivenNames x7
      clear_value x7
      extract_lets +onlyGivenNames x8
      have h9 : Keeps s0 x8 := by
        unfold x8
        exact State.park_keeps (by assumption)
      clear_value x8
      extract_lets +onlyGivenNames x10
      have h11 : Keeps s0 x10 := by
        unfold x10
        exact State.onStall_keeps (by assumption)
      clear_value x10
      extract_lets +onlyGivenNames x12
      have h13 : Keeps s0 x12 := by
        unfold x12
        exact State.setMig_keeps (by assumption)
      clear_value x12
      extract_lets +onlyGivenNames x14
      have h15 : Keeps s0 x14 := by
        unfold x14
        split
        · rename_i y16 y17 y18 y19 y20 y21
          exact State.sendImage_keeps (by assumption)
        · rename_i y22 y23 y24
          assumption
      clear_value x14
      exact State.forwardFlows_keeps (by assumption)
  · rename_i y25 y26 y27
    assumption

theorem State.admitEarly_keeps {s0 s : State} {a0} (h : Keeps s0 s) : Keeps s0 (State.admitEarly s a0) := by
  unfold State.admitEarly
  extract_lets +onlyGivenNames x0
  clear_value x0
  refine Keeps.foldl (fun a1 a2 h3 => ?_) _ ?_
  · exact State.latchAt_keeps (by assumption)
  · exact Keeps.upd (s := s) rfl rfl rfl rfl rfl rfl rfl (by assumption)

theorem migrateReady_keeps {s0 s : State} {a0 a1 a2 a3 a4 a5 a6} (h : Keeps s0 s) : Keeps s0 (migrateReady a0 a1 a2 a3 a4 a5 a6 s) := by
  unfold migrateReady
  refine Keeps.ite ?_ ?_
  · split
    · rename_i y0 y1 y2
      refine Keeps.ite ?_ ?_
      · refine Keeps.ite ?_ ?_
        · refine State.sendControl_keeps ?_
          exact State.setMig_keeps (by assumption)
        · exact State.endMig_keeps (by assumption)
      · assumption
    · rename_i y3 y4
      assumption
  · refine Keeps.ite ?_ ?_
    · assumption
    · split
      · rename_i y5 y6
        exact State.sendControl_keeps (by assumption)
      · rename_i y7 y8 y9 y10
        split
        · rename_i y11 y12 y13 y14
          refine State.sendControl_keeps ?_
          refine Keeps.fst y14 ?_
          exact State.importSnap_keeps (by assumption)
        · rename_i y15 y16 y17
          extract_lets +onlyGivenNames x18
          clear_value x18
          refine State.admitEarly_keeps ?_
          refine State.sendControl_keeps ?_
          refine Keeps.upd (s := y16) rfl rfl rfl rfl rfl rfl rfl ?_
          refine Keeps.fst y17 ?_
          exact State.importSnap_keeps (by assumption)

theorem migrateCommit_keeps {s0 s : State} {a0} (h : Keeps s0 s) : Keeps s0 (migrateCommit a0 s) := by
  unfold migrateCommit
  split
  · rename_i y0 y1 y2
    refine State.sendControl_keeps ?_
    refine State.raise_keeps ?_
    refine State.unpark_keeps ?_
    exact State.dropMig_keeps (by assumption)
  · rename_i y3 y4
    assumption

end Sys2Proof.Machine
end

