-- ==== Sys2Proof/Laws/KeepsBus.lean ====
section
/-! SUPPORT. `Keeps` for debug, the command rings, the register file and the start of firmware: one lemma for each
operation, in the form that a chain of them composes (what held of the state before holds of the state after). -/
set_option linter.unusedVariables false
namespace Sys2Proof.Machine

theorem commitAck_keeps {s0 s : State} {a0} (h : Keeps s0 s) : Keeps s0 (commitAck a0 s) := by
  unfold commitAck
  split
  · rename_i y0 y1 y2
    refine Keeps.ite ?_ ?_
    · refine State.notice_keeps ?_
      refine State.raise_keeps ?_
      refine State.enforceLevel_keeps ?_
      refine State.destroyStall_keeps ?_
      exact State.dropMig_keeps (by assumption)
    · assumption
  · rename_i y3 y4
    assumption

theorem cmdMigrateResolve_keeps {s0 s : State} {a0 a1 a2} (h : Keeps s0 s) : Keeps s0 (cmdMigrateResolve a0 a1 a2 s).1 := by
  unfold cmdMigrateResolve
  refine State.withStall_keeps ?_ ?_
  · assumption
  · intro a0
    split
    · rename_i y1 y2 y3
      split
      · rename_i y4
        dsimp only
        assumption
      · rename_i y5
        split
        · rename_i y6
          dsimp only
          refine State.enforceLevel_keeps ?_
          refine State.destroyStall_keeps ?_
          exact State.dropMig_keeps (by assumption)
        · rename_i y7
          dsimp only
          refine State.unpark_keeps ?_
          refine State.restoreFlows_keeps ?_
          exact State.dropMig_keeps (by assumption)
    · rename_i y8 y9
      dsimp only
      assumption

theorem State.deny_keeps {s0 s : State} {a1} (h : Keeps s0 s) : Keeps s0 (State.deny s a1) := by
  unfold State.deny
  refine State.put_keeps ?_
  exact State.inc_keeps (by assumption)

theorem State.dbgGate_keeps {s0 s : State} {a1 a2} (h : Keeps s0 s) (ha2 : ∀ t, Keeps s0 t → Keeps s0 (a2 t)) : Keeps s0 (State.dbgGate s a1 a2) := by
  unfold State.dbgGate
  refine Keeps.ite ?_ ?_
  · assumption
  · refine Keeps.ite ?_ ?_
    · exact ha2 _ (by assumption)
    · exact State.deny_keeps (by assumption)

theorem dbgNonce_keeps {s0 s : State} (h : Keeps s0 s) : Keeps s0 (dbgNonce s) := by
  unfold dbgNonce
  extract_lets +onlyGivenNames x0
  clear_value x0
  refine Keeps.ite ?_ ?_
  · assumption
  · split
    rename_i y1 y2 y3 y4
    extract_lets +onlyGivenNames x5
    have h6 : Keeps s0 x5 := by
      unfold x5
      refine Keeps.foldl (fun t7 x8 h9 => ?_) _ ?_
      · exact State.put_keeps (by assumption)
      · refine Keeps.snd (by assumption) ?_
        exact State.freeBytes_keeps (by assumption)
    clear_value x5
    exact Keeps.upd (s := x5) rfl rfl rfl rfl rfl rfl rfl (by assumption)

theorem State.unlockFailed_keeps {s0 s : State} (h : Keeps s0 s) : Keeps s0 (State.unlockFailed s) := by
  unfold State.unlockFailed
  extract_lets +onlyGivenNames x0
  clear_value x0
  extract_lets +onlyGivenNames x1
  have h2 : Keeps s0 x1 := by
    unfold x1
    exact State.put_keeps (by assumption)
  clear_value x1
  extract_lets +onlyGivenNames x3
  have h4 : Keeps s0 x3 := by
    unfold x3
    refine Keeps.ite ?_ ?_
    · exact State.put_keeps (by assumption)
    · assumption
  clear_value x3
  exact Keeps.upd (s := x3) rfl rfl rfl rfl rfl rfl rfl (by assumption)

theorem State.spendNonce_keeps {s0 s : State} (h : Keeps s0 s) : Keeps s0 (State.spendNonce s) := by
  unfold State.spendNonce
  extract_lets +onlyGivenNames x0
  have h1 : Keeps s0 x0 := by
    unfold x0
    refine Keeps.foldl (fun t2 x3 h4 => ?_) _ ?_
    · exact State.put_keeps (by assumption)
    · assumption
  clear_value x0
  exact Keeps.upd (s := x0) rfl rfl rfl rfl rfl rfl rfl (by assumption)

theorem dbgUnlock_keeps {s0 s : State} {a0} (h : Keeps s0 s) : Keeps s0 (dbgUnlock a0 s) := by
  unfold dbgUnlock
  refine Keeps.ite ?_ ?_
  · assumption
  · refine Keeps.ite ?_ ?_
    · extract_lets +onlyGivenNames x0
      have h1 : Keeps s0 x0 := by
        unfold x0
        exact State.spendNonce_keeps (by assumption)
      clear_value x0
      extract_lets +onlyGivenNames x2
      have h3 : Keeps s0 x2 := by
        unfold x2
        refine Keeps.ite ?_ ?_
        · exact Keeps.upd (s := x0) rfl rfl rfl rfl rfl rfl rfl (by assumption)
        · assumption
      clear_value x2
      refine State.enforceLevel_keeps ?_
      exact State.put_keeps (by assumption)
    · refine State.unlockFailed_keeps ?_
      exact State.spendNonce_keeps (by assumption)

theorem dbgLock_keeps {s0 s : State} (h : Keeps s0 s) : Keeps s0 (dbgLock s) := by
  unfold dbgLock
  refine Keeps.ite ?_ ?_
  · assumption
  · refine State.enforceLevel_keeps ?_
    exact State.put_keeps (by assumption)

theorem nonceExpiry_keeps {s0 s : State} (h : Keeps s0 s) : Keeps s0 (nonceExpiry s) := by
  unfold nonceExpiry
  split
  · rename_i y0 y1 y2
    refine Keeps.ite ?_ ?_
    · exact Keeps.upd (s := s) rfl rfl rfl rfl rfl rfl rfl (by assumption)
    · assumption
  · rename_i y3 y4
    assumption

theorem cmdDebugToken_keeps {s0 s : State} {a0 a1 a2} (h : Keeps s0 s) : Keeps s0 (cmdDebugToken a0 a1 a2 s).1 := by
  unfold cmdDebugToken
  refine State.withStall_keeps ?_ ?_
  · assumption
  · intro a2
    extract_lets +onlyGivenNames x3
    clear_value x3
    extract_lets +onlyGivenNames x4
    clear_value x4
    split
    · rename_i y5
      dsimp only
      exact State.setStall_keeps (by assumption)
    · rename_i y6
      dsimp only
      exact State.unlockFailed_keeps (by assumption)

theorem cmdDebugRevoke_keeps {s0 s : State} {a0 a1 a2} (h : Keeps s0 s) : Keeps s0 (cmdDebugRevoke a0 a1 a2 s).1 := by
  unfold cmdDebugRevoke
  refine State.withStall_keeps ?_ ?_
  · assumption
  · intro a0
    dsimp only
    refine State.enforceLevel_keeps ?_
    exact State.setStall_keeps (by assumption)

theorem State.damEnd_keeps {s0 s : State} {a1 a2} (h : Keeps s0 s) : Keeps s0 (State.damEnd s a1 a2) := by
  unfold State.damEnd
  extract_lets +onlyGivenNames x0
  have h1 : Keeps s0 x0 := by
    unfold x0
    exact State.puts_keeps (by assumption)
  clear_value x0
  split
  · rename_i y2 y3
    exact State.put_keeps (by assumption)
  · rename_i y4
    assumption

theorem State.damStall_keeps {s0 s : State} {a1 a2} (h : Keeps s0 s) : Keeps s0 (State.damStall s a1 a2) := by
  unfold State.damStall
  extract_lets +onlyGivenNames x0
  have h1 : Keeps s0 x0 := by
    unfold x0
    exact State.drainOf_keeps (by assumption)
  clear_value x0
  extract_lets +onlyGivenNames x2
  clear_value x2
  extract_lets +onlyGivenNames x3
  clear_value x3
  extract_lets +onlyGivenNames x4
  clear_value x4
  extract_lets +onlyGivenNames x5
  clear_value x5
  refine Keeps.ite ?_ ?_
  · refine Keeps.ite ?_ ?_
    · exact State.damEnd_keeps (by assumption)
    · refine Keeps.ite ?_ ?_
      · exact State.damEnd_keeps (by assumption)
      · refine Keeps.ite ?_ ?_
        · exact State.damEnd_keeps (by assumption)
        · refine State.damEnd_keeps ?_
          exact State.setStall_keeps (by assumption)
  · refine Keeps.ite ?_ ?_
    · exact State.damEnd_keeps (by assumption)
    · refine Keeps.ite ?_ ?_
      · exact State.damEnd_keeps (by assumption)
      · extract_lets +onlyGivenNames x6
        clear_value x6
        extract_lets +onlyGivenNames x7
        clear_value x7
        extract_lets +onlyGivenNames x8
        have h9 : Keeps s0 x8 := by
          unfold x8
          exact State.setStall_keeps (by assumption)
        clear_value x8
        extract_lets +onlyGivenNames x10
        clear_value x10
        extract_lets +onlyGivenNames x11
        have h12 : Keeps s0 x11 := by
          unfold x11
          refine Keeps.ite ?_ ?_
          · exact State.setStall_keeps (by assumption)
          · assumption
        clear_value x11
        exact State.damEnd_keeps (by assumption)

theorem State.damDevice_keeps {s0 s : State} {a1 a2} (h : Keeps s0 s) (hrd : ∀ t x n, Keeps s0 t → Keeps s0 (a1.rd t x n).2) (hwr : ∀ t x bs, Keeps s0 t → Keeps s0 (a1.wr t x bs)) : Keeps s0 (State.damDevice s a1 a2) := by
  unfold State.damDevice
  extract_lets +onlyGivenNames x0
  clear_value x0
  extract_lets +onlyGivenNames x1
  clear_value x1
  extract_lets +onlyGivenNames x2
  clear_value x2
  refine Keeps.ite ?_ ?_
  · exact State.damEnd_keeps (by assumption)
  · refine Keeps.ite ?_ ?_
    · exact State.damEnd_keeps (by assumption)
    · refine Keeps.ite ?_ ?_
      · exact State.damEnd_keeps (by assumption)
      · refine Keeps.ite ?_ ?_
        · split
          · rename_i y3 y4 y5
            refine State.damEnd_keeps ?_
            refine devWrite_keeps ?_ ?_ _ (by assumption)
            · assumption
            · intro a6 a7 a8 a9
              exact hwr _ _ _ (by assumption)
          · rename_i y10 y11 y12
            exact State.damEnd_keeps (by assumption)
        · refine Keeps.ite ?_ ?_
          · exact State.damEnd_keeps (by assumption)
          · split
            · rename_i y13 y14 y15 y16
              refine State.damEnd_keeps ?_
              refine devRead_keeps ?_ ?_ _ (by assumption)
              · assumption
              · intro a17 a18 a19 a20
                exact hrd _ _ _ (by assumption)
            · rename_i y21 y22 y23
              exact State.damEnd_keeps (by assumption)

theorem State.damHalted_keeps {s0 s : State} {a0 a1} (h : Keeps s0 s) : Keeps s0 (State.damHalted s a0 a1) := by
  unfold State.damHalted
  refine Keeps.ite ?_ ?_
  · exact State.put_keeps (by assumption)
  · exact State.damStall_keeps (by assumption)

theorem State.damGo_keeps {s0 s : State} {a1 a2 a3} (h : Keeps s0 s) (hrd : ∀ t x n, Keeps s0 t → Keeps s0 (a1.rd t x n).2) (hwr : ∀ t x bs, Keeps s0 t → Keeps s0 (a1.wr t x bs)) : Keeps s0 (State.damGo s a1 a2 a3) := by
  unfold State.damGo
  refine Keeps.ite ?_ ?_
  · refine State.damDevice_keeps ?_ ?_ ?_
    · assumption
    · intro a0 a1 a2 a3
      exact hrd _ _ _ (by assumption)
    · intro a4 a5 a6 a7
      exact hwr _ _ _ (by assumption)
  · extract_lets +onlyGivenNames x8
    clear_value x8
    refine Keeps.ite ?_ ?_
    · exact State.damEnd_keeps (by assumption)
    · refine Keeps.ite ?_ ?_
      · exact State.damEnd_keeps (by assumption)
      · split
        · rename_i y9 y10
          exact State.damEnd_keeps (by assumption)
        · rename_i y11 y12 y13
          refine Keeps.ite ?_ ?_
          · exact State.damHalted_keeps (by assumption)
          · exact State.put_keeps (by assumption)

theorem damAccess_keeps {s0 s : State} {a0 a1 a2} (h : Keeps s0 s) (hrd : ∀ t x n, Keeps s0 t → Keeps s0 (a0.rd t x n).2) (hwr : ∀ t x bs, Keeps s0 t → Keeps s0 (a0.wr t x bs)) : Keeps s0 (damAccess a0 a1 a2 s) := by
  unfold damAccess
  refine State.dbgGate_keeps ?_ ?_
  · assumption
  · intro a0 a1
    refine Keeps.ite ?_ ?_
    · assumption
    · refine State.damGo_keeps ?_ ?_ ?_
      · assumption
      · intro a2 a3 a4 a5
        exact hrd _ _ _ (by assumption)
      · intro a6 a7 a8 a9
        exact hwr _ _ _ (by assumption)

theorem damStallAccess_keeps {s0 s : State} {a0} (h : Keeps s0 s) : Keeps s0 (damStallAccess a0 s) := by
  unfold damStallAccess
  extract_lets +onlyGivenNames x0
  clear_value x0
  refine Keeps.ite ?_ ?_
  · assumption
  · split
    · rename_i y1 y2
      exact State.damEnd_keeps (by assumption)
    · rename_i y3 y4 y5
      refine Keeps.ite ?_ ?_
      · exact State.damEnd_keeps (by assumption)
      · refine Keeps.ite ?_ ?_
        · exact State.damHalted_keeps (by assumption)
        · split
          · rename_i y6 y7
            assumption
          · rename_i y8 y9 y10 y11
            extract_lets +onlyGivenNames x12
            clear_value x12
            extract_lets +onlyGivenNames x13
            clear_value x13
            extract_lets +onlyGivenNames x14
            clear_value x14
            refine Keeps.ite ?_ ?_
            · assumption
            · refine Keeps.ite ?_ ?_
              · assumption
              · refine Keeps.ite ?_ ?_
                · assumption
                · exact State.damStall_keeps (by assumption)

theorem State.runCtl_keeps {s0 s : State} {a1 a2} (h : Keeps s0 s) (ha2 : ∀ y0 t, Keeps s0 t → Keeps s0 (a2 y0 t)) : Keeps s0 (State.runCtl s a1 a2) := by
  unfold State.runCtl
  refine State.dbgGate_keeps ?_ ?_
  · assumption
  · intro a0 a1
    extract_lets +onlyGivenNames x2
    have h3 : Keeps s0 x2 := by
      unfold x2
      exact State.put_keeps (by assumption)
    clear_value x2
    split
    · rename_i y4 y5 y6
      refine Keeps.ite ?_ ?_
      · exact ha2 _ _ (by assumption)
      · exact State.deny_keeps (by assumption)
    · rename_i y7 y8
      assumption

theorem State.halt_keeps {s0 s : State} {a1 a2} (h : Keeps s0 s) : Keeps s0 (State.halt s a1 a2) := by
  unfold State.halt
  refine Keeps.ite ?_ ?_
  · assumption
  · refine Keeps.ite ?_ ?_
    · exact State.setStall_keeps (by assumption)
    · exact askHalt_keeps (by assumption)

theorem dbgSctlHalt_keeps {s0 s : State} {a0 a1} (h : Keeps s0 s) : Keeps s0 (dbgSctlHalt a0 a1 s) := by
  unfold dbgSctlHalt
  refine State.runCtl_keeps ?_ ?_
  · assumption
  · intro a0 a1 a2
    exact State.halt_keeps (by assumption)

theorem dbgSctlResume_keeps {s0 s : State} {a0} (h : Keeps s0 s) : Keeps s0 (dbgSctlResume a0 s) := by
  unfold dbgSctlResume
  refine State.runCtl_keeps ?_ ?_
  · assumption
  · intro a0 a1 a2
    exact State.setStall_keeps (by assumption)

theorem dbgSctlStep_keeps {s0 s : State} {a0} (h : Keeps s0 s) : Keeps s0 (dbgSctlStep a0 s) := by
  unfold dbgSctlStep
  refine State.runCtl_keeps ?_ ?_
  · assumption
  · intro a0 a1 a2
    refine Keeps.ite ?_ ?_
    · exact State.setStall_keeps (by assumption)
    · assumption

theorem State.fed_keeps {s0 s : State} {a0 a1 a2 a3} (h : Keeps s0 s) : Keeps s0 (State.fed s a0 a1 a2 a3) := by
  unfold State.fed
  extract_lets +onlyGivenNames x0
  clear_value x0
  split
  rename_i y1 y2 y3 y4
  extract_lets +onlyGivenNames x5
  clear_value x5
  refine Keeps.ite ?_ ?_
  · assumption
  · refine State.setStall_keeps ?_
    exact State.buffer_keeps (by assumption)

theorem State.feedWith_keeps {s0 s : State} {a0 a1 a2 a3 a4} (h : Keeps s0 s) : Keeps s0 (State.feedWith s a0 a1 a2 a3 a4) := by
  unfold State.feedWith
  split
  · rename_i y0 y1
    exact State.put_keeps (by assumption)
  · rename_i y2 y3
    refine Keeps.ite ?_ ?_
    · exact State.put_keeps (by assumption)
    · exact State.fed_keeps (by assumption)

theorem State.feed_keeps {s0 s : State} {a1 a2 a3} (h : Keeps s0 s) : Keeps s0 (State.feed s a1 a2 a3) := by
  unfold State.feed
  extract_lets +onlyGivenNames x0
  clear_value x0
  exact State.feedWith_keeps (by assumption)

theorem dbgSctlFeed_keeps {s0 s : State} {a0 a1} (h : Keeps s0 s) : Keeps s0 (dbgSctlFeed a0 a1 s) := by
  unfold dbgSctlFeed
  refine State.runCtl_keeps ?_ ?_
  · assumption
  · intro a0 a1 a2
    extract_lets +onlyGivenNames x3
    have h4 : Keeps s0 x3 := by
      unfold x3
      exact State.put_keeps (by assumption)
    clear_value x3
    refine Keeps.ite ?_ ?_
    · assumption
    · refine Keeps.ite ?_ ?_
      · exact State.put_keeps (by assumption)
      · split
        · rename_i y5 y6 y7 y8
          exact State.feed_keeps (by assumption)
        · rename_i y9 y10
          assumption

theorem State.freezeStall_keeps {s0 s : State} {a1} (h : Keeps s0 s) : Keeps s0 (State.freezeStall s a1) := by
  unfold State.freezeStall
  split
  · rename_i y0 y1 y2
    refine Keeps.ite ?_ ?_
    · assumption
    · refine Keeps.ite ?_ ?_
      · refine State.setStall_keeps ?_
        exact Keeps.upd (s := s) rfl rfl rfl rfl rfl rfl rfl (by assumption)
      · refine haltStall_keeps ?_
        exact Keeps.upd (s := s) rfl rfl rfl rfl rfl rfl rfl (by assumption)
  · rename_i y3 y4
    assumption

theorem dbgFreeze_keeps {s0 s : State} {a0} (h : Keeps s0 s) : Keeps s0 (dbgFreeze a0 s) := by
  unfold dbgFreeze
  refine State.dbgGate_keeps ?_ ?_
  · assumption
  · intro a0 a1
    refine Keeps.ite ?_ ?_
    · refine Keeps.ite ?_ ?_
      · exact State.unfreeze_keeps (by assumption)
      · exact State.put_keeps (by assumption)
    · refine Keeps.ite ?_ ?_
      · extract_lets +onlyGivenNames x2
        have h3 : Keeps s0 x2 := by
          unfold x2
          refine Keeps.foldl (fun a4 a5 h6 => ?_) _ ?_
          · exact State.freezeStall_keeps (by assumption)
          · exact Keeps.upd (s := a0) rfl rfl rfl rfl rfl rfl rfl (by assumption)
        clear_value x2
        refine State.toMode_keeps ?_
        exact State.puts_keeps (by assumption)
      · exact State.put_keeps (by assumption)

theorem dbgMpctl_keeps {s0 s : State} {a0 a1} (h : Keeps s0 s) : Keeps s0 (dbgMpctl a0 a1 s) := by
  unfold dbgMpctl
  refine State.dbgGate_keeps ?_ ?_
  · assumption
  · intro a0 a1
    extract_lets +onlyGivenNames x2
    have h3 : Keeps s0 x2 := by
      unfold x2
      refine Keeps.ite ?_ ?_
      · exact State.haltMp_keeps (by assumption)
      · exact State.releaseMp_keeps (by assumption)
    clear_value x2
    refine Keeps.ite ?_ ?_
    · exact State.haltMp_keeps (by assumption)
    · exact State.releaseMp_keeps (by assumption)

theorem otpAdvance_keeps {s0 s : State} {n} (h : Keeps s0 s) : Keeps s0 (otpAdvance n s) := by
  unfold otpAdvance
  refine State.dbgGate_keeps h fun t ht => ?_
  extract_lets most
  refine Keeps.ite (State.put_keeps ht) ?_
  exact ⟨ht.1, ht.2, ht.3, ht.4, ht.5, Nat.le_trans ht.6 (Nat.le_max_left _ _), ht.7⟩

theorem otpRevoke_keeps {s0 s : State} {n} (h : Keeps s0 s) : Keeps s0 (otpRevoke n s) := by
  unfold otpRevoke
  refine State.dbgGate_keeps h fun t ht => ?_
  refine Keeps.ite (State.put_keeps ht) ?_
  exact ⟨ht.1, ht.2, ht.3, ht.4, ht.5, ht.6, fun k hk => bitAt_or_left (ht.7 k hk)⟩

theorem State.tap_keeps {s0 s : State} {a1 a2} (h : Keeps s0 s) : Keeps s0 (State.tap s a1 a2) := by
  unfold State.tap
  exact Keeps.upd (s := s) rfl rfl rfl rfl rfl rfl rfl (by assumption)

theorem State.tapScan_keeps {s0 s : State} {a1} (h : Keeps s0 s) : Keeps s0 (State.tapScan s a1) := by
  unfold State.tapScan
  split
  rename_i y0 y1 y2 y3
  refine State.tap_keeps ?_
  refine Keeps.snd (by assumption) ?_
  exact State.draw_keeps (by assumption)

theorem tapIdcode_keeps {s0 s : State} (h : Keeps s0 s) : Keeps s0 (tapIdcode s) := by
  unfold tapIdcode
  exact State.tap_keeps (by assumption)

theorem tapBypass_keeps {s0 s : State} (h : Keeps s0 s) : Keeps s0 (tapBypass s) := by
  unfold tapBypass
  exact State.tap_keeps (by assumption)

theorem tapSample_keeps {s0 s : State} (h : Keeps s0 s) : Keeps s0 (tapSample s) := by
  unfold tapSample
  exact State.tapScan_keeps (by assumption)

theorem tapExtest_keeps {s0 s : State} (h : Keeps s0 s) : Keeps s0 (tapExtest s) := by
  unfold tapExtest
  refine Keeps.ite ?_ ?_
  · exact State.tapScan_keeps (by assumption)
  · exact tapBypass_keeps (by assumption)

theorem tapClamp_keeps {s0 s : State} (h : Keeps s0 s) : Keeps s0 (tapClamp s) := by
  unfold tapClamp
  refine Keeps.ite ?_ ?_
  · exact State.tap_keeps (by assumption)
  · exact tapBypass_keeps (by assumption)

theorem tapHighz_keeps {s0 s : State} (h : Keeps s0 s) : Keeps s0 (tapHighz s) := by
  unfold tapHighz
  refine Keeps.ite ?_ ?_
  · exact State.tap_keeps (by assumption)
  · exact tapBypass_keeps (by assumption)

theorem tapDbgreg_keeps {s0 s : State} {a0 a1 a2 a3} (h : Keeps s0 s) (ha0 : ∀ y0 y1 t, Keeps s0 t → Keeps s0 (a0 y0 y1 t)) : Keeps s0 (tapDbgreg a0 a1 a2 a3 s) := by
  unfold tapDbgreg
  extract_lets +onlyGivenNames x0
  clear_value x0
  refine Keeps.ite ?_ ?_
  · refine State.tap_keeps ?_
    exact ha0 _ _ _ (by assumption)
  · extract_lets +onlyGivenNames x1
    clear_value x1
    exact State.tap_keeps (by assumption)

theorem debugCoreReset_keeps {s0 s : State} {a0} (h : Keeps s0 s) : Keeps s0 (debugCoreReset a0 s) := by
  unfold debugCoreReset
  extract_lets +onlyGivenNames x0
  unfold x0
  refine Keeps.ite ?_ ?_
  · refine State.tap_keeps ?_
    refine State.resetRange_keeps ?_
    exact State.resetRange_keeps (by assumption)
  · refine State.dbgGate_keeps ?_ ?_
    · assumption
    · intro a1 a2
      refine State.tap_keeps ?_
      refine State.resetRange_keeps ?_
      exact State.resetRange_keeps (by assumption)

theorem cnfEnd_keeps {s0 s : State} (h : Keeps s0 s) : Keeps s0 (cnfEnd s) := by
  unfold cnfEnd
  refine Keeps.ite ?_ ?_
  · refine Keeps.ite ?_ ?_
    · exact State.enterServe_keeps (by assumption)
    · exact State.put_keeps (by assumption)
  · assumption

theorem serveForm_keeps {s0 s : State} {a0 a1 a2 a3 a4 a5} (h : Keeps s0 s) (ha1 : ∀ y0 y1 y2 t, Keeps s0 t → Keeps s0 (a1 y0 y1 y2 t).1) : Keeps s0 (serveForm a0 a1 a2 a3 a4 a5 s).1 := by
  unfold serveForm
  split
  · rename_i y0
    dsimp only
    assumption
  · rename_i y1
    split
    · rename_i y2
      dsimp only
      assumption
    · rename_i y3
      exact ha1 _ _ _ _ (by assumption)

theorem catalogue_keeps {s0 s : State} {code e d n f c} (h : Keeps s0 s) (hc : catalogue code = some (f, c)) : Keeps s0 (c e d n s).1 := by
  unfold catalogue at hc
  split at hc
  · cases hc; exact cmdIdentify_keeps h
  · cases hc; exact cmdFwStatus_keeps h
  · cases hc; exact cmdLogRead_keeps h
  · cases hc; exact cmdDeviceReset_keeps h
  · cases hc; exact cmdAbortToBoot_keeps h
  · cases hc; exact cmdFwBegin_keeps h
  · cases hc; exact cmdFwCommit_keeps h
  · cases hc; exact cmdModeSet_keeps h
  · cases hc; exact cmdDeviceSet_keeps h
  · cases hc; exact cmdSetSplit_keeps h
  · cases hc; exact cmdRingCreate_keeps h
  · cases hc; exact cmdTitleRegister_keeps h
  · cases hc; exact cmdTitleRemove_keeps h
  · cases hc; exact cmdPageSupply_keeps h
  · cases hc; exact cmdStallCreate_keeps h
  · cases hc; exact cmdStallStart_keeps h
  · cases hc; exact cmdStallPark_keeps h
  · cases hc; exact cmdStallResume_keeps h
  · cases hc; exact cmdStallReset_keeps h
  · cases hc; exact cmdStallSet_keeps h
  · cases hc; exact cmdStallMove_keeps h
  · cases hc; exact cmdStallDestroy_keeps h
  · cases hc; exact cmdStallQuery_keeps h
  · cases hc; exact cmdSubchAssign_keeps h
  · cases hc; exact cmdLinkPeer_keeps h
  · cases hc; exact cmdResumeFromCheckpoint_keeps h
  · cases hc; exact cmdStreamConfig_keeps h
  · cases hc; exact cmdStreamNet_keeps h
  · cases hc; exact cmdCourseSet_keeps h
  · cases hc; exact cmdRegionSet_keeps h
  · cases hc; exact cmdStreamCommit_keeps h
  · cases hc; exact cmdStreamKeyframe_keeps h
  · cases hc; exact cmdStreamQuery_keeps h
  · cases hc; exact cmdStreamDestroy_keeps h
  · cases hc; exact cmdLaneConfig_keeps h
  · cases hc; exact cmdLaneOpwr_keeps h
  · cases hc; exact cmdGraphLoad_keeps h
  · cases hc; exact cmdKeySet_keeps h
  · cases hc; exact cmdFlowSet_keeps h
  · cases hc; exact cmdFlowClear_keeps h
  · cases hc; exact cmdYardSet_keeps h
  · cases hc; exact cmdAddrSet_keeps h
  · cases hc; exact cmdRouteSet_keeps h
  · cases hc; exact cmdMigrate_keeps h
  · cases hc; exact cmdMigrateResolve_keeps h
  · cases hc; exact cmdSnapshotExport_keeps h
  · cases hc; exact cmdSnapshotImport_keeps h
  · cases hc; exact cmdDebugToken_keeps h
  · cases hc; exact cmdDebugRevoke_keeps h
  · cases hc

theorem serve_keeps {s0 s : State} {code ring e d n} (h : Keeps s0 s) : Keeps s0 (serve code ring e d n s).1 := by
  unfold serve
  split
  · rename_i f c hc
    unfold serveForm
    split
    · exact h
    · split
      · exact h
      · exact catalogue_keeps h hc
  · exact h

theorem afterServe_keeps {s0 s : State} {a0 a1 a2} (h : Keeps s0 s) : Keeps s0 (afterServe a0 a1 a2 s) := by
  unfold afterServe
  refine Keeps.ite ?_ ?_
  · exact State.enterSlumber_keeps (by assumption)
  · assumption

theorem State.serveMail_keeps {s0 s : State} {a1 a2} (h : Keeps s0 s) (ha1 : ∀ y0 y1 y2 t, Keeps s0 t → Keeps s0 (a1 y0 y1 y2 t).1) : Keeps s0 (State.serveMail s a1 a2) := by
  unfold State.serveMail
  extract_lets +onlyGivenNames x0
  clear_value x0
  extract_lets +onlyGivenNames x1
  clear_value x1
  extract_lets +onlyGivenNames x2
  clear_value x2
  extract_lets +onlyGivenNames x3
  clear_value x3
  split
  rename_i y4 y5 y6 y7
  extract_lets +onlyGivenNames x8
  have h9 : Keeps s0 x8 := by
    unfold x8
    refine Keeps.ite ?_ ?_
    · refine State.wipeRequest_keeps ?_
      refine Keeps.fst y7 ?_
      split
      · rename_i y10
        dsimp only
        exact State.takeReq_keeps (by assumption)
      · rename_i y11
        refine ha1 _ _ _ _ ?_
        exact State.takeReq_keeps (by assumption)
    · refine Keeps.fst y7 ?_
      split
      · rename_i y12
        dsimp only
        exact State.takeReq_keeps (by assumption)
      · rename_i y13
        refine ha1 _ _ _ _ ?_
        exact State.takeReq_keeps (by assumption)
  clear_value x8
  refine Keeps.ite ?_ ?_
  · assumption
  · refine afterServe_keeps ?_
    exact State.respond_keeps (by assumption)

theorem mbxCmd_keeps {s0 s : State} {a0 a1} (h : Keeps s0 s) : Keeps s0 (mbxCmd a0 a1 s) := by
  unfold mbxCmd
  refine Keeps.ite ?_ ?_
  · split
    · rename_i y0 y1 y2
      exact State.park_keeps (by assumption)
    · rename_i y3 y4
      refine State.serveMail_keeps ?_ ?_
      · assumption
      · intro a5 a6 a7 a8 a9
        exact serve_keeps (by assumption)
  · assumption

theorem unknownCommand_keeps {s0 s : State} (h : Keeps s0 s) : Keeps s0 (unknownCommand s) := by
  unfold unknownCommand
  refine Keeps.ite ?_ ?_
  · refine State.serveMail_keeps ?_ ?_
    · assumption
    · intro a0 a1 a2 a3 a4
      dsimp only
      assumption
  · assumption

theorem m2hData0Read_keeps {s0 s : State} {a0} (h : Keeps s0 s) : Keeps s0 (m2hData0Read a0 s) := by
  unfold m2hData0Read
  extract_lets +onlyGivenNames x0
  have h1 : Keeps s0 x0 := by
    unfold x0
    exact Keeps.upd (s := s) rfl rfl rfl rfl rfl rfl rfl (by assumption)
  refine Keeps.ite ?_ ?_
  · refine State.dueReset_keeps ?_
    exact State.clearMail_keeps (by assumption)
  · assumption

theorem State.setRing_keeps {s0 s : State} {a1} (h : Keeps s0 s) : Keeps s0 (State.setRing s a1) := by
  unfold State.setRing
  exact Keeps.upd (s := s) rfl rfl rfl rfl rfl rfl rfl (by assumption)

theorem State.onRing_keeps {s0 s : State} {a1 a2} (h : Keeps s0 s) (ha2 : ∀ y0 t, Keeps s0 t → Keeps s0 (a2 y0 t)) : Keeps s0 (State.onRing s a1 a2) := by
  unfold State.onRing
  refine Keeps.ite ?_ ?_
  · split
    · rename_i y0 y1 y2
      exact ha2 _ _ (by assumption)
    · rename_i y3 y4
      assumption
  · assumption

theorem State.dbErr_keeps {s0 s : State} {a1} (h : Keeps s0 s) : Keeps s0 (State.dbErr s a1) := by
  unfold State.dbErr
  refine State.put_keeps ?_
  exact State.inc_keeps (by assumption)

theorem rngSqTail_keeps {s0 s : State} {a0 a1} (h : Keeps s0 s) : Keeps s0 (rngSqTail a0 a1 s) := by
  unfold rngSqTail
  refine Keeps.ite ?_ ?_
  · assumption
  · split
    · rename_i y0 y1
      exact State.dbErr_keeps (by assumption)
    · rename_i y2 y3 y4
      refine Keeps.ite ?_ ?_
      · exact State.dbErr_keeps (by assumption)
      · refine State.setRing_keeps ?_
        exact State.put_keeps (by assumption)

theorem rngCqHead_keeps {s0 s : State} {a0 a1} (h : Keeps s0 s) : Keeps s0 (rngCqHead a0 a1 s) := by
  unfold rngCqHead
  refine Keeps.ite ?_ ?_
  · assumption
  · split
    · rename_i y0 y1
      exact State.dbErr_keeps (by assumption)
    · rename_i y2 y3 y4
      refine Keeps.ite ?_ ?_
      · exact State.dbErr_keeps (by assumption)
      · refine State.setRing_keeps ?_
        exact State.put_keeps (by assumption)

theorem sqRepoll_keeps {s0 s : State} {a0} (h : Keeps s0 s) : Keeps s0 (sqRepoll a0 s) := by
  unfold sqRepoll
  refine State.onRing_keeps ?_ ?_
  · assumption
  · intro a0 a1 a2
    refine Keeps.ite ?_ ?_
    · exact State.setRing_keeps (by assumption)
    · assumption

theorem State.takeEntry_keeps {s0 s : State} {a1 a2} (h : Keeps s0 s) : Keeps s0 (State.takeEntry s a1 a2) := by
  unfold State.takeEntry
  extract_lets +onlyGivenNames x0
  clear_value x0
  extract_lets +onlyGivenNames x1
  clear_value x1
  extract_lets +onlyGivenNames x2
  clear_value x2
  extract_lets +onlyGivenNames x3
  have h4 : Keeps s0 x3 := by
    unfold x3
    refine State.put_keeps ?_
    exact State.setRing_keeps (by assumption)
  clear_value x3
  refine Keeps.ite ?_ ?_
  · exact State.puts_keeps (by assumption)
  · exact State.put_keeps (by assumption)

theorem sqEntryFetch_keeps {s0 s : State} {a0 a1} (h : Keeps s0 s) : Keeps s0 (sqEntryFetch a0 a1 s) := by
  unfold sqEntryFetch
  refine State.onRing_keeps ?_ ?_
  · assumption
  · intro a0 a1 a2
    refine Keeps.ite ?_ ?_
    · assumption
    · refine Keeps.ite ?_ ?_
      · exact State.setRing_keeps (by assumption)
      · split
        · rename_i y3
          exact State.setRing_keeps (by assumption)
        · rename_i y4 y5
          extract_lets +onlyGivenNames x6
          clear_value x6
          refine Keeps.ite ?_ ?_
          · exact State.setRing_keeps (by assumption)
          · split
            · rename_i y7 y8
              exact State.takeEntry_keeps (by assumption)
            · rename_i y9 y10
              exact State.failStop_keeps (by assumption)

theorem jobStart_keeps {s0 s : State} {a0} (h : Keeps s0 s) : Keeps s0 (jobStart a0 s) := by
  unfold jobStart
  refine State.onRing_keeps ?_ ?_
  · assumption
  · intro a0 a1 a2
    split
    · rename_i y3 y4
      assumption
    · rename_i y5 y6 y7
      extract_lets +onlyGivenNames x8
      clear_value x8
      refine Keeps.ite ?_ ?_
      · assumption
      · extract_lets +onlyGivenNames x9
        clear_value x9
        extract_lets +onlyGivenNames x10
        clear_value x10
        exact State.setRing_keeps (by assumption)

theorem State.onJob_keeps {s0 s : State} {a1 a2 a3} (h : Keeps s0 s) (ha3 : ∀ y0 t, Keeps s0 t → Keeps s0 (a3 y0 t).2) : Keeps s0 (State.onJob s a1 a2 a3) := by
  unfold State.onJob
  refine State.onRing_keeps ?_ ?_
  · assumption
  · intro a0 a1 a2
    extract_lets +onlyGivenNames x3
    clear_value x3
    split
    · rename_i y4 y5
      assumption
    · rename_i y6 y7 y8
      split
      rename_i y9 y10 y11 y12
      split
      · rename_i y13 y14 y15
        refine State.setRing_keeps ?_
        refine Keeps.snd (by assumption) ?_
        exact ha3 _ _ (by assumption)
      · rename_i y16 y17
        refine Keeps.snd (by assumption) ?_
        exact ha3 _ _ (by assumption)

theorem ringNop_keeps {s0 s : State} {a0} (h : Keeps s0 s) : Keeps s0 (ringNop a0 s) := by
  unfold ringNop
  refine State.onJob_keeps ?_ ?_
  · assumption
  · intro a0 a1 a2
    dsimp only
    assumption

theorem latchInputJob_keeps {s0 s : State} (h : Keeps s0 s) : Keeps s0 (latchInputJob s) := by
  unfold latchInputJob
  refine State.onJob_keeps ?_ ?_
  · assumption
  · intro a0 a1 a2
    dsimp only
    exact State.latchInput_keeps (by assumption)

theorem toDevice_keeps {s0 s : State} {a0 a1} (h : Keeps s0 s) : Keeps s0 (toDevice a0 a1 s) := by
  unfold toDevice
  refine State.onJob_keeps ?_ ?_
  · assumption
  · intro a0 a1 a2
    split
    · rename_i y3 y4
      dsimp only
      assumption
    · rename_i y5 y6 y7 y8 y9
      split
      · rename_i y10
        dsimp only
        assumption
      · rename_i y11
        extract_lets +lift +onlyGivenNames x12
        clear_value x12
        dsimp only
        exact State.devPut_keeps (by assumption)

theorem fromDevice_keeps {s0 s : State} {a0 a1} (h : Keeps s0 s) : Keeps s0 (fromDevice a0 a1 s) := by
  unfold fromDevice
  refine State.onJob_keeps ?_ ?_
  · assumption
  · intro a0 a1 a2
    split
    · rename_i y3 y4
      dsimp only
      assumption
    · rename_i y5 y6 y7 y8 y9
      split
      · rename_i y10
        dsimp only
        assumption
      · rename_i y11
        extract_lets +lift +onlyGivenNames x12
        clear_value x12
        dsimp only
        exact State.hostWrite_keeps (by assumption)

theorem rxBuffer_keeps {s0 s : State} {a0} (h : Keeps s0 s) : Keeps s0 (rxBuffer a0 s) := by
  unfold rxBuffer
  refine State.onRing_keeps ?_ ?_
  · assumption
  · intro a0 a1 a2
    exact State.setRing_keeps (by assumption)

theorem State.hostioFail_keeps {s0 s : State} {a0 a1} (h : Keeps s0 s) : Keeps s0 (State.hostioFail s a0 a1) := by
  unfold State.hostioFail
  exact State.onStall_keeps (by assumption)

theorem hostioTx_keeps {s0 s : State} {a0 a1} (h : Keeps s0 s) : Keeps s0 (hostioTx a0 a1 s) := by
  unfold hostioTx
  refine State.onJob_keeps ?_ ?_
  · assumption
  · intro a0 a1 a2
    split
    · rename_i y3 y4 y5 y6 y7
      extract_lets +lift +onlyGivenNames x8 x9 x10
      clear_value x8
      clear_value x9
      clear_value x10
      split
      · rename_i y11
        dsimp only
        exact State.hostioFail_keeps (by assumption)
      · rename_i y12
        split
        · rename_i y13
          dsimp only
          assumption
        · rename_i y14
          split
          · rename_i y15
            dsimp only
            assumption
          · rename_i y16
            dsimp only
            exact State.setStall_keeps (by assumption)
    · rename_i y17 y18
      dsimp only
      exact State.hostioFail_keeps (by assumption)
    · rename_i y19 y20 y21 y22 y23
      dsimp only
      assumption

theorem State.complete_keeps {s0 s : State} {a1 a2 a3 a4} (h : Keeps s0 s) : Keeps s0 (State.complete s a1 a2 a3 a4) := by
  unfold State.complete
  extract_lets +onlyGivenNames x0
  clear_value x0
  extract_lets +onlyGivenNames x1
  clear_value x1
  extract_lets +onlyGivenNames x2
  have h3 : Keeps s0 x2 := by
    unfold x2
    refine Keeps.ite ?_ ?_
    · exact State.hostWrite_keeps (by assumption)
    · assumption
  clear_value x2
  extract_lets +onlyGivenNames x4
  have h5 : Keeps s0 x4 := by
    unfold x4
    refine Keeps.ite ?_ ?_
    · exact State.puts_keeps (by assumption)
    · exact State.put_keeps (by assumption)
  clear_value x4
  refine Keeps.ite ?_ ?_
  · exact State.msix_keeps (by assumption)
  · assumption

theorem State.completeNext_keeps {s0 s : State} {a1} (h : Keeps s0 s) : Keeps s0 (State.completeNext s a1) := by
  unfold State.completeNext
  split
  · rename_i y0 y1
    assumption
  · rename_i y2 y3 y4
    split
    · rename_i y5 y6 y7
      split
      · rename_i y8 y9 y10 y11
        refine Keeps.ite ?_ ?_
        · assumption
        · refine State.setRing_keeps ?_
          exact State.complete_keeps (by assumption)
      · rename_i y12 y13
        assumption
    · rename_i y14 y15
      assumption

theorem jobComplete_keeps {s0 s : State} {a0} (h : Keeps s0 s) : Keeps s0 (jobComplete a0 s) := by
  unfold jobComplete
  refine State.onRing_keeps ?_ ?_
  · assumption
  · intro a0 a1 a2
    exact State.completeNext_keeps (by assumption)

theorem State.deleteRing_keeps {s0 s : State} {a1} (h : Keeps s0 s) : Keeps s0 (State.deleteRing s a1) := by
  unfold State.deleteRing
  extract_lets +onlyGivenNames x0
  clear_value x0
  extract_lets +onlyGivenNames x1
  have h2 : Keeps s0 x1 := by
    unfold x1
    exact State.setRing_keeps (by assumption)
  clear_value x1
  extract_lets +onlyGivenNames x3
  have h4 : Keeps s0 x3 := by
    unfold x3
    refine Keeps.foldl (fun t5 x6 h7 => ?_) _ ?_
    · exact State.completeNext_keeps (by assumption)
    · assumption
  clear_value x3
  extract_lets +onlyGivenNames x8
  have h9 : Keeps s0 x8 := by
    unfold x8
    exact State.resetRange_keeps (by assumption)
  clear_value x8
  exact Keeps.upd (s := x8) rfl rfl rfl rfl rfl rfl rfl (by assumption)

theorem cmdRingDelete_keeps {s0 s : State} {a0 a1 a2} (h : Keeps s0 s) : Keeps s0 (cmdRingDelete a0 a1 a2 s).1 := by
  unfold cmdRingDelete
  split
  · rename_i y0 y1
    dsimp only
    assumption
  · rename_i y2 y3 y4
    dsimp only
    exact State.deleteRing_keeps (by assumption)

theorem ringDelete_keeps {s0 s : State} {a0} (h : Keeps s0 s) : Keeps s0 (ringDelete a0 s) := by
  unfold ringDelete
  refine Keeps.ite ?_ ?_
  · refine State.serveMail_keeps ?_ ?_
    · assumption
    · intro a0 a1 a2 a3 a4
      refine serveForm_keeps ?_ ?_
      · assumption
      · intro a5 a6 a7 a8 a9
        exact cmdRingDelete_keeps (by assumption)
  · assumption

theorem ringControl_keeps {s0 s : State} {a0} (h : Keeps s0 s) : Keeps s0 (ringControl a0 s) := by
  unfold ringControl
  refine Keeps.ite h (State.onRing_keeps h ?_)
  intro x s1 h1
  extract_lets p
  split
  · exact h1
  · extract_lets code n run
    split
    · exact State.park_keeps h1
    · have hrun : ∀ (a : Outer) (b : Nat → Nat) (c : Nat) (t : State), Keeps s0 t → Keeps s0 (run a b c t).1 := by
        intro a b c t ht
        unfold run
        split
        · exact serveForm_keeps ht fun _ _ _ _ h => cmdRingDelete_keeps h
        · exact serve_keeps ht
      clear_value run
      rename_i j _ _ _
      rcases e : run (s1.outer a0) j.args n s1 with ⟨s2, res⟩
      have h2 : Keeps s0 s2 := Keeps.fst e (hrun _ _ _ _ h1)
      dsimp only
      have h3 : ∀ l : Ring → Ring, Keeps s0 (match s2.ring? 0 with | some x => s2.setRing (l x) | none => s2) := by
        intro l
        split
        · exact State.setRing_keeps h2
        · exact h2
      refine Keeps.ite (State.enterSlumber_keeps (State.completeNext_keeps (h3 _))) (h3 _)

theorem State.scatter_keeps {s0 s : State} {l off bs} (h : Keeps s0 s) : Keeps s0 (State.scatter s l off bs) := by
  induction l generalizing s off bs with
  | nil => exact h
  | cons p r ih =>
    unfold State.scatter
    exact Keeps.ite h (Keeps.ite (ih h) (ih (State.hostWrite_keeps h)))

theorem ringDelivery_keeps {s0 s : State} {a0 a1} (h : Keeps s0 s) : Keeps s0 (ringDelivery a0 a1 s) := by
  unfold ringDelivery
  refine Keeps.ite ?_ ?_
  · assumption
  · split
    · rename_i y0 y1
      assumption
    · rename_i y2 y3 y4
      extract_lets +onlyGivenNames x5
      clear_value x5
      extract_lets +onlyGivenNames x6
      have h7 : Keeps s0 x6 := by
        unfold x6
        exact Keeps.upd (s := s) rfl rfl rfl rfl rfl rfl rfl (by assumption)
      clear_value x6
      extract_lets +onlyGivenNames x8
      clear_value x8
      split
      · rename_i y9 y10
        exact State.dropDelivery_keeps (by assumption)
      · rename_i y11 y12 y13
        split
        · rename_i y14 y15
          exact State.dropDelivery_keeps (by assumption)
        · rename_i y16 y17 y18
          extract_lets +onlyGivenNames x19
          have h20 : ∀ y0 y1, Keeps s0 y0 → Keeps s0 (x19 y0 y1) := by
            intro a21 a22 a23
            unfold x19
            exact State.setRing_keeps (by assumption)
          clear_value x19
          refine Keeps.ite ?_ ?_
          · exact State.dropDelivery_keeps (by assumption)
          · refine Keeps.ite ?_ ?_
            · exact h20 _ _ (by assumption)
            · refine Keeps.ite ?_ ?_
              · extract_lets +onlyGivenNames x24
                have h25 : Keeps s0 x24 := by
                  unfold x24
                  refine State.dropDelivery_keeps ?_
                  exact h20 _ _ (by assumption)
                clear_value x24
                refine Keeps.ite ?_ ?_
                · exact State.hostioFail_keeps (by assumption)
                · assumption
              · extract_lets +onlyGivenNames x26
                clear_value x26
                refine h20 _ _ ?_
                exact State.scatter_keeps (by assumption)

theorem rxJobTimeout_keeps {s0 s : State} {a0} (h : Keeps s0 s) : Keeps s0 (rxJobTimeout a0 s) := by
  unfold rxJobTimeout
  refine State.onRing_keeps ?_ ?_
  · assumption
  · intro a0 a1 a2
    extract_lets +onlyGivenNames x3
    clear_value x3
    exact State.setRing_keeps (by assumption)

theorem State.storeByte_keeps {s0 s : State} {a1 a2 a3} (h : Keeps s0 s) : Keeps s0 (State.storeByte s a1 a2 a3) := by
  unfold State.storeByte
  extract_lets +onlyGivenNames x0
  clear_value x0
  extract_lets +onlyGivenNames x1
  clear_value x1
  extract_lets +onlyGivenNames x2
  clear_value x2
  extract_lets +onlyGivenNames x3
  clear_value x3
  exact State.put_keeps (by assumption)

theorem State.store_keeps {s0 s : State} {a1 a2 a3} (h : Keeps s0 s) : Keeps s0 (State.store s a1 a2 a3) := by
  unfold State.store
  refine Keeps.foldl (fun t0 x1 h2 => ?_) _ ?_
  · exact State.storeByte_keeps (by assumption)
  · assumption

theorem State.clearRc_keeps {s0 s : State} {a1} (h : Keeps s0 s) : Keeps s0 (State.clearRc s a1) := by
  unfold State.clearRc
  extract_lets +onlyGivenNames x0
  clear_value x0
  extract_lets +onlyGivenNames x1
  clear_value x1
  refine Keeps.ite ?_ ?_
  · assumption
  · exact State.put_keeps (by assumption)

theorem State.dbgAct_keeps {s0 s : State} {a1 a2 a3 a4 a5} (h : Keeps s0 s) (ha1 : ∀ t, Keeps s0 t → Keeps s0 (a1 t)) : Keeps s0 (State.dbgAct s a1 a2 a3 a4 a5) := by
  unfold State.dbgAct
  extract_lets +onlyGivenNames x0
  unfold x0
  refine Keeps.ite ?_ ?_
  · split
    · rename_i y1 y2
      exact dbgNonce_keeps (by assumption)
    · rename_i y3 y4
      exact dbgUnlock_keeps (by assumption)
    · rename_i y5 y6
      exact dbgLock_keeps (by assumption)
    · rename_i y7 y8 y9 y10
      assumption
  · refine Keeps.ite ?_ ?_
    · exact State.put_keeps (by assumption)
    · refine Keeps.ite ?_ ?_
      · refine State.dbgGate_keeps ?_ ?_
        · assumption
        · intro a11 a12
          extract_lets +onlyGivenNames x13
          have h14 : Keeps s0 x13 := by
            unfold x13
            exact State.store_keeps (by assumption)
          clear_value x13
          refine Keeps.ite ?_ ?_
          · exact debugCoreReset_keeps (by assumption)
          · assumption
      · refine Keeps.ite ?_ ?_
        · refine State.dbgGate_keeps ?_ ?_
          · assumption
          · intro a15 a16
            refine Keeps.ite ?_ ?_
            · assumption
            · extract_lets +onlyGivenNames x17
              have h18 : Keeps s0 x17 := by
                unfold x17
                exact State.store_keeps (by assumption)
              clear_value x17
              refine Keeps.ite ?_ ?_
              · exact ha1 _ (by assumption)
              · assumption
        · refine Keeps.ite ?_ ?_
          · refine State.dbgGate_keeps ?_ ?_
            · assumption
            · intro a19 a20
              extract_lets +onlyGivenNames x21
              have h22 : Keeps s0 x21 := by
                unfold x21
                exact State.store_keeps (by assumption)
              clear_value x21
              extract_lets +onlyGivenNames x23
              clear_value x23
              split
              · rename_i y24 y25
                exact dbgSctlHalt_keeps (by assumption)
              · rename_i y26 y27
                exact dbgSctlResume_keeps (by assumption)
              · rename_i y28 y29
                exact dbgSctlStep_keeps (by assumption)
              · rename_i y30 y31
                exact dbgSctlFeed_keeps (by assumption)
              · rename_i y32 y33 y34 y35 y36
                assumption
          · refine Keeps.ite ?_ ?_
            · refine Keeps.ite ?_ ?_
              · exact dbgFreeze_keeps (by assumption)
              · assumption
            · refine Keeps.ite ?_ ?_
              · exact dbgMpctl_keeps (by assumption)
              · refine Keeps.ite ?_ ?_
                · refine State.dbgGate_keeps ?_ ?_
                  · assumption
                  · intro a37 a38
                    extract_lets +onlyGivenNames x39
                    have h40 : Keeps s0 x39 := by
                      unfold x39
                      exact State.store_keeps (by assumption)
                    clear_value x39
                    split
                    · rename_i y41 y42
                      exact otpAdvance_keeps (by assumption)
                    · rename_i y43 y44
                      exact otpRevoke_keeps (by assumption)
                    · rename_i y45 y46 y47
                      assumption
                · refine Keeps.ite ?_ ?_
                  · extract_lets +onlyGivenNames x48
                    have h49 : Keeps s0 x48 := by
                      unfold x48
                      exact State.store_keeps (by assumption)
                    clear_value x48
                    refine Keeps.ite ?_ ?_
                    · exact cnfEnd_keeps (by assumption)
                    · assumption
                  · refine Keeps.ite ?_ ?_
                    · refine Keeps.ite ?_ ?_
                      · assumption
                      · exact State.store_keeps (by assumption)
                    · refine State.dbgGate_keeps ?_ ?_
                      · assumption
                      · intro a50 a51
                        exact State.store_keeps (by assumption)

theorem State.portEnable_keeps {s0 s : State} {a1 a2} (h : Keeps s0 s) : Keeps s0 (State.portEnable s a1 a2) := by
  unfold State.portEnable
  extract_lets +onlyGivenNames x0
  have h1 : Keeps s0 x0 := by
    unfold x0
    exact State.puts_keeps (by assumption)
  clear_value x0
  refine Keeps.ite ?_ ?_
  · exact State.notePorts_keeps (by assumption)
  · extract_lets +onlyGivenNames x2
    have h3 : Keeps s0 x2 := by
      unfold x2
      exact State.dropPaths_keeps (by assumption)
    clear_value x2
    extract_lets +onlyGivenNames x4
    have h5 : Keeps s0 x4 := by
      unfold x4
      exact Keeps.upd (s := x2) rfl rfl rfl rfl rfl rfl rfl (by assumption)
    clear_value x4
    refine State.notePorts_keeps ?_
    exact State.notePeers_keeps (by assumption)

theorem State.stbAct_keeps {s0 s : State} {a1 a2 a3} (h : Keeps s0 s) : Keeps s0 (State.stbAct s a1 a2 a3) := by
  unfold State.stbAct
  extract_lets +onlyGivenNames x0
  clear_value x0
  extract_lets +onlyGivenNames x1
  clear_value x1
  refine Keeps.ite ?_ ?_
  · refine Keeps.ite ?_ ?_
    · assumption
    · exact State.store_keeps (by assumption)
  · refine Keeps.ite ?_ ?_
    · split
      · rename_i y2 y3
        exact ucsValidate_keeps (by assumption)
      · rename_i y4 y5
        exact ucsRelease_keeps (by assumption)
      · rename_i y6 y7 y8
        assumption
    · refine Keeps.ite ?_ ?_
      · extract_lets +onlyGivenNames x9
        have h10 : Keeps s0 x9 := by
          unfold x9
          exact State.store_keeps (by assumption)
        clear_value x9
        extract_lets +onlyGivenNames x11
        have h12 : Keeps s0 x11 := by
          unfold x11
          refine Keeps.ite ?_ ?_
          · exact stbDrain_keeps (by assumption)
          · assumption
        clear_value x11
        refine Keeps.ite ?_ ?_
        · exact stbFence_keeps (by assumption)
        · assumption
      · exact State.store_keeps (by assumption)

theorem State.hodAct_keeps {s0 s : State} {a1 a2 a3 a4} (h : Keeps s0 s) : Keeps s0 (State.hodAct s a1 a2 a3 a4) := by
  unfold State.hodAct
  refine Keeps.ite ?_ ?_
  · refine Keeps.ite ?_ ?_
    · exact hodAssign_keeps (by assumption)
    · assumption
  · refine Keeps.ite ?_ ?_
    · exact hodHgrantWrite_keeps (by assumption)
    · refine Keeps.ite ?_ ?_
      · extract_lets +onlyGivenNames x0
        clear_value x0
        split
        · rename_i y1 y2
          exact hodHstart_keeps (by assumption)
        · rename_i y3 y4
          exact hodHhalt_keeps (by assumption)
        · rename_i y5 y6
          exact hodHresume_keeps (by assumption)
        · rename_i y7 y8
          exact hodHclear_keeps (by assumption)
        · rename_i y9 y10 y11 y12 y13
          assumption
      · exact State.store_keeps (by assumption)

theorem State.movAct_keeps {s0 s : State} {a1 a2 a3 a4} (h : Keeps s0 s) : Keeps s0 (State.movAct s a1 a2 a3 a4) := by
  unfold State.movAct
  refine Keeps.ite ?_ ?_
  · exact State.store_keeps (by assumption)
  · extract_lets +onlyGivenNames x0
    clear_value x0
    extract_lets +onlyGivenNames x1
    clear_value x1
    refine Keeps.ite ?_ ?_
    · refine Keeps.ite ?_ ?_
      · assumption
      · refine Keeps.ite ?_ ?_
        · refine State.movConfig_keeps ?_
          exact State.store_keeps (by assumption)
        · exact State.store_keeps (by assumption)
    · refine Keeps.ite ?_ ?_
      · exact movChPi_keeps (by assumption)
      · refine Keeps.ite ?_ ?_
        · extract_lets +onlyGivenNames x2
          have h3 : Keeps s0 x2 := by
            unfold x2
            exact State.store_keeps (by assumption)
          clear_value x2
          refine Keeps.ite ?_ ?_
          · exact movHalt_keeps (by assumption)
          · assumption
        · exact State.store_keeps (by assumption)

theorem State.yrdAct_keeps {s0 s : State} {a1 a2 a3 a4} (h : Keeps s0 s) : Keeps s0 (State.yrdAct s a1 a2 a3 a4) := by
  unfold State.yrdAct
  refine Keeps.ite ?_ ?_
  · extract_lets +onlyGivenNames x0
    clear_value x0
    extract_lets +onlyGivenNames x1
    have h2 : Keeps s0 x1 := by
      unfold x1
      exact State.store_keeps (by assumption)
    clear_value x1
    refine Keeps.ite ?_ ?_
    · assumption
    · refine Keeps.ite ?_ ?_
      · exact State.attach_keeps (by assumption)
      · refine Keeps.ite ?_ ?_
        · exact yrdDetach_keeps (by assumption)
        · assumption
  · refine Keeps.ite ?_ ?_
    · refine Keeps.ite ?_ ?_
      · exact yrdLoad_keeps (by assumption)
      · exact State.store_keeps (by assumption)
    · refine Keeps.ite ?_ ?_
      · exact State.ptpSet_keeps (by assumption)
      · refine Keeps.ite ?_ ?_
        · extract_lets +onlyGivenNames x3
          clear_value x3
          extract_lets +onlyGivenNames x4
          clear_value x4
          extract_lets +onlyGivenNames x5
          have h6 : Keeps s0 x5 := by
            unfold x5
            exact State.store_keeps (by assumption)
          clear_value x5
          refine Keeps.ite ?_ ?_
          · exact State.portEnable_keeps (by assumption)
          · assumption
        · exact State.store_keeps (by assumption)

theorem State.mbxAct_keeps {s0 s : State} {a1 a2 a3 a4} (h : Keeps s0 s) : Keeps s0 (State.mbxAct s a1 a2 a3 a4) := by
  unfold State.mbxAct
  refine Keeps.ite ?_ ?_
  · refine Keeps.ite ?_ ?_
    · exact State.put_keeps (by assumption)
    · exact State.store_keeps (by assumption)
  · refine Keeps.ite ?_ ?_
    · exact mbxDoorbell_keeps (by assumption)
    · refine Keeps.ite ?_ ?_
      · extract_lets +onlyGivenNames x0
        clear_value x0
        extract_lets +onlyGivenNames x1
        clear_value x1
        extract_lets +onlyGivenNames x2
        have h3 : Keeps s0 x2 := by
          unfold x2
          exact State.store_keeps (by assumption)
        clear_value x2
        refine Keeps.ite ?_ ?_
        · exact State.mpwReload_keeps (by assumption)
        · assumption
      · refine Keeps.ite ?_ ?_
        · exact mpwKick_keeps (by assumption)
        · refine Keeps.ite ?_ ?_
          · exact rngSqTail_keeps (by assumption)
          · refine Keeps.ite ?_ ?_
            · exact rngCqHead_keeps (by assumption)
            · exact State.store_keeps (by assumption)

theorem State.regAct_keeps {s0 s : State} {a1 a2 a3 a4} (h : Keeps s0 s) (ha1 : ∀ t, Keeps s0 t → Keeps s0 (a1 t)) : Keeps s0 (State.regAct s a1 a2 a3 a4) := by
  unfold State.regAct
  extract_lets +onlyGivenNames x0
  clear_value x0
  extract_lets +onlyGivenNames x1
  clear_value x1
  refine Keeps.ite ?_ ?_
  · exact State.mbxAct_keeps (by assumption)
  · refine Keeps.ite ?_ ?_
    · refine Keeps.ite ?_ ?_
      · exact evtDone_keeps (by assumption)
      · exact State.store_keeps (by assumption)
    · refine Keeps.ite ?_ ?_
      · refine Keeps.ite ?_ ?_
        · exact gpioCfgWrite_keeps (by assumption)
        · refine Keeps.ite ?_ ?_
          · refine State.thermalEdges_keeps ?_
            exact State.store_keeps (by assumption)
          · exact State.store_keeps (by assumption)
      · refine Keeps.ite ?_ ?_
        · refine Keeps.ite ?_ ?_
          · extract_lets +onlyGivenNames x2
            have h3 : Keeps s0 x2 := by
              unfold x2
              exact State.store_keeps (by assumption)
            clear_value x2
            refine Keeps.ite ?_ ?_
            · exact monEnable_keeps (by assumption)
            · assumption
          · refine Keeps.ite ?_ ?_
            · refine Keeps.ite ?_ ?_
              · exact monCommit_keeps (by assumption)
              · assumption
            · exact State.store_keeps (by assumption)
        · refine Keeps.ite ?_ ?_
          · exact State.stbAct_keeps (by assumption)
          · refine Keeps.ite ?_ ?_
            · refine Keeps.ite ?_ ?_
              · refine Keeps.ite ?_ ?_
                · exact cmpCommit_keeps (by assumption)
                · assumption
              · refine Keeps.ite ?_ ?_
                · refine Keeps.ite ?_ ?_
                  · exact audSwap_keeps (by assumption)
                  · assumption
                · exact State.store_keeps (by assumption)
            · refine Keeps.ite ?_ ?_
              · exact State.hodAct_keeps (by assumption)
              · refine Keeps.ite ?_ ?_
                · exact State.movAct_keeps (by assumption)
                · refine Keeps.ite ?_ ?_
                  · refine Keeps.ite ?_ ?_
                    · exact memInval_keeps (by assumption)
                    · exact State.store_keeps (by assumption)
                  · refine Keeps.ite ?_ ?_
                    · exact State.yrdAct_keeps (by assumption)
                    · refine State.dbgAct_keeps ?_ ?_
                      · assumption
                      · intro a4 a5
                        exact ha1 _ (by assumption)

theorem State.hostAct_keeps {s0 : State} {dam : State → State} {p : State × Bool} {d v m} (h : Keeps s0 p.1)
    (hdam : ∀ t, Keeps s0 t → Keeps s0 (dam t)) : Keeps s0 (State.hostAct dam p d v m).1 := by
  unfold State.hostAct
  exact Keeps.ite h (State.regAct_keeps h hdam)

theorem State.readEffect_keeps {s0 s : State} {a1 a2 a3} (h : Keeps s0 s) : Keeps s0 (State.readEffect s a1 a2 a3) := by
  unfold State.readEffect
  extract_lets +onlyGivenNames x0
  clear_value x0
  refine Keeps.ite ?_ ?_
  · split
    rename_i y1 y2 y3 y4
    refine m2hData0Read_keeps ?_
    refine Keeps.snd y4 ?_
    exact State.draw_keeps (by assumption)
  · refine Keeps.ite ?_ ?_
    · exact evtClaim_keeps (by assumption)
    · refine Keeps.ite ?_ ?_
      · exact cadTimeRead_keeps (by assumption)
      · refine Keeps.ite ?_ ?_
        · exact Keeps.upd (s := s) rfl rfl rfl rfl rfl rfl rfl (by assumption)
        · refine Keeps.ite ?_ ?_
          · exact memXfaultPop_keeps (by assumption)
          · refine Keeps.ite ?_ ?_
            · assumption
            · refine Keeps.foldl (fun a5 a6 h7 => ?_) _ ?_
              · refine Keeps.ite ?_ ?_
                · exact State.clearRc_keeps (by assumption)
                · assumption
              · assumption

theorem regRead_keeps {s0 s : State} {a1 a2} (h : Keeps s0 s) : Keeps s0 (regRead s a1 a2).2 := by
  unfold regRead
  extract_lets +onlyGivenNames x0
  clear_value x0
  extract_lets +onlyGivenNames x1
  have h2 : Keeps s0 x1 := by
    unfold x1
    refine Keeps.foldl (fun t3 x4 h5 => ?_) _ ?_
    · exact State.readEffect_keeps (by assumption)
    · assumption
  clear_value x1
  dsimp only
  exact Keeps.upd (s := x1) rfl rfl rfl rfl rfl rfl rfl (by assumption)

theorem regWrite_keeps {s0 s : State} {a0 a2 a3} (h : Keeps s0 s) (ha0 : ∀ t, Keeps s0 t → Keeps s0 (a0 t)) : Keeps s0 (regWrite a0 s a2 a3) := by
  unfold regWrite
  refine Keeps.foldl (fun t0 x1 h2 => ?_) _ ?_
  · split
    rename_i y3 y4 y5 y6
    refine State.regAct_keeps ?_ ?_
    · assumption
    · intro a7 a8
      exact ha0 _ (by assumption)
  · assumption

theorem hostWriteBar_keeps {s0 s : State} {a0 a2 a3} (h : Keeps s0 s) (ha0 : ∀ t, Keeps s0 t → Keeps s0 (a0 t)) : Keeps s0 (hostWriteBar a0 s a2 a3) := by
  unfold hostWriteBar
  split
  rename_i y0 y1 y2 y3
  refine Keeps.ite ?_ ?_
  · refine State.deny_keeps ?_
    refine Keeps.fst (by assumption) ?_
    refine Keeps.foldlFst (fun p4 x5 h6 => ?_) _ ?_
    · split
      rename_i y7 y8 y9 y10
      refine State.hostAct_keeps ?_ ?_
      · assumption
      · intro a11 a12
        exact ha0 _ (by assumption)
    · dsimp only
      assumption
  · refine Keeps.fst (by assumption) ?_
    refine Keeps.foldlFst (fun p13 x14 h15 => ?_) _ ?_
    · split
      rename_i y16 y17 y18 y19
      refine State.hostAct_keeps ?_ ?_
      · assumption
      · intro a20 a21
        exact ha0 _ (by assumption)
    · dsimp only
      assumption

theorem mmioBase_rd {s0 : State} (t : State) (x n : Nat) (h : Keeps s0 t) : Keeps s0 (mmioBase.rd t x n).2 := regRead_keeps h

theorem mmioBase_wr {s0 : State} (t : State) (x : Nat) (bs : Bytes) (h : Keeps s0 t) : Keeps s0 (mmioBase.wr t x bs) :=
  regWrite_keeps h (fun _ h => h)

theorem damRun_keeps {s0 s : State} {host u} (h : Keeps s0 s) : Keeps s0 (damRun host u s) :=
  damAccess_keeps h mmioBase_rd mmioBase_wr

theorem mmio_rd {s0 : State} {host : Option Bytes} (t : State) (x n : Nat) (h : Keeps s0 t) : Keeps s0 ((mmio host).rd t x n).2 := regRead_keeps h

theorem mmio_wr {s0 : State} {host : Option Bytes} (t : State) (x : Nat) (bs : Bytes) (h : Keeps s0 t) : Keeps s0 ((mmio host).wr t x bs) :=
  regWrite_keeps h (fun _ h => damRun_keeps h)

theorem Mmio.wr_keeps {s0 s : State} {a0 a1 a2} (h : Keeps s0 s) (hrd : ∀ t x n, Keeps s0 t → Keeps s0 (a0.rd t x n).2) (hwr : ∀ t x bs, Keeps s0 t → Keeps s0 (a0.wr t x bs)) : Keeps s0 (Mmio.wr a0 s a1 a2) := by
  unfold Mmio.wr
  exact hwr _ _ _ (by assumption)

theorem State.msixFlush_keeps {s0 s : State} (h : Keeps s0 s) : Keeps s0 (State.msixFlush s) := by
  unfold State.msixFlush
  exact Keeps.ite (Keeps.foldl (fun _ _ h1 => Keeps.ite (State.emit_keeps (State.put_keeps h1)) h1) _ h) h

theorem pciWrite_keeps {s0 s : State} {a0 a1} (h : Keeps s0 s) : Keeps s0 (pciWrite s a0 a1) := by
  unfold pciWrite
  extract_lets t
  have ht : Keeps s0 t := by
    unfold t
    exact Keeps.foldl (fun _ _ h1 => State.store_keeps h1) _ h
  clear_value t
  exact Keeps.ite (State.evtRearm_keeps (State.msixFlush_keeps ht)) (State.msixFlush_keeps ht)

theorem registerWrite_keeps {s0 s : State} {b bar off data host u} (h : Keeps s0 s) :
    Keeps s0 (registerWrite b bar off data host u s) := by
  unfold registerWrite
  refine Keeps.ite h (Keeps.ite (State.emit_keeps h) (Keeps.ite (Keeps.ite h ?_) ?_))
  · split
    · exact devWrite_keeps h mmio_wr _ (by assumption)
    · exact h
  · split
    · split
      · exact Keeps.ite (pciWrite_keeps h) h
      · exact h
    · refine Keeps.ite (Keeps.ite (State.emit_keeps h) h) (Keeps.ite h (Keeps.ite ?_ (Keeps.ite ?_ h)))
      · exact hostWriteBar_keeps h (fun _ h => damRun_keeps h)
      · exact regWrite_keeps h (fun _ h => damRun_keeps h)

theorem rcRead_keeps {s0 s : State} {a0 a1 a2 a3 a4 a5} (h : Keeps s0 s) : Keeps s0 (rcRead a0 a1 a2 a3 a4 a5 s) := by
  have hr : ∀ t v, Keeps s0 t → Keeps s0 { t with rdata := v } := fun t _ ht => Keeps.upd (s := t) rfl rfl rfl rfl rfl rfl rfl ht
  unfold rcRead
  refine Keeps.ite h (Keeps.ite (State.emit_keeps h) (Keeps.ite (Keeps.ite (hr _ _ h) ?_) ?_))
  · split
    · exact hr _ _ (devRead_keeps h mmio_rd _ (by assumption))
    · exact State.emit_keeps h
  · split
    · split
      · exact Keeps.ite (hr _ _ h) h
      · exact h
    · exact Keeps.ite (Keeps.ite (State.emit_keeps h) h) (Keeps.ite (hr _ _ h) (Keeps.ite (hr _ _ h) (regRead_keeps h)))

theorem tapDbgregCmd_keeps {s0 s : State} {a0 a1 a2 a3 a4} (h : Keeps s0 s) : Keeps s0 (tapDbgregCmd a0 a1 a2 a3 a4 s) := by
  unfold tapDbgregCmd
  refine tapDbgreg_keeps ?_ ?_
  · assumption
  · intro a0 a1 a2 a3
    refine State.regAct_keeps ?_ ?_
    · assumption
    · intro a4 a5
      exact damRun_keeps (by assumption)

theorem State.answerCommit_keeps {s0 s : State} {a1} (h : Keeps s0 s) : Keeps s0 (State.answerCommit s a1) := by
  unfold State.answerCommit
  refine Keeps.ite ?_ ?_
  · exact State.respond_keeps (by assumption)
  · assumption

theorem packageCheck_keeps {s0 s : State} {a0} (h : Keeps s0 s) : Keeps s0 (packageCheck a0 s) := by
  unfold packageCheck
  split
  · rename_i y0 y1 y2 y3 y4 y5 y6
    extract_lets +onlyGivenNames x7
    clear_value x7
    extract_lets +onlyGivenNames x8
    have h9 : Keeps s0 x8 := by
      unfold x8
      exact Keeps.upd (s := s) rfl rfl rfl rfl rfl rfl rfl (by assumption)
    clear_value x8
    split
    · rename_i y10 y11
      refine State.put_keeps ?_
      refine State.answerCommit_keeps ?_
      exact Keeps.upd (s := x8) rfl rfl rfl rfl rfl rfl rfl (by assumption)
    · rename_i y12 y13
      refine State.answerCommit_keeps ?_
      exact State.toMode_keeps (by assumption)
  · rename_i y14 y15 y16 y17
    assumption

theorem State.startSlots_keeps {s0 s : State} {a1 a2} (h : Keeps s0 s) : Keeps s0 (State.startSlots s a1 a2) := by
  unfold State.startSlots
  extract_lets +onlyGivenNames x0
  have h1 : Keeps s0 x0 := by
    unfold x0
    refine Keeps.ite ?_ ?_
    · refine Keeps.foldl (fun a2 a3 h4 => ?_) _ ?_
      · refine Keeps.ite ?_ ?_
        · exact State.put_keeps (by assumption)
        · assumption
      · assumption
    · refine Keeps.foldl (fun a5 a6 h7 => ?_) _ ?_
      · split
        · rename_i y8 y9 y10
          exact State.puts_keeps (by assumption)
        · rename_i y11 y12
          exact State.puts_keeps (by assumption)
      · assumption
  clear_value x0
  extract_lets +onlyGivenNames x13
  have h14 : Keeps s0 x13 := by
    unfold x13
    refine Keeps.ite ?_ ?_
    · exact State.put_keeps (by assumption)
    · assumption
  clear_value x13
  exact State.spareFlag_keeps (by assumption)

theorem State.startCores_keeps {s0 s : State} {a1} (h : Keeps s0 s) : Keeps s0 (State.startCores s a1) := by
  unfold State.startCores
  extract_lets +onlyGivenNames x0
  clear_value x0
  extract_lets +onlyGivenNames x1
  have h2 : Keeps s0 x1 := by
    unfold x1
    refine Keeps.foldl (fun t3 x4 h5 => ?_) _ ?_
    · exact State.put_keeps (by assumption)
    · assumption
  clear_value x1
  extract_lets +onlyGivenNames x6
  have h7 : Keeps s0 x6 := by
    unfold x6
    refine Keeps.foldl (fun t8 x9 h10 => ?_) _ ?_
    · exact State.put_keeps (by assumption)
    · assumption
  clear_value x6
  extract_lets +onlyGivenNames x11
  clear_value x11
  extract_lets +onlyGivenNames x12
  have h13 : Keeps s0 x12 := by
    unfold x12
    exact State.put_keeps (by assumption)
  clear_value x12
  exact State.puts_keeps (by assumption)

theorem State.startBlocks_keeps {s0 s : State} {a1} (h : Keeps s0 s) : Keeps s0 (State.startBlocks s a1) := by
  unfold State.startBlocks
  extract_lets +onlyGivenNames x0
  have h1 : Keeps s0 x0 := by
    unfold x0
    exact State.puts_keeps (by assumption)
  clear_value x0
  refine Keeps.foldl (fun t2 x3 h4 => ?_) _ ?_
  · exact State.put_keeps (by assumption)
  · assumption

theorem State.placeTables_keeps {s0 s : State} {a1 a2} (h : Keeps s0 s) : Keeps s0 (State.placeTables s a1 a2) := by
  induction a1 generalizing s a2 with
  | nil => exact h
  | cons p r ih => exact ih (State.put_keeps h)

theorem State.startBases_keeps {s0 s : State} (h : Keeps s0 s) : Keeps s0 (State.startBases s) := by
  unfold State.startBases
  exact State.put_keeps (State.placeTables_keeps (State.giveExts_keeps (State.giveExts_keeps h)))

theorem State.setReg_keeps {s0 s : State} {f v} (h : Keeps s0 s) : Keeps s0 { s with regs := setQ s.regs f v } :=
  ⟨h.1, h.2, h.3, fun w => setQ_wf _ _ _ (h.4 w), h.5, h.6, h.7⟩

theorem State.adoptMap_keeps {s0 s : State} {r} (h : Keeps s0 s) : Keeps s0 (State.adoptMap s r) := by
  unfold State.adoptMap
  exact State.puts_keeps (Keeps.foldl (fun s q hs => State.setReg_keeps hs) _ h)

theorem State.bindAt_keeps {s0 s : State} {a0 a1} (h : Keeps s0 s) : Keeps s0 (State.bindAt s a0 a1) := by
  unfold State.bindAt
  split
  · rename_i y0
    assumption
  · rename_i y1 y2
    split
    · rename_i y3 y4 y5 y6
      refine State.setUcs_keeps ?_
      refine Keeps.snd y6 ?_
      exact State.rebind_keeps (by assumption)
    · rename_i y7 y8 y9 y10
      refine Keeps.snd y10 ?_
      exact State.rebind_keeps (by assumption)

theorem State.adoptStall_keeps {s0 s : State} {a1 a2} (h : Keeps s0 s) : Keeps s0 (State.adoptStall s a1 a2) := by
  unfold State.adoptStall
  split
  · exact h
  · split
    extract_lets slot
    split
    · exact State.notice_keeps h
    · extract_lets t
      have ht : Keeps s0 t := by
        unfold t
        exact State.place_keeps (Keeps.upd (s := s) rfl rfl rfl rfl rfl rfl rfl h)
      clear_value t
      exact State.logEntry_keeps (State.showRamp_keeps (State.countUnits_keeps (State.bindAt_keeps ht)))

theorem State.adopt_keeps {s0 s : State} {a1} (h : Keeps s0 s) : Keeps s0 (State.adopt s a1) := by
  unfold State.adopt
  extract_lets +onlyGivenNames x0
  have h1 : Keeps s0 x0 := by
    unfold x0
    exact State.adoptMap_keeps (by assumption)
  clear_value x0
  extract_lets +onlyGivenNames x2
  have h3 : Keeps s0 x2 := by
    unfold x2
    exact Keeps.upd (s := x0) rfl rfl rfl rfl rfl rfl rfl (by assumption)
  clear_value x2
  extract_lets +onlyGivenNames x4
  have h5 : Keeps s0 x4 := by
    unfold x4
    refine Keeps.foldl (fun a6 a7 h8 => ?_) _ ?_
    · exact State.adoptStall_keeps (by assumption)
    · assumption
  clear_value x4
  extract_lets +onlyGivenNames x9
  clear_value x9
  extract_lets +onlyGivenNames x10
  clear_value x10
  extract_lets +onlyGivenNames x11
  clear_value x11
  extract_lets +onlyGivenNames x12
  clear_value x12
  extract_lets +onlyGivenNames x13
  have h14 : Keeps s0 x13 := by
    unfold x13
    exact State.giveExts_keeps (by assumption)
  clear_value x13
  refine State.recost_keeps ?_
  exact Keeps.upd (s := x13) rfl rfl rfl rfl rfl rfl rfl (by assumption)

theorem firmwareReady_keeps {s0 s : State} {a0 a1} (h : Keeps s0 s) : Keeps s0 (firmwareReady a0 a1 s) := by
  unfold firmwareReady
  split
  · rename_i y0 y1 y2 y3 y4
    refine Keeps.ite ?_ ?_
    · assumption
    · extract_lets +onlyGivenNames x5
      have h6 : Keeps s0 x5 := by
        unfold x5
        refine State.startCores_keeps ?_
        refine State.startSlots_keeps ?_
        refine State.startBases_keeps ?_
        exact State.startBlocks_keeps (by assumption)
      clear_value x5
      extract_lets +onlyGivenNames x7
      clear_value x7
      extract_lets +onlyGivenNames x8
      have h9 : Keeps s0 x8 := by
        unfold x8
        refine Keeps.ite ?_ ?_
        · assumption
        · exact State.notice_keeps (by assumption)
      clear_value x8
      extract_lets +onlyGivenNames x10
      have h11 : Keeps s0 x10 := by
        unfold x10
        split
        · rename_i y12 y13 y14
          refine Keeps.ite ?_ ?_
          · exact State.adopt_keeps (by assumption)
          · refine Keeps.ite ?_ ?_
            · exact State.logEntry_keeps (by assumption)
            · assumption
        · rename_i y15 y16
          refine Keeps.ite ?_ ?_
          · exact State.logEntry_keeps (by assumption)
          · assumption
      clear_value x10
      extract_lets +onlyGivenNames x17
      have h18 : Keeps s0 x17 := by
        unfold x17
        exact Keeps.upd (s := x10) rfl rfl rfl rfl rfl rfl rfl (by assumption)
      clear_value x17
      refine Keeps.ite ?_ ?_
      · exact State.enterServe_keeps (by assumption)
      · exact State.toMode_keeps (by assumption)
  · rename_i y19 y20 y21
    assumption

end Sys2Proof.Machine
end

