-- ==== Sys2Proof/Laws/Mail.lean ====
section
/-! SUPPORT. What a firmware command that is accepted does: one lemma for every command of the mailbox. -/
namespace Sys2Proof.Machine

/-- Taking a request keeps the mode. -/
theorem State.stopOrphan_mode (s : State) : s.stopOrphan.mode = s.mode := by
  unfold State.stopOrphan
  show (s.put HOST_ORPHAN_RUNNING 0).mode = _
  exact State.put_mode _ _ _

@[simp] theorem State.takeReq_mode (s : State) : s.takeReq.mode = s.mode := by
  unfold State.takeReq
  dsimp only
  split
  · rw [State.stopOrphan_mode]
  · dsimp only

/-- A request of major version 3 is run on the state that has taken it, and answered. -/
theorem State.serveMail_run (s : State) (run : Outer → (Nat → Nat) → Nat → State → State × Resp) (e : Outer) (hb : s.badMajor = false) :
    s.serveMail run e = (let p := run (s.outer e) s.reqDwords s.reqN s.takeReq
      let t := if secretCode s.reqCode then p.1.wipeRequest else p.1
      if s.reqCode = 0x11 ∧ p.2.status = 0 then t else afterServe s.reqCode s.reqDwords p.2 (t.respond p.2)) := by
  unfold State.serveMail
  rw [hb]
  dsimp only
  generalize run (s.outer e) s.reqDwords s.reqN s.takeReq = p
  obtain ⟨x, r⟩ := p
  simp only [Bool.false_eq_true, if_false]

/-- Only STALL_MOVE waits for a park. -/
theorem State.moveWaits_none {s : State} {code : Nat} {ring : Bool} {d : Nat → Nat} {n : Nat} (h : code ≠ 0x56) :
    s.moveWaits code ring d n = none := by
  unfold State.moveWaits
  rw [if_neg h]

/-- A request that is accepted runs its command of the catalogue. -/
theorem mbxCmd_runs {s : State} {code : Nat} {f : Form} {c : Cmd} (e : Outer) (h : Accepts s code) (hc : catalogue code = some (f, c))
    (hr : code ≠ ringDeleteCode) (hm : s.moveWaits code false s.reqDwords s.reqN = none) :
    mbxCmd code e s = s.serveMail (fun e d n s => c e d n s) e := by
  obtain ⟨w, ic, mj, f', hf, hmode, ha⟩ := h
  have hb : s.badMajor = false := by unfold State.badMajor; rw [mj]; rfl
  unfold formOf at hf
  rw [if_neg hr, hc] at hf
  obtain rfl : f = f' := by simpa using hf
  unfold mbxCmd
  rw [if_pos ⟨w, ic⟩, hb, hm]
  have hsv : serve code false (s.outer e) s.reqDwords s.reqN s.takeReq = c (s.outer e) s.reqDwords s.reqN s.takeReq := by
    unfold serve
    rw [hc]
    dsimp only
    unfold serveForm
    rw [State.takeReq_mode, hmode, ha]
    rfl
  show s.serveMail _ e = _
  rw [State.serveMail_run _ _ _ hb, State.serveMail_run _ _ _ hb]
  simp only [hsv]

/-- What an accepted command answers: the state its effect leaves, with the response in the mailbox. Codes 0x11, which answers
later, 0x20, which may enter SLUMBER, and the secret codes, whose words are wiped first, are not of this form. -/
theorem mbxCmd_answers {s : State} {code : Nat} {f : Form} {c : Cmd} (e : Outer) (h : Accepts s code) (hc : catalogue code = some (f, c))
    (hr : code ≠ ringDeleteCode) (hm : s.moveWaits code false s.reqDwords s.reqN = none) (h1 : code ≠ 0x11) (h2 : code ≠ 0x20)
    (hs : secretCode code = false)
    {x : State} {r : Resp} (hx : c (s.outer e) s.reqDwords s.reqN s.takeReq = (x, r)) : mbxCmd code e s = x.respond r := by
  have hb : s.badMajor = false := by have := h.major; unfold State.badMajor; rw [this]; rfl
  rw [mbxCmd_runs e h hc hr hm, State.serveMail_run _ _ _ hb]
  dsimp only
  rw [h.isCode, hs, if_neg (fun h => h1 h.1)]
  unfold afterServe
  rw [if_neg (fun h => h2 h.1), hx]
  rfl

end Sys2Proof.Machine
end

