-- ==== Sys2Proof/Laws/StallMem.lean ====
section
/-! SUPPORT. What the writes of an instruction leave of a stall's memory: the bytes they do not touch, and the bytes of plain
memory they write. -/
namespace Sys2Proof.Machine

/-- The agent effects, the collision assertions and the raster marks still to come, the class, and the byte at key `x` are the
same. -/
structure Apart (x : Nat) (a b : Stall) : Prop where
  pend : b.pend = a.pend
  coll : b.src.collDue = a.src.collDue
  ahead : b.ras.ahead = a.ras.ahead
  cls  : b.cls = a.cls
  byte : Memory.get b.mem x = Memory.get a.mem x

theorem Apart.refl {x : Nat} (a : Stall) : Apart x a a := ⟨rfl, rfl, rfl, rfl, rfl⟩

theorem Apart.trans {x : Nat} {a b c : Stall} (h : Apart x a b) (k : Apart x b c) : Apart x a c :=
  ⟨k.pend.trans h.pend, k.coll.trans h.coll, k.ahead.trans h.ahead, k.cls.trans h.cls, k.byte.trans h.byte⟩

theorem Apart.of {x : Nat} {a b c : Stall} (h : Apart x a b) (e1 : c.pend = b.pend) (e2 : c.src.collDue = b.src.collDue)
    (e3 : c.cls = b.cls) (e4 : c.mem = b.mem) (e5 : c.ras.ahead = b.ras.ahead := by rfl) : Apart x a c :=
  h.trans ⟨e1, e2, e5, e3, by rw [e4]⟩

theorem Apart.foldl {x : Nat} {α : Type} {a : Stall} {f : Stall → α → Stall} (hf : ∀ b y, Apart x a b → Apart x a (f b y)) (l : List α)
    {b : Stall} (h : Apart x a b) : Apart x a (l.foldl f b) := by
  induction l generalizing b with
  | nil => exact h
  | cons y l ih => exact ih (hf _ _ h)

theorem markDirty_apart {x : Nat} (st : Stall) (k : Nat) : Apart x st (markDirty st k) := by
  unfold markDirty
  split
  · exact (Apart.refl st).of rfl rfl rfl rfl
  · split
    · exact (Apart.refl st).of rfl rfl rfl rfl
    · exact Apart.refl st

theorem procByte_apart {x : Nat} (st : Stall) (a : Nat) (v : Byte) (h : keyOf st.mem st.cls a ≠ x) : Apart x st (procByte st a v) := by
  unfold procByte
  split
  · refine Apart.trans (b := { st with shadow := _, mem := putView st.cls st.mem a v }) ⟨rfl, rfl, rfl, rfl, ?_⟩ (markDirty_apart _ _)
    exact (Memory.get_set _ _ _ _).trans (if_neg h)
  · exact Apart.refl st

/-- The view key of an address outside the video RAM window is the address. -/
theorem keyOf_plain (m : Mem) (c : BeamClass) (a : Nat) (h : a < 0x200000 ∨ 0x210000 ≤ a) : keyOf m c a = a := by
  unfold keyOf inRange
  rw [if_neg (by simp; omega)]

/-- A key below 2^24 is the key of its own address only. -/
theorem keyOf_ne {m : Mem} {c : BeamClass} {a x : Nat} (hx : x < 2 ^ 24) (h : a ≠ x) : keyOf m c a ≠ x := by
  unfold keyOf
  split
  · omega
  · exact h

theorem procBytes_apart {x : Nat} (hx : x < 2 ^ 24) (bs : Bytes) : ∀ (st : Stall) (a : Nat),
    (∀ i, i < bs.length → (a + i) % 2 ^ 24 ≠ x) → Apart x st (procBytes st a bs) := by
  induction bs with
  | nil => intro st a _; exact Apart.refl st
  | cons b bs ih =>
    intro st a h
    refine (procByte_apart st _ b (keyOf_ne hx (h 0 (by simp)))).trans (ih _ _ fun i hi => ?_)
    have := h (i + 1) (by simpa using hi)
    rwa [show a + 1 + i = a + (i + 1) by omega]

theorem sideByte_apart {x : Nat} (st : Stall) (w a : Nat) (v : Byte) : Apart x st (sideByte st w a v) := by
  unfold sideByte
  dsimp only
  have h1 : Apart x st (if a = aISTAT then
      { st with src := { st.src with cleared := (st.src.cleared.zipIdx).map fun p => if bitAt v.toNat p.2 then w + 1 else p.1 } }
    else if a = aLSRC ∧ bitAt v.toNat 0 = true then { st with src := { st.src with lmCleared := w + 1 } } else st) := by
    split
    · exact (Apart.refl st).of rfl rfl rfl rfl
    · split
      · exact (Apart.refl st).of rfl rfl rfl rfl
      · exact Apart.refl st
  split
  · split
    · exact h1.of rfl rfl rfl rfl
    · exact h1
  · exact h1

theorem sideBytes_apart {x : Nat} (w : Nat) (bs : Bytes) : ∀ (st : Stall) (a : Nat), Apart x st (sideBytes st w a bs) := by
  induction bs with
  | nil => intro st a; exact Apart.refl st
  | cons b bs ih => intro st a; exact (sideByte_apart st w _ b).trans (ih _ _)

/-- Stamps entered change no byte and no effect still to come. -/
theorem addStamps_apart {x : Nat} (st : Stall) (l : List Stamp) : Apart x st (addStamps st l) := by
  unfold addStamps
  split
  · exact Apart.refl st
  · exact (Apart.refl st).of rfl rfl rfl rfl

theorem addStamps_mem (st : Stall) (l : List Stamp) : (addStamps st l).mem = st.mem := by
  unfold addStamps
  split <;> rfl

theorem procWrite_apart {x : Nat} (hx : x < 2 ^ 24) (st : Stall) (w a : Nat) (bs : Bytes)
    (h : ∀ i, i < bs.length → (a + i) % 2 ^ 24 ≠ x) : Apart x st (procWrite st w a bs) := by
  unfold procWrite
  dsimp only
  exact ((procBytes_apart hx bs st a h).trans (addStamps_apart _ (procStamps st.cls w a bs))).trans
    (sideBytes_apart w bs _ a)

theorem clearEn_apart {x : Nat} (st : Stall) (n : Nat) (h : aTCTL n ≠ x) : Apart x st (clearEn st n) :=
  ⟨rfl, rfl, rfl, rfl, (Memory.get_set _ _ _ _).trans (if_neg h)⟩

theorem Sources.setTmr_coll (s : Sources) (n : Nat) (t : Timer) : (s.setTmr n t).collDue = s.collDue := by
  unfold Sources.setTmr; split <;> rfl

theorem settleTimer_apart {x : Nat} (fuel : Nat) : ∀ (st : Stall) (n w : Nat), aTCTL n ≠ x → Apart x st (settleTimer fuel st n w) := by
  induction fuel with
  | zero => intro st n w _; exact Apart.refl st
  | succ f ih =>
    intro st n w h
    unfold settleTimer
    dsimp only
    split
    · have hk : ∀ t, Apart x st { st with src := st.src.setTmr n t } := fun t => ⟨rfl, Sources.setTmr_coll _ _ _, rfl, rfl, rfl⟩
      split
      · exact (hk _).trans (clearEn_apart _ n h)
      · exact (hk _).trans (ih _ n w h)
    · exact Apart.refl st

theorem settle_apart {x : Nat} (st : Stall) (w : Nat) (h0 : aTCTL 0 ≠ x) (h1 : aTCTL 1 ≠ x) : Apart x st (settle st w) := by
  have hs : Apart x st (settleSnd (settleLm st w) w) := ⟨rfl, rfl, rfl, rfl, rfl⟩
  exact (hs.trans (settleTimer_apart _ _ 0 w h0)).trans (settleTimer_apart _ _ 1 w h1)

theorem timerWritten_apart {x : Nat} (st : Stall) (n w : Nat) (e : Bool) : Apart x st (timerWritten st n w e) := by
  unfold timerWritten
  dsimp only
  split
  · exact ⟨rfl, Sources.setTmr_coll _ _ _, rfl, rfl, rfl⟩
  · exact Apart.refl st

theorem shadowStop_apart {x : Nat} (st : Stall) (n : Nat) (b : Bool) : Apart x st (shadowStop st n b) := by
  cases b
  · exact Apart.refl st
  · exact ⟨rfl, rfl, rfl, rfl, rfl⟩

/-- The writes of an instruction change no byte that they do not touch, but for the EN bit that a timer clears by itself. -/
theorem procWrites_apart {x : Nat} (hx : x < 2 ^ 24) (h0 : aTCTL 0 ≠ x) (h1 : aTCTL 1 ≠ x) (st : Stall) (w : Nat)
    (wrs : List (Nat × Bytes)) (h : ∀ p ∈ wrs, ∀ i, i < p.2.length → (p.1 + i) % 2 ^ 24 ≠ x) : Apart x st (procWrites st w wrs) := by
  unfold procWrites
  dsimp only
  have hs : ∀ (l : List (Nat × Bytes)), (∀ p ∈ l, ∀ i, i < p.2.length → (p.1 + i) % 2 ^ 24 ≠ x) → ∀ s,
      Apart x s (l.foldl (fun s p => procWrite s w p.1 p.2) s) := by
    intro l
    induction l with
    | nil => intro _ s; exact Apart.refl s
    | cons p l ih =>
      intro h s
      exact (procWrite_apart hx s w p.1 p.2 (h p (by simp))).trans (ih (fun q hq => h q (by simp [hq])) _)
  split
  · exact (((((settle_apart st w h0 h1).trans (hs wrs h _)).trans (timerWritten_apart _ 0 w _)).trans
      (timerWritten_apart _ 1 w _)).trans (shadowStop_apart _ 0 _)).trans (shadowStop_apart _ 1 _)
  · exact hs wrs h st

/-! ### Plain memory -/

/-- A byte written to plain memory outside the video RAM window. -/
theorem procByte_ram (st : Stall) (a : Nat) (v : Byte) (h : isRam st.cls a = true) (hw : a < 0x200000 ∨ 0x210000 ≤ a) :
    (procByte st a v).mem = Memory.set st.mem a v := by
  have hm : ∀ y k, (markDirty y k).mem = y.mem := by
    intro y k; unfold markDirty; split
    · rfl
    · split <;> rfl
  unfold procByte
  rw [if_pos (by simp [writable, h])]
  dsimp only
  rw [hm]
  simp [putView, keyOf_plain _ _ _ hw, h, maskedByte]

theorem isRam_low (c : BeamClass) (a : Nat) (h : a < 0x20800) : isRam c a = true := by
  unfold isRam
  cases c <;> simp <;> omega

theorem procByte_cls (st : Stall) (a : Nat) (v : Byte) : (procByte st a v).cls = st.cls :=
  (procByte_same (SameCpu.refl st)).cls

/-- Bytes written to the near page or to work RAM. -/
theorem procBytes_low (bs : Bytes) : ∀ (st : Stall) (a : Nat), a + bs.length ≤ 0x20800 →
    (procBytes st a bs).mem = Memory.setBytes st.mem a bs := by
  induction bs with
  | nil => intro st a _; rfl
  | cons b bs ih =>
    intro st a h
    simp only [List.length_cons] at h
    unfold procBytes Memory.setBytes
    rw [ih _ _ (by omega), Nat.mod_eq_of_lt (by omega), procByte_ram st a b (isRam_low _ _ (by omega)) (by omega)]

theorem sideBytes_mem (w : Nat) (bs : Bytes) (st : Stall) (a : Nat) (x : Nat) :
    Memory.get (sideBytes st w a bs).mem x = Memory.get st.mem x := (sideBytes_apart (x := x) w bs st a).byte

theorem getBytes_eq (m m' : Mem) (n : Nat) : ∀ a b, (∀ i, i < n → Memory.get m (a + i) = Memory.get m' (b + i)) →
    Memory.getBytes m a n = Memory.getBytes m' b n := by
  induction n with
  | zero => intro a b _; rfl
  | succ n ih =>
    intro a b h
    unfold Memory.getBytes
    rw [show Memory.get m a = Memory.get m' b from h 0 (by omega), ih (a+1) (b+1) (fun i hi => by
      have := h (i + 1) (by omega)
      rwa [show a + (i+1) = a + 1 + i by omega, show b + (i+1) = b + 1 + i by omega] at this)]
theorem getBytes_set (m : Mem) (bs : Bytes) : ∀ a, Memory.getBytes (Memory.setBytes m a bs) a bs.length = bs := by
  induction bs generalizing m with
  | nil => intro a; rfl
  | cons b bs ih =>
    intro a
    unfold Memory.setBytes
    show Memory.get _ a :: Memory.getBytes _ (a+1) bs.length = _
    rw [ih, Memory.get_setBytes_outside _ _ _ _ (by omega), Memory.get_set, if_pos rfl]
theorem flush_nil (st : Stall) (t : Nat) (h : st.pend = []) : flushBelow st t = st := by
  unfold flushBelow; rw [h]; rfl
theorem afterTick_nil (st : Stall) (h : st.pend = []) (h2 : st.src.collDue = []) (h3 : st.ras.ahead = []) : (afterTick st).mem = st.mem := by
  have hp : passMarks st st.tick = st := by unfold passMarks; rw [h3]; rfl
  unfold afterTick; rw [hp, flush_nil _ _ h]
  unfold applyColl; rw [h2]; rfl
theorem leBytes_length (n x : Nat) : (leBytes n x).length = n := by
  induction n generalizing x with
  | zero => rfl
  | succ n ih => simp [leBytes, ih]
theorem frameBytes_length (st : Stall) (v r p : Nat) : (frameBytes st v r p).length = 12 := by
  simp [frameBytes, leBytes_length]
theorem any_false (fa n : Nat) (h1 : fa + n ≤ 0x20800) : ((upto n).any fun i => touchesSources ((fa + i) % 2 ^ 24)) = false := by
  simp only [List.any_eq_false, upto, List.mem_range]
  intro i hi
  simp [touchesSources, inRange]
  omega
theorem procWrite_low (st : Stall) (w a : Nat) (bs : Bytes) (h : a + bs.length ≤ 0x20800) (x : Nat) :
    Memory.get (procWrite st w a bs).mem x = Memory.get (Memory.setBytes st.mem a bs) x := by
  unfold procWrite
  dsimp only
  rw [sideBytes_mem]
  rw [addStamps_mem, procBytes_low _ _ _ h]
theorem procWrites_low2 (st : Stall) (w a b : Nat) (p q : Bytes) (ha : a + p.length ≤ 0x20800) (hb : b + q.length ≤ 0x20800) :
    procWrites st w [(a, p), (b, q)] = procWrite (procWrite st w a p) w b q := by
  unfold procWrites
  dsimp only
  have : (List.any [(a, p), (b, q)] fun p => (upto p.2.length).any fun i => touchesSources ((p.1 + i) % 2 ^ 24)) = false := by
    simp only [List.any_cons, List.any_nil, any_false a _ ha, any_false b _ hb, Bool.or_self]
  rw [this]; rfl
theorem ofLE_leBytes : ∀ (n x : Nat), ofLE (leBytes n x) = x % 256 ^ n := by
  intro n
  induction n with
  | zero => intro x; simp [leBytes, ofLE]; omega
  | succ n ih =>
    intro x
    simp only [leBytes, ofLE, ih, BitVec.toNat_ofNat]
    have := Nat.mod_mul (x := x) (a := 256) (b := 256 ^ n)
    rw [show 256 ^ (n+1) = 256 * 256 ^ n by rw [Nat.pow_succ, Nat.mul_comm], this]
theorem frameAddr_lt (st : Stall) : frameAddr st < 2 ^ 24 := by unfold frameAddr; omega
theorem atTick_pend (y : Stall) (a b : Nat) (c : Cpu) : (y.atTick a b c).pend = y.pend := rfl
theorem atTick_coll (y : Stall) (a b : Nat) (c : Cpu) : (y.atTick a b c).src.collDue = y.src.collDue := rfl
theorem atTick_mem (y : Stall) (a b : Nat) (c : Cpu) : (y.atTick a b c).mem = y.mem := rfl

theorem frameWritten_eq (st : Stall) (e vec ret rep : Nat) (h : st.pend = []) :
    frameWritten st e vec ret rep = procWrites { st with shadow := .empty } (e + 5)
      [(0x7C, cellBytes (frameAddr st)), (frameAddr st, frameBytes st vec ret rep)] := by
  unfold frameWritten frameWrites
  rw [flush_nil _ _ (by exact h)]

theorem cellBytes_length (x : Nat) : (cellBytes x).length = 4 := by simp [cellBytes, leBytes_length]

theorem frame_apart (s0 : Stall) (w fa : Nat) (p q : Bytes) (hp : p.length = 4) (hq : q.length = 12) (hf : fa + 12 ≤ 0x20800) :
    Apart 0x300000 s0 (procWrites s0 w [(0x7C, p), (fa, q)]) := by
  refine procWrites_apart (by omega) (by decide) (by decide) _ _ _ ?_
  intro x hx i hi
  simp only [List.mem_cons, List.mem_nil_iff, or_false] at hx
  rcases hx with rfl | rfl
  · simp only [hp] at hi; omega
  · simp only [hq] at hi; omega

theorem frame_mem (s0 : Stall) (w fa : Nat) (p q : Bytes) (hp : p.length = 4) (hq : q.length = 12) (hf : fa + 12 ≤ 0x20800) (x : Nat) :
    Memory.get (procWrites s0 w [(0x7C, p), (fa, q)]).mem x = Memory.get (Memory.setBytes (Memory.setBytes s0.mem 0x7C p) fa q) x := by
  rw [procWrites_low2 s0 w 0x7C fa p q (by omega) (by omega), procWrite_low _ _ _ _ (by omega)]
  by_cases hx : fa ≤ x ∧ x < fa + 12
  · have e1 := fun m => Memory.get_setBytes_inside m fa (x - fa) q (by omega)
    rw [show fa + (x - fa) = x by omega] at e1
    rw [e1, e1]
  · rw [Memory.get_setBytes_outside _ _ _ _ (by omega), Memory.get_setBytes_outside _ _ _ _ (by omega), procWrite_low _ _ _ _ (by omega)]

theorem entered_mem (y : Stall) (e vec : Nat) (e1 : y.pend = []) (e2 : y.src.collDue = []) (e3 : y.ras.ahead = []) :
    (afterTick (y.atTick (e + 6) (e + 1) (cpuEntered y.cpu e vec))).mem = y.mem :=
  (afterTick_nil (y.atTick (e + 6) (e + 1) (cpuEntered y.cpu e vec)) e1 e2 e3).trans (atTick_mem _ _ _ _)

theorem frameWritten_apart (st : Stall) (e vec ret rep : Nat) (h : st.pend = []) (h4 : frameAddr st + 12 ≤ 0x20800) :
    Apart 0x300000 { st with shadow := .empty } (frameWritten st e vec ret rep) := by
  rw [frameWritten_eq st e vec ret rep h]
  exact frame_apart _ _ _ _ _ (cellBytes_length _) (frameBytes_length _ _ _ _) h4

/-- The memory after an entry whose frame lies in the near page or work RAM, with no agent effect due (R96, R98). -/
theorem enter_mem (st : Stall) (e vec ret rep : Nat) (h : st.pend = []) (h2 : st.src.collDue = [])
    (h3 : st.ras.ahead = []) (h4 : frameAddr st + 12 ≤ 0x20800) (x : Nat) :
    Memory.get (enter st e vec ret rep).mem x = Memory.get (Memory.setBytes (Memory.setBytes st.mem 0x7C (cellBytes (frameAddr st)))
      (frameAddr st) (frameBytes st vec ret rep)) x := by
  have ha := frameWritten_apart st e vec ret rep h h4
  have e1 : (frameWritten st e vec ret rep).pend = [] := ha.pend.trans h
  have e2 : (frameWritten st e vec ret rep).src.collDue = [] := ha.coll.trans h2
  have hy : (enter st e vec ret rep).mem = (frameWritten st e vec ret rep).mem := by
    unfold enter
    exact entered_mem _ _ _ e1 e2 (ha.ahead.trans h3)
  rw [hy, frameWritten_eq st e vec ret rep h]
  exact frame_mem _ _ _ _ _ (cellBytes_length _) (frameBytes_length _ _ _ _) h4 x

theorem setInsv_cpu (y : Stall) (l : Nat) : (setInsv y l).cpu = y.cpu := rfl

theorem setEcause_cpu (y : Stall) (c : Cause) : (setEcause y c).cpu = y.cpu := rfl

theorem enterLine_cpu (st : Stall) (l : Nat) : (enterLine st l).cpu = cpuEntered st.cpu st.tick (4 + l) := by
  rw [enterLine, setInsv_cpu, enter_cpu]

theorem enterIllegal_cpu (st : Stall) (c : Cause) : (enterIllegal st c).cpu = cpuEntered st.cpu st.tick 1 := by
  rw [enterIllegal, setEcause_cpu, enter_cpu]

theorem enterDivZero_cpu (st : Stall) : (enterDivZero st).cpu = cpuEntered st.cpu st.tick 2 := by
  rw [enterDivZero, enter_cpu]

/-- A break point passed changes no clock, number, fault, latch or request: only the skip and the hold end. -/
theorem pastBreak_goesOn (st : Stall) : st.pastBreak.tick = st.tick ∧ st.pastBreak.cpu = st.cpu ∧ st.pastBreak.num = st.num ∧
    st.pastBreak.sched = st.sched ∧ st.pastBreak.hold = .none ∧ st.pastBreak.mem = st.mem := ⟨rfl, rfl, rfl, rfl, rfl, rfl⟩

/-- A stall that idles keeps all that `Same` names but its hold, which is over. -/
theorem idledTo_same (st : Stall) (e : Nat) : Same st { st.idledTo e with hold := st.hold } :=
  have h := ((SameCpu.shadowOnly st .empty).toSame.trans (Same.atTick _ st.cpu e e)).trans (afterTick_same (SameCpu.refl _)).toSame
  { num := h.num, title := h.title, cls := h.cls, ucset := h.ucset, lead := h.lead, f0 := h.f0, sched := h.sched, hold := rfl,
    reasons := h.reasons, faults := h.faults, replayTo := h.replayTo, latched := h.latched, resetAt := h.resetAt, log := h.log,
    haltPend := h.haltPend, haltWhy := h.haltWhy, stepping := h.stepping, l1 := h.l1 }

theorem idledTo_tick (st : Stall) (e : Nat) : (st.idledTo e).tick = e := by
  rw [Stall.idledTo, (pastBreak_goesOn _).1]
  exact (afterTick_same (SameCpu.refl _)).tick

theorem woken_same (st : Stall) : Same st st.woken := Same.of (SameCpu.refl _).toSame rfl rfl

end Sys2Proof.Machine
end

