-- ==== Sys2Proof/WellFormed.lean ====
section
/-! DEFINITION. Which commands are well formed: every operand within the range that the register field, the number space or
the rule it stands for gives it. exec is total all the same: an operand out of its range names nothing. -/
namespace Sys2Proof

/-- The command's operands lie in their ranges. -/
def wellFormed : Instr → Bool
  | .nop stall => decide (stall < 4096)
  | .mov stall => decide (stall < 4096)
  | .xch stall => decide (stall < 4096)
  | .lea stall => decide (stall < 4096)
  | .push stall => decide (stall < 4096)
  | .pop stall => decide (stall < 4096)
  | .clr stall => decide (stall < 4096)
  | .swpb stall => decide (stall < 4096)
  | .add stall => decide (stall < 4096)
  | .adc stall => decide (stall < 4096)
  | .sub stall => decide (stall < 4096)
  | .sbc stall => decide (stall < 4096)
  | .cmp stall => decide (stall < 4096)
  | .neg stall => decide (stall < 4096)
  | .inc stall => decide (stall < 4096)
  | .dec stall => decide (stall < 4096)
  | .and stall => decide (stall < 4096)
  | .or stall => decide (stall < 4096)
  | .xor stall => decide (stall < 4096)
  | .not stall => decide (stall < 4096)
  | .tst stall => decide (stall < 4096)
  | .sext stall => decide (stall < 4096)
  | .mul stall => decide (stall < 4096)
  | .mulu stall => decide (stall < 4096)
  | .div stall => decide (stall < 4096)
  | .divs stall => decide (stall < 4096)
  | .shl stall => decide (stall < 4096)
  | .shr stall => decide (stall < 4096)
  | .sar stall => decide (stall < 4096)
  | .rol stall => decide (stall < 4096)
  | .ror stall => decide (stall < 4096)
  | .bit stall => decide (stall < 4096)
  | .lda stall => decide (stall < 4096)
  | .sta stall => decide (stall < 4096)
  | .adda stall => decide (stall < 4096)
  | .suba stall => decide (stall < 4096)
  | .mpy stall => decide (stall < 4096)
  | .mac stall => decide (stall < 4096)
  | .msu stall => decide (stall < 4096)
  | .rnd stall => decide (stall < 4096)
  | .sha stall => decide (stall < 4096)
  | .abs stall => decide (stall < 4096)
  | .mvc stall => decide (stall < 4096)
  | .br stall => decide (stall < 4096)
  | .jmp stall => decide (stall < 4096)
  | .call stall => decide (stall < 4096)
  | .ret stall => decide (stall < 4096)
  | .reti stall => decide (stall < 4096)
  | .dbnz stall => decide (stall < 4096)
  | .dbrc stall => decide (stall < 4096)
  | .ldrc stall => decide (stall < 4096)
  | .rpt stall => decide (stall < 4096)
  | .lock stall => decide (stall < 4096)
  | .swi stall => decide (stall < 4096)
  | .wait stall => decide (stall < 4096)
  | .sync stall => decide (stall < 4096)
  | .userOpcode stall => decide (stall < 4096)
  | .repetition stall => decide (stall < 4096)
  | .idleStep stall => decide (stall < 4096)
  | .interruptEntry stall => decide (stall < 4096)
  | .illegalEntry stall => decide (stall < 4096)
  | .divzeroEntry stall => decide (stall < 4096)
  | .catchUpRead stall => decide (stall < 4096)
  | .stampQueueRelease stall => decide (stall < 4096)
  | .translationFault stall index entry agent _ _ _ => decide (stall < 4096) && decide (index < 0x102000) && decide (entry < 2 ^ 64) && decide (agent < 8)
  | .faultResolve stall index _ => decide (stall < 4096) && decide (index < 0x102000)
  | .ckptPageCopy stall index => decide (stall < 4096) && decide (index < 16384)
  | .vblAssert stall => decide (stall < 4096)
  | .lineMatch stall => decide (stall < 4096)
  | .timerExpiry stall timer => decide (stall < 4096) && decide (timer < 2)
  | .sndPeriodExpiry stall => decide (stall < 4096)
  | .inputVisible stall => decide (stall < 4096)
  | .stallResetApply stall => decide (stall < 4096)
  | .checkpointCapture stall => decide (stall < 4096)
  | .checkpointComplete stall => decide (stall < 4096)
  | .renderDot stall => decide (stall < 4096)
  | .sliceDeadline stall => decide (stall < 4096)
  | .sliceGrant slot core => decide (slot < 17) && decide (core < 4)
  | .quantumExpiry stall => decide (stall < 4096)
  | .holdEvict stall => decide (stall < 4096)
  | .holdClear stall => decide (stall < 4096)
  | .blockedRelease stall => decide (stall < 4096)
  | .parkTimeout stall => decide (stall < 4096)
  | .stbDrain slot _ => decide (slot < 17)
  | .stbFence slot => decide (slot < 17)
  | .coreFault slot unit lost => decide (slot < 17) && decide (unit < 4096) && decide (lost < 8)
  | .storeFault slot lost => decide (slot < 17) && decide (lost < 8)
  | .takeoverComplete => true
  | .faultPointReached stall => decide (stall < 4096)
  | .stableReset slot _ => decide (slot < 17)
  | .ucsValidate slot set => decide (slot < 17) && decide (set < 16)
  | .ucsRelease slot set => decide (slot < 17) && decide (set < 16)
  | .cmpCommit stream => decide (stream < 16384)
  | .commitValidated _ => true
  | .commitTakeEffect stream => decide (stream < 16384)
  | .bedRebuildComplete stream => decide (stream < 16384)
  | .composeSlice stream => decide (stream < 16384)
  | .sliceLateLimit stream => decide (stream < 16384)
  | .monCommit => true
  | .monTimingApply => true
  | .monEnable _ => true
  | .monFrameStart fills => decide (fills.length ≤ 4096) && fills.all fun n => decide (n ≤ 4096)
  | .monUnderrun line pixel => decide (line < 4096) && decide (pixel < 8192)
  | .monFrameEnd _ => true
  | .codingRowStart core => decide (core < 25)
  | .codingRowDone core => decide (core < 25)
  | .encRowWatchdog core => decide (core < 25)
  | .encCoreFault core cause => decide (core < 25) && decide (cause < 16)
  | .encSpareActivate => true
  | .beamSample stall => decide (stall < 4096)
  | .graphSample stall => decide (stall < 4096)
  | .audSwap stall _ => decide (stall < 4096)
  | .audSwapValidated => true
  | .audioFrameForm stall _ => decide (stall < 4096)
  | .hodStart stall sub => decide (stall < 4096) && decide (sub < 8)
  | .hodHalt stall sub => decide (stall < 4096) && decide (sub < 8)
  | .hodResume stall sub => decide (stall < 4096) && decide (sub < 8)
  | .hodClear stall sub => decide (stall < 4096) && decide (sub < 8)
  | .brickRead stall sub => decide (stall < 4096) && decide (sub < 8)
  | .brickWrite stall sub => decide (stall < 4096) && decide (sub < 8)
  | .blitCopy stall sub => decide (stall < 4096) && decide (sub < 8)
  | .blitFill stall sub => decide (stall < 4096) && decide (sub < 8)
  | .brickQuery stall sub => decide (stall < 4096) && decide (sub < 8)
  | .setpos stall sub => decide (stall < 4096) && decide (sub < 8)
  | .seek stall sub => decide (stall < 4096) && decide (sub < 8)
  | .flush stall sub => decide (stall < 4096) && decide (sub < 8)
  | .setdst stall sub => decide (stall < 4096) && decide (sub < 8)
  | .brickGoto stall sub => decide (stall < 4096) && decide (sub < 8)
  | .brickWait stall sub => decide (stall < 4096) && decide (sub < 8)
  | .waitComplete stall sub => decide (stall < 4096) && decide (sub < 8)
  | .brickNop stall sub => decide (stall < 4096) && decide (sub < 8)
  | .brickPost stall sub => decide (stall < 4096) && decide (sub < 8)
  | .brickPause stall sub => decide (stall < 4096) && decide (sub < 8)
  | .brickComplete stall sub => decide (stall < 4096) && decide (sub < 8)
  | .hodLoop stall sub => decide (stall < 4096) && decide (sub < 8)
  | .hodUnit stall sub => decide (stall < 4096) && decide (sub < 8)
  | .linkRelease => true
  | .linkDeliveryVisible stall => decide (stall < 4096)
  | .hodHstart h => decide (h < 64)
  | .hodHhalt h => decide (h < 64)
  | .hodHresume h => decide (h < 64)
  | .hodHclear h => decide (h < 64)
  | .hodHostUnit h _ _ => decide (h < 64)
  | .hodHgrantWrite _ sheds => decide (sheds < 64)
  | .hodAssign stall sub ty => decide (stall < 4096) && decide (sub < 8) && decide (ty < 16)
  | .movChPi ch pi => decide (ch < 8) && decide (pi < 4096)
  | .dma ch _ => decide (ch < 8)
  | .planePack ch _ => decide (ch < 8)
  | .planeUnpack ch _ => decide (ch < 8)
  | .interleave ch _ => decide (ch < 8)
  | .deinterleave ch _ => decide (ch < 8)
  | .fill ch _ => decide (ch < 8)
  | .bcopy ch _ => decide (ch < 8)
  | .bconvert ch _ => decide (ch < 8)
  | .moverStallAccess ch => decide (ch < 8)
  | .movFaultResume ch => decide (ch < 8)
  | .movHalt ch => decide (ch < 8)
  | .memInval stall index _ _ => decide (stall < 4096) && decide (index < 16384)
  | .memInvalDone => true
  | .hbmUe addr agent who => decide (addr < 2 ^ 40) && decide (agent < 8) && decide (who < 32768)
  | .scrubRead addr result => decide (addr < 2 ^ 40) && decide (result < 4)
  | .memXfaultPop => true
  | .portTrained port => decide (port < 8)
  | .portFail port => decide (port < 8)
  | .frameReceive port _ _ => decide (port < 8)
  | .inputDatagram => true
  | .rtcpReport => true
  | .tmmbr => true
  | .pli => true
  | .rtcpSrSend stream => decide (stream < 16384)
  | .packetSend _ num => decide (num < 16384)
  | .recordRead _ num => decide (num < 16384)
  | .helloSend port => decide (port < 8)
  | .helloReceive => true
  | .routeTimeout port yard => decide (port < 8) && decide (yard < 2 ^ 20)
  | .yardDataReceive => true
  | .yardAckReceive => true
  | .yardNakReceive => true
  | .ackTimer yard => decide (yard < 2 ^ 20)
  | .nakTimer yard => decide (yard < 2 ^ 20)
  | .retransmitTimeout yard => decide (yard < 2 ^ 20)
  | .peerUnreachable yard => decide (yard < 2 ^ 20)
  | .ptpSync _ => true
  | .ptpHoldover => true
  | .yrdLoad table index => decide (table < 4) && decide (index < 16384)
  | .yrdDetach => true
  | .migrationPark stall => decide (stall < 4096)
  | .migrateReady _ stall yard verdict _ _ _ => decide (stall < 4096) && decide (yard < 2 ^ 20) && decide (verdict < 65536)
  | .migrateCommit stall => decide (stall < 4096)
  | .commitAck stall => decide (stall < 4096)
  | .cadTimeRead => true
  | .mbxDoorbell _ => true
  | .m2hData0Read _ => true
  | .unknownCommand => true
  | .rngSqTail ring tail => decide (ring < 9) && decide (tail < 4096)
  | .rngCqHead ring head => decide (ring < 9) && decide (head < 4096)
  | .sqRepoll ring => decide (ring < 9)
  | .sqEntryFetch ring entry => decide (ring < 9) && (match entry with | some e => e.length == 64 | none => true)
  | .jobStart ring => decide (ring < 9)
  | .ringNop ring => decide (ring < 9)
  | .ringControl _ _ _ verdict _ => decide (verdict < 65536)
  | .latchInput => true
  | .toDevice ring _ => decide (ring < 9)
  | .fromDevice ring taken => decide (ring < 9) && decide (taken < 2 ^ 32)
  | .rxBuffer ring => decide (ring < 9)
  | .hostioTx ring _ => decide (ring < 9)
  | .jobComplete ring => decide (ring < 9)
  | .ringDelivery cls _ => decide (cls < 9)
  | .rxJobTimeout ring => decide (ring < 9)
  | .perstFull => true
  | .portReset kind => decide (kind < 4)
  | .orphanTimeout => true
  | .identify => true
  | .fwStatus => true
  | .logRead _ => true
  | .deviceReset => true
  | .abortToBoot => true
  | .fwBegin => true
  | .fwCommit => true
  | .packageCheck poison => decide (poison < 2 ^ 40)
  | .firmwareReady slots cores => decide (slots < 2 ^ 17) && decide (cores < 2 ^ 25)
  | .modeSet => true
  | .deviceSet => true
  | .setSplit => true
  | .ringCreate => true
  | .ringDelete => true
  | .titleRegister _ _ => true
  | .titleRemove => true
  | .pageSupply _ => true
  | .stallCreate _ => true
  | .stallStart => true
  | .stallPark => true
  | .stallResume => true
  | .stallReset => true
  | .stallSet => true
  | .stallMove => true
  | .stallDestroy => true
  | .stallQuery => true
  | .subchAssign => true
  | .linkPeer => true
  | .resumeFromCheckpoint => true
  | .streamConfig _ => true
  | .streamNet _ => true
  | .courseSet => true
  | .regionSet => true
  | .streamCommit _ => true
  | .streamKeyframe => true
  | .streamQuery => true
  | .streamDestroy => true
  | .laneConfig => true
  | .laneOpwr => true
  | .graphLoad _ => true
  | .keySet => true
  | .flowSet _ => true
  | .flowClear => true
  | .yardSet => true
  | .addrSet => true
  | .routeSet _ => true
  | .migrate verdict => decide (verdict < 65536)
  | .migrateResolve => true
  | .snapshotExport _ => true
  | .snapshotImport _ _ _ => true
  | .debugToken => true
  | .debugRevoke => true
  | .por _ => true
  | .devrst _ _ => true
  | .warmrst _ => true
  | .slumberWake pin => decide (pin < 8)
  | .slumberExitReset _ => true
  | .railLoss => true
  | .refclkLoss clk => decide (clk < 4)
  | .mpwKick n key => decide (n < 2) && decide (key < 256)
  | .mpwExpiry n lost => decide (n < 2) && decide (lost < 8)
  | .mpFailure cause lost => decide (cause < 16) && decide (lost < 8)
  | .unrecoverableFault reason unit => decide (reason < 256) && decide (unit < 4096)
  | .evtArbitration => true
  | .evtClaim target => decide (target < 4)
  | .evtDone target source => decide (target < 4) && decide (source < 512)
  | .dbgNonce => true
  | .dbgUnlock level => decide (level < 4)
  | .dbgLock => true
  | .nonceExpiry => true
  | .damAccess _ _ => true
  | .damStallAccess _ => true
  | .dbgSctlHalt stall _ => decide (stall < 4096)
  | .dbgSctlResume stall => decide (stall < 4096)
  | .dbgSctlStep stall => decide (stall < 4096)
  | .dbgSctlFeed stall flen => decide (stall < 4096) && decide (flen < 8)
  | .dbgFreeze _ => true
  | .dbgMpctl _ _ => true
  | .advance epoch => decide (epoch < 128)
  | .revoke key => decide (key < 2)
  | .debugCoreReset _ => true
  | .cnfEnd => true
  | .idcode => true
  | .samplePreload => true
  | .extest => true
  | .clamp => true
  | .highz => true
  | .dbgreg off data _ _ _ => decide (off < 65536) && decide (data < 2 ^ 32)
  | .bypass => true
  | .gpioCfgWrite reg value => decide (reg < 33) && decide (value < 2 ^ 32)
  | .gpioEdge pin _ => decide (pin < 32)
  | .throttlePin _ => true
  | .tempSample _ sensor watts => decide (sensor < 24) && decide (watts < 65536)
  | .chainInRise => true
  | .smbusTimeout => true
  | .alertResponse => true
  | .assignAddr addr _ value => decide (addr < 128) && decide (value < 256)
  | .releaseAddr addr _ => decide (addr < 128)
  | .lastStatus addr _ => decide (addr < 128)
  | .readId addr _ => decide (addr < 128)
  | .readMode addr _ => decide (addr < 128)
  | .readRst addr _ => decide (addr < 128)
  | .readFstop addr _ => decide (addr < 128)
  | .readTemp addr _ => decide (addr < 128)
  | .readPower addr _ => decide (addr < 128)
  | .devReset addr _ value _ => decide (addr < 128) && decide (value < 256)
  | .warmReset addr _ value _ => decide (addr < 128) && decide (value < 256)
  | .sleep addr _ value => decide (addr < 128) && decide (value < 256)
  | .wake addr _ value => decide (addr < 128) && decide (value < 256)
  | .throttle addr _ value => decide (addr < 128) && decide (value < 256)
  | .wakeCfg addr _ _ value => decide (addr < 128) && decide (value < 65536)
  | .registerWrite _ bar off data _ _ => decide (off < 2 ^ 26) && [0, 2, 4, 6].contains bar && decide (1 ≤ data.length)
  | .resetNRelease _ => true
  | .perstDeassert _ => true
  | .pcieLinkUp => true
  | .resetRelease _ => true
  | .testEnAssert => true
  | .chainInFall => true
  | .mgmtUnknownCommand addr _ code => decide (addr < 128) && decide (code < 256)
  | .rcRead _ _ bar off size _ => decide (off < 2 ^ 26) && [0, 2, 4, 6].contains bar && decide (1 ≤ size)

end Sys2Proof
end

