-- ==== Sys2Proof/Tests/Slice0.lean ====
section
/-! SUPPORT. Tests of the model and witnesses of the statements' hypotheses, each on a small state. -/
namespace Sys2Proof.Tests
open Sys2Proof Sys2Proof.Machine

/-! ### A small device: mode SERVE, one stall of Class L on slot 0 -/

/-- A title whose program is the words given. -/
def title (ws : List Nat) : Title :=
  { handle := 1, digest := [], classes := 7, pages := 1, progAt := 0, cartAt := 0, init := [], prog := ws.flatMap (leBytes 2), cart := []
    media := [], save := 0, ucs := none, exts := [] }

/-- Stall 3 of Class L, running on slot 0 with real time far ahead and past its first checkpoint. -/
def stall : Stall :=
  { newStall 3 1 .L false 16 0 0x1F 0 (newBody .L [] [] (newSubs (title []))) with
    f0 := some 0, sched := .running, reasons := [], tick := 10, ckptBound := 1000000, src := { Sources.reset 0 0 with lmFrom := 11 } }

/-- The device with a stall and a program. -/
def dev (st : Stall) (ws : List Nat) : State :=
  { State.reset with
    mode := .serve, held := false, time := 1000000000, titles := [title ws], stalls := [st] }.puts
      [(placeValid 3, 1), (placeL 3, 0), (lmapValid 0, 1), (lmapSlot 0, 0), (atSlot STB_STATE_STATE 0, 1), (atSlot STB_CTL_RUN 0, 1),
       (atSlot RAS_CTL_EN 0, 1), (MEM_CTL_EN, 1), (MEM_CTL_XLAT, 1)]

/-- The checks of wellFormed refuse an operand one past its range, part 1. -/
theorem test_ill_formed_1 : ([.nop 4096, .mov 4096, .xch 4096, .lea 4096,
    .push 4096, .pop 4096, .clr 4096, .swpb 4096,
    .add 4096, .adc 4096, .sub 4096, .sbc 4096,
    .cmp 4096, .neg 4096, .inc 4096, .dec 4096,
    .and 4096, .or 4096, .xor 4096, .not 4096,
    .tst 4096, .sext 4096, .mul 4096, .mulu 4096,
    .div 4096, .divs 4096, .shl 4096, .shr 4096,
    .sar 4096, .rol 4096, .ror 4096, .bit 4096,
    .lda 4096, .sta 4096, .adda 4096, .suba 4096,
    .mpy 4096, .mac 4096, .msu 4096, .rnd 4096] : List Instr).all (fun c => !wellFormed c) = true := by decide

/-- The checks of wellFormed refuse an operand one past its range, part 2. -/
theorem test_ill_formed_2 : ([.sha 4096, .abs 4096, .mvc 4096, .br 4096,
    .jmp 4096, .call 4096, .ret 4096, .reti 4096,
    .dbnz 4096, .dbrc 4096, .ldrc 4096, .rpt 4096,
    .lock 4096, .swi 4096, .wait 4096, .sync 4096,
    .userOpcode 4096, .repetition 4096, .idleStep 4096, .interruptEntry 4096,
    .illegalEntry 4096, .divzeroEntry 4096, .catchUpRead 4096, .stampQueueRelease 4096,
    .translationFault 4096 0 0 0 false false 0, .translationFault 0 0x102000 0 0 false false 0, .translationFault 0 0 (2 ^ 64) 0 false false 0, .translationFault 0 0 0 8 false false 0,
    .faultResolve 4096 0 none, .faultResolve 0 0x102000 none, .ckptPageCopy 4096 0, .ckptPageCopy 0 16384,
    .vblAssert 4096, .lineMatch 4096, .timerExpiry 4096 0, .timerExpiry 0 2,
    .sndPeriodExpiry 4096, .inputVisible 4096, .stallResetApply 4096, .checkpointCapture 4096] : List Instr).all (fun c => !wellFormed c) = true := by decide

/-- The checks of wellFormed refuse an operand one past its range, part 3. -/
theorem test_ill_formed_3 : ([.checkpointComplete 4096, .renderDot 4096, .sliceDeadline 4096, .sliceGrant 17 0,
    .sliceGrant 0 4, .quantumExpiry 4096, .holdEvict 4096, .holdClear 4096,
    .blockedRelease 4096, .parkTimeout 4096, .stbDrain 17 false, .stbFence 17,
    .coreFault 17 0 0, .coreFault 0 4096 0, .coreFault 0 0 8, .storeFault 17 0,
    .storeFault 0 8, .faultPointReached 4096, .stableReset 17 false, .ucsValidate 17 0,
    .ucsValidate 0 16, .ucsRelease 17 0, .ucsRelease 0 16, .cmpCommit 16384,
    .commitTakeEffect 16384, .bedRebuildComplete 16384, .composeSlice 16384, .sliceLateLimit 16384,
    .monUnderrun 4096 0, .monUnderrun 0 8192, .codingRowStart 25, .codingRowDone 25,
    .encRowWatchdog 25, .encCoreFault 25 0, .encCoreFault 0 16, .beamSample 4096,
    .graphSample 4096, .audSwap 4096 false, .audioFrameForm 4096 [], .hodStart 4096 0] : List Instr).all (fun c => !wellFormed c) = true := by decide

/-- The checks of wellFormed refuse an operand one past its range, part 4. -/
theorem test_ill_formed_4 : ([.hodStart 0 8, .hodHalt 4096 0, .hodHalt 0 8, .hodResume 4096 0,
    .hodResume 0 8, .hodClear 4096 0, .hodClear 0 8, .brickRead 4096 0,
    .brickRead 0 8, .brickWrite 4096 0, .brickWrite 0 8, .blitCopy 4096 0,
    .blitCopy 0 8, .blitFill 4096 0, .blitFill 0 8, .brickQuery 4096 0,
    .brickQuery 0 8, .setpos 4096 0, .setpos 0 8, .seek 4096 0,
    .seek 0 8, .flush 4096 0, .flush 0 8, .setdst 4096 0,
    .setdst 0 8, .brickGoto 4096 0, .brickGoto 0 8, .brickWait 4096 0,
    .brickWait 0 8, .waitComplete 4096 0, .waitComplete 0 8, .brickNop 4096 0,
    .brickNop 0 8, .brickPost 4096 0, .brickPost 0 8, .brickPause 4096 0,
    .brickPause 0 8, .brickComplete 4096 0, .brickComplete 0 8, .hodLoop 4096 0] : List Instr).all (fun c => !wellFormed c) = true := by decide

/-- The checks of wellFormed refuse an operand one past its range, part 5. -/
theorem test_ill_formed_5 : ([.hodLoop 0 8, .hodUnit 4096 0, .hodUnit 0 8, .linkDeliveryVisible 4096,
    .hodHstart 64, .hodHhalt 64, .hodHresume 64, .hodHclear 64,
    .hodHostUnit 64 none false, .hodHgrantWrite false 64, .hodAssign 4096 0 0, .hodAssign 0 8 0,
    .hodAssign 0 0 16, .movChPi 8 0, .movChPi 0 4096, .dma 8 none,
    .planePack 8 none, .planeUnpack 8 none, .interleave 8 none, .deinterleave 8 none,
    .fill 8 none, .bcopy 8 none, .bconvert 8 none, .moverStallAccess 8,
    .movFaultResume 8, .movHalt 8, .memInval 4096 0 false false, .memInval 0 16384 false false,
    .hbmUe (2 ^ 40) 0 0, .hbmUe 0 8 0, .hbmUe 0 0 32768, .scrubRead (2 ^ 40) 0,
    .scrubRead 0 4, .portTrained 8, .portFail 8, .frameReceive 8 0 []] : List Instr).all (fun c => !wellFormed c) = true := by decide

/-- The checks of wellFormed refuse an operand one past its range, part 6. -/
theorem test_ill_formed_6 : ([.rtcpSrSend 16384, .packetSend false 16384, .recordRead false 16384, .helloSend 8,
    .routeTimeout 8 0, .routeTimeout 0 (2 ^ 20), .ackTimer (2 ^ 20), .nakTimer (2 ^ 20),
    .retransmitTimeout (2 ^ 20), .peerUnreachable (2 ^ 20), .yrdLoad 4 0, .yrdLoad 0 16384,
    .migrationPark 4096, .migrateReady false 4096 0 0 [] false none, .migrateReady false 0 (2 ^ 20) 0 [] false none, .migrateReady false 0 0 65536 [] false none,
    .migrateCommit 4096, .commitAck 4096, .rngSqTail 9 0, .rngSqTail 0 4096,
    .rngCqHead 9 0, .rngCqHead 0 4096, .sqRepoll 9, .sqEntryFetch 9 none,
    .sqEntryFetch 0 (some [0]), .jobStart 9, .ringNop 9, .ringControl none false false 65536 none,
    .toDevice 9 [], .fromDevice 9 0, .fromDevice 0 (2 ^ 32), .rxBuffer 9,
    .hostioTx 9 none, .jobComplete 9, .ringDelivery 9 false, .rxJobTimeout 9,
    .portReset 4, .packageCheck (2 ^ 40), .firmwareReady (2 ^ 17) 0, .firmwareReady 0 (2 ^ 25)] : List Instr).all (fun c => !wellFormed c) = true := by decide

/-- The checks of wellFormed refuse an operand one past its range, part 7. -/
theorem test_ill_formed_7 : ([.migrate 65536, .slumberWake 8, .refclkLoss 4, .mpwKick 2 0,
    .mpwKick 0 256, .mpwExpiry 2 0, .mpwExpiry 0 8, .mpFailure 16 0,
    .mpFailure 0 8, .unrecoverableFault 256 0, .unrecoverableFault 0 4096, .evtClaim 4,
    .evtDone 4 0, .evtDone 0 512, .dbgUnlock 4, .dbgSctlHalt 4096 false,
    .dbgSctlResume 4096, .dbgSctlStep 4096, .dbgSctlFeed 4096 0, .dbgSctlFeed 0 8,
    .advance 128, .revoke 2, .dbgreg 65536 0 false none false, .dbgreg 0 (2 ^ 32) false none false,
    .gpioCfgWrite 33 0, .gpioCfgWrite 0 (2 ^ 32), .gpioEdge 32 false, .tempSample 0 24 0,
    .tempSample 0 0 65536, .assignAddr 128 false 0, .assignAddr 0 false 256, .releaseAddr 128 false,
    .lastStatus 128 false, .readId 128 false, .readMode 128 false, .readRst 128 false,
    .readFstop 128 false, .readTemp 128 false, .readPower 128 false, .devReset 128 false 0 false] : List Instr).all (fun c => !wellFormed c) = true := by decide

/-- The checks of wellFormed refuse an operand one past its range, part 8. -/
theorem test_ill_formed_8 : ([.devReset 0 false 256 false, .warmReset 128 false 0 false, .warmReset 0 false 256 false, .sleep 128 false 0,
    .sleep 0 false 256, .wake 128 false 0, .wake 0 false 256, .throttle 128 false 0,
    .throttle 0 false 256, .wakeCfg 128 false false 0, .wakeCfg 0 false false 65536, .registerWrite false 0 (2 ^ 26) [0] none false,
    .registerWrite false 1 0 [0] none false, .registerWrite false 0 0 [] none false, .mgmtUnknownCommand 128 false 0,
    .mgmtUnknownCommand 0 false 256, .rcRead false false 0 (2 ^ 26) 1 none, .rcRead false false 1 0 1 none, .rcRead false false 0 0 0 none] : List Instr).all (fun c => !wellFormed c) = true := by decide

section
set_option Elab.async false

/-! ### Witnesses: the clock, the invariant, the instructions of a session core -/

/-- The small stall's code on the small device. -/
def codeOf (st : Stall) (ws : List Nat) : Code := (dev st ws).codeOf st 0

/-- The instruction in the words at its PC. -/
def instOf (st : Stall) (ws : List Nat) : Inst := (parseAt (codeOf st ws).fetch (codeOf st ws).ucs st.cpu.pc.toNat).1

/-- The small device meets the invariant, its queue is empty and its step answers a next state. -/
theorem test_device_invariant : (dev stall [0]).Inv ∧ (dev stall [0]).pending = [] ∧ ∃ t, step (dev stall [0]) = .next t :=
  ⟨⟨by decide +kernel, by decide +kernel, by decide +kernel⟩, by decide +kernel, _, rfl⟩

/-- The small stall goes on at the end of an instruction. -/
theorem test_goes_on : GoesOn (dev stall [0]) 3 stall := ⟨by decide +kernel, by decide +kernel, by decide +kernel, by decide +kernel⟩

/-- NOP stands ready on the small stall. -/
theorem test_ready : Ready (dev stall [0]) 3 stall 0 (instOf stall [0]) ∧ stall.cpu.rep = 0 ∧ (instOf stall [0]).op ≠ .swi :=
  ⟨⟨test_goes_on, by decide +kernel, by decide +kernel, rfl, by decide +kernel, by decide +kernel, by decide +kernel, by decide +kernel, by decide +kernel⟩, by decide +kernel, by decide +kernel⟩

/-- The small stall with two repetitions left. -/
def repeating : Stall := { stall with cpu := { stall.cpu with rep := 2 } }

/-- A repetition stands ready. -/
theorem test_ready_repetition : Ready (dev repeating [0]) 3 repeating 0 (instOf repeating [0]) ∧ 2 ≤ repeating.cpu.rep ∧
    repeating.cpu.repFirst = false ∧ notRepeatable (instOf repeating [0]).op = false :=
  ⟨⟨⟨by decide +kernel, by decide +kernel, by decide +kernel, by decide +kernel⟩, by decide +kernel, by decide +kernel, rfl, by decide +kernel, by decide +kernel, by decide +kernel, by decide +kernel, by decide +kernel⟩, by decide +kernel, by decide +kernel, by decide +kernel⟩

/-- With Z = 0 an EQ condition fails on an instruction that stands ready, with no agent effect due. -/
theorem test_condition_false : Ready (dev stall [0x400]) 3 stall 0 (instOf stall [0x400]) ∧ condOk stall (instOf stall [0x400]) = false ∧
    stall.pend = [] ∧ stall.src.collDue = [] ∧ stall.ras.ahead = [] :=
  ⟨⟨⟨by decide +kernel, by decide +kernel, by decide +kernel, by decide +kernel⟩, by decide +kernel, by decide +kernel, rfl, by decide +kernel, by decide +kernel, by decide +kernel, by decide +kernel, by decide +kernel⟩, by decide +kernel, by decide +kernel, by decide +kernel, by decide +kernel⟩

/-- Words at 0x100, 0x102 and 0x104 of the small stall. -/
def edge (a b c : Nat) : Stall := { stall with mem := Memory.setBytes stall.mem 0x100 (leBytes 2 a ++ leBytes 2 b ++ leBytes 2 c) }

/-- An instruction of two operands at 0x100 and 0x104. -/
def edgeInst (op : Op) : Inst := { op, code := 0, cond := 0, form := 0, opds := [⟨0, 0x100, 0⟩, ⟨0, 0x104, 0⟩], len := 3, ent := none }

/-- The first operand's address, its value and the second's value, as the edge results take them. -/
def edgeVals (a b : Nat) (op : Op) : Nat × Option Nat × Nat × Nat :=
  let st := edge a 0 b
  let i := edgeInst op
  let e0 := Env.start st 0 []
  let eas := (e0.eas (sizeOf_ i) i.opds).1
  let e := (e0.eas (sizeOf_ i) i.opds).2
  (sizeOf_ i, nthD eas 0 none, (e.value 2 (nthD i.opds 0 ⟨0, 0, 0⟩) (some 0x100)).1,
    ((e.value 2 (nthD i.opds 0 ⟨0, 0, 0⟩) (some 0x100)).2.value 2 (nthD i.opds 1 ⟨0, 0, 0⟩) (nthD eas 1 none)).1)

/-- Operands of each clause of the arithmetic edge results. -/
theorem test_edges : edgeVals 0x8000 0 .neg = (2, some 0x100, 0x8000, 0) ∧ edgeVals 0 0 .neg = (2, some 0x100, 0, 0) ∧
    edgeVals 0x8000 0 .abs = (2, some 0x100, 0x8000, 0) ∧ edgeVals 0x8000 0xFFFF .divs = (2, some 0x100, 0x8000, 0xFFFF) ∧
    edgeVals 0x7FFF 0 .inc = (2, some 0x100, 0x7FFF, 0) ∧ edgeVals 0x8000 0 .dec = (2, some 0x100, 0x8000, 0) ∧
    edgeVals 0x8000 0x8000 .mul = (2, some 0x100, 0x8000, 0x8000) := by decide +kernel

/-- Values at the ends of the ranges of the flag, shift, product and accumulator statements. -/
theorem test_alu_ranges : (255 < 2 ^ 8 ∧ 65535 < 2 ^ 16) ∧ (0 < 31 ∧ 31 < 32) ∧ toSigned 6 0x20 < 0 ∧ 0 ≤ toSigned 6 0x1F ∧
    (2 ^ 31 : Nat) ≤ toSigned 40 ((0x7FFFFFFF + 0x8000) % 2 ^ 40) ∧ toSigned 40 ((0x8000000000 + 0x8000) % 2 ^ 40) < -(2 ^ 31 : Nat) ∧
    ¬((32768 : Nat) = 32768 ∧ (1 : Nat) = 65535) ∧ toSigned 16 0x8001 ≠ -(2 ^ (16 - 1) : Nat) := by decide +kernel

/-- An operand of mode 0 has an address, one of mode 5 is a program address, and the form bits and counts of the clauses occur. -/
theorem test_operand_forms : nthD ((Env.start stall 0 []).eas 2 [⟨0, 0x100, 0⟩]).1 0 none = some 0x100 ∧ (⟨5, 0, 0x40⟩ : Operand).mode = 5 ∧
    bitAt 1 0 = true ∧ bitAt 4 2 = true ∧ 4 % 4 = 0 ∧ 5 % 4 = 1 ∧
    0 < ((Env.start (edge 1023 0 0) 0 []).value 2 ⟨0, 0x100, 0⟩ (some 0x100)).1 % 1024 ∧
    ((Env.start (edge 1024 0 0) 0 []).value 2 ⟨0, 0x100, 0⟩ (some 0x100)).1 % 1024 = 0 := by decide +kernel

/-- A stall with an interrupt line enabled and set. -/
def asking : Stall := { stall with mem := Memory.setBytes (Memory.setBytes stall.mem aISTAT [1]) aIEN [1], cpu := { stall.cpu with ctl := 4 } }

/-- An entry of each kind stands ready. -/
theorem test_entries : (dev asking [0]).live 3 = some (asking, 0) ∧ mayEnter (dev asking [0]) asking = true ∧ permitted (dev asking [0]) asking = true ∧
    stampRoom asking (procStamps asking.cls (asking.tick + 5) (frameAddr asking) (List.replicate 12 0)) = true ∧ topLine asking = some 0 ∧
    asking.cpu.dzDue = false ∧ idling asking = false ∧ agentsClear asking (asking.tick + 6) = true ∧
    holdWrites asking (asking.tick + 6) (frameWrites asking 0 0 0) = .none ∧
    ((frameWrites asking 0 0 0).any fun p => rangeFaulted asking p.1 p.2.length) = false := by decide +kernel
theorem test_entries_goes : GoesOn (dev asking [0]) 3 asking := ⟨by decide +kernel, by decide, by decide, by decide⟩
theorem test_entry_illegal : mayEnter (dev stall [0x4000]) stall = true ∧ mayStart (dev stall [0x4000]) stall = true ∧
  nextInst (codeOf stall [0x4000]) stall = .error .fetch := ⟨by decide +kernel, by decide +kernel, rfl⟩
def dividing : Stall := { stall with cpu := { stall.cpu with dzDue := true } }
theorem test_entry_divzero : mayEnter (dev dividing [0]) dividing = true ∧ dividing.cpu.dzDue = true := by decide +kernel

/-! ### Witnesses: waits, holds, sources and boundaries of a stall -/

/-- The small stall waits. -/
def waiting : Stall := { stall with cpu := { stall.cpu with idle := .wait } }

/-- An idle step stands ready. -/
theorem test_idle_step : (dev waiting []).live 3 = some (waiting, 0) ∧ running waiting = true ∧ idling waiting = true ∧
    boundaryClear (dev waiting []) waiting = true ∧ agentsClear waiting 11 = true ∧ waiting.cpu.dzDue = false ∧
    pendStuck waiting = false ∧ permitted (dev waiting []) waiting = true := by decide +kernel

/-- The small stall in a hold and a scheduling state. -/
def heldBy (h : Hold) (c : Sched) : Stall := { stall with hold := h, sched := c }

/-- Each hold, its end, the end of a quantum and a blocked stall occur. -/
theorem test_holds : (dev (heldBy .catchUp .running) []).live 3 = some (heldBy .catchUp .running, 0) ∧
    (heldBy .catchUp .running).holdTick ≤ (heldBy .catchUp .running).ras.rpos ∧
    stampRoom (heldBy .stamps .running) [{ tick := 0, src := 0, addr := 0x200000, data := [0] }] = true ∧
    (dev stall []).get (atSlot STB_HOLD_EVICT_CYCLES 0) < 2 * ((dev stall []).time - stall.holdAt) ∧
    holdOver (heldBy .none .held) = true ∧ permitted (dev (heldBy .none .blocked) []) (heldBy .none .blocked) = true ∧
    stall.runAt + max 1000 ((dev stall []).get (atSlot STB_QUANTUM_CYCLES 0)) / 2 ≤ (dev stall []).time ∧ stall.cpu.lock = 0 := by decide +kernel

/-- The two outcomes of an assertion, at the last line. -/
theorem test_line_assertion : 5 + 1 < nthD [0, 0, 0, 0, 0, 0, 0, 7] 7 0 ∧ nthD [0, 0, 0, 0, 0, 0, 0, 7] 7 0 ≤ 6 + 1 := by decide +kernel

/-- The small stall late, with a one-shot timer and a period of the sound unit. -/
def timed : Stall :=
  { stall with tick := 2000000, ckptBound := 10 ^ 9, mem := Memory.setBytes (Memory.setBytes stall.mem (aTCTL 1) [0x11]) 0x220084 [1] }

/-- Every source computed from ticks is due. -/
theorem test_tick_sources : (dev timed []).live 3 = some (timed, 0) ∧ running timed = true ∧ permitted (dev timed []) timed = true ∧
    resetDue timed = false ∧ vblTick timed.cls timed.src.vblFrame ≤ timed.tick ∧ timed.src.lmDue = [] ∧ lmNext timed 11 = some 105600 ∧
    105600 ≤ timed.tick ∧ (timed.src.tmr 1).due = [] ∧ bitAt (timed.word (aTCTL 1)) 0 = true ∧ (timed.src.tmr 1).next ≤ timed.tick ∧
    timed.src.sndDue = [] ∧ sndNext timed timed.src.sndFrom = some 200 ∧ 200 ≤ timed.tick := by decide +kernel

/-- A latched input of a player, or a delivery to a LINK subchannel. -/
def latchedStall (link : Bool) (who : Nat) : Stall :=
  { stall.setSub 7 { Sub.reset with ty := dLINK } with latched := [{ bound := 0, link, who, seq := 0, data := [], at_ := 0 }] }

/-- A logged input to apply again, a placed reset, a checkpoint to take and one to complete. -/
def replayingStall : Stall := { stall with replayLog := [{ tick := 5, kind := 0, source := 1, seq := 1, payload := [] }] }
def resettingStall : Stall := { stall with tick := 0, resetAt := [0] }
def capturingStall : Stall := { stall with ckptBound := 10 }

/-- What a boundary brings occurs. -/
theorem test_boundary_events : beforeReset replayingStall 5 = true ∧
    takeLatched (latchedStall false 3) false = some ({ bound := 0, link := false, who := 3, seq := 0, data := [], at_ := 0 }, []) ∧
    takeLatched (latchedStall true 7) true = some ({ bound := 0, link := true, who := 7, seq := 0, data := [], at_ := 0 }, []) ∧
    ((latchedStall true 7).sub 7).ty = dLINK ∧ permitted (dev resettingStall []) resettingStall = true ∧
    readyToReset (dev resettingStall []) resettingStall = true ∧ resettingStall.l1 = false ∧ capturingStall.ckptBound ≤ capturingStall.tick ∧
    ckptOpen capturingStall = false ∧ latchedDue capturingStall = false ∧ resetDue capturingStall = false ∧
    (dev capturingStall []).mig? 3 true = none ∧ ckptOpen (capture capturingStall) = true := by decide +kernel

/-- The small stall in FAULT_WAIT on page 7. -/
def faultingStall : Stall := (stall.faulted 1 7 0 0).inFaultWait 0

/-- A fault, its wait and its end. -/
theorem test_fault_wait : pteKind 0 0 true false ≠ 0 ∧ running stall = true ∧ boundaryClear (dev stall []) stall = true ∧ stall.faults = [] ∧
    (dev stall []).split spPAGING = false ∧ faultingStall.faults = [(7, 0)] ∧ faultingStall.sched = .faultWait ∧ faultingStall.reasons = [] ∧
    faultingStall.faultAt + 1000 * (dev faultingStall []).get (atSlot STB_PARK_TIMEOUT_MICROS 0) ≤ (dev faultingStall []).time := by decide +kernel

/-- The small stall wholly drawn; and waiting for a slice. -/
def drawnStall : Stall := { stall with ras := { stall.ras with rpos := 10 ^ 8 } }
def choosingStall : Stall := { stall with sched := .runnable }

/-- A dot, a slice drawn and one not drawn by its deadline, a grant and a fault point. -/
theorem test_units_and_slices : dotReady (dev stall []) stall 0 = true ∧ dotNext (dev stall []) stall 0 = true ∧ deadlinePast drawnStall 1000000000 0 = true ∧ sliceDrawn drawnStall 0 = true ∧
    sliceDrawn stall 0 = false ∧ (dev choosingStall []).grantChoice 0 0 = some choosingStall ∧ (dev choosingStall []).freeHot 0 0 ≠ [] ∧
    ((dev choosingStall []).hotOn 0 0).length = 0 ∧ (dev choosingStall []).runsOn 0 0 = [] ∧ stall.reasons.contains rsnRECOVER = false := by decide +kernel

/-! ### Witnesses: stables, streams, the monitor, the encoder, sound -/

/-- The device with no stall and registers as given. -/
def quiet (l : List (Fld × Nat)) : State := { dev stall [] with stalls := [] }.puts l

/-- Slots in each state, and sets that pass, fail and are in use. -/
theorem test_slots : fwRuns (quiet []).mode = true ∧ (quiet []).get (atSlot STB_STATE_STATE 0) = 1 ∧
    (quiet [(atSlot STB_STATE_STATE 16, 5)]).get (atSlot STB_STATE_STATE 16) = 5 ∧ mayFailStop (quiet []).mode = true ∧
    (quiet [(atSlot STB_STATE_STATE 16, 4)]).get (atSlot STB_STATE_STATE 16) = 4 ∧ mayFailStop Mode.load = false ∧
    (quiet [(atSlot STB_STATE_STATE 16, 3)]).get (atSlot STB_STATE_STATE 16) = 3 ∧ (quiet []).stallsOn 16 = [] ∧
    (quiet []).loaded 0 15 = false ∧ (quiet [(atSlot UCS_STATE_LOADED 0, 0x8000)]).loaded 0 15 = true ∧ (quiet []).checkRam 0 15 = none ∧
    (quiet [(⟨setBase 0 15, 0, 8⟩, 1)]).checkRam 0 15 = some (2, 0, none) ∧ (quiet []).ucsInUse 0 15 = false ∧
    (dev { stall with ucset := 15 } []).ucsInUse 0 15 = true := by decide +kernel

/-- A descriptor of the raster 16 × 16 with no course, and one that shows stall 3. -/
def desc : Bytes := putBytes (List.replicate 512 0) 2 [16, 0, 16, 0]
def gameDesc : Bytes :=
  putBytes desc 64 ([0, 0, 0, 0, 3, 0, 0, 0] ++ List.replicate 8 0 ++ [0x40, 1, 0xF0, 0, 0, 0, 0, 0, 0, 0, 0, 0, 16, 0, 16, 0])

/-- Stream 12 with a commit and frames as given. -/
def strm (c : Option Commit) (f : List SFrame) : Stream :=
  { num := 12, act := desc, shadow := desc, commit := c, beds := [], frames := f, fresh := false, regHold := false, esd := .off, enc := .idle, descs := [], exts := [] }
def frame0 (d : Bytes) : SFrame := { n := 0, desc := d, beds := [], held := false, first := false, raw := false, j := 0, late := [], coded := false, gone := [] }
def streamed (x : Stream) (st : List Stall) : State := { dev stall [] with stalls := st, streams := [x] }

/-- Commits accepted and refused, a commit whose frame has come, slices ready and late. -/
theorem test_composer : (streamed (strm none []) []).stream? 12 = some (strm none []) ∧ (quiet []).get CMP_COMMIT_BUSY = 0 ∧
    (streamed (strm none []) []).commitCheck desc = none ∧ needsBeds [] desc = false ∧
    ((streamed (strm none []) []).commitCheck (List.replicate 512 0)).isSome = true ∧
    cadFrame (max (frameCeil 100000) (frameCeil 0)) ≤ (quiet []).time ∧ stallsExecute (quiet []).mode = true ∧
    commitDue (strm none [frame0 desc]) 0 = false ∧ (streamed (strm none [frame0 desc]) []).sliceDue (frame0 desc) ≤ (quiet []).time ∧
    (streamed (strm none [frame0 desc]) []).linesReady (frame0 desc) = true ∧
    (streamed (strm none [frame0 gameDesc]) [stall]).sliceDue (frame0 gameDesc) + 100000 ≤ (quiet []).time ∧
    (streamed (strm none [frame0 gameDesc]) [stall]).linesReady (frame0 gameDesc) = false := by decide +kernel

/-- A frame of 16 × 16 is being shown; a slice waits for core 0, a row is on core 24. -/
def shown : State := { quiet [(MON_CTL_EN, 1)] with mon := { Monitor.reset with inFrame := true, h0 := 0x50010, v0 := 0x40010 } }
def slice0 : SliceRec := { n := 0, j := 0, due := 0, done := 0, w := 16, h := 16, out := 0, flags := 0, hints := [], fin := true }
def codedStream : Stream := { strm none [] with enc := { Enc.idle with ready := [slice0] }, esd := { Esd.off with codec := 3 } }
def codingState : State := { quiet [(ENC_CTL_EN, 1), (encState 0, 1)] with streams := [codedStream] }
def job0 : RowJob :=
  { core := 24, stream := 12, n := 0, j := 0, slices := [slice0], key := true, newSeq := true, codec := 3, profile := 0, flags := 0, qp := 0
    rate := 0, rcmode := 0, qpMin := 0, qpMax := 0, refresh := 0, since := 0, maxRate := 0, gone := false }

/-- The port and the encoder stand as the clauses ask. -/
theorem test_monitor_and_encoder : (quiet []).get MON_CTL_EN = 0 ∧ shown.get MON_CTL_EN = 1 ∧
    (quiet []).monStart (frameAt (quiet []).time) = some 1000000000 ∧ (quiet []).pinsHeld = false ∧ shown.monDim = (16, 16) ∧
    shown.mon.start ≤ frameAt shown.time ∧ 0 < (quiet [(MON_WMARK_LEVEL, 1)]).get MON_WMARK_LEVEL ∧ (quiet []).get MON_WMARK_LEVEL ≤ 4096 ∧
    shown.monOver = false ∧ State.monOver { shown with mon := { shown.mon with sent := List.replicate 768 0 } } = true ∧
    lookupN 15 shown.mon.under = none ∧ codingState.get ENC_CTL_EN = 1 ∧ codingState.get (encState 0) = 1 ∧
    codingState.nextStream = some (codedStream, [slice0]) ∧ [job0].find? (fun j => j.core == 24) = some job0 ∧ job0.gone = false ∧
    [{ job0 with gone := true }].find? (fun j => j.core == 24) = some { job0 with gone := true } ∧ (quiet [(encState 24, 2)]).get (encState 24) = 2 ∧
    job0.since + 400000 ≤ codingState.time ∧ (upto 25).find? (fun c => (quiet [(encState 24, 2)]).get (encState c) == 2) = some 24 := by decide +kernel

/-- Stall 3 with a lane. -/
def lane0 (swap : Nat) : Lane :=
  { codec := 4, channels := 2, active := 0, fallback := false, streams := 0, bitrate := 64, gameGain := 0, opGain := 0, swapState := swap
    graphCost := 0, outAddr := 0, outSize := 0, wr := 0, rd := 0, opAddr := 0, opSize := 4096, opWr := 0, opRd := 0, applied := 0, g0 := .fixed
    g1 := .fixed, st0 := [], st1 := [], swapRamp := false, rampJ := 0, gpos := 0, x := [], frame := 0, exts := [], pcm := [] }
def sounding (swap spos : Nat) : Stall := { stall with spos, lane := some (lane0 swap) }
def soundState (swap spos : Nat) : State := (dev (sounding swap spos) []).put AUD_CTL_EN 1

/-- A sample to render, to route, a swap that may happen, one to request and to refuse, and a frame to form. -/
theorem test_audio : sampleReady (soundState 0 0) (sounding 0 0) = true ∧ sampleNext (soundState 0 0) (sounding 0 0) = true ∧ (soundState 0 1).get AUD_CTL_EN = 1 ∧
    (sounding 0 1).spos = (lane0 0).gpos + 1 ∧ swapMay (soundState 0 1) (sounding 0 1) (lane0 0) = false ∧
    swapMay (soundState 1 1) (sounding 1 1) (lane0 1) = true ∧ (soundState 0 0).get AUD_SWAP_BUSY = 0 ∧ (lane0 0).otherG.check = 0 ∧
    swapCheck (some (sounding 1 0)) ≠ 0 ∧ formTime 0 (lane0 0).frame ≤ (soundState 0 0).time := by decide +kernel

/-! ### Witnesses: the hod, the Mover and memory -/

/-- Subchannel 7 as given, and the device with the Hod enabled. -/
def withSub (x : Sub) : Stall := stall.setSub 7 x
def hodDev (st : Stall) : State := (dev st []).put HOD_CTL_EN 1
def cmdSub (op state : Nat) : Stall := withSub { Sub.reset with cmds := [(op, 5)], ty := 1, state }
def hostDev (p : HostPhase) (b : Bytes) : State :=
  { quiet [(HOD_CTL_EN, 1)] with hsubs := List.replicate 64 { HostSub.reset with phase := p, brick := b } }

/-- Commands on idle and busy subchannels, and host subchannels in each state. -/
theorem test_hod_commands : (hodDev (cmdSub 1 0)).live 3 = some (cmdSub 1 0, 0) ∧ ((cmdSub 4 3).sub 7).cmds = [(4, 5)] ∧
    hodProg (cmdSub 1 0) 7 % 8 = 0 ∧ hodProg { cmdSub 1 0 with mem := Memory.setBytes stall.mem (0x240202 + 32 * 7) [4] } 7 % 8 ≠ 0 ∧
    ((hostDev .idle []).hsub 63).phase = .idle ∧ (hostDev .idle []).get (hFld HOD_HPROG_ADDR 63) % 16 = 0 ∧
    (hostDev .idle []).get HOD_HGRANT_HOST = 0 ∧ hbLink [] = 0 ∧ hbLink [0, 0, 0, 0, 0, 0, 1] ≠ 0 := by decide +kernel

/-- A fetched brick: opcode, device type, PARAM. -/
def brickStall (op ty param : Nat) : Stall :=
  withSub { Sub.reset with phase := .fetched, ty, state := 1, brick := op * 2 ^ 56 + param * 2 ^ 24 }

/-- A brick of each operation that is well formed, and one that is not. -/
theorem test_bricks : [(1, 1, 0), (2, 1, 0), (2, 4, 0), (2, 4, 1), (4, 1, 0), (3, 1, 1), (3, 2, 1), (3, 4, 1), (3, 3, 1), (8, 1, 0), (10, 1, 0), (11, 1, 0),
      (9, 1, 0), (12, 1, 0)].all (fun p => ((hodDev (brickStall p.1 p.2.1 p.2.2)).hodReady 3 7).isSome &&
        !malformed p.2.1 0 ((brickStall p.1 p.2.1 p.2.2).sub 7).brick) = true ∧
    malformed 1 0 ((brickStall 15 1 0).sub 7).brick = true := by decide +kernel

/-- Subchannel 7 in a phase. -/
def phaseStall (x : Sub) : Stall := withSub { x with ty := 1, state := 1 }
def waitStall (p : Nat) : Stall := phaseStall { Sub.reset with phase := .waiting, brick := 9 * 2 ^ 56 + p * 2 ^ 24 }
def movedStall (n : Nat) : Stall := phaseStall { Sub.reset with phase := .units, brick := 10 * 2 ^ 56, moved := n, idleN := 255, compl := 5 }
def fetchStall : Stall := phaseStall { Sub.reset with phase := .fetch }
def listStall : Stall := phaseStall { Sub.reset with phase := .list, brick := 2 ^ 56 }
def link0 (late : Bool) : LinkMsg := { stall := 3, sub := 3, seq := 1, release := 0, late, data := [] }

/-- Waits that end, a brick moved, a loop, a fetch, a list, and deliveries. -/
theorem test_hod_units : ((hodDev (waitStall 0)).hodReady 3 7).isSome = true ∧ waitTick (waitStall 0) ((waitStall 0).sub 7) = some 4 ∧
    ((hodDev (waitStall 3)).hodReady 3 7).isSome = true ∧
    accessOk (waitStall 3) false 0 1 (matchTick (waitStall 3) ((waitStall 3).sub 7)) 1 [] = true ∧ matchHolds [] (waitStall 3) 0 7 = true ∧
    ((hodDev (movedStall 1)).hodReady 3 7).isSome = true ∧ controlReady ((movedStall 1).sub 7) = false ∧ idleBrick ((movedStall 1).sub 7) = false ∧
    idleBrick ((movedStall 0).sub 7) = true ∧ ((hodDev fetchStall).hodReady 3 7).isSome = true ∧ accessOk fetchStall false 0 8 0 1 [] = true ∧
    ((hodDev listStall).hodReady 3 7).isSome = true ∧ accessOk listStall false 0 2048 (dataStart .L 0) 1 [] = true ∧
    accessOk listStall false 0 (listBytes ((hodDev listStall).devsOf listStall) [] listStall 0 7) (dataStart .L 0) 1 [] = true ∧
    (match (hostDev .list []).hostListRead (mmio none) none 0 256 0 with | .ok (b, _) => (gather (hostGather b) 0).2 | .error _ => false) = true ∧
    firstLink [link0 true] = some (link0 true) ∧ (quiet []).stall? 3 = none := by decide +kernel

/-- Assignments refused for each reason and one that is made. -/
theorem test_hod_assign : fwRuns (dev stall []).mode = true ∧ (dev stall []).stall? 3 = some stall ∧ (stall.sub 7).state = 0 ∧
    ((dev (withSub { Sub.reset with state := 1 }) []).stall? 3).map (fun st => (st.sub 7).state) = some 1 ∧ (dev stall []).stall? 4 = none := by decide +kernel

/-- A descriptor of 64 bytes, or of one pixel, and channel 0 with it: to start, or in progress. -/
def mdesc (op : Nat) : Bytes :=
  putBytes (putBytes (List.replicate 64 0) 0 [BitVec.ofNat 8 op]) 16 ([0, 0, 0, 1, 0, 0, 0, 0] ++ (if 0x10 ≤ op then [1, 0, 1, 0] else [64, 0, 0, 0]))
def moverDev (d : Bytes) : State :=
  { quiet [(MOV_CTL_EN, 1), (mFld MOV_CH_CTL_RUN 0, 1), (mFld MOV_CH_SIZE_LOG2 0, 4), (mFld MOV_CH_PI_INDEX 0, 1), (mFld MOV_CH_BASE_ADDR 0, 0x1000)] with
    hbm := Memory.setBytes [] 0x40000 d }
def movingDev (st : Stall) (x : MovCh) : State :=
  { (dev st []).put MOV_CTL_EN 1 with movs := { x with busy := true } :: List.replicate 7 .idle }
def stallDesc : Bytes := putBytes (putBytes (mdesc 1) 3 [1]) 4 [3, 0]

/-- Descriptors of each operation that may start, one that is malformed, accesses of each kind, and a stall access. -/
theorem test_mover : (moverDev (mdesc 1)).movMayStart 0 = true ∧ (moverDev (mdesc 1)).movBase 0 = 0x40000 ∧ regionOfRange 0x40000 64 = .hbm ∧
    [1, 2, 3, 4, 5, 0x10, 0x11].all (fun op => ((moverDev (mdesc op)).mCheck 0 (mdesc op)).isNone) = true ∧
    mOp ((moverDev (mdesc 0x12)).hbmBytes 0x40000 64) = 0x12 ∧ ((moverDev (mdesc 0x12)).mCheck 0 (mdesc 0x12)).isSome = true ∧
    ((movingDev stall { MovCh.idle with desc := mdesc 1 }).mov 0).next = none ∧
    (((movingDev stall { MovCh.idle with desc := mdesc 1, leftR := 64, leftW := 64 }).mov 0).next.map fun y => (y.stall, y.write)) = some (none, false) ∧
    (((movingDev stall { MovCh.idle with desc := mdesc 1, leftW := 64, held := List.replicate 64 0 }).mov 0).next.map fun y => (y.stall, y.write)) =
      some (none, true) ∧
    (((movingDev stall { MovCh.idle with desc := stallDesc, leftR := 64, leftW := 64 }).mov 0).next.map fun y => (y.stall, y.addr, y.len)) =
      some (some 3, 0, 64) ∧
    (movingDev stall { MovCh.idle with desc := stallDesc, leftR := 64, leftW := 64 }).movReady 0 = true ∧
    (movingDev stall { MovCh.idle with desc := stallDesc, leftR := 64, leftW := 64 }).movTurn 0 = true ∧ isBlit 0x11 = true ∧
    rangeFaulted stall 0 64 = false ∧ rangeFaulted { stall with pt := [(pteIndex 0x1000, 0)] } 0x1000 1 = true ∧
    boundaryClear (dev stall []) stall = true ∧ agentsClear stall stall.tick = true ∧ catchUpOk stall 0 64 10 = true := by decide +kernel

/-- Addresses of HBM, subchannels and channels in progress, a scrubber that runs, and counts at the limit and below it. -/
theorem test_memory_service : mayFailStop (quiet []).mode = true ∧ regionOf 0 = .hbm ∧ ((hostDev .units []).hsub 63).phase ≠ .idle ∧
    ((movingDev stall .idle).mov 0).busy = true ∧ (quiet [(MEM_CTL_SCRUB, 1)]).get MEM_CTL_SCRUB = 1 ∧
    (quiet []).twinned 5 = false ∧ (quiet [(extFld 5, 6)]).twinned 5 = true ∧ max 1 ((quiet []).get MEM_CE_RETIRE_LIMIT) ≤ 4 ∧ 1 < max 1 ((quiet []).get MEM_CE_RETIRE_LIMIT) := by decide +kernel

/-! ### Witnesses: ports, the yard, the clock and migration -/

/-- Port 7 is up, the packet engine runs, and one datagram waits. -/
def upPort : State := quiet [(portCtl 7 YRD_PORT_STAT_STATE, 2), (YRD_CTL_EN, 1)]
def ether (ty : Nat) : Bytes := List.replicate 12 0 ++ beBytes 2 ty ++ List.replicate 46 0
def datagram (kind who : Nat) (data : Bytes) : Ingress := { kind, port := 7, who, mac := 0, data, at_ := 0 }
def flow0 : Flow := { num := 12, desc := [2] ++ List.replicate 63 0 }
def pkt : TxPkt := { size := 100, ts := 0, m := true, data := [] }
def key0 : KeySlot := { kind := 1, idx := 12, slot := 0, from_ := 0, key := [], salt := [] }
def net0 (vq aq : List TxPkt) : NetStream :=
  { num := 12, desc := putBytes (putBytes (List.replicate 128 0) 0 [1]) 80 [0xFF, 0xFF], port := 7, bucket := 10 ^ 15, fillAt := 0, vq, vrec := vq
    vnum := 0, vkey := some key0, vdone := 0, vrd := 0, aq, arec := aq, anum := 0, akey := some key0, adone := 0, ard := 0, octets := (0, 0), count := (0, 0), srAt := 0, srIdx := 0 }

/-- Frames of each kind, datagrams of each destination, and packets that may leave. -/
theorem test_ports_and_packets : (quiet [(portCtl 7 YRD_PORT_CTL_EN, 1)]).get (portCtl 7 YRD_PORT_CTL_EN) = 1 ∧ (quiet []).portUp 7 = false ∧
    upPort.portUp 7 = true ∧ upPort.get YRD_CTL_EN = 1 ∧ (etherPayload (ether 0x8808)).map (·.1) = some 0x8808 ∧
    (etherPayload (ether 0x806)).map (·.1) = some 0x806 ∧ (ipParse 0x800 []).isSome = true ∧ ipParse 0x1234 [] = none ∧
    (match upPort.checkInput flow0 [] with | .error _ => true | .ok _ => false) = true ∧ flowAction flow0.desc ≠ 1 ∧ rtcpKind [0x81, 200] = 1 ∧
    rtcpKind [0x83, 205] = 2 ∧ rtcpKind [0x81, 206] = 3 ∧ (reportBlocks [0x81, 200]).filter (fun b => b.1 == 0) = [(0, 0)] ∧
    upPort.split spSTREAM = false ∧ pkt.size * 1000000000 ≤ bucketNow (net0 [pkt] []) 0 upPort.time ∧ (net0 [pkt] []).vdone + 33300000 < upPort.time ∧
    ndEn (net0 [] []).desc = true ∧ (net0 [] []).srAt + 1000000000 ≤ upPort.time := by decide +kernel

/-- A record with its time in HBM address 0, read by a stream with a key or by the lane of stall 3. -/
def record (off at_ : Nat) : Bytes := putBytes (putBytes (List.replicate 96 0) 2 [3, 1]) off (leBytes 4 4 ++ leBytes 8 at_)
def netDesc : Bytes := putBytes (putBytes (List.replicate 128 0) 0 [9]) 56 [0xB0, 4]
def reading (b : Bytes) : State :=
  { upPort with
    hbm := Memory.setBytes [] 0 b, keys := [{ kind := 1, idx := 12, slot := 0, from_ := 0, key := [], salt := [] }]
    streams := [{ strm none [] with esd := { Esd.off with wr := 64, outSize := 4096 } }], nets := [{ net0 [] [] with desc := netDesc }], stalls := [{ stall with lane := some { lane0 0 with wr := 64, outSize := 4096, streams := 1 } }] }

/-- A fresh video record that becomes one packet, a stale one, and the same of the audio lane. -/
theorem test_records : ((reading (record 12 1000000000)).ringNext 0 64 0 12).isSome = true ∧ fwRuns (reading []).mode = true ∧
    (reading []).txKey 12 (fun k => decide (k ≤ 0)) = some { kind := 1, idx := 12, slot := 0, from_ := 0, key := [], salt := [] } ∧
    ((reading (record 12 0)).nets.all fun x => ndEn x.desc && (payloads 3 0 (leAt x.desc 56 2 - pktOver (netIpv6 x.desc)) 0 [0, 0, 0, 0]).length == 1) = true ∧
    leAt (record 12 1000000000) 16 8 = 1000000000 ∧ 0 + 33300000 < (reading []).time ∧ (reading []).split spAUDIO = false ∧
    ((reading (record 16 1000000000)).ringNext 0 64 0 16).isSome = true ∧ leAt (record 16 1000000000) 20 8 = 1000000000 ∧
    ((reading []).laneStreams 3 { lane0 0 with streams := 1 }).length = 1 ∧
    ((reading []).laneStreams 3 { lane0 0 with streams := 1 }).all (fun x => (reading []).portUp x.port) = true ∧
    (upPort.put SPLIT_STATE_MODE 2).split spSTREAM = true ∧ (upPort.put SPLIT_STATE_MODE 8).split spAUDIO = true := by decide +kernel

/-- The input check passes where the tag verifies. -/
theorem test_input_accepted (k : KeySlot) (p : Bytes) (hk : k.kind = 0 ∧ k.idx = 12 ∧ k.slot = 0)
    (hp : Config.gcmOpen k.key (sliceBytes k.salt 0 4 ++ sliceBytes ([1, 1, 0, 0] ++ beBytes 8 1 ++ List.replicate 32 0) 4 8)
      (([1, 1, 0, 0] ++ beBytes 8 1 ++ List.replicate 32 0).take 12) (([1, 1, 0, 0] ++ beBytes 8 1 ++ List.replicate 32 0).drop 12) = some p) :
    State.checkInput { upPort with keys := [k] } flow0 ([1, 1, 0, 0] ++ beBytes 8 1 ++ List.replicate 32 0) = .ok (1, p) := by
  obtain ⟨h1, h2, h3⟩ := hk
  have hf : [k].find? (fun k => k.kind == 0 && k.idx == flow0.num && k.slot == beAt ([1, 1, 0, 0] ++ beBytes 8 1 ++ List.replicate 32 0) 2 1) = some k := by
    simp [h1, h2, h3]
    decide
  unfold State.checkInput
  simp only [hf, hp]
  rfl

/-- The device takes part in the yard, with peer 5 and a HELLO that waits. -/
def inYard : State :=
  { upPort.puts [(YRD_CTL_ATTACH, 1), (YRD_NUMBER_YARD, 9)] with yardOn := true, keys := [{ kind := 3, idx := 0, slot := 0, from_ := 0, key := [7], salt := [] }] }
def peer0 : Peer := Peer.new 5 0
def hello : Ingress := datagram 1 0 ([0, 4] ++ List.replicate 60 0)

/-- Timers that have run out, a stale peer, HELLOs sent and received, a path not heard. -/
theorem test_yard_transport : inYard.attached = true ∧ peerStale 1000000000 { peer0 with noRoute := some 0 } = true ∧ peer0.rxHeld = [] ∧ peer0.rxDue < 15 ∧
    peer0.rxSince + 20000 ≤ inYard.time ∧ max peer0.advAt peer0.resentAt + 200000 ≤ inYard.time ∧ nthD inYard.helloAt 7 0 + 100000 ≤ inYard.time ∧
    State.takeYard { inYard with ingress := [hello] } 4 = some hello ∧ inYard.yardOpen hello.data = none ∧ pnSeen [3] 3 = true ∧ pnSeen [] 3 = false ∧
    inYard.split spROUTE = false ∧ fwRuns inYard.mode = true := by decide +kernel

/-- A migration of stall 3, and a stall whose records are too large. -/
def mig0 (src parked ready : Bool) : Mig :=
  { stall := 3, yard := 5, dest := 9, source := src, parked, ready, doubt := false, attempt := 0, tried := 0, flows := [] }
def migrating (st : Stall) (m : Mig) : State := { dev st [] with migs := [m] }

/-- PTP in each state, and a migration at each of its steps. -/
theorem test_clock_and_migration : (quiet [(PTP_CTL_EN, 1)]).get PTP_CTL_EN = 1 ∧ (quiet [(PTP_STAT_STATE, 2)]).get PTP_STAT_STATE = 2 ∧
    (-1000 : Int) < 999 ∧ ¬((-1000 : Int) < 1000 ∧ (1000 : Int) < 1000) ∧ inYard.get YRD_CTL_ATTACH = 1 ∧
    (migrating capturingStall (mig0 true false false)).migDue 3 = some (mig0 true false false) ∧ 33554432 < recordSize { capturingStall with ckptFull := false, dirty := List.replicate 8192 0 } ∧
    recordSize capturingStall ≤ 33554432 ∧ (migrating stall (mig0 true true true)).mig? 3 true = some (mig0 true true true) ∧
    (migrating stall (mig0 false false false)).mig? 3 false = some (mig0 false false false) := by decide +kernel

/-! ### Witnesses: mailbox commands and rings -/

/-- A request with a code and arguments waits. -/
def mail (s : State) (code : Nat) (args : List Nat) : State :=
  (s.puts [(MBX_STATE_READY, 1), (MBX_STATE_H2M_BUSY, 1), (MBX_H2M_DATA_DATA, code + args.length * 2 ^ 16 + 3 * 2 ^ 28)]).puts
    (args.zipIdx.map fun p => (MBX_H2M_DATA_DATA.nth 4 (p.2 + 1), p.1))

/-- Every command of the catalogue with arguments of its form, and a mode of its list where SERVE is none. -/
def requests1 : List (Nat × List Nat) :=
  [(1, []), (2, []), (3, [0, 0, 0, 256]), (4, [0]), (0x21, [0, 1]), (0x22, [0]), (0x30, [0x441, 0, 0, 0, 0]), (0x31, [1]),
   (0x40, [0, 0, 1, 0, 0, 0, 0, 0, 0, 0, 0]), (0x41, [1]), (0x42, [1, 0, 0, 0]), (0x50, [3, 1]), (0x51, [3]),
   (0x51, [0x1003, 0xFFFFFFFF, 0]), (0x52, [3]), (0x53, [3])]
def requests2 : List (Nat × List Nat) :=
  [(0x54, [3]), (0x55, [0x1003, 255]), (0x55, [0x2003]), (0x56, [3]), (0x57, [3]), (0x58, [3]), (0x59, [3]), (0x5A, [3, 0]),
   (0x5B, [3]), (0x60, [12, 0x100010, 0, 0, 0]), (0x61, [12, 0, 0]), (0x62, [12, 0, 0, 0, 0, 0, 0, 0, 0]),
   (0x63, [12, 0, 0, 0, 0]), (0x64, [12]), (0x65, [12]), (0x66, [12])]
def requests3 : List (Nat × List Nat) :=
  [(0x67, [12]), (0x70, [0x204003, 64, 0, 0, 0, 0]), (0x71, [3, 0]), (0x72, [3, 0, 0, 16]),
   (0x80, [0x30, 0, 0, 0, 0, 0, 0, 0, 0, 0, 0, 0, 0, 0]), (0x81, [12, 0, 0]), (0x82, [12]), (0x90, [0x100005, 0]),
   (0x91, [0, 0, 0, 0, 0]), (0x92, [0, 0, 0]), (0xA0, [3, 5, 0]), (0xA1, [3, 0]), (0xA2, [3, 0, 0, 0]), (0xA3, [3, 0, 0, 0]),
   (0xB0, [3, 0, 0, 0, 0, 0, 0, 0, 0]), (0xB1, [3])]
def requestsElsewhere : List (Nat × List Nat) :=
  [(5, []), (0x10, [1024]), (0x11, [1024]), (0x20, [6])]
def requests : List (Nat × List Nat × Mode) :=
  (requests1 ++ requests2 ++ requests3).map (fun p => (p.1, p.2, Mode.serve)) ++
    (requestsElsewhere.zip [Mode.load, .boot, .boot, .drowse]).map fun p => (p.1.1, p.1.2, p.2)

/-- The acceptance of a request as a truth value. -/
def accepted? (s : State) (code : Nat) : Bool :=
  s.reqWaits && s.reqCode == code && s.reqMajor == 3 &&
    match formOf code with | some f => f.modes.ok s.mode && f.argsOk s.reqN s.reqDwords | none => false

theorem accepts_of (s : State) (code : Nat) (h : accepted? s code = true) : Accepts s code := by
  unfold accepted? at h
  simp only [Bool.and_eq_true, beq_iff_eq] at h
  obtain ⟨⟨⟨h1, h2⟩, h3⟩, h4⟩ := h
  split at h4
  · rename_i f hf
    exact ⟨h1, h2, h3, f, hf, by simpa using h4⟩
  · simp at h4

/-- A device that serves: a stall with a lane and a subchannel of HOSTIO, a title, a stream, a flow, peer 5 with a route, the yard key. -/
def serving : State :=
  { (dev ((sounding 0 0).setSub 7 { Sub.reset with ty := dHOSTIO }) []).puts [(HOD_CTL_EN, 1), (YRD_CTL_EN, 1), (YRD_CTL_ATTACH, 1), (YRD_NUMBER_YARD, 9), (PTP_STAT_STATE, 2)] with
    yardOn := true, keys := inYard.keys, linkUp := true, streams := [strm none []], nets := [net0 [] []], flows := [flow0], peers := [peer0]
    addrs := [{ idx := 0, ipv6 := false, addr := [0, 0, 0, 0] }]
    routes := [{ entry := 0, yard := 5, paths := [{ mac := 0, port := 7, hops := 1, heard := 0, via := 0 }] }] }

/-- Every request is accepted, and the objects it names exist when it is served. -/
theorem test_requests_accepted : requests.all (fun p =>
    let s := mail { serving with mode := p.2.2 } p.1 p.2.1
    let w := s.takeReq
    accepted? s p.1 && (w.stall? 3).isSome && (w.stream? 12).isSome && (w.title? 1).isSome && (w.net? 12).isSome && w.linkUp && w.stalls.length == 1) =
      true := by decide +kernel

/-- The mailbox in each state, an undefined code, and a ring to create. -/
theorem test_mailbox : (mail serving 1 []).get MBX_STATE_H2M_BUSY = 1 ∧ (quiet []).get MBX_STATE_H2M_BUSY = 0 ∧
    (quiet [(MBX_STATE_READY, 1)]).get MBX_STATE_READY = 1 ∧ (quiet [(MBX_STATE_M2H_VALID, 1)]).get MBX_STATE_M2H_VALID = 1 ∧
    (mail serving 0x7777 []).reqWaits = true ∧ formOf (mail serving 0x7777 []).reqCode = none ∧
    (mail { serving with mode := .slumber } 1 []).reqCode = 1 ∧ Modes.ok .session .drowse = false ∧
    ((formOf 0x31).map fun f => f.argsOk 2 (fun _ => 0)) = some false ∧ (mail serving 0x30 [0x441, 0, 0, 0, 0]).takeReq.ring? 1 = none ∧
    (serving.ringOfClass 7) = none := by decide +kernel

/-- The device commands have something to do. -/
theorem test_device_commands : modeSetFrom 6 .drowse 0 = true ∧ modeSetFrom 8 .serve 0 = true ∧ modeSetFrom 6 .service 0x11 = true ∧
    modeSetFrom 1 .drowse 0 = true ∧ (quiet []).stalls = [] ∧
    (upto 4).any (fun k => decide ((if k = 0 then 1 else 0) &&& nthD (deviceMasks 0) k 0 ≠ if k = 0 then 1 else 0)) = false ∧
    serving.splitErr 0 0 = none := by decide +kernel

/-- A title image with no section. -/
def image : Bytes := putBytes (List.replicate 64 0) 0 [0x54, 0x49, 0x54, 0x4C, 1, 0, 7]

/-- The device with a second stable on slot 1, where a stall may move. -/
def movable (st : Stall) : State :=
  (dev st []).puts [(lmapValid 1, 1), (lmapSlot 1, 1), (atSlot STB_STATE_STATE 1, 1), (atSlot STB_CTL_RUN 1, 1)]

/-- A title to register, a stall to create, to start, to park and to reset. -/
theorem test_title_and_stall_commands : titleHeaderOk image 4096 = true ∧ ((titleOf image 1 1 []).ucs.bind checkImage).isNone = true ∧
    clsOf 0 = some .L ∧ bitAt (title []).classes (clsIdx .L) = true ∧ (quiet []).admitErr 0 (weight .L) false (some 3) true = none ∧
    (quiet []).slotOfL 0 = some 0 ∧ (match (quiet []).bindTitle 0 none with | (.ok u, _) => u | _ => 0) = 0x1F ∧
    serving.cadNow + 2 ≤ 0xFFFFFFFF ∧ { stall with f0 := none }.f0 = none ∧ groupsFit (addUnits (0, 191) 1 false) = true ∧
    (quiet []).memFits 3 .L 0 = true ∧ (dev stall []).moveHolds 3 1 = false ∧
    (movable { stall with cpu := { stall.cpu with lock := 2 } }).moveHolds 3 1 = true ∧ [rsnOPERATOR].contains rsnOPERATOR = true ∧ assignReason (some stall) 7 3 = 0 ∧ (quiet [(SPLIT_STATE_MODE, 0x7F)]).split spRECOVER = true := by decide +kernel

/-- An encoder descriptor, a network descriptor, a lane and a graph that pass their checks. -/
theorem test_stream_and_audio_commands : esdErr (putBytes (List.replicate 64 0) 16 [1]) (Esd.settings (putBytes (List.replicate 64 0) 16 [1]) .off) 16 16 = none ∧
    serving.pixelRate 12 16 16 true ≤ 40000000000 ∧ dW desc = 16 ∧ dH desc = 16 ∧ netReserved (putBytes (List.replicate 128 0) 56 [0x40, 2]) = false ∧
    ndEn (List.replicate 128 0) = false ∧ serving.service false (descAddr (putBytes (List.replicate 128 0) 0 [1]) 16 false) = true ∧
    serving.conflict false [0, 0, 0, 0] [0, 0, 0, 0] 0 0 (true, 12) = false ∧ serving.portLoad 12 0 true ≤ 90000000 ∧
    (Graph.ofBytes (List.replicate 784 0)).check = 0 ∧ field 0x204003 20 2 = 2 ∧ field 0x204003 12 8 = 4 ∧ 0 < (lane0 0).opSize ∧
    (commitValidated true serving).refuses (strm none []) true = false := by decide +kernel

/-- A stall with a complete checkpoint. -/
def checkpointed : Stall := completeCkpt false (capture capturingStall)

/-- Keys, flows, routes, a yard to attach to and to reach, and a checkpoint to export. -/
theorem test_yard_and_key_commands : serving.keyLen 0 12 = 16 ∧ (serving.flows.any fun f => f.num == 12) = true ∧
    flowReserved ([2] ++ List.replicate 63 0) = false ∧ flowV (List.replicate 64 0) = false ∧ flowV ([1] ++ List.replicate 63 0) = true ∧
    serving.conflict false [0, 0, 0, 0] [0, 0, 0, 0] 0 1 (false, 12) = false ∧ routeReserved (List.replicate 48 0) = false ∧
    bitAt 0x100005 20 = true ∧ 0x100005 % 2 ^ 20 ≠ 0xFFFFF ∧ serving.reachable 5 = true ∧ serving.get PTP_STAT_STATE = 2 ∧
    (newestComplete checkpointed).isSome = true ∧ serving.mode ≠ .conformance := by decide +kernel

/-- A job, a ring pair with it, and the device that holds it. -/
def rjob (op : Nat) (ph : JobPhase) (moved : Nat) : Job :=
  { tag := 1, fence := false, op, param := if op = 0x13 then 0x7003 else 0, data := [], elems := [(0, 16)], phase := ph, open_ := op == 0x12, moved
    since := 0 }
def ring0 (n cls : Nat) (js : List Job) : Ring :=
  { num := n, sqLog := 4, cqLog := 4, vec := 0, cls, sqBase := 0, cqBase := 0, jobs := js, chain := [], armed := true, fetching := true, pollAt := 0 }
def ringed (x : Ring) : State := { serving with rings := [x] }
def entryOf (f : Nat) : Bytes := putBytes (putBytes (List.replicate 64 0) 1 [BitVec.ofNat 8 f]) 60 [BitVec.ofNat 8 (256 - f)]

/-- Entries that are taken and malformed, jobs at each step, deliveries. -/
theorem test_rings : (ringed (ring0 8 7 [])).ring? 8 = some (ring0 8 7 []) ∧ 15 % 4096 < 2 ^ 4 ∧ 2 ^ 4 ≤ 16 % 4096 ∧
    ((ringed (ring0 8 7 [])).put (ringF RNG_SQ_TAIL_TAIL 8) 1).sqTail 8 ≠ (ringed (ring0 8 7 [])).sqHead 8 ∧
    entryFault (ring0 8 7 []) (entryOf 3) = 0 ∧ entryFault (ring0 8 7 []) (entryOf 0) ≠ 0 ∧ (ringed (ring0 8 7 [])).cqFull (ring0 8 7 []) = false ∧
    (rjob 0 .queued 0).queued = true ∧ (ringed (ring0 8 0 [])).jobStatus (rjob 0 .queued 0) = 0 ∧
    (ringed (ring0 8 0 [])).jobStatus (rjob 2 .queued 0) ≠ 0 ∧ (rjob 0x10 .running 0).length ≠ 0 ∧ elemAt [(0, 16)] 0 = some (0, 16, 0) ∧
    (rjob 0 (.done 0 0) 0).ended = true ∧ ((ringed (ring0 8 0 [])).stall? (0x7003 % 4096)).map (fun st => (st.sub (0x7003 / 4096)).ty) = some dHOSTIO ∧
    (ringed (ring0 8 7 [])).moveWaits 1 true (fun _ => 0) 0 = none ∧ [rjob 0x13 .running 0].find? (fun j => j.running && j.op == 0x13) = some (rjob 0x13 .running 0) ∧
    (ringed (ring0 8 7 [])).ringOfClass 7 = some (ring0 8 7 []) ∧ serving.mpHalted = false ∧ (rjob 0x12 .running 8).open_ = true := by decide +kernel

/-! ### Witnesses: resets, faults, events, debug, board and registers -/

/-- The device at each of its reset conditions. -/
theorem test_resets : State.bootable { State.reset with rails := true, clocks := 15 } = true ∧ State.reset.awake = true ∧ State.reset.held = true ∧
    State.reset.mode = .boot ∧ (quiet []).get PERST_SCOPE_SCOPE = 0 ∧ (quiet [(PERST_SCOPE_SCOPE, 1)]).get PERST_SCOPE_SCOPE = 1 ∧
    (quiet []).awake = true ∧ (quiet []).held = false ∧ (quiet [(HOST_ORPHAN_SECONDS, 1)]).get HOST_ORPHAN_SECONDS = 1 ∧ bitAt 15 3 = true ∧
    bitAt ((quiet [(BRD_WAKE_EN, 0x80)]).get BRD_WAKE_EN) 7 = true ∧ 0x20 ∈ aonRegs ++ fstopRegs := by decide +kernel

/-- Event source 0x1F0 asserted by software, routed to target 3. -/
def pending0 : State :=
  { quiet [(EVT_CTL_EN, 1), (evtRoute EVT_ROUTE_PRIO 0x1F0, 7), (evtRoute EVT_ROUTE_TARGET 0x1F0, 3), (evtSwset 0x1F0, 1)] with
    arb := [(0x1F0, 3, 7)] }

/-- Watchdogs that run, a standby core, an eligible and a claimable source, one in service and one not. -/
theorem test_faults_and_events : nthD (quiet []).mpwLeft 1 none = none ∧ (quiet [(mpwEn 1, 1)]).get (mpwEn 1) = 1 ∧ nthD (quiet []).mpwEnd 1 0 ≤ (quiet []).time ∧
    (quiet []).get (mpCore 0) ≠ 3 ∧ (quiet []).get MP_STATE_ACTIVE = 0 ∧ (quiet [(mpCore 1, 2)]).get (mpCore 1) = 2 ∧
    (quiet [(mpCore 1, 3)]).get (mpCore 1) ≠ 2 ∧ pending0.evtEligible 0x1F0 = some (0x1F0, 3, 7) ∧ pending0.claimable 3 = some (0x1F0, 7) ∧
    pending0.claimable 0 = none ∧ (0x1F0, 3) ∉ pending0.inServ := by decide +kernel

/-- The device at level 2, with a halted stall. -/
def debugged (st : Stall) : State := (dev st [0]).put DBG_STATUS_LEVEL 2
def haltedStall : Stall := { stall with sched := .halted }

/-- Levels below and above each command's, a package, fuses and a TAP that may drive. -/
theorem test_debug_authority : (dev stall []).get DBG_STATUS_LEVEL < 2 ∧ (debugged stall).get DBG_STATUS_LEVEL = 2 ∧ (debugged stall).held = false ∧
    ((dev stall []).put DBG_STATUS_LEVEL 3).get DBG_STATUS_LEVEL = 3 ∧ bitAt 0 1 = false ∧ bitAt 2 1 = true ∧ (debugged stall).tapMay = true ∧
    (dev stall []).tapMay = false ∧ (debugged stall).dbgReach 4 = true ∧ (dev stall []).dbgReach 4 = false ∧ (debugged stall).mode ≠ .debugFreeze ∧
    (debugged stall).mode ≠ .conformance ∧ (dev stall []).time < 999999999 + 1000000000 ∧ (debugged stall).dbgReach 0xFFFC = true ∧ (dev stall []).dbgReach 0x404 = false := by decide +kernel

/-- The right response exists for every nonce. -/
theorem test_response (key msg : Bytes) : (mac256 key msg).length = 32 := by
  simp [mac256, sliceBytes]

/-- A fed NOP may execute on a halted stall, and its memory may be read and written. -/
theorem test_debug_access : (debugged haltedStall).stall? 3 = some haltedStall ∧ (debugged haltedStall).live 3 = some (haltedStall, 0) ∧
    permitted (debugged haltedStall) haltedStall = true ∧ boundaryClear (debugged haltedStall) haltedStall = true ∧
    agentsClear haltedStall (haltedStall.tick + 1) = true ∧ notFeedable .nop = false ∧ rangeFaulted haltedStall 0xFFFFFC 4 = false ∧
    (debugged haltedStall).get DAM_CTL_GO = 0 ∧ ((debugged haltedStall).put DAM_CTL_SPACE 1).get DAM_CTL_SPACE = 1 := by decide +kernel

/-- With no entry of its table read, every access of the halted stall translates. -/
theorem test_feed_translates (r : Res) : accFails haltedStall r = false := rfl

/-- Pins that follow the board, samples above and below each limit, and the chain address in each state. -/
theorem test_pins_and_mgmt : (quiet []).padDriven 31 = none ∧ (quiet []).throttling = false ∧ (1759 : Int) < 1760 ∧ (quiet []).chainAddr = none ∧
    State.chainAddr { quiet [] with chainIn := true } = some 0x3C ∧
    (quiet [(BRD_CHAIN_ASSIGNED, 1), (BRD_CHAIN_ADDR, 0x4F)]).chainAddr = some 0x4F ∧ (quiet []).maySleep = true ∧ (dev stall []).maySleep = false ∧
    (0xFF : Nat) ∉ [0x01, 0x02, 0x0F, 0x10, 0x11, 0x12, 0x13, 0x20, 0x21, 0x30, 0x31, 0x32, 0x33, 0x34, 0x40] := by decide +kernel

/-- Accesses at both ends of BAR0, a register the host may not write, and a window into HBM. -/
theorem test_register_accesses : served .serve 0x3FFFFF8 = true ∧ accepted 0x3FFFFF8 8 = true ∧ served .boot 0 = true ∧ accepted 0 1 = true ∧
    (quiet []).hostMask 0x20000 = 0 ∧ regionOfRange 0xFFFFFF 1 = .hbm ∧ (quiet [(BAR2_WIN_EN, 1)]).get BAR2_WIN_EN = 1 := by decide +kernel

/-! ### Witnesses: premises that several statements share -/

/-- A fetch that fails its translation at the next instruction, one that waits for a page of the title, and a resolution of each. -/
def fetching : Nat := 0x1000 + stall.cpu.pc.toNat / 2048
def pageStall : Stall := (stall.faulted 1 fetching 0 5).inFaultWait 0
theorem test_translation_premises : pteKind fetching 0 false true ≠ 0 ∧ (bitAt 0 4 && (stall.dirty.contains fetching || stall.copying.contains fetching)) = false ∧
    (dev stall [0]).usesEntry stall fetching = true ∧ (dev stall [0]).selects stall 0 0 fetching false true = true ∧
    (dev stall [0]).faultKnown stall fetching = false ∧ (dev stall [0]).xfaults.length < 64 ∧
    64 ≤ ({ dev stall [0] with xfaults := List.replicate 64 { kind := 1, agent := 0, write := false, stall := 4, index := 0 } } : State).xfaults.length ∧
    pageStall.waits.find? (fun w => w.1 == fetching) = some (fetching, 5) ∧ faultingStall.waits.find? (fun w => w.1 == 7) = none ∧
    ((dev pageStall [0]).title? pageStall.title).isSome = true ∧ pageStall.sched = .faultWait ∧
    ((dev pageStall []).put SPLIT_STATE_MODE 0x7F).split spPAGING = true := by decide +kernel

/-- Steps due at a command's tick and none, doorbells served, store-buffer entries that an invalidation names and none. -/
def invalidating (index : Nat) : State :=
  { (dev stall []).puts [(MEM_INVAL_STALL, 3), (MEM_INVAL_INDEX, index)] with sbuf := [{ slot := 0, core := 0, stall := 3, stamp := 0, addr := 0x1000, data := [1], prior := [0] }] }
theorem test_unit_premises : stepUpTo (cmdSub 1 0) 7 5 = false ∧ (dev stall []).memServes = true ∧ (quiet []).memServes = true ∧
    blocksServe (quiet []).mode = true ∧ doorbells (quiet []).mode = true ∧ (invalidating (pteIndex 0x1000)).invalOpen = true ∧
    (invalidating 0).invalOpen = false ∧ damWriteMay haltedStall 0x1000 [1] = true ∧
    damWriteMay { haltedStall with copying := [pteIndex 0x1000] } 0x1000 [1] = false ∧ rangeFaulted haltedStall 0x1000 1 = false ∧
    readFaulted haltedStall 0x1000 1 = false := by decide +kernel

/-- A frame for the port and one that is not, streams whose packets may leave, and ports whose audio comes first. -/
def keyed (vq aq : List TxPkt) : State := { upPort with nets := [net0 vq aq] }
theorem test_port_premises : (keyed [pkt] []).net? 12 = some (net0 [pkt] []) ∧ (keyed [pkt] []).audioWaits 7 = false ∧ (keyed [] [pkt]).audioWaits 7 = true ∧
    (keyed [pkt] []).movedAway 3 = false ∧ (net0 [pkt] []).vkey = some key0 ∧ (net0 [] [pkt]).akey = some key0 ∧
    stallsExecute (keyed [pkt] []).mode = true ∧ (keyed [] []).pinsHeld = false ∧
    ((net0 [] [pkt]).arec.length - (net0 [] [pkt]).aq.length = 0 ∧ (net0 [] [pkt]).anum = 0 ∧ (net0 [] [pkt]).adone + 20000000 < upPort.time) ∧
    ({ net0 [] [pkt] with anum := 1 } : NetStream).anum ≠ 0 := by decide +kernel

/-- A port takes its own address and every group, and another's not. -/
theorem test_mac : macTakes 7 (portMac 7) = true ∧ macTakes 7 0xFFFFFFFFFFFF = true ∧ ∃ m, m < 2 ^ 48 ∧ macTakes 7 m = false := by
  refine ⟨by simp [macTakes], by simp only [macTakes]; rw [Bool.or_eq_true]; exact .inr (by decide), if portMac 7 = 0 then 1 else 0, ?_, ?_⟩
  · split <;> decide
  · split
    · rename_i h
      simp only [macTakes, h]
      decide
    · rename_i h
      have : (0 == portMac 7) = false := by simpa using fun e => h e.symm
      simp only [macTakes, this]
      decide

/-- The host's windows: decoded or not, the MSI-X table and configuration space, a vector live, masked and not; the monitor's
blanking line. -/
def msixDev (mask : Nat) : State := { quiet [(MSIX_EN, 1), (msixMask 0, mask)] with linkUp := true }
def blankDev : State := { quiet [(MON_CTL_EN, 1), (MON_COMMIT_GO, 1), (MON_STAT_ACTIVE, 1)] with mon := { shown.mon with inFrame := false, mul := 1, div := 1 } }
theorem test_port_windows : (quiet []).decodes = true ∧ (quiet [(PCI_POWER, 3)]).decodes = false ∧ pciSpace 4 = some (0x4000000, 2 ^ 16) ∧
    pciSpace 6 = some (0x4010000, 2 ^ 12) ∧ (msixDev 0).msixLive = true ∧ (msixDev 0).msixMasked 0 = false ∧ (msixDev 1).msixMasked 0 = true ∧
    (quiet []).msixLive = false ∧ blankDev.monBlank = 16 ∧ blankDev.monPos.isSome = true ∧ blankDev.get MON_COMMIT_GO = 1 := by decide +kernel

end

end Sys2Proof.Tests
end

section
/-! SUPPORT. The statements of the scope family: the assertion of an interrupt line (O29), the accesses of the registers (O60), and
what parking writes to device memory (O27). -/
namespace Sys2Proof.Machine

/-! ### Bits -/

theorem bitAt_eq_testBit (x n : Nat) : bitAt x n = x.testBit n := by
  unfold bitAt
  rw [Nat.testBit_eq_decide_div_mod_eq, Nat.shiftRight_eq_div_pow, Bool.beq_eq_decide_eq]

/-- A byte with one more bit set. -/
theorem bitAt_setBit (b : Byte) {l : Nat} (hl : l < 8) (j : Nat) :
    bitAt (b ||| BitVec.ofNat 8 (2 ^ l)).toNat j = (bitAt b.toNat j || decide (l = j)) := by
  simp only [bitAt_eq_testBit, BitVec.toNat_or, BitVec.toNat_ofNat, Nat.testBit_or, Nat.testBit_mod_two_pow, Nat.testBit_two_pow]
  by_cases h : l = j
  · simp [h ▸ hl]
  · simp [h]

/-! ### Bits that the device sets in a stall's registers (R94, R576) -/

@[simp] theorem devSetOld_mem (st : Stall) (k bit : Nat) : (devSetOld st k bit).mem = st.mem := rfl

theorem devSetBit_get (st : Stall) (k bit x : Nat) : Memory.get (devSetBit st k bit).mem x =
    if k = x then Memory.get st.mem k ||| BitVec.ofNat 8 (2 ^ bit) else Memory.get st.mem x :=
  Memory.get_set _ _ _ _

theorem assertLine_of_cleared {st : Stall} {l a : Nat} (h : a + 1 < nthD st.src.cleared l 0) :
    assertLine st l a = devSetOld st aISTAT l := if_pos h

theorem assertLine_of_not_cleared {st : Stall} {l a : Nat} (h : nthD st.src.cleared l 0 ≤ a + 1) :
    assertLine st l a = devSetBit st aISTAT l := if_neg (Nat.not_lt.2 h)

/-- Settles O29: the bit is set in memory unless a later write cleared it, and then in the shadow alone (R94, R576). -/
theorem lineAssertion : Obligations.LineAssertion := by
  unfold Obligations.LineAssertion
  intro st l a hl t
  have hs : SameCpu st t := assertLine_same (SameCpu.refl st)
  refine ⟨fun h => ?_, fun h => ?_, hs.tick, hs.cpu⟩
  · show (assertLine st l a).mem = _
    rw [assertLine_of_cleared h, devSetOld_mem]
  · have hget (x : Nat) := devSetBit_get st aISTAT l x
    rw [← assertLine_of_not_cleared h] at hget
    refine ⟨?_, fun j hj => ?_, fun x hx => ?_⟩
    · rw [hget, if_pos rfl, bitAt_setBit _ hl]; simp
    · rw [hget, if_pos rfl, bitAt_setBit _ hl]; simp [hj.symm]
    · rw [hget, if_neg hx.symm]

/-! ### Fields by access type (R7) -/

/-- Byte o after it has been put. -/
theorem rawByte_put (s : State) (o v j : Nat) (hj : j < 8) : bitAt ((s.put ⟨o, 0, 8⟩ v).rawByte o) j = bitAt v j := by
  have hf : (⟨o, 0, 8⟩ : Fld).fits = true := by simp only [Fld.fits, decide_eq_true_eq]; omega
  rw [State.rawByte, State.get_put _ _ _ hf, bitAt_eq_testBit, bitAt_eq_testBit, Nat.testBit_mod_two_pow]
  simp [hj]

/-- What one bit becomes under its access type: it is RW, W1S or W1C, stands at `old`, and `v` is written under enable `m`. -/
theorem accessType_bit : ∀ rw w1s w1c m v old : Bool,
    (((old ^^ (old && (rw && m || w1c && m && v))) || (v && (rw && m))) || (w1s && m && v)) =
      (if rw && m then v else if w1s && m && v then true else if w1c && m && v then false else old) := by decide

/-- A bit of a byte written: RW takes it, W1S sets it, W1C clears it where 1 is written. -/
theorem storeByte_bit (s : State) (o v m j : Nat) (hj : j < 8) : bitAt ((s.storeByte o v m).rawByte o) j =
    (if bitAt (typeMask o .rw) j && bitAt m j then bitAt v j
     else if bitAt (typeMask o .w1s) j && bitAt m j && bitAt v j then true
     else if bitAt (typeMask o .w1c) j && bitAt m j && bitAt v j then false
     else bitAt (s.rawByte o) j) := by
  unfold State.storeByte
  rw [rawByte_put _ _ _ _ hj]
  simp only [bitAt_eq_testBit, Nat.testBit_or, Nat.testBit_and, Nat.testBit_xor]
  exact accessType_bit _ _ _ _ _ _

/-- A bit of a byte read: RC clears it. -/
theorem clearRc_bit (s : State) (o j : Nat) (hj : j < 8) :
    bitAt ((s.clearRc o).rawByte o) j = (bitAt (s.rawByte o) j && !bitAt (typeMask o .rc) j) := by
  unfold State.clearRc
  dsimp only
  split
  · next h => simp [h, bitAt]
  · rw [rawByte_put _ _ _ _ hj]
    simp only [bitAt_eq_testBit, Nat.testBit_and, Nat.testBit_xor]
    cases (s.rawByte o).testBit j <;> simp

/-! ### The device physical address space (R358) -/

theorem devWrite_hbm {io : Mmio} {s : State} {a : Nat} {bs : Bytes} {host : Option Bytes} (hne : bs ≠ [])
    (hr : regionOfRange a bs.length = .hbm) : devWrite io s a bs host = .ok (s.devPut a bs) := by
  simp [devWrite, hne, hr]

theorem devRead_hbm {io : Mmio} {s : State} {a n : Nat} {host : Option Bytes} (hn : 0 < n) (hr : regionOfRange a n = .hbm) :
    devRead io s a n host = .ok (s.devBytes a n, s) := by
  simp [devRead, hn.ne', hr]

/-! ### Requests of the host and of firmware (R417 – R420) -/

/-- The host's write of one dword in which it may write nothing is denied and counted. -/
theorem hostWriteBar_denied {s : State} {dam : State → State} {off : Nat} {data : Bytes} (hl : data.length = 4)
    (ha : off % 4 = 0) (hm : s.hostMask off = 0) : hostWriteBar dam s off data = s.deny off := by
  have hd : dwordsOf off 4 = [off] := by
    have hn : (off + 4 - 1) / 4 - off / 4 + 1 = 1 := by omega
    have ho : (off / 4 + 0) * 4 = off := by omega
    show ((upto ((off + 4 - 1) / 4 - off / 4 + 1)).map _ : List Nat) = _
    rw [hn]
    exact congrArg (fun x => [x]) ho
  unfold hostWriteBar
  rw [hl, hd]
  simp [State.hostAct, hm]

section
variable {s : State} {off size : Nat} {data : Bytes} {host : Option Bytes} {unmapped : Bool}
  (hh : s.held = false) (ha : s.awake = true)
include hh ha

/-- Firmware writes a served register by its access types. -/
theorem registerWrite_firmware (ho : off < 2 ^ 26) (hv : served s.mode off = true) (hok : accepted off data.length = true)
    (hm : mayFailStop s.mode = true) :
    registerWrite false 0 off data host unmapped s = regWrite (damRun host unmapped) s off data := by
  simp [registerWrite, hh, ha, hok, hv, hm, Nat.not_le.2 ho, -Nat.reducePow]

section
variable (hl : s.linkUp = true)
include hl

/-- Outside D0 a request of the host but to configuration space is an error at the port (R417). -/
theorem hostAccess_undecoded (hd : s.decodes = false) {bar : Nat} (hb : bar ≠ 6) :
    registerWrite true bar off data host unmapped s = s.emit (.pcieError true) ∧
      ∀ debug, rcRead true debug bar off size host s = s.emit (.pcieError false) := by
  simp [registerWrite, rcRead, hh, ha, hl, hd, hb]

/-- BAR4 and configuration space hold the bytes of their own registers (R418). -/
theorem hostAccess_pci {bar base n : Nat} (hp : pciSpace bar = some (base, n)) (hd : bar = 6 ∨ s.decodes = true) :
    (off + data.length ≤ n → registerWrite true bar off data host unmapped s = pciWrite s (base + off) data) ∧
      ∀ debug, off + size ≤ n → rcRead true debug bar off size host s =
        { s with rdata := ofLE ((upto size).map fun i => s.readByte (base + off + i)) } := by
  have h2 : bar ≠ 2 := by rintro rfl; simp [pciSpace] at hp
  have h0 : bar ≠ 0 := by rintro rfl; simp [pciSpace] at hp
  have hd' : ¬(bar ≠ 6 ∧ s.decodes = false) := by rcases hd with h | h <;> simp [h]
  refine ⟨fun hn => ?_, fun debug hn => ?_⟩
  · simp [registerWrite, hh, ha, hl, hp, h2, h0, hd', hn]
  · simp [rcRead, hh, ha, hl, hp, h2, h0, hd', hn]

section
variable (hd : s.decodes = true)
include hd

/-- A host write of a served register of BAR0 acts within the host's permissions; one that BAR0 does not accept is an error (R420). -/
theorem registerWrite_host (ho : off < 2 ^ 26) (hv : served s.mode off = true) :
    registerWrite true 0 off data host unmapped s =
      if accepted off data.length then hostWriteBar (damRun host unmapped) s off data else s.emit (.pcieError true) := by
  cases hok : accepted off data.length <;> simp [registerWrite, hh, ha, hl, hd, hok, hv, Nat.not_le.2 ho, -Nat.reducePow]

/-- BAR2 with its window shut takes no write and reads 0. -/
theorem windowShut (he : s.get BAR2_WIN_EN = 0) : registerWrite true 2 off data host unmapped s = s ∧
    ∀ debug, rcRead true debug 2 off size host s = { s with rdata := 0 } := by
  simp [registerWrite, rcRead, hh, ha, hl, hd, he]

/-- A write through BAR2 of bytes of HBM. -/
theorem windowWrite_hbm (he : s.get BAR2_WIN_EN = 1) (hne : data ≠ []) (hn : off + data.length ≤ 2 ^ 24)
    (hr : regionOfRange (s.get BAR2_WIN_BASE * 2 ^ 24 + off) data.length = .hbm) :
    registerWrite true 2 off data host unmapped s = s.devPut (s.get BAR2_WIN_BASE * 2 ^ 24 + off) data := by
  have hlen : 0 < data.length := List.length_pos_iff.2 hne
  have hoff : ¬ 2 ^ 24 ≤ off := by omega
  unfold registerWrite
  rw [devWrite_hbm hne hr]
  simp [hh, ha, hl, hd, he, hoff, Nat.not_lt.2 hn, -Nat.reducePow]

/-- A read through BAR2 of bytes of HBM. -/
theorem windowRead_hbm (debug : Bool) (he : s.get BAR2_WIN_EN = 1) (hp : 0 < size) (hn : off + size ≤ 2 ^ 24)
    (hr : regionOfRange (s.get BAR2_WIN_BASE * 2 ^ 24 + off) size = .hbm) :
    rcRead true debug 2 off size host s = { s with rdata := ofLE (s.devBytes (s.get BAR2_WIN_BASE * 2 ^ 24 + off) size) } := by
  unfold rcRead
  rw [devRead_hbm hp hr]
  simp [hh, ha, hl, hd, he, Nat.not_lt.2 hn, -Nat.reducePow]

/-- A host read that BAR0 does not accept is an error. -/
theorem rcRead_refused (debug : Bool) (hok : accepted off size = false) :
    rcRead true debug 0 off size host s = s.emit (.pcieError false) := by
  simp [rcRead, hh, ha, hl, hd, hok]

end
end

/-- A read of a served register of BAR0, with its side effects unless it is a debug read (R7, R9). -/
theorem rcRead_served {byHost : Bool} (debug : Bool) (ho : off < 2 ^ 26) (hv : served s.mode off = true) (hok : accepted off size = true)
    (hd : byHost = true → s.linkUp = true ∧ s.decodes = true) : rcRead byHost debug 0 off size host s =
      if debug then { s with rdata := ofLE ((upto size).map fun i => s.seenByte (off + i)) } else (regRead s off size).2 := by
  cases byHost
  · simp [rcRead, hh, ha, hok, hv, Nat.not_le.2 ho, -Nat.reducePow]
  · obtain ⟨hl, hd⟩ := hd rfl
    simp [rcRead, hh, ha, hl, hd, hok, hv, Nat.not_le.2 ho, -Nat.reducePow]

end

/-- A read answers the bytes that stood in the registers before its side effects. -/
theorem regRead_rdata (s : State) (o n : Nat) : (regRead s o n).2.rdata = ofLE ((upto n).map fun i => s.seenByte (o + i)) := rfl

theorem accepted_dword {off : Nat} (h : off % 4 = 0) : accepted off 4 = true := by simp [accepted, h]

theorem exec_registerWrite (byHost : Bool) (bar off : Nat) (data : Bytes) (host : Option Bytes) (unmapped : Bool) (s : State) :
    exec (.registerWrite byHost bar off data host unmapped) s = .next (registerWrite byHost bar off data host unmapped s) := rfl

theorem exec_rcRead (byHost debug : Bool) (bar off size : Nat) (host : Option Bytes) (s : State) :
    exec (.rcRead byHost debug bar off size host) s = .next (rcRead byHost debug bar off size host s) := rfl

/-- Settles O60: each clause is the equation of the request it names, and the last the bits of a byte under its access types. -/
theorem registerAccessesComplete : Obligations.RegisterAccessesComplete := by
  unfold Obligations.RegisterAccessesComplete
  simp only [exec_registerWrite, exec_rcRead, Host.Outcome.next.injEq]
  intro s off hh ha ho hv
  refine ⟨fun data host unmapped hok hm => registerWrite_firmware hh ha ho hv hok hm, fun data host unmapped hl hd => ?_,
    fun bar data size host unmapped hl hd hb => hostAccess_undecoded hh ha hl hd hb, fun data size host unmapped debug hl hd => ?_,
    fun bar base n data size host unmapped debug hp hl hd => ?_,
    fun size host debug hl hd hok => rcRead_refused hh ha hl hd debug hok, fun byHost size host hok hd => ?_,
    fun v m j hj => ⟨storeByte_bit s off v m j hj, clearRc_bit s off j hj⟩⟩
  · have hw := registerWrite_host (host := host) (unmapped := unmapped) (data := data) hh ha hl hd ho hv
    refine ⟨fun hok => ?_, fun hok => ?_, fun h4 hal hm => ?_⟩
    · rw [hw, if_pos hok]
    · rw [hw, if_neg (by simp [hok])]
    · rw [hw, if_pos (by rw [h4]; exact accepted_dword hal), hostWriteBar_denied h4 hal hm]
      rfl
  · refine ⟨fun he hne hn hr => windowWrite_hbm hh ha hl hd he hne hn hr,
      fun he hp hn hr => windowRead_hbm hh ha hl hd debug he hp hn hr, fun he => ?_⟩
    obtain ⟨hw, hr⟩ := windowShut hh ha hl hd he
    exact ⟨hw, hr debug⟩
  · obtain ⟨hw, hr⟩ := hostAccess_pci hh ha hl hp hd
    exact ⟨hw, hr debug⟩
  · have hr (debug : Bool) := rcRead_served (host := host) hh ha debug ho hv hok hd
    exact ⟨hr true, _, hr false, regRead_rdata s off size⟩

/-! ### Parking writes a stall back (R13, R155) -/

theorem sliceBytes_length (bs : Bytes) (o n : Nat) : (sliceBytes bs o n).length = n := by
  simp [sliceBytes]

theorem getBytes_length (m : Mem) (a n : Nat) : (Memory.getBytes m a n).length = n := by
  induction n generalizing a with
  | zero => rfl
  | succ n ih => simp [Memory.getBytes, ih]

theorem getBytes_getD (m : Mem) (a n i : Nat) (hi : i < n) :
    (Memory.getBytes m a n).getD i 0 = Memory.get m (a + i) := by
  induction n generalizing a i with
  | zero => omega
  | succ n ih =>
    cases i with
    | zero => rfl
    | succ i =>
      rw [Memory.getBytes, List.getD_cons_succ, ih _ _ (by omega)]
      congr 1; omega

theorem storeImage_length (st : Stall) : st.storeImage.length = 4096 := by
  simp [Stall.storeImage, sliceBytes_length, getBytes_length]

theorem storeImage_nearPage (st : Stall) {i : Nat} (hi : i < 2048) :
    st.storeImage.getD (2048 + i) 0 = Memory.get st.mem i := by
  unfold Stall.storeImage
  rw [List.getD_append_right _ _ _ _ (by simp [sliceBytes_length]), sliceBytes_length, Nat.add_sub_cancel_left,
    getBytes_getD _ _ _ _ hi, Nat.zero_add]

/-- A write of HBM outside twinned extents. -/
theorem hbmWrite_untwinned {s : State} {a : Nat} {bs : Bytes} (h : ∀ e ∈ extentsOf a bs.length, s.twinned e = false) :
    (s.hbmWrite a bs).hbm = Memory.setBytes s.hbm a bs := by
  unfold State.hbmWrite
  dsimp only
  generalize Memory.setBytes s.hbm a bs = m
  generalize extentsOf a bs.length = l at h
  induction l with
  | nil => rfl
  | cons e l ih =>
    rw [List.foldl_cons, h e (by simp), if_neg (by simp)]
    exact ih fun x hx => h x (by simp [hx])

/-- The stall-store position of a parked stall lies in its first extent. -/
theorem writeBack_hbm {s : State} {st : Stall} {e : Nat} {l : List Nat} (hx : st.exts = e :: l) (h : s.twinned e = false) :
    (s.writeBack st).hbm = Memory.setBytes s.hbm (e * 0x200000 + storeAt) st.storeImage := by
  have hl := storeImage_length st
  have hw : s.writeBack st = (s.drainOf st.num).hbmWrite (e * 0x200000 + storeAt) st.storeImage := by
    unfold State.writeBack State.areaWrite
    rw [hx, hl]
    show State.hbmWrite _ (areaAddr (e :: l) storeAt) ((st.storeImage.drop 0).take 4096) = _
    rw [List.drop_zero, List.take_of_length_le (by omega)]
    rfl
  have hext : extentsOf (e * 0x200000 + storeAt) 4096 = [e] := by
    have h1 : extentOf (e * 0x200000 + storeAt) = e := by unfold extentOf storeAt; omega
    have h2 : extentOf (e * 0x200000 + storeAt + (4096 - 1)) = e := by unfold extentOf storeAt; omega
    unfold extentsOf
    rw [h1, h2, Nat.sub_self]
    rfl
  rw [hw, hbmWrite_untwinned, State.drainOf_hbm]
  rw [hl, hext]
  intro x hx
  rw [List.mem_singleton.1 hx]
  exact h

/-- Parking a stall writes its near page to HBM (R13, R155). -/
theorem setParked_nearPage {s : State} {was st : Stall} {e : Nat} {l : List Nat} (hp : st.sched = .parked) (hw : was.sched ≠ .parked)
    (hx : st.exts = e :: l) (h : s.twinned e = false) {i : Nat} (hi : i < 2048) :
    Memory.get (s.setParked was st).hbm (e * 0x200000 + storeAt + (2048 + i)) = Memory.get st.mem i := by
  unfold State.setParked
  rw [if_pos ⟨hp, hw⟩, State.setStall_hbm, writeBack_hbm hx h,
    Memory.get_setBytes_inside _ _ _ _ (by rw [storeImage_length]; omega), storeImage_nearPage _ hi]

/-- The instruction at the stall's boundary starts where its opcode is the command's (R64). -/
theorem stepOp_starts {s : State} {k slot : Nat} {st : Stall} {i : Inst} (hl : s.live k = some (st, slot))
    (hm : mayStart s st = true) (hr : (st.cpu.rep == 0 || st.cpu.repFirst) = true) (hd : nextInst (s.codeOf st slot) st = .ok i) :
    stepOp i.op k s = startInst s slot st (s.codeOf st slot) i := by
  unfold stepOp
  simp only [hl, hm, hr, hd, Bool.and_self, if_true]

/-- An instruction in whose way nothing stands takes effect, and its stall reaches the next boundary. -/
theorem startInst_arrives {s : State} {slot : Nat} {st : Stall} {i : Inst} (hp : permitted s st = true)
    (ha : agentsClear st (st.tick + instTicks s st slot i) = true)
    (hf : instFails st i (runInst (s.codeOf st slot) st s.time i).1 = false)
    (hh : holdFor st (runInst (s.codeOf st slot) st s.time i).1 (instTicks s st slot i) = .none)
    (hs : s.storeHeld slot st (runInst (s.codeOf st slot) st s.time i).1 = false) :
    ∃ rd wr, startInst s slot st (s.codeOf st slot) i = arrive (s.bufferInst st slot i) (afterInst s st slot i) rd wr := by
  unfold startInst afterInst State.bufferInst
  unfold instTicks at ha hh ⊢
  rw [if_neg (by simp [hp])]
  generalize runInst (s.codeOf st slot) st s.time i = p at *
  obtain ⟨r, cost⟩ := p
  dsimp only at ha hf hh hs ⊢
  rw [if_neg (by simp [ha]), if_neg (by simp [hf]), hh]
  dsimp only
  rw [hs]
  exact ⟨_, _, rfl⟩

/-- An instruction leaves a stall's number and what the debugger asks of it. -/
theorem afterInst_debug (s : State) (st : Stall) (slot : Nat) (i : Inst) : (afterInst s st slot i).num = st.num ∧
    (afterInst s st slot i).haltPend = st.haltPend ∧ (afterInst s st slot i).stepping = st.stepping := by
  have hc := commit_same st i (runInst (s.codeOf st slot) st s.time i).1 (runInst (s.codeOf st slot) st s.time i).2
  exact ⟨hc.num, hc.haltPend, hc.stepping⟩

/-- A stall that no halt and no breakpoint awaits is put in place at its boundary, parked where it holds a reason. -/
theorem arrive_unhalted {s : State} {st : Stall} {rd wr : List Nat} (hp : st.haltPend = none)
    (hb : ∀ n, n < 8 → bpOn s n st.num [1, 2, 3, 4] = false)
    (hs : st.stepping = false) : arrive s st rd wr = s.setParked st (parkHere s.time st) := by
  unfold arrive
  rw [hp, bpHit_none hb, hs]
  rfl

/-! ### A stall that parks at the boundary after its instruction -/

/-- A title whose program is one NOP. -/
def nopTitle : Title :=
  { handle := 1, digest := [], classes := 7, pages := 1, progAt := 0, cartAt := 0, init := [], prog := [0, 0], cart := [], media := []
    save := 0, ucs := none, exts := [] }

/-- A Class L stall that holds the park reason OPERATOR in the last instruction of a locked sequence: a NOP. Its STALL extent is 8
and the first byte of its near page is 1. -/
def parkingStall : Stall :=
  let b := newBody .L [] [] (newSubs nopTitle)
  { newStall 3 1 .L false 16 0 0x1F 0 b with
    f0 := some 0, sched := .running, tick := 10, ckptBound := 1000000, src := { Sources.reset 0 0 with lmFrom := 11 }
    cpu := { b.cpu with lock := 1 }, mem := Memory.set b.mem 0 1, exts := [8] }

/-- The device that runs it on slot 0, with nothing in HBM. -/
def parkingDevice : State :=
  { State.reset with
    mode := .serve, held := false, time := 1000000000, stalls := [parkingStall], titles := [nopTitle] }.puts
      [(placeValid 3, 1), (placeL 3, 0), (lmapValid 0, 1), (lmapSlot 0, 0), (atSlot STB_STATE_STATE 0, 1), (atSlot STB_CTL_RUN 0, 1),
       (atSlot RAS_CTL_EN 0, 1), (MEM_CTL_EN, 1), (MEM_CTL_XLAT, 1), (extFld 8, 2)]

/-- The instruction at the stall's PC. -/
def parkingInst : Inst := { op := .nop, code := 0, cond := 0, form := 0, opds := [], len := 1, ent := none }

/-- The stall after the NOP, at its next boundary. -/
def parkedStall : Stall := parkHere parkingDevice.time (afterInst parkingDevice parkingStall 0 parkingInst)

/-- The NOP ends the locked sequence, and the stall parks. -/
theorem parkingDevice_nop : exec (.nop 3) parkingDevice =
    .next ((parkingDevice.bufferInst parkingStall 0 parkingInst).setParked (afterInst parkingDevice parkingStall 0 parkingInst) parkedStall) := by
  obtain ⟨rd, wr, hd⟩ := startInst_arrives (s := parkingDevice) (slot := 0) (st := parkingStall) (i := parkingInst) (by decide +kernel)
    (by decide +kernel) (by decide +kernel) (by decide +kernel) (by decide +kernel)
  have hs : stepOp .nop 3 parkingDevice = _ :=
    stepOp_starts (i := parkingInst) (by decide +kernel : parkingDevice.live 3 = some (parkingStall, 0)) (by decide +kernel)
      (by decide +kernel) rfl
  obtain ⟨hnum, hpend, hstep⟩ := afterInst_debug parkingDevice parkingStall 0 parkingInst
  show Host.Outcome.next (stepOp .nop 3 parkingDevice) = _
  rw [hs, hd, arrive_unhalted hpend (by rw [hnum]; decide +kernel) hstep]
  rfl

/-- Refutes O27: on `parkingDevice` a NOP ends the locked sequence that kept its stall from parking, so the stall parks at the boundary
that follows, and its near page, whose first byte is 1, is written to its STALL shed in device memory, which held 0 (R13, R155). -/
theorem not_coreOperationsStayInTheirStall : ¬ Obligations.CoreOperationsStayInTheirStall := by
  unfold Obligations.CoreOperationsStayInTheirStall
  intro h
  obtain ⟨-, hhbm, -⟩ := h parkingDevice _ 3 4 (by decide) (.inl ⟨.nop, parkingDevice_nop⟩)
  have hone := setParked_nearPage (s := parkingDevice.bufferInst parkingStall 0 parkingInst)
    (was := afterInst parkingDevice parkingStall 0 parkingInst) (st := parkedStall) (e := 8) (l := []) (i := 0)
    (by decide +kernel) (by decide +kernel) (by decide +kernel) (by decide +kernel) (by decide)
  rw [hhbm] at hone
  exact absurd hone (by decide +kernel)

end Sys2Proof.Machine
end

section
/-! SUPPORT. The statements of the stall family: the processor after an instruction (O8) and the bytes of its stall that it leaves alone
(O26). -/
namespace Sys2Proof.Machine

/-! ### Which opcodes ask for an entry and which end one (R99, R104) -/

@[simp] theorem Res.none_swi (e : Env) : (Res.none e).swi = Option.none := rfl

@[simp] theorem Res.none_vec (e : Env) : (Res.none e).vec = Option.none := rfl

@[simp] theorem Res.put_swi (r : Res) (a : Option Nat) (n v : Nat) : (r.put a n v).swi = r.swi := by cases a <;> rfl

@[simp] theorem Res.put_vec (r : Res) (a : Option Nat) (n v : Nat) : (r.put a n v).vec = r.vec := by cases a <;> rfl

@[simp] theorem Res.setAlu_swi (r : Res) (x : Alu) : (r.setAlu x).swi = r.swi := rfl

@[simp] theorem Res.setAlu_vec (r : Res) (x : Alu) : (r.setAlu x).vec = r.vec := rfl

@[simp] theorem Res.setAcc_swi (r : Res) (k v : Nat) : (r.setAcc k v).swi = r.swi := by unfold Res.setAcc; split <;> rfl

@[simp] theorem Res.setAcc_vec (r : Res) (k v : Nat) : (r.setAcc k v).vec = r.vec := by unfold Res.setAcc; split <;> rfl

section
variable (e : Env) (i : Inst) (a b : Option Nat) (od os : Operand) (rd wr : Bool)

@[simp] theorem twoOp_swi (f : Nat → Nat → Alu) : (twoOp e i a b od os rd wr f).swi = none := by cases wr <;> simp [twoOp]

@[simp] theorem twoOp_vec (f : Nat → Nat → Alu) : (twoOp e i a b od os rd wr f).vec = none := by cases wr <;> simp [twoOp]

@[simp] theorem oneOp_swi (f : Nat → Alu) : (oneOp e i a od rd f).swi = none := by simp [oneOp]

@[simp] theorem oneOp_vec (f : Nat → Alu) : (oneOp e i a od rd f).vec = none := by simp [oneOp]

@[simp] theorem accOp_swi (f : Nat → Alu) : (accOp e i f).swi = none := by simp [accOp]

@[simp] theorem accOp_vec (f : Nat → Alu) : (accOp e i f).vec = none := by simp [accOp]

end

/-- Only SWI asks for an entry, and only RETI ends one. -/
theorem operate_entry (c : Code) (e : Env) (i : Inst) (next : Nat) :
    (i.op ≠ .swi → (operate c e i next).swi = none) ∧ (i.op ≠ .reti → (operate c e i next).vec = none) := by
  cases hop : i.op
  case bit | mvc | dbrc | ldrc | rpt | user =>
    simp only [operate, hop]
    repeat' split
    all_goals simp [userOp]
  all_goals simp [operate, hop]

theorem runInst_entry (c : Code) (st : Stall) (time : Nat) (i : Inst) :
    (i.op ≠ .swi → (runInst c st time i).1.swi = none) ∧ (i.op ≠ .reti → (runInst c st time i).1.vec = none) := by
  unfold runInst
  dsimp only
  split
  · exact operate_entry _ _ _ _
  · exact ⟨fun _ => rfl, fun _ => rfl⟩

/-- Settles O8: the commit of an instruction that is no SWI leaves the processor of `cpuAfter` but for its idle ticks (R58, R62). -/
theorem instructionRegisters : Obligations.InstructionRegisters := by
  unfold Obligations.InstructionRegisters
  intro s st slot i hop r t
  have hswi : r.swi = none := (runInst_entry _ _ _ _).1 hop
  obtain ⟨x, hcpu⟩ := commit_cpu st i r (runInst (s.codeOf st slot) st s.time i).2 hswi
  have ht : t.cpu = _ := hcpu
  rw [ht]
  refine ⟨commit_tick _ _ _ _ hswi, rfl, rfl, rfl, rfl, rfl, fun hrep => ?_⟩
  show BitVec.ofNat 22 (pcAfter st i r) = _
  rw [pcAfter, if_neg (Nat.not_le.2 (Nat.lt_succ_of_le hrep))]

/-! ### The memory of a stall under an instruction (R25, R58, R99, R101) -/

/-- The clears of what an instruction has read reach VID_COLL and VID_STAT alone. -/
theorem clearRead_apart {x : Nat} (st : Stall) (reads : List Nat) (hc : ¬(0x210892 ≤ x ∧ x < 0x210894))
    (hs : ¬(0x210896 ≤ x ∧ x < 0x210898)) : Apart x st (st.clearRead reads) := by
  refine ⟨rfl, rfl, rfl, rfl, ?_⟩
  unfold Stall.clearRead
  dsimp only
  generalize st.mem = m
  induction reads generalizing m with
  | nil => rfl
  | cons a l ih =>
    rw [List.foldl_cons, ih]
    split
    · next h =>
      rw [Memory.get_set, if_neg]
      rintro rfl
      simp [inRange] at h
      omega
    · rfl

theorem accessed_apart {x : Nat} (st : Stall) (a n : Nat) : Apart x st (st.accessed a n) := ⟨rfl, rfl, rfl, rfl, rfl⟩

/-- The end of a service reaches INSV alone. -/
theorem endService_apart {x : Nat} (st : Stall) (vec : Option Nat) (h : vec = none ∨ x ≠ aINSV) : Apart x st (endService st vec) := by
  unfold endService
  split
  · next v =>
    split
    · exact ⟨rfl, rfl, rfl, rfl, (Memory.get_set _ _ _ _).trans (if_neg (by simpa [eq_comm] using h))⟩
    · exact Apart.refl st
  · exact Apart.refl st

section
variable {x : Nat} (hx : x < 2 ^ 24) (h0 : aTCTL 0 ≠ x) (h1 : aTCTL 1 ≠ x) (hc : ¬(0x210892 ≤ x ∧ x < 0x210894))
  (hs : ¬(0x210896 ≤ x ∧ x < 0x210898))
include hx h0 h1 hc hs

/-- With no agent effect due, the writes of an instruction change no byte that they do not touch. -/
theorem written_apart {st : Stall} {r : Res} (w : Nat) (hp : st.pend = []) (ht : x ∉ touched (allWrites r)) :
    Apart x st (written st r w) := by
  unfold written
  extract_lets sh y
  have ha : Apart x st y := Apart.foldl (fun _ _ h => h.trans (accessed_apart _ _ _)) _ (Apart.refl st)
  have hr : Apart x st (Stall.clearRead { y with shadow := sh } r.env.reads) :=
    (ha.of (c := { y with shadow := sh }) rfl rfl rfl rfl).trans (clearRead_apart _ _ hc hs)
  rw [flush_nil _ _ (hr.pend.trans hp)]
  refine hr.trans (procWrites_apart hx h0 h1 _ w _ fun p hpw j hj e => ht ?_)
  exact List.mem_flatMap.2 ⟨p, hpw, List.mem_map.2 ⟨j, List.mem_range.2 hj, e⟩⟩

/-- With no agent or raster effect due, an instruction that is no SWI changes no byte that its writes do not touch. -/
theorem commit_get {st : Stall} {i : Inst} {r : Res} (cost : Nat) (hp : st.pend = []) (hcoll : st.src.collDue = [])
    (hah : st.ras.ahead = []) (hswi : r.swi = none) (hvec : r.vec = none ∨ x ≠ aINSV) (ht : x ∉ touched (allWrites r)) :
    Memory.get (commit st i r cost).mem x = Memory.get st.mem x := by
  have hr : Apart x st (retire st i r cost) := by
    unfold retire
    extract_lets t y z
    have hy : Apart x st y := ⟨rfl, rfl, rfl, rfl, rfl⟩
    have hw : Apart x st (written y r (t - 1)) := hy.trans (written_apart hx h0 h1 hc hs _ hp ht)
    exact (hw.trans (endService_apart _ _ hvec)).of rfl rfl rfl rfl
  unfold commit
  rw [hswi]
  exact (congrArg (Memory.get · x) (afterTick_nil _ (hr.pend.trans hp) (hr.coll.trans hcoll) (hr.ahead.trans hah))).trans hr.byte

end

/-- The command of an opcode is its step on the stall. -/
theorem exec_opCmd (op : Op) (k : Nat) (s : State) : exec (opCmd op k) s = .next (stepOp op k s) := by
  cases op <;> rfl

/-- An instruction that stands ready takes effect under the command of its opcode (R64). -/
theorem exec_ready {s : State} {k slot : Nat} {st : Stall} {i : Inst} (h : Ready s k st slot i)
    (hr : st.cpu.rep = 0 ∨ st.cpu.repFirst = true) :
    exec (opCmd i.op k) s = .next ((s.bufferInst st slot i).setStall (afterInst s st slot i)) := by
  rw [exec_opCmd, stepOp_starts h.live h.start (by simpa using hr) h.decoded, startInst_ready h]

/-- The stall that an instruction leaves in its place. -/
theorem stall?_afterInst {s : State} {k slot : Nat} {st : Stall} {i : Inst} (h : s.stall? k = some st) :
    ((s.bufferInst st slot i).setStall (afterInst s st slot i)).stall? k = some (afterInst s st slot i) := by
  obtain ⟨hnum, -, -⟩ := afterInst_debug s st slot i
  have hb : (s.bufferInst st slot i).stall? k = some st := h
  exact State.stall?_setStall_same _ _ _ _ hb (hnum.trans (State.stall?_num h))

/-- Settles O26: a ready instruction is committed, and its commit reaches no byte but those it writes, reads to clear, or stops a
timer by. -/
theorem memoryFrame : Obligations.MemoryFrame := by
  unfold Obligations.MemoryFrame
  intro s k slot st i hready hrep hop hp hcoll hah
  refine ⟨_, _, exec_ready hready hrep, stall?_afterInst (State.live_stall hready.live), fun a ha ht h0 h1 hc hs hreti => ?_⟩
  have hvec : (runInst (s.codeOf st slot) st s.time i).1.vec = none ∨ a ≠ aINSV := by
    by_cases h : i.op = .reti
    · exact .inr (hreti h)
    · exact .inl ((runInst_entry _ _ _ _).2 h)
  exact commit_get ha (Ne.symm h0) (Ne.symm h1) hc hs _ hp hcoll hah ((runInst_entry _ _ _ _).1 hop) hvec ht

end Sys2Proof.Machine
end

section
/-! SUPPORT. One nanosecond of the oscillator with no command waiting (O2). -/
namespace Sys2Proof.Machine

/-! ### The store buffers (R129) -/

/-- The store buffers after one nanosecond: two entries of every core have drained. -/
def drainedOnce (l : List StoreEntry) : List StoreEntry :=
  (upto 17).foldl (fun l p => (upto 4).foldl (fun l c => drainCore p c 2 l) l) l

theorem drainTick_eq (s : State) : s.drainTick = { s with sbuf := drainedOnce s.sbuf } := by
  have hcore (p : Nat) (l : List Nat) : ∀ t : State, l.foldl (fun s c => s.drainOldest p c 2) t =
      { t with sbuf := l.foldl (fun b c => drainCore p c 2 b) t.sbuf } := by
    induction l with
    | nil => intro t; rfl
    | cons c l ih => intro t; exact ih _
  have hall (l : List Nat) : ∀ t : State, l.foldl (fun s p => (upto 4).foldl (fun s c => s.drainOldest p c 2) s) t =
      { t with sbuf := l.foldl (fun b p => (upto 4).foldl (fun b c => drainCore p c 2 b) b) t.sbuf } := by
    induction l with
    | nil => intro t; rfl
    | cons p l ih => intro t; rw [List.foldl_cons, ih, hcore]; rfl
  unfold State.drainTick
  split
  · next h => rw [h]; cases s; cases h; rfl
  · exact hall _ s

/-! ### The monitor port (R228 – R232) -/

/-- State t differs from s in the register file and the monitor port alone. -/
def PortOnly (s t : State) : Prop := ∃ r m, t = { s with regs := r, mon := m }

theorem PortOnly.refl (s : State) : PortOnly s s := ⟨s.regs, s.mon, rfl⟩

theorem PortOnly.put {s t : State} (h : PortOnly s t) (f : Fld) (v : Nat) : PortOnly s (t.put f v) := by
  obtain ⟨r, m, rfl⟩ := h
  exact ⟨_, m, rfl⟩

theorem PortOnly.inc {s t : State} (h : PortOnly s t) (f : Fld) : PortOnly s (t.inc f) := h.put _ _

theorem PortOnly.raise {s t : State} (h : PortOnly s t) (n : Nat) : PortOnly s (t.raise n) := h.put _ _

theorem PortOnly.mon {s t : State} (h : PortOnly s t) (m : Monitor) : PortOnly s { t with mon := m } := by
  obtain ⟨r, m', rfl⟩ := h
  exact ⟨r, m, rfl⟩

theorem PortOnly.low {s t : State} (h : PortOnly s t) (fill : Nat) : PortOnly s (t.monLow fill) := by
  unfold State.monLow
  split
  · exact (h.put _ _).raise _
  · exact h

theorem PortOnly.under {s t : State} (h : PortOnly s t) (y x : Nat) : PortOnly s (t.monUnder y x) := by
  unfold State.monUnder
  extract_lets m t1
  have h1 : PortOnly s t1 := h.mon _
  exact ((h1.low 0).inc _).raise _

theorem PortOnly.line {s t : State} (h : PortOnly s t) : PortOnly s t.monLine := by
  unfold State.monLine
  split
  extract_lets y begun m t1 t2 x
  have h1 : PortOnly s t1 := h.mon _
  have h2 : PortOnly s t2 := h1.low _
  split
  · split
    · exact h2.under _ _
    · exact h2
  · exact h

theorem PortOnly.send {s t : State} (h : PortOnly s t) : PortOnly s t.monSend := by
  unfold State.monSend
  dsimp only
  split
  · exact h.mon _
  · exact h

theorem monTick_portOnly (s : State) : PortOnly s s.monTick := by
  unfold State.monTick
  split
  · exact (PortOnly.refl s).line.send.mon _
  · exact PortOnly.refl s

theorem monTick_of_inactive {s : State} (h : s.get MON_STAT_ACTIVE = 0) : s.monTick = s := by
  unfold State.monTick
  rw [h]
  rfl

/-! ### Nanoseconds of CAD_TIME (R21; log entry 2) -/

/-- State t is s some nanoseconds later: CAD_TIME and the store buffers are as given, and besides them only the register file, while
the monitor port is active, the port and the streams have changed. -/
def Later (s : State) (time : Nat) (sbuf : List StoreEntry) (t : State) : Prop :=
  ∃ r m x, t = { s with time, sbuf, regs := r, mon := m, streams := x } ∧ (s.get MON_STAT_ACTIVE = 0 → r = s.regs)

theorem Later.trans {s t u : State} {a b : Nat} {k l : List StoreEntry} (h : Later s a k t) (g : Later t b l u) : Later s b l u := by
  obtain ⟨r, m, x, rfl, hr⟩ := h
  obtain ⟨r', m', x', rfl, hr'⟩ := g
  refine ⟨r', m', x', rfl, fun h => ?_⟩
  have e := hr h
  subst e
  exact hr' h

theorem Later.time {s t : State} {a : Nat} {l : List StoreEntry} (h : Later s a l t) : t.time = a := by
  obtain ⟨_, _, _, rfl, -⟩ := h; rfl

theorem Later.sbuf {s t : State} {a : Nat} {l : List StoreEntry} (h : Later s a l t) : t.sbuf = l := by
  obtain ⟨_, _, _, rfl, -⟩ := h; rfl

/-- What follows leaves CAD_TIME and the store buffers. -/
theorem Later.still {s t u : State} {a : Nat} {l : List StoreEntry} (h : Later s a l t) (g : Later t t.time t.sbuf u) : Later s a l u := by
  rw [h.time, h.sbuf] at g
  exact h.trans g

theorem drainTick_later (s : State) : Later s s.time (drainedOnce s.sbuf) s.drainTick :=
  ⟨s.regs, s.mon, s.streams, drainTick_eq s, fun _ => rfl⟩

theorem monTick_later (s : State) : Later s s.time s.sbuf s.monTick := by
  obtain ⟨r, m, e⟩ := monTick_portOnly s
  refine ⟨r, m, s.streams, e, fun h => ?_⟩
  rw [monTick_of_inactive h] at e
  exact (congrArg State.regs e).symm

theorem beginFrames_later (s : State) (n : Nat) : Later s s.time s.sbuf (s.beginFrames n) := by
  unfold State.beginFrames
  split
  · exact ⟨s.regs, s.mon, _, rfl, fun _ => rfl⟩
  · exact ⟨s.regs, s.mon, s.streams, rfl, fun _ => rfl⟩

theorem cadTick_later (s : State) : Later s (s.time + 1) (drainedOnce s.sbuf) s.cadTick := by
  unfold State.cadTick
  extract_lets t s1 s2
  have h1 : Later s t s.sbuf s1 := ⟨s.regs, s.mon, s.streams, rfl, fun _ => rfl⟩
  have h2 : Later s t (drainedOnce s.sbuf) s2 := (h1.trans (drainTick_later s1)).still (monTick_later _)
  split
  · exact h2.still (beginFrames_later s2 _)
  · exact h2

theorem cadTicks_later (s : State) (n : Nat) :
    Later s (s.time + n) (drainedOnce^[n] s.sbuf) ((upto n).foldl (fun s _ => s.cadTick) s) := by
  induction n with
  | zero => exact ⟨s.regs, s.mon, s.streams, rfl, fun _ => rfl⟩
  | succ n ih =>
    unfold upto at ih ⊢
    rw [List.range_succ, List.foldl_concat, Function.iterate_succ_apply']
    have h := cadTick_later ((List.range n).foldl (fun s _ => s.cadTick) s)
    rw [ih.time, ih.sbuf] at h
    exact ih.trans h

theorem step_of_empty {s : State} (h : s.pending = []) : step s = .next s.tickNs := by
  unfold step
  rw [h]

/-- Settles O2: an oscillator period is as many nanoseconds of CAD_TIME as the corrected count of millionths holds, and each leaves all but
what `Later` names (log entry 2). -/
theorem emptyQueueTicks : Obligations.EmptyQueueTicks := by
  unfold Obligations.EmptyQueueTicks
  intro s hq a
  obtain ⟨r, m, x, ht, hr⟩ := cadTicks_later { s with slewAcc := a % 1000000 } (a / 1000000)
  refine ⟨_, (step_of_empty hq).trans (congrArg _ ht), rfl, rfl, rfl, hq, rfl, rfl, rfl, rfl, rfl, rfl, fun h => ?_,
    fun h => ?_, hr, ?_, ?_⟩
  · simp only [h]; rfl
  · simp only [h, drainTick_eq]; rfl
  · intro h0 hacc
    show s.time + a / 1000000 = _
    omega
  · intro h0 hacc
    show s.time + a / 1000000 ≤ _
    omega

end Sys2Proof.Machine
end

section
/-! SUPPORT. What ends a hold, a blocked stall's wait and a slice (O28), and what a stall's boundary brings: the sources computed from
ticks (O30), inputs, deliveries, the reset and checkpoints (O31). -/
namespace Sys2Proof.Machine

/-! ### Holds, evictions and slices (R29, R31, R149 – R153) -/

section
variable {s : State} {k slot : Nat} {st : Stall} (hl : s.live k = some (st, slot))
include hl

theorem catchUpRead_ends (hh : st.hold = .catchUp) (hs : st.sched = .running) (ht : st.holdTick ≤ st.ras.rpos) :
    catchUpRead k s = s.setStall { st with hold := .none } := by
  unfold catchUpRead
  rw [hl]
  exact if_pos ⟨hh, hs, decide_eq_true ht⟩

theorem stampQueueRelease_ends (hh : st.hold = .stamps) (hs : st.sched = .running)
    (hr : stampRoom st [{ tick := 0, src := 0, addr := 0x200000, data := [0] }] = true) :
    stampQueueRelease k s = s.setStall (flushBelow { st with hold := .none } st.tick) := by
  unfold stampQueueRelease
  rw [hl]
  dsimp only
  rw [if_pos ⟨.inl hh, hs, hr⟩, if_pos hh]

theorem holdEvict_evicts (hs : st.sched = .running) (hlock : st.cpu.lock = 0) (hh : st.hold ≠ .none)
    (hn : s.get (atSlot STB_HOLD_EVICT_CYCLES slot) = 0 ∨ s.get (atSlot STB_HOLD_EVICT_CYCLES slot) < 2 * (s.time - st.holdAt)) :
    holdEvict k s = (s.drainOf k).setStall { st with sched := .held, loaded := false } := by
  unfold holdEvict
  rw [hl]
  exact if_pos ⟨hs, hlock, hh, hn⟩

theorem holdClear_clears (hs : st.sched = .held) (ho : holdOver st = true) :
    holdClear k s = s.setStall { st with sched := .runnable, hold := .none } := by
  unfold holdClear
  rw [hl]
  exact if_pos ⟨hs, ho⟩

theorem blockedRelease_releases (hs : st.sched = .blocked) (hp : permitted s st = true) :
    blockedRelease k s = s.setStall { st with sched := .runnable } := by
  unfold blockedRelease
  rw [hl]
  exact if_pos ⟨hs, hp⟩

theorem quantumExpiry_ends (hs : st.sched = .running) (hlock : st.cpu.lock = 0)
    (hq : st.runAt + max 1000 (s.get (atSlot STB_QUANTUM_CYCLES slot)) / 2 ≤ s.time) :
    quantumExpiry k s = s.setStall { st with sched := .runnable, hold := .none } := by
  unfold quantumExpiry
  rw [hl]
  exact if_pos ⟨hs, hlock, hq⟩

end

/-- Settles O28: each event finds its conditions met on the live stall. -/
theorem holdsComplete : Obligations.HoldsComplete := by
  unfold Obligations.HoldsComplete
  intro s k slot st hl
  refine ⟨fun hh hs ht => ?_, fun hh hs hr => ?_, fun hs hlock hh hn => ?_, fun hs ho => ?_, fun hs hp => ?_, fun hs hlock hq => ?_⟩
  · exact congrArg Host.Outcome.next (catchUpRead_ends hl hh hs ht)
  · exact congrArg Host.Outcome.next (stampQueueRelease_ends hl hh hs hr)
  · exact congrArg Host.Outcome.next (holdEvict_evicts hl hs hlock hh hn)
  · exact congrArg Host.Outcome.next (holdClear_clears hl hs ho)
  · exact congrArg Host.Outcome.next (blockedRelease_releases hl hs hp)
  · exact congrArg Host.Outcome.next (quantumExpiry_ends hl hs hlock hq)

/-! ### Sources computed from ticks (R20, R94, R101, R194, R276) -/

section
variable {s : State} {k slot : Nat} {st : Stall} (hrun : running st = true) (hp : permitted s st = true)
include hrun hp

/-- In a slice that R22 lets go on, what a boundary brings takes effect. -/
theorem State.atEdge_permitted (t : Stall) : s.atEdge st t = s.setStall t := by
  simp [State.atEdge, hrun, hp]

section
variable (hl : s.live k = some (st, slot))
include hl

/-- A source that is due is taken where no reset comes before it. -/
theorem State.atBoundary_due (hr : resetDue st = false) {f : Stall → Option Stall} {t : Stall} (hf : f st = some t) :
    s.atBoundary k f = s.setStall t := by
  unfold State.atBoundary
  rw [hl]
  dsimp only
  rw [hr, if_neg Bool.false_ne_true, hf]
  exact State.atEdge_permitted hrun hp t

end
end

/-- With none recorded as due, the next line match is the one that the present values fix. -/
theorem lmPending_next {st : Stall} {a : Nat} (hd : st.src.lmDue = []) (hn : lmNext st st.src.lmFrom = some a) :
    lmPending st = some (a, lmie st) := by
  unfold lmPending
  rw [hd, hn]
  rfl

theorem sndPending_next {st : Stall} {a : Nat} (hd : st.src.sndDue = []) (hn : sndNext st st.src.sndFrom = some a) :
    sndPending st = some a := by
  unfold sndPending
  rw [hd]
  exact hn

theorem tmrPending_next {st : Stall} {n : Nat} (hd : (st.src.tmr n).due = []) (hen : bitAt (st.word (aTCTL n)) 0 = true) :
    tmrPending st n = some (st.src.tmr n).next := by
  unfold tmrPending
  dsimp only
  rw [hd]
  exact if_pos hen

/-- Settles O30: each source due is pending at its tick, so the boundary takes it. -/
theorem tickSourcesComplete : Obligations.TickSourcesComplete := by
  unfold Obligations.TickSourcesComplete
  intro s k slot st hl hrun hp hr
  refine ⟨?_, ?_, ?_, ?_⟩
  · intro hv
    exact congrArg Host.Outcome.next (State.atBoundary_due hrun hp hl hr (if_pos hv))
  · intro a ie hd hn hie ha x
    refine congrArg Host.Outcome.next (State.atBoundary_due hrun hp hl hr ?_)
    rw [lmPending_next hd hn, hd, hie]
    exact if_pos ha
  · intro n hn hd hen ht t x
    refine congrArg Host.Outcome.next (State.atBoundary_due hrun hp hl hr ?_)
    rw [if_pos hn, tmrPending_next hd hen]
    dsimp only
    rw [if_pos ht, if_pos (List.isEmpty_iff.2 hd)]
  · intro a hd hn ha
    refine congrArg Host.Outcome.next (State.atBoundary_due hrun hp hl hr ?_)
    rw [sndPending_next hd hn, hd]
    exact if_pos ha

/-! ### Inputs, deliveries, the reset and checkpoints (R35 – R43, R160, R163, R322) -/

section
variable {s : State} {k slot : Nat} {st : Stall} (hl : s.live k = some (st, slot)) (hrun : running st = true)
  (hp : permitted s st = true)
include hl hrun hp

/-- In a replay the next logged input that is due shows again. -/
theorem inputVisible_replayed {e : LogEntry} {r : List LogEntry} (hlog : st.replayLog = e :: r) (hk : e.kind = 0)
    (hb : beforeReset st e.tick = true) :
    inputVisible k s = s.setStall (showInput { st with replayLog := r } e.tick e.source e.payload) := by
  unfold inputVisible
  rw [hl]
  dsimp only
  rw [hlog]
  dsimp only
  rw [if_pos ⟨hk, hb⟩]
  exact State.atEdge_permitted hrun hp _

/-- Outside a replay the first latched input that is due shows, and is logged. -/
theorem inputVisible_latched {x : Latched} {rest : List Latched} (hlog : st.replayLog = [])
    (ht : takeLatched st false = some (x, rest)) :
    inputVisible k s = s.setStall (showInput (addLog (decide (s.mode = .conformance)) { st with latched := rest }
      [{ tick := x.bound, kind := 0, source := x.who, seq := x.seq % 2 ^ 32, payload := sliceBytes x.data 0 16 }])
      x.bound x.who x.data) := by
  unfold inputVisible
  rw [hl]
  dsimp only
  rw [hlog]
  dsimp only
  rw [ht]
  exact State.atEdge_permitted hrun hp _

/-- A delivery that is due reaches its LINK subchannel, and is logged. -/
theorem linkDeliveryVisible_latched {x : Latched} {rest : List Latched} (hlog : st.replayLog = []) (hlock : st.cpu.lock = 0)
    (ht : takeLatched st true = some (x, rest)) (hty : (st.sub x.who).ty = dLINK) (hi : st.imported = false) :
    linkDeliveryVisible k s = s.setStall (showDelivery (addLog (decide (s.mode = .conformance)) { st with latched := rest }
      (linkEntries x.bound x.who x.seq 65 false x.data)) x.bound x.who x.data) := by
  unfold linkDeliveryVisible
  rw [hl]
  dsimp only
  rw [if_neg (by omega), hlog]
  dsimp only
  rw [ht]
  dsimp only
  rw [if_pos ⟨hty, by simp [hi]⟩]
  exact State.atEdge_permitted hrun hp _

/-- A placed reset that is due is logged and takes effect. -/
theorem stallResetApply_placed {b : Nat} (hlog : st.replayLog = []) (hb : st.resetAt = [b]) (ht : b ≤ st.tick) (hlock : st.cpu.lock = 0)
    (hready : readyToReset s st = true) (hm : s.mode ≠ .conformance) :
    stallResetApply k s =
      s.setStall (resetStall (addLog false st [{ tick := st.tick, kind := 2, source := 0, seq := 0, payload := [] }])) := by
  have hdue : resetDue st = true := by simp [resetDue, hb, dueBy, ht, hlock]
  unfold stallResetApply
  rw [hl]
  dsimp only
  rw [if_pos ⟨hdue, hready⟩, hlog]
  dsimp only
  rw [decide_eq_false hm]
  exact State.atEdge_permitted hrun hp _

/-- A checkpoint due is captured, and counted, once the one before it is complete. -/
theorem checkpointCapture_captures (hc : st.ckptBound ≤ st.tick) (hlock : st.cpu.lock = 0) (hr : resetDue st = false)
    (hlat : latchedDue st = false) (ho : ckptOpen st = false) (hh : s.get HOD_CTL_EN = 0 ∨ agentsClear st st.tick = true) :
    checkpointCapture k s = ((s.drainOf k).setStall (capture st)).put (atSlot STB_CKPT_STAT_CAPTURED slot)
      (s.get (atSlot STB_CKPT_STAT_CAPTURED slot) + 1) := by
  have hdue : ckptDue st = true := by simp [ckptDue, hc, hlock]
  have hs : st.sched = .running := by simp [running] at hrun; exact hrun.1
  unfold checkpointCapture
  rw [hl]
  dsimp only
  rw [if_pos ⟨hdue, by simp [hr], by simp [hlat], hs, hh⟩, if_neg (by simp [hp]), if_neg (by simp [ho])]

end

/-- A stall without an L1 grant keeps none through its reset (R511). -/
theorem stallResetApplyD_ungranted {s : State} {k : Nat} {st : Stall} (h : s.stall? k = some st) (hl1 : st.l1 = false) :
    stallResetApplyD k s = stallResetApply k s := by
  have hg : s.hasL1 k = false := by simp [State.hasL1, h, hl1]
  unfold stallResetApplyD
  rw [hg]
  rfl

/-- A checkpoint that is complete lies in the CKPT shed, and the stall goes on (R162, R163). -/
theorem checkpointComplete_completes {s : State} {k : Nat} {st : Stall} (h : s.stall? k = some st) (ho : ckptOpen st = true)
    (hm : s.mode ≠ .conformance) : checkpointComplete k s = (s.writeCkpt st).setStall (completeCkpt false st) := by
  unfold checkpointComplete
  rw [h]
  dsimp only
  rw [if_pos ho, decide_eq_false hm]

section
variable {s : State} {k : Nat} (hm : s.mig? k true = none)
include hm

/-- A stall that does not migrate has its checkpoints captured and completed as such (R412). -/
theorem checkpointCaptureM_unmigrated : checkpointCaptureM k s = checkpointCapture k s := by
  have hd : s.migDue k = none := by unfold State.migDue; rw [hm]
  unfold checkpointCaptureM
  rw [hd]
  rfl

theorem checkpointCompleteM_unmigrated : checkpointCompleteM k s = checkpointComplete k s := by
  unfold checkpointCompleteM
  dsimp only
  rw [hm]
  split
  · next h => cases h
  · rfl

end

/-- Settles O31: each event finds its condition met at the live stall's boundary. -/
theorem boundaryEventsComplete : Obligations.BoundaryEventsComplete := by
  unfold Obligations.BoundaryEventsComplete
  intro s k slot st hl hrun hp
  have hst := State.live_stall hl
  refine ⟨fun e r hlog hk hb => ?_, fun x rest hlog ht => ?_, fun x rest hlog hlock ht hty hi => ?_,
    fun b hlog hb ht hlock hready hm hl1 => ?_, fun hc hlock hr hlat ho hh hm hmig => ?_, fun ho hm hmig => ?_⟩
  · exact congrArg Host.Outcome.next (inputVisible_replayed hl hrun hp hlog hk hb)
  · exact congrArg Host.Outcome.next (inputVisible_latched hl hrun hp hlog ht)
  · exact congrArg Host.Outcome.next (linkDeliveryVisible_latched hl hrun hp hlog hlock ht hty hi)
  · exact congrArg Host.Outcome.next
      ((stallResetApplyD_ungranted hst hl1).trans (stallResetApply_placed hl hrun hp hlog hb ht hlock hready hm))
  · exact congrArg Host.Outcome.next
      ((checkpointCaptureM_unmigrated hmig).trans (checkpointCapture_captures hl hrun hp hc hlock hr hlat ho hh))
  · exact congrArg Host.Outcome.next
      ((checkpointCompleteM_unmigrated hmig).trans (checkpointComplete_completes hst ho hm))

end Sys2Proof.Machine
end

section
/-! SUPPORT. The registers that an operation can change (O11). -/
namespace Sys2Proof.Machine

/-! ### The registers that an operation can change (R64 – R66, R71, R74 – R76, R85, R99) -/

/-- The result that changes nothing names no register, and keeps FLAGS, CTL and RC. -/
theorem Res.none_rest (e : Env) : (Res.none e).a0 = Option.none ∧ (Res.none e).a1 = Option.none ∧
    (Res.none e).rc = e.st.cpu.rc.toNat ∧ (Res.none e).ctl = e.st.cpu.ctl.toNat ∧ (Res.none e).flags = e.st.cpu.flags.toNat ∧
    (Res.none e).sp = Option.none ∧ (Res.none e).pc = Option.none ∧ (Res.none e).rep = Option.none ∧
    (Res.none e).lock = Option.none ∧ (Res.none e).idle = .none :=
  ⟨rfl, rfl, rfl, rfl, rfl, rfl, rfl, rfl, rfl, rfl⟩

/-- Flags of a result touch no other register. -/
theorem Res.setAlu_rest (r : Res) (x : Alu) : (r.setAlu x).a0 = r.a0 ∧ (r.setAlu x).a1 = r.a1 ∧ (r.setAlu x).rc = r.rc ∧
    (r.setAlu x).ctl = r.ctl ∧ (r.setAlu x).sp = r.sp ∧ (r.setAlu x).pc = r.pc ∧ (r.setAlu x).rep = r.rep ∧
    (r.setAlu x).lock = r.lock ∧ (r.setAlu x).idle = r.idle :=
  ⟨rfl, rfl, rfl, rfl, rfl, rfl, rfl, rfl, rfl⟩

/-- An accumulator result touches no other register. -/
theorem Res.setAcc_rest (r : Res) (k v : Nat) : (r.setAcc k v).rc = r.rc ∧ (r.setAcc k v).ctl = r.ctl ∧
    (r.setAcc k v).flags = r.flags ∧ (r.setAcc k v).sp = r.sp ∧ (r.setAcc k v).pc = r.pc ∧ (r.setAcc k v).rep = r.rep ∧
    (r.setAcc k v).lock = r.lock ∧ (r.setAcc k v).idle = r.idle := by
  unfold Res.setAcc
  split <;> exact ⟨rfl, rfl, rfl, rfl, rfl, rfl, rfl, rfl⟩

section
variable (e : Env) (i : Inst) (a b : Option Nat) (od os : Operand) (rd wr : Bool)

/-- An operation of two operands changes FLAGS alone. -/
theorem twoOp_rest (f : Nat → Nat → Alu) : (twoOp e i a b od os rd wr f).a0 = none ∧ (twoOp e i a b od os rd wr f).a1 = none ∧
    (twoOp e i a b od os rd wr f).rc = e.st.cpu.rc.toNat ∧ (twoOp e i a b od os rd wr f).ctl = e.st.cpu.ctl.toNat ∧
    (twoOp e i a b od os rd wr f).sp = none ∧ (twoOp e i a b od os rd wr f).pc = none ∧ (twoOp e i a b od os rd wr f).rep = none ∧
    (twoOp e i a b od os rd wr f).lock = none ∧ (twoOp e i a b od os rd wr f).idle = .none := by
  cases rd <;> cases wr <;> simp [twoOp, Res.put_rest, Res.setAlu_rest, Res.none_rest]

/-- An operation of one operand changes FLAGS alone. -/
theorem oneOp_rest (f : Nat → Alu) : (oneOp e i a od rd f).a0 = none ∧ (oneOp e i a od rd f).a1 = none ∧
    (oneOp e i a od rd f).rc = e.st.cpu.rc.toNat ∧ (oneOp e i a od rd f).ctl = e.st.cpu.ctl.toNat ∧
    (oneOp e i a od rd f).sp = none ∧ (oneOp e i a od rd f).pc = none ∧ (oneOp e i a od rd f).rep = none ∧
    (oneOp e i a od rd f).lock = none ∧ (oneOp e i a od rd f).idle = .none := by
  cases rd <;> simp [oneOp, Res.put_rest, Res.setAlu_rest, Res.none_rest]

/-- An accumulator operation changes FLAGS and its accumulator alone. -/
theorem accOp_rest (f : Nat → Alu) : (accOp e i f).rc = e.st.cpu.rc.toNat ∧ (accOp e i f).ctl = e.st.cpu.ctl.toNat ∧
    (accOp e i f).sp = none ∧ (accOp e i f).pc = none ∧ (accOp e i f).rep = none ∧ (accOp e i f).lock = none ∧
    (accOp e i f).idle = .none := by
  simp [accOp, Res.setAcc_rest, Res.setAlu_rest, Res.none_rest]

end

/-- The opcodes that can change RC, CTL, P15, PC, the repeat latch, the lock count and the idle state. -/
theorem operate_registers (c : Code) (e : Env) (i : Inst) (next : Nat) :
    (i.op ∉ [.dbrc, .ldrc] → (operate c e i next).rc = e.st.cpu.rc.toNat) ∧
    (i.op ∉ [.mvc, .reti] → (operate c e i next).ctl = e.st.cpu.ctl.toNat) ∧
    (i.op ∉ [.push, .pop, .call, .ret, .reti] → (operate c e i next).sp = none) ∧
    (i.op ∉ [.br, .jmp, .call, .ret, .reti, .dbnz, .dbrc, .rpt] → (operate c e i next).pc = none) ∧
    (i.op ∉ [.rpt, .reti] → (operate c e i next).rep = none) ∧ (i.op ≠ .lock → (operate c e i next).lock = none) ∧
    (i.op ∉ [.wait, .sync] → (operate c e i next).idle = .none) := by
  cases hop : i.op
  case bit | mvc | dbrc | ldrc | rpt | user =>
    simp only [operate, hop]
    repeat' split
    all_goals simp [userOp, Res.put_rest, Res.none_rest]
  all_goals simp [operate, hop, Res.put_rest, Res.setAlu_rest, Res.setAcc_rest, Res.none_rest, twoOp_rest, oneOp_rest, accOp_rest]

/-- The opcodes that can change an accumulator (R71, R117). -/
theorem operate_accumulators (c : Code) (e : Env) (i : Inst) (next : Nat)
    (h : i.op ∉ [.lda, .adda, .suba, .mpy, .mac, .msu, .sha, .user]) :
    (operate c e i next).a0 = none ∧ (operate c e i next).a1 = none := by
  cases hop : i.op
  case lda | adda | suba | mpy | mac | msu | sha | user => simp [hop] at h
  case bit | mvc | dbrc | ldrc | rpt =>
    simp only [operate, hop]
    repeat' split
    all_goals simp [Res.put_rest, Res.none_rest]
  all_goals simp [operate, hop, Res.put_rest, Res.setAlu_rest, Res.none_rest, twoOp_rest, oneOp_rest]

/-- The opcodes whose Flags column is four dashes (R64). -/
theorem operate_flags (c : Code) (e : Env) (i : Inst) (next : Nat)
    (h : i.op ∈ [.nop, .xch, .lea, .push, .lda, .sta, .br, .jmp, .call, .ret, .dbnz, .dbrc, .ldrc, .rpt, .lock, .swi, .wait, .sync]) :
    (operate c e i next).flags = e.st.cpu.flags.toNat := by
  simp only [List.mem_cons, List.not_mem_nil, or_false] at h
  rcases h with h | h | h | h | h | h | h | h | h | h | h | h | h | h | h | h | h | h
  all_goals
    simp only [operate, h]
    repeat' split
    all_goals simp [Res.put_rest, Res.setAcc_rest, Res.none_rest]

/-- Settles O11: the three tables of what an operation can change, and what asks for an entry or ends one. -/
theorem registerFrame : Obligations.RegisterFrame := by
  unfold Obligations.RegisterFrame
  intro c e i next r cpu
  obtain ⟨hrc, hctl, hsp, hpc, hrep, hlock, hidle⟩ := operate_registers c e i next
  obtain ⟨hswi, hvec⟩ := operate_entry c e i next
  exact ⟨operate_accumulators c e i next, hrc, hctl, hsp, hpc, hrep, hlock, hswi, hvec, hidle, operate_flags c e i next⟩

end Sys2Proof.Machine
end

section
/-! SUPPORT. What the sequencer does at a stall's boundary: an instruction of any opcode (O6), a further repetition (O7), an instruction
whose condition does not hold (O10), an entry (O23, O24) and an idle step (O25). -/
namespace Sys2Proof.Machine

/-! ### Instructions and repetitions (R64, R85 – R87) -/

/-- Settles O6: whatever its opcode, an instruction that stands ready is committed. -/
theorem opcodesComplete : Obligations.OpcodesComplete := by
  unfold Obligations.OpcodesComplete
  intro s k slot st i hready hrep
  exact exec_ready hready hrep

/-- A further repetition starts the instruction again (R85). -/
theorem exec_repetition_ready {s : State} {k slot : Nat} {st : Stall} {i : Inst} (h : Ready s k st slot i) (hrep : 0 < st.cpu.rep)
    (hfirst : st.cpu.repFirst = false) :
    exec (.repetition k) s = .next ((s.bufferInst st slot i).setStall (afterInst s st slot i)) := by
  have hstep : stepRep k s = startInst s slot st (s.codeOf st slot) i := by
    unfold stepRep
    simp [h.live, h.start, h.decoded, hrep, hfirst]
  exact congrArg Host.Outcome.next (hstep.trans (startInst_ready h))

theorem runInst_true {c : Code} {st : Stall} {time : Nat} {i : Inst} (h : condOk st i = true) :
    (runInst c st time i).1 = operate c (Env.start st time c.cart) i (nextPc st i) := by
  simp [runInst, h]

theorem runInst_false {c : Code} {st : Stall} {time : Nat} {i : Inst} (h : condOk st i = false) :
    runInst c st time i = (Res.none (Env.start st time c.cart), falseCost st.cls i) := by
  simp [runInst, h]

theorem runInst_rep (c : Code) (st : Stall) (time : Nat) (i : Inst) (h : i.op ∉ [.rpt, .reti]) : (runInst c st time i).1.rep = none := by
  cases hc : condOk st i
  · rw [runInst_false hc]; rfl
  · obtain ⟨-, -, -, -, hrep, -⟩ := operate_registers c (Env.start st time c.cart) i (nextPc st i)
    rw [runInst_true hc, hrep h]

/-- What a repetition leaves of the repeat latch and of PC (R85). -/
theorem afterInst_repeats (s : State) (st : Stall) (slot : Nat) (i : Inst) (h : notRepeatable i.op = false) :
    (afterInst s st slot i).cpu.rep = st.cpu.rep - 1 ∧ (2 ≤ st.cpu.rep → (afterInst s st slot i).cpu.pc = st.cpu.pc) := by
  have hswi : i.op ≠ .swi := fun e => by simp [e, notRepeatable] at h
  have hrep : i.op ∉ [.rpt, .reti] := by
    simp only [List.mem_cons, List.not_mem_nil, or_false]
    rintro (e | e) <;> simp [e, notRepeatable] at h
  obtain ⟨x, hcpu⟩ := commit_cpu st i (runInst (s.codeOf st slot) st s.time i).1 (runInst (s.codeOf st slot) st s.time i).2
    ((runInst_entry _ _ _ _).1 hswi)
  have ht : (afterInst s st slot i).cpu = _ := hcpu
  rw [ht]
  refine ⟨?_, fun h2 => ?_⟩
  · simp only [cpuAfter, runInst_rep _ _ _ _ hrep]
  · simp only [cpuAfter, pcAfter, if_pos h2, BitVec.ofNat_toNat, BitVec.setWidth_eq]

/-- Settles O7: the repetition is committed like its first execution, and its commit counts the latch down. -/
theorem repetitionCompletes : Obligations.RepetitionCompletes := by
  unfold Obligations.RepetitionCompletes
  intro s k slot st i hready hrep hfirst
  exact ⟨exec_repetition_ready hready hrep hfirst, afterInst_repeats s st slot i⟩

/-! ### An instruction whose condition does not hold (R61) -/

/-- With no agent effect, collision assertion or raster mark due, nothing follows an advance of TICK. -/
theorem afterTick_quiet {st : Stall} (hp : st.pend = []) (hc : st.src.collDue = []) (hm : st.ras.ahead = []) : afterTick st = st := by
  have hmarks : passMarks st st.tick = st := by simp [passMarks, hm]
  have hcoll : applyColl st = st := by
    unfold applyColl
    simp only [hc, List.filter_nil, List.foldl_nil]
    rw [← hc]
  rw [afterTick, hmarks, flush_nil st _ hp, hcoll]

/-- Stall b has the memory, the units and the effects still to come of stall a. -/
structure UnitsOf (a b : Stall) : Prop where
  mem    : b.mem = a.mem
  rview  : b.rview = a.rview
  stamps : b.stamps = a.stamps
  subs   : b.subs = a.subs
  lane   : b.lane = a.lane
  pend   : b.pend = a.pend
  src    : b.src = a.src
  ahead  : b.ras.ahead = a.ras.ahead

theorem UnitsOf.trans {a b c : Stall} (h : UnitsOf a b) (k : UnitsOf b c) : UnitsOf a c :=
  ⟨k.mem.trans h.mem, k.rview.trans h.rview, k.stamps.trans h.stamps, k.subs.trans h.subs, k.lane.trans h.lane,
    k.pend.trans h.pend, k.src.trans h.src, k.ahead.trans h.ahead⟩

/-- A result that changes nothing writes nothing, and of what it has read, which is nothing, no byte is cleared. -/
theorem written_none {st : Stall} (hp : st.pend = []) {e : Env} (hptr : e.ptr = []) (hreads : e.reads = []) (haccs : e.accs = [])
    (w : Nat) :
    UnitsOf st (written st (Res.none e) w) := by
  have hwrs : allWrites (Res.none e) = [] := by simp [allWrites, Res.none, hptr]
  have hacc : (Res.none e).env.accs = [] := haccs
  have hread : (Res.none e).env.reads = [] := hreads
  unfold written
  rw [hwrs, hacc, hread]
  extract_lets sh y
  have hy : (Stall.clearRead { y with shadow := sh } []).pend = [] := hp
  rw [flush_nil _ _ hy]
  exact ⟨rfl, rfl, rfl, rfl, rfl, rfl, rfl, rfl⟩

theorem atTick_units (st : Stall) (t last : Nat) (c : Cpu) : UnitsOf st (st.atTick t last c) := ⟨rfl, rfl, rfl, rfl, rfl, rfl, rfl, rfl⟩

section
variable {st : Stall} (hp : st.pend = []) (i : Inst) (time : Nat) (cart : Bytes) (cost : Nat)
include hp

theorem retire_none : UnitsOf st (retire st i (Res.none (Env.start st time cart)) cost) := by
  unfold retire
  extract_lets t x y
  have hx : UnitsOf st x := ⟨rfl, rfl, rfl, rfl, rfl, rfl, rfl, rfl⟩
  have hw : UnitsOf x (written x (Res.none (Env.start st time cart)) (t - 1)) := written_none (st := x) hp rfl rfl rfl _
  exact ((hx.trans hw).trans (atTick_units _ _ _ _)).trans (atTick_units _ _ _ _)

/-- With no agent or raster effect due, an instruction that changes nothing leaves the memory and the units as they are (R61). -/
theorem commit_none (hc : st.src.collDue = []) (hm : st.ras.ahead = []) :
    UnitsOf st (commit st i (Res.none (Env.start st time cart)) cost) := by
  have hr := retire_none hp i time cart cost
  have ht : commit st i (Res.none (Env.start st time cart)) cost = retire st i (Res.none (Env.start st time cart)) cost :=
    afterTick_quiet (hr.pend.trans hp) ((congrArg Sources.collDue hr.src).trans hc) (hr.ahead.trans hm)
  rw [ht]
  exact hr

end

/-- An instruction that changes nothing leaves the registers as they are (R61). -/
theorem commit_none_cpu (st : Stall) (i : Inst) (time : Nat) (cart : Bytes) (cost : Nat) :
    let c := (commit st i (Res.none (Env.start st time cart)) cost).cpu
    c.flags = st.cpu.flags ∧ c.ctl = st.cpu.ctl ∧ c.rc = st.cpu.rc ∧ c.a0 = st.cpu.a0 ∧ c.a1 = st.cpu.a1 := by
  intro c
  obtain ⟨x, hcpu⟩ := commit_cpu st i (Res.none (Env.start st time cart)) cost rfl
  have hc : c = _ := hcpu
  rw [hc]
  simp [cpuAfter, Res.none, Env.start]

/-- Settles O10: such an instruction has the result that changes nothing, at the cost of R61. -/
theorem conditionFalse : Obligations.ConditionFalse := by
  unfold Obligations.ConditionFalse
  intro s k slot st i hready hrep hcond hp hc hm
  have hcost : falseCost st.cls i = if st.cls = .L then i.len else 1 := by cases st.cls <;> rfl
  have hafter : afterInst s st slot i =
      (commit st i (Res.none (Env.start st s.time (s.codeOf st slot).cart)) (falseCost st.cls i)).pastBreak := by
    unfold afterInst
    rw [runInst_false hcond]
  have hu := commit_none hp i s.time (s.codeOf st slot).cart (falseCost st.cls i) hc hm
  obtain ⟨hflags, hctl, hrc, ha0, ha1⟩ := commit_none_cpu st i s.time (s.codeOf st slot).cart (falseCost st.cls i)
  refine ⟨_, _, exec_ready hready hrep, stall?_afterInst (State.live_stall hready.live), ?_⟩
  rw [hafter, ← hcost]
  exact ⟨commit_tick _ _ _ _ rfl, hu.mem, hu.rview, hu.stamps, hflags, hctl, hrc, ha0, ha1, hu.subs, hu.lane⟩

/-! ### Entries (R68, R95 – R98, R102, R103) -/

/-- Stall b has the number of stall a, and what a boundary asks of it: halts, single steps and park reasons. -/
structure KeepsHalt (a b : Stall) : Prop where
  num      : b.num = a.num
  haltPend : b.haltPend = a.haltPend
  stepping : b.stepping = a.stepping
  reasons  : b.reasons = a.reasons

theorem Same.keepsHalt {a b : Stall} (h : Same a b) : KeepsHalt a b := ⟨h.num, h.haltPend, h.stepping, h.reasons⟩

theorem KeepsHalt.pastBreak {a b : Stall} (h : KeepsHalt a b) : KeepsHalt a b.pastBreak := ⟨h.num, h.haltPend, h.stepping, h.reasons⟩

theorem setInsv_keepsHalt {a b : Stall} (h : KeepsHalt a b) (l : Nat) : KeepsHalt a (setInsv b l) :=
  ⟨h.num, h.haltPend, h.stepping, h.reasons⟩

theorem setEcause_keepsHalt {a b : Stall} (h : KeepsHalt a b) (c : Cause) : KeepsHalt a (setEcause b c) :=
  ⟨h.num, h.haltPend, h.stepping, h.reasons⟩

theorem enterLine_keepsHalt (st : Stall) (l : Nat) : KeepsHalt st (enterLine st l) :=
  setInsv_keepsHalt enter_same.keepsHalt l

theorem enterIllegal_keepsHalt (st : Stall) (c : Cause) : KeepsHalt st (enterIllegal st c) :=
  setEcause_keepsHalt enter_same.keepsHalt c

theorem enterDivZero_keepsHalt (st : Stall) : KeepsHalt st (enterDivZero st) := enter_same.keepsHalt

/-- An entry in whose way nothing stands takes effect: its frame enters the store buffer, and the stall goes on. -/
theorem beginEntry_enters {s : State} {k slot : Nat} {st : Stall} (hl : s.live k = some (st, slot)) (hg : GoesOn s k st)
    (hp : permitted s st = true) (ha : agentsClear st (st.tick + 6) = true)
    (hf : ((frameWrites st 0 0 0).any fun p => rangeFaulted st p.1 p.2.length) = false)
    (hh : holdWrites st (st.tick + 6) (frameWrites st 0 0 0) = .none) {f : Stall → Stall} (hk : KeepsHalt st (f st)) :
    beginEntry s slot st f = (s.bufferFrame slot st).setStall (f st).pastBreak := by
  have hn : (f st).pastBreak.num = k := hk.num.trans (State.stall?_num (State.live_stall hl))
  unfold beginEntry
  rw [if_neg (by simp [hp]), if_neg (by simp [ha]), if_neg (by simp [hf]), hh]
  exact arrive_goesOn (hg.buffer _ _ _ _ _) hn hk.haltPend hk.stepping hk.reasons _ _

/-- Settles O23: each entry finds its own condition met, and the frame translates and finds room. -/
theorem entriesComplete : Obligations.EntriesComplete := by
  unfold Obligations.EntriesComplete
  intro s k slot st hl hg he hp ha hf hh b
  have hbegin {f : Stall → Stall} (hk : KeepsHalt st (f st)) := beginEntry_enters hl hg hp ha hf hh hk
  refine ⟨fun l ht hdz hi => ?_, fun hdz => ?_, fun c hm hc => ?_⟩
  · have hstep : stepInterrupt k s = beginEntry s slot st fun x => enterLine x (entryLine s x l) := by
      simp [stepInterrupt, hl, ht, he, hdz, hi]
    exact congrArg Host.Outcome.next (hstep.trans (hbegin (enterLine_keepsHalt st _)))
  · have hstep : stepDivZero k s = beginEntry s slot st enterDivZero := by simp [stepDivZero, hl, he, hdz]
    exact congrArg Host.Outcome.next (hstep.trans (hbegin (enterDivZero_keepsHalt st)))
  · have hstep : stepIllegal k s = beginEntry s slot st fun x => enterIllegal x c := by simp [stepIllegal, hl, hm, he, hc]
    exact congrArg Host.Outcome.next (hstep.trans (hbegin (enterIllegal_keepsHalt st c)))

/-- The cell of P15 after an entry whose frame lies above the pointer cells (R96). -/
theorem enter_p15 (st : Stall) (e vec ret rep : Nat) (hp : st.pend = []) (hc : st.src.collDue = []) (hm : st.ras.ahead = [])
    (hlow : 0x80 ≤ frameAddr st) (hhigh : frameAddr st + 12 ≤ 0x20800) :
    ofLE (Memory.getBytes (enter st e vec ret rep).mem 0x7C 3) = frameAddr st := by
  have hlt := frameAddr_lt st
  have hcell : Memory.getBytes (enter st e vec ret rep).mem 0x7C 3 = leBytes 3 (frameAddr st) := by
    rw [getBytes_eq _ _ 3 0x7C 0x7C fun i _ => enter_mem st e vec ret rep hp hc hm hhigh _,
      getBytes_eq _ (Memory.setBytes st.mem 0x7C (cellBytes (frameAddr st))) 3 0x7C 0x7C fun i hi =>
        Memory.get_setBytes_outside _ _ _ _ (.inl (by omega))]
    have h := congrArg (List.take 3) (getBytes_set st.mem (cellBytes (frameAddr st)) 0x7C)
    rwa [cellBytes_length] at h
  rw [hcell, ofLE_leBytes]
  omega

/-- The frame after an entry (R98). -/
theorem enter_frame (st : Stall) (e vec ret rep : Nat) (hp : st.pend = []) (hc : st.src.collDue = []) (hm : st.ras.ahead = [])
    (hhigh : frameAddr st + 12 ≤ 0x20800) :
    Memory.getBytes (enter st e vec ret rep).mem (frameAddr st) 12 = frameBytes st vec ret rep := by
  have h := getBytes_set (Memory.setBytes st.mem 0x7C (cellBytes (frameAddr st))) (frameBytes st vec ret rep) (frameAddr st)
  rw [frameBytes_length] at h
  rw [← h]
  exact getBytes_eq _ _ _ _ _ fun i _ => enter_mem st e vec ret rep hp hc hm hhigh _

/-- An entry touches no byte but those of P15 and of its frame. -/
theorem enter_mem_apart (st : Stall) (e vec ret rep : Nat) (hp : st.pend = []) (hc : st.src.collDue = []) (hm : st.ras.ahead = [])
    (hhigh : frameAddr st + 12 ≤ 0x20800) {a : Nat} (h1 : ¬(0x7C ≤ a ∧ a < 0x80))
    (h2 : ¬(frameAddr st ≤ a ∧ a < frameAddr st + 12)) :
    Memory.get (enter st e vec ret rep).mem a = Memory.get st.mem a := by
  rw [enter_mem st e vec ret rep hp hc hm hhigh, Memory.get_setBytes_outside _ _ _ _ (by rw [frameBytes_length]; omega),
    Memory.get_setBytes_outside _ _ _ _ (by rw [cellBytes_length]; omega)]

/-- A line's entry sets its bit of INSV. -/
theorem enterLine_insv (st : Stall) {l : Nat} (hl : l < 8) : bitAt (Memory.get (enterLine st l).mem aINSV).toNat l = true := by
  unfold enterLine setInsv
  dsimp only
  rw [Memory.get_set, if_pos rfl, bitAt_setBit _ hl]
  simp

/-- An ILLEGAL entry writes its cause to ECAUSE. -/
theorem enterIllegal_ecause (st : Stall) (c : Cause) :
    Memory.get (enterIllegal st c).mem aECAUSE = BitVec.ofNat 8 (causeCode c) := by
  unfold enterIllegal setEcause
  dsimp only
  rw [Memory.get_set, if_pos rfl]

/-- The clock and the processor after an entry (R96, R98). -/
theorem enter_registers (st : Stall) (e vec ret rep : Nat) :
    let t := enter st e vec ret rep
    t.tick = e + 6 ∧ t.cpu.pc = BitVec.ofNat 22 (4 * vec) ∧ t.cpu.rep = 0 ∧ t.cpu.lock = 0 ∧ t.cpu.flags = st.cpu.flags ∧
      t.cpu.ctl = st.cpu.ctl ∧ t.cpu.rc = st.cpu.rc ∧ t.cpu.a0 = st.cpu.a0 ∧ t.cpu.a1 = st.cpu.a1 := by
  dsimp only
  rw [enter_cpu, enter_tick]
  exact ⟨rfl, rfl, rfl, rfl, rfl, rfl, rfl, rfl, rfl⟩

/-- Settles O24: the clock and the processor of an entry, the bytes it writes, and what each kind of entry adds. -/
theorem entryEffects : Obligations.EntryEffects := by
  unfold Obligations.EntryEffects
  intro st e vec ret rep
  dsimp only
  refine ⟨enter_registers st e vec ret rep, fun hp hc hm hlow hhigh => ⟨enter_frame st e vec ret rep hp hc hm hhigh,
    enter_p15 st e vec ret rep hp hc hm hlow hhigh, fun a h1 h2 => enter_mem_apart st e vec ret rep hp hc hm hhigh h1 h2⟩,
    fun l hl => ⟨?_, enterLine_insv st hl⟩, fun c => ⟨?_, enterIllegal_ecause st c⟩, ?_⟩
  · rw [enterLine_cpu]; rfl
  · rw [enterIllegal_cpu]; rfl
  · rw [enterDivZero_cpu]; rfl

/-! ### Idle steps (R77, R78, R152) -/

/-- A tick above t that bounds the list from above bounds the least one too. -/
theorem leastAbove_bounds (t : Nat) (l : List Nat) : ∀ b, t < b → t < leastAbove t b l ∧ leastAbove t b l ≤ b := by
  unfold leastAbove
  induction l with
  | nil => intro b hb; exact ⟨hb, Nat.le_refl b⟩
  | cons x l ih =>
    intro b hb
    rw [List.foldl_cons]
    split
    · next h =>
      obtain ⟨h1, h2⟩ := ih x h.1
      exact ⟨h1, h2.trans h.2.le⟩
    · exact ih b hb

/-- An idle step goes forward, and not past the line boundary (R152). -/
theorem idleEnd_bounds (st : Stall) : st.tick < idleEnd st ∧ idleEnd st ≤ (st.tick / tpl st.cls + 1) * tpl st.cls := by
  have htpl : 0 < tpl st.cls := by cases st.cls <;> decide
  have hline : st.tick < (st.tick / tpl st.cls + 1) * tpl st.cls := by
    rw [Nat.mul_comm]
    exact Nat.lt_mul_div_succ _ htpl
  unfold idleEnd
  extract_lets t line line' o
  have hline' : t < line' ∧ line' ≤ line := by
    unfold line'
    split
    · exact ⟨lt_min hline (lt_max_of_lt_left (Nat.lt_succ_self t)), min_le_left _ _⟩
    · exact ⟨hline, le_rfl⟩
  obtain ⟨h1, h2⟩ := leastAbove_bounds t ([vblTick st.cls st.src.vblFrame] ++ o ((lmPending st).map (·.1)) ++ o (sndPending st) ++
    o (tmrPending st 0) ++ o (tmrPending st 1) ++ st.src.collDue ++ o st.replayTo ++ st.pend.map (fun p => p.tick + 1) ++
    (upto 8).flatMap fun i => o (subNext st i)) line' hline'.1
  exact ⟨h1, h2.trans hline'.2⟩

/-- Settles O25: nothing stands in the way of the step, and its end is the least tick above TICK up to the line boundary. -/
theorem idleStepCompletes : Obligations.IdleStepCompletes := by
  unfold Obligations.IdleStepCompletes
  intro s k slot st hl hg hrun hi hb ha hdz hstuck hp x
  obtain ⟨hlt, hle⟩ := idleEnd_bounds st
  have hsame := idledTo_same st (idleEnd st)
  refine ⟨congrArg Host.Outcome.next ?_, hlt, hle, idledTo_tick st _⟩
  unfold stepIdle
  rw [hl]
  dsimp only
  rw [if_pos (by simp [hrun, hi, hb, hdz]), if_neg (by simp [hp]), if_neg (by simp [ha]), if_neg (by simp [hstuck])]
  split
  · rfl
  · have hn : x.woken.num = k := hsame.num.trans (State.stall?_num (State.live_stall hl))
    exact arrive_goesOn hg hn hsame.haltPend hsame.stepping hsame.reasons _ _

end Sys2Proof.Machine
end

section
/-! SUPPORT. What the arithmetic of an instruction computes: sums and differences (O12), products and quotients (O15), accumulators
(O16), shifts and rotates bit by bit (of O14). -/
namespace Sys2Proof.Machine

/-! ### The signed reading (R52, R65) -/

theorem two_pow_pred {w : Nat} (hw : 0 < w) : 2 ^ w = 2 * 2 ^ (w - 1) := by
  rw [← Nat.pow_succ', Nat.succ_eq_add_one, Nat.sub_add_cancel hw]

/-- The signed reading is the balanced residue. -/
theorem toSigned_eq_bmod {w : Nat} (hw : 0 < w) (x : Nat) : toSigned w x = (x : Int).bmod (2 ^ w) := by
  have h2 := two_pow_pred hw
  have hhalf : ((2 ^ w : Nat) + 1 : Int) / 2 = (2 ^ (w - 1) : Nat) := by omega
  unfold toSigned
  rw [Int.bmod_def, hhalf]
  dsimp only
  rw [← Int.natCast_mod]
  simp only [Nat.cast_lt]

theorem toSigned_of_lt {w x : Nat} (hx : x < 2 ^ w) :
    toSigned w x = if x < 2 ^ (w - 1) then (x : Int) else (x : Int) - (2 ^ w : Nat) := by
  unfold toSigned
  rw [Nat.mod_eq_of_lt hx]

theorem ofSigned_cast (w : Nat) (i : Int) : ((ofSigned w i : Nat) : Int) = i % (2 ^ w : Nat) := by
  have hpos : ((2 ^ w : Nat) : Int) ≠ 0 := by have := Nat.two_pow_pos w; omega
  exact Int.toNat_of_nonneg (Int.emod_nonneg _ hpos)

theorem ofSigned_lt (w : Nat) (i : Int) : ofSigned w i < 2 ^ w := by
  have h := Int.emod_lt_of_pos i (b := (2 ^ w : Nat)) (by have := Nat.two_pow_pos w; omega)
  have hc := ofSigned_cast w i
  omega

/-- The number that the low bits of an integer spell, read as signed, is its balanced residue. -/
theorem toSigned_ofSigned {w : Nat} (hw : 0 < w) (i : Int) : toSigned w (ofSigned w i) = i.bmod (2 ^ w) := by
  rw [toSigned_eq_bmod hw, ofSigned_cast, Int.emod_bmod]

/-- An integer within the signed range is read back. -/
theorem toSigned_ofSigned_of_fits {w : Nat} (hw : 0 < w) {i : Int} (hlo : -(2 ^ (w - 1) : Nat) ≤ i) (hhi : i < (2 ^ (w - 1) : Nat)) :
    toSigned w (ofSigned w i) = i := by
  have h2 := two_pow_pred hw
  rw [toSigned_ofSigned hw]
  exact Int.bmod_eq_of_le (by omega) (by omega)

/-- A number that agrees with an integer in its low bits is read as that integer but for signed overflow. -/
theorem toSigned_ne_iff {w r : Nat} (hw : 0 < w) {i : Int} (hr : (r : Int).bmod (2 ^ w) = i.bmod (2 ^ w)) :
    decide (toSigned w r ≠ i) = (decide (i < -(2 ^ (w - 1) : Nat)) || decide ((2 ^ (w - 1) : Nat) ≤ i)) := by
  have h2 := two_pow_pred hw
  have hpos := Nat.two_pow_pos w
  rw [toSigned_eq_bmod hw, hr, ← Bool.decide_or, decide_eq_decide]
  have hlo := Int.le_bmod (x := i) hpos
  have hhi := Int.bmod_lt (x := i) hpos
  constructor
  · intro hne
    by_contra hin
    exact hne (Int.bmod_eq_of_le (by omega) (by omega))
  · intro hout heq
    omega

/-! ### N and Z (R65) -/

/-- The top bit of a number of w bits. -/
theorem bitAt_top {w x : Nat} (hw : 0 < w) (hx : x < 2 ^ w) : bitAt x (w - 1) = decide (2 ^ (w - 1) ≤ x) := by
  have h2 := two_pow_pred hw
  rw [bitAt_eq_testBit, Nat.testBit_eq_decide_div_mod_eq, decide_eq_decide]
  rcases Nat.lt_or_ge x (2 ^ (w - 1)) with h | h
  · simp [Nat.div_eq_of_lt h, h]
  · have hd : x / 2 ^ (w - 1) = 1 := Nat.div_eq_of_lt_le (by omega) (by omega)
    simp [hd, h]

/-- A result of w bits whose N and Z are its own. -/
def Alu.SetsNZ (w : Nat) (a : Alu) : Prop :=
  a.r < 2 ^ w ∧ a.n = some (decide (2 ^ (w - 1) ≤ a.r)) ∧ a.z = some (decide (a.r = 0))

theorem Alu.setsNZ {w : Nat} (hw : 0 < w) {a : Alu} (hr : a.r < 2 ^ w) (hn : a.n = nOf w a.r) (hz : a.z = zOf w a.r) : a.SetsNZ w := by
  refine ⟨hr, hn.trans (congrArg some (bitAt_top hw hr)), hz.trans ?_⟩
  rw [zOf, Nat.mod_eq_of_lt hr, beq_eq_decide]

/-- A difference taken modulo 2^w. -/
theorem aluSub_r {w d s c : Nat} (hs : s < 2 ^ w) (hc : c ≤ 1) : ((aluSub w d s c).r : Int) = ((d : Int) - s - c) % (2 ^ w : Nat) := by
  have hpow : 2 ^ (w + 1) = 2 * 2 ^ w := Nat.pow_succ'
  have hcast : ((d + 2 ^ (w + 1) - s - c : Nat) : Int) = ((d : Int) - s - c) + (2 ^ w : Nat) * 2 := by omega
  show (((d + 2 ^ (w + 1) - s - c) % 2 ^ w : Nat) : Int) = _
  rw [Int.natCast_mod, hcast, Int.add_mul_emod_self_left]

section
variable {w d s c : Nat} (hw : 0 < w)
include hw

theorem aluAdd_setsNZ : (aluAdd w d s c).SetsNZ w := Alu.setsNZ hw (Nat.mod_lt _ (Nat.two_pow_pos w)) rfl rfl

theorem aluSub_setsNZ : (aluSub w d s c).SetsNZ w := Alu.setsNZ hw (Nat.mod_lt _ (Nat.two_pow_pos w)) rfl rfl

theorem aluLogic_setsNZ : (aluLogic w d).SetsNZ w := Alu.setsNZ hw (Nat.mod_lt _ (Nat.two_pow_pos w)) rfl rfl

/-- V of a sum is its signed overflow. -/
theorem aluAdd_v : (aluAdd w d s c).v = some (decide (toSigned w d + toSigned w s + c < -(2 ^ (w - 1) : Nat)) ||
    decide ((2 ^ (w - 1) : Nat) ≤ toSigned w d + toSigned w s + c)) := by
  refine congrArg some (toSigned_ne_iff hw ?_)
  rw [toSigned_eq_bmod hw, toSigned_eq_bmod hw, Int.natCast_mod, Int.emod_bmod, Nat.cast_add, Nat.cast_add, add_assoc, add_assoc,
    Int.bmod_add_bmod, Int.add_bmod_eq_add_bmod_left _ Int.bmod_add_bmod]

/-- V of a difference is its signed overflow. -/
theorem aluSub_v (hs : s < 2 ^ w) (hc : c ≤ 1) : (aluSub w d s c).v =
    some (decide (toSigned w d - toSigned w s - c < -(2 ^ (w - 1) : Nat)) ||
      decide ((2 ^ (w - 1) : Nat) ≤ toSigned w d - toSigned w s - c)) := by
  refine congrArg some (toSigned_ne_iff hw ?_)
  have hr : (((d + 2 ^ (w + 1) - s - c) % 2 ^ w : Nat) : Int) = _ := aluSub_r (d := d) hs hc
  rw [toSigned_eq_bmod hw, toSigned_eq_bmod hw, hr, Int.emod_bmod, sub_sub, sub_sub, Int.bmod_sub_bmod]
  rw [← Int.sub_bmod_bmod, ← Int.sub_bmod_bmod (y := _ + _), Int.bmod_add_bmod]

end

theorem toSigned_zero {w : Nat} (hw : 0 < w) : toSigned w 0 = 0 := by
  rw [toSigned_eq_bmod hw, Nat.cast_zero, Int.zero_bmod]

theorem toSigned_one {w : Nat} (hw : 2 ≤ w) : toSigned w 1 = 1 := by
  have h4 : 2 ^ 2 ≤ 2 ^ w := Nat.pow_le_pow_right (by decide) hw
  rw [toSigned_eq_bmod (by omega), Nat.cast_one, Int.one_bmod (by omega)]

section
variable {w d : Nat} (hw : 2 ≤ w) (hd : d < 2 ^ w)
include hw hd

/-- INC overflows on the greatest value alone. -/
theorem aluInc_v : (aluInc w d).v = some (decide (d = 2 ^ (w - 1) - 1)) := by
  have h2 := two_pow_pred (w := w) (by omega)
  have hv : (aluInc w d).v = _ := aluAdd_v (w := w) (d := d) (s := 1) (c := 0) (by omega)
  rw [hv, toSigned_one hw, toSigned_of_lt hd, ← Bool.decide_or]
  refine congrArg some (decide_eq_decide.2 ?_)
  split <;> omega

/-- DEC overflows on the most negative value alone. -/
theorem aluDec_v : (aluDec w d).v = some (decide (d = 2 ^ (w - 1))) := by
  have h2 := two_pow_pred (w := w) (by omega)
  have hv : (aluDec w d).v = _ := aluSub_v (w := w) (d := d) (s := 1) (c := 0) (by omega) (by omega) (by omega)
  rw [hv, toSigned_one hw, toSigned_of_lt hd, ← Bool.decide_or]
  refine congrArg some (decide_eq_decide.2 ?_)
  split <;> omega

/-- NEG overflows on the most negative value alone. -/
theorem aluNeg_v : (aluNeg w d).v = some (decide (d = 2 ^ (w - 1))) := by
  have h2 := two_pow_pred (w := w) (by omega)
  have hv : (aluNeg w d).v = _ := aluSub_v (w := w) (d := 0) (s := d) (c := 0) (by omega) hd (by omega)
  rw [hv, toSigned_zero (by omega), toSigned_of_lt hd, ← Bool.decide_or]
  refine congrArg some (decide_eq_decide.2 ?_)
  split <;> omega

omit hw hd in
theorem aluDec_r : (aluDec w d).r = (d + (2 ^ w - 1)) % 2 ^ w := by
  have hpow : d + 2 ^ (w + 1) - 1 - 0 = d + (2 ^ w - 1) + 2 ^ w := by have := Nat.two_pow_pos w; rw [Nat.pow_succ']; omega
  show (d + 2 ^ (w + 1) - 1 - 0) % 2 ^ w = _
  rw [hpow, Nat.add_mod_right]

omit hw in
theorem aluNeg_r : (aluNeg w d).r = (2 ^ w - d) % 2 ^ w := by
  have hpow : 0 + 2 ^ (w + 1) - d - 0 = 2 ^ w - d + 2 ^ w := by rw [Nat.pow_succ']; omega
  show (0 + 2 ^ (w + 1) - d - 0) % 2 ^ w = _
  rw [hpow, Nat.add_mod_right]

/-- ABS negates a negative number, and leaves the most negative one. -/
theorem aluAbs_r : (aluAbs w d).r = if 2 ^ (w - 1) ≤ d then 2 ^ w - d else d := by
  have h2 := two_pow_pred (w := w) (by omega)
  have hr : (aluAbs w d).r = if bitAt d (w - 1) then (2 ^ w - d) % 2 ^ w else d := rfl
  rw [hr, bitAt_top (by omega) hd]
  simp only [decide_eq_true_eq]
  split
  · exact Nat.mod_eq_of_lt (by omega)
  · rfl

theorem aluAbs_setsNZ : (aluAbs w d).SetsNZ w := by
  have h2 := two_pow_pred (w := w) (by omega)
  refine Alu.setsNZ (by omega) ?_ rfl rfl
  rw [aluAbs_r hw hd]
  split <;> omega

end

theorem aluLogic_r {w d : Nat} (hd : d < 2 ^ w) : (aluLogic w d).r = d := Nat.mod_eq_of_lt hd

/-- Settles O12: every clause holds at every width of at least two bits. -/
theorem integerFlags : Obligations.IntegerFlags := by
  unfold Obligations.IntegerFlags
  intro w d s c hw hd hs hc out nz
  have hw : 2 ≤ w := by omega
  have hpos : 0 < w := by omega
  have h2 := two_pow_pred hpos
  refine ⟨⟨aluAdd_setsNZ hpos, rfl, rfl, aluAdd_v hpos⟩, ⟨aluSub_setsNZ hpos, aluSub_r hs hc, rfl, aluSub_v hpos hs hc⟩,
    ⟨aluAdd_setsNZ hpos, rfl, rfl, aluInc_v hw hd⟩, ⟨aluSub_setsNZ hpos, aluDec_r, rfl, aluDec_v hw hd⟩,
    ⟨aluSub_setsNZ hpos, aluNeg_r hd, ?_, aluNeg_v hw hd⟩, ⟨aluAbs_setsNZ hw hd, fun _ => ?_, rfl, ?_, fun heq => ?_⟩,
    aluLogic_setsNZ hpos, aluLogic_r hd, rfl, rfl⟩
  · exact congrArg some (decide_eq_decide.2 (by omega))
  · rw [aluAbs_r hw hd, toSigned_of_lt hd]
    rcases Nat.lt_or_ge d (2 ^ (w - 1)) with h | h
    · rw [if_neg (Nat.not_le.2 h), if_pos h, Int.natAbs_natCast]
    · rw [if_pos h, if_neg (Nat.not_lt.2 h)]
      omega
  · exact congrArg some (beq_eq_decide _ _)
  · rw [aluAbs_r hw hd, if_pos heq.ge]
    omega

/-! ### Products and quotients (R67, R68, R72) -/

theorem toSigned_bounds {w : Nat} (hw : 0 < w) (x : Nat) :
    -(2 ^ (w - 1) : Nat) ≤ toSigned w x ∧ toSigned w x < (2 ^ (w - 1) : Nat) := by
  have h2 := two_pow_pred hw
  have hpos := Nat.two_pow_pos w
  have hlo := Int.le_bmod (x := x) hpos
  have hhi := Int.bmod_lt (x := x) hpos
  rw [toSigned_eq_bmod hw]
  omega

/-- The product of two signed words. -/
theorem signedProduct_bounds (a b : Nat) :
    -1073741824 ≤ toSigned 16 a * toSigned 16 b ∧ toSigned 16 a * toSigned 16 b ≤ 1073741824 := by
  obtain ⟨ha1, ha2⟩ := toSigned_bounds (w := 16) (by decide) a
  obtain ⟨hb1, hb2⟩ := toSigned_bounds (w := 16) (by decide) b
  norm_num at ha1 ha2 hb1 hb2
  have hab : |toSigned 16 a * toSigned 16 b| ≤ 32768 * 32768 := by
    rw [abs_mul]
    exact mul_le_mul (abs_le.2 ⟨ha1, ha2.le⟩) (abs_le.2 ⟨hb1, hb2.le⟩) (abs_nonneg _) (by decide)
  exact abs_le.1 hab

theorem aluMul_signed (a b : Nat) : toSigned 32 (aluMul true a b).r = toSigned 16 a * toSigned 16 b := by
  obtain ⟨hlo, hhi⟩ := signedProduct_bounds a b
  exact toSigned_ofSigned_of_fits (w := 32) (by decide) (by norm_num; omega) (by norm_num; omega)

theorem aluMul_unsigned {a b : Nat} (ha : a < 65536) (hb : b < 65536) : (aluMul false a b).r = a * b :=
  Nat.mod_eq_of_lt (Nat.mul_lt_mul'' ha hb : a * b < 65536 * 65536)

theorem divide_zero (a : Nat) : divide false a 0 = (0xFFFF, a, false, true) ∧
    divide true a 0 = (if bitAt a 15 then 0x8000 else 0x7FFF, a, false, true) := ⟨rfl, rfl⟩

theorem divide_unsigned (a : Nat) {b : Nat} (hb : b ≠ 0) : divide false a b = (a / b, a % b, false, false) := by
  simp [divide, hb]

theorem divide_signed (a : Nat) {b : Nat} (hb : b ≠ 0) : divide true a b =
    (ofSigned 16 (Int.tdiv (toSigned 16 a) (toSigned 16 b)), ofSigned 16 (Int.tmod (toSigned 16 a) (toSigned 16 b)),
      decide (Int.tdiv (toSigned 16 a) (toSigned 16 b) = 32768), false) := by
  simp [divide, hb]

/-- The quotient of two signed words is a signed word, but for the most negative one divided by -1. -/
theorem tdiv_fits {x y : Int} (hx : -32768 ≤ x ∧ x < 32768) (h : ¬(x = -32768 ∧ y = -1)) :
    -32768 ≤ Int.tdiv x y ∧ Int.tdiv x y < 32768 := by
  have hq : (Int.tdiv x y).natAbs = x.natAbs / y.natAbs := Int.natAbs_tdiv x y
  have hle := Int.natAbs_tdiv_le_natAbs x y
  refine ⟨by omega, ?_⟩
  by_contra hbig
  have hx' : x = -32768 := by omega
  have hself : x.natAbs / y.natAbs = x.natAbs := by omega
  have hy : y.natAbs = 1 := (Nat.div_eq_self.1 hself).resolve_left (by omega)
  rcases Int.natAbs_eq y with hy' | hy'
  · rw [hy', hy, Nat.cast_one, Int.tdiv_one] at hbig
    omega
  · exact h ⟨hx', by omega⟩

/-- A quotient truncated towards zero, with a remainder of the dividend's sign (R68). -/
theorem tdiv_tmod_spec (x : Int) {y : Int} (hy : y ≠ 0) : x = Int.tdiv x y * y + Int.tmod x y ∧
    (Int.tmod x y).natAbs < y.natAbs ∧ (Int.tmod x y = 0 ∨ (0 < Int.tmod x y ↔ 0 < x)) := by
  refine ⟨?_, ?_, ?_⟩
  · exact (Int.tdiv_mul_add_tmod x y).symm
  · rw [Int.natAbs_tmod]; exact Nat.mod_lt _ (Int.natAbs_pos.2 hy)
  · have hs := Int.sign_tmod x y
    split at hs
    · exact .inl (Int.sign_eq_zero_iff_zero.1 hs)
    · exact .inr (by rw [← Int.sign_eq_one_iff_pos, hs, Int.sign_eq_one_iff_pos])

/-- Settles O15: the results fit their words, so that each is read back as it stands, but for the quotient that R70 names. -/
theorem productsAndQuotients : Obligations.ProductsAndQuotients := by
  unfold Obligations.ProductsAndQuotients
  intro a b ha hb
  obtain ⟨hz, hzs⟩ := divide_zero a
  refine ⟨⟨aluMul_signed a b, aluMul_unsigned ha hb⟩,
    fun h0 => ⟨_, _, divide_unsigned a h0, (Nat.div_add_mod' a b).symm, Nat.mod_lt _ (by omega)⟩,
    fun h0 hov => ?_, hz, ?_⟩
  · have hx := toSigned_bounds (w := 16) (by decide) a
    have hy := toSigned_bounds (w := 16) (by decide) b
    have hxa : toSigned 16 a = _ := toSigned_of_lt ha
    have hyb : toSigned 16 b = _ := toSigned_of_lt hb
    norm_num at hx hy hxa hyb
    have hy0 : toSigned 16 b ≠ 0 := by rw [hyb]; split <;> omega
    have hov' : ¬(toSigned 16 a = -32768 ∧ toSigned 16 b = -1) := by
      rw [hxa, hyb]; split <;> split <;> omega
    obtain ⟨heq, hlt, hsign⟩ := tdiv_tmod_spec (toSigned 16 a) hy0
    obtain ⟨hqlo, hqhi⟩ := tdiv_fits hx hov'
    have hq : toSigned 16 (ofSigned 16 (Int.tdiv (toSigned 16 a) (toSigned 16 b))) = _ :=
      toSigned_ofSigned_of_fits (w := 16) (by decide) (by norm_num; omega) (by norm_num; omega)
    have hm : toSigned 16 (ofSigned 16 (Int.tmod (toSigned 16 a) (toSigned 16 b))) = _ :=
      toSigned_ofSigned_of_fits (w := 16) (by decide) (by norm_num; omega) (by norm_num; omega)
    have hdiv := divide_signed a h0
    rw [decide_eq_false hqhi.ne] at hdiv
    refine ⟨_, _, hdiv, ?_⟩
    rw [hq, hm]
    exact ⟨heq, hlt, hsign⟩
  · have htop : bitAt a 15 = decide (32768 ≤ a) := bitAt_top (w := 16) (by decide) ha
    rw [hzs, htop]
    simp only [decide_eq_true_eq, ← Nat.not_lt, ite_not]

/-! ### Accumulators (R71, R72) -/

theorem place_signed {s : Nat} : toSigned 40 (place 0 s) = toSigned 16 s * 65536 ∧ toSigned 40 (place 1 s) = toSigned 16 s := by
  obtain ⟨hlo, hhi⟩ := toSigned_bounds (w := 16) (by decide) s
  norm_num at hlo hhi
  exact ⟨toSigned_ofSigned_of_fits (w := 40) (by decide) (by norm_num; omega) (by norm_num; omega),
    toSigned_ofSigned_of_fits (w := 40) (by decide) (by norm_num; omega) (by norm_num; omega)⟩

theorem prod_signed (a b : Nat) : toSigned 40 (prod false a b) = toSigned 16 a * toSigned 16 b ∧
    toSigned 40 (prod true a b) = 2 * (toSigned 16 a * toSigned 16 b) := by
  obtain ⟨hlo, hhi⟩ := signedProduct_bounds a b
  constructor
  · have h : prod false a b = ofSigned 40 (toSigned 16 a * toSigned 16 b) := congrArg (ofSigned 40) (mul_one _)
    rw [h]
    exact toSigned_ofSigned_of_fits (w := 40) (by decide) (by norm_num; omega) (by norm_num; omega)
  · have h : prod true a b = ofSigned 40 (2 * (toSigned 16 a * toSigned 16 b)) := congrArg (ofSigned 40) (mul_comm _ _)
    rw [h]
    exact toSigned_ofSigned_of_fits (w := 40) (by decide) (by norm_num; omega) (by norm_num; omega)

theorem accRes_setsNZ (i : Int) : (accRes i).SetsNZ 40 := Alu.setsNZ (by decide) (ofSigned_lt 40 i) rfl rfl

theorem accRes_v (i : Int) : (accRes i).v = some (decide (i < -(2 ^ 39 : Nat)) || decide ((2 ^ 39 : Nat) ≤ i)) := by
  refine congrArg some (toSigned_ne_iff (w := 40) (by decide) ?_)
  rw [ofSigned_cast, Int.emod_bmod]

/-- SHA by a negative count divides towards minus infinity. -/
theorem aluSha_right (a : Nat) {s : Nat} (hs : toSigned 6 s < 0) :
    toSigned 40 (aluSha a s).r = toSigned 40 a / (2 ^ (-toSigned 6 s).toNat : Nat) ∧ (aluSha a s).v = some false := by
  obtain ⟨hlo, hhi⟩ := toSigned_bounds (w := 40) (by decide) a
  have hpos : 0 < 2 ^ (-toSigned 6 s).toNat := Nat.two_pow_pos _
  have hsha : aluSha a s = { r := ofSigned 40 (toSigned 40 a / (2 ^ (-toSigned 6 s).toNat : Nat)), n := _, z := _, v := some false } :=
    if_neg (by omega)
  rw [hsha]
  generalize 2 ^ (-toSigned 6 s).toNat = n at hpos
  refine ⟨toSigned_ofSigned_of_fits (by decide) ?_ ?_, rfl⟩
  · rw [Int.le_ediv_iff_mul_le (by omega)]
    norm_num at hlo ⊢
    omega
  · refine Int.ediv_lt_of_lt_mul (by omega) ?_
    norm_num at hhi ⊢
    omega

/-- SHA by a count of 0 or more multiplies modulo 2^40; V tells that the result does not divide back. -/
theorem aluSha_left (a : Nat) {s : Nat} (hs : 0 ≤ toSigned 6 s) :
    (aluSha a s).r = a * 2 ^ (toSigned 6 s).toNat % 2 ^ 40 ∧
    ((aluSha a s).v = some false ↔ toSigned 40 (aluSha a s).r / (2 ^ (toSigned 6 s).toNat : Nat) = toSigned 40 a) := by
  simp [aluSha, hs]

/-- Rounding to a word: in range it divides, and out of range V is set and CTL.SAT saturates (R72). -/
theorem round16_spec (sat : Bool) (a : Nat) :
    let x := toSigned 40 ((a + 0x8000) % 2 ^ 40)
    (-(2 ^ 31 : Nat) ≤ x ∧ x < (2 ^ 31 : Nat) → toSigned 16 (round16 sat a).r = x / 65536 ∧ (round16 sat a).v = some false) ∧
    ((2 ^ 31 : Nat) ≤ x → (round16 sat a).v = some true ∧ (round16 true a).r = 0x7FFF) ∧
    (x < -(2 ^ 31 : Nat) → (round16 sat a).v = some true ∧ (round16 true a).r = 0x8000) := by
  have hlt : (a + 0x8000) % 2 ^ 40 < 2 ^ 40 := Nat.mod_lt _ (by decide)
  unfold round16
  generalize (a + 0x8000) % 2 ^ 40 = y at hlt
  have hx : toSigned 40 y = _ := toSigned_of_lt hlt
  have htop : field y 31 9 = y / 2 ^ 31 := by rw [field_eq]; omega
  have hmid : field y 16 16 = y / 65536 % 65536 := field_eq y 16 16
  have hmid' : toSigned 16 (y / 65536 % 65536) = _ := toSigned_of_lt (Nat.mod_lt _ (by decide))
  have hsign : bitAt y 39 = _ := bitAt_top (w := 40) (by decide) hlt
  have hfits : (y / 2 ^ 31 == 0 || y / 2 ^ 31 == 511) = decide (y < 2 ^ 31 ∨ 2 ^ 40 - 2 ^ 31 ≤ y) := by
    rw [beq_eq_decide, beq_eq_decide, ← Bool.decide_or, decide_eq_decide]
    omega
  simp only [htop, hmid, hsign, hfits, hx]
  refine ⟨fun h => ?_, fun h => ?_, fun h => ?_⟩
  · have hin : y < 2 ^ 31 ∨ 2 ^ 40 - 2 ^ 31 ≤ y := by split at h <;> omega
    simp only [hin, hmid', decide_true, Bool.true_or, if_true, Bool.not_true, and_true]
    split <;> split <;> omega
  · have hout : ¬(y < 2 ^ 31 ∨ 2 ^ 40 - 2 ^ 31 ≤ y) := by split at h <;> omega
    have hpos : ¬ 2 ^ (40 - 1) ≤ y := by split at h <;> omega
    simp only [hout, hpos, decide_false, Bool.not_true, Bool.or_false, Bool.not_false, Bool.false_eq_true, if_false, and_self]
  · have hout : ¬(y < 2 ^ 31 ∨ 2 ^ 40 - 2 ^ 31 ≤ y) := by split at h <;> omega
    have hneg : 2 ^ (40 - 1) ≤ y := by split at h <;> omega
    simp only [hout, hneg, decide_false, decide_true, Bool.not_true, Bool.or_false, Bool.not_false, Bool.false_eq_true, if_false, if_true,
      and_self]

/-- Settles O16: places and products fit 40 bits; a sum is taken modulo 2^40, a shift is a product or a quotient. -/
theorem accumulatorResults : Obligations.AccumulatorResults := by
  unfold Obligations.AccumulatorResults
  refine ⟨fun s _ => place_signed, fun a b _ _ => prod_signed a b, fun i => ?_, fun a s _ _ hs => aluSha_right a hs,
    fun a s _ _ hs => aluSha_left a hs, fun sat a _ => round16_spec sat a⟩
  obtain ⟨hr, hn, hz⟩ := accRes_setsNZ i
  exact ⟨hr, ofSigned_cast 40 i, accRes_v i, hn, hz, rfl⟩

/-! ### Shifts and rotates (R69) -/

/-- A result that is a logical one but for its C. -/
def Alu.Logical (w : Nat) (a : Alu) : Prop := ∃ x y, a = { aluLogic w x with c := y }

/-- The flags of a logical result. -/
theorem Alu.Logical.flags {w : Nat} {a : Alu} (h : a.Logical w) : a.r < 2 ^ w ∧ a.v = some false ∧ a.n = some (bitAt a.r (w - 1)) ∧
    a.z = some (decide (a.r = 0)) := by
  obtain ⟨x, y, rfl⟩ := h
  have hr : x % 2 ^ w < 2 ^ w := Nat.mod_lt _ (Nat.two_pow_pos w)
  refine ⟨hr, rfl, rfl, congrArg some ?_⟩
  show (x % 2 ^ w % 2 ^ w == 0) = _
  rw [Nat.mod_mod, beq_eq_decide]
  rfl

/-- The shifts and rotates (R69). -/
def shiftOps : List (Nat → Nat → Nat → Alu) := [aluShl, aluShr, aluSar, aluRol, aluRor]

theorem shiftOps_logical {f : Nat → Nat → Nat → Alu} (hf : f ∈ shiftOps) (w d c : Nat) : (f w d c).Logical w := by
  simp only [shiftOps, List.mem_cons, List.not_mem_nil, or_false] at hf
  rcases hf with rfl | rfl | rfl | rfl | rfl
  case inr.inr.inr.inl | inr.inr.inr.inr =>
    simp only [aluRol, aluRor]
    split <;> exact ⟨_, _, rfl⟩
  all_goals
    simp only [aluShl, aluShr, aluSar]
    split
    · exact ⟨_, _, rfl⟩
    · split <;> exact ⟨_, _, rfl⟩

theorem shiftOps_zero {f : Nat → Nat → Nat → Alu} (hf : f ∈ shiftOps) (w d : Nat) : f w d 0 = aluLogic w d := by
  simp only [shiftOps, List.mem_cons, List.not_mem_nil, or_false] at hf
  rcases hf with rfl | rfl | rfl | rfl | rfl <;> exact if_pos rfl

section
variable {w d c : Nat}

theorem aluShl_r : (aluShl w d c).r = d * 2 ^ c % 2 ^ w := by
  unfold aluShl
  split
  · next h => simp [h, aluLogic]
  · split
    · rfl
    · next h =>
      have hdvd : 2 ^ w ∣ d * 2 ^ c := Dvd.dvd.mul_left (Nat.pow_dvd_pow 2 (Nat.le_of_not_lt h)) d
      simp [aluLogic, Nat.mod_eq_zero_of_dvd hdvd]

theorem aluShl_bit {i : Nat} (hi : i < w) : bitAt (aluShl w d c).r i = (decide (c ≤ i) && bitAt d (i - c)) := by
  rw [aluShl_r]
  simp [bitAt_eq_testBit, Nat.testBit_mod_two_pow, Nat.testBit_mul_two_pow, hi]

theorem aluShl_c (hc : 0 < c) : (aluShl w d c).c = some (decide (c ≤ w) && bitAt d (w - c)) := by
  unfold aluShl
  rw [if_neg hc.ne']
  split
  · next h => simp [h.le]
  · next h =>
    by_cases he : c = w
    · simp [he]
    · simp [he, show ¬ c ≤ w by omega]

section
variable (hd : d < 2 ^ w)
include hd

theorem aluShr_r : (aluShr w d c).r = d / 2 ^ c := by
  have hlt : d / 2 ^ c < 2 ^ w := (Nat.div_le_self _ _).trans_lt hd
  unfold aluShr
  split
  · next h => rw [h, aluLogic_r hd, pow_zero, Nat.div_one]
  · split
    · exact aluLogic_r hlt
    · next h =>
      have hz : d / 2 ^ c = 0 := Nat.div_eq_of_lt (hd.trans_le (Nat.pow_le_pow_right (by decide) (Nat.le_of_not_lt h)))
      simp [aluLogic, hz]

theorem aluShr_bit {i : Nat} : bitAt (aluShr w d c).r i = (decide (i + c < w) && bitAt d (i + c)) := by
  rw [aluShr_r hd, bitAt_eq_testBit, bitAt_eq_testBit, Nat.testBit_div_two_pow]
  by_cases h : i + c < w
  · simp [h]
  · simp [h, Nat.testBit_lt_two_pow (hd.trans_le (Nat.pow_le_pow_right (by decide) (Nat.le_of_not_lt h)))]

omit hd in
theorem aluShr_c (hc : 0 < c) : (aluShr w d c).c = some (decide (c ≤ w) && bitAt d (c - 1)) := by
  unfold aluShr
  rw [if_neg hc.ne']
  split
  · next h => simp [h.le]
  · next h =>
    by_cases he : c = w
    · simp [he]
    · simp [he, show ¬ c ≤ w by omega]

omit hd in
/-- SAR by fewer bits than the width is the arithmetic right shift. -/
theorem ofSigned_ediv (hw : 0 < w) : ofSigned w (toSigned w d / (2 ^ c : Nat)) = ((BitVec.ofNat w d).sshiftRight c).toNat := by
  have hi : (BitVec.ofNat w d).toInt = toSigned w d := by rw [toSigned_eq_bmod hw, BitVec.toInt_ofNat']
  rw [BitVec.sshiftRight, BitVec.toNat_ofInt, hi, Int.shiftRight_eq_div_pow]
  rfl

omit hd in
theorem aluSar_bit (hc : 0 < c) {i : Nat} (hi : i < w) : bitAt (aluSar w d c).r i = bitAt d (min (i + c) (w - 1)) := by
  unfold aluSar
  rw [if_neg hc.ne']
  simp only [bitAt_eq_testBit]
  split
  · next h =>
    show (ofSigned w _ % 2 ^ w).testBit i = _
    rw [Nat.testBit_mod_two_pow, decide_eq_true hi, Bool.true_and, ofSigned_ediv (by omega), BitVec.testBit_toNat,
      BitVec.getLsbD_sshiftRight, decide_eq_false (Nat.not_le.2 hi), BitVec.msb_eq_getLsbD_last, BitVec.getLsbD_ofNat, BitVec.getLsbD_ofNat]
    split
    · next hin => simp [Nat.min_eq_left (show i + c ≤ w - 1 by omega), Nat.add_comm c i, show i + c < w by omega]
    · next hout => simp [Nat.min_eq_right (show w - 1 ≤ i + c by omega), show 0 < w by omega]
  · next h =>
    show (signFill w d % 2 ^ w).testBit i = _
    rw [Nat.min_eq_right (by omega), Nat.testBit_mod_two_pow, signFill, bitAt_eq_testBit]
    cases d.testBit (w - 1) <;> simp [hi, Nat.testBit_two_pow_sub_one]

omit hd in
theorem aluSar_c (hc : 0 < c) : (aluSar w d c).c = some (bitAt d (min (c - 1) (w - 1))) := by
  unfold aluSar
  rw [if_neg hc.ne']
  split
  · next h => rw [Nat.min_eq_left (by omega)]
  · next h => rw [Nat.min_eq_right (by omega)]

/-- The bits of a number rotated left by k. -/
theorem rotate_bit {k j : Nat} (hk : k ≤ w) (hj : j < w) :
    ((d * 2 ^ k + d / 2 ^ (w - k)) % 2 ^ w).testBit j = if j < k then d.testBit (j + (w - k)) else d.testBit (j - k) := by
  have hlt : d / 2 ^ (w - k) < 2 ^ k := by
    rw [Nat.div_lt_iff_lt_mul (Nat.two_pow_pos _), ← Nat.pow_add, Nat.add_sub_cancel' hk]
    exact hd
  rw [Nat.testBit_mod_two_pow, decide_eq_true hj, Bool.true_and, Nat.mul_comm, Nat.testBit_two_pow_mul_add _ hlt,
    Nat.testBit_div_two_pow]

theorem aluRol_bit (hc : 0 < c) {i : Nat} (hi : i < w) : bitAt (aluRol w d c).r ((i + c) % w) = bitAt d i := by
  have hw : 0 < w := by omega
  have hk : c % w < w := Nat.mod_lt _ hw
  have hadd : (i + c) % w = (i + c % w) % w := (Nat.add_mod_mod i c w).symm
  unfold aluRol
  rw [if_neg hc.ne', hadd]
  simp only [aluLogic, Nat.mod_mod, bitAt_eq_testBit]
  generalize c % w = k at hk
  rw [rotate_bit hd hk.le (Nat.mod_lt _ hw)]
  rcases Nat.lt_or_ge (i + k) w with h | h
  · rw [Nat.mod_eq_of_lt h, if_neg (by omega), Nat.add_sub_cancel]
  · rw [Nat.mod_eq_sub_mod h, Nat.mod_eq_of_lt (by omega), if_pos (by omega)]
    congr 1; omega

theorem aluRor_bit (hc : 0 < c) {i : Nat} (hi : i < w) : bitAt (aluRor w d c).r i = bitAt d ((i + c) % w) := by
  have hw : 0 < w := by omega
  have hk : c % w < w := Nat.mod_lt _ hw
  have hadd : (i + c) % w = (i + c % w) % w := (Nat.add_mod_mod i c w).symm
  unfold aluRor
  rw [if_neg hc.ne', hadd]
  simp only [aluLogic, Nat.mod_mod, bitAt_eq_testBit]
  generalize c % w = k at hk
  have hrot := rotate_bit hd (Nat.sub_le w k) hi
  rw [Nat.sub_sub_self hk.le, Nat.add_comm] at hrot
  rw [hrot]
  rcases Nat.lt_or_ge (i + k) w with h | h
  · rw [Nat.mod_eq_of_lt h, if_pos (by omega)]
  · rw [Nat.mod_eq_sub_mod h, Nat.mod_eq_of_lt (by omega), if_neg (by omega)]
    congr 1; omega

omit hd in
/-- C of a rotation is the end bit that the bit rotated last has come to. -/
theorem aluRol_c (hc : 0 < c) : (aluRol w d c).c = some (bitAt (aluRol w d c).r 0) := by
  unfold aluRol
  rw [if_neg hc.ne']
  simp only [aluLogic, Nat.mod_mod]

omit hd in
theorem aluRor_c (hc : 0 < c) : (aluRor w d c).c = some (bitAt (aluRor w d c).r (w - 1)) := by
  unfold aluRor
  rw [if_neg hc.ne']
  simp only [aluLogic, Nat.mod_mod]

end
end

end Sys2Proof.Machine
end

section
/-! SUPPORT. The opcodes form by form: conditions (O9), operations of one and two operands (O17, O18, O14, O13), the stack (O19), control
(O20), prefixes and waits (O21), products and accumulators (O22). -/
namespace Sys2Proof.Machine

/-! ### Conditions (R60) -/

theorem visH_eq (c : BeamClass) : visH c = if c = .L then 240 else 480 := by cases c <;> rfl

/-- Settles O9: a condition is a Boolean of the flags, or of the line. -/
theorem conditionCodes : Obligations.ConditionCodes := by
  unfold Obligations.ConditionCodes
  intro c st time i f cf v z n line e holds
  have hcond : holds = condHolds i.cond f (inVbl st.cls st.tick) := rfl
  refine ⟨fun h => ?_, fun h => ?_, fun h => ?_, fun h => ?_, fun h => ?_, fun h => ?_, fun h => ?_, fun h => ?_, fun h => ?_, fun h => ?_,
    fun h => ?_, fun h => ?_, fun h => ?_, fun h => ?_, fun h => ?_, fun h => ?_, runInst_true, fun h => congrArg Prod.fst (runInst_false h)⟩
  all_goals rw [hcond, h]
  iterate 9 rfl
  · show (!cf && !z) = true ↔ _
    simp
  · show (cf || z) = true ↔ _
    simp
  · show (n == v) = true ↔ _
    simp
  · show (n != v) = true ↔ _
    simp
  · show (!z && n == v) = true ↔ _
    simp
  · show (z || n != v) = true ↔ _
    simp
  · show decide (visH st.cls ≤ line) = true ↔ _
    rw [visH_eq, decide_eq_true_eq]

/-! ### What a result writes, and its flags (R58, R64) -/

/-- A result at an effective address is written there. -/
theorem Res.put_wrs (r : Res) {a : Option Nat} {x : Nat} (h : a = some x) (n v : Nat) :
    (r.put a n v).wrs = r.wrs ++ [(x, leBytes n v)] := by rw [h]; rfl

theorem Res.setAlu_flags (r : Res) (x : Alu) : (r.setAlu x).flags = withAlu r.flags x := rfl

/-- What is written at an effective address, where there is one. -/
def writesAt (a : Option Nat) (bs : Bytes) : List (Nat × Bytes) :=
  match a with
  | some a => [(a, bs)]
  | none => []

theorem Res.put_none_wrs (e : Env) (x : Alu) (a : Option Nat) (n v : Nat) :
    (((Res.none e).setAlu x).put a n v).wrs = writesAt a (leBytes n v) := by cases a <;> rfl

/-- A result sets the flags of `x`, FLAGS being `f` before, and writes it in `n` bytes at address `a`, where there is one. -/
def Res.Gives (f : Nat) (a : Option Nat) (n : Nat) (r : Res) (x : Alu) : Prop :=
  r.flags = withAlu f x ∧ r.wrs = writesAt a (leBytes n x.r)

theorem Res.put_gives {r : Res} {e : Env} {f : Nat} {a : Option Nat} {n : Nat} {x : Alu}
    (hr : r = ((Res.none e).setAlu x).put a n x.r) (hf : e.st.cpu.flags.toNat = f) : r.Gives f a n x := by
  refine ⟨?_, hr ▸ Res.put_none_wrs e x a n x.r⟩
  rw [hr, ← hf]
  simp only [Res.put_rest]
  rfl

/-- FLAGS with one flag replaced. -/
theorem bitAt_setFlag (f i : Nat) (v : Option Bool) (j : Nat) :
    bitAt (setFlag f i v) j = if i = j then v.getD (bitAt f j) else bitAt f j := by
  cases v with
  | none => simp [setFlag]
  | some b =>
    have hb : (b2n b).testBit 0 = b := by cases b <;> rfl
    simp only [setFlag, bitAt_eq_testBit, testBit_putField, Option.getD_some]
    by_cases h : i = j
    · rw [if_pos (by omega), if_pos h, h, Nat.sub_self, hb]
    · rw [if_neg (by omega), if_neg h]

/-- FLAGS with the flags of a result: those it gives, and the others as they were. -/
theorem bitAt_withAlu (f : Nat) (x : Alu) : bitAt (withAlu f x) 0 = x.c.getD (bitAt f 0) ∧
    bitAt (withAlu f x) 1 = x.v.getD (bitAt f 1) ∧ bitAt (withAlu f x) 2 = x.z.getD (bitAt f 2) ∧
    bitAt (withAlu f x) 3 = x.n.getD (bitAt f 3) := by
  simp [withAlu, bitAt_setFlag, flagC, flagV, flagZ, flagN]

/-- A pair of words at a destination and behind it (R67, R68). -/
theorem Res.putPair_wrs (r : Res) (h0 : r.wrs = []) {a : Option Nat} {x : Nat} (h : a = some x) (lo hi : Nat) :
    ((r.put a 2 lo).put (a.map fun q => (q + 2) % 2 ^ 24) 2 hi).wrs = [(x, leBytes 2 lo), ((x + 2) % 2 ^ 24, leBytes 2 hi)] := by
  rw [Res.put_wrs _ (congrArg (Option.map _) h), Res.put_wrs _ h, h0]
  rfl

/-- The flags that a result leaves. -/
theorem Res.Gives.bits {f : Nat} {a : Option Nat} {n : Nat} {r : Res} {x : Alu} (h : r.Gives f a n x) :
    bitAt r.flags 0 = x.c.getD (bitAt f 0) ∧ bitAt r.flags 1 = x.v.getD (bitAt f 1) ∧ bitAt r.flags 2 = x.z.getD (bitAt f 2) ∧
    bitAt r.flags 3 = x.n.getD (bitAt f 3) := by
  rw [h.1]
  exact bitAt_withAlu f x

/-! ### Operations of one and of two operands (R58, R64, R65, R69, R70) -/

/-- The operations d ← f d s of two operands, at width w with carry c (R65, R69). -/
def twoOpAlu (w c : Nat) : Op → Option (Nat → Nat → Alu)
  | .add => some fun d s => aluAdd w d s 0
  | .adc => some fun d s => aluAdd w d s c
  | .sub => some fun d s => aluSub w d s 0
  | .sbc => some fun d s => aluSub w d s c
  | .and => some fun d s => aluLogic w (d &&& s)
  | .or => some fun d s => aluLogic w (d ||| s)
  | .xor => some fun d s => aluLogic w (d ^^^ s)
  | .shl => some fun d s => aluShl w d (s % 32)
  | .shr => some fun d s => aluShr w d (s % 32)
  | .sar => some fun d s => aluSar w d (s % 32)
  | .rol => some fun d s => aluRol w d (s % 32)
  | .ror => some fun d s => aluRor w d (s % 32)
  | _ => none

/-- The operations d ← f d of one operand, at width w (R64, R65). -/
def oneOpAlu (w : Nat) : Op → Option (Nat → Alu)
  | .neg => some fun d => aluNeg w d
  | .inc => some fun d => aluInc w d
  | .dec => some fun d => aluDec w d
  | .abs => some fun d => aluAbs w d
  | .not => some fun d => aluLogic w (2 ^ w - 1 - d)
  | .swpb => some fun d => aluLogic 16 (d % 256 * 256 + d / 256)
  | .sext => some fun d => aluLogic 16 (ofSigned 16 (toSigned 8 d))
  | _ => none

section
variable (c : Code) (e0 : Env) (i : Inst) (next : Nat) {a : Option Nat} (ha : nthD (e0.eas (sizeOf_ i) i.opds).1 0 none = a)
include ha

/-- An operation of two operands reads the destination, then the source, and gives their result (R58). -/
theorem operate_twoOp {n : Nat} (hn : sizeOf_ i = n) {f : Nat → Nat → Alu}
    (h : twoOpAlu (8 * n) (b2n (bitAt e0.st.cpu.flags.toNat 0)) i.op = some f) :
    let d := (e0.eas (sizeOf_ i) i.opds).2.value n (nthD i.opds 0 ⟨0, 0, 0⟩) a
    let s := d.2.value n (nthD i.opds 1 ⟨0, 0, 0⟩) (nthD (e0.eas (sizeOf_ i) i.opds).1 1 none)
    (operate c e0 i next).Gives e0.st.cpu.flags.toNat a n (f d.1 s.1) := by
  subst hn ha
  intro d s
  have hst : s.2.st = e0.st := by simp [s, d]
  refine Res.put_gives (e := s.2) ?_ (by rw [hst])
  cases hop : i.op <;> simp only [twoOpAlu, hop, reduceCtorEq, Option.some.injEq] at h
  all_goals
    subst h
    simp only [operate, hop, Env.eas_st]
    rfl

/-- An operation of one operand reads the destination and gives its result. -/
theorem operate_oneOp {n : Nat} (hn : sizeOf_ i = n) {f : Nat → Alu} (h : oneOpAlu (8 * n) i.op = some f) :
    let d := (e0.eas (sizeOf_ i) i.opds).2.value n (nthD i.opds 0 ⟨0, 0, 0⟩) a
    (operate c e0 i next).Gives e0.st.cpu.flags.toNat a n (f d.1) := by
  subst hn ha
  intro d
  have hst : d.2.st = e0.st := by simp [d]
  refine Res.put_gives (e := d.2) ?_ (by rw [hst])
  cases hop : i.op <;> simp only [oneOpAlu, hop, reduceCtorEq, Option.some.injEq] at h
  all_goals
    subst h
    simp only [operate, hop]
    rfl

/-- MUL and MULU write their product as a pair of words (R67). -/
theorem operate_mul {x : Nat} (hx : a = some x) {signed : Bool} (hop : i.op = if signed then .mul else .mulu) :
    let d := (e0.eas (sizeOf_ i) i.opds).2.value 2 (nthD i.opds 0 ⟨0, 0, 0⟩) a
    let s := d.2.value 2 (nthD i.opds 1 ⟨0, 0, 0⟩) (nthD (e0.eas (sizeOf_ i) i.opds).1 1 none)
    let p := aluMul signed d.1 s.1
    (operate c e0 i next).wrs = [(x, leBytes 2 (p.r % 65536)), ((x + 2) % 2 ^ 24, leBytes 2 (p.r / 65536))] ∧
      (operate c e0 i next).flags = withAlu e0.st.cpu.flags.toNat p := by
  subst ha
  intro d s p
  cases signed
  all_goals
    simp only [operate, hop, if_true, if_false, Bool.false_eq_true, Res.put_rest, Res.setAlu_flags, Res.none_rest, Env.value_st, Env.eas_st]
    exact ⟨Res.putPair_wrs _ rfl hx _ _, rfl⟩

/-- DIV and DIVS write quotient and remainder as a pair of words (R67, R68). -/
theorem operate_div {x : Nat} (hx : a = some x) {signed : Bool} (hop : i.op = if signed then .divs else .div) :
    let d := (e0.eas (sizeOf_ i) i.opds).2.value 2 (nthD i.opds 0 ⟨0, 0, 0⟩) a
    let s := d.2.value 2 (nthD i.opds 1 ⟨0, 0, 0⟩) (nthD (e0.eas (sizeOf_ i) i.opds).1 1 none)
    ∀ q m v dz, divide signed d.1 s.1 = (q, m, v, dz) →
      (operate c e0 i next).wrs = [(x, leBytes 2 q), ((x + 2) % 2 ^ 24, leBytes 2 m)] ∧
      (operate c e0 i next).flags = setFlag (withAlu e0.st.cpu.flags.toNat (divFlags q v)) 4 (some dz) ∧
      (operate c e0 i next).dz = dz := by
  subst ha
  intro d s q m v dz hdiv
  simp only [d, s] at hdiv
  cases signed
  all_goals
    simp only [operate, hop, if_true, if_false, Bool.false_eq_true, reduceCtorEq, decide_true, decide_false, hdiv, Res.put_rest,
      Res.setAlu_flags, Res.none_rest, Env.value_st, Env.eas_st]
    exact ⟨Res.putPair_wrs _ rfl hx _ _, rfl, trivial⟩

end

/-- Settles O17: all but CMP, TST and XCH are operations d ← f d s. -/
theorem twoOperandForms : Obligations.TwoOperandForms := by
  unfold Obligations.TwoOperandForms
  intro c e0 i next n w eas e a d e1 s cin r gives
  have hst : (e1.value n (nthD i.opds 1 ⟨0, 0, 0⟩) (nthD eas 1 none)).2.st = e0.st := by simp [e1, e]
  have hgives (f : Nat → Nat → Alu) (h : twoOpAlu w cin i.op = some f) : gives (f d s) := by
    exact operate_twoOp c e0 i next rfl rfl h
  refine ⟨fun h => ?_, fun h => ?_, fun h => ?_, fun h => ?_, fun h => ?_, fun h => ?_, fun h => ?_, fun h => ?_, fun h => ?_, fun h => ?_,
    fun h => ?_, fun h => ?_, fun h => ?_, fun h => ?_, fun h => ?_⟩
  case refine_13 | refine_14 =>
    simp only [r, operate, h, twoOp, if_true, Bool.false_eq_true, if_false, Res.setAlu_flags]
    exact ⟨by rw [← hst]; rfl, rfl⟩
  case refine_15 =>
    simp only [r, operate, h, Res.put_rest, Res.none_rest, Env.value_st, Env.eas_st]
    refine ⟨trivial, fun x y hx hy => ?_⟩
    rw [Res.put_wrs _ hy, Res.put_wrs _ hx]
    rfl
  all_goals exact hgives _ (by rw [h]; rfl)

/-- Settles O18: all but CLR, MOV and BIT are operations d ← f d. -/
theorem oneOperandForms : Obligations.OneOperandForms := by
  unfold Obligations.OneOperandForms
  intro c e0 i next n w eas e a d e1 r gives
  have hst : e.st = e0.st := Env.eas_st _ _ _
  have hgives (f : Nat → Alu) (h : oneOpAlu w i.op = some f) : gives (f d) := operate_oneOp c e0 i next rfl rfl h
  refine ⟨fun h => ?_, fun h => ?_, fun h => ?_, fun h => ?_, fun h => ?_, fun h => ?_, fun h => ?_, fun h => ?_, fun h => ?_,
    fun h k hk => ?_⟩
  case refine_1 =>
    have hop : r = ((Res.none e).setAlu (aluLogic w 0)).put a n (aluLogic w 0).r := by
      simp only [r, operate, h]
      rfl
    exact Res.put_gives hop (by rw [hst])
  case refine_9 =>
    let v := e.value n (nthD i.opds 1 ⟨0, 0, 0⟩) (nthD eas 1 none)
    have hop : r = ((Res.none v.2).setAlu (aluLogic w v.1)).put a n (aluLogic w v.1).r := by
      simp only [r, operate, h]
      rfl
    exact Res.put_gives hop (by rw [Env.value_st, hst])
  case refine_10 =>
    subst hk
    have hform : i.form % 4 < 4 := Nat.mod_lt _ (by decide)
    simp only [r, operate, h]
    refine ⟨?_, fun x hx => ⟨fun h0 => ?_, fun h1 => ?_, fun h2 => ?_, fun h3 => ?_⟩⟩
    · have hz (b : Bool) : bitAt (setFlag e.st.cpu.flags.toNat flagZ (some b)) 2 = b := by rw [bitAt_setFlag]; rfl
      split <;> simp only [Res.put_rest] <;> exact hz _
    · rw [h0]
      rfl
    · rw [h1]
      exact Res.put_wrs _ hx _ _
    · rw [h2]
      exact Res.put_wrs _ hx _ _
    · rw [h3]
      exact Res.put_wrs _ hx _ _
  all_goals exact hgives _ (by rw [h]; rfl)

theorem shiftOps_twoOp {p : Op × (Nat → Nat → Nat → Alu)}
    (hp : p ∈ [(Op.shl, aluShl), (.shr, aluShr), (.sar, aluSar), (.rol, aluRol), (.ror, aluRor)]) (w c : Nat) :
    twoOpAlu w c p.1 = some fun d s => p.2 w d (s % 32) := by
  simp only [List.mem_cons, List.not_mem_nil, or_false] at hp
  rcases hp with rfl | rfl | rfl | rfl | rfl <;> rfl

/-- Settles O14: the shifts are operations of two operands, and each result is given bit by bit. -/
theorem shiftResults : Obligations.ShiftResults := by
  unfold Obligations.ShiftResults
  refine ⟨?_, ?_⟩
  · intro c e0 i next n eas e a d e1 s r p hp hop
    obtain ⟨hflags, hwrs⟩ := operate_twoOp c e0 i next rfl rfl (hop ▸ shiftOps_twoOp hp (8 * n) _)
    exact ⟨hflags, fun x hx => hwrs.trans (congrArg (writesAt · _) hx)⟩
  · intro w d c hw hd hc
    refine ⟨fun f hf => ?_, fun h0 => ⟨fun i hi => aluShl_bit hi, aluShl_c h0⟩, fun h0 => ⟨fun i _ => aluShr_bit hd, aluShr_c h0⟩,
      fun h0 => ⟨fun i hi => aluSar_bit h0 hi, aluSar_c h0⟩, fun h0 => ⟨fun i hi => aluRol_bit hd h0 hi, aluRol_c h0⟩,
      fun h0 => ⟨fun i hi => aluRor_bit hd h0 hi, aluRor_c h0⟩⟩
    obtain ⟨hlt, hv, hn, hz⟩ := (shiftOps_logical hf w d c).flags
    refine ⟨hlt, hv, hn, hz, fun h0 => ?_⟩
    rw [h0, shiftOps_zero hf]
    exact ⟨aluLogic_r hd, rfl⟩

/-- Settles O13: each clause is an operation form at the one value that it names. -/
theorem arithmeticEdges : Obligations.ArithmeticEdges := by
  unfold Obligations.ArithmeticEdges
  intro c e0 i next x eas e oa d e1 s r old fC fV fZ fN fDZ hn ha
  have hone {f : Nat → Alu} (h : oneOpAlu 16 i.op = some f) : r.Gives old (some x) 2 (f d) := operate_oneOp c e0 i next ha hn h
  refine ⟨fun hop hd => ?_, fun hop hd => ?_, fun hop hd => ?_, fun hop hd hs => ?_, fun hop hd => ?_, fun hop hd => ?_,
    fun hop hd hs => ?_⟩
  case refine_4 =>
    have hdiv : divide true d s = (0x8000, 0, true, false) := by rw [hd, hs]; decide
    obtain ⟨hwrs, hflags, -⟩ := operate_div c e0 i next ha rfl (signed := true) hop _ _ _ _ hdiv
    obtain ⟨-, hv, hz, hn⟩ := bitAt_withAlu old (divFlags 0x8000 true)
    have hbit (j : Nat) : bitAt r.flags j = _ := (congrArg (bitAt · j) hflags).trans (bitAt_setFlag _ 4 (some false) j)
    exact ⟨hwrs, (hbit 3).trans hn, (hbit 2).trans hz, (hbit 1).trans hv, hbit 4⟩
  case refine_7 =>
    have hmul : aluMul true d s = { r := 0x40000000, n := some false, z := some false, v := some false, c := some false } := by
      rw [hd, hs]; decide
    have h : r.wrs = [(x, leBytes 2 ((aluMul true d s).r % 65536)), ((x + 2) % 2 ^ 24, leBytes 2 ((aluMul true d s).r / 65536))] ∧
        r.flags = withAlu old (aluMul true d s) := operate_mul c e0 i next ha rfl (signed := true) hop
    rw [hmul] at h
    obtain ⟨hwrs, hflags⟩ := h
    obtain ⟨-, -, hz, hn⟩ := bitAt_withAlu old { r := 0x40000000, n := some false, z := some false, v := some false, c := some false }
    exact ⟨hwrs, (congrArg (bitAt · 3) hflags).trans hn, (congrArg (bitAt · 2) hflags).trans hz⟩
  all_goals
    have hg := hone (by rw [hop]; rfl)
    obtain ⟨hc, hv, hz, hn⟩ := hg.bits
    rw [hd] at hg hc hv hz hn
  · exact ⟨hg.2, hn, hz, hv, hc⟩
  · exact ⟨hg.2, hz, hv, hc⟩
  · exact ⟨hg.2, hn, hv⟩
  · exact ⟨hg.2, hn, hv, hc⟩
  · exact ⟨hg.2, hn, hv, hc⟩

/-! ### The stack, control and prefixes (R66, R74 – R79, R84, R88, R98, R99) -/

/-- Settles O19: P15 is read before the operands are formed (R66). -/
theorem stackOperations : Obligations.StackOperations := by
  unfold Obligations.StackOperations
  intro c e0 i next p eas e a oa r
  refine ⟨fun hop => ?_, fun hop => ?_, fun hop => ?_, fun hop => ?_, fun hop => ?_⟩
  all_goals simp only [r, operate, hop, Env.eas_st]
  · exact ⟨rfl, rfl⟩
  · exact ⟨rfl, fun x hx => Res.put_wrs _ hx 2 _⟩
  · exact ⟨rfl, rfl, rfl⟩
  · exact ⟨rfl, rfl, rfl⟩
  · exact ⟨rfl, rfl, rfl, rfl, rfl, rfl, rfl⟩

/-- Settles O21: each of these opcodes only records what it asks for. -/
theorem prefixesAndWaits : Obligations.PrefixesAndWaits := by
  unfold Obligations.PrefixesAndWaits
  intro c e0 i next eas e a oa r
  refine ⟨fun hop => ?_, fun hop => ?_, fun hop => ⟨fun hpos => ?_, fun hzero => ?_⟩, fun hop => ?_, fun hop => ?_, fun hop => ?_,
    fun hop => ?_⟩
  all_goals simp only [r, operate, hop]
  · rfl
  · rfl
  · rw [if_neg hpos.ne']
    exact ⟨rfl, rfl⟩
  · rw [if_pos hzero]
    exact ⟨rfl, rfl⟩
  · exact ⟨rfl, rfl⟩
  · exact ⟨rfl, rfl⟩
  · exact ⟨trivial, rfl⟩
  · exact ⟨trivial, rfl⟩

/-- Settles O20: the target of a branch is `relTarget`, that of JMP `farTarget`. -/
theorem controlTransfers : Obligations.ControlTransfers := by
  unfold Obligations.ControlTransfers
  intro c e0 i next eas e a oa ob r rc
  refine ⟨fun hop => ?_, fun hop hm => ?_, fun hop x hx => ?_, fun hop => ⟨?_, fun h0 => ?_, fun h1 => ?_, fun h2 => ?_⟩,
    fun hop => ⟨fun hf => ?_, fun hf => ?_⟩,
    fun hop => ⟨fun hf h0 => ?_, fun hf h1 => ?_, fun hf => ?_⟩⟩
  all_goals simp only [r, operate, hop, Env.eas_st]
  · exact ⟨rfl, rfl⟩
  · have hfar : farTarget e oa a = (farAddr oa % 2 ^ 22, e) := if_pos hm
    exact ⟨congrArg (fun t => some t.1) hfar, rfl⟩
  · exact ⟨Res.put_wrs _ hx 2 _, rfl⟩
  · split <;> rfl
  · rw [if_pos h0]
    simp only [Res.none_rest, Env.eas_st]
    exact ⟨h0, trivial⟩
  · have hone : e0.st.cpu.rc.toNat = 1 := h1
    simp only [hone]
    exact ⟨rfl, rfl⟩
  · have hnz : e0.st.cpu.rc.toNat ≠ 0 := by omega
    have hgo : e0.st.cpu.rc.toNat - 1 ≠ 0 := by omega
    rw [if_neg hnz, if_neg hgo]
    exact ⟨rfl, rfl⟩
  · rw [if_neg (by simp [hf])]
    exact ⟨rfl, rfl⟩
  · rw [if_pos hf]
    refine ⟨?_, fun x hx => Res.put_wrs _ hx 2 _⟩
    simp only [Res.put_rest, Res.none_rest, Env.eas_st]
    rfl
  · rw [if_pos hf, if_pos h0]
    simp only [Res.none_rest, Env.value_st, Env.eas_st]
    exact ⟨rfl, trivial⟩
  · rw [if_pos hf, if_neg (by omega)]
    simp only [Res.none_rest, Env.value_st, Env.eas_st]
    exact ⟨rfl, trivial⟩
  · rw [if_neg (by simp [hf])]
    exact fun x hx => Res.put_wrs _ hx 2 _

/-! ### Products and accumulators (R67, R68, R71, R72) -/

/-- The accumulator that the next instruction sees is that of the stall read through. -/
theorem Env.acc_congr {e e' : Env} (h : e.st = e'.st) (k : Nat) : e.acc k = e'.acc k := by
  unfold Env.acc
  rw [h]

/-- An accumulator result goes to the accumulator that form bit 2 names. -/
theorem Res.setAcc_acc (r : Res) (h0 : r.a0 = Option.none) (h1 : r.a1 = Option.none) (k v : Nat) :
    (if k = 0 then (r.setAcc k v).a0 else (r.setAcc k v).a1) = some v ∧
      (if k = 0 then (r.setAcc k v).a1 else (r.setAcc k v).a0) = Option.none ∧ (r.setAcc k v).wrs = r.wrs := by
  unfold Res.setAcc
  split
  · exact ⟨rfl, h1, rfl⟩
  · exact ⟨rfl, h0, rfl⟩

/-- What an accumulator operation gives, on the stall that the instruction starts with. -/
theorem accOp_acc {e e0 : Env} (hst : e.st = e0.st) (i : Inst) (f : Nat → Alu) :
    let k := b2n (bitAt i.form 2)
    let x := f (e0.acc k)
    (if k = 0 then (accOp e i f).a0 else (accOp e i f).a1) = some x.r ∧
      (if k = 0 then (accOp e i f).a1 else (accOp e i f).a0) = none ∧
      (accOp e i f).flags = withAlu e0.st.cpu.flags.toNat x ∧ (accOp e i f).wrs = [] := by
  intro k x
  have hx : f (e.acc k) = x := congrArg f (Env.acc_congr hst k)
  have hop : accOp e i f = ((Res.none e).setAlu x).setAcc k x.r := by rw [← hx]; rfl
  obtain ⟨hv, ho, hw⟩ := Res.setAcc_acc ((Res.none e).setAlu x) rfl rfl k x.r
  rw [hop, ← hst]
  exact ⟨hv, ho, by simp only [Res.setAcc_rest]; rfl, hw⟩

/-- Settles O22: pairs of words for products and quotients, and one accumulator for the rest. -/
theorem productForms : Obligations.ProductForms := by
  unfold Obligations.ProductForms
  intro c e0 i next eas e a oa d e1 s r f k z frac pair acc
  have hst : e.st = e0.st := Env.eas_st _ _ _
  have hst1 : e1.st = e0.st := (Env.value_st _ _ _ _).trans hst
  have hst2 : (e1.value 2 (nthD i.opds 1 ⟨0, 0, 0⟩) (nthD eas 1 none)).2.st = e0.st := (Env.value_st _ _ _ _).trans hst1
  have hz : e.acc k = z := Env.acc_congr hst k
  refine ⟨fun x hx => ⟨fun hop => ?_, fun hop => ?_, fun hop q m v dz hdiv => ?_, fun hop q m v dz hdiv => ?_, fun hop => ?_,
    fun hop => ?_⟩, fun hop => ?_, fun hop => ?_, fun hop => ?_, fun hop => ?_, fun hop => ?_, fun hop => ?_, fun hop => ?_⟩
  · exact operate_mul c e0 i next rfl hx (signed := true) hop
  · exact operate_mul c e0 i next rfl hx (signed := false) hop
  · exact operate_div c e0 i next rfl hx (signed := false) hop q m v dz hdiv
  · exact operate_div c e0 i next rfl hx (signed := true) hop q m v dz hdiv
  · simp only [r, operate, hop, Res.put_rest, Res.none_rest, Env.eas_st]
    rw [show (e0.eas (sizeOf_ i) i.opds).2.acc _ = z from hz]
    refine ⟨rfl, (Res.put_wrs _ hx 2 _).trans ?_⟩
    split
    · next h => rw [if_pos h]; rfl
    · next h => rw [if_neg (by omega), if_pos h]; rfl
    · next h0 h1 => rw [if_neg h0, if_neg h1]; rfl
  · simp only [r, operate, hop, Res.put_rest, Res.setAlu_flags, Res.setAlu_rest, Res.none_rest, Env.eas_st]
    rw [show (e0.eas (sizeOf_ i) i.opds).2.acc _ = z from hz]
    exact ⟨rfl, trivial, trivial, Res.put_wrs _ hx 2 _⟩
  · simp only [r, operate, hop]
    exact Res.setAcc_acc _ rfl rfl k _
  all_goals simp only [r, acc, operate, hop, Env.eas_st]
  · exact accOp_acc hst1 i _
  · exact accOp_acc hst1 i _
  · exact accOp_acc hst2 i _
  · exact accOp_acc hst2 i _
  · exact accOp_acc hst2 i _
  · exact accOp_acc hst1 i _

end Sys2Proof.Machine
end

section
/-! SUPPORT. Translation faults, their resolution, park timeout and page copies (O32). -/
namespace Sys2Proof.Machine

/-! ### Agent effects leave a waiting halt (R321, R524) -/

@[simp] theorem markDirty_dbgHalt (st : Stall) (k : Nat) : (markDirty st k).dbgHalt = st.dbgHalt := by
  unfold markDirty
  split
  · rfl
  · split <;> rfl

@[simp] theorem addStamps_dbgHalt (st : Stall) (xs : List Stamp) : (addStamps st xs).dbgHalt = st.dbgHalt := by
  unfold addStamps
  split <;> rfl

@[simp] theorem agentByte_dbgHalt (st : Stall) (e o a : Nat) (v : Byte) : (agentByte st e o a v).dbgHalt = st.dbgHalt := by
  unfold agentByte
  split
  · dsimp only
    split <;> exact markDirty_dbgHalt st _
  · rfl

@[simp] theorem agentBytes_dbgHalt (st : Stall) (e o a : Nat) (bs : Bytes) : (agentBytes st e o a bs).dbgHalt = st.dbgHalt := by
  induction bs generalizing st a with
  | nil => rfl
  | cons b bs ih => exact (ih _ _).trans (agentByte_dbgHalt _ _ _ _ _)

@[simp] theorem settleAgent_dbgHalt (st : Stall) (e a n : Nat) : (settleAgent st e a n).dbgHalt = st.dbgHalt := by
  unfold settleAgent
  split <;> rfl

@[simp] theorem agentWrite_dbgHalt (st : Stall) (src e o a : Nat) (bs : Bytes) : (agentWrite st src e o a bs).dbgHalt = st.dbgHalt := by
  simp [agentWrite]

@[simp] theorem assertLine_dbgHalt (st : Stall) (l a : Nat) : (assertLine st l a).dbgHalt = st.dbgHalt := by
  unfold assertLine
  split <;> rfl

@[simp] theorem makePost_dbgHalt (st : Stall) (i : Nat) (p : Post) (tick : Nat) (entered : Bool) :
    (makePost st i p tick entered).dbgHalt = st.dbgHalt := by
  unfold makePost
  extract_lets x z bs w
  have hw : w.dbgHalt = st.dbgHalt := (apply_ite Stall.dbgHalt _ _ z).trans (ite_self _)
  rw [apply_ite Stall.dbgHalt, assertLine_dbgHalt, ite_self, hw]

@[simp] theorem applyPend_dbgHalt (st : Stall) (p : Pend) : (applyPend st p).dbgHalt = st.dbgHalt := by
  unfold applyPend
  extract_lets x b y
  have hx : x.dbgHalt = st.dbgHalt := by
    unfold x
    split
    · rfl
    · split <;> simp
  have hy : y.dbgHalt = x.dbgHalt := by
    unfold y
    split <;> rfl
  split
  · rw [makePost_dbgHalt, hy, hx]
  · rw [hy, hx]

theorem applyDue_dbgHalt (l : List Pend) (st : Stall) : (applyDue l st).dbgHalt = st.dbgHalt := by
  induction l generalizing st with
  | nil => rfl
  | cons p r ih =>
    unfold applyDue
    split
    · exact (ih _).trans (applyPend_dbgHalt st p)
    · rfl

theorem flushBelow_dbgHalt (st : Stall) (t : Nat) : (flushBelow st t).dbgHalt = st.dbgHalt := by
  unfold flushBelow
  split
  · rfl
  · exact (applyDue_dbgHalt _ _).trans (applyDue_dbgHalt _ _)

/-! ### Faults of a core (R93, R157, R372, R381) -/

theorem mem_addPair (x : Nat × Nat) (l : List (Nat × Nat)) : x ∈ addPair x l := by
  unfold addPair
  split
  · next h => exact List.contains_iff_mem.1 h
  · exact List.mem_append_right _ (List.mem_singleton.2 rfl)

theorem mem_addNew (x : Nat) (l : List Nat) : x ∈ addNew x l := by
  unfold addNew
  split
  · next h => exact List.contains_iff_mem.1 h
  · exact List.mem_append_right _ (List.mem_singleton.2 rfl)

/-- The functions split with the host stand in the registers. -/
theorem State.split_of_regs {s t : State} (h : t.regs = s.regs) (bit : Nat) : t.split bit = s.split bit := by
  unfold State.split State.get
  rw [h]

/-- Without host-assisted paging a fault is not told. -/
theorem State.tellFault_own {t : State} (h : t.split spPAGING = false) (x : Stall) (kind index agent page : Nat) (known : Bool) :
    t.tellFault x kind index agent page known = t := by
  unfold State.tellFault
  rw [h]
  rfl

/-- A core's first fault on an entry that its next instruction selects is counted while the queue is full, and else recorded. -/
theorem translationFault_core {s : State} {k slot index entry page : Nat} {st : Stall} {write fetch : Bool}
    (hl : s.live k = some (st, slot)) (hkind : pteKind index ((lookupN index st.pt).getD entry) write fetch ≠ 0)
    (howned : (bitAt ((lookupN index st.pt).getD entry) 4 && (st.dirty.contains index || st.copying.contains index)) = false)
    (huses : s.usesEntry st index = true) (hsel : s.selects st slot 0 index write fetch = true) (hknown : s.faultKnown st index = false) :
    let e := (lookupN index st.pt).getD entry
    let kind := pteKind index e write fetch
    let m := s.mapEntry st index (some e)
    let x := ({ st with pt := insertN index e st.pt }.faulted kind index 0 page).inFaultWait s.time
    translationFault k index entry 0 write fetch page s =
      if 64 ≤ s.xfaults.length then m.inc MEM_XFAULT_CNT_FULL
      else
        (State.setStall { m with xfaults := m.xfaults ++ [{ kind, agent := 0, write, stall := k, index }] } x).tellFault
          x kind index 0 page false := by
  intro e kind m x
  unfold translationFault
  rw [hl]
  dsimp only
  rw [if_neg (by rw [howned, huses, hsel]; simp [hkind]), hknown]
  by_cases hfull : 64 ≤ s.xfaults.length
  · rw [if_pos hfull, if_pos ⟨rfl, hfull⟩]
  · rw [if_neg hfull, if_neg (fun h => hfull h.2)]
    rfl

/-! ### Resolution (R157, R375, R381, R382) -/

/-- The stall whose entry is mapped has what is given, or nothing where firmware's records stand. -/
theorem State.stall?_mapEntry {s : State} {k : Nat} {st : Stall} (h : s.stall? k = some st) (i : Nat) (e : Option Nat) :
    (s.mapEntry st i e).stall? k = some { st with pt := match e with | some v => insertN i v st.pt | none => eraseN i st.pt } := by
  let f (x : Stall) : Stall :=
    if x.num == st.num || (inCART i && x.title == st.title) then
      { x with pt := match e with | some v => insertN i v x.pt | none => eraseN i x.pt }
    else x
  have hnum (x : Stall) : (f x).num = x.num := (apply_ite Stall.num _ _ x).trans (ite_self _)
  have hfind : (s.stalls.map f).find? (fun x => x.num == k) = (s.stalls.find? fun x => x.num == k).map f := by
    rw [List.find?_map]
    simp only [Function.comp_def, hnum]
  have hst : s.stalls.find? (fun x => x.num == k) = some st := h
  refine hfind.trans ?_
  rw [hst, Option.map_some]
  refine congrArg some (if_pos ?_)
  rw [beq_self_eq_true, Bool.true_or]

theorem Stall.resolved_cpu (st : Stall) (index : Nat) : (st.resolved index).cpu = st.cpu := (flushBelow_same (SameCpu.refl _)).cpu

theorem Stall.resolved_tick (st : Stall) (index : Nat) : (st.resolved index).tick = st.tick := (flushBelow_same (SameCpu.refl _)).tick

theorem Stall.resolved_faults (st : Stall) (index : Nat) : (st.resolved index).faults = st.faults.filter fun f => f.1 != index :=
  (flushBelow_same (SameCpu.refl _)).faults

/-- A core's one fault resolved: FAULT_WAIT ends, and the stall goes on. -/
theorem State.restart_runs {s : State} {k index : Nat} {st : Stall} (hs : s.stall? k = some st) (hf : st.faults = [(index, 0)])
    (hsched : st.sched = .faultWait) (hd : st.dbgHalt = false) (hr : st.reasons = []) :
    s.restart k index = s.setStall (st.resolved index).endFaultWait ∧ (st.resolved index).faults = [] ∧
      (st.resolved index).endFaultWait = { st.resolved index with sched := .runnable } := by
  have hfaults : (st.resolved index).faults = [] := by simp [Stall.resolved_faults, hf]
  have hhalt : (st.resolved index).dbgHalt = false := (flushBelow_dbgHalt _ _).trans hd
  refine ⟨?_, hfaults, if_neg (by rw [hhalt]; decide)⟩
  unfold State.restart
  rw [hs]
  simp [hfaults, hf, hsched, hd, hr]

/-- FAULT_RESOLVE of a page that is not of the title image. -/
theorem faultResolve_mapped {s : State} {k index : Nat} {st : Stall} (hs : s.stall? k = some st) (hf : st.faults = [(index, 0)])
    (hsched : st.sched = .faultWait) (hd : st.dbgHalt = false) (hr : st.reasons = [])
    (hw : (st.waits.find? fun w => w.1 == index) = none) (page : Option Bytes) :
    let x := ({ st with pt := eraseN index st.pt }.resolved index).endFaultWait
    faultResolve k index page s = (s.mapEntry st index none).setStall x ∧ x.faults = [] ∧ x.sched = .runnable ∧ x.cpu = st.cpu ∧
      x.tick = st.tick := by
  intro x
  obtain ⟨hrestart, hfaults, hend⟩ := State.restart_runs (State.stall?_mapEntry hs index none) hf hsched hd hr
  have hx : x = { Stall.resolved { st with pt := eraseN index st.pt } index with sched := .runnable } := hend
  refine ⟨?_, ?_, ?_, ?_, ?_⟩
  · unfold faultResolve
    rw [hs]
    dsimp only
    rw [hw]
    show s.resolveFault k index = _
    unfold State.resolveFault
    rw [hs]
    exact hrestart
  · rw [hx]
    exact hfaults
  · rw [hx]
  · rw [hx]
    exact Stall.resolved_cpu _ _
  · rw [hx]
    exact Stall.resolved_tick _ _

/-- FAULT_RESOLVE of a page that a fault waits for. -/
theorem faultResolve_title {s : State} {k index : Nat} {st : Stall} {w : Nat × Nat} {t : Title} (hs : s.stall? k = some st)
    (hw : (st.waits.find? fun w => w.1 == index) = some w) (ht : s.title? st.title = some t) (page : Option Bytes) :
    faultResolve k index page s =
      if s.split spPAGING then s
      else page.elim (if st.sched = .faultWait then s.park k rsnPAGE_FAULT true else s) (s.supplyPage t w.2) := by
  unfold faultResolve
  rw [hs]
  dsimp only
  rw [hw, ht]
  cases page <;> rfl

/-! ### Park timeout (R157, R382) -/

/-- A stall in FAULT_WAIT parks at once, in a locked sequence too (R155). -/
theorem addReason_faultWait {st : Stall} (h : st.sched = .faultWait) (time r : Nat) : addReason time r st =
    { st with reasons := addNew r st.reasons, sched := .parked, hold := .none, parkedAt := time, loaded := false } := by
  have hne : (addNew r st.reasons).isEmpty = false := by
    rw [List.isEmpty_eq_false_iff]
    exact List.ne_nil_of_mem (mem_addNew r _)
  refine if_neg ?_
  simp [hne, h, canPark]

/-- Settles O32: each operation in turn, on the stall that it finds. -/
theorem faultWaitComplete : Obligations.FaultWaitComplete := by
  unfold Obligations.FaultWaitComplete
  intro s k slot st hl
  have hs := State.live_stall hl
  refine ⟨?_, fun index page hf hsched hd hr hw => ?_,
    fun index w t hw ht => ⟨fun hsp page => ?_, fun hsp bs => ?_, fun hsp hsched => ?_⟩,
    fun hsched ht => ?_, fun index hc => ?_⟩
  · intro index entry write fetch page e kind x m hkind howned huses hsel hknown
    have hfault := translationFault_core hl (page := page) hkind howned huses hsel hknown
    refine ⟨fun hfull => ?_, fun hroom hsp => ⟨?_, mem_addPair _ _, rfl, rfl, rfl, rfl, rfl⟩⟩
    · exact congrArg Host.Outcome.next (hfault.trans (if_pos hfull))
    · refine congrArg Host.Outcome.next (hfault.trans ((if_neg (Nat.not_le.2 hroom)).trans (State.tellFault_own ?_ _ _ _ _ _ _)))
      exact (State.split_of_regs rfl _).trans hsp
  · obtain ⟨hx, hrest⟩ := faultResolve_mapped hs hf hsched hd hr hw page
    exact ⟨congrArg Host.Outcome.next hx, hrest⟩
  · exact congrArg Host.Outcome.next ((faultResolve_title hs hw ht page).trans (if_pos hsp))
  · exact congrArg Host.Outcome.next ((faultResolve_title hs hw ht (some bs)).trans (if_neg (by rw [hsp]; decide)))
  · have hpark := (faultResolve_title hs hw ht none).trans (if_neg (by rw [hsp]; decide))
    exact congrArg Host.Outcome.next (hpark.trans (if_pos hsched))
  · intro x p
    have hx : x = _ := addReason_faultWait hsched s.time rsnPAGE_FAULT
    have hparked : x.sched = .parked := by rw [hx]
    have hp : s.setParked st x = p := congrArg (State.setStall · x) (if_pos ⟨hparked, by rw [hsched]; decide⟩)
    refine ⟨congrArg Host.Outcome.next ?_, hparked, ?_, ?_⟩
    · unfold parkTimeout State.park
      rw [hl, hs]
      dsimp only
      rw [if_pos ⟨hsched, ht⟩, show s.setParked st (addReason s.time rsnPAGE_FAULT st) = p from hp]
      cases st.waits <;> rfl
    · rw [hx]
      exact mem_addNew _ _
    · rw [hx]
  · refine congrArg Host.Outcome.next ?_
    unfold ckptPageCopy State.onStall
    rw [hs]
    exact congrArg s.setStall (if_pos hc)

end Sys2Proof.Machine
end

section
/-! SUPPORT. The raster unit's dots and slices, the slice grants of a core, and the fault point of a replayed stall (O33). -/
namespace Sys2Proof.Machine

/-! ### Live stalls (R137, R383) -/

/-- A live stall is on a slot that runs, in a mode in which stalls execute. -/
theorem State.live_runs {s : State} {k slot : Nat} {st : Stall} (h : s.live k = some (st, slot)) :
    stallsExecute s.mode = true ∧ slotRuns s slot = true := by
  unfold State.live at h
  split at h
  · next hserve =>
    simp only [Bool.and_eq_true] at hserve
    obtain ⟨⟨hexec, -⟩, -⟩ := hserve
    split at h
    · split at h
      · next hruns =>
        cases h
        exact ⟨hexec, hruns⟩
      · cases h
    · cases h
  · cases h

/-! ### Dots (R172) -/

/-- Signature records are written in CONFORMANCE alone (R535). -/
theorem State.sigStep_of_mode {s : State} (h : s.mode ≠ .conformance) (k : Nat) : s.sigStep k = s := by
  unfold State.sigStep
  split
  · rfl
  · split
    · exact if_neg fun hc => h hc.1
    · rfl

theorem renderDotStep_draws {s : State} {k slot : Nat} {st : Stall} (hl : s.live k = some (st, slot))
    (hready : dotReady s st slot = true) (hnext : dotNext s st slot = true) (hm : s.mode ≠ .conformance) :
    let x := renderDot (enterAhead st st.ras.rpos).beganTo
    renderDotStep k s = if lineDone st then
        (s.setStall x).put (atSlot RAS_LINES_LINES slot) (s.get (atSlot RAS_LINES_LINES slot) + 1)
      else s.setStall x := by
  intro x
  unfold renderDotStep
  rw [hl]
  dsimp only
  rw [hready, hnext, Bool.and_self, if_pos rfl, State.get_setStall]
  refine State.sigStep_of_mode ?_ k
  split <;> exact hm

/-! ### Slices (R173) -/

theorem sliceDeadline_handsOver {s : State} {k slot : Nat} {st : Stall} (hl : s.live k = some (st, slot))
    (hpast : deadlinePast st s.time st.ras.handed = true) (hdrawn : sliceDrawn st st.ras.handed = true) :
    sliceDeadline k s = s.setStall (handOver st (s.get (atSlot RAS_CTL_HINT slot) == 1)) := by
  unfold sliceDeadline
  rw [hl]
  exact if_pos ⟨hpast, hdrawn⟩

theorem sliceDeadline_reports {s : State} {k slot : Nat} {st : Stall} (hl : s.live k = some (st, slot))
    (hdrawn : sliceDrawn st st.ras.handed = false)
    (hpast : deadlinePast st s.time (max st.ras.handed st.ras.underrun) = true) :
    sliceDeadline k s = ((((s.setStall (st.lateTo (max st.ras.handed st.ras.underrun + 1))).inc
      (atSlot RAS_UNDERRUN_COUNT slot)).put (atSlot RAS_UNDERRUN_STALL slot) k).raise (evUnderrun slot)) := by
  unfold sliceDeadline
  rw [hl]
  dsimp only
  rw [if_neg (by rw [hdrawn]; simp), if_pos hpast]

/-- The regions of STAGE 1 follow a slice handed over. -/
theorem sliceDeadlineRegions_of_handed {s : State} {k : Nat} {a b : Stall} (ha : s.stall? k = some a)
    (hb : (sliceDeadline k s).stall? k = some b) (h : a.ras.handed < b.ras.handed) :
    sliceDeadlineRegions k s =
      (sliceDeadline k s).stage1 b (a.ras.handed / slicesPer b.cls) (a.ras.handed % slicesPer b.cls) := by
  unfold sliceDeadlineRegions
  rw [ha]
  dsimp only
  rw [hb]
  exact if_pos h

/-- Without a slice handed over no region is checked. -/
theorem sliceDeadlineRegions_of_not_handed {s : State} {k : Nat} {a b : Stall} (ha : s.stall? k = some a)
    (hb : (sliceDeadline k s).stall? k = some b) (h : b.ras.handed = a.ras.handed) :
    sliceDeadlineRegions k s = sliceDeadline k s := by
  unfold sliceDeadlineRegions
  rw [ha]
  dsimp only
  rw [hb]
  exact if_neg (by omega)

/-- Raising an event leaves the field that names the stall of the underrun. -/
theorem get_underrunStall_raise (s : State) (slot : Nat) :
    (s.raise (evUnderrun slot)).get (atSlot RAS_UNDERRUN_STALL slot) = s.get (atSlot RAS_UNDERRUN_STALL slot) := by
  refine State.get_put_apart _ _ _ _ ?_ ?_
  · simp only [Fld.fits, decide_eq_true_eq]
    omega
  · have hoff : (0x10140 + 4 * ((0x20 + slot) / 32)) / 8 ≠ (0x100404 + 65536 * slot) / 8 := by omega
    rw [Fld.apart, Bool.or_eq_true, Bool.or_eq_true]
    exact .inl (.inl (decide_eq_true hoff))

theorem atSlot_underrunStall_fits (slot : Nat) : (atSlot RAS_UNDERRUN_STALL slot).fits = true := by
  have hw : 8 * ((0x100404 + 65536 * slot) % 8) + 16 + 12 ≤ 64 := by omega
  exact decide_eq_true hw

/-! ### Grants (R132, R149, R150) -/

/-- With a free hot slot there is one that the stall may take. -/
theorem State.hotChoice_ne_nil {s : State} {slot core : Nat} (h : s.freeHot slot core ≠ []) (st : Stall) :
    s.hotChoice slot core st ≠ [] := by
  unfold State.hotChoice
  extract_lets free empty
  split
  · exact List.cons_ne_nil _ _
  · split
    · exact h
    · next hempty => exact fun hnil => hempty (List.isEmpty_iff.2 hnil)

/-- A free value drawn among the elements of a list picks one of them. -/
theorem State.nthD_draw_mem {α : Type} (s : State) {l : List α} (h : l ≠ []) (d : α) : nthD l (s.draw l.length).1 d ∈ l := by
  have hlt : (s.draw l.length).1 < l.length := Nat.mod_lt _ (List.length_pos_iff.2 h)
  unfold nthD
  rw [List.getD_eq_getElem _ _ hlt]
  exact List.getElem_mem hlt

@[simp] theorem State.evictHot_time (s : State) (slot core hot k : Nat) : (s.evictHot slot core hot k).time = s.time := by
  unfold State.evictHot
  split <;> rfl

/-- The context written back for stall k is another stall's. -/
theorem State.stall?_evictHot (s : State) (slot core hot k : Nat) : (s.evictHot slot core hot k).stall? k = s.stall? k := by
  unfold State.evictHot
  split
  · next x hx =>
    have hp := List.find?_some hx
    have hne : x.num ≠ k := by simpa using (Bool.and_eq_true_iff.1 hp).2
    exact State.stall?_setStall_other _ _ _ hne
  · rfl

section
variable {s : State} {k slot core : Nat} {st : Stall} (hl : s.live k = some (st, slot)) (hrun : s.get (atSlot STB_CTL_RUN slot) = 1)
  (hcore : core < 4) (hchoice : s.grantChoice slot core = some st) (hfree : s.freeHot slot core ≠ [])
  (hooo : (s.runsOn slot core).any (fun x => x.ooo != nextOoo (s.restoring slot) st) = false)
include hl hrun hcore hchoice hfree hooo

/-- SLICE_GRANT to the stall chosen: a hot slot that it may take, freed for it, and its stores drained when it comes from
another core. -/
theorem sliceGrant_grants :
    let d := s.draw (s.hotChoice slot core st).length
    let h := nthD (s.hotChoice slot core st) d.1 0
    let e := d.2.evictHot slot core h st.num
    sliceGrant slot core s =
      (if st.loaded && st.core == core then e else e.drainOf st.num).setStall
        (st.granted s.time core h (nextOoo (s.restoring slot) st)) := by
  intro d h e
  obtain ⟨hexec, hruns⟩ := State.live_runs hl
  have htime : (if st.loaded && st.core == core then e else e.drainOf st.num).time = s.time := by
    split <;> exact State.evictHot_time _ _ _ _ _
  unfold sliceGrant
  rw [if_neg (by simp [hexec, hruns, hrun, hcore]), hchoice]
  dsimp only
  rw [if_neg (by simp [hooo, hfree])]
  exact congrArg (fun t => State.setStall _ (st.granted t core h _)) htime

theorem sliceGrant_stall? : ∃ h ∈ s.hotChoice slot core st,
    (sliceGrant slot core s).stall? k = some (st.granted s.time core h (nextOoo (s.restoring slot) st)) := by
  have hs := State.live_stall hl
  have hnum := State.stall?_num hs
  refine ⟨_, State.nthD_draw_mem s (State.hotChoice_ne_nil hfree st) 0, ?_⟩
  rw [sliceGrant_grants hl hrun hcore hchoice hfree hooo]
  refine State.stall?_setStall_same _ _ st k ?_ hnum
  subst hnum
  split <;> exact (State.stall?_evictHot _ _ _ _ _).trans hs

end

/-! ### Fault points (R498) -/

theorem faultPointReached_ends {s : State} {k slot p : Nat} {st : Stall} (hl : s.live k = some (st, slot))
    (hp : st.replayTo = some p) (htick : p ≤ st.tick) (hr : st.reasons.contains rsnRECOVER = false) :
    faultPointReached k s =
      if st.quiet then s.setStall (st.replayed s.time) else (s.setStall (st.replayed s.time)).notice nRecovered k 0 p := by
  unfold faultPointReached
  rw [hl]
  dsimp only
  rw [hp]
  exact if_pos ⟨htick, by rw [hr]; rfl⟩

/-- Past its fault point a stall is replayed no more, and its processor and its TICK stand. -/
theorem Stall.replayed_frame (st : Stall) (time : Nat) :
    (st.replayed time).replayTo = none ∧ (st.replayed time).cpu = st.cpu ∧ (st.replayed time).tick = st.tick := by
  unfold Stall.replayed
  dsimp only
  split
  · exact ⟨rfl, rfl, rfl⟩
  · split <;> exact ⟨rfl, rfl, rfl⟩

/-- Settles O33: each unit's step on the live stall. -/
theorem unitsAndSlicesComplete : Obligations.UnitsAndSlicesComplete := by
  unfold Obligations.UnitsAndSlicesComplete
  intro s k slot st hl
  have hs := State.live_stall hl
  have hnum := State.stall?_num hs
  refine ⟨fun hready hnext hm => ?_, fun hpast hdrawn => ⟨?_, rfl⟩, fun hdrawn hpast => ?_,
    fun core hrun hcore hchoice hfree hooo => ?_, fun p hp htick hr => ⟨?_, Stall.replayed_frame st s.time⟩⟩
  · exact congrArg Host.Outcome.next (renderDotStep_draws hl hready hnext hm)
  · have hd := sliceDeadline_handsOver hl hpast hdrawn
    have hx := State.stall?_setStall_same s (handOver st (s.get (atSlot RAS_CTL_HINT slot) == 1)) st k hs hnum
    rw [← hd] at hx
    exact congrArg Host.Outcome.next ((sliceDeadlineRegions_of_handed hs hx (Nat.lt_succ_self _)).trans (by rw [hd]; rfl))
  · have hd := sliceDeadline_reports hl hdrawn hpast
    have hx : (sliceDeadline k s).stall? k = some (st.lateTo (max st.ras.handed st.ras.underrun + 1)) := by
      simp only [hd, State.raise, State.inc, State.stall?_put]
      exact State.stall?_setStall_same s _ st k hs hnum
    refine ⟨sliceDeadline k s, congrArg Host.Outcome.next (sliceDeadlineRegions_of_not_handed hs hx rfl), hx, ?_, ?_, ?_⟩
    · rw [hd, get_underrunStall_raise]
      exact State.get_put _ _ _ (atSlot_underrunStall_fits slot)
    · simp [hd, State.raise, State.inc]
    · simp [hd, State.raise, State.inc]
  · obtain ⟨h, hmem, hx⟩ := sliceGrant_stall? hl hrun hcore hchoice hfree hooo
    exact ⟨_, h, rfl, hmem, hx⟩
  · exact congrArg Host.Outcome.next (faultPointReached_ends hl hp htick hr)

end Sys2Proof.Machine
end

section
/-! SUPPORT. The statement of the stables and microcode family: the commands of a slot, and the validation and release of a
microcode set (O34). -/
namespace Sys2Proof.Machine

/-! ### The registers of a slot -/

/-- A slot's registers lie a multiple of 8 bytes above slot 0's, so its fields stand to one another as slot 0's do. -/
theorem atSlot_fits (f : Fld) (slot : Nat) : (atSlot f slot).fits = f.fits := by
  have hmod : (f.off + 65536 * slot) % 8 = f.off % 8 := by omega
  simp only [atSlot, Fld.nth, Fld.fits, hmod]

theorem atSlot_apart (f g : Fld) (slot : Nat) : (atSlot f slot).apart (atSlot g slot) = f.apart g := by
  have hmod (o : Nat) : (o + 65536 * slot) % 8 = o % 8 := by omega
  have hdiv (o : Nat) : (o + 65536 * slot) / 8 = o / 8 + 8192 * slot := by omega
  simp only [atSlot, Fld.nth, Fld.apart, hmod, hdiv, ne_eq, Nat.add_right_cancel_iff]

/-- A field of a slot reads what was last put into it. -/
theorem State.get_put_atSlot (s : State) {f : Fld} (slot v : Nat) (hf : f.fits = true) :
    (s.put (atSlot f slot) v).get (atSlot f slot) = v % 2 ^ f.w :=
  State.get_put s (atSlot f slot) v ((atSlot_fits f slot).trans hf)

/-- Putting one field of a slot leaves the slot's other fields. -/
theorem State.get_put_atSlot_apart (s : State) {f g : Fld} (slot v : Nat) (hf : f.fits = true) (h : f.apart g = true) :
    (s.put (atSlot f slot) v).get (atSlot g slot) = s.get (atSlot g slot) :=
  State.get_put_apart s _ _ v ((atSlot_fits f slot).trans hf) ((atSlot_apart f g slot).trans h)

/-! ### Draining and fencing (R137, R156, R166) -/

section
variable {s : State} {slot : Nat} (hslot : slot < 17)
include hslot

theorem stbDrain_starts (hm : blocksServe s.mode = true) (h : s.get (atSlot STB_STATE_STATE slot) = 1) :
    stbDrain slot true s = ((s.put (atSlot STB_CTL_DRAIN slot) 1).put (atSlot STB_STATE_STATE slot) 5).eachOn slot
      fun x k => x.park k rsnDRAIN false := by
  have hstate : (s.put (atSlot STB_CTL_DRAIN slot) 1).get (atSlot STB_STATE_STATE slot) = 1 :=
    (State.get_put_atSlot_apart s slot 1 (by decide) (by decide)).trans h
  simp [stbDrain, hm, Nat.not_le.2 hslot, b2n, hstate]

theorem stbDrain_ends (hm : blocksServe s.mode = true) (h : s.get (atSlot STB_STATE_STATE slot) = 5) :
    stbDrain slot false s = ((s.put (atSlot STB_CTL_DRAIN slot) 0).put (atSlot STB_STATE_STATE slot) 1).eachOn slot
      fun x k => x.unpark k rsnDRAIN := by
  have hstate : (s.put (atSlot STB_CTL_DRAIN slot) 0).get (atSlot STB_STATE_STATE slot) = 5 :=
    (State.get_put_atSlot_apart s slot 0 (by decide) (by decide)).trans h
  simp [stbDrain, hm, Nat.not_le.2 hslot, b2n, hstate]

/-- STB_CTL.FENCE is set in every state of the slot; a slot that is not FENCED yet goes, or is only fenced where no firmware
takes its stable over. -/
theorem stbFence_eq : stbFence slot s =
    let f := s.put (atSlot STB_CTL_FENCE slot) 1
    if s.get (atSlot STB_STATE_STATE slot) = 4 then f else if mayFailStop s.mode then f.slotGone slot 1 else f.fenceSlot slot := by
  have hstate : (s.put (atSlot STB_CTL_FENCE slot) 1).get (atSlot STB_STATE_STATE slot) = s.get (atSlot STB_STATE_STATE slot) :=
    State.get_put_atSlot_apart s slot 1 (by decide) (by decide)
  rw [stbFence, if_neg (Nat.not_le.2 hslot)]
  simp only [hstate, State.put_mode]
  rfl

theorem State.slotLive_of_state (hm : mayFailStop s.mode = true) (h0 : s.get (atSlot STB_STATE_STATE slot) ≠ 0)
    (h4 : s.get (atSlot STB_STATE_STATE slot) ≠ 4) : s.slotLive slot = true := by
  simp [State.slotLive, hslot, hm, h0, h4]

end

/-! ### The end of a takeover and of a stable reset (R166, R486, R507) -/

/-- The spare becomes ACTIVE, and the time since the takeover began is recorded. -/
theorem takeoverComplete_of_recovered {s : State} (hstate : s.get (atSlot STB_STATE_STATE 16) = 3)
    (hm : stallsExecute s.mode = true) (hall : (s.stallsOn 16).all (recovered s.time) = true) :
    takeoverComplete s =
      (s.put (atSlot STB_STATE_STATE 16) 1).put FLT_RECOVER_LAST_US (min 65535 ((s.time - s.takeoverAt) / 1000)) :=
  if_pos ⟨hstate, hm, hall⟩

/-- A stable reset is done while firmware runs, on a slot that holds no stall and is not FENCED. -/
theorem stableReset_acts {s : State} {slot : Nat} (hslot : slot < 17) (hm : fwRuns s.mode = true)
    (hempty : s.stallsOn slot = []) (h4 : s.get (atSlot STB_STATE_STATE slot) ≠ 4) :
    ¬(17 ≤ slot ∨ !fwRuns s.mode ∨ !(s.stallsOn slot).isEmpty ∨ s.get (atSlot STB_STATE_STATE slot) = 4) := by
  simp [Nat.not_le.2 hslot, hm, hempty, h4]

/-! ### Microcode sets (R118 – R120) -/

theorem loadedBit_fits (slot : Nat) {set : Nat} (h : set < 16) :
    ({ atSlot UCS_STATE_LOADED slot with lo := set, w := 1 } : Fld).fits = true := by
  have hw : 8 * ((0x107F04 + 65536 * slot) % 8) + set + 1 ≤ 64 := by omega
  exact decide_eq_true hw

/-- LOADED of a set is one bit of UCS_STATE. -/
theorem State.loaded_eq (s : State) (slot : Nat) {set : Nat} (h : set < 16) :
    s.loaded slot set = (s.get { atSlot UCS_STATE_LOADED slot with lo := set, w := 1 }).testBit 0 := by
  simp only [State.loaded, bitAt_eq_testBit, State.get, testBit_field]
  simp [h, UCS_STATE_LOADED, atSlot, Fld.nth]

theorem State.loaded_setLoaded (s : State) (slot : Nat) {set : Nat} (h : set < 16) (v : Bool) :
    (s.setLoaded slot set v).loaded slot set = v := by
  rw [State.loaded_eq _ slot h, State.setLoaded, State.get_put _ _ _ (loadedBit_fits slot h)]
  cases v <;> simp [b2n]

/-- A result is written into the fields of UCS_ERR, one after another; OPC and UOP are drawn where it has none. -/
theorem State.ucsResult_eq (s : State) (slot set code : Nat) (opc uop : Option Nat) :
    ∃ a b, s.ucsResult slot set code opc uop =
      ((((State.put { s with free := s.free + 1 + 1 } (atSlot UCS_ERR_SET slot) set).put (atSlot UCS_ERR_CODE slot) code).put
        (atSlot UCS_ERR_OPC slot) (opc.getD a)).put (atSlot UCS_ERR_UOP slot) (uop.getD b)) :=
  ⟨_, _, rfl⟩

/-- The set and the code that a result reports; it changes no stall and no title. -/
theorem State.ucsResult_err (s : State) (slot : Nat) {set : Nat} (h : set < 16) (code : Nat) (opc uop : Option Nat) :
    let t := s.ucsResult slot set code opc uop
    t.get (atSlot UCS_ERR_SET slot) = set ∧ t.get (atSlot UCS_ERR_CODE slot) = code % 16 ∧ t.stalls = s.stalls ∧
      t.titles = s.titles := by
  obtain ⟨a, b, ht⟩ := s.ucsResult_eq slot set code opc uop
  simp only [ht]
  refine ⟨?_, ?_, rfl, rfl⟩
  · simp (disch := decide) only [State.get_put_atSlot_apart, State.get_put_atSlot]
    exact Nat.mod_eq_of_lt h
  · simp (disch := decide) only [State.get_put_atSlot_apart, State.get_put_atSlot]
    rfl

theorem State.ucsResult_opc (s : State) (slot set code u : Nat) (uop : Option Nat) :
    (s.ucsResult slot set code (some u) uop).get (atSlot UCS_ERR_OPC slot) = u % 8 := by
  obtain ⟨a, b, ht⟩ := s.ucsResult_eq slot set code (some u) uop
  rw [ht, State.get_put_atSlot_apart _ _ _ (by decide) (by decide), State.get_put_atSlot _ _ _ (by decide)]
  rfl

theorem State.ucsResult_uop (s : State) (slot set code k : Nat) (opc : Option Nat) :
    (s.ucsResult slot set code opc (some k)).get (atSlot UCS_ERR_UOP slot) = k % 256 := by
  obtain ⟨a, b, ht⟩ := s.ucsResult_eq slot set code opc (some k)
  rw [ht, State.get_put_atSlot _ _ _ (by decide)]
  rfl

theorem State.loaded_ucsResult (s : State) (slot set code j : Nat) (opc uop : Option Nat) :
    (s.ucsResult slot set code opc uop).loaded slot j = s.loaded slot j := by
  obtain ⟨a, b, ht⟩ := s.ucsResult_eq slot set code opc uop
  rw [ht, State.loaded]
  simp (disch := decide) only [State.get_put_atSlot_apart]
  rfl

section
variable {s : State} {slot set : Nat} (hslot : slot < 17) (hset : set < 16) (hm : fwRuns s.mode = true)
include hslot hset hm

/-- UCS_CMD acts on a set of a slot while firmware runs. -/
theorem ucsCmd_acts : ¬(17 ≤ slot ∨ 16 ≤ set ∨ !fwRuns s.mode) := by
  simp [Nat.not_le.2 hslot, Nat.not_le.2 hset, hm]

theorem ucsValidate_of_loaded (h : s.loaded slot set = true) : ucsValidate slot set s = s.ucsResult slot set 7 none none := by
  rw [ucsValidate, if_neg (ucsCmd_acts hslot hset hm), if_pos h]

theorem ucsValidate_of_passed (h : s.loaded slot set = false) (hc : s.checkRam slot set = none) :
    ucsValidate slot set s = (s.setLoaded slot set true).ucsResult slot set 0 none none := by
  rw [ucsValidate, if_neg (ucsCmd_acts hslot hset hm), if_neg (by simp [h]), hc]

theorem ucsValidate_of_failed {c u : Nat} {j : Option Nat} (h : s.loaded slot set = false)
    (hc : s.checkRam slot set = some (c, u, j)) : ucsValidate slot set s = s.ucsResult slot set c (some u) j := by
  rw [ucsValidate, if_neg (ucsCmd_acts hslot hset hm), if_neg (by simp [h]), hc]

theorem ucsRelease_of_inUse (h : s.ucsInUse slot set = true) : ucsRelease slot set s = s.ucsResult slot set 7 none none := by
  rw [ucsRelease, if_neg (ucsCmd_acts hslot hset hm), if_pos h]

theorem ucsRelease_of_unused (h : s.ucsInUse slot set = false) :
    ucsRelease slot set s = (s.setLoaded slot set false).ucsResult slot set 0 none none := by
  rw [ucsRelease, if_neg (ucsCmd_acts hslot hset hm), if_neg (by simp [h])]

end

/-! ### The statement -/

/-- The commands of the slots and of their microcode sets act by their functions. -/
theorem exec_stbDrain (slot : Nat) (drain : Bool) (s : State) : exec (.stbDrain slot drain) s = .next (stbDrain slot drain s) := rfl
theorem exec_stbFence (slot : Nat) (s : State) : exec (.stbFence slot) s = .next (stbFence slot s) := rfl
theorem exec_coreFault (slot unit lost : Nat) (s : State) : exec (.coreFault slot unit lost) s = .next (coreFault slot unit lost s) := rfl
theorem exec_storeFault (slot lost : Nat) (s : State) : exec (.storeFault slot lost) s = .next (storeFault slot lost s) := rfl
theorem exec_takeoverComplete (s : State) : exec .takeoverComplete s = .next (takeoverComplete s) := rfl
theorem exec_stableReset (slot : Nat) (pass : Bool) (s : State) : exec (.stableReset slot pass) s = .next (stableReset slot pass s) := rfl
theorem exec_ucsValidate (slot set : Nat) (s : State) : exec (.ucsValidate slot set) s = .next (ucsValidate slot set s) := rfl
theorem exec_ucsRelease (slot set : Nat) (s : State) : exec (.ucsRelease slot set) s = .next (ucsRelease slot set s) := rfl

/-- Settles O34: each clause is the equation of the command it names, read off in the fields it puts. -/
theorem slotsComplete : Obligations.SlotsComplete := by
  unfold Obligations.SlotsComplete
  simp only [exec_stbDrain, exec_stbFence, exec_coreFault, exec_storeFault, exec_takeoverComplete, exec_stableReset,
    exec_ucsValidate, exec_ucsRelease, Host.Outcome.next.injEq, exists_eq_left']
  refine ⟨fun s slot hslot => ⟨stbDrain_starts hslot, stbDrain_ends hslot, ⟨fun h4 => ?_, fun h4 hm => ?_, fun h4 hm => ?_⟩,
      fun hm h0 h4 unit lost hu => ?_, fun hm h0 h4 lost => ?_, fun hstate hm hall => ?_,
      fun hm hempty h4 _ => if_neg (stableReset_acts hslot hm hempty h4)⟩,
    fun s slot set hslot hset hm => ⟨fun h => ?_, fun h hc => ?_, fun c u j h hc => ?_, fun h => ?_, fun h => ?_⟩⟩
  · rw [stbFence_eq hslot]; exact if_pos h4
  · rw [stbFence_eq hslot]; exact (if_neg h4).trans (if_pos hm)
  · rw [stbFence_eq hslot]; exact (if_neg h4).trans (if_neg (by simp [hm]))
  · exact if_pos ⟨State.slotLive_of_state hslot hm h0 h4, hu⟩
  · exact if_pos (State.slotLive_of_state hslot hm h0 h4)
  · rw [takeoverComplete_of_recovered hstate hm hall]
    refine ⟨?_, ?_, rfl, rfl⟩
    · rw [State.get_put_apart _ _ _ _ (by decide) (by decide), State.get_put_atSlot _ _ _ (by decide)]
      rfl
    · rw [State.get_put _ _ _ (by decide)]
      exact Nat.mod_eq_of_lt (Nat.lt_succ_of_le (Nat.min_le_left _ _))
  · rw [ucsValidate_of_loaded hslot hset hm h, State.loaded_ucsResult]
    exact ⟨State.ucsResult_err s slot hset 7 none none, h⟩
  · rw [ucsValidate_of_passed hslot hset hm h hc, State.loaded_ucsResult]
    exact ⟨State.ucsResult_err (s.setLoaded slot set true) slot hset 0 none none, State.loaded_setLoaded s slot hset true⟩
  · rw [ucsValidate_of_failed hslot hset hm h hc, State.loaded_ucsResult]
    refine ⟨State.ucsResult_err s slot hset c (some u) j, h, State.ucsResult_opc s slot set c u j, fun k hk => ?_⟩
    rw [hk]
    exact State.ucsResult_uop s slot set c k (some u)
  · rw [ucsRelease_of_inUse hslot hset hm h, State.loaded_ucsResult]
    exact ⟨State.ucsResult_err s slot hset 7 none none, rfl⟩
  · rw [ucsRelease_of_unused hslot hset hm h, State.loaded_ucsResult]
    exact ⟨State.ucsResult_err (s.setLoaded slot set false) slot hset 0 none none, State.loaded_setLoaded s slot hset false⟩

end Sys2Proof.Machine
end

section
/-! SUPPORT. The composer's commits and slices (O35), and the monitor port under boundary scan (O36). -/
namespace Sys2Proof.Machine

/-! ### Events and registers put one after another (R7, R468) -/

theorem event_fits (n : Nat) : (⟨0x10140 + 4 * (n / 32), n % 32, 1⟩ : Fld).fits = true := by
  have hw : 8 * ((0x10140 + 4 * (n / 32)) % 8) + n % 32 + 1 ≤ 64 := by omega
  exact decide_eq_true hw

/-- An event that is raised is latched. -/
theorem State.evLatched_raise (s : State) (n : Nat) : (s.raise n).evLatched n = true := by
  rw [State.evLatched, State.raise, State.get_put s _ _ (event_fits n)]
  rfl

@[simp] theorem State.raise_streams (s : State) (n : Nat) : (s.raise n).streams = s.streams := rfl

/-- Putting several fields changes the register file alone. -/
theorem State.puts_eq (s : State) (l : List (Fld × Nat)) : s.puts l = { s with regs := (s.puts l).regs } := by
  induction l generalizing s with
  | nil => rfl
  | cons p l ih => rw [State.puts_cons, ih]; rfl

theorem State.puts_time (s : State) (l : List (Fld × Nat)) : (s.puts l).time = s.time := by rw [State.puts_eq]

theorem State.puts_streams (s : State) (l : List (Fld × Nat)) : (s.puts l).streams = s.streams := by rw [State.puts_eq]

/-! ### The records of streams -/

theorem State.stream?_num {s : State} {n : Nat} {x : Stream} (h : s.stream? n = some x) : x.num = n := by
  unfold State.stream? at h
  simpa using List.find?_some h

theorem State.stream?_congr {s t : State} (h : t.streams = s.streams) (n : Nat) : t.stream? n = s.stream? n := by
  rw [State.stream?, State.stream?, h]

/-- The record that a replacement puts in place. -/
theorem State.stream?_setStream {s : State} {n : Nat} {x y : Stream} (h : s.stream? n = some x) (hy : y.num = n) :
    (s.setStream y).stream? n = some y := by
  subst hy
  unfold State.stream? State.setStream at *
  generalize s.streams = l at h ⊢
  induction l with
  | nil => cases h
  | cons z l ih =>
    by_cases hz : z.num = y.num
    · simp [hz]
    · rw [List.find?_cons_of_neg (by simpa using hz)] at h
      rw [List.map_cons, List.find?_cons_of_neg (by simp [hz])]
      exact ih h

theorem State.stream?_replaceStream {s : State} {n : Nat} {x y : Stream} (was : Stream) (h : s.stream? n = some x)
    (hy : y.num = n) : (s.replaceStream was y).stream? n = some y :=
  State.stream?_setStream ((State.stream?_congr (State.puts_streams s _) n).trans h) hy

/-- A frame that begins changes a stream's frames, the descriptors kept for them and the mark of a first frame alone. -/
theorem State.beginFrame_eq (s : State) (n : Nat) (x : Stream) :
    ∃ frames fresh descs, s.beginFrame n x = { x with frames, fresh, descs } := by
  unfold State.beginFrame
  split
  · exact ⟨_, _, _, rfl⟩
  · exact ⟨_, _, _, rfl⟩

theorem State.beginFrame_foldl_eq (s : State) (e : Nat) (l : List Nat) (x : Stream) :
    ∃ frames fresh descs, l.foldl (fun x i => s.beginFrame (e + i) x) x = { x with frames, fresh, descs } := by
  induction l generalizing x with
  | nil => exact ⟨_, _, _, rfl⟩
  | cons i l ih =>
    obtain ⟨_, _, _, hi⟩ := s.beginFrame_eq (e + i) x
    obtain ⟨frames, fresh, descs, hl⟩ := ih (s.beginFrame (e + i) x)
    exact ⟨frames, fresh, descs, by rw [List.foldl_cons, hl, hi]⟩

/-! ### Commits (R215 – R218) -/

/-- Placing beds takes extents, and no time. -/
theorem State.placeBeds_time {stack w h : Nat} {old : List Bed} (l : List (List Course)) {s : State} {p : List Bed × State}
    (hp : s.placeBeds stack w h old l = some p) : p.2.time = s.time := by
  induction l generalizing s p with
  | nil =>
    obtain rfl := Option.some.inj hp
    rfl
  | cons g l ih =>
    simp only [State.placeBeds] at hp
    split at hp
    · obtain ⟨q, hq, rfl⟩ := Option.map_eq_some_iff.1 hp
      exact (ih hq :)
    · split at hp
      · obtain ⟨q, hq, rfl⟩ := Option.map_eq_some_iff.1 hp
        exact (ih hq :)
      · split at hp
        · cases hp
        · obtain ⟨q, hq, rfl⟩ := Option.map_eq_some_iff.1 hp
          exact (ih hq :).trans (State.puts_time s _)

theorem State.bedsFor_time {s t : State} {n : Nat} {old beds : List Bed} {d : Bytes} (h : s.bedsFor n old d = some (beds, t)) :
    t.time = s.time := by
  unfold State.bedsFor at h
  exact State.placeBeds_time _ h

theorem cmpCommit_starts {s : State} {n : Nat} {x : Stream} (hx : s.stream? n = some x) (hm : fwRuns s.mode = true)
    (hbusy : s.get CMP_COMMIT_BUSY = 0) :
    cmpCommit n s = { s.put CMP_COMMIT_BUSY 1 with validating := some (n, x.shadow) } := by
  rw [cmpCommit, if_neg (by simp [hm, hbusy]), hx]

/-- No commit is being validated. -/
def State.dropValidating (s : State) : State := { s with validating := none }

@[simp] theorem State.dropValidating_streams (s : State) : s.dropValidating.streams = s.streams := rfl
@[simp] theorem State.dropValidating_time (s : State) : s.dropValidating.time = s.time := rfl

/-- The device once the validation of a commit has ended. -/
def State.validated (s : State) : State := (s.put CMP_COMMIT_BUSY 0).dropValidating

@[simp] theorem State.validated_streams (s : State) : s.validated.streams = s.streams :=
  (State.dropValidating_streams _).trans (State.put_streams s CMP_COMMIT_BUSY 0)
@[simp] theorem State.validated_time (s : State) : s.validated.time = s.time :=
  (State.dropValidating_time _).trans (State.put_time s CMP_COMMIT_BUSY 0)

section
variable {s : State} {n : Nat} {d : Bytes} {room : Bool} (hv : s.validating = some (n, d))
include hv

/-- A copy that fails a check is refused with the first failure. -/
theorem commitValidated_of_failed {r : Nat} {i : Option Nat} {g : Bool} (hc : s.validated.commitCheck d = some (r, i, g)) :
    commitValidated room s = s.validated.commitRefused n r i g := by
  unfold commitValidated
  rw [hv]
  extract_lets src t
  have ht : s.validated = t := rfl
  rw [ht] at hc ⊢
  clear_value t
  simp only [hc]

variable {x : Stream} (hx : s.stream? n = some x) (hc : s.validated.commitCheck d = none)
include hx hc

/-- A copy that passes the checks is pending once the BED shed holds its beds, and is refused with BED where it cannot. -/
theorem commitValidated_of_passed :
    commitValidated room s =
      (if needsBeds x.beds d ∧ !room then none else s.validated.bedsFor n x.beds d).elim
        (s.validated.commitRefused n rBED none false) fun p => p.2.replaceStream x { x with commit := some {
          copy := d, since := p.2.time, bedAt := if needsBeds x.beds d then none else some p.2.time, beds := p.1 } } := by
  have hx' : s.validated.stream? n = some x := (State.stream?_congr s.validated_streams n).trans hx
  unfold commitValidated
  rw [hv]
  extract_lets src t
  have ht : s.validated = t := rfl
  rw [ht] at hc hx' ⊢
  clear_value t
  simp only [hc, hx']
  generalize (if needsBeds x.beds d ∧ !room then none else t.bedsFor n x.beds d) = placed
  cases placed <;> rfl

theorem commitValidated_of_noRoom (hneed : needsBeds x.beds d = true) (hroom : room = false) :
    commitValidated room s = s.validated.commitRefused n rBED none false := by
  rw [commitValidated_of_passed hv hx hc, if_pos ⟨hneed, by simp [hroom]⟩, Option.elim_none]

theorem commitValidated_of_noBeds (hb : s.validated.bedsFor n x.beds d = none) :
    commitValidated room s = s.validated.commitRefused n rBED none false := by
  rw [commitValidated_of_passed hv hx hc, hb, ite_self, Option.elim_none]

theorem commitValidated_of_placed {beds : List Bed} {t : State} (hroom : needsBeds x.beds d = false ∨ room = true)
    (hb : s.validated.bedsFor n x.beds d = some (beds, t)) :
    commitValidated room s = t.replaceStream x
      { x with commit := some { copy := d, since := s.time, bedAt := if needsBeds x.beds d then none else some s.time, beds } } := by
  have hmay : ¬(needsBeds x.beds d ∧ !room) := by
    rcases hroom with h | h <;> simp [h]
  have htime : t.time = s.time := (State.bedsFor_time hb).trans s.validated_time
  rw [commitValidated_of_passed hv hx hc, if_neg hmay, hb, Option.elim_some, ← htime]

end

section
variable {s : State} {n : Nat} {x : Stream} {c : Commit} (hx : s.stream? n = some x) (hc : x.commit = some c)
include hx hc

theorem bedRebuildComplete_builds (hb : c.bedAt = none) :
    bedRebuildComplete n s = s.setStream { x with commit := some { c with
      bedAt := some s.time, beds := c.beds.map fun b => if x.beds.contains b then b else s.buildBed b } } := by
  simp [bedRebuildComplete, hx, hc, hb]

/-- At its frame the copy becomes active, APPLIED in it being that frame. -/
theorem commitTakeEffect_of_due {e : Nat} (he : c.effect = some e)
    (hdue : cadFrame e ≤ s.time ∧ (x.frames.all fun f => decide (f.n < e) || f.j == 0) = true) :
    ∃ y, commitTakeEffect n s = (s.replaceStream x y).raise evCommitDone ∧ y.num = x.num ∧
      y.act = putBytes c.copy 32 (leBytes 4 e) ∧ y.beds = c.beds ∧ y.commit = none ∧ y.regHold = false ∧ y.shadow = x.shadow := by
  obtain ⟨frames, fresh, descs, hbegin⟩ := s.beginFrame_foldl_eq e
    (upto (if stallsExecute s.mode then frameAt s.time + 1 - e else 0))
    { x with
      act := putBytes c.copy 32 (leBytes 4 e), beds := c.beds, commit := none, regHold := false
      frames := x.frames.filter fun f => decide (f.n < e)
      fresh := (x.fresh || !dEn x.act || picturesDiffer x.act (putBytes c.copy 32 (leBytes 4 e))) ||
        (x.frames.any fun f => decide (e ≤ f.n) && f.first) }
  simp only [commitTakeEffect, hx, hc, he]
  rw [if_pos hdue, hbegin]
  exact ⟨_, rfl, rfl, rfl, rfl, rfl, rfl, rfl⟩

end

/-- A refusal is written into the fields of CMP_COMMIT_ERR, one after another; INDEX is drawn where the failure has none. -/
theorem State.commitRefused_eq (s : State) (n r : Nat) (i : Option Nat) (g : Bool) :
    ∃ a, s.commitRefused n r i g =
      ((((((({ s with free := s.free + 1 } : State).put CMP_COMMIT_ERR_STREAM n).put CMP_COMMIT_ERR_INDEX (i.getD a)).put
        CMP_COMMIT_ERR_RGN (b2n g)).put CMP_COMMIT_ERR_REASON r).put CMP_COMMIT_ERR_VALID 1).raise evCommitReject) :=
  ⟨_, rfl⟩

/-- What a refusal records (R217); no stream changes. -/
theorem State.commitRefused_err (s : State) {n r : Nat} (i : Option Nat) (g : Bool) (hn : n < 16384) (hr : r < 16) :
    let t := s.commitRefused n r i g
    t.get CMP_COMMIT_ERR_STREAM = n ∧ t.get CMP_COMMIT_ERR_REASON = r ∧ t.get CMP_COMMIT_ERR_RGN = b2n g ∧
      (∀ k, i = some k → t.get CMP_COMMIT_ERR_INDEX = k % 8) ∧ t.get CMP_COMMIT_ERR_VALID = 1 ∧
      t.evLatched evCommitReject = true ∧ t.streams = s.streams := by
  obtain ⟨a, ht⟩ := s.commitRefused_eq n r i g
  simp only [ht]
  refine ⟨?_, ?_, ?_, fun k hk => ?_, ?_, State.evLatched_raise _ _, rfl⟩
  all_goals
    unfold State.raise
    simp (disch := decide) only [State.get_put_apart, State.get_put]
  · exact Nat.mod_eq_of_lt hn
  · exact Nat.mod_eq_of_lt hr
  · cases g <;> rfl
  · rw [hk]; rfl
  · rfl

/-! ### Slices (R220, R221) -/

section
variable {s : State} {n : Nat} {x : Stream} {f : SFrame} {rest : List SFrame} (hx : s.stream? n = some x)
  (hf : x.frames = f :: rest) (hm : stallsExecute s.mode = true) (hmem : s.memServes = true) (hcommit : commitDue x f.n = false)
include hx hf hm hmem hcommit

theorem composeSlice_of_ready (hdue : s.sliceDue f ≤ s.time) (hready : f.held = true ∨ s.linesReady f = true) :
    composeSlice n s = s.writeSlice x f rest false := by
  simp only [composeSlice, hx, hf]
  exact if_pos ⟨hm, hmem, by simp [hcommit], hdue, hready⟩

theorem sliceLateLimit_of_late (hdue : s.sliceDue f + 100000 ≤ s.time) (hheld : f.held = false)
    (hready : s.linesReady f = false) :
    sliceLateLimit n s =
      (((s.writeSlice x f rest true).inc CMP_LATE_COUNT).put CMP_LATE_STREAM n).raise evSliceLate := by
  simp only [sliceLateLimit, hx, hf]
  exact if_pos ⟨hm, hmem, by simp [hcommit], hdue, by simp [hheld], by simp [hready]⟩

end

/-! ### The statement of the composer -/

/-- The commands of the composer act by their functions. -/
theorem exec_cmpCommit (n : Nat) (s : State) : exec (.cmpCommit n) s = .next (cmpCommit n s) := rfl
theorem exec_commitValidated (room : Bool) (s : State) : exec (.commitValidated room) s = .next (commitValidated room s) := rfl
theorem exec_bedRebuildComplete (n : Nat) (s : State) : exec (.bedRebuildComplete n) s = .next (bedRebuildComplete n s) := rfl
theorem exec_commitTakeEffect (n : Nat) (s : State) : exec (.commitTakeEffect n) s = .next (commitTakeEffect n s) := rfl
theorem exec_composeSlice (n : Nat) (s : State) : exec (.composeSlice n) s = .next (composeSlice n s) := rfl
theorem exec_sliceLateLimit (n : Nat) (s : State) : exec (.sliceLateLimit n) s = .next (sliceLateLimit n s) := rfl

/-- Settles O35: each clause is the equation of the command it names, read off in the stream and the fields it puts. -/
theorem composerComplete : Obligations.ComposerComplete := by
  unfold Obligations.ComposerComplete
  simp only [exec_cmpCommit, exec_commitValidated, exec_bedRebuildComplete, exec_commitTakeEffect, exec_composeSlice,
    exec_sliceLateLimit, Host.Outcome.next.injEq]
  refine ⟨fun s n x hx => ⟨cmpCommit_starts hx, fun d room hv => ⟨fun r i g => commitValidated_of_failed hv,
      commitValidated_of_noRoom hv hx, commitValidated_of_noBeds hv hx, fun beds t hc => commitValidated_of_placed hv hx hc⟩,
      fun c hc => bedRebuildComplete_builds hx hc, fun c b hc hb htime hframes => ?_⟩,
    fun s n r i g => s.commitRefused_err i g,
    fun s n x f rest hx hf hm hmem hcommit =>
      ⟨composeSlice_of_ready hx hf hm hmem hcommit, sliceLateLimit_of_late hx hf hm hmem hcommit⟩⟩
  have heffect : c.effect = some (max (frameCeil (c.since + 100000)) (frameCeil b)) := by rw [Commit.effect, hb]; rfl
  obtain ⟨y, ht, hnum, hfields⟩ := commitTakeEffect_of_due hx hc heffect ⟨htime, hframes⟩
  refine ⟨_, y, ht, State.evLatched_raise _ _, ?_, hfields⟩
  rw [State.stream?_congr (State.raise_streams _ _)]
  exact State.stream?_replaceStream x hx (hnum.trans (State.stream?_num hx))

/-! ### The monitor port under boundary scan (R231, R518) -/

/-- While boundary scan holds the pins, nothing goes out through them. -/
theorem State.emit_of_pinsHeld {s : State} {o : Out} (ho : o.scanned = true) (h : s.pinsHeld = true) : s.emit o = s := by
  rw [State.emit, if_pos (by rw [ho, h]; rfl)]

theorem PortOnly.puts {s t : State} (h : PortOnly s t) (l : List (Fld × Nat)) : PortOnly s (t.puts l) := by
  obtain ⟨r, m, rfl⟩ := h
  exact ⟨_, m, State.puts_eq _ l⟩

theorem PortOnly.out {s t : State} (h : PortOnly s t) : t.out = s.out := by
  obtain ⟨r, m, rfl⟩ := h
  rfl

/-- A frame that ends while boundary scan holds the pads is not sent out. -/
theorem monFrameEnd_portOnly_of_pinsHeld (pads : Option Bytes) {s : State} (h : s.pinsHeld = true) :
    PortOnly s (monFrameEnd pads s) := by
  unfold monFrameEnd
  split
  · extract_lets sent a b t u m v
    have ht : t = s := State.emit_of_pinsHeld rfl h
    have hv : PortOnly s v := ((ht ▸ PortOnly.refl s : PortOnly s t).puts _).mon _
    split
    · exact hv
    · exact (hv.put _ _).raise _
  · exact PortOnly.refl s

theorem exec_monFrameEnd (pads : Option Bytes) (s : State) : exec (.monFrameEnd pads) s = .next (monFrameEnd pads s) := rfl

/-- Mode SERVE at debug level 2, with EXTEST in the instruction register of the TAP; the one active pixel of the frame has been sent. -/
def scannedMonitor : State :=
  { State.reset with
    mode := .serve, tapIr := 3, mon := { Monitor.reset with inFrame := true, h0 := 0x20001, v0 := 0x20001, sent := [1, 2, 3] } }.puts
      [(MON_CTL_EN, 1), (MON_STAT_ACTIVE, 1), (DBG_STATUS_LEVEL, 2)]

/-- Refutes O36: on `scannedMonitor` MON_FRAME_END ends the frame, but EXTEST holds the pads, so that no frame goes out (R518), where
the statement has one whatever the pins do. -/
theorem not_monitorAndEncoderComplete : ¬ Obligations.MonitorAndEncoderComplete := by
  unfold Obligations.MonitorAndEncoderComplete
  intro h
  obtain ⟨-, -, -, -, -, -, -, -, -, hend⟩ := h.1 scannedMonitor
  obtain ⟨t, ht, -, -, -, hout, -⟩ := hend none (by decide +kernel) (by decide +kernel)
  rw [exec_monFrameEnd] at ht
  rw [← Host.Outcome.next.inj ht, (monFrameEnd_portOnly_of_pinsHeld none (by decide +kernel)).out] at hout
  exact List.cons_ne_nil _ _ (List.self_eq_append_right.1 hout)

end Sys2Proof.Machine
end

section
/-! SUPPORT. The stream and audio commands of the mailbox (O50): what each command does with operands that it accepts, and the
answer that firmware then gives. -/
namespace Sys2Proof.Machine

/-! ### Answers (R421, R456) -/

/-- The codes whose commands are answered as they end, with the request left as it is and the mode kept (R155, R455, R458). -/
def answersAtOnce (code : Nat) : Bool :=
  code != ringDeleteCode && code != 0x56 && code != 0x11 && code != 0x20 && !secretCode code

/-- The row of such a code answers with what its command gives on the state that has taken the request. -/
theorem exec_answers {s x : State} {i : Instr} {code : Nat} {o : Outer} {f : Form} {c : Cmd} {r : Resp} (h : Accepts s code)
    (hi : exec i s = .next (mbxCmd code o s)) (hc : catalogue code = some (f, c)) (ha : answersAtOnce code = true)
    (hx : c (s.outer o) s.reqDwords s.reqN s.takeReq = (x, r)) : exec i s = .next (x.respond r) := by
  simp only [answersAtOnce, Bool.and_eq_true, bne_iff_ne, Bool.not_eq_true'] at ha
  obtain ⟨⟨⟨⟨hring, hmove⟩, hcommit⟩, hmode⟩, hsecret⟩ := ha
  rw [hi, mbxCmd_answers o h hc hring (State.moveWaits_none hmove) hcommit hmode hsecret hx]

/-- While the link is up a command has the parameter block that host memory gives. -/
theorem State.outer_host {s : State} (o : Outer) (h : s.linkUp = true) : (s.outer o).host = o.host := by
  rw [State.outer, if_pos h]

/-- Whether HBM has room does not depend on the link. -/
theorem State.outer_room (s : State) (o : Outer) : (s.outer o).room = o.room := by
  unfold State.outer
  split <;> rfl

theorem State.withStall_of_found {s : State} {k : Nat} {st : Stall} (h : s.stall? k = some st) (f : Stall → State × Resp) :
    s.withStall k f = f st := by
  rw [State.withStall, h]

theorem State.withStream_of_found {s : State} {n : Nat} {x : Stream} (h : s.stream? n = some x) (f : Stream → State × Resp) :
    s.withStream n f = f x := by
  rw [State.withStream, h]

/-! ### What a response and an allocation leave -/

theorem State.stall?_congr {s t : State} (h : t.stalls = s.stalls) (k : Nat) : t.stall? k = s.stall? k := by
  rw [State.stall?, State.stall?, h]

theorem State.puts_stalls (s : State) (l : List (Fld × Nat)) : (s.puts l).stalls = s.stalls := by rw [State.puts_eq]

theorem State.msix_stalls (s : State) (v : Nat) : (s.msix v).stalls = s.stalls := by
  rcases s.msix_cases v with h | h | h <;> rw [h]
  · rfl
  · unfold State.emit
    split <;> rfl

/-- A response changes no stall. -/
theorem State.respond_stalls (s : State) (r : Resp) : (s.respond r).stalls = s.stalls := by
  have hdata (l : List Nat) (g : Nat → Fld × Nat) (t : State) :
      (l.foldl (fun s k => s.put (g k).1 (g k).2) t).stalls = t.stalls := by
    simpa only [State.puts, List.foldl_map] using t.puts_stalls (l.map g)
  unfold State.respond
  extract_lets n h s1 s2 s3
  calc (s3.msix 0).stalls = s3.stalls := s3.msix_stalls 0
    _ = s2.stalls := s2.puts_stalls _
    _ = s1.stalls := hdata _ (fun k => (MBX_M2H_DATA_DATA.nth 4 (k + 1), nthD r.data k 0)) s1
    _ = s.stalls := State.put_stalls s _ _

theorem State.get_puts_apart (s : State) (f : Fld) (l : List (Fld × Nat)) (h : ∀ p ∈ l, p.1.fits = true ∧ p.1.apart f = true) :
    (s.puts l).get f = s.get f := by
  induction l generalizing s with
  | nil => rfl
  | cons p l ih =>
    obtain ⟨hp, hl⟩ := List.forall_mem_cons.1 h
    rw [State.puts_cons, ih _ hl, State.get_put_apart s _ _ _ hp.1 hp.2]

theorem extFld_fits (e : Nat) : (extFld e).fits = true := by
  have hw : 8 * ((0x810000 + e) % 8) + 0 + 3 ≤ 64 := by omega
  exact decide_eq_true hw

/-- The registers below MEM_EXT are apart from it. -/
theorem extFld_apart (e : Nat) {f : Fld} (hf : f.off < 0x810000) : (extFld e).apart f = true := by
  have hslot : (0x810000 + e) / 8 ≠ f.off / 8 := by omega
  simp [Fld.apart, extFld, hslot]

/-- An allocation gives extents of a shed, or draws an address. -/
theorem State.allocate_cases (s : State) (shed stack n : Nat) :
    (∃ l, (s.allocate shed stack n).2.2 = s.giveExts l shed) ∨ (s.allocate shed stack n).2.2 = { s with free := s.free + 1 } := by
  unfold State.allocate
  extract_lets k
  split
  · exact .inl ⟨_, rfl⟩
  · exact .inr rfl

theorem State.allocate_stalls (s : State) (shed stack n : Nat) : (s.allocate shed stack n).2.2.stalls = s.stalls := by
  rcases s.allocate_cases shed stack n with ⟨l, h⟩ | h
  · rw [h]
    exact s.puts_stalls _
  · rw [h]

/-- An allocation leaves the registers below MEM_EXT. -/
theorem State.allocate_get (s : State) (shed stack n : Nat) {f : Fld} (hf : f.off < 0x810000) :
    (s.allocate shed stack n).2.2.get f = s.get f := by
  rcases s.allocate_cases shed stack n with ⟨l, h⟩ | h
  · rw [h]
    refine s.get_puts_apart f _ fun p hp => ?_
    obtain ⟨e, -, rfl⟩ := List.mem_map.1 hp
    exact ⟨extFld_fits e, extFld_apart e hf⟩
  · rw [h]
    rfl

/-! ### Streams (R396, R462) -/

section
variable {o : Outer} {d : Nat → Nat} {m : Nat} {s : State}

/-- STREAM_CONFIG of a stall that exists, within the compose and encode budgets: the stream, created where it was not, is resized
and takes the settings. -/
theorem cmdStreamConfig_of_admitted {bs b : Bytes} {st : Stall} {y z : Stream} {e : Esd} {s1 s2 : State} (hhost : o.host = some bs)
    (hb : sliceBytes bs 0 64 = b) (he : Esd.settings b y.esd = e) (hst : s.stall? (d 1 / 4) = some st)
    (hrate : s.pixelRate (d 1) (d 2 % 65536) (d 2 / 65536) (bitAt (d 3) 24) ≤ 40000000000) (hy : s.streamOr (d 1) = (y, s1))
    (hesd : esdErr b e (d 2 % 65536) (d 2 / 65536) = none) (henc : s.encErr (d 1) (d 2 % 65536) (d 2 / 65536) e = none)
    (hz : s1.resized y e (d 2 % 65536) (d 2 / 65536)
      (fun old => streamHeader old (d 1) (d 2 % 65536) (d 2 / 65536) (d 3 % 2 ^ 24) (bitAt (d 3) 24)) = (z, s2)) :
    cmdStreamConfig o d m s = (((s2.settleBucket (d 1)).setStream (z.withEsd e)).recost, .ok) := by
  subst hb he
  have hfound : ¬(s.stall? (d 1 / 4)).isNone = true := by simp [hst]
  unfold cmdStreamConfig
  simp only [hhost, if_neg hfound, if_neg (Nat.not_lt.2 hrate), hy, hesd, henc, Option.or_none, hz]

/-- The network descriptor that STREAM_NET loads: what the packet engine writes stays as it is (R396). -/
def State.netKept (s : State) (n : Nat) (b : Bytes) : Bytes :=
  match s.net? n with
  | some t => putBytes (putBytes b 60 (sliceBytes t.desc 60 12)) 84 (sliceBytes t.desc 84 4)
  | none => b

/-- STREAM_NET of a stream that exists; an enabled descriptor has a service address of the device, conflicts with no flow or stream and
fits its port. -/
theorem cmdStreamNet_of_admitted {bs b : Bytes} {x : Stream} (hhost : o.host = some bs) (hb : sliceBytes bs 0 128 = b)
    (hx : s.stream? (d 1) = some x) (hres : netReserved b = false)
    (hserve : ndEn b = true → s.service (netIpv6 b) (descAddr b 16 (netIpv6 b)) = true)
    (hfree : ndEn b = true →
      s.conflict (netIpv6 b) (descAddr b 16 (netIpv6 b)) (descAddr b 32 (netIpv6 b)) (leAt b 12 2) (leAt b 14 2) (true, d 1) = false)
    (hload : ndEn b = true → s.portLoad (d 1) (ndPort b) true ≤ 90000000)
    (hburst : leAt b 56 2 ≤ leAt b 80 4) :
    let v := (s.resolveHop b).2
    cmdStreamNet o d m s = ((v.hbmWrite (v.sndAddr (d 1)) (v.netKept (d 1) (s.resolveHop b).1)).loadEntry 1 (d 1), .ok) := by
  subst hb
  have hfound : ¬(s.stream? (d 1)).isNone = true := by simp [hx]
  unfold cmdStreamNet
  simp only [hhost, if_neg hfound, hres, Bool.false_eq_true, if_false]
  rw [if_neg fun h => by simp [hserve h.1] at h, if_neg fun h => by simp [hfree h.1] at h, if_neg (Nat.not_lt.2 hburst),
    if_neg fun h => Nat.not_lt.2 (hload h.1) h.2]
  rfl

theorem State.shadowPut_of_found {n : Nat} {x : Stream} (hx : s.stream? n = some x) (a : Nat) (bs : Bytes) :
    s.shadowPut n a bs = (s.setStream { x with shadow := putBytes x.shadow a bs }, .ok) :=
  State.withStream_of_found hx _

section
variable {x : Stream} (hx : s.stream? (d 1) = some x)
include hx

/-- STREAM_COMMIT of a shadow that its validation does not refuse. -/
theorem cmdStreamCommit_of_valid {room : Bool} (hroom : o.room = room)
    (hvalid : (commitValidated room s).refuses x room = false) :
    cmdStreamCommit o d m s = (commitValidated room (cmpCommit (d 1) (commitValidated room s)), .ok) := by
  subst hroom
  rw [cmdStreamCommit, State.withStream_of_found hx]
  simp only [hvalid, Bool.false_eq_true, if_false]

theorem cmdStreamKeyframe_of_found :
    cmdStreamKeyframe o d m s = (s.setStream { x with esd := { x.esd with keyreq := true } }, .ok) :=
  State.withStream_of_found hx _

theorem cmdStreamQuery_of_net {t : NetStream} (ht : s.net? x.num = some t) :
    cmdStreamQuery o d m s = (s, .ok [leAt x.act 32 4, x.esd.rateNow, leAt t.desc 84 4]) := by
  rw [cmdStreamQuery, State.withStream_of_found hx, ht]

theorem cmdStreamDestroy_of_found : cmdStreamDestroy o d m s = (s.dropStreams fun n => n == x.num, .ok) :=
  State.withStream_of_found hx _

end
end

/-! ### Audio lanes (R284, R289, R294, R462) -/

section
variable {o : Outer} {d : Nat → Nat} {m : Nat} {s : State} {st : Stall}

/-- The lane that a stall has, or a new one. -/
def State.laneOr (s : State) (st : Stall) : Lane × State :=
  match st.lane with
  | some l => (l, s)
  | none => s.newLane st

theorem State.laneOr_stalls (s : State) (st : Stall) : (s.laneOr st).2.stalls = s.stalls := by
  unfold State.laneOr
  split
  · rfl
  · exact State.allocate_stalls _ _ _ _

/-- The host memory window stays where it is. -/
theorem State.laneOr_window (s : State) (st : Stall) : (s.laneOr st).2.get MEM_HOSTWIN_BASE = s.get MEM_HOSTWIN_BASE := by
  unfold State.laneOr
  split
  · rfl
  · exact State.allocate_get _ _ _ _ (by decide)

/-- LANE_CONFIG that enables a lane: with a legal bit rate for Opus and an operator ring in the host window, or none, the stall's lane
has the operands. -/
theorem cmdLaneConfig_of_codec (hst : s.stall? (d 1 % 4096) = some st) (hcodec : field (d 1) 12 8 = 4 ∨ field (d 1) 12 8 = 5)
    (hring : wide d 4 ≠ 0 → s.inWindow (wide d 4) = true ∧ wide d 4 % 64 = 0 ∧ d 6 % 64 = 0 ∧ 4096 ≤ d 6)
    (hrate : field (d 1) 12 8 = 4 → 16 ≤ d 2 ∧ d 2 ≤ 256 ∧ d 2 % 8 = 0) (hch : field (d 1) 20 2 = 1 ∨ field (d 1) 20 2 = 2) :
    ∃ l, cmdLaneConfig o d m s = ((s.laneOr st).2.setStall { st with lane := some l }, .ok) ∧ l.codec = field (d 1) 12 8 ∧
      l.channels = field (d 1) 20 2 ∧ l.streams = field (d 1) 22 4 ∧ l.bitrate = d 2 ∧ l.gameGain = d 3 % 65536 ∧
      l.opGain = d 3 / 65536 ∧
      l.opAddr = (if wide d 4 = 0 then 0 else 0x8000000000 + (wide d 4 - s.get MEM_HOSTWIN_BASE * 4096)) ∧ l.opSize = d 6 := by
  rw [cmdLaneConfig, State.withStall_of_found hst, ← State.laneOr_window s st]
  refine ⟨_, (if_neg ?arg).trans ((if_neg ?rate).trans ((if_neg ?outbuf).trans (if_neg (by omega)))),
    rfl, rfl, rfl, rfl, rfl, rfl, rfl, rfl⟩
  case arg =>
    rintro (h | ⟨h0, hw⟩)
    · omega
    · simp [(hring h0).1] at hw
  case rate =>
    rintro ⟨h4, h⟩
    have := hrate h4
    omega
  case outbuf =>
    rintro (h | ⟨h0, h⟩)
    · omega
    · have := hring h0
      omega

/-- LANE_CONFIG with CODEC 0 removes the lane and frees its extents. -/
theorem cmdLaneConfig_of_off (hst : s.stall? (d 1 % 4096) = some st) (hcodec : field (d 1) 12 8 = 0) (hring : wide d 4 = 0)
    (hch : field (d 1) 20 2 = 1 ∨ field (d 1) 20 2 = 2) :
    cmdLaneConfig o d m s =
      (((s.giveExts (match st.lane with | some l => l.exts | none => []) 0).setStall { st with lane := none }).showRamp, .ok) := by
  rw [cmdLaneConfig, State.withStall_of_found hst]
  refine (if_neg ?arg).trans ((if_neg ?rate).trans ((if_neg ?outbuf).trans (if_pos hcodec)))
  case arg => simp [hcodec, hring]
  case rate => simp [hcodec]
  case outbuf =>
    have hchannels : ¬(field (d 1) 20 2 ≠ 1 ∧ field (d 1) 20 2 ≠ 2) := by omega
    simp [hring, hchannels]

/-- LANE_OPWR of a dword within the operator ring. -/
theorem cmdLaneOpwr_of_lane {l : Lane} (hst : s.stall? (d 1) = some st) (hl : st.lane = some l) (hlt : d 2 < l.opSize)
    (hdw : d 2 % 4 = 0) : cmdLaneOpwr o d m s = (s.setStall { st with lane := some { l with opWr := d 2 } }, .ok) := by
  have hok : ¬(l.opSize ≤ d 2 ∨ d 2 % 4 ≠ 0) := by omega
  rw [cmdLaneOpwr, State.withStall_of_found hst]
  simp only [hl, if_neg hok]

/-- The state with the graph that GRAPH_LOAD brings in the inactive copy of a stall's lane. -/
def State.putGraph (s : State) (k : Nat) (g : Graph) : State :=
  s.onStall k fun x => { x with lane := x.lane.map fun l => l.putOther g }

/-- GRAPH_LOAD of a graph that passes its check, while no swap of the lane waits. -/
theorem cmdGraphLoad_of_valid {bs : Bytes} {g : Graph} (hst : s.stall? (d 1 % 4096) = some st) (hhost : o.host = some bs)
    (hlo : 16 ≤ d 4) (hhi : d 4 ≤ 784) (hg : Graph.ofBytes (sliceBytes (sliceBytes bs 0 (d 4)) 0 784) = g)
    (hidle : ∀ l, ((audSwapValidated s).stall? st.num).bind (·.lane) = some l → l.swapState = 0)
    (hcheck : swapCheck (((audSwapValidated s).putGraph st.num g).stall? st.num) = 0) :
    cmdGraphLoad o d m s =
      (audSwapValidated (audSwap st.num (bitAt (d 1) 12) ((audSwapValidated s).putGraph st.num g)), .ok) := by
  subst hg
  have hlen : ¬(d 4 < 16 ∨ 784 < d 4) := by omega
  rw [cmdGraphLoad, State.withStall_of_found hst]
  simp only [if_neg hlen, hhost]
  refine (if_neg ?_).trans (if_pos hcheck)
  cases hl : ((audSwapValidated s).stall? st.num).bind (·.lane) with
  | none => simp
  | some l => simp [hidle l hl]

end

/-! ### The statement -/

/-- Settles O50: each clause is the answer of `exec_answers` to what its command does on the state that has taken the request. -/
theorem streamAndAudioCommandsComplete : Obligations.StreamAndAudioCommandsComplete := by
  unfold Obligations.StreamAndAudioCommandsComplete
  intro s w d answers
  refine ⟨?config, ?netOff, ?netOn, ?shadow, ?stream, ?lane, ?opwr⟩
  case config =>
    intro bs st y z s1 s2 b n wd ht e ha hlink hst hrate hy hesd henc hz
    exact exec_answers ha rfl rfl rfl
      (cmdStreamConfig_of_admitted (State.outer_host _ hlink) rfl rfl hst hrate hy hesd henc hz)
  case netOff =>
    intro bs x b n ha hlink hx hres hen hburst
    have hoff {p : Prop} (h : ndEn b = true) : p := absurd h (ne_true_of_eq_false hen)
    exact exec_answers ha rfl rfl rfl
      (cmdStreamNet_of_admitted (State.outer_host _ hlink) rfl hx hres (fun h => hoff h) (fun h => hoff h) (fun h => hoff h) hburst)
  case netOn =>
    intro bs x b n ip ha hlink hx hres hen hserve hfree hburst hload
    exact exec_answers ha rfl rfl rfl
      (cmdStreamNet_of_admitted (State.outer_host _ hlink) rfl hx hres (fun _ => hserve) (fun _ => hfree) (fun _ => hload) hburst)
  case shadow =>
    intro x n i hx
    exact ⟨fun ha => exec_answers ha rfl rfl rfl (State.shadowPut_of_found hx _ _),
      fun ha => exec_answers ha rfl rfl rfl (State.shadowPut_of_found hx _ _)⟩
  case stream =>
    intro x hx
    exact ⟨fun room ha hvalid => exec_answers ha rfl rfl rfl (cmdStreamCommit_of_valid hx (State.outer_room _ _) hvalid),
      fun ha => exec_answers ha rfl rfl rfl (cmdStreamKeyframe_of_found hx),
      fun t ha ht => exec_answers ha rfl rfl rfl (cmdStreamQuery_of_net hx ht),
      fun ha => exec_answers ha rfl rfl rfl (cmdStreamDestroy_of_found hx)⟩
  case lane =>
    intro st codec a hst
    refine ⟨fun ha hcodec hring hrate hch => ?_, fun ha hcodec hring hch => ?_, ?_⟩
    · obtain ⟨l, hcmd, hfields⟩ := cmdLaneConfig_of_codec hst hcodec hring hrate hch
      refine ⟨_, { st with lane := some l }, l, exec_answers ha rfl rfl rfl hcmd, ?_, rfl, hfields⟩
      have hthere : (w.laneOr st).2.stall? (d 1 % 4096) = some st := (State.stall?_congr (w.laneOr_stalls st) _).trans hst
      rw [State.stall?_congr (State.respond_stalls _ _)]
      exact State.stall?_setStall_same _ _ st _ hthere (State.stall?_num hst :)
    · exact exec_answers ha rfl rfl rfl (cmdLaneConfig_of_off hst hcodec hring hch)
    · intro bs g x ha hlink hlo hhi hidle hcheck
      exact exec_answers ha rfl rfl rfl
        (cmdGraphLoad_of_valid hst (State.outer_host _ hlink) hlo hhi rfl hidle hcheck)
  case opwr =>
    intro st l ha hst hl hlt hdw
    exact exec_answers ha rfl rfl rfl (cmdLaneOpwr_of_lane hst hl hlt hdw)

end Sys2Proof.Machine
end

section
/-! SUPPORT. The audio engine: beam samples, the routing graph and its swaps, and stream audio frames (O37). -/
namespace Sys2Proof.Machine

/-! ### Registers and stalls under the engine's updates (R7, R468) -/

@[simp] theorem State.raise_stalls (s : State) (n : Nat) : (s.raise n).stalls = s.stalls := rfl
@[simp] theorem State.raise_swapReq (s : State) (n : Nat) : (s.raise n).swapReq = s.swapReq := rfl
@[simp] theorem State.inc_stalls (s : State) (f : Fld) : (s.inc f).stalls = s.stalls := rfl

/-- The bits of two events are apart. -/
theorem event_apart {m n : Nat} (h : m ≠ n) :
    (⟨0x10140 + 4 * (m / 32), m % 32, 1⟩ : Fld).apart ⟨0x10140 + 4 * (n / 32), n % 32, 1⟩ = true := by
  simp only [Fld.apart, Bool.or_eq_true, decide_eq_true_eq]
  omega

/-- An event that is latched stays latched when an event is raised. -/
theorem State.evLatched_raise_of_latched {s : State} {n : Nat} (m : Nat) (h : s.evLatched n = true) :
    (s.raise m).evLatched n = true := by
  by_cases e : m = n
  · subst e
    exact State.evLatched_raise s m
  · rw [State.evLatched, State.raise, State.get_put_apart s _ _ _ (event_fits m) (event_apart e)]
    exact h

theorem State.setStall_stalls_congr {s t : State} (h : t.stalls = s.stalls) (x : Stall) :
    (t.setStall x).stalls = (s.setStall x).stalls := by
  rw [State.setStall, State.setStall, h]

theorem State.onStall_of_found {s : State} {k : Nat} {st : Stall} (h : s.stall? k = some st) (f : Stall → Stall) :
    s.onStall k f = s.setStall (f st) := by
  rw [State.onStall, h]

/-- Writing a record into a ring changes no stall. -/
theorem State.ringWrite_stalls (s : State) (base wr : Nat) (pad : Bool) (head : Bytes → Bytes) (at_ : Nat) (rec : Bytes) :
    (s.ringWrite base wr pad head at_ rec).stalls = s.stalls := by
  unfold State.ringWrite
  split <;> rfl

/-! ### Beam samples (R267) -/

section
variable {s : State} {k slot : Nat} {st : Stall} (hlive : s.live k = some (st, slot))
include hlive

/-- The memory controllers serve wherever a stall is live (R383). -/
theorem State.live_memServes : s.memServes = true := by
  unfold State.live at hlive
  split at hlive
  · next hserve =>
    simp only [Bool.and_eq_true] at hserve
    obtain ⟨⟨-, hmem⟩, -⟩ := hserve
    exact hmem
  · cases hlive

theorem beamSampleStep_of_ready (hready : sampleReady s st = true) (hnext : sampleNext s st = true) (hmode : s.mode ≠ .conformance) :
    beamSampleStep k s = s.setStall (beamSample st) := by
  simp [beamSampleStep, hlive, hready, hnext, hmode]

/-! ### The routing graph (R282 – R286) -/

variable {l : Lane} (hlane : st.lane = some l)
include hlane

section
variable (hen : s.get AUD_CTL_EN = 1) (hcodec : l.codec ≠ 0) (hpos : st.spos = l.gpos + 1)
include hen hcodec hpos

/-- A sample without a swap is routed through the graph in use. -/
theorem graphSample_of_stays (hmay : swapMay s st l = false) :
    graphSample k s =
      (s.setStall { st with lane := some (routeSample st.cls st.voices (st.mixL, st.mixR) l) }).showRamp := by
  simp [graphSample, hlive, hlane, hen, hcodec, hpos, hmay]

/-- At a swap the sample is routed through the new graph; the swap, and a fallback of the new graph, are reported. -/
theorem graphSample_of_swaps (hmay : swapMay s st l = true) :
    graphSample k s =
      let t := (s.setStall { st with
        lane := some (routeSample st.cls st.voices (st.mixL, st.mixR) (swapNow st.cls l)) }).showRamp.raise evSwapDone
      if (swapNow st.cls l).fallback then t.raise evFallback else t := by
  simp [graphSample, hlive, hlane, hen, hcodec, hpos, hmay]

end
end

/-! ### Safe-load of graphs (R284, R285) -/

/-- The state with no swap request. -/
def State.noSwapReq (s : State) : State := { s with swapReq := none }

@[simp] theorem State.noSwapReq_stalls (s : State) : s.noSwapReq.stalls = s.stalls := rfl
@[simp] theorem State.noSwapReq_swapReq (s : State) : s.noSwapReq.swapReq = none := rfl
@[simp] theorem State.get_noSwapReq (s : State) (f : Fld) : s.noSwapReq.get f = s.get f := rfl

/-- The state in which firmware has taken up the swap request. -/
def State.swapTaken (s : State) : State := (s.put AUD_SWAP_BUSY 0).noSwapReq

@[simp] theorem State.swapTaken_stalls (s : State) : s.swapTaken.stalls = s.stalls := by
  rw [State.swapTaken, State.noSwapReq_stalls, State.put_stalls]

@[simp] theorem State.swapTaken_swapReq (s : State) : s.swapTaken.swapReq = none := State.noSwapReq_swapReq _

theorem State.swapTaken_busy (s : State) : s.swapTaken.get AUD_SWAP_BUSY = 0 := by
  rw [State.swapTaken, State.get_noSwapReq, State.get_put s _ _ (by decide), Nat.zero_mod]

theorem State.puts_swapReq (s : State) (l : List (Fld × Nat)) : (s.puts l).swapReq = s.swapReq := by rw [State.puts_eq]

/-- AUD_SWAP_ERR and the event of a swap of stall k that is refused for reason r (R284). -/
def State.swapRefused (s : State) (k r : Nat) : State :=
  (s.puts [(AUD_SWAP_ERR_STALL, k), (AUD_SWAP_ERR_REASON, r), (AUD_SWAP_ERR_VALID, 1)]).raise evSwapReject

section
variable (s : State) (k r : Nat)

@[simp] theorem State.swapRefused_stalls : (s.swapRefused k r).stalls = s.stalls := by
  rw [State.swapRefused, State.raise_stalls, State.puts_stalls]

@[simp] theorem State.swapRefused_swapReq : (s.swapRefused k r).swapReq = s.swapReq := by
  rw [State.swapRefused, State.raise_swapReq, State.puts_swapReq]

theorem State.swapRefused_busy : (s.swapRefused k r).get AUD_SWAP_BUSY = s.get AUD_SWAP_BUSY := by
  simp (disch := decide) only [State.swapRefused, State.raise, State.puts_cons, State.puts_nil, State.get_put_apart]

theorem State.swapRefused_stall : (s.swapRefused k r).get AUD_SWAP_ERR_STALL = k % 4096 := by
  simp (disch := decide) only [State.swapRefused, State.raise, State.puts_cons, State.puts_nil, State.get_put_apart]
  exact State.get_put _ _ _ (by decide)

theorem State.swapRefused_reason : (s.swapRefused k r).get AUD_SWAP_ERR_REASON = r % 16 := by
  simp (disch := decide) only [State.swapRefused, State.raise, State.puts_cons, State.puts_nil, State.get_put_apart]
  exact State.get_put _ _ _ (by decide)

theorem State.swapRefused_valid : (s.swapRefused k r).get AUD_SWAP_ERR_VALID = 1 := by
  simp (disch := decide) only [State.swapRefused, State.raise, State.puts_cons, State.puts_nil, State.get_put_apart]
  exact State.get_put _ _ _ (by decide)

theorem State.swapRefused_event : (s.swapRefused k r).evLatched evSwapReject = true := State.evLatched_raise _ _

end

section
variable {s : State} {k : Nat} {ramp : Bool}

theorem audSwap_of_free (hfw : fwRuns s.mode = true) (hbusy : s.get AUD_SWAP_BUSY = 0) :
    audSwap k ramp s = { s.put AUD_SWAP_BUSY 1 with swapReq := some (k, ramp) } := by
  have hstart : ¬((!fwRuns s.mode) = true ∨ s.get AUD_SWAP_BUSY = 1) := by simp [hfw, hbusy]
  rw [audSwap, if_neg hstart]

variable {st : Stall} (hreq : s.swapReq = some (k, ramp)) (hst : s.stall? k = some st)

include hreq hst

/-- A swap that its check allows is pending; one that it refuses is recorded, with the reason. -/
theorem audSwapValidated_eq : audSwapValidated s =
      if swapCheck (some st) = 0 then
        s.swapTaken.setStall { st with lane := st.lane.map fun l => { l with swapState := 1, swapRamp := ramp } }
      else s.swapTaken.swapRefused k (swapCheck (some st)) := by
  have hfound : s.swapTaken.stall? k = some st := (State.stall?_congr s.swapTaken_stalls k).trans hst
  unfold audSwapValidated
  split
  · next h => rw [hreq] at h; cases h
  · next k' ramp' h =>
    rw [hreq] at h
    cases h
    change (match swapCheck (s.swapTaken.stall? k) with | 0 => s.swapTaken.onStall k _ | _ => s.swapTaken.swapRefused k _) = _
    rw [hfound]
    split
    · next hz => rw [if_pos hz, State.onStall_of_found hfound]
    · next hne => rw [if_neg hne]

/-- A lane that is on, with no swap pending and a valid inactive graph: the swap is pending. -/
theorem audSwapValidated_of_valid {l : Lane} (hlane : st.lane = some l) (hcodec : l.codec ≠ 0) (hidle : l.swapState = 0)
    (hgraph : l.otherG.check = 0) :
    audSwapValidated s = s.swapTaken.setStall { st with lane := some { l with swapState := 1, swapRamp := ramp } } := by
  have hcheck : swapCheck (some st) = 0 := by simp [swapCheck, hlane, hcodec, hidle, hgraph]
  rw [audSwapValidated_eq hreq hst, if_pos hcheck, hlane, Option.map_some]

end

/-! ### Stream audio frames (R287 – R292) -/

/-- The stalls of `u` are those of `s`, but that the lane of `st` forms frame q next. -/
def FramesNext (s : State) (st : Stall) (q : Nat) (u : State) : Prop :=
  ∃ m : Lane, m.frame = q ∧ u.stalls = (s.setStall { st with lane := some m }).stalls

theorem FramesNext.of_setStall {s t : State} (h : t.stalls = s.stalls) (st : Stall) (m : Lane) :
    FramesNext s st m.frame (t.setStall { st with lane := some m }) :=
  ⟨m, rfl, State.setStall_stalls_congr h _⟩

theorem FramesNext.of_stalls {s t u : State} {st : Stall} {q : Nat} (h : FramesNext s st q t) (hu : u.stalls = t.stalls) :
    FramesNext s st q u := by
  obtain ⟨m, hm, ht⟩ := h
  exact ⟨m, hm, hu.trans ht⟩

/-- Counting a gap or an underrun changes no stall. -/
theorem State.counted_stalls (s : State) (c : Bool) (f g : Fld) (k n : Nat) :
    (if c then ((s.inc f).put g k).raise n else s).stalls = s.stalls := by
  split
  · rw [State.raise_stalls, State.put_stalls, State.inc_stalls]
  · rfl

/-- A frame formed at its time, whether the ring has room for it or not, leaves the lane at its next frame. -/
theorem audioFrameForm_of_due {s : State} {k slot f0 : Nat} {st : Stall} {l : Lane} (op : Bytes) (hlive : s.live k = some (st, slot))
    (hlane : st.lane = some l) (hf0 : st.f0 = some f0) (hen : s.get AUD_CTL_EN = 1) (hcodec : l.codec ≠ 0)
    (hdue : formTime f0 l.frame ≤ s.time) : FramesNext s st (l.frame + 1) (audioFrameForm k op s) := by
  have hst := State.live_stall hlive
  obtain ⟨hexec, -⟩ := State.live_runs hlive
  unfold audioFrameForm
  split
  case h_1 h => rw [hst] at h; cases h
  case h_2 st' h =>
  obtain rfl : st = st' := Option.some.inj (hst.symm.trans h)
  split
  case h_2 h => exact absurd hf0 (h _ _ hlane)
  case h_1 l' f0' hl' hf' =>
  obtain rfl : l = l' := Option.some.inj (hlane.symm.trans hl')
  obtain rfl : f0 = f0' := Option.some.inj (hf0.symm.trans hf')
  extract_lets +onlyGivenNames q
  rw [if_pos ⟨hexec, State.live_memServes hlive, hen, hcodec, hdue⟩]
  extract_lets +onlyGivenNames held pcm bs gap avail under outp codec
  split
  next pay t hpay =>
  extract_lets +onlyGivenNames fl hd record m t1 t2
  have ht : t.stalls = s.stalls := by
    have hsnd := congrArg (fun p => p.2.stalls) hpay
    refine hsnd.symm.trans ?_
    split <;> rfl
  have ht2 : t2.stalls = s.stalls := ((t1.counted_stalls _ _ _ _ _).trans (t.counted_stalls _ _ _ _ _)).trans ht
  have hframe : l.frame + 1 = m.frame := rfl
  clear_value t2 m
  rw [hframe]
  split
  · next pad at_ wr _ =>
    exact .of_setStall ((t2.ringWrite_stalls _ _ _ _ _ _).trans ht2) st { m with wr, pcm := if pcm then m.pcm ++ [at_] else m.pcm }
  · exact (FramesNext.of_setStall ht2 st m).of_stalls (by rw [State.raise_stalls, State.put_stalls, State.inc_stalls])

/-! ### The statement -/

/-- The commands of the audio engine act by their functions. -/
theorem exec_beamSample (k : Nat) (s : State) : exec (.beamSample k) s = .next (beamSampleStep k s) := rfl
theorem exec_graphSample (k : Nat) (s : State) : exec (.graphSample k) s = .next (graphSample k s) := rfl
theorem exec_audSwap (k : Nat) (ramp : Bool) (s : State) : exec (.audSwap k ramp) s = .next (audSwap k ramp s) := rfl
theorem exec_audSwapValidated (s : State) : exec .audSwapValidated s = .next (audSwapValidated s) := rfl
theorem exec_audioFrameForm (k : Nat) (op : Bytes) (s : State) : exec (.audioFrameForm k op) s = .next (audioFrameForm k op s) := rfl

/-- Settles O37: each clause is the equation of the command it names, read off in the fields and the stall it puts. -/
theorem audioComplete : Obligations.AudioComplete := by
  unfold Obligations.AudioComplete
  intro s k slot st l hlive hlane
  have hst := State.live_stall hlive
  have hnum := State.stall?_num hst
  simp only [exec_beamSample, exec_graphSample, exec_audSwap, exec_audSwapValidated, exec_audioFrameForm, Host.Outcome.next.injEq]
  refine ⟨beamSampleStep_of_ready hlive, graphSample_of_stays hlive hlane, ?swap, fun ramp => audSwap_of_free, ?valid, ?refused, ?form⟩
  case swap =>
    intro hen hcodec hpos hmay
    refine ⟨_, rfl, ?_⟩
    rw [graphSample_of_swaps hlive hlane hen hcodec hpos hmay]
    dsimp only
    split
    · exact ⟨State.evLatched_raise_of_latched _ (State.evLatched_raise _ _), by
        rw [State.raise_stalls, State.raise_stalls, State.showRamp, State.put_stalls]⟩
    · exact ⟨State.evLatched_raise _ _, by rw [State.raise_stalls, State.showRamp, State.put_stalls]⟩
  case valid =>
    intro ramp hreq hcodec hidle hgraph
    refine ⟨_, audSwapValidated_of_valid hreq hst hlane hcodec hidle hgraph, ?_, ?_, ?_⟩
    · rw [State.get_setStall, State.swapTaken_busy]
    · rw [State.setStall_swapReq, State.swapTaken_swapReq]
    · exact State.stall?_setStall_same _ _ st k ((State.stall?_congr s.swapTaken_stalls k).trans hst) hnum
  case refused =>
    intro ramp hreq hcheck hk
    refine ⟨_, (audSwapValidated_eq hreq hst).trans (if_neg hcheck), ?_, ?_, ?_, ?_, State.swapRefused_reason _ _ _,
      State.swapRefused_valid _ _ _, State.swapRefused_event _ _ _⟩
    · rw [State.swapRefused_busy, State.swapTaken_busy]
    · rw [State.swapRefused_swapReq, State.swapTaken_swapReq]
    · rw [State.swapRefused_stalls, State.swapTaken_stalls]
    · rw [State.swapRefused_stall, Nat.mod_eq_of_lt hk]
  case form =>
    intro f0 op hf0 hen hcodec hdue
    obtain ⟨m, hm, hstalls⟩ := audioFrameForm_of_due op hlive hlane hf0 hen hcodec hdue
    refine ⟨_, { st with lane := some m }, m, rfl, ?_, rfl, hm⟩
    rw [State.stall?_congr hstalls]
    exact State.stall?_setStall_same _ _ st k hst hnum

end Sys2Proof.Machine
end

section
/-! SUPPORT. What the effects of a program leave of the command queues of its stall, and when a command acts (O38). -/
namespace Sys2Proof.Machine

/-! ### The command queues of subchannels (R316) -/

theorem setNth_eq_set {α : Type} (l : List α) (i : Nat) (x : α) : setNth l i x = l.set i x := by
  induction l generalizing i with
  | nil => rfl
  | cons y l ih =>
    cases i with
    | zero => rfl
    | succ i => exact congrArg (y :: ·) (ih i)

theorem Stall.sub_congr {a b : Stall} (h : a.subs = b.subs) (j : Nat) : a.sub j = b.sub j := by rw [Stall.sub, Stall.sub, h]

theorem Stall.sub_eq (st : Stall) (i : Nat) : st.sub i = st.subs[i]?.getD .reset := List.getD_eq_getElem?_getD

theorem Stall.sub_setSub (st : Stall) (i j : Nat) (x : Sub) :
    (st.setSub i x).sub j = if i = j ∧ i < st.subs.length then x else st.sub j := by
  rw [Stall.sub_eq, Stall.sub_eq, Stall.setSub, setNth_eq_set, List.getElem?_set]
  by_cases hj : i = j
  · subst hj
    by_cases hi : i < st.subs.length
    · simp [hi]
    · simp [hi]
  · simp [hj]

/-- A subchannel that holds a command exists. -/
theorem Stall.lt_of_cmds {st : Stall} {i : Nat} (h : (st.sub i).cmds ≠ []) : i < st.subs.length := by
  by_contra hi
  rw [Stall.sub_eq, List.getElem?_eq_none (Nat.le_of_not_lt hi)] at h
  exact h rfl

theorem Stall.setSub_cmds {st : Stall} {i : Nat} {x : Sub} (h : x.cmds = (st.sub i).cmds) (j : Nat) :
    ((st.setSub i x).sub j).cmds = (st.sub j).cmds := by
  rw [Stall.sub_setSub]
  split
  · next hj => rw [h, hj.1]
  · rfl

@[simp] theorem markDirty_subs (st : Stall) (k : Nat) : (markDirty st k).subs = st.subs := by
  unfold markDirty
  split
  · rfl
  · split <;> rfl

@[simp] theorem addStamps_subs (st : Stall) (xs : List Stamp) : (addStamps st xs).subs = st.subs := by
  unfold addStamps
  split <;> rfl

@[simp] theorem agentByte_subs (st : Stall) (e o a : Nat) (v : Byte) : (agentByte st e o a v).subs = st.subs := by
  unfold agentByte
  split
  · dsimp only
    split <;> exact markDirty_subs st _
  · rfl

@[simp] theorem agentBytes_subs (st : Stall) (e o a : Nat) (bs : Bytes) : (agentBytes st e o a bs).subs = st.subs := by
  induction bs generalizing st a with
  | nil => rfl
  | cons b bs ih => exact (ih _ _).trans (agentByte_subs _ _ _ _ _)

@[simp] theorem settleAgent_subs (st : Stall) (e a n : Nat) : (settleAgent st e a n).subs = st.subs := by
  unfold settleAgent
  split <;> rfl

@[simp] theorem agentWrite_subs (st : Stall) (src e o a : Nat) (bs : Bytes) : (agentWrite st src e o a bs).subs = st.subs := by
  simp [agentWrite]

@[simp] theorem assertLine_subs (st : Stall) (l a : Nat) : (assertLine st l a).subs = st.subs := by
  unfold assertLine
  split <;> rfl

/-- A post, an effect and the flush of effects leave every subchannel's commands. -/
theorem makePost_cmds (st : Stall) (i : Nat) (p : Post) (tick : Nat) (entered : Bool) (j : Nat) :
    ((makePost st i p tick entered).sub j).cmds = (st.sub j).cmds := by
  have hpost := Stall.setSub_cmds (x := (st.sub i).posted p tick) rfl j
  unfold makePost
  extract_lets x z bs w
  have hw : w.subs = (st.setSub i x).subs := (apply_ite Stall.subs _ _ z).trans (ite_self _)
  rw [← hpost, Stall.sub_congr (b := st.setSub i x)]
  rw [apply_ite Stall.subs, assertLine_subs, ite_self, hw]

theorem applyPend_cmds (st : Stall) (p : Pend) (j : Nat) : ((applyPend st p).sub j).cmds = (st.sub j).cmds := by
  unfold applyPend
  extract_lets x b y
  have hx : (x.sub j).cmds = (st.sub j).cmds := by
    rw [Stall.sub_congr (b := st)]
    unfold x
    split
    · rfl
    · split <;> simp
  have hy : (y.sub j).cmds = (x.sub j).cmds := by
    unfold y
    split
    · exact Stall.setSub_cmds (by rfl) j
    · rfl
  split
  · rw [makePost_cmds, hy, hx]
  · rw [hy, hx]

theorem applyDue_cmds (l : List Pend) (st : Stall) (j : Nat) : ((applyDue l st).sub j).cmds = (st.sub j).cmds := by
  induction l generalizing st with
  | nil => rfl
  | cons p r ih =>
    unfold applyDue
    split
    · exact (ih _).trans (applyPend_cmds st p j)
    · rfl

theorem flushBelow_cmds (st : Stall) (t j : Nat) : ((flushBelow st t).sub j).cmds = (st.sub j).cmds := by
  unfold flushBelow
  split
  · rfl
  · exact (applyDue_cmds _ _ j).trans (applyDue_cmds _ _ j)

theorem subPend_cmds (st : Stall) (i tick src addr : Nat) (data : Bytes) (state : Option Nat) (post : Option Post) (j : Nat) :
    ((subPend st i tick src addr data state post).sub j).cmds = (st.sub j).cmds := flushBelow_cmds _ _ j

theorem endProgram_cmds (st : Stall) (i P code dev resid : Nat) (report : Bool) (j : Nat) :
    ((endProgram st i P code dev resid report).sub j).cmds = (st.sub j).cmds :=
  (subPend_cmds _ _ _ _ _ _ _ _ j).trans (Stall.setSub_cmds (by rfl) j)

theorem startBrick_cmds (st : Stall) (i addr b joinOp j : Nat) : ((startBrick st i addr b joinOp).sub j).cmds = (st.sub j).cmds :=
  Stall.setSub_cmds (by rfl) j

/-! ### Commands to stall programs (R316) -/

theorem endProgram_same {a st : Stall} (h : SameCpu a st) (i P code dev resid : Nat) (report : Bool) :
    SameCpu a (endProgram st i P code dev resid report) := addPend_same (Stall.setSub_same h)

theorem endMalformed_num (st : Stall) (i : Nat) : (endMalformed st i).num = st.num := (endProgram_same (.refl st) _ _ _ _ _ _).num

theorem hodStart_of_busy {y : Stall} {i : Nat} (hbusy : (y.sub i).state ≠ 0) (w : Nat) : hodStart y i w = setCerr y i 1 := if_pos hbusy

/-- START takes an idle subchannel with a device to the fetch of its first brick, and ends the program where its address is not
aligned. -/
theorem hodStart_of_idle {y : Stall} {i : Nat} (hty : (y.sub i).ty ≠ dNONE) (hidle : (y.sub i).state = 0) (w : Nat) :
    hodStart y i w =
      let z := startBrick (y.setSub i { y.sub i with cerr := 0, state := 1, idleN := 0 }) i (hodProg y i) (w + 1) 0
      if hodProg y i % 8 ≠ 0 then endMalformed z i else z := by
  unfold hodStart
  rw [if_neg (not_not.2 hidle), if_neg hty]

theorem hodStart_same (st : Stall) (i w : Nat) : SameCpu st (hodStart st i w) := by
  have hset (y : Stall) (h : SameCpu st y) (x : Sub) : SameCpu st (y.setSub i x) := Stall.setSub_same h
  have hbrick := hset _ (hset _ (.refl st) { st.sub i with cerr := 0, state := 1, idleN := 0 })
  unfold hodStart
  exact SameCpu.ite (hset _ (.refl st) _) (SameCpu.ite (hset _ (.refl st) _)
    (SameCpu.ite (endProgram_same (hbrick _) _ _ _ _ _ _) (hbrick _)))

theorem hodClear_of_busy {y : Stall} {i : Nat} (hbusy : (y.sub i).state ≠ 0) : hodClear y i = setCerr y i 2 := if_pos hbusy

theorem hodClear_of_idle {y : Stall} {i : Nat} (hidle : (y.sub i).state = 0) :
    hodClear y i = y.setSub i { y.sub i with cerr := 0, code := 0, resid := 0 } := if_neg (not_not.2 hidle)

section
variable {s : State} {k slot i op w : Nat} {st : Stall} {r : List (Nat × Nat)} (hlive : s.live k = some (st, slot)) (hi : i < 8)
  (hen : s.get HOD_CTL_EN = 1) (hcmds : (st.sub i).cmds = (op, w) :: r) (hhere : stepUpTo st i w = false)
include hlive hi hen hcmds hhere

/-- A command that no unit of its subchannel comes before is taken off the queue and acts. -/
theorem cmdStep_of_due (act : Stall → Nat → Stall) :
    cmdStep op act k i s = s.setStall (act (st.setSub i { st.sub i with cmds := r }) w) := by
  simp [cmdStep, hlive, hen, hcmds, hhere, Nat.not_le.2 hi]

/-- A START counts a program that it ends at once as malformed (R305). -/
theorem hodStartCmd_of_due (hop : op = 1) :
    hodStartCmd k i s =
      let z := hodStart (st.setSub i { st.sub i with cmds := r }) i w
      (s.setStall z).countEnd (decide ((z.sub i).cmds.length < (st.sub i).cmds.length) && (st.sub i).state == 0 &&
        (st.sub i).ty != dNONE && hodProg st i % 8 != 0) := by
  subst hop
  have hst := State.live_stall hlive
  have hnum : (hodStart (st.setSub i { st.sub i with cmds := r }) i w).num = k :=
    (hodStart_same _ i w).num.trans (show st.num = k from State.stall?_num hst)
  unfold hodStartCmd
  simp only [cmdStep_of_due hlive hi hen hcmds hhere, hst, State.stall?_setStall_same s _ st k hst hnum]

end

end Sys2Proof.Machine
end

section
/-! SUPPORT. The commands to stall programs and to host programs (O38). -/
namespace Sys2Proof.Machine

/-! ### Commands to stall programs (R316) -/

theorem satInc_le (m x : Nat) : satInc m x ≤ m := by
  unfold satInc
  split <;> omega

/-- A counter reads one more, or its greatest value. -/
theorem State.get_inc (s : State) {f : Fld} (hf : f.fits = true) : (s.inc f).get f = satInc (2 ^ f.w - 1) (s.get f) := by
  have hlt : satInc (2 ^ f.w - 1) (s.get f) < 2 ^ f.w :=
    Nat.lt_of_le_of_lt (satInc_le _ _) (Nat.sub_lt (Nat.two_pow_pos _) Nat.one_pos)
  rw [State.inc, State.get_put s f _ hf, Nat.mod_eq_of_lt hlt]

section
variable {s : State} {k slot i w : Nat} {st : Stall} {r : List (Nat × Nat)} (hlive : s.live k = some (st, slot)) (hi : i < 8)
  (hen : s.get HOD_CTL_EN = 1) (hcmds : (st.sub i).cmds = (1, w) :: r) (hhere : stepUpTo st i w = false)
include hlive hi hen hcmds hhere

theorem hodStartCmd_of_busy (hbusy : (st.sub i).state ≠ 0) :
    hodStartCmd k i s = s.setStall (hodStart (st.setSub i { st.sub i with cmds := r }) i w) := by
  simp [hodStartCmd_of_due hlive hi hen hcmds hhere, State.countEnd, hbusy]

theorem hodStartCmd_of_aligned (haligned : hodProg st i % 8 = 0) :
    hodStartCmd k i s = s.setStall (hodStart (st.setSub i { st.sub i with cmds := r }) i w) := by
  simp [hodStartCmd_of_due hlive hi hen hcmds hhere, State.countEnd, haligned]

theorem hodStartCmd_of_misaligned (hodd : hodProg st i % 8 ≠ 0) {y : Stall} (hy : st.setSub i { st.sub i with cmds := r } = y)
    (hty : (y.sub i).ty ≠ dNONE) (hidle : (y.sub i).state = 0) :
    hodStartCmd k i s =
      (s.setStall (endMalformed (startBrick (y.setSub i { y.sub i with cerr := 0, state := 1, idleN := 0 }) i (hodProg st i) (w + 1) 0) i)).inc
        HOD_ENDS_MALFORMED := by
  have hlen : i < st.subs.length := Stall.lt_of_cmds (by rw [hcmds]; exact List.cons_ne_nil _ _)
  have hsub : y.sub i = { st.sub i with cmds := r } := by rw [← hy, Stall.sub_setSub, if_pos ⟨rfl, hlen⟩]
  have hprog : hodProg y i = hodProg st i := by rw [← hy]; rfl
  have hstart := hodStart_of_idle hty hidle w
  rw [hprog] at hstart
  simp only [hodd, ne_eq, not_false_iff, if_true] at hstart
  have htaken : ((hodStart y i w).sub i).cmds = r := by
    rw [hstart, endMalformed, endProgram_cmds, startBrick_cmds, Stall.setSub_cmds (by rfl), hsub]
  rw [hodStartCmd_of_due hlive hi hen hcmds hhere rfl, hy, ← hstart]
  have hty' : (st.sub i).ty ≠ dNONE := by rwa [hsub] at hty
  have hidle' : (st.sub i).state = 0 := by rwa [hsub] at hidle
  simp [State.countEnd, htaken, hcmds, hty', hidle', hodd]

end

theorem exec_hodStart (k i : Nat) (s : State) : exec (.hodStart k i) s = .next (hodStartCmd k i s) := rfl
theorem exec_hodHalt (k i : Nat) (s : State) : exec (.hodHalt k i) s = .next (hodHaltCmd k i s) := rfl
theorem exec_hodResume (k i : Nat) (s : State) : exec (.hodResume k i) s = .next (hodResumeCmd k i s) := rfl
theorem exec_hodClear (k i : Nat) (s : State) : exec (.hodClear k i) s = .next (hodClearCmd k i s) := rfl
theorem exec_hodHstart (h : Nat) (s : State) : exec (.hodHstart h) s = .next (hodHstart h s) := rfl
theorem exec_hodHhalt (h : Nat) (s : State) : exec (.hodHhalt h) s = .next (hodHhalt h s) := rfl
theorem exec_hodHresume (h : Nat) (s : State) : exec (.hodHresume h) s = .next (hodHresume h s) := rfl
theorem exec_hodHclear (h : Nat) (s : State) : exec (.hodHclear h) s = .next (hodHclear h s) := rfl

/-! ### Commands to host programs (R326 – R328) -/

/-- The registers of a host subchannel lie a multiple of 8 bytes above those of subchannel 0. -/
theorem hFld_fits (f : Fld) (h : Nat) : (hFld f h).fits = f.fits := by
  have hmod : (f.off + 32 * h) % 8 = f.off % 8 := by omega
  simp only [hFld, Fld.nth, Fld.fits, hmod]

theorem hFld_apart (f g : Fld) (h : Nat) : (hFld f h).apart (hFld g h) = f.apart g := by
  have hmod (o : Nat) : (o + 32 * h) % 8 = o % 8 := by omega
  have hdiv (o : Nat) : (o + 32 * h) / 8 = o / 8 + 4 * h := by omega
  simp only [hFld, Fld.nth, Fld.apart, hmod, hdiv, ne_eq, Nat.add_right_cancel_iff]

/-- The registers of host subchannels lie above the engine's own. -/
theorem hFld_apart_low {f g : Fld} (h : Nat) (hf : 0x601000 ≤ f.off) (hg : g.off < 0x601000) : (hFld f h).apart g = true := by
  have hslot : (f.off + 32 * h) / 8 ≠ g.off / 8 := by omega
  simp [Fld.apart, hFld, Fld.nth, hslot]

@[simp] theorem State.get_setHsub (s : State) (h : Nat) (x : HostSub) (f : Fld) : (s.setHsub h x).get f = s.get f := rfl

/-- Putting a field of a host subchannel leaves the engine's own registers. -/
theorem State.get_put_hFld_low (s : State) {f g : Fld} (h v : Nat) (hf : f.fits = true) (hlo : 0x601000 ≤ f.off)
    (hg : g.off < 0x601000) : (s.put (hFld f h) v).get g = s.get g :=
  State.get_put_apart s _ _ v ((hFld_fits f h).trans hf) (hFld_apart_low h hlo hg)

theorem State.get_put_hFld_apart (s : State) {f g : Fld} (h v : Nat) (hf : f.fits = true) (hfg : f.apart g = true) :
    (s.put (hFld f h) v).get (hFld g h) = s.get (hFld g h) :=
  State.get_put_apart s _ _ v ((hFld_fits f h).trans hf) ((hFld_apart f g h).trans hfg)

/-- The fetch of a brick leaves the engine's own registers. -/
theorem State.get_hostBrick_low (s : State) (h addr joinOp : Nat) {g : Fld} (hg : g.off < 0x601000) :
    (s.hostBrick h addr joinOp).get g = s.get g := by
  rw [State.hostBrick, State.get_put_hFld_low _ h 1 (by decide) (by decide) hg, State.get_setHsub]

section
variable {s : State} {h : Nat} (hh : h < 64)
include hh

theorem hodHstart_of_disabled (hen : s.get HOD_CTL_EN = 0) : hodHstart h s = s.emit (.refused h errHodDisabled) := by
  unfold hodHstart
  rw [if_neg (Nat.not_le.2 hh), if_pos hen]

theorem hodHstart_of_busy (hen : s.get HOD_CTL_EN = 1) (hbusy : (s.hsub h).phase ≠ .idle) :
    hodHstart h s = s.put (hFld HOD_HSTAT_CERR h) 1 := by
  simp [hodHstart, Nat.not_le.2 hh, hen, hbusy]

/-- A START begins a program on an idle host subchannel; a covered one without its grant and a misaligned address end it. -/
theorem hodHstart_of_idle (hen : s.get HOD_CTL_EN = 1) (hidle : (s.hsub h).phase = .idle) :
    hodHstart h s =
      let p := s.get (hFld HOD_HPROG_ADDR h)
      let t := (((s.put (hFld HOD_HSTAT_CERR h) 0).setHsub h { s.hsub h with idleN := 0 }).hostBrick h p 0)
      if 16 ≤ h ∧ s.get HOD_HGRANT_HOST = 0 then t.hostEnd h 8 0
      else if p % 16 ≠ 0 then (t.hostEnd h 6 0).inc HOD_ENDS_MALFORMED
      else t := by
  have hprog : (s.put (hFld HOD_HSTAT_CERR h) 0).get (hFld HOD_HPROG_ADDR h) = s.get (hFld HOD_HPROG_ADDR h) :=
    State.get_put_hFld_apart s h 0 (by decide) (by decide)
  have hgrant (x : HostSub) (p : Nat) :
      (((s.put (hFld HOD_HSTAT_CERR h) 0).setHsub h x).hostBrick h p 0).get HOD_HGRANT_HOST = s.get HOD_HGRANT_HOST := by
    rw [State.get_hostBrick_low _ _ _ _ (by decide), State.get_setHsub, State.get_put_hFld_low s h 0 (by decide) (by decide) (by decide)]
  unfold hodHstart
  rw [if_neg (Nat.not_le.2 hh), if_neg (by rw [hen]; decide)]
  extract_lets x cerr s1 p s2
  have hp : p = s.get (hFld HOD_HPROG_ADDR h) := hprog
  have hs2 : s2.get HOD_HGRANT_HOST = s.get HOD_HGRANT_HOST := hgrant _ _
  rw [if_neg (not_not.2 hidle), hs2, hp]
  unfold s2
  rw [hp]

theorem hodHhalt_of_idle (hidle : (s.hsub h).phase = .idle) : hodHhalt h s = s.put (hFld HOD_HSTAT_CERR h) 2 := by
  simp [hodHhalt, Nat.not_le.2 hh, hidle]

theorem hodHhalt_of_busy (hbusy : (s.hsub h).phase ≠ .idle) :
    hodHhalt h s = (s.put (hFld HOD_HSTAT_CERR h) 0).hostEnd h 2 (hostResid (s.hsub h)) := by
  simp [hodHhalt, Nat.not_le.2 hh, hbusy]

/-- A RESUME after PAUSE goes on by the LINK field. -/
theorem hodHresume_of_paused (hpaused : (s.hsub h).phase = .paused) :
    hodHresume h s =
      let ok := s.put (hFld HOD_HSTAT_CERR h) 0
      if hbLink (s.hsub h).brick = 0 then ok.hostEnd h 0 0
      else (if hbReport (s.hsub h).brick then ok.hostPost h 0 4 0 (s.hsub h).addr else ok).hostContinue h := by
  unfold hodHresume
  rw [if_neg (Nat.not_le.2 hh)]
  simp only [hpaused]

theorem hodHresume_of_fault (hfault : (s.hsub h).phase = .fault) :
    hodHresume h s = ((s.put (hFld HOD_HSTAT_CERR h) 0).setHsub h { s.hsub h with phase := (s.hsub h).back }).put
      (hFld HOD_HSTAT_STATE h) (if (s.hsub h).back = .waiting then 2 else 1) := by
  unfold hodHresume
  rw [if_neg (Nat.not_le.2 hh)]
  simp only [hfault]

theorem hodHresume_of_running (hpaused : (s.hsub h).phase ≠ .paused) (hfault : (s.hsub h).phase ≠ .fault) :
    hodHresume h s = s.put (hFld HOD_HSTAT_CERR h) 2 := by
  unfold hodHresume
  rw [if_neg (Nat.not_le.2 hh)]
  dsimp only
  split
  · next hp => exact absurd hp hpaused
  · next hp => exact absurd hp hfault
  · rfl

theorem hodHclear_of_busy (hbusy : (s.hsub h).phase ≠ .idle) : hodHclear h s = s.put (hFld HOD_HSTAT_CERR h) 2 := by
  simp [hodHclear, Nat.not_le.2 hh, hbusy]

theorem hodHclear_of_idle (hidle : (s.hsub h).phase = .idle) :
    hodHclear h s = s.puts [(hFld HOD_HSTAT_CERR h, 0), (hFld HOD_HSTAT_CODE h, 0), (hFld HOD_HRESID_RESID h, 0)] := by
  simp [hodHclear, Nat.not_le.2 hh, hidle]

end

/-! ### The statement -/

/-- Settles O38: each clause is the equation of its command; a START takes its command off the queue, so it counts a program that it
ends as malformed. -/
theorem hodProgramCommandsComplete : Obligations.HodProgramCommandsComplete := by
  unfold Obligations.HodProgramCommandsComplete
  simp -zeta only [exec_hodStart, exec_hodHalt, exec_hodResume, exec_hodClear, exec_hodHstart, exec_hodHhalt, exec_hodHresume, exec_hodHclear,
    Host.Outcome.next.injEq]
  constructor
  case left =>
    intro s k slot i w st r hlive hi hen y here
    have hact {op : Nat} (hc : (st.sub i).cmds = (op, w) :: r) (hd : here) (act : Stall → Nat → Stall) :
        cmdStep op act k i s = s.setStall (act y w) := cmdStep_of_due hlive hi hen hc hd act
    refine ⟨fun hc hd hp hty hidle => ?aligned, fun hc hd hp hty hidle => ?misaligned, fun hc hd hb hbusy => ?busy, fun hc hd hidle => ?haltIdle,
      fun hc hd _ => hact hc hd _, fun hc hd hrun => ?resumeOther, fun hc hd _ => hact hc hd _, fun hc hd hbusy => ?clearBusy,
      fun hc hd hidle => ?clearIdle⟩
    case aligned =>
      rw [hodStartCmd_of_aligned hlive hi hen hc hd hp, hodStart_of_idle hty hidle]
      exact congrArg s.setStall (if_neg (not_not.2 hp))
    case misaligned =>
      refine ⟨_, hodStartCmd_of_misaligned hlive hi hen hc hd hp rfl hty hidle, ?_, ?_⟩
      · have hst := State.live_stall hlive
        exact State.stall?_setStall_same s _ st k hst ((endMalformed_num _ i).trans (show st.num = k from State.stall?_num hst))
      · exact State.get_inc _ (by decide)
    case busy => rw [hodStartCmd_of_busy hlive hi hen hc hd hb, hodStart_of_busy hbusy]
    case haltIdle => exact (hact hc hd _).trans (congrArg s.setStall (if_pos hidle))
    case resumeOther => exact (hact hc hd _).trans (congrArg s.setStall (if_pos hrun))
    case clearBusy => exact (hact hc hd _).trans (congrArg s.setStall (hodClear_of_busy hbusy))
    case clearIdle => exact (hact hc hd _).trans (congrArg s.setStall (hodClear_of_idle hidle))
  case right =>
    intro s h hh x p cerr started
    refine ⟨hodHstart_of_busy hh, fun hen hidle hgrant hp => ?begun, fun hen hidle hgrant hp => ?odd, fun hen hidle hcov hgrant => ?covered,
      hodHhalt_of_idle hh, hodHhalt_of_busy hh, fun hp hl => ?ended, fun hp hl => ?linked,
      hodHresume_of_fault hh, hodHresume_of_running hh, hodHstart_of_disabled hh, hodHclear_of_busy hh, hodHclear_of_idle hh⟩
    case begun =>
      rw [hodHstart_of_idle hh hen hidle]
      exact (if_neg (by omega)).trans (if_neg (not_not.2 hp))
    case odd =>
      rw [hodHstart_of_idle hh hen hidle]
      exact (if_neg (by omega)).trans (if_pos hp)
    case covered =>
      rw [hodHstart_of_idle hh hen hidle]
      exact if_pos ⟨hcov, hgrant⟩
    case ended => exact (hodHresume_of_paused hh hp).trans (if_pos hl)
    case linked => exact (hodHresume_of_paused hh hp).trans (if_neg hl)

end Sys2Proof.Machine
end

section
/-! SUPPORT. The bricks of a stall program (O39). -/
namespace Sys2Proof.Machine

/-! ### Bricks (R303, R305) -/

section
variable {s : State} {k slot i : Nat} {st : Stall} (hready : s.hodReady k i = some (st, slot)) (hfetched : (st.sub i).phase = .fetched)
include hready hfetched

/-- Every brick command ends a program at a malformed brick. -/
theorem exec_of_malformed_brick (hbad : malformed (st.sub i).ty (st.sub i).joinOp (st.sub i).brick = true) {c : Instr}
    {accept : Sub → Bool} {act : Devs → Stall → Stall} (hc : exec c s = .next (brickStep accept act k i s)) :
    exec c s = .next ((s.setStall (endMalformed st i)).inc HOD_ENDS_MALFORMED) := by
  rw [hc]
  simp [brickStep, hready, hfetched, hbad]

/-- A well-formed brick acts under a command that accepts it. -/
theorem exec_of_accepted_brick (hgood : malformed (st.sub i).ty (st.sub i).joinOp (st.sub i).brick = false) {c : Instr}
    {accept : Sub → Bool} {act : Devs → Stall → Stall} (hc : exec c s = .next (brickStep accept act k i s))
    (haccept : accept (st.sub i) = true) : exec c s = .next (s.setStall (act (s.devsOf st) st)) := by
  rw [hc]
  simp [brickStep, hready, hfetched, hgood, haccept]

end

theorem exec_brickRead (k i : Nat) (s : State) : exec (.brickRead k i) s = .next (dataStep 1 (fun _ => true) k i s) := rfl
theorem exec_brickWrite (k i : Nat) (s : State) : exec (.brickWrite k i) s = .next (dataStep 2 (fun x => x.ty != dBLIT) k i s) := rfl
theorem exec_blitCopy (k i : Nat) (s : State) : exec (.blitCopy k i) s =
    .next (dataStep 2 (fun x => x.ty == dBLIT && bParam x.brick == 0) k i s) := rfl
theorem exec_blitFill (k i : Nat) (s : State) : exec (.blitFill k i) s =
    .next (dataStep 2 (fun x => x.ty == dBLIT && bParam x.brick == 1) k i s) := rfl
theorem exec_brickQuery (k i : Nat) (s : State) : exec (.brickQuery k i) s = .next (dataStep 4 (fun _ => true) k i s) := rfl
theorem exec_setpos (k i : Nat) (s : State) : exec (.setpos k i) s = .next (dataStep 3 (fun x => x.ty == dSAVE) k i s) := rfl
theorem exec_seek (k i : Nat) (s : State) : exec (.seek k i) s = .next (dataStep 3 (fun x => x.ty == dMEDIA) k i s) := rfl
theorem exec_flush (k i : Nat) (s : State) : exec (.flush k i) s = .next (brickFlush k i s) := rfl
theorem exec_setdst (k i : Nat) (s : State) : exec (.setdst k i) s = .next (dataStep 3 (fun x => x.ty == dBLIT) k i s) := rfl
theorem exec_brickGoto (k i : Nat) (s : State) : exec (.brickGoto k i) s = .next (plainStep 8 k i s) := rfl
theorem exec_brickWait (k i : Nat) (s : State) : exec (.brickWait k i) s = .next (brickWait k i s) := rfl
theorem exec_brickNop (k i : Nat) (s : State) : exec (.brickNop k i) s = .next (plainStep 10 k i s) := rfl
theorem exec_brickPost (k i : Nat) (s : State) : exec (.brickPost k i) s = .next (plainStep 11 k i s) := rfl
theorem exec_brickPause (k i : Nat) (s : State) : exec (.brickPause k i) s = .next (brickPause k i s) := rfl

/-- Settles O39: every command of the list is one step over the bricks that it accepts, so each clause checks that the brick in
hand is one of them. -/
theorem bricksComplete : Obligations.BricksComplete := by
  unfold Obligations.BricksComplete
  intro s k slot i st hready x act all data hfetched
  refine ⟨fun hbad => ?malformed, fun hgood => ?wellFormed⟩
  case malformed =>
    have hend {c : Instr} {accept : Sub → Bool} {act : Devs → Stall → Stall} (hc : exec c s = .next (brickStep accept act k i s)) :=
      exec_of_malformed_brick hready hfetched hbad hc
    simp only [all, List.forall_mem_cons, List.not_mem_nil, false_imp_iff, implies_true, and_true]
    exact ⟨hend (exec_brickRead k i s), hend (exec_brickWrite k i s), hend (exec_blitCopy k i s), hend (exec_blitFill k i s),
      hend (exec_brickQuery k i s), hend (exec_setpos k i s), hend (exec_seek k i s), hend (exec_flush k i s),
      hend (exec_setdst k i s), hend (exec_brickGoto k i s), hend (exec_brickWait k i s), hend (exec_brickNop k i s),
      hend (exec_brickPost k i s), hend (exec_brickPause k i s)⟩
  case wellFormed =>
    have hact {c : Instr} {accept : Sub → Bool} {act : Devs → Stall → Stall} (hc : exec c s = .next (brickStep accept act k i s))
        (haccept : accept x = true) := exec_of_accepted_brick hready hfetched hgood hc haccept
    exact ⟨fun hop => hact (exec_brickRead k i s) (by simp [hop]),
      fun hop hty => hact (exec_brickWrite k i s) (by simp [hop, hty]),
      fun hop hty hcopy => hact (exec_blitCopy k i s) (by simp [hop, hty, hcopy]),
      fun hop hty hfill => hact (exec_blitFill k i s) (by simp [hop, hty, hfill]),
      fun hop => hact (exec_brickQuery k i s) (by simp [hop]),
      fun hop hty => hact (exec_setpos k i s) (by simp [hop, hty]),
      fun hop hty => hact (exec_seek k i s) (by simp [hop, hty]),
      fun hop hty => hact (exec_setdst k i s) (by simp [hop, hty]),
      fun hop hty => hact (exec_flush k i s) (by simp [hop, hty]),
      fun hop => hact (exec_brickGoto k i s) (by simp [hop]),
      fun hop => hact (exec_brickNop k i s) (by simp [hop]),
      fun hop => hact (exec_brickPost k i s) (by simp [hop]),
      fun hop => hact (exec_brickWait k i s) (by simp [hop]),
      fun hop => hact (exec_brickPause k i s) (by simp [hop])⟩

end Sys2Proof.Machine
end

section
/-! SUPPORT. The assignment of devices to subchannels (O41). -/
namespace Sys2Proof.Machine

/-! ### Assignments (R299) -/

section
variable {s : State} {k i ty : Nat} (hmode : fwRuns s.mode = true) (hi : i < 8)
include hmode hi

theorem hodAssign_of_allowed (hr : assignReason (s.stall? k) i ty = 0) :
    hodAssign k i ty s = (s.onStall k fun st =>
      st.setSub i { st.sub i with ty, pos := 0, rx := [], overruns := 0, overrun := false, later := none }).put HOD_ASSIGN_ERR_REASON 0 := by
  simp [hodAssign, hmode, Nat.not_le.2 hi, hr]

theorem hodAssign_of_refused (hr : assignReason (s.stall? k) i ty ≠ 0) :
    hodAssign k i ty s = s.puts [(HOD_ASSIGN_ERR_REASON, assignReason (s.stall? k) i ty), (HOD_ASSIGN_ERR_VALID, 1)] := by
  obtain ⟨n, hn⟩ := Nat.exists_eq_succ_of_ne_zero hr
  simp [hodAssign, hmode, Nat.not_le.2 hi, hn]

end

/-- A refusal changes no stall and records its reason. -/
theorem State.assignRefusal_records (s : State) (r : Nat) {t : State} (ht : t = s.puts [(HOD_ASSIGN_ERR_REASON, r), (HOD_ASSIGN_ERR_VALID, 1)]) :
    t.stalls = s.stalls ∧ t.get HOD_ASSIGN_ERR_VALID = 1 ∧ t.get HOD_ASSIGN_ERR_REASON = r % 16 := by
  subst ht
  refine ⟨s.puts_stalls _, State.get_put _ HOD_ASSIGN_ERR_VALID 1 (by decide), ?_⟩
  rw [State.puts_cons, State.puts_cons, State.puts_nil, State.get_put_apart _ _ _ _ (by decide) (by decide)]
  exact State.get_put s HOD_ASSIGN_ERR_REASON r (by decide)

theorem assignReason_some (st : Stall) (i ty : Nat) :
    assignReason (some st) i ty = if (st.sub i).state ≠ 0 then 1 else if i < 3 then 2
      else if ty = 0 ∨ ty = 3 ∨ (ty = 4 ∧ st.cls = .N) ∨ (ty = 5 ∧ st.cls = .N ∧ st.freeRun = true) then 0 else 3 := rfl

/-- A reason that is recorded applies. -/
theorem assignReason_applies {o : Option Stall} {i ty : Nat} (hr : assignReason o i ty ≠ 0) :
    assignReason o i ty = 1 ∧ (∃ st, o = some st ∧ (st.sub i).state ≠ 0) ∨ assignReason o i ty = 2 ∧ i < 3 ∨
      assignReason o i ty = 3 ∧ (∃ st, o = some st ∧
        ¬(ty = 0 ∨ ty = 3 ∨ (ty = 4 ∧ st.cls = .N) ∨ (ty = 5 ∧ st.cls = .N ∧ st.freeRun = true))) ∨
      assignReason o i ty = 4 ∧ o = none := by
  cases o with
  | none => exact .inr (.inr (.inr ⟨rfl, rfl⟩))
  | some st =>
    rw [assignReason_some] at hr ⊢
    split at hr
    · next hbusy => exact .inl ⟨if_pos hbusy, st, rfl, hbusy⟩
    next hidle =>
    rw [if_neg hidle]
    split at hr
    · next hfixed => exact .inr (.inl ⟨if_pos hfixed, hfixed⟩)
    next hfree =>
    rw [if_neg hfree]
    split at hr
    · exact absurd rfl hr
    · next hclass => exact .inr (.inr (.inl ⟨if_neg hclass, st, rfl, hclass⟩))

/-- Where no reason is recorded none applies. -/
theorem assignReason_none_applies {o : Option Stall} {i ty : Nat} (hr : assignReason o i ty = 0) :
    ¬((∃ st, o = some st ∧ (st.sub i).state ≠ 0) ∨ i < 3 ∨
      (∃ st, o = some st ∧ ¬(ty = 0 ∨ ty = 3 ∨ (ty = 4 ∧ st.cls = .N) ∨ (ty = 5 ∧ st.cls = .N ∧ st.freeRun = true))) ∨ o = none) := by
  cases o with
  | none => cases hr
  | some st =>
    rw [assignReason_some] at hr
    split at hr
    · cases hr
    next hidle =>
    split at hr
    · cases hr
    next hfree =>
    split at hr
    · next hclass =>
      rintro (⟨x, hx, hbusy⟩ | hfixed | ⟨x, hx, hother⟩ | hnone)
      · exact hidle (Option.some.inj hx ▸ hbusy)
      · exact hfree hfixed
      · exact hother (Option.some.inj hx ▸ hclass)
      · cases hnone
    · cases hr

theorem exec_hodAssign (k i ty : Nat) (s : State) : exec (.hodAssign k i ty) s = .next (hodAssign k i ty s) := rfl

/-- Settles O41: a reason other than 0 is recorded where it applies, and the reason 0 where none does. -/
theorem hodAssignments : Obligations.HodAssignments := by
  unfold Obligations.HodAssignments
  intro s k i ty hmode hi busy fixed wrongClass absent
  refine ⟨_, exec_hodAssign k i ty s, ?_⟩
  by_cases hr : assignReason (s.stall? k) i ty = 0
  · refine ⟨fun hany => absurd hany (assignReason_none_applies hr), fun _ => ?_⟩
    rw [hodAssign_of_allowed hmode hi hr]
    refine ⟨State.get_put _ _ _ (by decide), fun st hst => ?_⟩
    rw [State.onStall_of_found hst]
    exact ⟨_, (State.stall?_put _ _ _ k).trans (State.stall?_setStall_same s _ st k hst (show st.num = k from State.stall?_num hst)), rfl⟩
  · have hwhy := assignReason_applies hr
    have hlt : assignReason (s.stall? k) i ty < 16 := by omega
    obtain ⟨hstalls, hvalid, hreason⟩ := State.assignRefusal_records s _ (hodAssign_of_refused hmode hi hr)
    rw [Nat.mod_eq_of_lt hlt] at hreason
    have hany : busy ∨ fixed ∨ wrongClass ∨ absent := hwhy.imp And.right (Or.imp And.right (Or.imp And.right And.right))
    exact ⟨fun _ => ⟨hstalls, hvalid, hreason ▸ hwhy⟩, fun hnone => absurd hany hnone⟩

end Sys2Proof.Machine
end

section
/-! SUPPORT. The units of stall programs and of host programs, LINK deliveries and the host grant (O40). -/
namespace Sys2Proof.Machine

/-! ### Units of stall programs (R309, R313, R315, R319) -/

@[simp] theorem State.cartOf_drainOf (s : State) (k : Nat) (st : Stall) : (s.drainOf k).cartOf st = s.cartOf st := rfl

section
variable {s : State} {k slot i : Nat} {st : Stall} (hready : s.hodReady k i = some (st, slot))
include hready

theorem waitComplete_of_known (hphase : (st.sub i).phase = .waiting) (hwait : bParam (st.sub i).brick ≠ 3) {c : Nat}
    (htick : waitTick st (st.sub i) = some c) : waitComplete k i s = s.setStall (endWait st i c) := by
  simp [waitComplete, hready, hphase, hwait, htick]

section
variable (hphase : (st.sub i).phase = .waiting) (hmatch : bParam (st.sub i).brick = 3)
  (haccess : accessOk st false (bAddr (st.sub i).brick) 1 (heldTick st (matchTick st (st.sub i))) 1 [] = true)
include hphase hmatch haccess

/-- A MATCH that holds ends its wait, and one that does not has made one more read. -/
theorem waitComplete_of_match (hholds : matchHolds (s.cartOf st) st s.time i = true) :
    waitComplete k i s = ((s.drainOf k).setStall (endWait (st.accessed (bAddr (st.sub i).brick) 1) i
      (max (dataStart st.cls (st.sub i).b) (matchTick st (st.sub i))))).makeResident (8 * k + i) := by
  simp [waitComplete, hready, hphase, hmatch, haccess, hholds]

theorem hodUnit_of_no_match (hholds : matchHolds (s.cartOf st) st s.time i = false) :
    hodUnit k i s = ((s.drainOf k).setStall ((st.accessed (bAddr (st.sub i).brick) 1).setSub i
      { st.sub i with moved := (st.sub i).moved + 1 })).makeResident (8 * k + i) := by
  simp [hodUnit, hready, hphase, hmatch, haccess, hholds]

end

section
variable (hphase : (st.sub i).phase = .units) (hunits : (st.sub i).units = []) (hcontrol : controlReady (st.sub i) = false)
include hphase hunits hcontrol

theorem brickComplete_of_moved (hloop : ¬(idleBrick (st.sub i) = true ∧ 255 ≤ (st.sub i).idleN ∧ (st.sub i).ends = false)) :
    brickComplete k i s = s.setStall (completeBrick st i) := by
  rw [← Bool.not_eq_true' (st.sub i).ends] at hloop
  simp only [brickComplete, hready]
  exact if_pos ⟨hphase, by rw [hunits]; rfl, by rw [hcontrol]; rfl, by rw [decide_eq_false hloop]; rfl⟩

theorem hodLoop_of_idle (hidle : idleBrick (st.sub i) = true) (hcount : 255 ≤ (st.sub i).idleN) (hends : (st.sub i).ends = false) :
    hodLoop k i s = (s.setStall (endProgram st i ((st.sub i).compl - 1) 3 0
      (if isData (bOp (st.sub i).brick) then bCount (st.sub i).brick else 0)
      (bReport (st.sub i).brick || bOp (st.sub i).brick == 11))).inc HOD_ENDS_LOOP := by
  simp only [hodLoop, hready]
  exact if_pos ⟨hphase, by rw [hunits]; rfl, by rw [hcontrol]; rfl, hidle, hcount, by rw [hends]; rfl⟩

end

theorem hodUnit_of_fetch (hphase : (st.sub i).phase = .fetch)
    (haccess : accessOk st false (st.sub i).addr 8 (heldTick st (st.sub i).b) 1 [] = true) :
    hodUnit k i s =
      let e := heldTick st (st.sub i).b
      ((s.drainOf k).setStall ((st.accessed (st.sub i).addr 8).setSub i
        { st.sub i with phase := .fetched
                        brick := ofLE (hodBytes (s.cartOf st) (agentView st i e) s.time e (st.sub i).addr 8)
                        noPeer := (st.sub i).peer.isNone })).makeResident (8 * k + i) := by
  simp only [hodUnit, hready, hphase]
  exact if_pos haccess

theorem hodUnit_of_unit (hphase : (st.sub i).phase = .units) {u : HUnit} {r : List HUnit} (hunits : (st.sub i).units = u :: r) :
    hodUnit k i s = (s.drainOf k).dataUnit st i u := by
  simp only [hodUnit, hready, hphase, hunits]

theorem hodUnit_of_list (hphase : (st.sub i).phase = .list)
    (haccess : accessOk st false (bAddr (st.sub i).brick) (listBytes (s.devsOf st) (s.cartOf st) st s.time i)
      (heldTick st (dataStart st.cls (st.sub i).b)) 1 [] = true) :
    hodUnit k i s =
      let y := readList (s.devsOf st) (s.cartOf st) st s.time i
      (((s.drainOf k).setStall (y.accessed (bAddr (st.sub i).brick) (listBytes (s.devsOf st) (s.cartOf st) st s.time i))).countEnd
        (decide ((y.sub i).phase = .idle))).makeResident (8 * k + i) := by
  simp only [hodUnit, hready, hphase]
  exact if_pos haccess

end

theorem exec_waitComplete (k i : Nat) (s : State) : exec (.waitComplete k i) s = .next (waitComplete k i s) := rfl
theorem exec_brickComplete (k i : Nat) (s : State) : exec (.brickComplete k i) s = .next (brickComplete k i s) := rfl
theorem exec_hodLoop (k i : Nat) (s : State) : exec (.hodLoop k i) s = .next (hodLoop k i s) := rfl
theorem exec_hodUnit (k i : Nat) (s : State) : exec (.hodUnit k i) s = .next (hodUnit k i s) := rfl
theorem exec_hodHostUnit (h : Nat) (host : Option Bytes) (fault : Bool) (s : State) :
    exec (.hodHostUnit h host fault) s = .next (hodHostUnit (mmio host) h host fault s) := rfl
theorem exec_linkRelease (s : State) : exec .linkRelease s = .next (linkRelease s) := rfl
theorem exec_hodHgrantWrite (host : Bool) (sheds : Nat) (s : State) :
    exec (.hodHgrantWrite host sheds) s = .next (hodHgrantWrite host sheds s) := rfl

/-! ### Units of host programs (R321, R326, R327) -/

/-- The events lie apart from the registers of the blocks. -/
theorem State.get_raise_apart (s : State) {n : Nat} {f : Fld} (hn : n < 0x1000) (hf : 0x20000 ≤ f.off) : (s.raise n).get f = s.get f := by
  refine State.get_put_apart s _ f 1 (event_fits n) ?_
  have hslot : (0x10140 + 4 * (n / 32)) / 8 ≠ f.off / 8 := by omega
  simp [Fld.apart, hslot]

/-- Putting a register of the engine's own leaves the fields of a host subchannel. -/
theorem State.get_put_low_hFld (s : State) {f g : Fld} (h v : Nat) (hg : g.fits = true) (hlow : g.off < 0x601000) (hf : 0x601000 ≤ f.off) :
    (s.put g v).get (hFld f h) = s.get (hFld f h) := by
  refine State.get_put_apart s g _ v hg ?_
  have hslot : g.off / 8 ≠ (f.off + 32 * h) / 8 := by omega
  simp [Fld.apart, hFld, Fld.nth, hslot]

/-- The pending bit of a host subchannel. -/
theorem hostPending_fits (h : Nat) : (⟨0x600040 + 4 * (h / 32), h % 32, 1⟩ : Fld).fits = true := by
  have hw : 8 * ((0x600040 + 4 * (h / 32)) % 8) + h % 32 + 1 ≤ 64 := by omega
  exact decide_eq_true hw

/-- What a post puts leaves the address of the status area. -/
theorem State.hostPost_csa (s : State) (h code resid : Nat) :
    (s.puts [(hFld HOD_HSTAT_CODE h, code), (hFld HOD_HRESID_RESID h, resid), (⟨0x600040 + 4 * (h / 32), h % 32, 1⟩, 1)]).get
      (hFld HOD_HCSA_ADDR h) = s.get (hFld HOD_HCSA_ADDR h) := by
  have hpend : (⟨0x600040 + 4 * (h / 32), h % 32, 1⟩ : Fld).apart (hFld HOD_HCSA_ADDR h) = true := by
    have hslot : (0x600040 + 4 * (h / 32)) / 8 ≠ (0x601008 + 32 * h) / 8 := by omega
    simp [Fld.apart, hFld, Fld.nth, HOD_HCSA_ADDR, hslot]
  rw [State.puts_cons, State.puts_cons, State.puts_cons, State.puts_nil, State.get_put_apart _ _ _ _ (hostPending_fits h) hpend,
    State.get_put_hFld_apart _ h _ (by decide) (by decide), State.get_put_hFld_apart _ h _ (by decide) (by decide)]

@[simp] theorem State.raise_hbm (s : State) (n : Nat) : (s.raise n).hbm = s.hbm := rfl
@[simp] theorem State.raise_host (s : State) (n : Nat) : (s.raise n).host = s.host := rfl

/-- A post changes the registers of its subchannel, its pending bit and the event alone, and memory where a status area is set. -/
theorem State.hostPost_eq (s : State) (h code flags resid baddr : Nat) :
    ∃ t : State, s.hostPost h code flags resid baddr = t.raise evHPost ∧ t.stalls = s.stalls ∧
      t.regs = (s.puts [(hFld HOD_HSTAT_CODE h, code), (hFld HOD_HRESID_RESID h, resid),
        (⟨0x600040 + 4 * (h / 32), h % 32, 1⟩, 1)]).regs ∧
      (s.get (hFld HOD_HCSA_ADDR h) = 0 → t.hbm = s.hbm ∧ t.host = s.host) := by
  unfold State.hostPost
  extract_lets s1 area a s2
  have ha : a = s.get (hFld HOD_HCSA_ADDR h) := s.hostPost_csa h code resid
  have hputs : s1 = { s with regs := s1.regs } := s.puts_eq _
  refine ⟨s2, rfl, ?_, ?_, fun hzero => ?_⟩
  · have hstalls : s1.stalls = s.stalls := by rw [hputs]
    rw [← hstalls]
    unfold s2
    split
    · rfl
    split
    · rfl
    · split <;> rfl
    · rfl
  · unfold s2
    split
    · rfl
    split
    · rfl
    · split <;> rfl
    · rfl
  · rw [show s2 = s1 from if_pos (ha.trans hzero), hputs]
    exact ⟨rfl, rfl⟩

section
variable (s : State) (h code flags resid baddr : Nat)

theorem State.hostPost_stalls : (s.hostPost h code flags resid baddr).stalls = s.stalls := by
  obtain ⟨t, hpost, hstalls, -, -⟩ := s.hostPost_eq h code flags resid baddr
  rw [hpost, State.raise_stalls, hstalls]

/-- A post sets the pending bit of its subchannel. -/
theorem State.hostPost_pending : (s.hostPost h code flags resid baddr).get ⟨0x600040 + 4 * (h / 32), h % 32, 1⟩ = 1 := by
  obtain ⟨t, hpost, -, hregs, -⟩ := s.hostPost_eq h code flags resid baddr
  rw [hpost, State.get_raise_apart _ (by decide) (Nat.le_add_right_of_le (by decide)), State.get_congr hregs, State.puts_cons,
    State.puts_cons, State.puts_cons, State.puts_nil, State.get_put _ _ 1 (hostPending_fits h)]
  rfl

/-- A post without a status area leaves memory. -/
theorem State.hostPost_memory (hcsa : s.get (hFld HOD_HCSA_ADDR h) = 0) :
    (s.hostPost h code flags resid baddr).hbm = s.hbm ∧ (s.hostPost h code flags resid baddr).host = s.host := by
  obtain ⟨t, hpost, -, -, hmem⟩ := s.hostPost_eq h code flags resid baddr
  rw [hpost, State.raise_hbm, State.raise_host]
  exact hmem hcsa

end

section
variable {s : State} {h : Nat} {io : Mmio} {host : Option Bytes} (hh : h < 64) (hen : s.get HOD_CTL_EN = 1) (hserves : s.memServes = true)
include hh hen hserves

/-- A failed translation suspends the program, posts it and raises the fault event. -/
theorem hodHostUnit_of_fault (hidle : (s.hsub h).phase ≠ .idle) (hpaused : (s.hsub h).phase ≠ .paused) (hfault : (s.hsub h).phase ≠ .fault) :
    ∃ t : State, t.stalls = s.stalls ∧ t.hbm = s.hbm ∧ t.host = s.host ∧ t.get (hFld HOD_HCSA_ADDR h) = s.get (hFld HOD_HCSA_ADDR h) ∧
      hodHostUnit io h host true s = (t.hostPost h 4 0 (hostResid (s.hsub h)) (s.hsub h).addr).raise evHodFault := by
  unfold hodHostUnit
  extract_lets x s1 s2
  rw [if_neg (by simp [x, Nat.not_le.2 hh, hen, hserves, hidle, hpaused, hfault]), if_pos rfl]
  have hputs : s2 = { s1 with regs := s2.regs } := s1.puts_eq _
  refine ⟨s2.inc HOD_FAULT_COUNT, ?_, ?_, ?_, ?_, rfl⟩
  · rw [State.inc_stalls, hputs]
    rfl
  · rw [State.inc, State.put_hbm, hputs]
    rfl
  · rw [State.inc, State.put_host, hputs]
    rfl
  · unfold s2
    rw [State.inc, State.get_put_low_hFld _ h _ (by decide) (by decide) (by decide), State.puts_cons, State.puts_cons, State.puts_cons,
      State.puts_cons, State.puts_nil, State.get_put_low_hFld _ h _ (by decide) (by decide) (by decide),
      State.get_put_low_hFld _ (g := HOD_FAULT_SUB) h _ (by decide) (by decide) (by decide),
      State.get_put_hFld_apart _ h _ (by decide) (by decide), State.get_put_hFld_apart _ h _ (by decide) (by decide), State.get_setHsub]

theorem hodHostUnit_of_fetch (hphase : (s.hsub h).phase = .fetch) {b : Bytes} {t : State}
    (hread : devRead io s (s.hsub h).addr 16 host = .ok (b, t)) : hodHostUnit io h host false s = t.hostFetched h b := by
  simp [hodHostUnit, Nat.not_le.2 hh, hen, hserves, hphase, hread]

theorem hodHostUnit_of_waiting (hphase : (s.hsub h).phase = .waiting)
    (hdue : (s.hsub h).since + 1000 * hbCount (s.hsub h).brick ≤ s.time) : hodHostUnit io h host false s = s.hostComplete h := by
  simp [hodHostUnit, Nat.not_le.2 hh, hen, hserves, hphase, hdue]

theorem hodHostUnit_of_unit (hphase : (s.hsub h).phase = .units) (hsegs : (s.hsub h).segs.all (fun p => p.2 == 0) = false) :
    hodHostUnit io h host false s = s.hostUnit io h host := by
  simp [hodHostUnit, Nat.not_le.2 hh, hen, hserves, hphase, hsegs]

/-- A brick with nothing left to move completes; a CONTROL that has read its argument takes its position first. -/
theorem hodHostUnit_of_moved (hphase : (s.hsub h).phase = .units) (hsegs : (s.hsub h).segs.all (fun p => p.2 == 0) = true) :
    hodHostUnit io h host false s =
      (if hbOp (s.hsub h).brick = 3 ∧ (s.hsub h).off = 5 then s.setHsub h { s.hsub h with pos := leAt (s.hsub h).arg 0 5 }
        else s).hostComplete h := by
  simp [hodHostUnit, Nat.not_le.2 hh, hen, hserves, hphase, hsegs]

theorem hodHostUnit_of_list (hphase : (s.hsub h).phase = .list) {b : Bytes} {t : State}
    (hread : s.hostListRead io host (hbAddr (s.hsub h).brick) 256 (hbCount (s.hsub h).brick) = .ok (b, t))
    (hgood : (gather (hostGather b) (hbCount (s.hsub h).brick)).2 = true) :
    hodHostUnit io h host false s =
      t.setHsub h { s.hsub h with phase := .units, segs := (gather (hostGather b) (hbCount (s.hsub h).brick)).1 } := by
  simp [hodHostUnit, Nat.not_le.2 hh, hen, hserves, hphase, hread, hgood]

end

/-! ### LINK deliveries (R322, R409) -/

/-- A delivery taken off the queue, and counted where it is late. -/
def State.linkTaken (s : State) (m : LinkMsg) : State :=
  let s1 : State := { s with links := s.links.erase m }
  if m.late then s1.inc YRD_LINK_LATE_COUNT else s1

theorem State.linkTaken_stall? (s : State) (m : LinkMsg) (k : Nat) : (s.linkTaken m).stall? k = s.stall? k := by
  unfold State.linkTaken
  split
  · exact State.stall?_congr (State.inc_stalls _ _) k
  · rfl

theorem State.linkTaken_time (s : State) (m : LinkMsg) : (s.linkTaken m).time = s.time := by
  unfold State.linkTaken
  split
  · rw [State.inc, State.put_time]
  · rfl

section
variable {s : State} {m : LinkMsg} (hfirst : firstLink s.links = some m) (hdue : m.release ≤ (s.time : Int))
include hfirst hdue

theorem linkRelease_of_no_stall (hst : s.stall? m.stall = none) : linkRelease s = (s.linkTaken m).inc YRD_LINK_LOST_COUNT := by
  have hnone := (s.linkTaken_stall? m m.stall).trans hst
  unfold linkRelease
  rw [hfirst]
  refine (if_neg (Int.not_lt.2 hdue)).trans ?_
  extract_lets s1 s2
  rw [show s2 = s.linkTaken m from rfl, hnone]

theorem linkRelease_of_stall {st : Stall} (hst : s.stall? m.stall = some st) (himported : st.imported = false) :
    linkRelease s = (s.linkTaken m).setStall { st with latched := st.latched ++
      [{ bound := latchBound st, link := true, who := m.sub, seq := m.seq, data := m.data, at_ := s.time }] } := by
  have hfound := (s.linkTaken_stall? m m.stall).trans hst
  unfold linkRelease
  rw [hfirst]
  refine (if_neg (Int.not_lt.2 hdue)).trans ?_
  extract_lets s1 s2
  rw [show s2 = s.linkTaken m from rfl, hfound, State.linkTaken_time]
  exact if_neg (by rw [himported]; decide)

end

/-! ### The statement -/

/-- Settles O40: each clause is the equation of its step; a failed translation is posted, and the post leaves the stalls. -/
theorem hodUnitsComplete : Obligations.HodUnitsComplete := by
  unfold Obligations.HodUnitsComplete
  simp -zeta only [exec_waitComplete, exec_brickComplete, exec_hodLoop, exec_hodUnit, exec_hodHostUnit, exec_linkRelease, exec_hodAssign,
    exec_hodHgrantWrite, Host.Outcome.next.injEq]
  refine ⟨?stallUnits, ?hostUnits, ?others⟩
  case stallUnits =>
    intro s k slot i st hready x moved loops
    refine ⟨fun c hphase hwait htick => waitComplete_of_known hready hphase hwait htick, fun hphase hmatch haccess => ⟨?_, ?_⟩, ?_, ?_,
      hodUnit_of_fetch hready, fun u r hphase hunits => hodUnit_of_unit hready hphase hunits, hodUnit_of_list hready⟩
    · exact waitComplete_of_match hready hphase hmatch haccess
    · exact hodUnit_of_no_match hready hphase hmatch haccess
    · rintro ⟨hphase, hunits, hcontrol⟩ hloops
      exact brickComplete_of_moved hready hphase hunits hcontrol hloops
    · rintro ⟨hphase, hunits, hcontrol⟩ ⟨hidle, hcount, hends⟩
      exact hodLoop_of_idle hready hphase hunits hcontrol hidle hcount hends
  case hostUnits =>
    intro s h host hh hen hserves x io
    refine ⟨fun hidle hpaused hfault => ?_, fun b t hphase hread => hodHostUnit_of_fetch hh hen hserves hphase hread,
      hodHostUnit_of_waiting hh hen hserves, hodHostUnit_of_unit hh hen hserves, fun hphase hsegs hother => ?_, fun hphase hsegs hop hoff => ?_,
      fun b t hphase hread hgood => hodHostUnit_of_list hh hen hserves hphase hread hgood⟩
    · obtain ⟨t, hstalls, hhbm, hhost, hcsa, ht⟩ := hodHostUnit_of_fault (io := io) (host := host) hh hen hserves hidle hpaused hfault
      refine ⟨_, ht, State.evLatched_raise _ _, ?_, ?_, fun hzero => ?_⟩
      · rw [State.raise_stalls, State.hostPost_stalls, hstalls]
      · rw [State.get_raise_apart _ (by decide) (Nat.le_add_right_of_le (by decide)), State.hostPost_pending]
      · rw [State.raise_hbm, State.raise_host, ← hhbm, ← hhost]
        exact State.hostPost_memory t h _ _ _ _ (hcsa.trans hzero)
    · exact (hodHostUnit_of_moved hh hen hserves hphase hsegs).trans (congrArg (State.hostComplete · h) (if_neg hother))
    · exact (hodHostUnit_of_moved hh hen hserves hphase hsegs).trans (congrArg (State.hostComplete · h) (if_pos ⟨hop, hoff⟩))
  case others =>
    intro s
    exact ⟨fun m hfirst hdue => ⟨linkRelease_of_no_stall hfirst hdue, fun st => linkRelease_of_stall hfirst hdue⟩,
      fun k i ty => hodAssign_of_allowed, fun _ => rfl, fun _ => rfl⟩

end Sys2Proof.Machine
end

section
/-! SUPPORT. The Mover's descriptors, bursts, stall accesses and halts (O42). -/
namespace Sys2Proof.Machine

/-! ### Channels of the Mover -/

@[simp] theorem State.raise_movs (s : State) (n : Nat) : (s.raise n).movs = s.movs := rfl
@[simp] theorem State.inc_movs (s : State) (f : Fld) : (s.inc f).movs = s.movs := rfl
@[simp] theorem State.setMov_stalls (s : State) (c : Nat) (x : MovCh) : (s.setMov c x).stalls = s.stalls := rfl

theorem State.puts_movs (s : State) (l : List (Fld × Nat)) : (s.puts l).movs = s.movs := by rw [State.puts_eq]

theorem State.mov_congr {s t : State} (h : t.movs = s.movs) (c : Nat) : t.mov c = s.mov c := by rw [State.mov, State.mov, h]

/-- A channel in progress is one of those that the state holds. -/
theorem State.lt_of_mov_busy {s : State} {c : Nat} (hbusy : (s.mov c).busy = true) : c < s.movs.length := by
  by_contra hlen
  rw [State.mov, nthD, List.getD_eq_default _ _ (Nat.not_lt.1 hlen)] at hbusy
  cases hbusy

theorem State.mov_setMov {s : State} {c : Nat} (hc : c < s.movs.length) (x : MovCh) : (s.setMov c x).mov c = x := by
  rw [State.mov, State.setMov, setNth_eq_set, nthD, List.getD_eq_getElem?_getD, List.getElem?_set_self hc]
  rfl

/-- A channel enters FAULT at its burst or segment: the channel and registers change (R352). -/
def State.movFaultMark (s : State) (c : Nat) : State :=
  let s := ({ s with movLast := c } : State).setMov c { s.mov c with fault := true }
  let s := s.puts [(mFld MOV_CH_STAT_STATE c, 2), (MOV_FAULT_CH, c), (MOV_FAULT_VALID, 1)]
  s.inc MOV_FAULT_COUNT

theorem State.movFaultMark_stalls (s : State) (c : Nat) : (s.movFaultMark c).stalls = s.stalls := by
  rw [State.movFaultMark, State.inc_stalls, State.puts_stalls, State.setMov_stalls]

theorem State.movFaultMark_fault {s : State} {c : Nat} (hbusy : (s.mov c).busy = true) : ((s.movFaultMark c).mov c).fault = true := by
  have hmov : (s.movFaultMark c).movs = (s.setMov c { s.mov c with fault := true }).movs := by
    rw [State.movFaultMark, State.inc_movs, State.puts_movs]
    rfl
  rw [State.mov_congr hmov, State.mov_setMov (State.lt_of_mov_busy hbusy)]

/-- A channel that is ready has a descriptor in progress. -/
theorem State.busy_of_movReady {s : State} {c : Nat} (hready : s.movReady c = true) : (s.mov c).busy = true := by
  simp only [State.movReady, Bool.and_eq_true] at hready
  obtain ⟨⟨⟨⟨hbusy, -⟩, -⟩, -⟩, -⟩ := hready
  exact hbusy

/-! ### Descriptor commands (R336 – R340) -/

/-- The descriptor commands with the OP that each serves (R338). -/
def descriptorCommands : List ((Nat → Option Bytes → Instr) × Nat) :=
  [(Instr.dma, 1), (Instr.planePack, 2), (Instr.planeUnpack, 3), (Instr.interleave, 4), (Instr.deinterleave, 5),
    (Instr.fill, 0x10), (Instr.bcopy, 0x11), (Instr.bconvert, 0x12)]

theorem exec_descriptorCommand : ∀ p ∈ descriptorCommands, ∀ (c : Nat) (host : Option Bytes) (s : State),
    exec (p.1 c host) s = .next (movCmd (mmio host) [p.2] c host s) := by
  simp only [descriptorCommands, List.forall_mem_cons, List.not_mem_nil, false_imp_iff, implies_true, and_true]
  exact ⟨fun _ _ _ => rfl, fun _ _ _ => rfl, fun _ _ _ => rfl, fun _ _ _ => rfl, fun _ _ _ => rfl, fun _ _ _ => rfl,
    fun _ _ _ => rfl, fun _ _ _ => rfl⟩

theorem opKnown_descriptorCommand : ∀ p ∈ descriptorCommands, opKnown p.2 = true := by decide

section
variable {s : State} {c : Nat} {io : Mmio} {host : Option Bytes} {ops : List Nat} (hc : c < 8)
include hc

section
variable {d : Bytes} (hidle : (s.mov c).busy = false) (hstart : s.movMayStart c = true)
  (hring : regionOfRange (s.movBase c + 64 * s.get (mFld MOV_CH_CI_INDEX c)) 64 = .hbm)
  (hread : s.devBytes (s.movBase c + 64 * s.get (mFld MOV_CH_CI_INDEX c)) 64 = d) (hop : mOp d ∈ ops)
include hidle hstart hring hread hop

/-- A descriptor that a check refuses ends with its code; an empty one leaves nothing to write. -/
theorem movCmd_of_refused (hknown : opKnown (mOp d) = true) {r : Nat} (hcheck : s.mCheck c d = some r) :
    movCmd io ops c host s = s.movEnd c r (if r = 1 then 0 else (MovCh.start d).resid) (mCtl d 4) := by
  simp [movCmd, Nat.not_le.2 hc, hidle, hstart, State.movStart, hring, hread, hop, hcheck, State.movRefuse, hknown]

theorem movCmd_of_started (hcheck : s.mCheck c d = none) :
    movCmd io ops c host s = (s.setMov c (MovCh.start d)).put (mFld MOV_CH_STAT_STATE c) 1 := by
  simp [movCmd, Nat.not_le.2 hc, hidle, hstart, State.movStart, hring, hread, hop, hcheck]

end

section
variable (hbusy : (s.mov c).busy = true) (hrun : (s.mov c).fault = false) (hop : mOp (s.mov c).desc ∈ ops) (hen : s.get MOV_CTL_EN = 1)
  (hserves : s.memServes = true)
include hbusy hrun hop hen hserves

theorem movCmd_of_busy : movCmd io ops c host s = s.movAccess io c host := by
  simp [movCmd, Nat.not_le.2 hc, hbusy, hrun, hop, hen, hserves]

theorem movCmd_of_moved (hnext : (s.mov c).next = none) : movCmd io ops c host s = s.movEnd c 0 0 (mCtl (s.mov c).desc 4) := by
  rw [movCmd_of_busy hc hbusy hrun hop hen hserves, State.movAccess, hnext]

variable {y : MAcc} (hturn : s.movTurn c = true) (hnext : (s.mov c).next = some y) (hdev : y.stall = none)
include hturn hnext hdev

theorem movCmd_of_read (hdir : y.write = false) {bs : Bytes} {t : State} (hread : devRead io s y.addr y.len host = .ok (bs, t)) :
    movCmd io ops c host s = t.movStep c ((s.mov c).advance y bs) := by
  rw [movCmd_of_busy hc hbusy hrun hop hen hserves]
  simp [State.movAccess, hnext, hdev, hturn, hdir, hread]

theorem movCmd_of_write (hdir : y.write = true) {t : State} (hwrite : devWrite io s y.addr y.data host = .ok t) :
    movCmd io ops c host s = t.movStep c ((s.mov c).advance y []) := by
  rw [movCmd_of_busy hc hbusy hrun hop hen hserves]
  simp [State.movAccess, hnext, hdev, hturn, hdir, hwrite]

end

/-! ### Stall accesses (R336, R351, R352; log entry 91) -/

section
variable {y : MAcc} {k : Nat} (hready : s.movReady c = true) (hturn : s.movTurn c = true) (hnext : (s.mov c).next = some y)
  (hstall : y.stall = some k)
include hready hturn hnext hstall

/-- A descriptor whose stall has been destroyed ends with ADDR. -/
theorem moverStallAccess_of_no_stall (hlive : s.live k = none) :
    moverStallAccess c s = s.movEnd c 11 (s.mov c).resid (mCtl (s.mov c).desc 4) := by
  simp [moverStallAccess, Nat.not_le.2 hc, hready, hturn, hnext, hstall, hlive]

variable {st : Stall} {slot : Nat} (hlive : s.live k = some (st, slot))
include hlive

theorem moverStallAccess_of_fault (hfault : movFaulted st y = true) : moverStallAccess c s = (s.movFaultMark c).raise evMovFault := by
  simp only [moverStallAccess, Nat.not_le.2 hc, hready, hturn, hnext, hstall, hlive, hfault, Bool.not_true, Bool.false_eq_true, or_false,
    if_false, if_true]
  rfl

theorem moverStallAccess_of_write (hmapped : movFaulted st y = false) (hdir : y.write = true) :
    moverStallAccess c s =
      ((s.drainOf k).setStall (agentWrite st 2 (st.tick - 1) 8 y.addr y.data)).movStep c ((s.mov c).advance y []) := by
  simp [moverStallAccess, Nat.not_le.2 hc, hready, hturn, hnext, hstall, hlive, hmapped, hdir]

theorem moverStallAccess_of_read (hmapped : movFaulted st y = false) (hdir : y.write = false) :
    moverStallAccess c s = ((s.drainOf k).setStall (st.accessed y.addr y.len)).movStep c
      ((s.mov c).advance y (movStallBytes (s.cartOf st) st s.time y.addr y.len)) := by
  simp [moverStallAccess, Nat.not_le.2 hc, hready, hturn, hnext, hstall, hlive, hmapped, hdir]

end

end

/-- An access to a stall is made at the stall's boundary, or one of the conditions of the boundary or of the access holds it back. -/
theorem movStallMay_cases (s : State) (st : Stall) (y : MAcc) :
    movStallMay s st y = true ∨ st.sched = .parked ∨ st.sched = .halted ∨ st.tick = 0 ∨ 0 < st.cpu.lock ∨ boundaryClear s st = false ∨
      agentsClear st st.tick = false ∨ pendStuck st = true ∨ (y.write = true ∧ (notAhead st = false ∨ copyPending st [(y.addr, y.data)] = true ∨
        stampRoom st (agentStamps st.cls (st.tick - 1) 2 y.addr y.data) = false)) ∨
        (y.write = false ∧ catchUpOk st y.addr y.len st.tick = false) := by
  cases hmay : movStallMay s st y with
  | true => exact .inl rfl
  | false =>
    refine .inr ?_
    rw [movStallMay, Bool.and_eq_false_iff] at hmay
    rcases hmay with hbound | haccess
    · simp only [Bool.not_eq_false', Bool.or_eq_true, decide_eq_true_eq, beq_iff_eq, Bool.not_eq_true'] at hbound
      tauto
    · cases hdir : y.write with
      | true =>
        simp only [hdir, if_true, Bool.or_eq_false_iff, Bool.and_eq_false_iff, Bool.not_eq_false'] at haccess
        tauto
      | false =>
        simp only [hdir, Bool.false_eq_true, if_false, Bool.or_eq_false_iff] at haccess
        tauto

/-- A channel with an access to a live stall is ready exactly when the stall's boundary lets the access through. -/
theorem State.movReady_of_stall {s : State} {c k slot : Nat} {y : MAcc} {st : Stall} (hbusy : (s.mov c).busy = true)
    (hrun : (s.mov c).fault = false) (hen : s.get MOV_CTL_EN = 1) (hnext : (s.mov c).next = some y) (hstall : y.stall = some k)
    (hlive : s.live k = some (st, slot)) : s.movReady c = movStallMay s st y := by
  simp [State.movReady, hbusy, hrun, hen, hnext, hstall, hlive, State.live_memServes hlive]

/-! ### Resume and halt (R352, R354) -/

section
variable {s : State} {c : Nat} (hc : c < 8)
include hc

theorem movFaultResume_of_mapped {y : MAcc} {k : Nat} {st : Stall} (hfault : (s.mov c).fault = true) (hnext : (s.mov c).next = some y)
    (hstall : y.stall = some k) (hfound : s.stall? k = some st) (hmapped : movFaulted st y = false) :
    movFaultResume c s = (s.setMov c { s.mov c with fault := false }).put (mFld MOV_CH_STAT_STATE c) 1 := by
  simp [movFaultResume, Nat.not_le.2 hc, hfault, hnext, hstall, hfound, hmapped]

theorem movHalt_of_idle (hidle : (s.mov c).busy = false) : movHalt c s = s.put (mFld MOV_CH_CTL_RUN c) 0 := by
  simp [movHalt, Nat.not_le.2 hc, hidle]

theorem movHalt_of_boundary (hbusy : (s.mov c).busy = true) (hbound : ¬(isBlit (mOp (s.mov c).desc) = true ∧ (s.mov c).acc ≠ 0)) :
    movHalt c s = (s.put (mFld MOV_CH_CTL_RUN c) 0).movEnd c 13 (s.mov c).resid (mCtl (s.mov c).desc 4) := by
  simp only [movHalt, Nat.not_le.2 hc, hbusy, hbound, Bool.not_true, Bool.false_eq_true, if_false]

theorem movHalt_of_segment (hbusy : (s.mov c).busy = true) (hblit : isBlit (mOp (s.mov c).desc) = true) (hacc : (s.mov c).acc ≠ 0) :
    movHalt c s = (s.put (mFld MOV_CH_CTL_RUN c) 0).setMov c { s.mov c with halting := true } := by
  simp [movHalt, Nat.not_le.2 hc, hbusy, hblit, hacc]

end

/-! ### The statement -/

theorem exec_movChPi (c pi : Nat) (s : State) : exec (.movChPi c pi) s = .next (movChPi c pi s) := rfl
theorem exec_moverStallAccess (c : Nat) (s : State) : exec (.moverStallAccess c) s = .next (moverStallAccess c s) := rfl
theorem exec_movFaultResume (c : Nat) (s : State) : exec (.movFaultResume c) s = .next (movFaultResume c s) := rfl
theorem exec_movHalt (c : Nat) (s : State) : exec (.movHalt c) s = .next (movHalt c s) := rfl

/-- Settles O42: each clause is the equation of its command, and a channel that is not ready for its stall is held back by the stall's
boundary or by the access. -/
theorem moverComplete : Obligations.MoverComplete := by
  unfold Obligations.MoverComplete
  simp -zeta only [exec_movChPi, exec_moverStallAccess, exec_movFaultResume, exec_movHalt, Host.Outcome.next.injEq]
  intro s c host hc x a d moved
  refine ⟨fun pi => if_pos hc, fun f op hf => ⟨fun hidle hstart hring hop => ?start, fun hbusy hrun hop hen hserves => ?progress⟩,
    fun y k hready hturn hnext hstall => ⟨moverStallAccess_of_no_stall hc hready hturn hnext hstall, fun st slot hlive =>
      ⟨fun hfault => ?faulted, moverStallAccess_of_write hc hready hturn hnext hstall hlive,
        moverStallAccess_of_read hc hready hturn hnext hstall hlive⟩⟩,
    fun y k st slot hbusy hrun hen hnext hstall hlive => ?held,
    fun y k st => movFaultResume_of_mapped hc, movHalt_of_idle hc, movHalt_of_boundary hc, movHalt_of_segment hc⟩
  case start =>
    have hmem : mOp d ∈ [op] := List.mem_singleton.2 hop
    have hknown : opKnown (mOp d) = true := hop ▸ opKnown_descriptorCommand _ hf
    rw [exec_descriptorCommand _ hf c host s]
    simp only [Host.Outcome.next.injEq]
    exact ⟨fun r => movCmd_of_refused hc hidle hstart hring rfl hmem hknown, movCmd_of_started hc hidle hstart hring rfl hmem⟩
  case progress =>
    have hmem : mOp x.desc ∈ [op] := List.mem_singleton.2 hop
    rw [exec_descriptorCommand _ hf c host s]
    simp only [Host.Outcome.next.injEq]
    exact ⟨movCmd_of_moved hc hbusy hrun hmem hen hserves,
      fun y bs t hturn hnext hdev hdir => movCmd_of_read hc hbusy hrun hmem hen hserves hturn hnext hdev hdir,
      fun y t hturn hnext hdev hdir => movCmd_of_write hc hbusy hrun hmem hen hserves hturn hnext hdev hdir⟩
  case faulted =>
    refine ⟨_, moverStallAccess_of_fault hc hready hturn hnext hstall hlive hfault, ?_, State.evLatched_raise _ _, ?_⟩
    · rw [State.raise_stalls, State.movFaultMark_stalls]
    · rw [State.mov_congr (State.raise_movs _ _), State.movFaultMark_fault (State.busy_of_movReady hready)]
  case held =>
    rw [State.movReady_of_stall hbusy hrun hen hnext hstall hlive]
    exact movStallMay_cases s st y

end Sys2Proof.Machine
end

section
/-! SUPPORT. The invariant of every step (O3): each command answers a next state that keeps what its state had. -/
namespace Sys2Proof.Machine

/-! ### Commands -/

/-- The outcome is a next state, and one that keeps what s had. -/
def KeptBy (s : State) (o : Host.Outcome State Fault Refusal) : Prop := ∃ t, o = .next t ∧ Keeps s t

theorem Keeps.answer {s t : State} (h : Keeps s t) : KeptBy s (.next t) := ⟨t, rfl, h⟩

/-- Every command answers, and what it does keeps the queue, the canonical forms and the fuses. -/
theorem exec_keptBy (i : Instr) (s : State) : KeptBy s (exec i s) :=
  have h := Keeps.refl s
  match i with
  -- instructions and the entries of a session core
  | .nop .. | .mov .. | .xch .. | .lea .. | .push .. | .pop .. | .clr .. | .swpb .. | .add .. | .adc .. | .sub .. | .sbc ..
  | .cmp .. | .neg .. | .inc .. | .dec .. | .and .. | .or .. | .xor .. | .not .. | .tst .. | .sext .. | .mul .. | .mulu .. | .div ..
  | .divs .. | .shl .. | .shr .. | .sar .. | .rol .. | .ror .. | .bit .. | .lda .. | .sta .. | .adda .. | .suba .. | .mpy ..
  | .mac .. | .msu .. | .rnd .. | .sha .. | .abs .. | .mvc .. | .br .. | .jmp .. | .call .. | .ret .. | .reti .. | .dbnz ..
  | .dbrc .. | .ldrc .. | .rpt .. | .lock .. | .swi .. | .wait .. | .sync .. | .userOpcode .. => (stepOp_keeps h).answer
  | .repetition .. => (stepRep_keeps h).answer | .idleStep .. => (stepIdle_keeps h).answer
  | .interruptEntry .. => (stepInterrupt_keeps h).answer | .illegalEntry .. => (stepIllegal_keeps h).answer
  | .divzeroEntry .. => (stepDivZero_keeps h).answer | .catchUpRead .. => (catchUpRead_keeps h).answer
  -- stalls, their memory and their events
  | .stampQueueRelease .. => (stampQueueRelease_keeps h).answer | .translationFault .. => (translationFault_keeps h).answer
  | .faultResolve .. => (faultResolve_keeps h).answer | .ckptPageCopy .. => (ckptPageCopy_keeps h).answer
  | .vblAssert .. => (vblAssert_keeps h).answer | .lineMatch .. => (lineMatch_keeps h).answer
  | .timerExpiry .. => (timerExpiry_keeps h).answer | .sndPeriodExpiry .. => (sndPeriodExpiry_keeps h).answer
  | .inputVisible .. => (inputVisible_keeps h).answer | .stallResetApply .. => (stallResetApplyD_keeps h).answer
  | .checkpointCapture .. => (checkpointCaptureM_keeps h).answer | .checkpointComplete .. => (checkpointCompleteM_keeps h).answer
  | .renderDot .. => (renderDotStep_keeps h).answer | .sliceDeadline .. => (sliceDeadlineRegions_keeps h).answer
  -- scheduling, store buffers and takeover
  | .sliceGrant .. => (sliceGrant_keeps h).answer | .quantumExpiry .. => (quantumExpiry_keeps h).answer
  | .holdEvict .. => (holdEvict_keeps h).answer | .holdClear .. => (holdClear_keeps h).answer
  | .blockedRelease .. => (blockedRelease_keeps h).answer | .parkTimeout .. => (parkTimeout_keeps h).answer
  | .stbDrain .. => (stbDrain_keeps h).answer | .stbFence .. => (stbFence_keeps h).answer
  | .coreFault .. => (coreFault_keeps h).answer | .storeFault .. => (storeFault_keeps h).answer
  | .takeoverComplete => (takeoverComplete_keeps h).answer | .faultPointReached .. => (faultPointReached_keeps h).answer
  | .stableReset .. => (stableReset_keeps h).answer | .ucsValidate .. => (ucsValidate_keeps h).answer
  | .ucsRelease .. => (ucsRelease_keeps h).answer
  -- the composer and the monitor port
  | .cmpCommit .. => (cmpCommit_keeps h).answer | .commitValidated .. => (commitValidated_keeps h).answer
  | .commitTakeEffect .. => (commitTakeEffect_keeps h).answer | .bedRebuildComplete .. => (bedRebuildComplete_keeps h).answer
  | .composeSlice .. => (composeSlice_keeps h).answer | .sliceLateLimit .. => (sliceLateLimit_keeps h).answer
  | .monCommit => (monCommit_keeps h).answer | .monTimingApply => (monTimingApply_keeps h).answer
  | .monEnable .. => (monEnable_keeps h).answer | .monFrameStart .. => (monFrameStart_keeps h).answer
  | .monUnderrun .. => (monUnderrun_keeps h).answer | .monFrameEnd .. => (monFrameEnd_keeps h).answer
  -- the encoders and the audio engine
  | .codingRowStart .. => (codingRowStart_keeps h).answer | .codingRowDone .. => (codingRowDone_keeps h).answer
  | .encRowWatchdog .. => (encRowWatchdog_keeps h).answer | .encCoreFault .. => (encCoreFault_keeps h).answer
  | .encSpareActivate => (encSpareActivate_keeps h).answer | .beamSample .. => (beamSampleStep_keeps h).answer
  | .graphSample .. => (graphSample_keeps h).answer | .audSwap .. => (audSwap_keeps h).answer
  | .audSwapValidated => (audSwapValidated_keeps h).answer | .audioFrameForm .. => (audioFrameForm_keeps h).answer
  -- the Hod engine
  | .hodStart .. => (hodStartCmd_keeps h).answer | .hodHalt .. => (hodHaltCmd_keeps h).answer
  | .hodResume .. => (hodResumeCmd_keeps h).answer | .hodClear .. => (hodClearCmd_keeps h).answer
  | .brickRead .. => (brickRead_keeps h).answer | .brickWrite .. => (brickWrite_keeps h).answer
  | .blitCopy .. => (blitCopy_keeps h).answer | .blitFill .. => (blitFill_keeps h).answer
  | .brickQuery .. => (brickQuery_keeps h).answer | .setpos .. => (brickSetpos_keeps h).answer
  | .seek .. => (brickSeek_keeps h).answer | .flush .. => (brickFlush_keeps h).answer | .setdst .. => (brickSetdst_keeps h).answer
  | .brickGoto .. => (plainStep_keeps h).answer | .brickWait .. => (brickWait_keeps h).answer
  | .waitComplete .. => (waitComplete_keeps h).answer | .brickNop .. | .brickPost .. => (plainStep_keeps h).answer
  | .brickPause .. => (brickPause_keeps h).answer | .brickComplete .. => (brickComplete_keeps h).answer
  | .hodLoop .. => (hodLoop_keeps h).answer | .hodUnit .. => (hodUnit_keeps h).answer | .linkRelease => (linkRelease_keeps h).answer
  | .linkDeliveryVisible .. => (linkDeliveryVisible_keeps h).answer | .hodHstart .. => (hodHstart_keeps h).answer
  | .hodHhalt .. => (hodHhalt_keeps h).answer | .hodHresume .. => (hodHresume_keeps h).answer
  | .hodHclear .. => (hodHclear_keeps h).answer | .hodHostUnit .. => (hodHostUnit_keeps h mmio_rd mmio_wr).answer
  | .hodHgrantWrite .. => (hodHgrantWrite_keeps h).answer | .hodAssign .. => (hodAssign_keeps h).answer
  -- the Mover
  | .movChPi .. => (movChPi_keeps h).answer
  | .dma .. | .planePack .. | .planeUnpack .. | .interleave .. | .deinterleave .. | .fill .. | .bcopy .. | .bconvert ..
    => (movCmd_keeps h mmio_rd mmio_wr).answer
  | .moverStallAccess .. => (moverStallAccess_keeps h).answer | .movFaultResume .. => (movFaultResume_keeps h).answer
  | .movHalt .. => (movHalt_keeps h).answer
  -- memory service
  | .memInval .. => (memInval_keeps h).answer | .memInvalDone => (memInvalDone_keeps h).answer | .hbmUe .. => (hbmUe_keeps h).answer
  | .scrubRead .. => (scrubRead_keeps h).answer | .memXfaultPop => (memXfaultPop_keeps h).answer
  -- yard ports, streams and the yard
  | .portTrained .. => (portTrained_keeps h).answer | .portFail .. => (portFail_keeps h).answer
  | .frameReceive .. => (frameReceive_keeps h).answer | .inputDatagram => (inputDatagram_keeps h).answer
  | .rtcpReport => (rtcpReport_keeps h).answer | .tmmbr => (tmmbr_keeps h).answer | .pli => (pliFir_keeps h).answer
  | .rtcpSrSend .. => (rtcpSrSend_keeps h).answer | .packetSend .. => (packetSend_keeps h).answer
  | .recordRead .. => (recordRead_keeps h).answer | .helloSend .. => (helloSend_keeps h).answer
  | .helloReceive => (helloReceive_keeps h).answer | .routeTimeout .. => (routeTimeout_keeps h).answer
  | .yardDataReceive => (yardDataReceive_keeps h).answer | .yardAckReceive => (yardAckReceive_keeps h).answer
  | .yardNakReceive => (yardNakReceive_keeps h).answer | .ackTimer .. => (ackTimer_keeps h).answer
  | .nakTimer .. => (nakTimer_keeps h).answer | .retransmitTimeout .. => (retransmitTimeout_keeps h).answer
  | .peerUnreachable .. => (peerUnreachable_keeps h).answer | .ptpSync .. => (ptpSync_keeps h).answer
  | .ptpHoldover => (ptpHoldover_keeps h).answer | .yrdLoad .. => (yrdLoad_keeps h).answer | .yrdDetach => (yrdDetach_keeps h).answer
  | .migrationPark .. => (migrationPark_keeps h).answer | .migrateReady .. => (migrateReady_keeps h).answer
  | .migrateCommit .. => (migrateCommit_keeps h).answer | .commitAck .. => (commitAck_keeps h).answer
  -- the host port, mailboxes and rings
  | .cadTimeRead => (cadTimeRead_keeps h).answer | .mbxDoorbell .. => (mbxDoorbell_keeps h).answer
  | .m2hData0Read .. => (m2hData0Read_keeps h).answer | .unknownCommand => (unknownCommand_keeps h).answer
  | .rngSqTail .. => (rngSqTail_keeps h).answer | .rngCqHead .. => (rngCqHead_keeps h).answer
  | .sqRepoll .. => (sqRepoll_keeps h).answer | .sqEntryFetch .. => (sqEntryFetch_keeps h).answer
  | .jobStart .. => (jobStart_keeps h).answer | .ringNop .. => (ringNop_keeps h).answer
  | .ringControl .. => (ringControl_keeps h).answer | .latchInput => (latchInputJob_keeps h).answer
  | .toDevice .. => (toDevice_keeps h).answer | .fromDevice .. => (fromDevice_keeps h).answer
  | .rxBuffer .. => (rxBuffer_keeps h).answer | .hostioTx .. => (hostioTx_keeps h).answer
  | .jobComplete .. => (jobComplete_keeps h).answer | .ringDelivery .. => (ringDelivery_keeps h).answer
  | .rxJobTimeout .. => (rxJobTimeout_keeps h).answer | .perstFull => (perstFull_keeps h).answer
  | .portReset .. => (portResetCmd_keeps h).answer | .orphanTimeout => (orphanTimeout_keeps h).answer
  -- firmware
  | .identify | .fwStatus | .logRead .. | .deviceReset | .abortToBoot | .fwBegin | .fwCommit => (mbxCmd_keeps h).answer
  | .packageCheck .. => (packageCheck_keeps h).answer | .firmwareReady .. => (firmwareReady_keeps h).answer
  | .modeSet | .deviceSet | .setSplit | .ringCreate => (mbxCmd_keeps h).answer | .ringDelete => (ringDelete_keeps h).answer
  | .titleRegister .. | .titleRemove | .pageSupply .. | .stallCreate .. | .stallStart | .stallPark | .stallResume | .stallReset
  | .stallSet | .stallMove | .stallDestroy | .stallQuery | .subchAssign | .linkPeer | .resumeFromCheckpoint | .streamConfig ..
  | .streamNet .. | .courseSet | .regionSet | .streamCommit .. | .streamKeyframe | .streamQuery | .streamDestroy | .laneConfig
  | .laneOpwr | .graphLoad .. | .keySet | .flowSet .. | .flowClear | .yardSet | .addrSet | .routeSet .. | .migrate ..
  | .migrateResolve | .snapshotExport .. | .snapshotImport .. | .debugToken | .debugRevoke => (mbxCmd_keeps h).answer
  -- resets, faults and events
  | .por .. => (por_keeps h).answer | .devrst .. => (devrst_keeps h).answer | .warmrst .. => (warmrst_keeps h).answer
  | .slumberWake .. => (slumberWake_keeps h).answer | .slumberExitReset .. => (slumberExitReset_keeps h).answer
  | .railLoss => (railLoss_keeps h).answer | .refclkLoss .. => (refclkLoss_keeps h).answer | .mpwKick .. => (mpwKick_keeps h).answer
  | .mpwExpiry .. => (mpwExpiry_keeps h).answer | .mpFailure .. => (mpFailure_keeps h).answer
  | .unrecoverableFault .. => (unrecoverableFault_keeps h).answer | .evtArbitration => (evtArbitration_keeps h).answer
  | .evtClaim .. => (evtClaim_keeps h).answer | .evtDone .. => (evtDone_keeps h).answer
  -- debug and test
  | .dbgNonce => (dbgNonce_keeps h).answer | .dbgUnlock .. => (dbgUnlock_keeps h).answer | .dbgLock => (dbgLock_keeps h).answer
  | .nonceExpiry => (nonceExpiry_keeps h).answer | .damAccess .. => (damRun_keeps h).answer
  | .damStallAccess .. => (damStallAccess_keeps h).answer | .dbgSctlHalt .. => (dbgSctlHalt_keeps h).answer
  | .dbgSctlResume .. => (dbgSctlResume_keeps h).answer | .dbgSctlStep .. => (dbgSctlStep_keeps h).answer
  | .dbgSctlFeed .. => (dbgSctlFeed_keeps h).answer | .dbgFreeze .. => (dbgFreeze_keeps h).answer
  | .dbgMpctl .. => (dbgMpctl_keeps h).answer | .advance .. => (otpAdvance_keeps h).answer | .revoke .. => (otpRevoke_keeps h).answer
  | .debugCoreReset .. => (debugCoreReset_keeps h).answer | .cnfEnd => (cnfEnd_keeps h).answer | .idcode => (tapIdcode_keeps h).answer
  | .samplePreload => (tapSample_keeps h).answer | .extest => (tapExtest_keeps h).answer | .clamp => (tapClamp_keeps h).answer
  | .highz => (tapHighz_keeps h).answer | .dbgreg .. => (tapDbgregCmd_keeps h).answer | .bypass => (tapBypass_keeps h).answer
  -- the board interface
  | .gpioCfgWrite .. => (gpioCfgWrite_keeps h).answer | .gpioEdge .. => (gpioEdge_keeps h).answer
  | .throttlePin .. => (throttlePin_keeps h).answer | .tempSample .. => (tempSample_keeps h).answer
  | .chainInRise => (chainInRise_keeps h).answer | .smbusTimeout => (smbusTimeout_keeps h).answer
  | .alertResponse => (alertResponse_keeps h).answer | .assignAddr .. => (mgmtAssign_keeps h).answer
  | .releaseAddr .. => (mgmtRelease_keeps h).answer | .lastStatus .. => (mgmtLastStatus_keeps h).answer
  | .readId .. => (mgmtReadId_keeps h).answer | .readMode .. => (mgmtReadMode_keeps h).answer
  | .readRst .. => (mgmtReadRst_keeps h).answer | .readFstop .. => (mgmtReadFstop_keeps h).answer
  | .readTemp .. => (mgmtReadTemp_keeps h).answer | .readPower .. => (mgmtReadPower_keeps h).answer
  | .devReset .. => (mgmtDevReset_keeps h).answer | .warmReset .. => (mgmtWarmReset_keeps h).answer
  | .sleep .. => (mgmtSleep_keeps h).answer | .wake .. => (mgmtWake_keeps h).answer | .throttle .. => (mgmtThrottle_keeps h).answer
  | .wakeCfg .. => (mgmtWakeCfg_keeps h).answer
  -- registers and pins
  | .registerWrite .. => (registerWrite_keeps h).answer | .resetNRelease .. => (resetNRelease_keeps h).answer
  | .perstDeassert .. => (perstDeassert_keeps h).answer | .pcieLinkUp => (pcieLinkUp_keeps h).answer
  | .resetRelease .. => (resetRelease_keeps h).answer | .testEnAssert => (testEnAssert_keeps h).answer
  | .chainInFall => (chainInFall_keeps h).answer | .mgmtUnknownCommand .. => (mgmtUnknown_keeps h).answer
  | .rcRead .. => (rcRead_keeps h).answer

/-! ### Steps -/

theorem State.Inv.of_keeps {s t : State} (hs : s.Inv) (h : Keeps s t) : t.Inv := ⟨h.hbm hs.hbm, h.host hs.host, h.regs hs.regs⟩

/-- The invariant does not speak of the queue. -/
theorem State.Inv.of_pending {s : State} (hs : s.Inv) (l : List Instr) : { s with pending := l }.Inv := ⟨hs.hbm, hs.host, hs.regs⟩

theorem step_of_pending {s : State} {i : Instr} {l : List Instr} (h : s.pending = i :: l) : step s = exec i { s with pending := l } := by
  rw [step, h]

/-- Settles O3: a nanosecond of the oscillator and every command keep the canonical forms (log entry 2). -/
theorem stepKeepsInvariant : Obligations.StepKeepsInvariant := by
  unfold Obligations.StepKeepsInvariant
  intro s t hs hstep
  cases hqueue : s.pending with
  | nil =>
    rw [step_of_empty hqueue, Host.Outcome.next.injEq] at hstep
    exact hstep ▸ hs.of_keeps (State.tickNs_keeps (Keeps.refl s))
  | cons i l =>
    obtain ⟨u, hexec, hkeeps⟩ := exec_keptBy i { s with pending := l }
    rw [step_of_pending hqueue, hexec, Host.Outcome.next.injEq] at hstep
    exact hstep ▸ (hs.of_pending l).of_keeps hkeeps

end Sys2Proof.Machine
end

section
/-! SUPPORT. The memory service: invalidation, the fault queue, uncorrectable errors and the scrubber (O43). -/
namespace Sys2Proof.Machine

/-! ### Invalidation and the fault queue (R380, R381) -/

theorem memInval_of_served {s : State} (hserves : blocksServe s.mode = true) (k i : Nat) (all global : Bool) :
    memInval k i all global s = s.puts [(MEM_INVAL_STALL, k), (MEM_INVAL_INDEX, i), (MEM_INVAL_STALLALL, b2n all),
      (MEM_INVAL_GLOBAL, b2n global), (MEM_INVAL_GO, 1)] := by
  simp [memInval, hserves]

theorem memInvalDone_of_open {s : State} (hopen : s.invalOpen = true) : memInvalDone s = s := if_pos hopen

theorem memInvalDone_of_closed {s : State} (hclosed : s.invalOpen = false) : memInvalDone s = s.put MEM_INVAL_GO 0 := by
  simp [memInvalDone, hclosed]

theorem memXfaultPop_of_empty {s : State} (hempty : s.xfaults = []) : memXfaultPop s = { s with rdata := 0 } := by
  rw [memXfaultPop, hempty]

theorem memXfaultPop_of_cons {s : State} {x : XFault} {r : List XFault} (hqueue : s.xfaults = x :: r) :
    memXfaultPop s = { s with xfaults := r, rdata := xfaultWord x } := by
  rw [memXfaultPop, hqueue]

/-! ### Errors in HBM (R362 – R365) -/

@[simp] theorem State.inc_ceFrames (s : State) (f : Fld) : (s.inc f).ceFrames = s.ceFrames := rfl

/-- The scrubber's position, recorded as it reads the burst at `addr`. -/
def State.scrubAt (s : State) (addr : Nat) : State :=
  s.puts [(MEM_SCRUB_EXTENT, extentOf addr % 12288), (MEM_SCRUB_STACK, extentOf addr / 12288)]

@[simp] theorem State.scrubAt_ceFrames (s : State) (addr : Nat) : (s.scrubAt addr).ceFrames = s.ceFrames := by
  rw [State.scrubAt, State.puts_eq]

/-- The corrected errors of the frame of `addr`, with the one just met. -/
def State.corrections (s : State) (addr : Nat) : Nat := (lookupN (addr / 4096) s.ceFrames).getD 0 + 1

/-- The state with the corrected errors of each frame as given. -/
def State.setCeFrames (s : State) (l : List (Nat × Nat)) : State := { s with ceFrames := l }

/-- The scrubber has met a corrected error at `addr`, and counts it by stack and by frame. -/
def State.countCorrected (s : State) (addr : Nat) : State :=
  ((s.scrubAt addr).inc (if extentOf addr < 12288 then MEM_CE0_COUNT else MEM_CE1_COUNT)).setCeFrames
    (insertN (addr / 4096) (s.corrections addr) s.ceFrames)

section
variable {s : State} {addr : Nat} (hserved : memServed s = true) (hregion : regionOf addr = .hbm)
include hserved hregion

/-- An error that a twin serves, or that no host program and no Mover descriptor met, is handled by its frame alone. -/
theorem hbmUe_of_frame_alone {agent : Nat} (hagent : (agent ≠ 3 ∧ agent ≠ 4) ∨ s.twinned (extentOf addr) = true) (who : Nat) :
    hbmUe addr agent who s = s.hbmError (addr / 32 * 32) agent := by
  rcases hagent with ⟨hhost, hmover⟩ | htwin
  · simp [hbmUe, hserved, hregion, hhost, hmover]
  · simp [hbmUe, hserved, hregion, htwin]

theorem hbmUe_of_host_program {who : Nat} (htwin : s.twinned (extentOf addr) = false) (hwho : who < 64)
    (hbusy : ((s.hbmError (addr / 32 * 32) 3).hsub who).phase ≠ .idle) : hbmUe addr 3 who s =
      (s.hbmError (addr / 32 * 32) 3).hostEnd who 10 (hostResid ((s.hbmError (addr / 32 * 32) 3).hsub who)) := by
  simp [hbmUe, hserved, hregion, htwin, hwho, hbusy]

theorem hbmUe_of_descriptor {who : Nat} (htwin : s.twinned (extentOf addr) = false) (hwho : who < 8)
    (hbusy : ((s.hbmError (addr / 32 * 32) 4).mov who).busy = true) : hbmUe addr 4 who s =
      (s.hbmError (addr / 32 * 32) 4).movEnd who 14 ((s.hbmError (addr / 32 * 32) 4).mov who).resid
        (mCtl ((s.hbmError (addr / 32 * 32) 4).mov who).desc 4) := by
  simp [hbmUe, hserved, hregion, htwin, hwho, hbusy]

variable (hscrub : s.get MEM_CTL_SCRUB = 1)
include hscrub

theorem scrubRead_clean : scrubRead addr 0 s = s.scrubAt addr := by
  simp [scrubRead, hserved, hregion, hscrub, State.scrubAt]

/-- A corrected error is counted, and retires its frame at the limit. -/
theorem scrubRead_corrected : scrubRead addr 1 s =
    (if max 1 ((s.countCorrected addr).get MEM_CE_RETIRE_LIMIT) ≤ s.corrections addr then (s.countCorrected addr).retire (addr / 4096)
    else s.countCorrected addr) := by
  have hmay : ¬(!memServed s || regionOf addr != .hbm || s.get MEM_CTL_SCRUB == 0) = true := by simp [hserved, hregion, hscrub]
  unfold scrubRead
  extract_lets e t f n c u
  have hframes : t.ceFrames = s.ceFrames := s.scrubAt_ceFrames addr
  have hn : n = s.corrections addr := by rw [State.corrections, ← hframes]
  have hu : u = s.countCorrected addr := by
    show c.setCeFrames (insertN f n c.ceFrames) = _
    rw [hn, State.inc_ceFrames, hframes]
    rfl
  rw [if_neg hmay, if_pos rfl, hn, hu]

theorem scrubRead_uncorrectable : scrubRead addr 2 s = (s.scrubAt addr).hbmError (addr / 32 * 32) 7 := by
  simp [scrubRead, hserved, hregion, hscrub, State.scrubAt]

end

/-! ### The statement -/

theorem exec_memInval (k i : Nat) (all global : Bool) (s : State) :
    exec (.memInval k i all global) s = .next (memInval k i all global s) := rfl
theorem exec_memInvalDone (s : State) : exec .memInvalDone s = .next (memInvalDone s) := rfl
theorem exec_memXfaultPop (s : State) : exec .memXfaultPop s = .next (memXfaultPop s) := rfl
theorem exec_hbmUe (addr agent who : Nat) (s : State) : exec (.hbmUe addr agent who) s = .next (hbmUe addr agent who s) := rfl
theorem exec_scrubRead (addr result : Nat) (s : State) : exec (.scrubRead addr result) s = .next (scrubRead addr result s) := rfl

/-- Settles O43: each clause is the equation of its command, and the limit decides whether a corrected error retires its frame (R365). -/
theorem memoryServiceComplete : Obligations.MemoryServiceComplete := by
  unfold Obligations.MemoryServiceComplete
  simp -zeta only [exec_memInval, exec_memInvalDone, exec_memXfaultPop, exec_hbmUe, exec_scrubRead, Host.Outcome.next.injEq]
  intro s
  refine ⟨fun k i all g hserves => memInval_of_served hserves k i all g, memInvalDone_of_open, fun hclosed => ?invalidated,
    memXfaultPop_of_empty, fun x r => memXfaultPop_of_cons, fun addr hserved hregion =>
      ⟨fun agent who hagent => hbmUe_of_frame_alone hserved hregion hagent who,
        fun who => hbmUe_of_host_program hserved hregion, fun who => hbmUe_of_descriptor hserved hregion,
        fun hscrub => ?scrub⟩⟩
  case invalidated =>
    rw [memInvalDone_of_closed hclosed]
    exact ⟨_, rfl, State.get_put _ _ _ (by decide), State.put_stalls _ _ _, State.put_hbm _ _ _⟩
  case scrub =>
    intro t n c u
    have hu : u = s.countCorrected addr := rfl
    rw [scrubRead_corrected hserved hregion hscrub, ← hu]
    exact ⟨scrubRead_clean hserved hregion hscrub, fun hbelow => if_neg (Nat.not_le.2 hbelow), fun hlimit => if_pos hlimit,
      scrubRead_uncorrectable hserved hregion hscrub⟩

end Sys2Proof.Machine
end

section
/-! SUPPORT. A step on a waiting command (O1), and what no command undoes (O5). -/
namespace Sys2Proof.Machine

/-- Settles O1: the queue's front is the command, its rest the queue that it runs on. -/
theorem stepRunsTheFront : Obligations.StepRunsTheFront := by
  unfold Obligations.StepRunsTheFront
  intro s c
  exact step_of_pending rfl

/-- Settles O5: the part of `exec_keptBy` that speaks of the queue, the free values and the fuses. -/
theorem commandsKeepQueueAndFuses : Obligations.CommandsKeepQueueAndFuses := by
  unfold Obligations.CommandsKeepQueueAndFuses
  intro c s
  obtain ⟨t, hexec, hkeeps⟩ := exec_keptBy c s
  exact ⟨t, hexec, hkeeps.pending, hkeeps.free, hkeeps.epoch, hkeeps.revoked⟩

end Sys2Proof.Machine
end

section
/-! SUPPORT. Resets: what one carries over, the reset cause and the boot (O53), and the state after reset (O4). -/
namespace Sys2Proof.Machine

/-! ### The log and the mode (R458, R480) -/

/-- A log entry changes the log and draws its severity and source. -/
theorem State.logEntry_eq (s : State) (code : Nat) (args : Bytes) :
    ∃ free log logSeq, s.logEntry code args = { s with free, log, logSeq } := ⟨_, _, _, rfl⟩

/-- A delivery is captured, or dropped and counted. -/
theorem State.capture_eq (s : State) (c id : Nat) (data : Bytes) :
    ∃ captured dropped, s.capture c id data = { s with captured, dropped } := by
  unfold State.capture
  split
  · exact ⟨_, _, rfl⟩
  · exact ⟨_, _, rfl⟩

/-- A change of mode changes the mode and its detail, and is logged and posted. -/
theorem State.toMode_eq (s : State) (m : Mode) (detail : Nat) : ∃ free log logSeq captured dropped,
    s.toMode m detail = { s with mode := m, detail, free, log, logSeq, captured, dropped } := by
  unfold State.toMode
  extract_lets s1 s2
  obtain ⟨free, log, logSeq, hlog⟩ := s1.logEntry_eq nMode (leBytes 4 s1.devMode)
  have hs2 : s2 = _ := hlog
  split
  · obtain ⟨captured, dropped, hcap⟩ := s2.capture_eq 7 0 (noticeBytes nMode 0 s2.devMode 0 s2.time)
    rw [hcap, hs2]
    exact ⟨_, _, _, _, _, rfl⟩
  · rw [hs2]
    exact ⟨_, _, _, _, _, rfl⟩

/-- A field of the state that a change of mode leaves. -/
theorem State.toMode_field {α : Type} {g : State → α} (hg : ∀ (s : State) mode detail free log logSeq captured dropped,
    g { s with mode, detail, free, log, logSeq, captured, dropped } = g s) (s : State) (m : Mode) (detail : Nat) :
    g (s.toMode m detail) = g s := by
  obtain ⟨free, log, logSeq, captured, dropped, h⟩ := s.toMode_eq m detail
  rw [h, hg]

section
variable (s : State) (m : Mode) (detail : Nat)

@[simp] theorem State.toMode_regs : (s.toMode m detail).regs = s.regs := State.toMode_field (fun _ _ _ _ _ _ _ _ => rfl) s m detail
@[simp] theorem State.toMode_stalls : (s.toMode m detail).stalls = s.stalls := State.toMode_field (fun _ _ _ _ _ _ _ _ => rfl) s m detail
@[simp] theorem State.toMode_hbm : (s.toMode m detail).hbm = s.hbm := State.toMode_field (fun _ _ _ _ _ _ _ _ => rfl) s m detail
@[simp] theorem State.toMode_alert : (s.toMode m detail).alert = s.alert := State.toMode_field (fun _ _ _ _ _ _ _ _ => rfl) s m detail

@[simp] theorem State.toMode_mode : (s.toMode m detail).mode = m := by
  obtain ⟨free, log, logSeq, captured, dropped, h⟩ := s.toMode_eq m detail
  rw [h]

@[simp] theorem State.toMode_detail : (s.toMode m detail).detail = detail := by
  obtain ⟨free, log, logSeq, captured, dropped, h⟩ := s.toMode_eq m detail
  rw [h]

end

theorem State.get_toMode (s : State) (m : Mode) (detail : Nat) (f : Fld) : (s.toMode m detail).get f = s.get f :=
  State.get_congr (s.toMode_regs m detail) f

/-! ### Registers that a reset carries over (R482, R487) -/

theorem State.get_lt (s : State) (f : Fld) : s.get f < 2 ^ f.w := by
  rw [State.get, field_eq]
  exact Nat.mod_lt _ (Nat.two_pow_pos _)

/-- An aligned 32-bit register reads what was put into it; every other one reads as before. -/
theorem State.reg32_putReg32 (s : State) {o p : Nat} (v : Nat) (ho : o % 4 = 0) (hp : p % 4 = 0) :
    (s.putReg32 o v).reg32 p = if o = p then v % 2 ^ 32 else s.reg32 p := by
  have hfits : (⟨o, 0, 32⟩ : Fld).fits = true := by simp only [Fld.fits, decide_eq_true_eq]; omega
  unfold State.reg32 State.putReg32
  by_cases h : o = p
  · rw [if_pos h, ← h, State.get_put s _ v hfits]
  · rw [if_neg h]
    refine State.get_put_apart s _ _ v hfits ?_
    simp only [Fld.apart, Bool.or_eq_true, decide_eq_true_eq]
    omega

/-- Registers carried over read as in the old state. -/
theorem State.reg32_keepRegs (old s : State) {l : List Nat} (hl : ∀ o ∈ l, o % 4 = 0) {p : Nat} (hp : p % 4 = 0) :
    (old.keepRegs s l).reg32 p = if p ∈ l then old.reg32 p else s.reg32 p := by
  unfold State.keepRegs
  induction l generalizing s with
  | nil => simp
  | cons o l ih =>
    obtain ⟨ho, hl⟩ := List.forall_mem_cons.1 hl
    rw [List.foldl_cons, ih _ hl, State.reg32_putReg32 _ _ ho hp, Nat.mod_eq_of_lt (show old.reg32 o < 2 ^ 32 from old.get_lt _)]
    by_cases h : o = p
    · simp [h]
    · simp [h, Ne.symm h]

/-- Registers that are carried over change nothing else. -/
theorem State.keepRegs_eq (old s : State) (l : List Nat) : old.keepRegs s l = { s with regs := (old.keepRegs s l).regs } := by
  unfold State.keepRegs
  induction l generalizing s with
  | nil => rfl
  | cons o l ih =>
    rw [List.foldl_cons, ih]
    rfl

theorem aonRegs_aligned : ∀ o ∈ aonRegs, o % 4 = 0 := by decide
theorem fstopRegs_aligned : ∀ o ∈ fstopRegs, o % 4 = 0 := by decide
theorem aonRegs_below_pci : ∀ o ∈ aonRegs, o < 0x4000000 := by decide
theorem fstopRegs_below_pci : ∀ o ∈ fstopRegs, o < 0x4000000 := by decide

theorem lookupN_filter {α : Type} (l : List (Nat × α)) (p : Nat → Bool) (k : Nat) :
    lookupN k (l.filter fun x => p x.1) = if p k then lookupN k l else none := by
  induction l with
  | nil => simp [lookupN]
  | cons x l ih =>
    obtain ⟨j, v⟩ := x
    by_cases hj : j = k
    · subst hj
      cases hp : p j <;> simp [hp, lookupN, ih]
    · cases hp : p j <;> simp [hp, hj, lookupN, ih]

theorem State.reg32_congr {s t : State} (h : t.regs = s.regs) (o : Nat) : t.reg32 o = s.reg32 o := State.get_congr h _

/-- The device as a reset begins it, before registers are carried over: every field is that of the reset state, but for HBM and its
records at a WARMRST and what the always-on domain and the pins keep (R482 – R484, R487). -/
def State.resetBase (s : State) (link warm : Bool) : State := { State.reset with
  pending := s.pending, free := s.free, host := s.host, out := s.out, rdata := s.rdata
  linkUp := s.linkUp && link, regs := if link then s.pciRegs else []
  otpEpoch := s.otpEpoch, otpRevoked := s.otpRevoked
  pads := s.pads, pinLow := s.pinLow, hot := s.hot, trip := s.trip, alert := s.alert, mgmt := s.mgmt
  chainIn := s.chainIn, chainUp := s.chainReady
  perst := s.perst, resetN := s.resetN, testEn := s.testEn, rails := s.rails, clocks := s.clocks, railLost := s.railLost
  waking := s.waking, wakeN := s.wakeN, tapIr := s.tapIr, tapDr := s.tapDr
  hbm := if warm then s.hbm else [], ueFrames := if warm then s.ueFrames else [], ceFrames := if warm then s.ceFrames else []
  retired := if warm then s.retired else [], root := if warm then s.mkRoot else none, warm }

theorem State.afterReset_of_base (s : State) (fstop link warm : Bool) : s.afterReset fstop link warm =
    if fstop then s.keepRegs (s.keepRegs (s.resetBase link warm) aonRegs) fstopRegs else s.keepRegs (s.resetBase link warm) aonRegs := by
  cases warm <;> rfl

/-- A reset leaves what it begins with, and the registers that it carries over. -/
theorem State.afterReset_eq (s : State) (fstop link warm : Bool) :
    ∃ regs, s.afterReset fstop link warm = { s.resetBase link warm with regs } := by
  rw [State.afterReset_of_base]
  split
  · rw [State.keepRegs_eq, s.keepRegs_eq (s.resetBase link warm)]
    exact ⟨_, rfl⟩
  · rw [State.keepRegs_eq]
    exact ⟨_, rfl⟩

/-- Below BAR4 a reset begins with every register at its Reset value. -/
theorem State.reg32_resetBase_low (s : State) {link : Bool} (warm : Bool) {o : Nat} (ho : link = true → o < 0x4000000) :
    (s.resetBase link warm).reg32 o = State.reset.reg32 o := by
  refine congrArg (fun q : QWord => field q.toNat _ _) ?_
  cases link with
  | false => rfl
  | true =>
    have hlow : ¬0x4000000 ≤ 8 * (o / 8) := by have := ho rfl; omega
    show (lookupN (o / 8) s.pciRegs).getD _ = _
    rw [State.pciRegs, lookupN_filter s.regs (fun q => decide (0x4000000 ≤ 8 * q)), if_neg (by simpa using hlow)]
    rfl

/-- With the link the registers of the PCI Express function stay. -/
theorem State.reg32_resetBase_pci (s : State) (warm : Bool) {o : Nat} (ho : 0x4000000 ≤ o) :
    (s.resetBase true warm).reg32 o = s.reg32 o := by
  have hhigh : 0x4000000 ≤ 8 * (o / 8) := by omega
  refine congrArg (fun q : QWord => field q.toNat _ _) ?_
  show (lookupN (o / 8) s.pciRegs).getD _ = _
  rw [State.pciRegs, lookupN_filter s.regs (fun q => decide (0x4000000 ≤ 8 * q)), if_pos (by simpa using hhigh)]
  rfl

/-- A register after a reset: carried over, or as the reset begins. -/
theorem State.reg32_afterReset (s : State) (fstop link warm : Bool) {o : Nat} (ho : o % 4 = 0) :
    (s.afterReset fstop link warm).reg32 o =
      if o ∈ aonRegs ∨ (fstop = true ∧ o ∈ fstopRegs) then s.reg32 o else (s.resetBase link warm).reg32 o := by
  have haon := State.reg32_keepRegs s (s.resetBase link warm) aonRegs_aligned ho
  rw [State.afterReset_of_base]
  cases fstop with
  | false => simp [haon]
  | true =>
    rw [if_pos rfl, State.reg32_keepRegs s _ fstopRegs_aligned ho, haon]
    by_cases ha : o ∈ aonRegs <;> by_cases hf : o ∈ fstopRegs <;> simp [ha, hf]

/-! ### The boot (R446) -/

theorem State.puts_append (s : State) (l m : List (Fld × Nat)) : s.puts (l ++ m) = (s.puts l).puts m := List.foldl_append

/-- The device released from its hold. -/
def State.released (s : State) : State := { s with held := false, waking := false, wakeN := false }

/-- The registers that the boot ROM sets; MP0 stands aside where it fails its self-test. -/
def bootRegs (mp0 : Bool) : List (Fld × Nat) :=
  [(MEM_STAT_TRAINED0, 1), (MEM_STAT_TRAINED1, 1), (MBX_STATE_READY, 1)] ++
    if mp0 then [] else [(MP_STATE_ACTIVE, 1), (MP_STATE_MP0, 3), (MP_STATE_MP1, 1), (FLT_DEGRADE_MP_STANDBY, 1)]

theorem State.boot_eq (s : State) (mp0 : Bool) : s.boot mp0 = (s.released.puts (bootRegs mp0)).toMode .boot 0 := by
  unfold State.boot bootRegs
  extract_lets s0 s1 s2
  rw [State.puts_append]
  refine congrArg (fun t : State => t.toMode .boot 0) ?_
  have hs1 : s1 = s.released.puts [(MEM_STAT_TRAINED0, 1), (MEM_STAT_TRAINED1, 1), (MBX_STATE_READY, 1)] := rfl
  unfold s2
  rw [hs1]
  split
  · rw [State.puts_nil]
  · rfl

theorem State.get_boot (s : State) (mp0 : Bool) (f : Fld) : (s.boot mp0).get f = (s.released.puts (bootRegs mp0)).get f := by
  rw [State.boot_eq, State.get_toMode]

/-! ### The statements -/

/-- Settles O53: registers are carried over, at their Reset values or with the link; every other field is read off (R482 – R484, R487). -/
theorem resetKeeps : Obligations.ResetKeeps := by
  unfold Obligations.ResetKeeps
  refine ⟨?reset, fun s c hc => State.get_put s RST_CAUSE_CAUSES _ (by decide), ?boot⟩
  case reset =>
    intro s fstop link warm t
    have hkept {o : Nat} (ho : o % 4 = 0) : t.reg32 o = _ := s.reg32_afterReset fstop link warm ho
    obtain ⟨regs, ht⟩ : ∃ regs, t = { s.resetBase link warm with regs } := s.afterReset_eq fstop link warm
    have hfields : t.mode = .boot ∧ t.held = true ∧ t.stalls = [] ∧ t.titles = [] ∧ t.rings = [] ∧ t.streams = [] ∧ t.keys = [] ∧
        t.log = [] ∧ t.host = s.host ∧ t.otpEpoch = s.otpEpoch ∧ t.otpRevoked = s.otpRevoked ∧ t.hbm = (if warm then s.hbm else []) ∧
        t.linkUp = (s.linkUp && link) := by
      rw [ht]
      exact ⟨rfl, rfl, rfl, rfl, rfl, rfl, rfl, rfl, rfl, rfl, rfl, rfl, rfl⟩
    obtain ⟨hmode, hheld, hstalls, htitles, hrings, hstreams, hkeys, hlog, hhost, hepoch, hrevoked, hhbm, hlinkUp⟩ := hfields
    refine ⟨hmode, hheld, hstalls, htitles, hrings, hstreams, hkeys, hlog, hhost, hepoch, hrevoked, hhbm, hlinkUp,
      fun o ho => ?kept, fun o halign haon hfstop hlow => ?cleared, fun o halign hhigh hlink => ?pci⟩
    case kept =>
      rw [hkept (ho.elim (aonRegs_aligned o) fun h => fstopRegs_aligned o h.2), if_pos ho]
    case cleared =>
      rw [hkept halign, if_neg (fun h => h.elim haon fun h => hfstop h.1 h.2), s.reg32_resetBase_low warm hlow]
    case pci =>
      have haon : o ∉ aonRegs := fun h => absurd (aonRegs_below_pci o h) (Nat.not_lt.2 hhigh)
      have hfstop : o ∉ fstopRegs := fun h => absurd (fstopRegs_below_pci o h) (Nat.not_lt.2 hhigh)
      rw [hkept halign, if_neg (fun h => h.elim haon fun h => hfstop h.2), hlink, s.reg32_resetBase_pci warm hhigh]
  case boot =>
    intro s mp0 t
    have hget (f : Fld) : t.get f = (s.released.puts (bootRegs mp0)).get f := s.get_boot mp0 f
    obtain ⟨free, log, logSeq, captured, dropped, ht⟩ := (s.released.puts (bootRegs mp0)).toMode_eq .boot 0
    rw [← State.boot_eq, State.puts_eq] at ht
    have hfields : t.mode = .boot ∧ t.held = false ∧ t.hbm = s.hbm := by
      rw [show t = _ from ht]
      exact ⟨rfl, rfl, rfl⟩
    obtain ⟨hmode, hheld, hhbm⟩ := hfields
    refine ⟨hmode, hheld, ?ready, ?trained0, ?trained1, hhbm, fun hmp0 => ?standby⟩
    case ready | trained0 | trained1 =>
      rw [hget]
      cases mp0 <;> simp (disch := decide) [bootRegs, State.get_put_apart, State.get_put]
    case standby =>
      subst hmp0
      simp (disch := decide) [hget, bootRegs, State.get_put_apart, State.get_put, show MP_STATE_MP0.w = 2 from rfl]

/-- Settles O4: the reset state is given field by field, and lists no register and no byte (log entry 5). -/
theorem resetState : Obligations.ResetState := by
  unfold Obligations.ResetState
  exact ⟨⟨rfl, rfl, rfl⟩, rfl, rfl, rfl, rfl, rfl, fun _ => rfl, fun _ => rfl⟩

end Sys2Proof.Machine
end

section
/-! SUPPORT. The MP cores, FAIL_STOP and the event controller (O55). -/
namespace Sys2Proof.Machine

/-! ### What discarded work leaves (R330, R355, R497) -/

/-- A fold of steps that each leave a field leaves it. -/
theorem foldl_field {α β γ : Type} {g : β → γ} {f : β → α → β} (hf : ∀ b a, g (f b a) = g b) (l : List α) (b : β) :
    g (l.foldl f b) = g b := by
  induction l generalizing b with
  | nil => rfl
  | cons a l ih => exact (ih _).trans (hf b a)

theorem State.puts_mode (s : State) (l : List (Fld × Nat)) : (s.puts l).mode = s.mode := by rw [State.puts_eq]
theorem State.puts_hbm (s : State) (l : List (Fld × Nat)) : (s.puts l).hbm = s.hbm := by rw [State.puts_eq]

@[simp] theorem State.raise_mode (s : State) (n : Nat) : (s.raise n).mode = s.mode := rfl
@[simp] theorem State.raise_detail (s : State) (n : Nat) : (s.raise n).detail = s.detail := rfl
@[simp] theorem State.raise_alert (s : State) (n : Nat) : (s.raise n).alert = s.alert := rfl
@[simp] theorem State.inc_mode (s : State) (f : Fld) : (s.inc f).mode = s.mode := rfl
@[simp] theorem State.setMov_mode (s : State) (c : Nat) (x : MovCh) : (s.setMov c x).mode = s.mode := rfl

theorem State.hostPost_mode (s : State) (h code flags resid baddr : Nat) : (s.hostPost h code flags resid baddr).mode = s.mode := by
  unfold State.hostPost
  extract_lets s1 area a s2
  have hs1 : s1.mode = s.mode := s.puts_mode _
  rw [State.raise_mode, ← hs1]
  unfold s2
  split
  · rfl
  split
  · rfl
  · split <;> rfl
  · rfl

theorem State.abortHost_mode (s : State) : s.abortHost.mode = s.mode := by
  refine foldl_field (g := State.mode) (fun t h => ?_) _ s
  split
  · rfl
  · exact State.hostPost_mode _ _ _ _ _ _

theorem State.ringPut_mode (s : State) (a : Nat) (bs : Bytes) : (s.ringPut a bs).mode = s.mode := by
  unfold State.ringPut
  split
  · rfl
  · split <;> rfl
  · rfl

theorem State.movEnd_mode (s : State) (c status resid : Nat) (irq : Bool) : (s.movEnd c status resid irq).mode = s.mode := by
  unfold State.movEnd
  extract_lets ci tail s1 s2 s3 s4
  have hs3 : s3.mode = s.mode := by rw [State.puts_mode, State.setMov_mode, State.ringPut_mode]
  have hs4 : s4.mode = s3.mode := by
    unfold s4
    split
    · rw [State.raise_mode, State.put_mode]
    · rfl
  split
  · rw [State.raise_mode, hs4, hs3]
  · rw [hs4, hs3]

theorem State.abortMover_mode (s : State) : s.abortMover.mode = s.mode := by
  refine foldl_field (g := State.mode) (fun t c => ?_) _ s
  dsimp only
  split
  · exact t.movEnd_mode _ _ _ _
  · rfl

theorem State.discard_mode (s : State) (lost : Nat) : (s.discard lost).mode = s.mode := by
  unfold State.discard
  extract_lets s1 s2
  have hs1 : s1.mode = s.mode := by
    unfold s1
    split
    · exact s.abortHost_mode
    · rfl
  have hs2 : s2.mode = s1.mode := by
    unfold s2
    split
    · exact s1.abortMover_mode
    · rfl
  rw [apply_ite State.mode]
  exact (ite_self _).trans (hs2.trans hs1)

/-! ### The MP cores (R492 – R495) -/

theorem mpwKick_of_key {s : State} {n key : Nat} (hn : n < 2) (hleft : nthD s.mpwLeft n none = none) (hkey : key % 256 = 0xA5) :
    mpwKick n key s = { s with mpwEnd := setNth s.mpwEnd n (s.time + 1000 * max 100 (s.get (mpwLimit n))) } := by
  rw [mpwKick, if_pos ⟨hn, hkey⟩, State.mpwReload, hleft]
  rfl

section
variable {s : State} {n : Nat} (lost : Nat) (hn : n < 2) (hen : s.get (mpwEn n) = 1) (hleft : nthD s.mpwLeft n none = none)
  (hdue : nthD s.mpwEnd n 0 ≤ s.time) (hmode : mayFailStop s.mode = true) (hlive : s.get (mpCore n) ≠ 3)
include hn hen hleft hdue hmode hlive

/-- A watchdog that expires is reported; its core fails where it is active, and else is fenced (R492, R494). -/
theorem mpwExpiry_of_due : mpwExpiry n lost s =
    if s.get MP_STATE_ACTIVE = n then (s.raise evMpwExpired).mpFail 0 lost
    else ((s.raise evMpwExpired).fenceMp n).setDegrade FLT_DEGRADE_MP_STANDBY 1 := by
  have hactive : (s.raise evMpwExpired).get MP_STATE_ACTIVE = s.get MP_STATE_ACTIVE :=
    State.get_put_apart s _ _ _ (by decide) (by decide)
  rw [mpwExpiry, if_pos ⟨hn, hen, hleft, hdue, hmode, hlive⟩]
  dsimp only
  rw [hactive]

end

@[simp] theorem State.recordFault_mode (s : State) (kind unit : Nat) : (s.recordFault kind unit).mode = s.mode := by
  rw [State.recordFault, State.inc_mode, State.puts_mode]

@[simp] theorem State.fenceMp_mode (s : State) (n : Nat) : (s.fenceMp n).mode = s.mode := rfl

/-- Outside DEBUG_FREEZE a failure of the active core is recovered at once (R494, R500). -/
theorem State.mpFail_of_running {s : State} (hmode : s.mode ≠ .debugFreeze) (cause lost : Nat) : s.mpFail cause lost =
    (((s.recordFault 6 (s.get MP_STATE_ACTIVE)).fenceMp (s.get MP_STATE_ACTIVE)).discard lost).mpRecover (s.get MP_STATE_ACTIVE)
      (if cause = 1 then 0x42 else 0x40) := by
  unfold State.mpFail
  extract_lets core s1 s2 reason
  have hkept : s2.mode = s.mode := by rw [State.discard_mode, State.fenceMp_mode, State.recordFault_mode]
  exact if_neg fun h => hmode (hkept ▸ h.1)

theorem State.followDegrade_regs (s : State) : s.followDegrade.regs = s.regs := by
  have hserve : s.enterServe.regs = s.regs := by
    unfold State.enterServe
    split <;> exact State.toMode_regs _ _ _
  unfold State.followDegrade
  split
  · split
    · rfl
    · exact hserve
  · split
    · exact hserve
    · rfl
  · rfl

/-- The standby takes over: the registers of the cores, the count of takeovers, the event and the degradation (R494, R495). -/
theorem State.mpRecover_regs {s : State} {core : Nat} (reason : Nat) (hstandby : s.get (mpCore (1 - core)) = 2) :
    (s.mpRecover core reason).regs =
      ((((s.puts [(mpCore (1 - core), 1), (MP_STATE_ACTIVE, 1 - core)]).inc MP_STATE_FAILOVERS).raise evMpFailover).put
        FLT_DEGRADE_MP_STANDBY 1).regs := by
  unfold State.mpRecover
  extract_lets other s1 s2 s3
  rw [if_pos hstandby]
  exact State.followDegrade_regs _

theorem State.mpRecover_of_standby {s : State} {core : Nat} (reason : Nat) (hcore : core < 2) (hstandby : s.get (mpCore (1 - core)) = 2) :
    let t := s.mpRecover core reason
    t.get (mpCore (1 - core)) = 1 ∧ t.get MP_STATE_ACTIVE = 1 - core ∧ t.evLatched evMpFailover = true ∧
      t.get FLT_DEGRADE_MP_STANDBY = 1 := by
  intro t
  have hget (f : Fld) : t.get f = _ := State.get_congr (s.mpRecover_regs reason hstandby) f
  obtain rfl | rfl : core = 0 ∨ core = 1 := by omega
  all_goals
    simp (disch := decide) only [State.evLatched, hget, State.raise, State.inc, State.puts_cons, State.puts_nil, State.get_put_apart,
      State.get_put]
    decide

/-! ### FAIL_STOP (R437, R502) -/

theorem State.puts_foldl {α : Type} (s : State) (l : List α) (g : α → Fld × Nat) :
    l.foldl (fun s a => s.put (g a).1 (g a).2) s = s.puts (l.map g) := by
  rw [State.puts, List.foldl_map]

/-- A message changes the registers and what has been sent alone. -/
theorem State.msix_eq (s : State) (v : Nat) : ∃ regs out, s.msix v = { s with regs, out } := by
  have hemit : s.emit (.msix v) = { s with out := s.out ++ [.msix v] } := rfl
  rcases s.msix_cases v with h | h | h
  · exact ⟨s.regs, s.out, h⟩
  · exact ⟨_, s.out, h⟩
  · exact ⟨s.regs, s.out ++ [.msix v], h.trans hemit⟩

theorem msixPend_fits (v : Nat) : (msixPend v).fits = true := by
  have hw : 8 * ((0x4000800 + 4 * (v / 32)) % 8) + v % 32 + 1 ≤ 64 := by omega
  exact decide_eq_true hw

theorem State.msix_field {α : Type} {g : State → α} (hg : ∀ (s : State) regs out, g { s with regs, out } = g s) (s : State) (v : Nat) :
    g (s.msix v) = g s := by
  obtain ⟨regs, out, h⟩ := s.msix_eq v
  rw [h, hg]

/-- A message leaves every register below BAR4. -/
theorem State.get_msix (s : State) (v : Nat) {f : Fld} (hf : f.off < 0x4000000) : (s.msix v).get f = s.get f := by
  have hapart : (msixPend v).apart f = true := by
    have hslot : (0x4000800 + 4 * (v / 32)) / 8 ≠ f.off / 8 := by omega
    simp [Fld.apart, msixPend, hslot]
  rcases s.msix_cases v with h | h | h
  · rw [h]
  · rw [h, State.get_put_apart s _ _ _ (msixPend_fits v) hapart]
  · rw [h]
    rfl

/-- The registers that FAIL_STOP captures: its cause, its time and the ring entry. -/
def fstopPuts (reason ring index time : Nat) (e : Bytes) : List (Fld × Nat) :=
  [(FSTOP_CAUSE_REASON, reason), (FSTOP_CAUSE_RING, ring), (FSTOP_CAUSE_INDEX, index), (FSTOP_CAUSE_VALID, 1), (FSTOP_TIME_TIME, time)] ++
    (upto 16).map fun k => (FSTOP_ENTRY_DWORD.nth 4 k, leAt e (4 * k) 4)

/-- The state with its alert raised and no reset due. -/
def State.alerted (s : State) : State := { s with alert := true, rstDue := none }
@[simp] theorem State.alerted_alert (s : State) : s.alerted.alert = true := rfl
@[simp] theorem State.alerted_stalls (s : State) : s.alerted.stalls = s.stalls := rfl
@[simp] theorem State.alerted_hbm (s : State) : s.alerted.hbm = s.hbm := rfl
@[simp] theorem State.get_alerted (s : State) (f : Fld) : s.alerted.get f = s.get f := rfl
/-- FAIL_STOP captures its cause, raises the alert, takes the mode, and tells. -/
theorem State.failStop_eq (s : State) (reason ring index : Nat) (e : Bytes) :
    ∃ x, x = s.puts (fstopPuts reason ring index s.time e) ∧
      s.failStop reason ring index e = ((x.alerted.toMode .failStop reason).raise evFailStop).msix 0 := by
  refine ⟨_, ?_, rfl⟩
  rw [fstopPuts, State.puts_append]
  exact State.puts_foldl _ (upto 16) fun k => (FSTOP_ENTRY_DWORD.nth 4 k, leAt e (4 * k) 4)

/-- FAIL_STOP leaves the stalls and HBM. -/
theorem State.failStop_fields (s : State) (reason ring index : Nat) (e : Bytes) :
    (s.failStop reason ring index e).mode = .failStop ∧ (s.failStop reason ring index e).detail = reason ∧
      (s.failStop reason ring index e).alert = true ∧ (s.failStop reason ring index e).stalls = s.stalls ∧
      (s.failStop reason ring index e).hbm = s.hbm := by
  obtain ⟨x, hputs, hx⟩ := s.failStop_eq reason ring index e
  rw [hx]
  refine ⟨?_, ?_, ?_, ?_, ?_⟩
  · rw [State.msix_field (g := State.mode) fun _ _ _ => rfl, State.raise_mode, State.toMode_mode]
  · rw [State.msix_field (g := State.detail) fun _ _ _ => rfl, State.raise_detail, State.toMode_detail]
  · rw [State.msix_field (g := State.alert) fun _ _ _ => rfl, State.raise_alert, State.toMode_alert, State.alerted_alert]
  · rw [State.msix_stalls, State.raise_stalls, State.toMode_stalls, State.alerted_stalls, hputs, State.puts_stalls]
  · rw [State.msix_field (g := State.hbm) fun _ _ _ => rfl, State.raise_hbm, State.toMode_hbm, State.alerted_hbm, hputs, State.puts_hbm]

/-- FAIL_STOP records its cause and raises its event. -/
theorem State.failStop_records (s : State) {reason : Nat} (ring index : Nat) (e : Bytes) (hreason : reason < 256) :
    (s.failStop reason ring index e).get FSTOP_CAUSE_REASON = reason ∧ (s.failStop reason ring index e).get FSTOP_CAUSE_VALID = 1 ∧
      (s.failStop reason ring index e).evLatched evFailStop = true := by
  obtain ⟨x, hputs, hx⟩ := s.failStop_eq reason ring index e
  have hcause {f : Fld} (hf : f.off < 0x4000000) (hev : (evtLatch evFailStop).apart f = true)
      (hentry : ∀ k ∈ upto 16, (FSTOP_ENTRY_DWORD.nth 4 k).fits = true ∧ (FSTOP_ENTRY_DWORD.nth 4 k).apart f = true) :
      (s.failStop reason ring index e).get f = (s.puts [(FSTOP_CAUSE_REASON, reason), (FSTOP_CAUSE_RING, ring), (FSTOP_CAUSE_INDEX, index),
        (FSTOP_CAUSE_VALID, 1), (FSTOP_TIME_TIME, s.time)]).get f := by
    calc (s.failStop reason ring index e).get f = ((x.alerted.toMode .failStop reason).raise evFailStop).get f := by rw [hx, State.get_msix _ 0 hf]
      _ = (x.alerted.toMode .failStop reason).get f := State.get_put_apart _ (evtLatch evFailStop) f 1 (by decide) hev
      _ = (s.puts (fstopPuts reason ring index s.time e)).get f := by rw [State.get_toMode, State.get_alerted, hputs]
      _ = _ := by
          rw [fstopPuts, State.puts_append, State.get_puts_apart]
          intro p hp
          obtain ⟨k, hk, rfl⟩ := List.mem_map.1 hp
          exact hentry k hk
  refine ⟨?_, ?_, ?_⟩
  · rw [hcause (by decide) (by decide) (by decide)]
    simp (disch := decide) only [State.puts_cons, State.puts_nil, State.get_put_apart, State.get_put]
    exact Nat.mod_eq_of_lt hreason
  · rw [hcause (by decide) (by decide) (by decide)]
    simp (disch := decide) only [State.puts_cons, State.puts_nil, State.get_put_apart, State.get_put]
    rfl
  · rw [hx, State.evLatched, State.get_msix _ 0 (by decide)]
    exact State.evLatched_raise _ _

/-! ### Arbitration and claims (R471 – R474) -/

/-- Nothing has claimed the source (R473). -/
theorem State.unclaimed_iff (s : State) (n : Nat) : (!s.inServ.any fun p => p.1 == n) = true ↔ ∀ u, (n, u) ∉ s.inServ := by
  simp only [Bool.not_eq_true', List.any_eq_false, beq_iff_eq]
  exact ⟨fun h u hu => h _ hu rfl, fun h p hp hn => h p.2 (hn ▸ hp)⟩

theorem State.evtPending_iff (s : State) (n : Nat) : s.evtPending n = true ↔
    (s.evtLevel n = true ∧ 0 < s.get (evtRoute EVT_ROUTE_PRIO n)) ∧ ∀ u, (n, u) ∉ s.inServ := by
  rw [State.evtPending, Bool.and_eq_true, Bool.and_eq_true, decide_eq_true_iff, s.unclaimed_iff n]

theorem State.evtStands_iff (s : State) (n : Nat) : s.evtStands n = true ↔
    (s.get EVT_CTL_EN = 1 ∧ s.evtLevel n = true) ∧ ∀ u, (n, u) ∉ s.inServ := by
  rw [State.evtStands, Bool.and_eq_true, Bool.and_eq_true, beq_iff_eq, s.unclaimed_iff n]

/-- An eligible source is enabled, pending, has a target and exceeds its threshold (R471). -/
theorem State.evtEligible_cases (s : State) (n : Nat) : s.evtEligible n = none ∨
    ∃ t, s.evtEligible n = some (n, t, s.get (evtRoute EVT_ROUTE_PRIO n)) ∧ s.get EVT_CTL_EN = 1 ∧ s.evtLevel n = true ∧
      s.evtTarget n = some t ∧ (∀ u, (n, u) ∉ s.inServ) ∧ s.get (EVT_THRESH_LEVEL.nth 4 t) < s.get (evtRoute EVT_ROUTE_PRIO n) := by
  unfold State.evtEligible
  dsimp only
  split
  · next h =>
    obtain ⟨hen, hpending⟩ := Bool.and_eq_true_iff.1 h
    obtain ⟨⟨hlevel, -⟩, hfree⟩ := (s.evtPending_iff n).1 hpending
    split
    · next t ht =>
      split
      · next hthresh => exact .inr ⟨t, rfl, by simpa using hen, hlevel, ht, hfree, hthresh⟩
      · exact .inl rfl
    · exact .inl rfl
  · exact .inl rfl

/-- Of two candidates for a claim the later one is taken where its priority is higher (R473). -/
def betterClaim (best : Option (Nat × Nat)) (p : Nat × Nat × Nat) : Option (Nat × Nat) :=
  match best with
  | none => some (p.1, p.2.2)
  | some b => if b.2 < p.2.2 then some (p.1, p.2.2) else some b

theorem State.claimable_eq (s : State) (t : Nat) :
    s.claimable t = (s.arb.filter fun p => p.2.1 == t && s.evtStands p.1).foldl betterClaim none := rfl

/-- The better of two candidates is one of them, and neither exceeds it. -/
theorem betterClaim_some (best : Option (Nat × Nat)) (p : Nat × Nat × Nat) : ∃ c, betterClaim best p = some c ∧ p.2.2 ≤ c.2 ∧
    (∀ b, best = some b → b.2 ≤ c.2) ∧ (c = (p.1, p.2.2) ∨ best = some c) := by
  cases best with
  | none => exact ⟨_, rfl, Nat.le_refl _, nofun, .inl rfl⟩
  | some b =>
    unfold betterClaim
    dsimp only
    split
    · next h =>
      refine ⟨_, rfl, Nat.le_refl _, fun x hx => ?_, .inl rfl⟩
      obtain rfl : b = x := Option.some.inj hx
      exact Nat.le_of_lt h
    · next h =>
      refine ⟨_, rfl, Nat.le_of_not_lt h, fun x hx => ?_, .inr rfl⟩
      obtain rfl : b = x := Option.some.inj hx
      exact Nat.le_refl _

/-- The best of a list of candidates is one of them, and none exceeds it. -/
theorem foldl_betterClaim {l : List (Nat × Nat × Nat)} {best : Option (Nat × Nat)} {c : Nat × Nat} (h : l.foldl betterClaim best = some c) :
    (best = some c ∨ ∃ t, (c.1, t, c.2) ∈ l) ∧ (∀ b, best = some b → b.2 ≤ c.2) ∧ ∀ p ∈ l, p.2.2 ≤ c.2 := by
  induction l generalizing best with
  | nil =>
    refine ⟨.inl h, fun b hb => ?_, nofun⟩
    obtain rfl : b = c := Option.some.inj (hb.symm.trans h)
    exact Nat.le_refl _
  | cons p l ih =>
    obtain ⟨d, hd, hp, hbest, hwhich⟩ := betterClaim_some best p
    rw [List.foldl_cons, hd] at h
    obtain ⟨hmem, hle, hall⟩ := ih h
    have hdc : d.2 ≤ c.2 := hle d rfl
    refine ⟨?_, fun b hb => Nat.le_trans (hbest b hb) hdc, List.forall_mem_cons.2 ⟨Nat.le_trans hp hdc, hall⟩⟩
    rcases hmem with hdc | ⟨t, ht⟩
    · obtain rfl : d = c := Option.some.inj hdc
      rcases hwhich with rfl | hbest
      · exact .inr ⟨p.2.1, List.mem_cons_self⟩
      · exact .inl hbest
    · exact .inr ⟨t, List.mem_cons_of_mem _ ht⟩

/-- What a claim for target t returns was arbitrated to t and still stands, and no source that does so has a higher priority. -/
theorem State.claimable_some {s : State} {t n p : Nat} (h : s.claimable t = some (n, p)) :
    s.get EVT_CTL_EN = 1 ∧ (n, t, p) ∈ s.arb ∧ s.evtLevel n = true ∧ (∀ u, (n, u) ∉ s.inServ) ∧
      ∀ m q, (m, t, q) ∈ s.arb → s.evtLevel m = true → (∀ u, (m, u) ∉ s.inServ) → q ≤ p := by
  rw [State.claimable_eq] at h
  obtain ⟨hwhich, -, hall⟩ := foldl_betterClaim h
  obtain ⟨u, hu⟩ := hwhich.resolve_left nofun
  obtain ⟨harb, hok⟩ := List.mem_filter.1 hu
  obtain ⟨htarget, hstands⟩ := Bool.and_eq_true_iff.1 hok
  obtain rfl : u = t := beq_iff_eq.1 htarget
  obtain ⟨⟨hen, hlevel⟩, hfree⟩ := (s.evtStands_iff n).1 hstands
  refine ⟨hen, harb, hlevel, hfree, fun m q hm hml hmf => hall (m, u, q) (List.mem_filter.2 ⟨hm, ?_⟩)⟩
  exact Bool.and_eq_true_iff.2 ⟨beq_self_eq_true u, (s.evtStands_iff m).2 ⟨⟨hen, hml⟩, hmf⟩⟩

/-- A controller that is not enabled has nothing to claim (R478). -/
theorem State.claimable_of_disabled {s : State} (hen : s.get EVT_CTL_EN = 0) (t : Nat) : s.claimable t = none := by
  cases h : s.claimable t with
  | none => rfl
  | some c =>
    obtain ⟨hone, -⟩ := State.claimable_some h
    rw [hen] at hone
    exact absurd hone (by decide)

theorem evtClaim_of_none {s : State} {t : Nat} (ht : t < 4) (h : s.claimable t = none) : evtClaim t s = { s with rdata := 0 } := by
  rw [evtClaim, if_neg (Nat.not_le.2 ht), h]
  rfl

theorem evtClaim_of_some {s : State} {t n p : Nat} (ht : t < 4) (h : s.claimable t = some (n, p)) : evtClaim t s = { s with
    rdata := n + p * 4096 + 2 ^ 31, inServ := s.inServ ++ [(n, t)], told := s.told.filter fun m => m != n } := by
  rw [evtClaim, if_neg (Nat.not_le.2 ht), h]
  rfl

theorem evtDone_of_serving {s : State} {t n : Nat} (ht : t < 4) (hn : n < 512) (h : (n, t) ∈ s.inServ) : evtDone t n s =
    { s.put (evtSwset n) 0 with inServ := s.inServ.filter (fun p => p != (n, t)), arb := s.arb.filter fun p => p.1 != n } := by
  rw [evtDone, if_neg (by omega), if_pos (List.contains_iff_mem.2 h)]

theorem evtDone_of_stray {s : State} {t n : Nat} (ht : t < 4) (hn : n < 512) (h : (n, t) ∉ s.inServ) : evtDone t n s =
    (s.inc EVT_STRAY_COUNT_COUNT).puts [(EVT_STRAY_LAST_SOURCE, n), (EVT_STRAY_LAST_TARGET, t)] := by
  rw [evtDone, if_neg (by omega), if_neg fun hc => h (List.contains_iff_mem.1 hc)]

/-! ### The statement -/

theorem exec_mpwKick (n key : Nat) (s : State) : exec (.mpwKick n key) s = .next (mpwKick n key s) := rfl
theorem exec_mpwExpiry (n lost : Nat) (s : State) : exec (.mpwExpiry n lost) s = .next (mpwExpiry n lost s) := rfl
theorem exec_mpFailure (cause lost : Nat) (s : State) : exec (.mpFailure cause lost) s = .next (mpFailure cause lost s) := rfl
theorem exec_unrecoverableFault (reason unit : Nat) (s : State) :
    exec (.unrecoverableFault reason unit) s = .next (unrecoverableFault reason unit s) := rfl
theorem exec_evtArbitration (s : State) : exec .evtArbitration s = .next (evtArbitration s) := rfl
theorem exec_evtClaim (t : Nat) (s : State) : exec (.evtClaim t) s = .next (evtClaim t s) := rfl
theorem exec_evtDone (t n : Nat) (s : State) : exec (.evtDone t n) s = .next (evtDone t n s) := rfl

/-- Settles O55: the equations of the cores' rows, what FAIL_STOP records, and the best candidate of a claim. -/
theorem faultsAndEventsComplete : Obligations.FaultsAndEventsComplete := by
  unfold Obligations.FaultsAndEventsComplete
  simp -zeta only [exec_mpwKick, exec_mpwExpiry, exec_mpFailure, exec_unrecoverableFault, exec_evtArbitration, exec_evtClaim,
    exec_evtDone, Host.Outcome.next.injEq]
  constructor
  · intro s
    refine ⟨fun n hn hleft key hkey => mpwKick_of_key hn hleft hkey, fun n lost hn hen hleft hdue hmode hlive => ?expiry,
      fun cause lost hmode hfrozen => (if_pos hmode).trans (State.mpFail_of_running hfrozen cause lost),
      fun core reason hcore hstandby => State.mpRecover_of_standby reason hcore hstandby, fun core reason hstandby => if_neg hstandby,
      fun reason unit hmode hlo hhi => if_pos ⟨hmode, hlo, hhi⟩, fun reason ring index e hreason => ?failStop⟩
    case expiry =>
      rw [mpwExpiry_of_due lost hn hen hleft hdue hmode hlive]
      exact ⟨fun hactive => if_pos hactive, fun hactive => if_neg hactive⟩
    case failStop =>
      obtain ⟨hmode, hdetail, halert, hstalls, hhbm⟩ := s.failStop_fields reason ring index e
      obtain ⟨hcause, hvalid, hevent⟩ := s.failStop_records ring index e hreason
      exact ⟨hmode, hdetail, halert, hcause, hvalid, hevent, hstalls, hhbm⟩
  · intro s
    exact ⟨rfl, s.evtEligible_cases, fun hen t => State.claimable_of_disabled hen t, fun t ht h => evtClaim_of_none ht h,
      fun t n p ht h => evtClaim_of_some ht h, fun t n p h => State.claimable_some h,
      fun t n ht hn h => evtDone_of_serving ht hn h, fun t n ht hn h => evtDone_of_stray ht hn h⟩

end Sys2Proof.Machine
end

section
/-! SUPPORT. Pins, the thermal sensors and the management chain (O58), and the commands on MGMT (O59). -/
namespace Sys2Proof.Machine

/-! ### Pins (R556 – R561) -/

theorem gpioCfgWrite_of_serving {s : State} (hmode : fwRuns s.mode = true) (hheld : s.held = false) (reg value : Nat) :
    gpioCfgWrite reg value s = if reg < 32 then (s.put ⟨0x20000 + 4 * reg, 0, 13⟩ value).padsSettle
      else if reg = 32 then (s.put BRD_GPIO_OUT_OUT value).padsSettle else s := by
  simp [gpioCfgWrite, hmode, hheld]

/-- An edge of pin p to a level is one that its IMODE selects (R561). -/
def State.edgeSelected (s : State) (p : Nat) (lvl : Bool) : Prop :=
  let m := s.get (BRD_GPIO_CFG_IMODE.nth 4 p)
  (bitAt s.pads p = false ∧ lvl = true ∧ (m = 3 ∨ m = 5)) ∨ (bitAt s.pads p = true ∧ lvl = false ∧ (m = 4 ∨ m = 5))

theorem State.padSet_pads (s : State) (p : Nat) (lvl : Bool) : (s.padSet p lvl).pads = putField s.pads p 1 (b2n lvl) := by
  unfold State.padSet
  dsimp only
  split <;> rfl

/-- The register file after a pad has taken a level: its ISTAT bit is set where the device is awake and the edge is selected. -/
theorem State.padSet_regs (s : State) (p : Nat) (lvl : Bool) :
    (s.awake = true → s.held = false → s.edgeSelected p lvl →
      (s.padSet p lvl).regs = (s.put ⟨BRD_GPIO_ISTAT_EDGE.off, p, 1⟩ 1).regs) ∧
    (¬s.edgeSelected p lvl → (s.padSet p lvl).regs = s.regs) := by
  have hpad : s.padSet p lvl = if (s.awake && !s.held && ((!bitAt s.pads p && lvl && (s.get (gpioCfg BRD_GPIO_CFG_IMODE p) == 3 ||
      s.get (gpioCfg BRD_GPIO_CFG_IMODE p) == 5)) || (bitAt s.pads p && !lvl && (s.get (gpioCfg BRD_GPIO_CFG_IMODE p) == 4 ||
      s.get (gpioCfg BRD_GPIO_CFG_IMODE p) == 5)))) = true
      then ({ s with pads := putField s.pads p 1 (b2n lvl) } : State).put ⟨BRD_GPIO_ISTAT_EDGE.off, p, 1⟩ 1
      else { s with pads := putField s.pads p 1 (b2n lvl) } := rfl
  have hcond : (s.awake && !s.held && ((!bitAt s.pads p && lvl && (s.get (gpioCfg BRD_GPIO_CFG_IMODE p) == 3 ||
      s.get (gpioCfg BRD_GPIO_CFG_IMODE p) == 5)) || (bitAt s.pads p && !lvl && (s.get (gpioCfg BRD_GPIO_CFG_IMODE p) == 4 ||
      s.get (gpioCfg BRD_GPIO_CFG_IMODE p) == 5)))) = true ↔ (s.awake = true ∧ s.held = false) ∧ s.edgeSelected p lvl := by
    simp [State.edgeSelected, gpioCfg, and_assoc]
  rw [hpad]
  refine ⟨fun hawake hheld hedge => ?_, fun hedge => ?_⟩
  · rw [if_pos (hcond.2 ⟨⟨hawake, hheld⟩, hedge⟩)]
    rfl
  · rw [if_neg fun h => hedge (hcond.1 h).2]

theorem gpioEdge_of_undriven {s : State} {p : Nat} (hp : p < 32) (hpad : s.padDriven p = none) (lvl : Bool) :
    gpioEdge p lvl s = s.padSet p lvl := by
  simp [gpioEdge, hp, hpad]

/-! ### Thermal (R568 – R570) -/

/-- An entry into throttling is counted, unless the device is held, and raises the alert (R565, R569). -/
def State.throttleEntry (s : State) : State := { (if s.held then s else s.inc BRD_THERM_COUNT) with alert := true }

theorem State.thermalEdges_of_awake {s : State} (hawake : s.awake = true) (was hi : Bool) : s.thermalEdges was hi =
    let t := if (s.throttling && !was) = true then s.throttleEntry else s
    if (t.tempHigh && !hi) = true then { t with alert := true } else t := by
  simp [State.thermalEdges, hawake, State.throttleEntry]

theorem State.throttleEntry_eq (s : State) : ∃ regs alert, s.throttleEntry = { s with regs, alert } := by
  unfold State.throttleEntry
  split
  · exact ⟨_, _, rfl⟩
  · exact ⟨_, _, rfl⟩

/-- What follows from a thermal change: the register file and the alert alone. -/
theorem State.thermalEdges_eq (s : State) (was hi : Bool) : ∃ regs alert, s.thermalEdges was hi = { s with regs, alert } := by
  cases hawake : s.awake with
  | false => exact ⟨s.regs, s.alert, by simp [State.thermalEdges, hawake]⟩
  | true =>
    obtain ⟨regs, alert, hentry⟩ := s.throttleEntry_eq
    rw [State.thermalEdges_of_awake hawake, hentry]
    dsimp only
    split <;> split <;> exact ⟨_, _, rfl⟩

theorem State.thermalEdges_field {α : Type} {g : State → α} (hg : ∀ (s : State) regs alert, g { s with regs, alert } = g s)
    (s : State) (was hi : Bool) : g (s.thermalEdges was hi) = g s := by
  obtain ⟨regs, alert, h⟩ := s.thermalEdges_eq was hi
  rw [h, hg]

/-- Registers apart from the count of entries stay. -/
theorem State.get_thermalEdges (s : State) (was hi : Bool) {f : Fld} (hf : BRD_THERM_COUNT.apart f = true) :
    (s.thermalEdges was hi).get f = s.get f := by
  have hentry : s.throttleEntry.get f = s.get f := by
    unfold State.throttleEntry
    split
    · rfl
    · exact State.get_put_apart s _ _ _ (by decide) hf
  cases hawake : s.awake with
  | false => simp [State.thermalEdges, hawake]
  | true =>
    have halert (t : State) : ({ t with alert := true } : State).get f = t.get f := rfl
    rw [State.thermalEdges_of_awake hawake]
    dsimp only
    split <;> split <;> simp only [halert, hentry]

/-- An entry into throttling raises the alert and is counted. -/
theorem State.thermalEdges_of_entry {s : State} (hawake : s.awake = true) (hthrottling : s.throttling = true) (hi : Bool) :
    (s.thermalEdges false hi).alert = true ∧
      (s.held = false → (s.thermalEdges false hi).get BRD_THERM_COUNT = satInc 65535 (s.get BRD_THERM_COUNT)) := by
  have hcount (hheld : s.held = false) : s.throttleEntry.get BRD_THERM_COUNT = satInc 65535 (s.get BRD_THERM_COUNT) := by
    rw [State.throttleEntry, hheld]
    exact State.get_inc s (by decide)
  have hclause : (s.throttling && !false) = true := by rw [hthrottling]; rfl
  rw [State.thermalEdges_of_awake hawake, if_pos hclause]
  dsimp only
  split
  · exact ⟨rfl, hcount⟩
  · exact ⟨rfl, hcount⟩

/-- The state with THROTTLE_N at a level. -/
def State.pinAt (s : State) (low : Bool) : State := { s with pinLow := low }

@[simp] theorem State.pinAt_pinLow (s : State) (low : Bool) : (s.pinAt low).pinLow = low := rfl
@[simp] theorem State.pinAt_stalls (s : State) (low : Bool) : (s.pinAt low).stalls = s.stalls := rfl
@[simp] theorem State.pinAt_held (s : State) (low : Bool) : (s.pinAt low).held = s.held := rfl
@[simp] theorem State.pinAt_awake (s : State) (low : Bool) : (s.pinAt low).awake = s.awake := rfl
@[simp] theorem State.get_pinAt (s : State) (low : Bool) (f : Fld) : (s.pinAt low).get f = s.get f := rfl

theorem throttlePin_eq (low : Bool) (s : State) : throttlePin low s = (s.pinAt low).thermalEdges s.throttling s.tempHigh := rfl

/-- A trip leaves the device held, with HBM lost and no stall (R570). -/
theorem State.tripNow_fields (s : State) : s.tripNow.trip = true ∧ s.tripNow.held = true ∧ s.tripNow.hbm = [] ∧ s.tripNow.stalls = [] := by
  obtain ⟨regs, h⟩ := s.afterReset_eq true false false
  unfold State.tripNow
  dsimp only
  rw [h]
  exact ⟨rfl, rfl, rfl, rfl⟩

theorem State.puts_hot (s : State) (l : List (Fld × Nat)) : (s.puts l).hot = s.hot := by rw [State.puts_eq]
theorem State.puts_trip (s : State) (l : List (Fld × Nat)) : (s.puts l).trip = s.trip := by rw [State.puts_eq]
theorem State.puts_held (s : State) (l : List (Fld × Nat)) : (s.puts l).held = s.held := by rw [State.puts_eq]

/-- The registers of a sample. -/
def sampleRegs (temp : Int) (sensor watts : Nat) : List (Fld × Nat) :=
  [(BRD_TEMP_TEMP, ofSigned 16 temp), (BRD_TEMP_SENSOR, sensor % 24), (BRD_POWER_WATTS, watts)]

/-- Whether the hottest sensor has reached 95 °C and not fallen below 92 °C since, once it reads `temp` (R569). -/
def hotAt (temp : Int) (was : Bool) : Bool := if 1520 ≤ temp then true else if temp < 1472 then false else was

/-- The state with that judgement. -/
def State.judged (s : State) (temp : Int) : State := { s with hot := hotAt temp s.hot }

@[simp] theorem State.get_judged (s : State) (temp : Int) (f : Fld) : (s.judged temp).get f = s.get f := rfl
@[simp] theorem State.judged_hot (s : State) (temp : Int) : (s.judged temp).hot = hotAt temp s.hot := rfl
@[simp] theorem State.judged_trip (s : State) (temp : Int) : (s.judged temp).trip = s.trip := rfl
@[simp] theorem State.judged_stalls (s : State) (temp : Int) : (s.judged temp).stalls = s.stalls := rfl

/-- The device as a sample has set its registers and judged its temperature (R568, R569). -/
def State.sampled (s : State) (temp : Int) (sensor watts : Nat) : State := (s.puts (sampleRegs temp sensor watts)).judged temp

theorem tempSample_of_awake {s : State} (hawake : s.awake = true) (hheld : s.held = false) (temp : Int) (sensor watts : Nat) :
    tempSample temp sensor watts s =
      let t := (s.sampled temp sensor watts).thermalEdges s.throttling s.tempHigh
      if 1760 ≤ temp then t.tripNow.puts (sampleRegs temp sensor watts) else t := by
  have hmay : ¬((!s.awake) = true ∨ s.held = true) := by simp [hawake, hheld]
  unfold tempSample
  rw [if_neg hmay]
  rfl

theorem State.get_sampled (s : State) (temp : Int) (sensor watts : Nat) :
    (s.sampled temp sensor watts).get BRD_TEMP_TEMP = ofSigned 16 temp ∧
      (s.sampled temp sensor watts).get BRD_TEMP_SENSOR = sensor % 24 ∧
      (s.sampled temp sensor watts).get BRD_POWER_WATTS = watts % 65536 := by
  refine ⟨?_, ?_, ?_⟩
  all_goals
    rw [State.sampled, State.get_judged, sampleRegs]
    simp (disch := decide) only [State.puts_cons, State.puts_nil, State.get_put_apart, State.get_put]
  · exact Nat.mod_eq_of_lt (ofSigned_lt 16 temp)
  · exact Nat.mod_eq_of_lt (Nat.lt_trans (Nat.mod_lt _ (by decide)) (by decide))
  · rfl

/-! ### The management chain (R564, R565) -/

theorem alertResponse_of_alert {s : State} {a : Nat} (haddr : s.chainAddr = some a) (halert : s.alert = true) :
    alertResponse s = State.emit { s with alert := false } (.mgmt [BitVec.ofNat 8 (2 * a)]) := by
  rw [alertResponse, haddr]
  exact if_pos halert

theorem State.chainAddr_of_assigned {s : State} (hmode : s.mode ≠ .off) (h : s.get BRD_CHAIN_ASSIGNED = 1) :
    s.chainAddr = some (s.get BRD_CHAIN_ADDR) := by
  rw [State.chainAddr, if_neg hmode, if_pos h]

theorem State.chainAddr_of_unassigned {s : State} (hmode : s.mode ≠ .off) (h : s.get BRD_CHAIN_ASSIGNED = 0) :
    s.chainAddr = if s.chainReady then some 0x3C else none := by
  rw [State.chainAddr, if_neg hmode, if_neg (by rw [h]; decide)]

theorem exec_gpioCfgWrite (reg value : Nat) (s : State) : exec (.gpioCfgWrite reg value) s = .next (gpioCfgWrite reg value s) := rfl
theorem exec_gpioEdge (p : Nat) (lvl : Bool) (s : State) : exec (.gpioEdge p lvl) s = .next (gpioEdge p lvl s) := rfl
theorem exec_throttlePin (low : Bool) (s : State) : exec (.throttlePin low) s = .next (throttlePin low s) := rfl
theorem exec_tempSample (temp : Int) (sensor watts : Nat) (s : State) :
    exec (.tempSample temp sensor watts) s = .next (tempSample temp sensor watts s) := rfl
theorem exec_chainInRise (s : State) : exec .chainInRise s = .next (chainInRise s) := rfl
theorem exec_chainInFall (s : State) : exec .chainInFall s = .next (chainInFall s) := rfl
theorem exec_smbusTimeout (s : State) : exec .smbusTimeout s = .next (smbusTimeout s) := rfl
theorem exec_alertResponse (s : State) : exec .alertResponse s = .next (alertResponse s) := rfl

/-- Settles O58: pads and their edges, the thermal thresholds, and the device's address on the chain. -/
theorem pinsAndThermalComplete : Obligations.PinsAndThermalComplete := by
  unfold Obligations.PinsAndThermalComplete
  simp -zeta only [exec_gpioCfgWrite, exec_gpioEdge, exec_throttlePin, exec_tempSample, exec_chainInRise, exec_chainInFall,
    exec_smbusTimeout, exec_alertResponse, Host.Outcome.next.injEq]
  intro s
  refine ⟨fun hmode hheld reg value => ?cfg, fun p lvl hp hpad => ?edge, fun low => ?throttle,
    fun temp sensor watts hawake hheld htemp => ?sample, fun temp sensor watts hawake hheld htemp => ?trip,
    fun hlow => if_neg (by rw [hlow]; decide), rfl, rfl, fun a haddr halert => alertResponse_of_alert haddr halert,
    fun hmode => ⟨State.chainAddr_of_assigned hmode, State.chainAddr_of_unassigned hmode⟩⟩
  case cfg =>
    rw [gpioCfgWrite_of_serving hmode hheld]
    exact ⟨fun hreg => if_pos hreg, fun hreg => by subst hreg; rfl⟩
  case edge =>
    obtain ⟨hset, hkept⟩ := s.padSet_regs p lvl
    exact ⟨_, gpioEdge_of_undriven hp hpad lvl, s.padSet_pads p lvl, hset, hkept⟩
  case throttle =>
    refine ⟨_, throttlePin_eq low s, ?_, ?_, fun hlow hidle hawake => ?_⟩
    · rw [State.thermalEdges_field (g := State.pinLow) fun _ _ _ => rfl, State.pinAt_pinLow]
    · rw [State.thermalEdges_field (g := State.stalls) fun _ _ _ => rfl, State.pinAt_stalls]
    · have hthrottling : (s.pinAt low).throttling = true := by simp [State.throttling, hlow]
      obtain ⟨halert, hcount⟩ := State.thermalEdges_of_entry ((s.pinAt_awake low).trans hawake) hthrottling s.tempHigh
      rw [hidle]
      exact ⟨halert, fun hheld => (hcount hheld).trans (by rw [State.get_pinAt])⟩
  case sample =>
    obtain ⟨htempReg, hsensor, hwatts⟩ := s.get_sampled temp sensor watts
    refine ⟨_, (tempSample_of_awake hawake hheld temp sensor watts).trans (if_neg (Int.not_le.2 htemp)), ?_, ?_, ?_, ?_, ?_, ?_⟩
    · rw [State.get_thermalEdges _ _ _ (by decide), htempReg]
    · rw [State.get_thermalEdges _ _ _ (by decide), hsensor]
    · rw [State.get_thermalEdges _ _ _ (by decide), hwatts]
    · rw [State.thermalEdges_field (g := State.hot) fun _ _ _ => rfl, State.sampled, State.judged_hot, State.puts_hot]
      rfl
    · rw [State.thermalEdges_field (g := State.trip) fun _ _ _ => rfl, State.sampled, State.judged_trip, State.puts_trip]
    · rw [State.thermalEdges_field (g := State.stalls) fun _ _ _ => rfl, State.sampled, State.judged_stalls, State.puts_stalls]
  case trip =>
    obtain ⟨htrip, hheld', hhbm, hstalls⟩ :=
      ((s.sampled temp sensor watts).thermalEdges s.throttling s.tempHigh).tripNow_fields
    refine ⟨_, (tempSample_of_awake hawake hheld temp sensor watts).trans (if_pos htemp), ?_⟩
    rw [State.puts_trip, State.puts_held, State.puts_hbm, State.puts_stalls]
    exact ⟨htrip, hheld', hhbm, hstalls⟩

end Sys2Proof.Machine
end

section
/-! SUPPORT. The commands on MGMT (O59): which refusal comes first, and what a command that none meets does (R566, R567). -/
namespace Sys2Proof.Machine

section
variable {s : State} {addr : Nat} {trips may arg : Bool} (haddr : s.chainAddr = some addr) (f : State → State)
include haddr

/-- A wrong PEC comes before every other refusal. -/
theorem State.mgmtDo_of_pec : s.mgmtDo addr true trips may arg f = { s with mgmt := 1 } := by
  simp [State.mgmtDo, haddr]

theorem State.mgmtDo_of_trip (htrip : s.trip = true) : s.mgmtDo addr false true may arg f = { s with mgmt := 5 } := by
  simp [State.mgmtDo, haddr, htrip]

variable (hup : (s.trip && trips) = false)
include hup

theorem State.mgmtDo_of_forbidden (hmay : may = false) : s.mgmtDo addr false trips may arg f = { s with mgmt := 4 } := by
  simp only [State.mgmtDo, haddr, hup, hmay, bne_self_eq_false, Bool.false_eq_true, if_false, Bool.not_false, if_true]

theorem State.mgmtDo_of_bad_value (hmay : may = true) (harg : arg = false) :
    s.mgmtDo addr false trips may arg f = { s with mgmt := 3 } := by
  simp only [State.mgmtDo, haddr, hup, hmay, harg, bne_self_eq_false, Bool.false_eq_true, if_false, Bool.not_false, Bool.not_true, if_true]

theorem State.mgmtDo_of_accepted (hmay : may = true) (harg : arg = true) :
    s.mgmtDo addr false trips may arg f = f { s with mgmt := 0 } := by
  simp only [State.mgmtDo, haddr, hup, hmay, harg, bne_self_eq_false, Bool.false_eq_true, if_false, Bool.not_true]

end

theorem mgmtLastStatus_of_addressed {s : State} {addr : Nat} (haddr : s.chainAddr = some addr) (pec : Bool) :
    mgmtLastStatus addr pec s = if pec then { s with mgmt := 1 } else s.emit (.mgmt [BitVec.ofNat 8 s.mgmt]) := by
  simp [mgmtLastStatus, haddr]

theorem mgmtUnknown_of_unlisted {s : State} {addr code : Nat} (haddr : s.chainAddr = some addr) (hcode : code ∉ mgmtCodes) (pec : Bool) :
    mgmtUnknown addr pec code s = { s with mgmt := if pec then 1 else 2 } := by
  simp [mgmtUnknown, haddr, hcode]

/-! ### The rows of MGMT -/

section
variable (s : State) (addr : Nat) (pec : Bool)

theorem exec_lastStatus : exec (.lastStatus addr pec) s = .next (mgmtLastStatus addr pec s) := rfl
theorem exec_readId : exec (.readId addr pec) s = .next (s.mgmtDo addr pec false true true fun s' =>
    s'.emit (.mgmt (leBytes 4 (s.get DEV_ID_ID) ++ leBytes 1 (s.get DEV_STEP_STEP) ++ leBytes 1 (s.get DEV_CONF_LEVEL) ++
      leBytes 2 s.mgmtMode ++ leBytes 8 Config.devSerial.toNat))) := rfl
theorem exec_readTemp : exec (.readTemp addr pec) s =
    .next (s.mgmtDo addr pec false s.upright true fun s' => s'.emit (.mgmt (leBytes 2 (s.get BRD_TEMP_TEMP)))) := rfl
theorem exec_assignAddr (v : Nat) : exec (.assignAddr addr pec v) s = .next (mgmtAssign addr pec v s) := rfl
theorem exec_releaseAddr : exec (.releaseAddr addr pec) s = .next (mgmtRelease addr pec s) := rfl
theorem exec_readMode : exec (.readMode addr pec) s = .next (s.mgmtDo addr pec true true true fun s' => s'.emit (.mgmt (leBytes 2 s.mgmtMode))) := rfl
theorem exec_readRst : exec (.readRst addr pec) s =
    .next (s.mgmtDo addr pec true true true fun s' => s'.emit (.mgmt (leBytes 4 (s.get RST_CAUSE_CAUSES)))) := rfl
theorem exec_readFstop : exec (.readFstop addr pec) s =
    .next (s.mgmtDo addr pec true true true fun s' => s'.emit (.mgmt (leBytes 4 (s.reg32 0x20) ++ leBytes 8 (s.get FSTOP_TIME_TIME)))) := rfl
theorem exec_readPower : exec (.readPower addr pec) s =
    .next (s.mgmtDo addr pec true s.upright true fun s' => s'.emit (.mgmt (leBytes 2 (s.get BRD_POWER_WATTS)))) := rfl
theorem exec_devReset (v : Nat) (mp0 : Bool) : exec (.devReset addr pec v mp0) s = .next (mgmtDevReset addr pec v mp0 s) := rfl
theorem exec_warmReset (v : Nat) (mp0 : Bool) : exec (.warmReset addr pec v mp0) s = .next (mgmtWarmReset addr pec v mp0 s) := rfl
theorem exec_sleep (v : Nat) : exec (.sleep addr pec v) s = .next (mgmtSleep addr pec v s) := rfl
theorem exec_wake (v : Nat) : exec (.wake addr pec v) s = .next (mgmtWake addr pec v s) := rfl
theorem exec_throttle (v : Nat) : exec (.throttle addr pec v) s = .next (mgmtThrottle addr pec v s) := rfl
theorem exec_wakeCfg (write : Bool) (v : Nat) : exec (.wakeCfg addr pec write v) s = .next (mgmtWakeCfg addr pec write v s) := rfl
theorem exec_mgmtUnknownCommand (code : Nat) : exec (.mgmtUnknownCommand addr pec code) s = .next (mgmtUnknown addr pec code s) := rfl

end

/-- The device is not in SLUMBER. -/
theorem State.upright_iff (s : State) : s.upright = true ↔ s.mode ≠ .slumber := by simp [State.upright]

/-- The commands that a thermal trip refuses (R566). -/
noncomputable def mgmtRows (addr : Nat) (pec : Bool) (v : Nat) (mp0 write : Bool) : List Instr :=
  [.assignAddr addr pec v, .releaseAddr addr pec, .readMode addr pec, .readRst addr pec, .readFstop addr pec, .readPower addr pec,
    .devReset addr pec v mp0, .warmReset addr pec v mp0, .sleep addr pec v, .wake addr pec v, .throttle addr pec v, .wakeCfg addr pec write v]

theorem exec_of_mem_mgmtRows {addr v : Nat} {pec mp0 write : Bool} {c : Instr} (hc : c ∈ mgmtRows addr pec v mp0 write) (s : State) :
    ∃ may arg f, exec c s = .next (s.mgmtDo addr pec true may arg f) := by
  simp only [mgmtRows, List.mem_cons, List.not_mem_nil, or_false] at hc
  rcases hc with rfl | rfl | rfl | rfl | rfl | rfl | rfl | rfl | rfl | rfl | rfl | rfl
  · exact ⟨_, _, _, exec_assignAddr s addr pec v⟩
  · exact ⟨_, _, _, exec_releaseAddr s addr pec⟩
  · exact ⟨_, _, _, exec_readMode s addr pec⟩
  · exact ⟨_, _, _, exec_readRst s addr pec⟩
  · exact ⟨_, _, _, exec_readFstop s addr pec⟩
  · exact ⟨_, _, _, exec_readPower s addr pec⟩
  · exact ⟨_, _, _, exec_devReset s addr pec v mp0⟩
  · exact ⟨_, _, _, exec_warmReset s addr pec v mp0⟩
  · exact ⟨_, _, _, exec_sleep s addr pec v⟩
  · exact ⟨_, _, _, exec_wake s addr pec v⟩
  · exact ⟨_, _, _, exec_throttle s addr pec v⟩
  · exact ⟨_, _, _, exec_wakeCfg s addr pec write v⟩

section
variable {s : State} {addr : Nat} (haddr : s.chainAddr = some addr)
include haddr

theorem exec_mgmt_of_pec {trips may arg : Bool} {c : Instr} {f : State → State} (hc : exec c s = .next (s.mgmtDo addr true trips may arg f)) :
    exec c s = .next { s with mgmt := 1 } := by
  rw [hc, State.mgmtDo_of_pec haddr]

theorem exec_mgmtRows_of_pec {v : Nat} {mp0 write : Bool} {c : Instr} (hc : c ∈ mgmtRows addr true v mp0 write) :
    exec c s = .next { s with mgmt := 1 } := by
  obtain ⟨may, arg, f, h⟩ := exec_of_mem_mgmtRows hc s
  exact exec_mgmt_of_pec haddr h

theorem exec_mgmtRows_of_trip (htrip : s.trip = true) {v : Nat} {mp0 write : Bool} {c : Instr} (hc : c ∈ mgmtRows addr false v mp0 write) :
    exec c s = .next { s with mgmt := 5 } := by
  obtain ⟨may, arg, f, h⟩ := exec_of_mem_mgmtRows hc s
  rw [h, State.mgmtDo_of_trip haddr f htrip]

theorem exec_mgmt_unlisted {code : Nat} (hcode : code ∉ mgmtCodes) (pec : Bool) :
    exec (.mgmtUnknownCommand addr pec code) s = .next { s with mgmt := if pec then 1 else 2 } := by
  rw [exec_mgmtUnknownCommand, mgmtUnknown_of_unlisted haddr hcode]

theorem exec_lastStatus_of_pec : exec (.lastStatus addr true) s = .next { s with mgmt := 1 } := by
  rw [exec_lastStatus, mgmtLastStatus_of_addressed haddr, if_pos rfl]

variable {trips may arg : Bool} {c : Instr} {f : State → State} (hc : exec c s = .next (s.mgmtDo addr false trips may arg f))
  (hup : (s.trip && trips) = false)
include hc hup

theorem exec_mgmt_forbidden (hmay : may = false) : exec c s = .next { s with mgmt := 4 } := by
  rw [hc, State.mgmtDo_of_forbidden haddr f hup hmay]

theorem exec_mgmt_bad_value (hmay : may = true) (harg : arg = false) : exec c s = .next { s with mgmt := 3 } := by
  rw [hc, State.mgmtDo_of_bad_value haddr f hup hmay harg]

theorem exec_mgmt_accepted (hmay : may = true) (harg : arg = true) : exec c s = .next (f { s with mgmt := 0 }) := by
  rw [hc, State.mgmtDo_of_accepted haddr f hup hmay harg]

end

theorem exec_throttle_accepted {s : State} {addr v : Nat} (haddr : s.chainAddr = some addr) (hup : (s.trip && true) = false)
    (hm : s.upright = true) (hv : v < 2) : exec (.throttle addr false v) s =
      .next (State.thermalEdges (State.put { s with mgmt := 0 } BRD_THERM_MGMT v) s.throttling s.tempHigh) := by
  have h := exec_mgmt_accepted haddr (exec_throttle s addr false v) hup hm
  rw [h (by simp [hv])]

theorem exec_resets_accepted {s : State} {addr : Nat} (haddr : s.chainAddr = some addr) (hup : (s.trip && true) = false)
    (hm : s.upright = true) (mp0 : Bool) :
    exec (.devReset addr false 0xD5 mp0) s = .next (State.devReset { s with mgmt := 0 } 5 mp0) ∧
      exec (.warmReset addr false 0xD5 mp0) s = .next (State.warmReset { s with mgmt := 0 } mp0) := by
  have hdev := exec_mgmt_accepted haddr (exec_devReset s addr false 0xD5 mp0) hup hm
  have hwarm := exec_mgmt_accepted haddr (exec_warmReset s addr false 0xD5 mp0) hup hm
  exact ⟨by rw [hdev (by simp)], by rw [hwarm (by simp)]⟩

/-- Settles O59: each command is `mgmtDo` of its conditions and effect, and the refusals follow the order in which it tests them. -/
theorem mgmtCommandsComplete : Obligations.MgmtCommandsComplete := by
  unfold Obligations.MgmtCommandsComplete
  refine ⟨fun s addr haddr => ?accepted, fun s addr haddr => ?refused⟩
  case accepted =>
    intro ok replies
    refine ⟨by rw [exec_lastStatus, mgmtLastStatus_of_addressed haddr]; rfl,
      exec_mgmt_accepted haddr (exec_readId s addr false) (Bool.and_false _) rfl rfl,
      fun hm => exec_mgmt_accepted haddr (exec_readTemp s addr false) (Bool.and_false _) (s.upright_iff.2 hm) rfl, fun htrip => ?_⟩
    have hup : (s.trip && true) = false := by rw [htrip]; rfl
    refine ⟨fun h0 v hlo hhi => exec_mgmt_accepted haddr (exec_assignAddr s addr false v) hup (by simp [h0]) (by simp [hlo, hhi]),
      fun h1 => exec_mgmt_accepted haddr (exec_releaseAddr s addr false) hup (by simp [h1]) rfl,
      exec_mgmt_accepted haddr (exec_readMode s addr false) hup rfl rfl, exec_mgmt_accepted haddr (exec_readRst s addr false) hup rfl rfl,
      exec_mgmt_accepted haddr (exec_readFstop s addr false) hup rfl rfl,
      fun v => ⟨exec_mgmt_accepted haddr (exec_wakeCfg s addr false true v) hup rfl rfl,
        exec_mgmt_accepted haddr (exec_wakeCfg s addr false false v) hup rfl rfl⟩,
      fun hm => ?_, fun hm => exec_mgmt_accepted haddr (exec_wake s addr false 0xD5) hup (by simp [hm]) rfl,
      fun hs => exec_mgmt_accepted haddr (exec_sleep s addr false 0xD5) hup hs rfl⟩
    have hm := s.upright_iff.2 hm
    exact ⟨exec_mgmt_accepted haddr (exec_readPower s addr false) hup hm rfl,
      fun mp0 => exec_resets_accepted haddr hup hm mp0,
      fun v hv => exec_throttle_accepted haddr hup hm hv⟩
  case refused =>
    intro result rows
    refine ⟨fun v mp0 write c hc => ?_, fun code hcode => ?_, fun htrip v mp0 write c hc => exec_mgmtRows_of_trip haddr htrip hc,
      fun htrip v mp0 => ?_⟩
    · rcases List.mem_append.1 hc with hc | hc
      · simp only [List.mem_cons, List.not_mem_nil, or_false] at hc
        rcases hc with rfl | rfl | rfl
        · exact exec_lastStatus_of_pec haddr
        · exact exec_mgmt_of_pec haddr (exec_readId s addr true)
        · exact exec_mgmt_of_pec haddr (exec_readTemp s addr true)
      · exact exec_mgmtRows_of_pec haddr hc
    · exact ⟨exec_mgmt_unlisted haddr hcode false,
        exec_mgmt_unlisted haddr hcode true⟩
    · have hup : (s.trip && true) = false := by rw [htrip]; rfl
      refine ⟨fun h => exec_mgmt_forbidden haddr (exec_assignAddr s addr false v) hup (by simpa using h),
        fun h => exec_mgmt_forbidden haddr (exec_releaseAddr s addr false) hup (by simpa using h), fun hm c hc => ?_,
        fun h => exec_mgmt_forbidden haddr (exec_sleep s addr false v) hup h,
        fun h => exec_mgmt_forbidden haddr (exec_wake s addr false v) hup (by simpa using h),
        fun h0 hv => exec_mgmt_bad_value haddr (exec_assignAddr s addr false v) hup (by simp [h0])
          (by simp only [Bool.and_eq_false_iff, decide_eq_false_iff_not]; omega),
        fun hm => ⟨fun hv => ⟨exec_mgmt_bad_value haddr (exec_devReset s addr false v mp0) hup (s.upright_iff.2 hm) (by simpa using hv),
          exec_mgmt_bad_value haddr (exec_warmReset s addr false v mp0) hup (s.upright_iff.2 hm) (by simpa using hv)⟩,
          fun hv => exec_mgmt_bad_value haddr (exec_throttle s addr false v) hup (s.upright_iff.2 hm) (decide_eq_false (by omega))⟩,
        fun hm hv => exec_mgmt_bad_value haddr (exec_wake s addr false v) hup (by simp [hm]) (by simpa using hv),
        fun hs hv => exec_mgmt_bad_value haddr (exec_sleep s addr false v) hup hs (by simpa using hv)⟩
      have hno : s.upright = false := by simp [State.upright, hm]
      simp only [List.mem_cons, List.not_mem_nil, or_false] at hc
      rcases hc with rfl | rfl | rfl | rfl | rfl
      · exact exec_mgmt_forbidden haddr (exec_readTemp s addr false) (Bool.and_false _) hno
      · exact exec_mgmt_forbidden haddr (exec_readPower s addr false) hup hno
      · exact exec_mgmt_forbidden haddr (exec_devReset s addr false v mp0) hup hno
      · exact exec_mgmt_forbidden haddr (exec_warmReset s addr false v mp0) hup hno
      · exact exec_mgmt_forbidden haddr (exec_throttle s addr false v) hup hno

end Sys2Proof.Machine
end

section
/-! SUPPORT. The mailbox protocol (O47): the response in M2H_DATA, the refusals that come before a command, and the rings' creation
and deletion (R421 – R426, R452 – R457). -/
namespace Sys2Proof.Machine

/-! ### A list of puts -/

/-- What a list of puts to fields that lie apart leaves in each of them. -/
theorem State.get_puts_of_mem {s : State} {l : List (Fld × Nat)} (hfits : ∀ p ∈ l, p.1.fits = true)
    (hapart : l.Pairwise fun p q => q.1.apart p.1 = true) {p : Fld × Nat} (hp : p ∈ l) : (s.puts l).get p.1 = p.2 % 2 ^ p.1.w := by
  induction l generalizing s with
  | nil => cases hp
  | cons q l ih =>
    obtain ⟨hq, hl⟩ := List.pairwise_cons.1 hapart
    rw [State.puts_cons]
    rcases List.mem_cons.1 hp with rfl | hp
    · rw [State.get_puts_apart _ _ _ fun r hr => ⟨hfits r (List.mem_cons_of_mem _ hr), hq r hr⟩, State.get_put _ _ _ (hfits p (List.mem_cons_self ..))]
    · exact ih (fun r hr => hfits r (List.mem_cons_of_mem _ hr)) hl hp

theorem State.puts_out (s : State) (l : List (Fld × Nat)) : (s.puts l).out = s.out := by rw [State.puts_eq]
theorem State.puts_linkUp (s : State) (l : List (Fld × Nat)) : (s.puts l).linkUp = s.linkUp := by rw [State.puts_eq]

/-! ### The response (R421, R422) -/

/-- What a response writes into the mailbox, with the sequence number it answers. -/
def respPuts (seq : Nat) (r : Resp) : List (Fld × Nat) :=
  (MBX_M2H_DATA_DATA, r.status % 65536 + min 15 r.data.length * 2 ^ 16 + seq * 2 ^ 20 + 3 * 2 ^ 28) ::
    ((upto (min 15 r.data.length)).map fun k => (MBX_M2H_DATA_DATA.nth 4 (k + 1), nthD r.data k 0)) ++
    [(MBX_M2H_DOORBELL_VALID, 1), (MBX_M2H_DOORBELL_SEQ, seq), (MBX_STATE_M2H_VALID, 1)]

/-- Dword k of M2H_DATA lies in its own register. -/
theorem m2hData_fits (k : Nat) : (MBX_M2H_DATA_DATA.nth 4 k).fits = true := by
  have : 8 * ((0x180 + 4 * k) % 8) + 0 + 32 ≤ 64 := by omega
  exact decide_eq_true this

theorem Fld.apart_iff (f g : Fld) : f.apart g = true ↔ f.off / 8 ≠ g.off / 8 ∨ 8 * (f.off % 8) + f.lo + f.w ≤ 8 * (g.off % 8) + g.lo ∨
    8 * (g.off % 8) + g.lo + g.w ≤ 8 * (f.off % 8) + f.lo := by
  simp only [Fld.apart, Bool.or_eq_true, decide_eq_true_eq, or_assoc]

theorem Fld.apart_of_slot {f g : Fld} (h : f.off / 8 ≠ g.off / 8) : f.apart g = true := (Fld.apart_iff f g).2 (.inl h)

theorem m2hData_apart {j k : Nat} (h : j ≠ k) : (MBX_M2H_DATA_DATA.nth 4 j).apart (MBX_M2H_DATA_DATA.nth 4 k) = true := by
  rw [Fld.apart_iff]
  simp only [Fld.nth, MBX_M2H_DATA_DATA]
  omega

theorem m2hData_apart_of_below {k : Nat} {f : Fld} (hk : k < 16) (hf : f.off < 0x180 ∨ 0x1C0 ≤ f.off) :
    (MBX_M2H_DATA_DATA.nth 4 k).apart f = true := by
  apply Fld.apart_of_slot
  simp only [Fld.nth, MBX_M2H_DATA_DATA]
  omega

theorem apart_m2hData_of_below {k : Nat} {f : Fld} (hk : k < 16) (hf : f.off < 0x180 ∨ 0x1C0 ≤ f.off) :
    f.apart (MBX_M2H_DATA_DATA.nth 4 k) = true := by
  apply Fld.apart_of_slot
  simp only [Fld.nth, MBX_M2H_DATA_DATA]
  omega

/-- The fields that a response writes: the header, its dwords and the state of the mailbox. -/
theorem of_mem_respPuts {P : Fld → Prop} (hdata : ∀ k < 16, P (MBX_M2H_DATA_DATA.nth 4 k)) (hvalid : P MBX_M2H_DOORBELL_VALID)
    (hseq : P MBX_M2H_DOORBELL_SEQ) (hm2h : P MBX_STATE_M2H_VALID) {seq : Nat} {r : Resp} {p : Fld × Nat} (hp : p ∈ respPuts seq r) : P p.1 := by
  simp only [respPuts, upto, List.cons_append, List.mem_cons, List.mem_append, List.mem_map, List.mem_range, List.not_mem_nil, or_false] at hp
  rcases hp with rfl | ⟨k, hk, rfl⟩ | rfl | rfl | rfl
  · exact hdata 0 (by decide)
  · exact hdata (k + 1) (by omega)
  · exact hvalid
  · exact hseq
  · exact hm2h

theorem respPuts_fits {seq : Nat} {r : Resp} : ∀ p ∈ respPuts seq r, p.1.fits = true := fun _ hp =>
  of_mem_respPuts (P := fun f => f.fits = true) (fun k _ => m2hData_fits k) (by decide) (by decide) (by decide) hp

theorem respPuts_apart (seq : Nat) (r : Resp) : (respPuts seq r).Pairwise fun p q => q.1.apart p.1 = true := by
  rw [respPuts, List.pairwise_append]
  refine ⟨List.pairwise_cons.2 ⟨fun p hp => ?_, List.pairwise_map.2 ?_⟩, ?_, fun p hp q hq => ?_⟩
  · obtain ⟨k, _, rfl⟩ := List.mem_map.1 hp
    exact m2hData_apart (Nat.succ_ne_zero k)
  · exact List.pairwise_lt_range.imp fun h => m2hData_apart (by omega)
  · simp only [List.pairwise_cons, List.mem_cons, List.not_mem_nil, or_false, forall_eq_or_imp, forall_eq,
      List.Pairwise.nil, and_true, false_implies, implies_true]
    decide
  · have hf : q.1.off < 0x180 ∨ 0x1C0 ≤ q.1.off := by
      simp only [List.mem_cons, List.not_mem_nil, or_false] at hq
      rcases hq with rfl | rfl | rfl
      · exact .inr (show 0x1C0 ≤ MBX_M2H_DOORBELL_VALID.off by decide)
      · exact .inr (show 0x1C0 ≤ MBX_M2H_DOORBELL_SEQ.off by decide)
      · exact .inr (show 0x1C0 ≤ MBX_STATE_M2H_VALID.off by decide)
    rcases List.mem_cons.1 hp with rfl | hp
    · exact apart_m2hData_of_below (k := 0) (by decide) hf
    · obtain ⟨k, hk, rfl⟩ := List.mem_map.1 hp
      have := List.mem_range.1 hk
      exact apart_m2hData_of_below (by omega) hf

/-- A response is its puts and the message of vector 0. -/
theorem State.respond_eq (s : State) (r : Resp) : s.respond r = (s.puts (respPuts s.reqSeq r)).msix 0 := by
  have hfold : ∀ t : State, (upto (min 15 r.data.length)).foldl (fun s k => s.put (MBX_M2H_DATA_DATA.nth 4 (k + 1)) (nthD r.data k 0)) t =
      t.puts ((upto (min 15 r.data.length)).map fun k => (MBX_M2H_DATA_DATA.nth 4 (k + 1), nthD r.data k 0)) := fun t =>
    State.puts_foldl t _ fun k => (MBX_M2H_DATA_DATA.nth 4 (k + 1), nthD r.data k 0)
  unfold State.respond
  dsimp only
  rw [hfold, respPuts, State.puts_append, State.puts_cons s (MBX_M2H_DATA_DATA, _)]
  have hseq : State.reqSeq ((s.put MBX_M2H_DATA_DATA (r.status % 65536 + min 15 r.data.length * 2 ^ 16 + s.reqSeq * 2 ^ 20 + 3 * 2 ^ 28)).puts
      ((upto (min 15 r.data.length)).map fun k => (MBX_M2H_DATA_DATA.nth 4 (k + 1), nthD r.data k 0))) = s.reqSeq := by
    unfold State.reqSeq State.reqD
    rw [State.get_puts_apart _ _ _ fun p hp => ?_, State.get_put_apart _ _ _ _ (by decide) (by decide)]
    obtain ⟨k, hk, rfl⟩ := List.mem_map.1 hp
    have := List.mem_range.1 hk
    exact ⟨m2hData_fits _, m2hData_apart_of_below (by omega) (.inl (by decide))⟩
  rw [hseq]

/-- A response leaves every register outside the response half of the mailbox. -/
theorem State.get_puts_respPuts (s : State) {seq : Nat} {r : Resp} {f : Fld} (hf : f.off < 0x180 ∨ 0x1C8 ≤ f.off) :
    (s.puts (respPuts seq r)).get f = s.get f :=
  State.get_puts_apart _ _ _ fun p hp => ⟨respPuts_fits p hp, of_mem_respPuts (P := fun g => g.apart f = true)
    (fun k hk => m2hData_apart_of_below hk (by omega)) (Fld.apart_of_slot (by simp only [MBX_M2H_DOORBELL_VALID]; omega))
    (Fld.apart_of_slot (by simp only [MBX_M2H_DOORBELL_SEQ]; omega)) (Fld.apart_of_slot (by simp only [MBX_STATE_M2H_VALID]; omega)) hp⟩

theorem State.msixLive_puts_respPuts (s : State) (seq : Nat) (r : Resp) : (s.puts (respPuts seq r)).msixLive = s.msixLive := by
  unfold State.msixLive
  rw [State.puts_linkUp, State.get_puts_respPuts s (.inr (by decide)), State.get_puts_respPuts s (.inr (by decide))]

theorem State.msixMasked_puts_respPuts (s : State) (seq : Nat) (r : Resp) : (s.puts (respPuts seq r)).msixMasked 0 = s.msixMasked 0 := by
  unfold State.msixMasked
  rw [State.get_puts_respPuts s (.inr (by decide)), State.get_puts_respPuts s (.inr (by decide))]

/-- A register that a response writes. -/
theorem State.get_respond (s : State) (r : Resp) {p : Fld × Nat} (hp : p ∈ respPuts s.reqSeq r) :
    (s.respond r).get p.1 = p.2 % 2 ^ p.1.w := by
  have hoff : p.1.off < 0x4000000 := of_mem_respPuts (P := fun f => f.off < 0x4000000)
    (fun k hk => by simp only [Fld.nth, MBX_M2H_DATA_DATA]; omega) (by decide) (by decide) (by decide) hp
  rw [State.respond_eq, State.get_msix _ 0 hoff, State.get_puts_of_mem respPuts_fits (respPuts_apart _ _) hp]

theorem State.reqSeq_lt (s : State) : s.reqSeq < 256 := by
  rw [State.reqSeq, field_eq]
  exact Nat.mod_lt _ (by decide)

/-- The message of a response: none while messages cannot be sent, else the message or its pending bit. -/
theorem State.respond_msix (s : State) (r : Resp) : (s.msixLive = false → (s.respond r).out = s.out) ∧
    (s.msixLive = true → s.msixMasked 0 = false → (s.respond r).out = s.out ++ [.msix 0]) ∧
    (s.msixLive = true → s.msixMasked 0 = true → (s.respond r).out = s.out ∧ (s.respond r).get (msixPend 0) = 1) := by
  rw [State.respond_eq]
  have hlive := s.msixLive_puts_respPuts s.reqSeq r
  have hmask := s.msixMasked_puts_respPuts s.reqSeq r
  have hout := s.puts_out (respPuts s.reqSeq r)
  generalize s.puts (respPuts s.reqSeq r) = x at *
  rw [← hlive, ← hmask, ← hout]
  unfold State.msix
  refine ⟨fun h => ?_, fun h hm => ?_, fun h hm => ?_⟩
  · rw [h]; rfl
  · rw [h, hm]; rfl
  · rw [h, hm]
    exact ⟨rfl, State.get_put _ _ _ (msixPend_fits 0)⟩

/-! ### The mailbox's state (R422, R423) -/

/-- The host's read of the header ends the exchange. -/
theorem m2hData0Read_of_valid {s : State} (h : s.get MBX_STATE_M2H_VALID = 1) (mp0 : Bool) : m2hData0Read mp0 s =
    State.dueReset { s.puts [(MBX_STATE_H2M_BUSY, 0), (MBX_STATE_M2H_VALID, 0), (MBX_M2H_DOORBELL_VALID, 0)] with
      reqTaken := false, rdata := s.get MBX_M2H_DATA_DATA } mp0 := by
  unfold m2hData0Read
  exact if_pos h

/-! ### Refusals (R452, R453, R456, R457) -/

/-- The state behind a command of the code: a secret request is erased before its answer (R455). -/
def State.erased (s : State) (code : Nat) : State := if secretCode code then s.wipeRequest else s

theorem State.erased_of_public {code : Nat} (h : secretCode code = false) (s : State) : s.erased code = s := by rw [State.erased, h]; rfl
theorem State.erased_of_secret {code : Nat} (h : secretCode code = true) (s : State) : s.erased code = s.wipeRequest := by rw [State.erased, h]; rfl

/-- A request that is answered with an error by its run is answered with that error, and nothing more happens. -/
theorem State.serveMail_err {s : State} {run : Outer → (Nat → Nat) → Nat → State → State × Resp} {e : Outer} {n : Nat} (hn : n % 65536 ≠ 0)
    (hrun : (if s.badMajor then (s.takeReq, Resp.err eVERSION) else run (s.outer e) s.reqDwords s.reqN s.takeReq) = (s.takeReq, .err n)) :
    s.serveMail run e = (s.takeReq.erased s.reqCode).respond (.err n) := by
  have hstatus : (Resp.err n).status ≠ 0 := fun h => hn (by rw [show n = 0 from h])
  unfold State.serveMail
  dsimp only
  rw [hrun]
  dsimp only
  rw [← State.erased, if_neg fun h => hstatus h.2, afterServe, if_neg fun h => hstatus h.2.2]

/-- The refusals of a code with an entry: a wrong version, a mode that does not serve it, and arguments that are not of its form,
each before the command itself (R453, R456, R457). -/
theorem serveForm_of_mode {s : State} {f : Form} (hmode : f.modes.ok s.mode = false) (c : Cmd) (ring : Bool) (e : Outer) (d : Nat → Nat) (n : Nat) :
    serveForm f c ring e d n s = (s, .err eMODE) := by
  rw [serveForm, hmode]; rfl

theorem serveForm_of_args {s : State} {f : Form} {n : Nat} {d : Nat → Nat} (hmode : f.modes.ok s.mode = true) (hargs : f.argsOk n d = false)
    (c : Cmd) (ring : Bool) (e : Outer) : serveForm f c ring e d n s = (s, .err eARG) := by
  rw [serveForm, hmode, hargs, Bool.not_false, Bool.or_true]; rfl

theorem serveForm_of_accepted {s : State} {f : Form} {n : Nat} {d : Nat → Nat} (hmode : f.modes.ok s.mode = true) (hargs : f.argsOk n d = true)
    (c : Cmd) (e : Outer) : serveForm f c false e d n s = c e d n s := by
  rw [serveForm, hmode, hargs]; rfl

/-- A command that is refused, by its version, mode or arguments, answers 2, 3 or 4. -/
def refusal (s : State) (f : Form) : Option Nat :=
  if s.badMajor then some eVERSION else if !f.modes.ok s.mode then some eMODE else if !f.argsOk s.reqN s.reqDwords then some eARG else none

theorem State.serveMail_refused {s : State} {f : Form} {n : Nat} (href : refusal s f = some n)
    {run : Outer → (Nat → Nat) → Nat → State → State × Resp} {c : Cmd} (hrun : run = serveForm f c false) (e : Outer) :
    s.serveMail run e = (s.takeReq.erased s.reqCode).respond (.err n) := by
  subst hrun
  unfold refusal at href
  split at href
  · obtain rfl := Option.some.inj href
    exact State.serveMail_err (by decide) (if_pos ‹_›)
  · rename_i hbad
    split at href
    · rename_i hmode
      obtain rfl := Option.some.inj href
      have hmode : f.modes.ok s.takeReq.mode = false := by rwa [State.takeReq_mode, ← Bool.not_eq_true']
      exact State.serveMail_err (by decide) ((if_neg hbad).trans (serveForm_of_mode hmode ..))
    · rename_i hmode
      split at href
      · rename_i hargs
        obtain rfl := Option.some.inj href
        have hmode : f.modes.ok s.takeReq.mode = true := by rw [State.takeReq_mode]; simpa using hmode
        exact State.serveMail_err (by decide) ((if_neg hbad).trans (serveForm_of_args hmode (by simpa using hargs) ..))
      · cases href

/-- A request of a code with an entry that is refused gets its refusal. -/
theorem mbxCmd_refused {s : State} {code n : Nat} {f : Form} {c : Cmd} (hwaits : s.reqWaits = true) (hcode : s.reqCode = code)
    (hentry : catalogue code = some (f, c)) (href : refusal s f = some n) (e : Outer) :
    mbxCmd code e s = (s.takeReq.erased code).respond (.err n) := by
  have hserve : serve code false = serveForm f c false := by
    funext e d n s
    rw [serve, hentry]
  have hwait : (if s.badMajor then none else s.moveWaits code false s.reqDwords s.reqN) = none := by
    unfold refusal at href
    split
    · rfl
    · rename_i hbad
      rw [if_neg hbad] at href
      unfold State.moveWaits
      split
      · rw [hentry]
        dsimp only
        refine if_neg fun h => ?_
        simp only [Bool.and_eq_true] at h
        rw [h.1.1.1, h.1.2] at href
        cases href
      · rfl
  unfold mbxCmd
  rw [if_pos ⟨hwaits, hcode⟩, hwait]
  rw [State.serveMail_refused href hserve e, hcode]

theorem ringDelete_refused {s : State} {n : Nat} (hwaits : s.reqWaits = true) (hcode : s.reqCode = ringDeleteCode)
    (href : refusal s ringDeleteForm = some n) (e : Outer) : ringDelete e s = s.takeReq.respond (.err n) := by
  unfold ringDelete
  rw [if_pos ⟨hwaits, hcode⟩, State.serveMail_refused href rfl e, hcode, State.erased_of_public rfl]

theorem refusal_of_major {s : State} (hmajor : s.reqMajor ≠ 3) (hcode : 5 < s.reqCode) (f : Form) : refusal s f = some 2 := by
  have hbad : s.badMajor = true := by
    have : isBasic s.reqCode = false := by simp [isBasic, hcode]
    rw [State.badMajor, this]
    simpa using hmajor
  rw [refusal, hbad]; rfl

theorem State.badMajor_of_major {s : State} (hmajor : s.reqMajor = 3) : s.badMajor = false := by
  rw [State.badMajor, hmajor]; rfl

theorem refusal_of_mode {s : State} {f : Form} (hmajor : s.reqMajor = 3) (hmode : f.modes.ok s.mode = false) : refusal s f = some 3 := by
  rw [refusal, State.badMajor_of_major hmajor, hmode]; rfl

theorem refusal_of_args {s : State} {f : Form} (hmajor : s.reqMajor = 3) (hmode : f.modes.ok s.mode = true)
    (hargs : f.argsOk s.reqN s.reqDwords = false) : refusal s f = some 4 := by
  rw [refusal, State.badMajor_of_major hmajor, hmode, hargs]; rfl

/-- Row `c` serves the code: whatever its form refuses it answers with the refusal. -/
def ServesCode (c : Instr) (code : Nat) : Prop :=
  ∀ (s : State) (f : Form) (n : Nat), formOf code = some f → s.reqWaits = true → s.reqCode = code → refusal s f = some n →
    exec c s = .next ((s.takeReq.erased code).respond (.err n))

theorem ServesCode.of_mbxCmd {c : Instr} {code : Nat} (hring : code ≠ ringDeleteCode) {e : Outer} (hexec : ∀ s, exec c s = .next (mbxCmd code e s)) :
    ServesCode c code := by
  intro s f n hform hwaits hcode href
  rw [formOf, if_neg hring] at hform
  obtain ⟨⟨f', cmd⟩, hentry, rfl⟩ := Option.map_eq_some_iff.1 hform
  rw [hexec, mbxCmd_refused hwaits hcode hentry href]

theorem servesCode_ringDelete : ServesCode .ringDelete 0x31 := by
  intro s f n hform hwaits hcode href
  obtain rfl : ringDeleteForm = f := Option.some.inj hform
  rw [State.erased_of_public rfl]
  exact congrArg Host.Outcome.next (ringDelete_refused hwaits hcode href _)

/-- The rows whose refusals are stated serve their codes. -/
theorem servesCode_of_mem {c : Instr} {code : Nat} (h : (c, code) ∈ [(Instr.identify, 1), (.fwStatus, 2), (.deviceReset, 4), (.abortToBoot, 5),
    (.fwBegin, 0x10), (.fwCommit, 0x11), (.modeSet, 0x20), (.deviceSet, 0x21), (.setSplit, 0x22), (.ringCreate, 0x30), (.ringDelete, 0x31),
    (.titleRemove, 0x41), (.stallStart, 0x51), (.stallPark, 0x52), (.stallResume, 0x53), (.stallReset, 0x54), (.stallSet, 0x55), (.stallMove, 0x56),
    (.stallDestroy, 0x57), (.stallQuery, 0x58)]) : ServesCode c code ∧ secretCode code = false := by
  simp only [List.mem_cons, Prod.mk.injEq, List.not_mem_nil, or_false] at h
  rcases h with ⟨rfl, rfl⟩ | ⟨rfl, rfl⟩ | ⟨rfl, rfl⟩ | ⟨rfl, rfl⟩ | ⟨rfl, rfl⟩ | ⟨rfl, rfl⟩ | ⟨rfl, rfl⟩ | ⟨rfl, rfl⟩ |
    ⟨rfl, rfl⟩ | ⟨rfl, rfl⟩ | ⟨rfl, rfl⟩ | ⟨rfl, rfl⟩ | ⟨rfl, rfl⟩ | ⟨rfl, rfl⟩ | ⟨rfl, rfl⟩ | ⟨rfl, rfl⟩ | ⟨rfl, rfl⟩ | ⟨rfl, rfl⟩ | ⟨rfl, rfl⟩ | ⟨rfl, rfl⟩
  case inr.inr.inr.inr.inr.inr.inr.inr.inr.inr.inl => exact ⟨servesCode_ringDelete, rfl⟩
  all_goals exact ⟨.of_mbxCmd (by decide) fun _ => rfl, rfl⟩

/-- The refusals of a row that serves its code. -/
theorem ServesCode.refuses {c : Instr} {code : Nat} (hserves : ServesCode c code) {s : State} {f : Form} (hform : formOf code = some f)
    (hwaits : s.reqWaits = true) (hcode : s.reqCode = code) :
    (s.reqMajor ≠ 3 → 5 < code → exec c s = .next ((s.takeReq.erased code).respond (.err 2))) ∧
    (s.reqMajor = 3 → f.modes.ok s.mode = false → exec c s = .next ((s.takeReq.erased code).respond (.err 3))) ∧
    (s.reqMajor = 3 → f.modes.ok s.mode = true → f.argsOk s.reqN s.reqDwords = false → exec c s = .next ((s.takeReq.erased code).respond (.err 4))) :=
  have hrefuses {n : Nat} := hserves s f n hform hwaits hcode
  ⟨fun hmajor h5 => hrefuses (refusal_of_major hmajor (hcode ▸ h5) f), fun hmajor hmode => hrefuses (refusal_of_mode hmajor hmode),
    fun hmajor hmode hargs => hrefuses (refusal_of_args hmajor hmode hargs)⟩

/-- An undefined code. -/
theorem unknownCommand_of_undefined {s : State} (hwaits : s.reqWaits = true) (hform : formOf s.reqCode = none) (hmajor : s.reqMajor = 3) :
    unknownCommand s = s.takeReq.respond (.err 1) := by
  unfold formOf at hform
  split at hform
  · cases hform
  · rename_i hring
    have hnone : catalogue s.reqCode = none := by simpa using hform
    have hsecret : secretCode s.reqCode = false := by
      rw [← Bool.not_eq_true]
      intro h
      simp only [secretCode, Bool.or_eq_true, beq_iff_eq] at h
      rcases h with h | h <;> rw [h] at hnone <;> cases hnone
    unfold unknownCommand
    rw [if_pos ⟨hwaits, by rw [hnone]; rfl, hring⟩]
    rw [← State.erased_of_public hsecret s.takeReq]
    exact State.serveMail_err (by decide) (by rw [State.badMajor_of_major hmajor]; rfl)

/-! ### Rings (R425, R426) -/

theorem ringF_fits (f : Fld) (r : Nat) : (ringF f r).fits = f.fits := by
  have : (f.off + 16 * r) % 8 = f.off % 8 := by omega
  simp only [ringF, Fld.nth, Fld.fits, this]

/-- Two fields of one ring lie apart as they do for ring 0. -/
theorem ringF_apart (f g : Fld) (r : Nat) : (ringF f r).apart (ringF g r) = f.apart g := by
  have hf : (f.off + 16 * r) % 8 = f.off % 8 ∧ (f.off + 16 * r) / 8 = f.off / 8 + 2 * r := by omega
  have hg : (g.off + 16 * r) % 8 = g.off % 8 ∧ (g.off + 16 * r) / 8 = g.off / 8 + 2 * r := by omega
  simp only [ringF, Fld.nth, Fld.apart, hf, hg, ne_eq, Nat.add_right_cancel_iff]

/-- RING_DELETE, accepted, of a ring that is there. -/
theorem ringDelete_answers {s : State} {x : Ring} (h : Accepts s 0x31) (hx : s.takeReq.ring? (s.reqDwords 1) = some x) (e : Outer) :
    ringDelete e s = (s.takeReq.deleteRing x).respond .ok := by
  obtain ⟨hwaits, hcode, hmajor, f, hform, hmode, hargs⟩ := h
  obtain rfl : ringDeleteForm = f := Option.some.inj hform
  have hrun : serveForm ringDeleteForm cmdRingDelete false (s.outer e) s.reqDwords s.reqN s.takeReq = (s.takeReq.deleteRing x, .ok) := by
    rw [serveForm_of_accepted (by rwa [State.takeReq_mode]) hargs, cmdRingDelete, hx]
  unfold ringDelete
  rw [if_pos ⟨hwaits, hcode⟩, State.serveMail_run _ _ _ (State.badMajor_of_major hmajor)]
  dsimp only
  rw [hrun, hcode, show secretCode 0x31 = false from rfl, if_neg fun h => absurd h.1 (by decide), afterServe,
    if_neg fun h => absurd h.1 (by decide), if_neg (by decide)]

/-- The registers of ring 0 as a creation leaves them. -/
def ringInit : List (Fld × Nat) :=
  [(RNG_SQ_TAIL_TAIL, 0), (RNG_CQ_HEAD_HEAD, 0), (RNG_STATE_CREATED, 1), (RNG_STATE_SQHEAD, 0), (RNG_STATE_SQPHASE, 1), (RNG_STATE_CQTAIL, 0),
    (RNG_STATE_CQPHASE, 1), (RNG_STATE_OPEN, 0)]

/-- The registers of a ring that is created. -/
def ringPuts (r : Nat) : List (Fld × Nat) := ringInit.map fun p => (ringF p.1 r, p.2)

theorem ringPuts_fits (r : Nat) : ∀ p ∈ ringPuts r, p.1.fits = true := by
  simp only [ringPuts, List.forall_mem_map, ringF_fits]
  decide

theorem ringPuts_apart (r : Nat) : (ringPuts r).Pairwise fun p q => q.1.apart p.1 = true := by
  simp only [ringPuts, List.pairwise_map, ringF_apart]
  decide

/-- A register of the ring that is created. -/
theorem State.get_puts_ringPuts (s : State) (r : Nat) {f : Fld} {v : Nat} (h : (f, v) ∈ ringInit) :
    (s.puts (ringPuts r)).get (ringF f r) = v % 2 ^ f.w :=
  State.get_puts_of_mem (p := (ringF f r, v)) (ringPuts_fits r) (ringPuts_apart r) (List.mem_map.2 ⟨_, h, rfl⟩)

/-- The ring that RING_CREATE makes of its operands. -/
def madeRing (d : Nat → Nat) (now : Nat) : Ring :=
  { num := d 1 % 16, sqLog := field (d 1) 4 4, cqLog := field (d 1) 8 4, vec := field (d 1) 12 6, cls := field (d 1) 18 4, sqBase := wide d 2
    cqBase := wide d 4, jobs := [], chain := [], armed := true, fetching := false, pollAt := now }

def State.addRing (s : State) (x : Ring) : State := { s with rings := insertBy (·.num) x s.rings }

@[simp] theorem State.addRing_rings (s : State) (x : Ring) : (s.addRing x).rings = insertBy (·.num) x s.rings := rfl
@[simp] theorem State.get_addRing (s : State) (x : Ring) (f : Fld) : (s.addRing x).get f = s.get f := rfl

theorem State.puts_rings (s : State) (l : List (Fld × Nat)) : (s.puts l).rings = s.rings := by rw [State.puts_eq]

/-- RING_CREATE with operands that meet its conditions. -/
theorem cmdRingCreate_of_permitted {e : Outer} {d : Nat → Nat} {n : Nat} {s : State} (hr : d 1 % 16 ≤ 8) (hsq : 4 ≤ field (d 1) 4 4)
    (hsq' : field (d 1) 4 4 ≤ 12) (hcq : 4 ≤ field (d 1) 8 4) (hcq' : field (d 1) 8 4 ≤ 12) (hsbase : wide d 2 % 4096 = 0) (hcbase : wide d 4 % 4096 = 0)
    (hcls : field (d 1) 18 4 ≤ 7) (hadmin : d 1 % 16 = 0 → field (d 1) 18 4 = 0) (hring : s.ring? (d 1 % 16) = none)
    (hclass : field (d 1) 18 4 ≠ 0 → s.ringOfClass (field (d 1) 18 4) = none) :
    cmdRingCreate e d n s = ((s.puts (ringPuts (d 1 % 16))).addRing (madeRing d s.time), .ok) := by
  unfold cmdRingCreate
  dsimp only
  rw [if_neg (by omega), if_neg]
  · rfl
  · rw [hring]
    rintro (h | ⟨h, h'⟩)
    · cases h
    · rw [hclass h] at h'
      cases h'

theorem exec_mbxDoorbell (go : Bool) (s : State) : exec (.mbxDoorbell go) s = .next (mbxDoorbell go s) := rfl
theorem exec_m2hData0Read (mp0 : Bool) (s : State) : exec (.m2hData0Read mp0) s = .next (m2hData0Read mp0 s) := rfl
theorem exec_unknownCommand (s : State) : exec .unknownCommand s = .next (unknownCommand s) := rfl

/-- Settles O47. -/
theorem mailboxProtocol : Obligations.MailboxProtocol := by
  unfold Obligations.MailboxProtocol
  intro s
  refine ⟨fun go hbusy => ?_, fun hidle hready => ?_, fun mp0 hvalid => ?_, fun hwaits hform hmajor => ?_,
    fun c code f hc hform hwaits hcode => ?_, fun r hdata hstatus => ?_,
    fun x h hx => ?_, ?_⟩
  · rw [exec_mbxDoorbell, mbxDoorbell, if_pos hbusy]
  · rw [exec_mbxDoorbell, mbxDoorbell, if_neg (by omega), if_neg (by simp [hready])]
  · rw [exec_m2hData0Read, m2hData0Read_of_valid hvalid]
  · rw [exec_unknownCommand, unknownCommand_of_undefined hwaits hform hmajor]
  · obtain ⟨hserves, hpublic⟩ := servesCode_of_mem hc
    have hrefuses := hserves.refuses hform hwaits hcode
    rwa [State.erased_of_public hpublic] at hrefuses
  · intro x
    have hn : min 15 r.data.length = r.data.length := Nat.min_eq_right hdata
    have hseq := s.reqSeq_lt
    have hget {p : Fld × Nat} (hp : p ∈ respPuts s.reqSeq r) : x.get p.1 = p.2 % 2 ^ p.1.w := s.get_respond r hp
    have hmsix : _ ∧ _ ∧ _ := s.respond_msix r
    refine ⟨?_, fun k hk => ?_, ?_, ?_, ?_, hmsix⟩
    · refine (hget (p := (MBX_M2H_DATA_DATA, _)) (List.mem_cons_self ..)).trans ?_
      show (r.status % 65536 + min 15 r.data.length * 2 ^ 16 + s.reqSeq * 2 ^ 20 + 3 * 2 ^ 28) % 2 ^ 32 = _
      omega
    · exact hget (p := (MBX_M2H_DATA_DATA.nth 4 (k + 1), _)) (List.mem_append_left _
        (List.mem_cons_of_mem _ (List.mem_map.2 ⟨k, List.mem_range.2 (by omega), rfl⟩)))
    · exact hget (p := (MBX_STATE_M2H_VALID, 1)) (List.mem_append_right _ (by simp))
    · exact hget (p := (MBX_M2H_DOORBELL_VALID, 1)) (List.mem_append_right _ (by simp))
    · exact (hget (p := (MBX_M2H_DOORBELL_SEQ, s.reqSeq)) (List.mem_append_right _ (by simp))).trans (Nat.mod_eq_of_lt hseq)
  · exact congrArg Host.Outcome.next (ringDelete_answers h hx _)
  · intro w d r sq cq cls h hr hsq hsq' hcq hcq' hsbase hcbase hcls hadmin hring hclass x
    have hcmd := cmdRingCreate_of_permitted (e := s.outer { host := none, put := false, room := false, verdict := 0 }) (n := s.reqN) hr hsq hsq' hcq
      hcq' hsbase hcbase hcls hadmin hring hclass
    have hget {f : Fld} {v : Nat} (h : (f, v) ∈ ringInit) := w.get_puts_ringPuts r h
    refine ⟨_, exec_answers h rfl rfl rfl hcmd, ?_, ?_⟩
    · rw [State.addRing_rings, State.puts_rings]
      rfl
    · simp only [State.get_addRing]
      exact ⟨hget (v := 1) (by decide), hget (v := 1) (by decide), hget (v := 1) (by decide), hget (v := 0) (by decide), hget (v := 0) (by decide),
        hget (v := 0) (by decide), hget (v := 0) (by decide)⟩

end Sys2Proof.Machine
end

section
/-! SUPPORT. The device commands of the mailbox (O48): what each does with operands that it accepts (R447, R457 – R459, R467). -/
namespace Sys2Proof.Machine

section
variable {e : Outer} {d : Nat → Nat} {n : Nat} {s : State}

theorem cmdIdentify_of_package {p : Pkg} (hp : s.pkg = some p) : cmdIdentify e d n s = (s, .ok [s.get DEV_ID_ID,
    s.get DEV_STEP_STEP + s.get DEV_CONF_LEVEL * 256 + modeCode s.mode * 65536, Config.devSerial.toNat % 2 ^ 32, Config.devSerial.toNat / 2 ^ 32,
    s.get MBX_STATE_MINOR + s.get MBX_STATE_MAJOR * 256, if s.get MBX_STATE_ROM = 1 then 0 else p.version]) := by
  rw [cmdIdentify, hp]

theorem cmdFwStatus_of_package {p : Pkg} (hp : s.pkg = some p) : cmdFwStatus e d n s = (s, .ok ([s.devMode, s.reg32 SPLIT_STATE_MODE.off,
    p.smc + p.hod * 65536, p.enc, (s.logSeq + (2 ^ 32 - 1)) % 2 ^ 32, s.stalls.length % 4096 + s.units % 4096 * 4096] ++ s.dropped)) := by
  rw [cmdFwStatus, State.epochs, hp]

theorem cmdLogRead_of_permitted (hput : e.put = true) (hpos : 0 < d 4) (hmax : d 4 ≤ 256) : cmdLogRead e d n s =
    (let l := (logFrom s.log s.logSeq (d 1)).take (d 4)
    (s.hostWrite (wide d 2) (l.flatMap LogRec.bytes), .ok [l.length, match l.getLast? with | some r => (r.seq + 1) % 2 ^ 32 | none => d 1,
      match s.log with | r :: _ => r.seq | [] => s.logSeq])) := by
  unfold cmdLogRead
  rw [if_neg (by omega), hput]
  rfl

theorem cmdAbortToBoot_of_loading (hmode : s.mode = .load ∨ s.mode = .reject) :
    cmdAbortToBoot e d n s = (State.toMode { s with fwLen := none, pkg := none } .boot 0, .ok) := by
  rw [cmdAbortToBoot, if_pos hmode]

theorem cmdAbortToBoot_of_other (hload : s.mode ≠ .load) (hreject : s.mode ≠ .reject) :
    cmdAbortToBoot e d n s = ({ s with rstDue := some (true, s.time) }, .ok) := by
  unfold cmdAbortToBoot
  rw [if_neg (not_or.2 ⟨hload, hreject⟩)]
  rfl

theorem cmdFwBegin_of_permitted (hmin : 1024 ≤ d 1) (hmax : d 1 ≤ 16777216) : cmdFwBegin e d n s =
    (let b := if s.mode = .reject then s.toMode .boot 0 else s
    let c : State := { b with fwLen := some (d 1), hbm := Memory.clearRange b.hbm stagingBase (stagingBase + 0x1000000) }
    (c.puts [(BAR2_WIN_BASE, stagingBase / 16777216), (BAR2_WIN_EN, 1)], .ok)) := by
  unfold cmdFwBegin
  rw [if_neg (by omega)]

/-! ### MODE_SET (R458, R480) -/

/-- The targets that MODE_SET knows and the present mode permits. -/
theorem cmdModeSet_of_permitted (htarget : d 1 ∈ [1, 5, 6, 8, 11]) (hfrom : modeSetFrom (d 1) s.mode s.detail = true) : cmdModeSet e d n s =
    if d 1 = 8 then if s.stalls.all fun st => decide (st.sched = .parked) then (s.enterDrowse, .ok) else (s, .err eBUSY)
    else if d 1 = 6 then (if s.mode = .drowse then s.leaveDrowse else s.enterServe, .ok)
    else if !s.stalls.isEmpty then (s, .err eBUSY)
    else if d 1 = 5 then (s.toMode .service 0x11, .ok)
    else if d 1 = 11 then (s.toMode .conformance 0, .ok)
    else (s, .ok) := by
  unfold cmdModeSet
  dsimp only
  rw [if_neg (by rw [List.contains_iff_mem.2 htarget]; decide), if_neg (by rw [hfrom]; decide)]

end

/-- A mode change that is accepted is answered, and SLUMBER is entered behind the answer. -/
theorem exec_modeSet {s x : State} (h : Accepts s 0x20)
    (hx : cmdModeSet (s.outer { host := none, put := false, room := false, verdict := 0 }) s.reqDwords s.reqN s.takeReq = (x, .ok)) :
    exec .modeSet s = .next (if s.reqDwords 1 = 1 then (x.respond .ok).enterSlumber else x.respond .ok) := by
  refine congrArg Host.Outcome.next ?_
  rw [mbxCmd_runs _ h rfl (by decide) (State.moveWaits_none (by decide)), State.serveMail_run _ _ _ (State.badMajor_of_major h.major)]
  dsimp only
  rw [hx, h.isCode, show secretCode 0x20 = false from rfl, if_neg fun h => absurd h.1 (by decide), afterServe]
  split
  · rename_i h1
    rw [if_pos h1.2.1]
    rfl
  · rename_i h1
    rw [if_neg fun h => h1 ⟨rfl, h, rfl⟩]
    rfl

theorem exec_modeSet_awake {s x : State} (h : Accepts s 0x20) (hawake : s.reqDwords 1 ≠ 1)
    (hx : cmdModeSet (s.outer { host := none, put := false, room := false, verdict := 0 }) s.reqDwords s.reqN s.takeReq = (x, .ok)) :
    exec .modeSet s = .next (x.respond .ok) := by
  rw [exec_modeSet h hx, if_neg hawake]

/-- FW_COMMIT of the package that FW_BEGIN announced is answered once the package has been checked. -/
theorem exec_fwCommit {s : State} (h : Accepts s 0x11) (hlen : s.takeReq.fwLen = some (s.reqDwords 1)) :
    exec .fwCommit s = .next (State.toMode (s.takeReq.put BAR2_WIN_EN 0) .load 0) := by
  refine congrArg Host.Outcome.next ?_
  rw [mbxCmd_runs _ h rfl (by decide) (State.moveWaits_none (by decide)), State.serveMail_run _ _ _ (State.badMajor_of_major h.major)]
  dsimp only
  rw [cmdFwCommit, if_pos hlen, h.isCode, show secretCode 0x11 = false from rfl, if_pos ⟨rfl, rfl⟩]
  rfl

/-! ### DEVICE_SET and SET_SPLIT (R459, R467) -/

/-- The value of an item: the dwords that the request carries. -/
def itemValue (d : Nat → Nat) (n k : Nat) : Nat := if k < n then d (k + 1) else 0

theorem cmdDeviceSet_of_permitted {e : Outer} {d : Nat → Nat} {n : Nat} {s : State} (hitem : d 1 ≤ 4)
    (hmask : (upto 4).any (fun k => decide (itemValue d n (k + 1) &&& nthD (deviceMasks (d 1)) k 0 ≠ itemValue d n (k + 1))) = false) :
    cmdDeviceSet e d n s = match d 1 with
      | 0 => (s.put PERST_SCOPE_SCOPE (itemValue d n 1), .ok)
      | 1 => (s.puts [(HOST_ORPHAN_SECONDS, itemValue d n 1 % 65536), (HOST_ORPHAN_ACTION, itemValue d n 1 / 65536)], .ok)
      | 2 => ({ (hodHgrantWrite (bitAt (itemValue d n 1) 0) (itemValue d n 2 / 2) s).puts
        [(MOV_GRANT_HOST, field (itemValue d n 1) 1 1), (MOV_GRANT_SHEDS, itemValue d n 3 / 2), (RNG_GRANT_SHEDS, itemValue d n 4 / 2)] with
          monGrant := bitAt (itemValue d n 1) 2 }, .ok)
      | 3 => (s.ptpSet (itemValue d n 1), .ok)
      | _ => (s.put YRD_CTL_MISS_HOST (itemValue d n 1), .ok) := by
  unfold cmdDeviceSet
  dsimp only
  rw [if_neg]
  · rfl
  · rintro (h | h)
    · omega
    · exact absurd (h.symm.trans hmask) (by decide)

theorem cmdSetSplit_of_permitted {e : Outer} {d : Nat → Nat} {n : Nat} {s : State} (herr : s.splitErr (d 1 % 128) (field (d 1) 8 7) = none) :
    cmdSetSplit e d n s =
      (let m := (upto 7).foldl (fun m b => if bitAt (d 1 % 128) b then putField m b 1 (field (field (d 1) 8 7) b 1) else m) (s.get SPLIT_STATE_MODE)
      let x := s.put SPLIT_STATE_MODE m
      let y := if s.split spENCODE != x.split spENCODE then State.recost { x with encChange := some x.time } else x
      let z := if s.split spENCODE && !x.split spENCODE then y.keyNext else y
      (z, .ok [z.reg32 SPLIT_STATE_MODE.off])) := by
  unfold cmdSetSplit
  dsimp only
  rw [herr]

/-- Settles O48: each command by what it does with operands that it accepts. -/
theorem deviceCommandsComplete : Obligations.DeviceCommandsComplete := by
  unfold Obligations.DeviceCommandsComplete
  intro s w d answers
  refine ⟨fun p h hp => ?_, fun p h hp => ?_, fun h hlink hpos hmax => ?_, fun h => ?_, fun h => ⟨fun hmode => ?_, fun hload hreject => ?_⟩,
    fun h hmin hmax => ?_, fun h hlen => ?_, fun h hfrom => ?_, fun h => ?_, fun h herr => ?_⟩
  · exact exec_answers h rfl rfl rfl ((cmdIdentify_of_package hp).trans (by rw [State.takeReq_mode]))
  · exact exec_answers h rfl rfl rfl (cmdFwStatus_of_package hp)
  · exact exec_answers h rfl rfl rfl (cmdLogRead_of_permitted (by rw [State.outer, if_pos hlink]) hpos hmax)
  · exact exec_answers h rfl rfl rfl rfl
  · exact exec_answers h rfl rfl rfl (cmdAbortToBoot_of_loading hmode)
  · exact exec_answers h rfl rfl rfl (cmdAbortToBoot_of_other hload hreject)
  · exact exec_answers h rfl rfl rfl (cmdFwBegin_of_permitted hmin hmax)
  · exact exec_fwCommit h hlen
  · have hcmd (htarget : d 1 ∈ [1, 5, 6, 8, 11]) := cmdModeSet_of_permitted
      (e := s.outer { host := none, put := false, room := false, verdict := 0 }) (n := s.reqN) htarget hfrom
    have hset {x : State} {k : Nat} (hd : d 1 = k) (hk : k ∈ [5, 6, 8, 11]) (hx : _ = (x, Resp.ok)) : answers .modeSet x .ok :=
      exec_modeSet_awake h (by rintro h1; rw [← hd, show d 1 = 1 from h1] at hk; simp at hk)
        ((hcmd (by rw [hd]; exact List.mem_cons_of_mem _ hk)).trans hx)
    have hempty (hnone : w.stalls = []) : (!w.stalls.isEmpty) = false := by rw [hnone]; rfl
    refine ⟨fun h8 hall => hset h8 (by decide) (by rw [if_pos h8, if_pos hall]),
      fun h6 hmode => hset h6 (by decide) (by rw [if_neg (by omega), if_pos h6, if_pos hmode]),
      fun h6 hmode => hset h6 (by decide) (by rw [if_neg (by omega), if_pos h6, if_neg hmode]),
      fun h5 hnone => hset h5 (by decide) (by rw [if_neg (by omega), if_neg (by omega), hempty hnone, if_neg (by decide), if_pos h5]),
      fun h11 hnone => hset h11 (by decide)
        (by rw [if_neg (by omega), if_neg (by omega), hempty hnone, if_neg (by decide), if_neg (by omega), if_pos h11]), fun h1 hnone => ?_⟩
    rw [exec_modeSet h ((hcmd (by simp [h1])).trans (by rw [if_neg (by omega), if_neg (by omega), hempty hnone, if_neg (by decide), if_neg (by omega),
      if_neg (by omega)])), if_pos h1]
  · intro v hmask
    have hcmd (hitem : d 1 ≤ 4) := cmdDeviceSet_of_permitted (e := s.outer { host := none, put := false, room := false, verdict := 0 })
      (s := w) hitem hmask
    refine ⟨fun h0 => ?_, fun h1 => ?_, fun h2 => ?_, fun h3 => ?_, fun h4 => ?_⟩
    · exact exec_answers h rfl rfl rfl ((hcmd (by omega)).trans (by rw [h0]; rfl))
    · exact exec_answers h rfl rfl rfl ((hcmd (by omega)).trans (by rw [h1]; rfl))
    · exact exec_answers h rfl rfl rfl ((hcmd (by omega)).trans (by rw [h2]; rfl))
    · exact exec_answers h rfl rfl rfl ((hcmd (by omega)).trans (by rw [h3]; rfl))
    · exact exec_answers h rfl rfl rfl ((hcmd (by omega)).trans (by rw [h4]; rfl))
  · exact exec_answers h rfl rfl rfl (cmdSetSplit_of_permitted herr)

end Sys2Proof.Machine
end

section
/-! SUPPORT. The title and stall commands of the mailbox (O49): what each does with operands that it accepts (R38, R146, R147, R158, R164,
R299, R409, R460, R461). -/
namespace Sys2Proof.Machine

section
variable {e : Outer} {d : Nat → Nat} {n : Nat} {s : State}

/-! ### Titles (R460) -/

theorem titleOf_handle (img : Bytes) (pages handle : Nat) (digest : Bytes) : (titleOf img pages handle digest).handle = handle := rfl

theorem cmdTitleRegister_of_permitted {bs digest : Bytes} (hhost : e.host = some bs) (hroom : e.room = true) (haddr : d 1 % 4096 = 0) (hpages : d 3 ≠ 0)
    (hdigest : (upto 8).flatMap (fun i => leBytes 4 (d (4 + i))) = digest)
    (himage : digest256 (sliceBytes bs 0 (4096 * d 3)) = digest) (hnew : s.titles.find? (fun t => t.digest == digest) = none)
    (hheader : titleHeaderOk (sliceBytes (sliceBytes bs 0 (4096 * d 3)) 0 64) (4096 * d 3) = true) (hfew : s.titles.length < 1024)
    (hucode : (titleOf (sliceBytes bs 0 (4096 * d 3)) (d 3) s.freeHandle digest).ucs.bind checkImage = none) :
    cmdTitleRegister e d n s = (s.enterTitle (titleOf (sliceBytes bs 0 (4096 * d 3)) (d 3) s.freeHandle digest) (sliceBytes bs 0 (4096 * d 3)),
      .ok [s.freeHandle]) := by
  unfold cmdTitleRegister
  dsimp only
  rw [hdigest, if_neg (by omega), hhost]
  dsimp only
  rw [if_neg (not_not.2 himage), hnew, hheader, hroom, hucode]
  dsimp only
  rw [if_neg (by decide), if_neg (by simp; omega), titleOf_handle]

theorem cmdTitleRemove_of_unused {t : Title} (ht : s.title? (d 1) = some t) (hunused : (s.stalls.any fun st => st.title == d 1) = false) :
    cmdTitleRemove e d n s = (let g := s.giveTitle t.exts false
      ({ g with titles := g.titles.filter fun t => t.handle != d 1 }, .ok)) := by
  unfold cmdTitleRemove
  rw [ht, hunused]
  rfl

theorem cmdPageSupply_of_permitted {bs : Bytes} {t : Title} (hhost : e.host = some bs) (ht : s.title? (d 1) = some t) (hpage : d 2 < t.pages)
    (hsplit : s.split spPAGING = true) : cmdPageSupply e d n s = (s.supplyPage t (d 2) bs, .ok) := by
  unfold cmdPageSupply
  rw [ht]
  dsimp only
  rw [if_neg (by omega), hsplit, hhost]
  rfl

/-! ### Stalls (R461) -/

/-- STALL_CREATE with operands that meet its conditions, a free position and room. -/
theorem cmdStallCreate_of_permitted {c : BeamClass} {t : Title} {slot u : Nat} {s1 : State} (hroom : e.room = true)
    (hcls : clsOf (field (d 1) 12 2) = some c) (hk : d 1 % 4096 < 3072) (hcfg : field (d 1) 15 2 ≠ 3)
    (hfree : bitAt (d 1) 14 = true → c = .N ∧ s.mode ≠ .conformance) (hlead : d 2 / 65536 ≤ 255 ∨ d 2 / 65536 = 0xFFFF)
    (hnew : s.stall? (d 1 % 4096) = none) (ht : s.title? (d 2 % 65536) = some t) (hclasses : bitAt t.classes (clsIdx c) = true)
    (hfew : s.mode = .conformance → s.stalls.length < 16)
    (hadmit : s.admitErr (d 1 % 4096 / 192) (weight c) (field (d 1) 15 2 == 2 || (field (d 1) 15 2 == 0 && decide (c = .N)))
      (some (d 1 % 4096 % 192)) true = none)
    (hslot : s.slotOfL (d 1 % 4096 / 192) = some slot) (hbind : s.bindTitle slot t.ucs = (.ok u, s1))
    (hfits : s.memFits (d 1 % 4096) c t.save = true) (hhod : s.get HOD_CTL_EN ≠ 0) :
    cmdStallCreate e d n s = (
      let s2 := s1.enterStall (d 1 % 4096) t c (bitAt (d 1) 14) (if d 2 / 65536 = 0xFFFF then leadDefault c else d 2 / 65536)
        (field (d 1) 15 2) u (d 1 % 4096 / 192) (d 1 % 4096 % 192)
      let s3 := if s2.get (atSlot STB_CTL_DRAIN slot) = 1 then s2.park (d 1 % 4096) rsnDRAIN false else s2
      (s3, .ok [s3.units])) := by
  have hargs : ¬(3072 ≤ d 1 % 4096 ∨ field (d 1) 15 2 = 3 ∨ (bitAt (d 1) 14 = true ∧ (c ≠ .N ∨ s.mode = .conformance)) ∨
      (255 < d 2 / 65536 ∧ d 2 / 65536 ≠ 0xFFFF)) := by
    rintro (h | h | ⟨h, h'⟩ | h)
    · omega
    · exact hcfg h
    · exact h'.elim (· (hfree h).1) (hfree h).2
    · omega
  unfold cmdStallCreate
  dsimp only
  rw [hcls]
  dsimp only
  rw [if_neg hargs, hnew, ht, if_neg (by decide)]
  dsimp only
  rw [hclasses, if_neg (by decide), if_neg fun h => absurd (hfew h.1) (by omega), hadmit, hslot]
  dsimp only
  rw [hbind, hroom, hfits]
  dsimp only
  rw [if_neg (by decide), if_neg hhod]

/-- STALL_START of a stall that has not been started, at a frame that is not too early. -/
theorem cmdStallStart_of_permitted {st : Stall} {f : Nat} (hst : s.stall? (d 1 % 4096) = some st) (hnew : st.f0 = none)
    (hn : n = if bitAt (d 1) 12 then 3 else 1) (hf : (if bitAt (d 1) 12 then wide d 2 else s.cadNow + 2) = f) (hleast : s.cadNow + 2 ≤ f) :
    cmdStallStart e d n s = ((s.setStall { st with f0 := some f }).unpark (d 1 % 4096) rsnOPERATOR, .ok [f % 2 ^ 32, f / 2 ^ 32 % 2 ^ 32]) := by
  unfold cmdStallStart
  dsimp only
  rw [hf, if_neg (not_not.2 hn), State.withStall_of_found hst, hnew, if_neg (by decide), if_neg (by omega)]

theorem State.withStarted_of_started {st : Stall} {k f0 : Nat} (hst : s.stall? k = some st) (hf0 : st.f0 = some f0) (f : Stall → State × Resp) :
    s.withStarted k f = f st := by
  rw [State.withStarted, State.withStall_of_found hst, hf0]
  rfl

theorem cmdStallResume_of_parked {st : Stall} {f0 : Nat} (hst : s.stall? (d 1) = some st) (hf0 : st.f0 = some f0)
    (hparked : st.reasons.contains rsnOPERATOR = true) : cmdStallResume e d n s = (s.unpark st.num rsnOPERATOR, .ok) := by
  rw [cmdStallResume, State.withStarted_of_started hst hf0, hparked]
  rfl

theorem cmdStallSet_lead {st : Stall} (hst : s.stall? (d 1 % 4096) = some st) (hlead : bitAt (d 1) 12 = true) (hcfg : bitAt (d 1) 13 = false)
    (hn : 2 ≤ n) (hd : d 2 ≤ 255) : cmdStallSet e d n s = (s.setStall { st with leadNext := d 2 }, .ok) := by
  unfold cmdStallSet
  dsimp only
  rw [hlead, hcfg, if_neg (by simp; omega), State.withStall_of_found hst]
  rfl

theorem cmdStallSet_corecfg {st : Stall} (hst : s.stall? (d 1 % 4096) = some st) (hlead : bitAt (d 1) 12 = false) (hcfg : bitAt (d 1) 13 = true)
    (hvalue : field (d 1) 14 2 ≠ 3)
    (hfit : groupsFit (addUnits (s.groups (s.get (placeL (d 1 % 4096))) (some (d 1 % 4096))) (weight st.cls)
      (nextOoo false { st with corecfgNext := field (d 1) 14 2 })) = true) :
    cmdStallSet e d n s = (s.setStall { st with corecfgNext := field (d 1) 14 2 }, .ok) := by
  unfold cmdStallSet
  dsimp only
  rw [hlead, hcfg, if_neg (by simpa using hvalue), State.withStall_of_found hst]
  simp only [Bool.false_eq_true, ↓reduceIte, hfit, Bool.not_true, and_false]

theorem cmdStallDestroy_of_settled {st : Stall} (hst : s.stall? (d 1) = some st) (hmig : (s.migs.any fun m => m.stall == st.num) = false) :
    cmdStallDestroy e d n s = ((s.destroyStall st.num false).enforceLevel, .ok) := by
  rw [cmdStallDestroy, State.withStall_of_found hst, hmig]
  rfl

theorem cmdSubchAssign_of_permitted (h : assignReason (s.stall? (d 1 % 4096)) (field (d 1) 12 3) (field (d 1) 15 4) = 0) :
    cmdSubchAssign e d n s = (hodAssign (d 1 % 4096) (field (d 1) 12 3) (field (d 1) 15 4) s, .ok) := by
  unfold cmdSubchAssign
  dsimp only
  rw [h]
  rfl

theorem cmdResumeFromCheckpoint_of_parked {st : Stall} (hst : s.stall? (d 1 % 4096) = some st) (hone : bitAt (d 1) 12 = false)
    (hsplit : s.split spRECOVER = true) (hparked : st.reasons.contains rsnRECOVER = true) :
    cmdResumeFromCheckpoint e d n s = (s.replayStall (d 1 % 4096), .ok) := by
  unfold cmdResumeFromCheckpoint
  dsimp only
  rw [hone, hsplit, State.withStall_of_found hst, hparked, if_neg fun h => Bool.false_ne_true h.1]
  rfl

end

/-! ### STALL_MOVE (R164) -/

theorem State.moveWaits_of_accepted {s : State} (h : Accepts s 0x56) : s.moveWaits 0x56 false s.reqDwords s.reqN =
    if s.moveHolds (s.reqDwords 1 % 4096) (field (s.reqDwords 1) 12 4) then some (s.reqDwords 1 % 4096) else none := by
  obtain ⟨f, hform, hmode, hargs⟩ := h.entry
  have hf : (⟨.session, true, [1], [0xFFFF]⟩ : Form) = f := Option.some.inj hform
  unfold State.moveWaits
  rw [if_pos rfl]
  show (if (Modes.ok .session s.mode && (!false || true) && Form.argsOk ⟨.session, true, [1], [0xFFFF]⟩ s.reqN s.reqDwords &&
    s.moveHolds (s.reqDwords 1 % 4096) (field (s.reqDwords 1) 12 4)) = true then _ else _) = _
  rw [hf, show Modes.session = f.modes by rw [← hf], hmode, hargs]
  rfl

/-- STALL_MOVE of a stall in a locked sequence asks for its park. -/
theorem exec_stallMove_of_held {s : State} (h : Accepts s 0x56)
    (hheld : s.moveHolds (s.reqDwords 1 % 4096) (field (s.reqDwords 1) 12 4) = true) :
    exec .stallMove s = .next (s.park (s.reqDwords 1 % 4096) rsnMOVE false) := by
  refine congrArg Host.Outcome.next ?_
  unfold mbxCmd
  rw [if_pos ⟨h.waits, h.isCode⟩, State.badMajor_of_major h.major, State.moveWaits_of_accepted h, hheld]
  rfl

theorem exec_stallMove_of_free {s x : State} {st : Stall} (h : Accepts s 0x56)
    (hfree : s.moveHolds (s.reqDwords 1 % 4096) (field (s.reqDwords 1) 12 4) = false)
    (hst : s.takeReq.stall? (s.reqDwords 1 % 4096) = some st) (hmove : s.takeReq.moveStall st.num (field (s.reqDwords 1) 12 4) = (x, .ok)) :
    exec .stallMove s = .next (x.respond .ok) := by
  refine congrArg Host.Outcome.next (mbxCmd_answers _ h rfl (by decide) ?_ (by decide) (by decide) rfl ?_)
  · rw [State.moveWaits_of_accepted h, hfree]
    rfl
  · rw [cmdStallMove, State.withStall_of_found hst, hmove]

/-- Settles O49: each command by what it does with operands that it accepts. -/
theorem titleAndStallCommandsComplete : Obligations.TitleAndStallCommandsComplete := by
  unfold Obligations.TitleAndStallCommandsComplete
  intro s w d answers
  have hhost {o : Outer} {bs : Bytes} (hlink : s.linkUp = true) (ho : o.host = some bs) : (s.outer o).host = some bs := (State.outer_host o hlink).trans ho
  refine ⟨fun bs => ?register, fun t h ht hunused => ?remove, fun t bs h hlink ht hpage hsplit => ?supply, fun c t slot u s1 => ?create,
    fun st => ?start, fun st f hst hf0 => ⟨fun h => ?park, fun h hparked => ?resume, fun h => ?reset⟩, fun st => ?stall,
    fun st hst => ⟨fun h hmig => ?destroy, fun h => ?query⟩, ?assign⟩
  case register =>
    intro img digest t h hlink haddr hpages himage hnew hheader hfew hucode
    exact exec_answers h rfl rfl rfl (cmdTitleRegister_of_permitted (hhost hlink rfl) (s.outer_room _) haddr hpages rfl himage hnew hheader hfew hucode)
  case remove => exact exec_answers h rfl rfl rfl (cmdTitleRemove_of_unused ht hunused)
  case supply => exact exec_answers h rfl rfl rfl (cmdPageSupply_of_permitted (hhost hlink rfl) ht hpage hsplit)
  case create =>
    intro k free cfg lead h hcls hk hcfg hfree hlead hnew ht hclasses hfew hadmit hslot hbind hfits hhod
    exact exec_answers h rfl rfl rfl (cmdStallCreate_of_permitted (s.outer_room _) hcls hk hcfg hfree hlead hnew ht hclasses hfew hadmit hslot hbind
      hfits hhod)
  case start =>
    intro k least h hst hnew
    refine ⟨fun hnamed hn => ?_, fun hnamed hn hleast => ?_⟩
    · exact exec_answers h rfl rfl rfl (cmdStallStart_of_permitted hst hnew (by rw [hnamed]; exact hn) (by rw [hnamed]; rfl) le_rfl)
    · exact exec_answers h rfl rfl rfl (cmdStallStart_of_permitted hst hnew (by rw [hnamed]; exact hn) (by rw [hnamed]; rfl) hleast)
  case park => exact exec_answers h rfl rfl rfl (State.withStarted_of_started hst hf0 _)
  case resume => exact exec_answers h rfl rfl rfl (cmdStallResume_of_parked hst hf0 hparked)
  case reset => exact exec_answers h rfl rfl rfl (State.withStarted_of_started hst hf0 _)
  case stall =>
    intro k hst
    refine ⟨fun h hlead hcfg hn hd => ?_, fun h hlead hcfg hvalue => ?_, fun h hheld => exec_stallMove_of_held h hheld,
      fun x h hfree hmove => exec_stallMove_of_free h hfree hst hmove, fun h => ?_, fun h hone hsplit hparked => ?_⟩
    · exact exec_answers h rfl rfl rfl (cmdStallSet_lead hst hlead hcfg hn hd)
    · intro x hfit
      exact exec_answers h rfl rfl rfl (cmdStallSet_corecfg hst hlead hcfg hvalue hfit)
    · exact exec_answers h rfl rfl rfl (State.withStall_of_found hst _)
    · exact exec_answers h rfl rfl rfl (cmdResumeFromCheckpoint_of_parked hst hone hsplit hparked)
  case destroy => exact exec_answers h rfl rfl rfl (cmdStallDestroy_of_settled hst hmig)
  case query => exact exec_answers h rfl rfl rfl (State.withStall_of_found hst _)
  case assign =>
    intro k i ty h hreason
    exact exec_answers h rfl rfl rfl (cmdSubchAssign_of_permitted hreason)

end Sys2Proof.Machine
end

section
/-! SUPPORT. The key, flow, yard, migration, snapshot and debug-token commands of the mailbox (O51): what each does with operands that it
accepts (R391, R402, R410 – R414, R455, R463, R511). -/
namespace Sys2Proof.Machine

/-! ### Secret requests (R455) -/

/-- A command of a secret request is answered once the request has been erased. -/
theorem exec_answers_secret {s x : State} {i : Instr} {code : Nat} {o : Outer} {f : Form} {c : Cmd} {r : Resp} (h : Accepts s code)
    (hi : exec i s = .next (mbxCmd code o s)) (hc : catalogue code = some (f, c)) (hcode : code = 0x80 ∨ code = 0xB0)
    (hx : c (s.outer o) s.reqDwords s.reqN s.takeReq = (x, r)) : exec i s = .next (x.wipeRequest.respond r) := by
  have hsecret : secretCode code = true := by rcases hcode with rfl | rfl <;> rfl
  rw [hi, mbxCmd_runs o h hc (by rw [ringDeleteCode]; omega) (State.moveWaits_none (by omega)),
    State.serveMail_run _ _ _ (State.badMajor_of_major h.major)]
  dsimp only
  rw [hx, h.isCode, hsecret, if_neg fun h => absurd h.1 (by omega), afterServe, if_neg fun h => absurd h.1 (by omega), if_pos rfl]

/-- The key slot that the operands of KEY_SET describe, with a key of `n` bytes. -/
def keySlotOf (d : Nat → Nat) (n : Nat) : KeySlot where
  kind := d 1 % 4
  idx := if d 1 % 4 = 3 then 0 else field (d 1) 2 14
  slot := b2n (bitAt (d 1) 16)
  from_ := wide d 2
  key := ((upto 8).flatMap fun i => leBytes 4 (d (4 + i))).take n
  salt := ((upto 3).flatMap fun i => leBytes 4 (d (12 + i))).take (saltLen (d 1 % 4))

/-- The service address that the operands of ADDR_SET describe. -/
def svcAddrOf (d : Nat → Nat) : SvcAddr where
  idx := d 1 % 16
  ipv6 := bitAt (d 1) 4
  addr := (upto (if bitAt (d 1) 4 then 4 else 1)).flatMap fun k => leBytes 4 (d (2 + k))

/-- The migration that MIGRATE starts at its source. -/
def migOf (num : Nat) (d : Nat → Nat) : Mig where
  stall := num
  yard := d 2
  dest := d 3
  source := true
  parked := false
  ready := false
  doubt := false
  attempt := 0
  tried := 0
  flows := []

section
variable {e : Outer} {d : Nat → Nat} {n : Nat} {s : State}

/-! ### Keys and flows (R391, R463) -/

theorem cmdKeySet_of_permitted (hepoch : d 1 % 4 = 0 ∨ d 1 % 4 = 3 → wide d 2 = 0)
    (hflow : d 1 % 4 = 0 → (s.flows.any fun f => f.num == field (d 1) 2 14) = true)
    (hnet : d 1 % 4 = 1 ∨ d 1 % 4 = 2 → (s.net? (field (d 1) 2 14)).isSome = true ∧ s.cadNow + 2 ≤ wide d 2)
    (hkey : (((upto 8).flatMap fun i => leBytes 4 (d (4 + i))).drop (s.keyLen (d 1 % 4) (field (d 1) 2 14))).all (fun b => b == 0) = true)
    (hsalt : (((upto 3).flatMap fun i => leBytes 4 (d (12 + i))).drop (saltLen (d 1 % 4))).all (fun b => b == 0) = true)
    (hslot : d 1 % 4 ≠ 0 → bitAt (d 1) 16 = false) :
    cmdKeySet e d n s = (s.installKey (keySlotOf d (s.keyLen (d 1 % 4) (field (d 1) 2 14))), .ok) := by
  have hkind : d 1 % 4 < 4 := Nat.mod_lt _ (by decide)
  have hzero (l : Bytes) (h : l.all (fun b => b == 0) = true) : l.any (fun b => b != 0) = false := by
    simpa only [List.all_eq_not_any_not, bne, Bool.not_eq_true'] using h
  have hbits : ¬(d 1 % 4 ≠ 0 ∧ b2n (bitAt (d 1) 16) ≠ 0) := fun h => h.2 (by rw [hslot h.1]; rfl)
  unfold cmdKeySet
  dsimp only
  rw [if_neg fun h => h.2 (hepoch h.1)]
  refine (if_neg ?_).trans ?_
  · obtain h0 | h3 | h12 : d 1 % 4 = 0 ∨ d 1 % 4 = 3 ∨ (d 1 % 4 = 1 ∨ d 1 % 4 = 2) := by omega
    · simp [h0, hflow h0]
    · simp [h3]
    · rcases h12 with h1 | h2
      · simp [h1, (hnet (.inl h1)).1]
      · simp [h2, (hnet (.inr h2)).1]
  · rw [hzero _ hkey, hzero _ hsalt, if_neg (by simpa using hbits), if_neg fun h => Nat.not_lt.2 (hnet h.1).2 h.2]
    rfl

/-- The bytes of a flow that the engine owns: those of the flow in force, or 0 (R390). -/
def State.flowEngine (s : State) (i : Nat) : Bytes :=
  match s.flows.find? fun f => f.num == i with | some f => sliceBytes f.desc 48 12 | none => List.replicate 12 0

theorem cmdFlowSet_of_permitted {bs : Bytes} {st : Stall} (hhost : e.host = some bs) (hst : s.stall? (d 1 / 4) = some st) (hown : st.imported = false)
    (hreserved : flowReserved (sliceBytes bs 0 64) = false)
    (hvalid : flowV (sliceBytes bs 0 64) = true →
      s.service (flowIpv6 (sliceBytes bs 0 64)) (descAddr (sliceBytes bs 0 64) 8 (flowIpv6 (sliceBytes bs 0 64))) = true ∧
      s.conflict (flowIpv6 (sliceBytes bs 0 64)) (descAddr (sliceBytes bs 0 64) 8 (flowIpv6 (sliceBytes bs 0 64)))
        (descAddr (sliceBytes bs 0 64) 24 (flowIpv6 (sliceBytes bs 0 64))) (leAt (sliceBytes bs 0 64) 4 2) (leAt (sliceBytes bs 0 64) 6 2) (false, d 1) = false) :
    cmdFlowSet e d n s = ((s.hbmWrite (s.flowAddr (d 1)) (putBytes (sliceBytes bs 0 64) 48 (s.flowEngine (d 1)))).loadEntry 0 (d 1), .ok) := by
  have hservice : ¬(flowV (sliceBytes bs 0 64) = true ∧
      (!s.service (flowIpv6 (sliceBytes bs 0 64)) (descAddr (sliceBytes bs 0 64) 8 (flowIpv6 (sliceBytes bs 0 64)))) = true) := by
    rintro ⟨hv, h⟩
    rw [(hvalid hv).1] at h
    cases h
  have hconflict : ¬(flowV (sliceBytes bs 0 64) = true ∧ s.conflict (flowIpv6 (sliceBytes bs 0 64))
      (descAddr (sliceBytes bs 0 64) 8 (flowIpv6 (sliceBytes bs 0 64))) (descAddr (sliceBytes bs 0 64) 24 (flowIpv6 (sliceBytes bs 0 64)))
      (leAt (sliceBytes bs 0 64) 4 2) (leAt (sliceBytes bs 0 64) 6 2) (false, d 1) = true) := by
    rintro ⟨hv, h⟩
    rw [(hvalid hv).2] at h
    cases h
  unfold cmdFlowSet
  dsimp only
  rw [hhost]
  dsimp only
  rw [hst]
  dsimp only
  rw [hown, hreserved, if_neg (by decide), if_neg (by decide), if_neg hservice, if_neg hconflict]
  rfl

theorem cmdFlowClear_of_found {f : Flow} (hf : s.flows.find? (fun f => f.num == d 1) = some f) : cmdFlowClear e d n s =
    (let x := (s.hbmWrite (s.flowAddr (d 1)) (putBytes f.desc 0 [f.desc.headD 0 &&& 0xFE])).loadEntry 0 (d 1)
    ({ x with keys := x.keys.filter fun k => !(k.kind == 0 && k.idx == d 1) }, .ok)) := by
  unfold cmdFlowClear
  dsimp only
  rw [hf]

/-! ### The yard (R402, R463) -/

/-- The settings of YARD_SET. -/
def yardSettings (d : Nat → Nat) (s : State) : State :=
  s.puts [(YRD_NUMBER_YARD, d 1 % 2 ^ 20), (YRD_UDPPORT_PORT, d 2 % 65536), (YRD_LINKLAT_MICROS, field (d 2) 16 14)]

theorem cmdYardSet_detach (h : bitAt (d 1) 20 = false) : cmdYardSet e d n s = (yardSettings d (yrdDetach s), .ok) := by
  unfold cmdYardSet
  rw [h]
  rfl

/-- YARD_SET with ATTACH and a number that a yard can have. -/
theorem cmdYardSet_attach (h : bitAt (d 1) 20 = true) (hlow : d 1 % 2 ^ 20 ≠ 0) (hhigh : d 1 % 2 ^ 20 ≠ 0xFFFFF)
    (hsame : s.get YRD_CTL_ATTACH = 1 → d 1 % 2 ^ 20 = s.get YRD_NUMBER_YARD) : cmdYardSet e d n s =
      if s.yardKeyUsed ∨ s.yardKey.isEmpty then (s, .err eKEY)
      else if s.get YRD_CTL_ATTACH == 1 then (yardSettings d s, .ok) else ((yardSettings d s).attach, .ok) := by
  unfold cmdYardSet
  dsimp only
  rw [h, if_neg (by decide), if_neg (by omega), if_neg fun h => h.2 (hsame (by simpa using h.1))]
  rfl

theorem cmdAddrSet_of_permitted (hidx : d 1 % 16 < 8)
    (hunused : ∀ x, s.addrs.find? (fun x => x.idx == d 1 % 16 && x.ipv6 == bitAt (d 1) 4) = some x → s.addrUsed x = false) : cmdAddrSet e d n s =
    (let rest := s.addrs.filter fun x => !(x.idx == d 1 % 16 && x.ipv6 == bitAt (d 1) 4)
    ({ s with addrs := if bitAt (d 1) 5 then rest ++ [svcAddrOf d] else rest }, .ok)) := by
  unfold cmdAddrSet
  dsimp only
  rw [if_neg (by omega)]
  refine (if_neg ?_).trans rfl
  generalize s.addrs.find? (fun x => x.idx == d 1 % 16 && x.ipv6 == bitAt (d 1) 4) = old at hunused
  cases old with
  | none => exact Bool.false_ne_true
  | some x => simp [hunused x rfl]

theorem cmdRouteSet_of_permitted {bs : Bytes} (hhost : e.host = some bs) (hsplit : s.split spROUTE = true)
    (hreserved : routeReserved (sliceBytes bs 0 48) = false) :
    cmdRouteSet e d n s = ((s.hbmWrite (s.routeAddr (d 1)) (sliceBytes bs 0 48)).loadEntry 2 (d 1), .ok) := by
  unfold cmdRouteSet
  rw [hsplit, hhost, if_neg (by decide)]
  dsimp only
  rw [hreserved]
  rfl

/-! ### Migration and snapshots (R410 – R414) -/

/-- MIGRATE of a stall that may go, once the other device has answered. -/
theorem cmdMigrate_of_permitted {st : Stall} (hst : s.stall? (d 1) = some st) (hmig : s.migs.any (fun m => m.stall == st.num) = false)
    (hown : st.imported = false) (hhalted : st.sched ≠ .halted) (hreach : s.reachable (d 2) = true) (hclock : s.get PTP_STAT_STATE = 2) :
    cmdMigrate e d n s = if e.verdict ≠ 0 then (s.sendControl (d 2) 0 (d 3), .err e.verdict)
      else ((State.sendControl { s with migs := s.migs ++ [migOf st.num d] } (d 2) 0 (d 3)).sendImage (d 2) (Config.baseImage st), .ok) := by
  unfold cmdMigrate
  rw [State.withStall_of_found hst]
  dsimp only
  rw [hmig, hown, hreach, if_neg (by simpa using hhalted), if_neg (by decide), if_neg (not_not.2 hclock)]
  rfl

theorem cmdMigrateResolve_of_doubt {st : Stall} {m : Mig} (hst : s.stall? (d 1) = some st) (hm : s.mig? st.num true = some m) (hdoubt : m.doubt = true) :
    cmdMigrateResolve e d n s = if bitAt (d 2) 0 then (((s.dropMig m).destroyStall st.num true).enforceLevel, .ok)
      else (((s.dropMig m).restoreFlows m.flows).unpark st.num rsnMIGRATE, .ok) := by
  unfold cmdMigrateResolve
  rw [State.withStall_of_found hst, hm]
  dsimp only
  rw [hdoubt, if_neg (by decide)]

theorem cmdSnapshotExport_of_complete {st : Stall} {c : Ckpt} (hput : e.put = true) (hst : s.stall? (d 1) = some st) (hmode : s.mode ≠ .conformance)
    (hc : newestComplete st = some c) (hlen : (s.snapshot st c false false).length ≤ d 4) :
    cmdSnapshotExport e d n s = (s.hostWrite (wide d 2) (s.snapshot st c false false), .ok [(s.snapshot st c false false).length]) := by
  unfold cmdSnapshotExport
  rw [State.withStall_of_found hst]
  dsimp only
  rw [decide_eq_false hmode, Bool.false_and, if_neg (by decide), if_neg (by decide), hc]
  dsimp only
  rw [if_neg (by omega), hput]
  rfl

theorem cmdSnapshotImport_of_permitted {bs h : Bytes} {p : Snap} {t : State} (hhost : e.host = some bs) (hk : d 1 < 3072)
    (hparts : snapParts (sliceBytes bs 0 (d 4)) = some (h, p)) (himport : s.importSnap (d 1) h p e.room e.image rsnOPERATOR = (t, none)) :
    cmdSnapshotImport e d n s = (t, .ok) := by
  unfold cmdSnapshotImport
  rw [hhost]
  dsimp only
  rw [if_neg (by omega), hparts]
  dsimp only
  rw [himport]

/-! ### Debug tokens (R511) -/

/-- The token of a stall's L1 grant. -/
def l1Token (num : Nat) : Bytes := mac256 Config.keyL2 ([0x4C, 0x31] ++ leBytes 8 Config.devSerial.toNat ++ leBytes 2 num)

theorem cmdDebugToken_of_found {st : Stall} (hst : s.stall? (d 1) = some st) :
    cmdDebugToken e d n s = if l1Token st.num = (upto 8).flatMap fun i => leBytes 4 (d (2 + i)) then (s.setStall { st with l1 := true }, .ok)
      else (s.unlockFailed, .err eAUTH) := by
  rw [cmdDebugToken, State.withStall_of_found hst, l1Token]

end

theorem servesCode_keySet : ServesCode .keySet 0x80 := .of_mbxCmd (by decide) fun _ => rfl
theorem servesCode_debugToken : ServesCode .debugToken 0xB0 := .of_mbxCmd (by decide) fun _ => rfl

/-- A row that serves a secret code erases the request before its refusal. -/
theorem ServesCode.refuses_secret {c : Instr} {code : Nat} (hserves : ServesCode c code) (hsecret : secretCode code = true) (hcode5 : 5 < code)
    {f₀ : Form} (hform₀ : formOf code = some f₀) {s : State} (hwaits : s.reqWaits = true) (hcode : s.reqCode = code) :
    (s.reqMajor ≠ 3 → exec c s = .next (s.takeReq.wipeRequest.respond (.err 2))) ∧
    (∀ f, formOf code = some f → s.reqMajor = 3 →
      (f.modes.ok s.mode = false → exec c s = .next (s.takeReq.wipeRequest.respond (.err 3))) ∧
      (f.modes.ok s.mode = true → f.argsOk s.reqN s.reqDwords = false → exec c s = .next (s.takeReq.wipeRequest.respond (.err 4)))) := by
  have hrefuses {f : Form} (hform : formOf code = some f) := hserves.refuses hform hwaits hcode
  rw [State.erased_of_secret hsecret] at hrefuses
  exact ⟨fun hmajor => (hrefuses hform₀).1 hmajor hcode5, fun f hform hmajor => ⟨fun hmode => (hrefuses hform).2.1 hmajor hmode,
    fun hmode hargs => (hrefuses hform).2.2 hmajor hmode hargs⟩⟩

theorem State.outer_of_link {s : State} (o : Outer) (h : s.linkUp = true) : s.outer o = o := by rw [State.outer, if_pos h]

theorem State.outer_verdict (s : State) (o : Outer) : (s.outer o).verdict = o.verdict := by
  unfold State.outer
  split <;> rfl

/-- Settles O51: each command by what it does with operands that it accepts. -/
theorem yardAndKeyCommandsComplete : Obligations.YardAndKeyCommandsComplete := by
  unfold Obligations.YardAndKeyCommandsComplete
  intro s w d answers
  have hhost {o : Outer} {bs : Bytes} (hlink : s.linkUp = true) (ho : o.host = some bs) : (s.outer o).host = some bs := (State.outer_host o hlink).trans ho
  refine ⟨fun c code hc hwaits hcode => ?secret, ?key, fun bs st => ?flowSet, fun f h hf => ?flowClear, fun h => ?yard, ?addr, fun bs => ?route,
    fun st hst => ⟨fun h hmig hown hhalted hreach hclock => ?migrate, fun m h hm hdoubt => ?resolve, fun c => ?snapOut, fun h => ?token, fun h => ?revoke⟩,
    fun bs room image h p t hacc hlink hk hparts himport => ?snapIn⟩
  case secret =>
    simp only [List.mem_cons, Prod.mk.injEq, List.not_mem_nil, or_false] at hc
    rcases hc with ⟨rfl, rfl⟩ | ⟨rfl, rfl⟩
    · exact servesCode_keySet.refuses_secret rfl (by decide) rfl hwaits hcode
    · exact servesCode_debugToken.refuses_secret rfl (by decide) rfl hwaits hcode
  case key =>
    intro kind idx raw salt n h hepoch hflow hnet hkey hsalt hslot
    exact exec_answers_secret h rfl rfl (.inl rfl) (cmdKeySet_of_permitted hepoch hflow hnet hkey hsalt hslot)
  case flowSet =>
    intro i b ip h hlink hst hown hreserved hvalid engine
    exact exec_answers h rfl rfl rfl (cmdFlowSet_of_permitted (hhost hlink rfl) hst hown hreserved hvalid)
  case flowClear => exact exec_answers h rfl rfl rfl (cmdFlowClear_of_found hf)
  case yard =>
    intro settings
    refine ⟨fun hatt => exec_answers h rfl rfl rfl (cmdYardSet_detach hatt), fun hatt hlow hhigh => ?_⟩
    have hcmd (hsame : w.get YRD_CTL_ATTACH = 1 → d 1 % 2 ^ 20 = w.get YRD_NUMBER_YARD) := cmdYardSet_attach
      (e := s.outer { host := none, put := false, room := false, verdict := 0 }) (n := s.reqN) hatt hlow hhigh hsame
    refine ⟨fun hon hnum hkey => ?_, fun hon hnum hused hkey => ?_, fun hoff hused hkey => ?_⟩
    · refine exec_answers h rfl rfl rfl ((hcmd fun _ => hnum).trans (if_pos ?_))
      rwa [List.isEmpty_iff]
    · refine exec_answers h rfl rfl rfl ((hcmd fun _ => hnum).trans ?_)
      rw [if_neg (by rw [List.isEmpty_iff, hused]; simpa using hkey), hon]
      rfl
    · refine exec_answers h rfl rfl rfl ((hcmd fun hon => absurd (hoff.symm.trans hon) (by decide)).trans ?_)
      rw [if_neg (by rw [List.isEmpty_iff, hused]; simpa using hkey), hoff]
      rfl
  case addr =>
    intro i ip a h hi hunused rest
    exact exec_answers h rfl rfl rfl (cmdAddrSet_of_permitted hi hunused)
  case route =>
    intro b h hlink hsplit hreserved
    exact exec_answers h rfl rfl rfl (cmdRouteSet_of_permitted (hhost hlink rfl) hsplit hreserved)
  case migrate =>
    have hcmd (e : Outer) := cmdMigrate_of_permitted (e := e) (n := s.reqN) hst hmig hown hhalted hreach hclock
    refine ⟨?_, fun v hv => ?_⟩
    · exact exec_answers h rfl rfl rfl ((hcmd _).trans (by rw [State.outer_verdict]; rfl))
    · exact exec_answers h rfl rfl rfl ((hcmd _).trans (by rw [State.outer_verdict, if_pos hv]))
  case resolve =>
    have hcmd (e : Outer) := cmdMigrateResolve_of_doubt (e := e) (n := s.reqN) hst hm hdoubt
    exact ⟨fun hgone => exec_answers h rfl rfl rfl ((hcmd _).trans (by rw [hgone]; rfl)),
      fun hback => exec_answers h rfl rfl rfl ((hcmd _).trans (by rw [hback]; rfl))⟩
  case snapOut =>
    intro b h hlink hmode hc hlen
    exact exec_answers h rfl rfl rfl (cmdSnapshotExport_of_complete (by rw [State.outer_of_link _ hlink]) hst hmode hc hlen)
  case token =>
    intro token
    have hcmd (e : Outer) := cmdDebugToken_of_found (e := e) (n := s.reqN) hst
    exact ⟨fun hok => exec_answers_secret h rfl rfl (.inr rfl) ((hcmd _).trans (if_pos hok)),
      fun hbad => exec_answers_secret h rfl rfl (.inr rfl) ((hcmd _).trans (if_neg hbad))⟩
  case revoke => exact exec_answers h rfl rfl rfl (State.withStall_of_found hst _)
  case snapIn =>
    refine exec_answers hacc rfl rfl rfl (cmdSnapshotImport_of_permitted (hhost hlink rfl) hk hparts ?_)
    rw [State.outer_of_link _ hlink]
    exact himport

end Sys2Proof.Machine
end

section
/-! SUPPORT. Debug authority (O56): nonces, unlocking and its lockout, the device freeze, MP control, OTP commands, the TAP and the end of
Conformance mode (R509 – R519, R529 – R531, R537). -/
namespace Sys2Proof.Machine

/-! ### Bytes -/

theorem leBytes_ofLE (bs : Bytes) : leBytes bs.length (ofLE bs) = bs := by
  induction bs with
  | nil => rfl
  | cons b bs ih =>
    have hdiv : (b.toNat + 256 * ofLE bs) / 256 = ofLE bs := by have := b.isLt; omega
    rw [List.length_cons, leBytes, ofLE, hdiv, ih]
    congr 1
    apply BitVec.eq_of_toNat_eq
    rw [BitVec.toNat_ofNat]
    have := b.isLt
    omega

theorem ofLE_lt (bs : Bytes) : ofLE bs < 256 ^ bs.length := by
  rw [← leBytes_ofLE bs, ofLE_leBytes, leBytes_length]
  exact Nat.mod_lt _ (Nat.pow_pos (by decide))

theorem leBytes_leAt (bs : Bytes) (o n : Nat) : leBytes n (leAt bs o n) = sliceBytes bs o n := by
  have h := leBytes_ofLE (sliceBytes bs o n)
  rwa [sliceBytes_length] at h

theorem leAt_lt (bs : Bytes) (o n : Nat) : leAt bs o n < 256 ^ n := by
  have h := ofLE_lt (sliceBytes bs o n)
  rwa [sliceBytes_length] at h

theorem sliceBytes_of_within {bs : Bytes} {o n : Nat} (h : o + n ≤ bs.length) : sliceBytes bs o n = (bs.drop o).take n := by
  have hlen : n - ((bs.drop o).take n).length = 0 := by simp; omega
  rw [sliceBytes, hlen, List.replicate_zero, List.append_nil]

/-- The slices of four bytes make up the bytes again. -/
theorem flatMap_sliceBytes {bs : Bytes} {m : Nat} (h : 4 * m ≤ bs.length) :
    (upto m).flatMap (fun k => sliceBytes bs (4 * k) 4) = bs.take (4 * m) := by
  unfold upto
  induction m with
  | zero => rfl
  | succ m ih =>
    rw [List.range_succ, List.flatMap_append, ih (by omega), List.flatMap_singleton, sliceBytes_of_within (by omega),
      show 4 * (m + 1) = 4 * m + 4 by omega, List.take_add]

/-! ### Nonces (R509) -/

theorem nonceReg_fits (k : Nat) : (DBG_NONCE_DATA.nth 4 k).fits = true := by
  have : 8 * ((0xF00020 + 4 * k) % 8) + 0 + 32 ≤ 64 := by omega
  exact decide_eq_true this

theorem nonceReg_apart {j k : Nat} (h : j ≠ k) : (DBG_NONCE_DATA.nth 4 j).apart (DBG_NONCE_DATA.nth 4 k) = true := by
  rw [Fld.apart_iff]
  simp only [Fld.nth, DBG_NONCE_DATA]
  omega

/-- The nonce registers with one value each. -/
def noncePuts (v : Nat → Nat) : List (Fld × Nat) := (upto 8).map fun k => (DBG_NONCE_DATA.nth 4 k, v k)

theorem noncePuts_fits (v : Nat → Nat) : ∀ p ∈ noncePuts v, p.1.fits = true := by
  rintro p hp
  obtain ⟨k, _, rfl⟩ := List.mem_map.1 hp
  exact nonceReg_fits k

theorem State.get_noncePuts (s : State) (v : Nat → Nat) {k : Nat} (hk : k < 8) :
    (s.puts (noncePuts v)).get (DBG_NONCE_DATA.nth 4 k) = v k % 2 ^ 32 :=
  State.get_puts_of_mem (p := (DBG_NONCE_DATA.nth 4 k, v k)) (noncePuts_fits v)
    (List.pairwise_map.2 (List.pairwise_lt_range.imp fun h => nonceReg_apart (by omega))) (List.mem_map.2 ⟨k, List.mem_range.2 hk, rfl⟩)

/-- Fields outside the nonce registers. -/
theorem State.get_noncePuts_apart (s : State) (v : Nat → Nat) {f : Fld} (hf : f.off < 0xF00020 ∨ 0xF00040 ≤ f.off) :
    (s.puts (noncePuts v)).get f = s.get f := by
  refine State.get_puts_apart _ _ _ fun p hp => ⟨noncePuts_fits v p hp, ?_⟩
  obtain ⟨k, hk, rfl⟩ := List.mem_map.1 hp
  have := List.mem_range.1 hk
  apply Fld.apart_of_slot
  simp only [Fld.nth, DBG_NONCE_DATA]
  omega

/-- The nonce registers hold the bytes put into them. -/
theorem State.eight_noncePuts (s : State) {b : Bytes} (hb : b.length = 32) :
    (s.puts (noncePuts fun k => leAt b (4 * k) 4)).eight DBG_NONCE_DATA = b := by
  have hget : ∀ k ∈ upto 8, leBytes 4 ((s.puts (noncePuts fun k => leAt b (4 * k) 4)).get (DBG_NONCE_DATA.nth 4 k)) = sliceBytes b (4 * k) 4 := by
    intro k hk
    have hlt : leAt b (4 * k) 4 < 2 ^ 32 := leAt_lt b (4 * k) 4
    rw [State.get_noncePuts _ _ (List.mem_range.1 hk), Nat.mod_eq_of_lt hlt, leBytes_leAt]
  rw [State.eight, List.flatMap_congr hget, flatMap_sliceBytes (by omega), List.take_of_length_le (by omega)]

/-- The state with a nonce of another age, or none. -/
def State.withNonceAt (s : State) (at_ : Option Nat) : State := { s with nonceAt := at_ }

@[simp] theorem State.withNonceAt_nonceAt (s : State) (a : Option Nat) : (s.withNonceAt a).nonceAt = a := rfl
@[simp] theorem State.withNonceAt_free (s : State) (a : Option Nat) : (s.withNonceAt a).free = s.free := rfl
@[simp] theorem State.get_withNonceAt (s : State) (a : Option Nat) (f : Fld) : (s.withNonceAt a).get f = s.get f := rfl
@[simp] theorem State.eight_withNonceAt (s : State) (a : Option Nat) (f : Fld) : (s.withNonceAt a).eight f = s.eight f := rfl

/-- The state with no key. -/
def State.keyless (s : State) : State := { s with keys := [] }

@[simp] theorem State.keyless_nonceAt (s : State) : s.keyless.nonceAt = s.nonceAt := rfl
@[simp] theorem State.get_keyless (s : State) (f : Fld) : s.keyless.get f = s.get f := rfl

/-- A nonce drawn now. -/
def State.nonced (s : State) : State :=
  (State.puts (s.freeBytes 32).2 (noncePuts fun k => leAt (s.freeBytes 32).1 (4 * k) 4)).withNonceAt (some s.time)

theorem State.puts_free (s : State) (l : List (Fld × Nat)) : (s.puts l).free = s.free := by rw [State.puts_eq]
theorem State.puts_nonceAt (s : State) (l : List (Fld × Nat)) : (s.puts l).nonceAt = s.nonceAt := by rw [State.puts_eq]

theorem State.nonced_free (s : State) : s.nonced.free = (s.freeBytes 32).2.free := by
  rw [State.nonced, State.withNonceAt_free, State.puts_free]

theorem State.freeBytes_eq (s : State) (n : Nat) : s.freeBytes n = ((s.freeBytes n).1, { s with free := (s.freeBytes n).2.free }) := rfl

theorem State.freeBytes_length (s : State) (n : Nat) : (s.freeBytes n).1.length = n := by
  simp [State.freeBytes, upto]

/-- A failure within the last second (R509). -/
def State.nonceBarred (s : State) : Bool := match s.failAt with | some t => decide (s.time < t + 1000000000) | none => false

/-- The state whose nonce is drawn at its time. -/
def State.stampNonce (s : State) : State := { s with nonceAt := some s.time }

theorem State.stampNonce_eq (s : State) : s.stampNonce = s.withNonceAt (some s.time) := rfl

theorem State.freeBytes_time (s : State) (n : Nat) : (s.freeBytes n).2.time = s.time := rfl

theorem dbgNonce_eq (s : State) : dbgNonce s = if s.held ∨ s.nonceBarred then s else
    State.stampNonce ((upto 8).foldl (fun t k => t.put (DBG_NONCE_DATA.nth 4 k) (leAt (s.freeBytes 32).1 (4 * k) 4)) (s.freeBytes 32).2) := by
  unfold dbgNonce
  generalize s.freeBytes 32 = p
  obtain ⟨b, u⟩ := p
  rfl

section
variable {s : State} (hheld : s.held = false)

theorem dbgNonce_of_soon {t : Nat} (hfail : s.failAt = some t) (hsoon : s.time < t + 1000000000) : dbgNonce s = s := by
  have hbarred : s.nonceBarred = true := by rw [State.nonceBarred, hfail]; exact decide_eq_true hsoon
  rw [dbgNonce_eq, if_pos (.inr hbarred)]

include hheld

theorem dbgNonce_of_allowed (hlate : ∀ t, s.failAt = some t → t + 1000000000 ≤ s.time) : dbgNonce s = s.nonced := by
  have hbarred : s.nonceBarred = false := by
    unfold State.nonceBarred
    cases hf : s.failAt with
    | none => rfl
    | some t => exact decide_eq_false (by have := hlate t hf; omega)
  rw [dbgNonce_eq, if_neg (by rw [hheld, hbarred]; decide), 
    State.puts_foldl _ (upto 8) fun k => (DBG_NONCE_DATA.nth 4 k, leAt (s.freeBytes 32).1 (4 * k) 4), State.stampNonce_eq, State.puts_time,
    State.freeBytes_time, State.nonced, noncePuts]

/-! ### Unlocking (R509, R510) -/

theorem dbgUnlock_of_right {level : Nat} (h : s.responseOk level = true) : dbgUnlock level s =
    ((if level = 3 then s.spendNonce.keyless else s.spendNonce : State).put DBG_STATUS_LEVEL level).enforceLevel := by
  unfold dbgUnlock
  rw [hheld, h]
  rfl

theorem dbgUnlock_of_wrong {level : Nat} (h : s.responseOk level = false) : dbgUnlock level s = s.spendNonce.unlockFailed := by
  unfold dbgUnlock
  rw [hheld, h]
  rfl

end

theorem State.responseOk_iff (s : State) (level : Nat) : s.responseOk level = true ↔ (level = 2 ∨ level = 3) ∧ s.get DBG_STATUS_LOCKOUT = 0 ∧
    (∃ t, s.nonceAt = some t ∧ s.time < t + 10000000000) ∧
    mac256 (if level = 2 then Config.keyL2 else Config.keyL3)
      (s.eight DBG_NONCE_DATA ++ leBytes 8 Config.devSerial.toNat ++ leBytes 1 level) = s.eight DBG_RESP_DATA := by
  have hfresh : (match s.nonceAt with | some t => decide (s.time < t + 10000000000) | none => false) = true ↔
      ∃ t, s.nonceAt = some t ∧ s.time < t + 10000000000 := by
    cases s.nonceAt <;> simp
  unfold State.responseOk
  simp only [Bool.and_eq_true, Bool.or_eq_true, beq_iff_eq, ← hfresh]
  tauto

/-- The nonce is spent: its registers read 0. -/
theorem State.spendNonce_eq (s : State) : s.spendNonce = (s.puts (noncePuts fun _ => 0)).withNonceAt none := by
  rw [State.spendNonce, State.withNonceAt, noncePuts, ← State.puts_foldl s (upto 8) fun k => (DBG_NONCE_DATA.nth 4 k, 0)]

theorem State.get_spendNonce (s : State) (f : Fld) : s.spendNonce.get f = (s.puts (noncePuts fun _ => 0)).get f := by
  rw [State.spendNonce_eq, State.get_withNonceAt]

/-- At L2 and above the loss of authority ends an MP halt at most: it keeps every register but DBG_MPCTL, and no nonce. -/
theorem State.releaseMp_eq (s : State) (n : Nat) : ∃ mpwLeft mpwEnd,
    s.releaseMp n = { s.put (if n = 0 then DBG_MPCTL_HALT0 else DBG_MPCTL_HALT1) 0 with mpwLeft, mpwEnd } := by
  unfold State.releaseMp
  dsimp only
  split
  · exact ⟨_, _, rfl⟩
  · exact ⟨s.mpwLeft, s.mpwEnd, rfl⟩

theorem State.releaseMp_nonceAt (s : State) (n : Nat) : (s.releaseMp n).nonceAt = s.nonceAt := by
  obtain ⟨l, e, h⟩ := s.releaseMp_eq n
  rw [h]; rfl

theorem State.get_releaseMp (s : State) (n : Nat) {f : Fld} (hf : f.off / 8 ≠ 0xF00404 / 8) : (s.releaseMp n).get f = s.get f := by
  obtain ⟨l, e, h⟩ := s.releaseMp_eq n
  have hput : (s.put (if n = 0 then DBG_MPCTL_HALT0 else DBG_MPCTL_HALT1) 0).get f = s.get f := by
    split
    · exact State.get_put_apart _ _ _ _ (by decide) (Fld.apart_of_slot (Ne.symm hf))
    · exact State.get_put_apart _ _ _ _ (by decide) (Fld.apart_of_slot (Ne.symm hf))
  rw [h]
  exact hput

theorem State.enforceLevel_of_device {s : State} (h : 2 ≤ s.get DBG_STATUS_LEVEL) :
    s.enforceLevel = if s.get DBG_STATUS_LEVEL < 3 then (s.releaseMp 0).releaseMp 1 else s := by
  unfold State.enforceLevel
  dsimp only
  rw [if_pos h]

theorem State.enforceLevel_nonceAt {s : State} (h : 2 ≤ s.get DBG_STATUS_LEVEL) : s.enforceLevel.nonceAt = s.nonceAt := by
  rw [State.enforceLevel_of_device h]
  split
  · rw [State.releaseMp_nonceAt, State.releaseMp_nonceAt]
  · rfl

theorem State.get_enforceLevel {s : State} (h : 2 ≤ s.get DBG_STATUS_LEVEL) {f : Fld} (hf : f.off / 8 ≠ 0xF00404 / 8) :
    s.enforceLevel.get f = s.get f := by
  rw [State.enforceLevel_of_device h]
  split
  · rw [State.get_releaseMp _ _ hf, State.get_releaseMp _ _ hf]
  · rfl

/-- What an accepted unlock begins from: the nonce spent and, for L3, no key. -/
def State.unlocking (s : State) (level : Nat) : State := if level = 3 then s.spendNonce.keyless else s.spendNonce

theorem State.unlocking_nonceAt (s : State) (level : Nat) : (s.unlocking level).nonceAt = none := by
  unfold State.unlocking
  split
  · rw [State.keyless_nonceAt, State.spendNonce_eq, State.withNonceAt_nonceAt]
  · rw [State.spendNonce_eq, State.withNonceAt_nonceAt]

theorem State.get_unlocking (s : State) (level : Nat) (f : Fld) : (s.unlocking level).get f = (s.puts (noncePuts fun _ => 0)).get f := by
  rw [← State.get_spendNonce, State.unlocking]
  split
  · rw [State.get_keyless]
  · rfl

/-- An accepted unlock puts its level in force and spends the nonce. -/
theorem State.unlocked_fields (s : State) {level : Nat} (hlevel : level = 2 ∨ level = 3) :
    let t := ((s.unlocking level).put DBG_STATUS_LEVEL level).enforceLevel
    t.get DBG_STATUS_LEVEL = level ∧ t.nonceAt = none ∧ ∀ k, k < 8 → t.get (DBG_NONCE_DATA.nth 4 k) = 0 := by
  intro t
  have hput : ((s.unlocking level).put DBG_STATUS_LEVEL level).get DBG_STATUS_LEVEL = level :=
    (State.get_put _ _ _ (by decide)).trans (Nat.mod_eq_of_lt (show level < 4 by omega))
  have hdevice : 2 ≤ ((s.unlocking level).put DBG_STATUS_LEVEL level).get DBG_STATUS_LEVEL := by rw [hput]; omega
  refine ⟨(State.get_enforceLevel hdevice (by decide)).trans hput, ?_, fun k hk => ?_⟩
  · exact (State.enforceLevel_nonceAt hdevice).trans (s.unlocking_nonceAt level)
  · have hoff : (DBG_NONCE_DATA.nth 4 k).off / 8 < 0xF00040 / 8 ∧ 0xF00020 / 8 ≤ (DBG_NONCE_DATA.nth 4 k).off / 8 := by
      simp only [Fld.nth, DBG_NONCE_DATA]
      omega
    have hapart : DBG_STATUS_LEVEL.apart (DBG_NONCE_DATA.nth 4 k) = true := Fld.apart_of_slot (by simp only [DBG_STATUS_LEVEL]; omega)
    calc t.get (DBG_NONCE_DATA.nth 4 k) = (s.puts (noncePuts fun _ => 0)).get (DBG_NONCE_DATA.nth 4 k) := by
          rw [State.get_enforceLevel hdevice (by omega), State.get_put_apart _ _ _ _ (by decide) hapart, State.get_unlocking]
      _ = 0 := State.get_noncePuts s _ hk

theorem State.unlockFailed_fields (s : State) : s.unlockFailed.get DBG_STATUS_FAILS = min 8 (s.get DBG_STATUS_FAILS + 1) ∧
    (7 ≤ s.get DBG_STATUS_FAILS → s.unlockFailed.get DBG_STATUS_LOCKOUT = 1) ∧
    s.unlockFailed.get DBG_STATUS_LEVEL = s.get DBG_STATUS_LEVEL ∧ s.unlockFailed.failAt = some s.time := by
  have hget (f : Fld) : s.unlockFailed.get f = State.get (if min 8 (s.get DBG_STATUS_FAILS + 1) = 8
      then (s.put DBG_STATUS_FAILS (min 8 (s.get DBG_STATUS_FAILS + 1))).put DBG_STATUS_LOCKOUT 1
      else s.put DBG_STATUS_FAILS (min 8 (s.get DBG_STATUS_FAILS + 1))) f := by
    unfold State.unlockFailed
    dsimp only
    split <;> rfl
  have hmod : min 8 (s.get DBG_STATUS_FAILS + 1) % 2 ^ 6 = min 8 (s.get DBG_STATUS_FAILS + 1) := by omega
  refine ⟨?_, fun h7 => ?_, ?_, ?_⟩
  · rw [hget]
    split
    · rw [State.get_put_apart _ _ _ _ (by decide) (by decide), State.get_put _ _ _ (by decide)]
      exact hmod
    · rw [State.get_put _ _ _ (by decide)]
      exact hmod
  · rw [hget, if_pos (by omega), State.get_put _ _ _ (by decide)]
    rfl
  · rw [hget]
    split
    · rw [State.get_put_apart _ _ _ _ (by decide) (by decide), State.get_put_apart _ _ _ _ (by decide) (by decide)]
    · rw [State.get_put_apart _ _ _ _ (by decide) (by decide)]
  · unfold State.unlockFailed
    dsimp only
    split <;> rfl

/-! ### Gates (R420, R537) -/

section
variable {s : State} (hheld : s.held = false)
include hheld

theorem State.dbgGate_of_reach {r : Nat} (h : s.dbgReach r = true) (f : State → State) : s.dbgGate r f = f s := by
  rw [State.dbgGate, if_neg (by rw [hheld]; simp), if_pos h]

theorem State.dbgGate_of_beyond {r : Nat} (h : s.dbgReach r = false) (f : State → State) : s.dbgGate r f = s.deny (0xF00000 + r) := by
  rw [State.dbgGate, if_neg (by rw [hheld]; simp), h]
  rfl

omit hheld in
/-- The registers that need a device level. -/
theorem State.dbgReach_of_device {r n : Nat} (hr : dbgNeeds r = n + 2) : s.dbgReach r = decide (n + 2 ≤ s.get DBG_STATUS_LEVEL) := by
  rw [State.dbgReach, hr]
  rfl

theorem State.dbgGate_of_level {r n : Nat} (hr : dbgNeeds r = n + 2) (h : n + 2 ≤ s.get DBG_STATUS_LEVEL) (f : State → State) : s.dbgGate r f = f s :=
  State.dbgGate_of_reach hheld (by rw [State.dbgReach_of_device hr]; exact decide_eq_true h) f

theorem State.dbgGate_of_low {r n : Nat} (hr : dbgNeeds r = n + 2) (h : s.get DBG_STATUS_LEVEL < n + 2) (f : State → State) :
    s.dbgGate r f = s.deny (0xF00000 + r) :=
  State.dbgGate_of_beyond hheld (by rw [State.dbgReach_of_device hr]; exact decide_eq_false (by omega)) f

/-! ### OTP commands (R516) -/

theorem otpAdvance_of_package {e : Nat} {p : Pkg} (hlevel : 2 ≤ s.get DBG_STATUS_LEVEL) (hp : s.pkg = some p) :
    otpAdvance e s = if p.epoch < e ∨ 64 < e then s.put OTP_CMD_ERR 1 else { s with otpEpoch := max s.otpEpoch e } := by
  rw [otpAdvance, State.dbgGate_of_level (n := 0) hheld rfl hlevel, hp]

theorem otpRevoke_of_level {n : Nat} (hlevel : 2 ≤ s.get DBG_STATUS_LEVEL) : otpRevoke n s =
    if s.get DBG_STATUS_LEVEL < 3 ∨ 2 ≤ n ∨ bitAt s.otpRevoked (1 - n) then s.put OTP_CMD_ERR 1
    else { s with otpRevoked := s.otpRevoked ||| 2 ^ n } := by
  rw [otpRevoke, State.dbgGate_of_level (n := 0) hheld rfl hlevel]

/-! ### The device freeze (R529) -/

theorem dbgFreeze_release (hlevel : 2 ≤ s.get DBG_STATUS_LEVEL) :
    dbgFreeze false s = if s.mode = .debugFreeze then s.unfreeze else s.put DBG_FREEZE_FREEZE 0 := by
  rw [dbgFreeze, State.dbgGate_of_level (n := 0) hheld rfl hlevel]
  rfl

end

/-- The state that a freeze in its mode returns to. -/
def State.withPrior (s : State) (m : Mode) : State := { s with prior := m }

@[simp] theorem State.withPrior_prior (s : State) (m : Mode) : (s.withPrior m).prior = m := rfl

theorem State.raise_prior (s : State) (n : Nat) : (s.raise n).prior = s.prior := rfl

theorem stopStall_prior (s : State) (st : Stall) (cause : Nat) : (stopStall s st cause).prior = s.prior := by
  rw [stopStall, State.raise_prior, State.setStall_prior]

theorem haltStall_prior (s : State) (st : Stall) (cause : Nat) : (haltStall s st cause).prior = s.prior := by
  rw [haltStall, stopStall_prior]
  split
  · exact State.put_prior _ _ _
  · rfl

theorem State.freezeStall_prior (s : State) (k : Nat) : (s.freezeStall k).prior = s.prior := by
  unfold State.freezeStall
  split
  · split
    · rfl
    · split
      · exact State.setStall_prior _ _
      · exact haltStall_prior _ _ _
  · rfl

/-- The stalls of a freeze halted, and the freeze shown. -/
def State.freezing (s : State) : State :=
  ((s.stalls.map (·.num)).foldl State.freezeStall (s.withPrior s.mode)).puts [(DBG_FREEZE_FREEZE, 1), (DBG_STATUS_FREEZE, 1)]

theorem State.puts_prior (s : State) (l : List (Fld × Nat)) : (s.puts l).prior = s.prior := by rw [State.puts_eq]

theorem State.freezing_prior (s : State) : s.freezing.prior = s.mode := by
  rw [State.freezing, State.puts_prior, foldl_field (g := State.prior) State.freezeStall_prior, State.withPrior_prior]

theorem State.toMode_prior (s : State) (m : Mode) (detail : Nat) : (s.toMode m detail).prior = s.prior :=
  State.toMode_field (g := State.prior) (fun _ _ _ _ _ _ _ _ => rfl) s m detail

theorem dbgFreeze_freezes {s : State} (hheld : s.held = false) (hlevel : 2 ≤ s.get DBG_STATUS_LEVEL)
    (hmode : s.mode = .service ∨ s.mode = .serve ∨ s.mode = .serveDegraded ∨ s.mode = .conformance) :
    ∃ detail, dbgFreeze true s = s.freezing.toMode .debugFreeze detail := by
  rw [dbgFreeze, State.dbgGate_of_level (n := 0) hheld rfl hlevel]
  dsimp only
  rw [if_neg (by decide), if_pos hmode]
  exact ⟨_, rfl⟩

theorem dbgFreeze_elsewhere {s : State} (hheld : s.held = false) (hlevel : 2 ≤ s.get DBG_STATUS_LEVEL)
    (hmode : ¬(s.mode = .service ∨ s.mode = .serve ∨ s.mode = .serveDegraded ∨ s.mode = .conformance)) :
    dbgFreeze true s = s.put DBG_FREEZE_FREEZE 1 := by
  rw [dbgFreeze, State.dbgGate_of_level (n := 0) hheld rfl hlevel]
  dsimp only
  rw [if_neg (by decide), if_neg hmode]

/-- A freeze enters DEBUG_FREEZE, shows itself and keeps the mode it came from. -/
theorem State.freezing_fields (s : State) (detail : Nat) : let t := s.freezing.toMode .debugFreeze detail
    t.mode = .debugFreeze ∧ t.prior = s.mode ∧ t.get DBG_FREEZE_FREEZE = 1 ∧ t.get DBG_STATUS_FREEZE = 1 := by
  intro t
  refine ⟨State.toMode_mode .., (State.toMode_prior ..).trans s.freezing_prior, ?_, ?_⟩
  · rw [State.get_toMode, State.freezing]
    simp (disch := decide) only [State.puts_cons, State.puts_nil, State.get_put_apart, State.get_put]
    rfl
  · rw [State.get_toMode, State.freezing]
    simp (disch := decide) only [State.puts_cons, State.puts_nil, State.get_put]
    rfl

/-! ### The TAP and the debug core reset (R518, R519) -/

/-- A range of registers returns to its Reset values, and every other stays. -/
theorem State.get_resetRange (s : State) (lo hi : Nat) (f : Fld) : (s.resetRange lo hi).get f =
    if lo ≤ f.off / 8 * 8 ∧ f.off / 8 * 8 < hi then State.reset.get f else s.get f := by
  have hq : getQ (s.resetRange lo hi).regs (f.off / 8) =
      if lo ≤ f.off / 8 * 8 ∧ f.off / 8 * 8 < hi then resetQ (f.off / 8) else getQ s.regs (f.off / 8) := by
    show (lookupN (f.off / 8) (s.regs.filter _)).getD _ = _
    rw [lookupN_filter s.regs (fun q => decide (8 * q < lo) || decide (hi ≤ 8 * q))]
    by_cases h : lo ≤ f.off / 8 * 8 ∧ f.off / 8 * 8 < hi
    · rw [if_neg (by simp; omega), if_pos h]
      rfl
    · rw [if_pos (by simp; omega), if_neg h]
      rfl
  rw [State.get, hq]
  split <;> rfl

/-- What a debug core reset leaves of the device. -/
def coreReset (s : State) : State := State.tap ((s.resetRange 0xF00100 0xF00120).resetRange 0xF00300 0xF00340) 0x01 0x130729AF

theorem coreReset_eq (s : State) : coreReset s = { s with tapIr := 0x01, tapDr := 0x130729AF, regs := (coreReset s).regs } := rfl

theorem get_coreReset (s : State) (f : Fld) : (coreReset s).get f =
    if (0xF00100 ≤ f.off / 8 * 8 ∧ f.off / 8 * 8 < 0xF00120) ∨ (0xF00300 ≤ f.off / 8 * 8 ∧ f.off / 8 * 8 < 0xF00340) then State.reset.get f
    else s.get f := by
  show ((s.resetRange 0xF00100 0xF00120).resetRange 0xF00300 0xF00340).get f = _
  rw [State.get_resetRange, State.get_resetRange]
  by_cases hdam : 0xF00100 ≤ f.off / 8 * 8 ∧ f.off / 8 * 8 < 0xF00120
  · rw [if_neg (by omega), if_pos hdam, if_pos (.inl hdam)]
  · by_cases hbp : 0xF00300 ≤ f.off / 8 * 8 ∧ f.off / 8 * 8 < 0xF00340
    · rw [if_pos hbp, if_pos (.inr hbp)]
    · rw [if_neg hbp, if_neg hdam, if_neg (not_or.2 ⟨hdam, hbp⟩)]

theorem debugCoreReset_of_allowed {s : State} {pin : Bool} (h : pin = true ∨ (s.held = false ∧ s.dbgReach 4 = true)) :
    debugCoreReset pin s = coreReset s := by
  unfold debugCoreReset
  dsimp only
  cases pin with
  | true => rfl
  | false =>
    obtain h | ⟨hheld, hreach⟩ := h
    · cases h
    · rw [if_neg (by decide), State.dbgGate_of_reach hheld hreach]
      rfl

theorem tapDbgregCmd_read {s : State} {off : Nat} (hoff : off < 65536) (halign : off % 4 = 0) (data : Nat) (host : Option Bytes) (unmapped : Bool) :
    tapDbgregCmd off data false host unmapped s =
      s.tap 0x10 (off + (if s.dbgReach off then leAt (s.readBytes (0xF00000 + off) 4) 0 4 else 0) * 65536) := by
  have hsame : off % 65536 / 4 * 4 = off := by omega
  rw [tapDbgregCmd, tapDbgreg, hsame]
  rfl

theorem tapDbgregCmd_write {s : State} {off : Nat} (hoff : off < 65536) (halign : off % 4 = 0) (data : Nat) (host : Option Bytes) (unmapped : Bool) :
    tapDbgregCmd off data true host unmapped s =
      (s.regAct (damRun host unmapped) (0xF00000 + off) (data % 2 ^ 32) (2 ^ 32 - 1)).tap 0x10 (off + data % 2 ^ 32 * 65536 + 2 ^ 48) := by
  have hsame : off % 65536 / 4 * 4 = off := by omega
  rw [tapDbgregCmd, tapDbgreg, hsame, if_pos rfl, Nat.mod_mod]

theorem cnfEnd_of_conformance {s : State} (h : s.mode = .conformance) :
    cnfEnd s = if s.stalls.isEmpty then s.enterServe else s.put CNF_CTL_ERR 1 := by
  rw [cnfEnd, if_pos h]

theorem nonceExpiry_of_nonce {s : State} {t : Nat} (h : s.nonceAt = some t) :
    nonceExpiry s = if t + 10000000000 ≤ s.time then { s with nonceAt := none } else s := by
  rw [nonceExpiry, h]

/-! ### The rows -/

section
variable (s : State)

theorem exec_dbgNonce : exec .dbgNonce s = .next (dbgNonce s) := rfl
theorem exec_dbgUnlock (level : Nat) : exec (.dbgUnlock level) s = .next (dbgUnlock level s) := rfl
theorem exec_dbgLock : exec .dbgLock s = .next (dbgLock s) := rfl
theorem exec_nonceExpiry : exec .nonceExpiry s = .next (nonceExpiry s) := rfl
theorem exec_dbgFreeze (freeze : Bool) : exec (.dbgFreeze freeze) s = .next (dbgFreeze freeze s) := rfl
theorem exec_dbgMpctl (a b : Bool) : exec (.dbgMpctl a b) s = .next (dbgMpctl a b s) := rfl
theorem exec_advance (e : Nat) : exec (.advance e) s = .next (otpAdvance e s) := rfl
theorem exec_revoke (n : Nat) : exec (.revoke n) s = .next (otpRevoke n s) := rfl
theorem exec_cnfEnd : exec .cnfEnd s = .next (cnfEnd s) := rfl
theorem exec_debugCoreReset (pin : Bool) : exec (.debugCoreReset pin) s = .next (debugCoreReset pin s) := rfl
theorem exec_dbgreg (off data : Nat) (write : Bool) (host : Option Bytes) (unmapped : Bool) :
    exec (.dbgreg off data write host unmapped) s = .next (tapDbgregCmd off data write host unmapped s) := rfl
theorem exec_extest : exec .extest s = .next (tapExtest s) := rfl
theorem exec_clamp : exec .clamp s = .next (tapClamp s) := rfl
theorem exec_highz : exec .highz s = .next (tapHighz s) := rfl

end

/-- Settles O56: each clause is the case of its command that its hypotheses select. -/
theorem debugAuthorityComplete : Obligations.DebugAuthorityComplete := by
  unfold Obligations.DebugAuthorityComplete
  refine ⟨fun s hheld => ⟨fun hlate => ?nonce, fun t hfail hsoon => ?soon, fun level h h2 => ?level2, fun level h h3 => ?level3, fun level h => ?unlocked,
    fun level h => ?wrong, s.responseOk_iff, s.unlockFailed_fields, ?lock, fun t ht hold => ?expired, fun t ht hnew => ?current, fun freeze hlow => ?freezeLow,
    fun hlevel hmode => ?freeze, fun hlevel hmode => ?freezeElse, fun hlevel hmode => ?release, fun hlevel hmode => ?releaseElse, fun a b hlow => ?mpLow,
    fun a b hlevel => ?mp, fun c e n hc hlow => ?otpLow, fun n hlevel => ?revokeL2, fun e p hlevel hp he he' => ?advance,
    fun e p hlevel hp he => ?advanceElse, fun n hlevel hn hother => ?revoke, fun n hlevel hn hother => ?revokeElse, fun hmode hnone => ?cnfEnd,
    fun hmode hsome => ?cnfBusy, fun hmode => ?cnfElse⟩, fun s => ?tap⟩
  case nonce =>
    rw [exec_dbgNonce, dbgNonce_of_allowed hheld hlate]
    refine ⟨_, (s.freeBytes 32).1, rfl, ?_, ?_, ?_, ?_⟩
    · rw [State.nonced_free]
      exact s.freeBytes_eq 32
    · rw [State.nonced, State.withNonceAt_nonceAt]
    · rw [State.nonced, State.eight_withNonceAt, State.eight_noncePuts _ (s.freeBytes_length 32)]
    · rw [State.nonced, State.get_withNonceAt, State.get_noncePuts_apart _ _ (.inl (by decide))]
      rfl
  case soon => rw [exec_dbgNonce, dbgNonce_of_soon hfail hsoon]
  case level2 =>
    subst h2
    rw [exec_dbgUnlock, dbgUnlock_of_right hheld h]
    rfl
  case level3 =>
    subst h3
    rw [exec_dbgUnlock, dbgUnlock_of_right hheld h]
    rfl
  case unlocked =>
    refine ⟨_, congrArg Host.Outcome.next (dbgUnlock_of_right hheld h), ?_⟩
    exact s.unlocked_fields ((s.responseOk_iff level).1 h).1
  case wrong => rw [exec_dbgUnlock, dbgUnlock_of_wrong hheld h]
  case lock => rw [exec_dbgLock, dbgLock, hheld]; rfl
  case expired => rw [exec_nonceExpiry, nonceExpiry_of_nonce ht, if_pos hold]
  case current => rw [exec_nonceExpiry, nonceExpiry_of_nonce ht, if_neg (by omega)]
  case freezeLow => rw [exec_dbgFreeze, dbgFreeze, State.dbgGate_of_low (n := 0) hheld rfl hlow]
  case freeze =>
    obtain ⟨detail, h⟩ := dbgFreeze_freezes hheld hlevel hmode
    exact ⟨_, congrArg Host.Outcome.next h, s.freezing_fields detail⟩
  case freezeElse => rw [exec_dbgFreeze, dbgFreeze_elsewhere hheld hlevel hmode]
  case release => rw [exec_dbgFreeze, dbgFreeze_release hheld hlevel, if_pos hmode]
  case releaseElse => rw [exec_dbgFreeze, dbgFreeze_release hheld hlevel, if_neg hmode]
  case mpLow => rw [exec_dbgMpctl, dbgMpctl, State.dbgGate_of_low (n := 1) hheld rfl hlow]
  case mp => rw [exec_dbgMpctl, dbgMpctl, State.dbgGate_of_level (n := 1) hheld rfl hlevel]
  case otpLow =>
    rcases hc with rfl | rfl
    · rw [exec_advance, otpAdvance, State.dbgGate_of_low (n := 0) hheld rfl hlow]
    · rw [exec_revoke, otpRevoke, State.dbgGate_of_low (n := 0) hheld rfl hlow]
  case revokeL2 => rw [exec_revoke, otpRevoke_of_level hheld (by omega), if_pos (.inl (by omega))]
  case advance => rw [exec_advance, otpAdvance_of_package hheld hlevel hp, if_neg (by omega)]
  case advanceElse => rw [exec_advance, otpAdvance_of_package hheld hlevel hp, if_pos he]
  case revoke => rw [exec_revoke, otpRevoke_of_level hheld (by omega), if_neg (by rw [hother]; simp; omega)]
  case revokeElse => rw [exec_revoke, otpRevoke_of_level hheld (by omega), if_pos (.inr (.inr hother))]
  case cnfEnd => rw [exec_cnfEnd, cnfEnd_of_conformance hmode, hnone]; rfl
  case cnfBusy => rw [exec_cnfEnd, cnfEnd_of_conformance hmode, if_neg (by rwa [List.isEmpty_iff])]
  case cnfElse => rw [exec_cnfEnd, cnfEnd, if_neg hmode]
  case tap =>
    refine ⟨rfl, rfl, ⟨_, rfl⟩, fun hmay => ?_, fun hmay c hc => ?_, fun off data host unmapped hoff halign => ⟨fun hreach => ?_, fun hreach => ?_, ?_⟩,
      fun pin hpin => ⟨_, congrArg Host.Outcome.next (debugCoreReset_of_allowed hpin), coreReset_eq s, fun f => ?_⟩, fun hheld hreach => ?_⟩
    · rw [exec_extest, tapExtest, if_pos hmay, exec_clamp, tapClamp, if_pos hmay, exec_highz, tapHighz, if_pos hmay]
      exact ⟨⟨_, rfl⟩, rfl, rfl⟩
    · simp only [List.mem_cons, List.not_mem_nil, or_false] at hc
      rcases hc with rfl | rfl | rfl
      · rw [exec_extest, tapExtest, hmay]; rfl
      · rw [exec_clamp, tapClamp, hmay]; rfl
      · rw [exec_highz, tapHighz, hmay]; rfl
    · rw [exec_dbgreg, tapDbgregCmd_read hoff halign, if_pos hreach]
      rfl
    · rw [exec_dbgreg, tapDbgregCmd_read hoff halign, hreach, if_neg Bool.false_ne_true, Nat.zero_mul, Nat.add_zero]
      rfl
    · exact ⟨_, congrArg Host.Outcome.next (tapDbgregCmd_write hoff halign data host unmapped), rfl⟩
    · exact ⟨fun h => (get_coreReset s f).trans (if_pos h), fun h => (get_coreReset s f).trans (if_neg h)⟩
    · rw [exec_debugCoreReset, debugCoreReset]
      dsimp only
      rw [if_neg Bool.false_ne_true, State.dbgGate_of_beyond hheld hreach]

end Sys2Proof.Machine
end

section
/-! SUPPORT. A stall under debug (O57): its run control, fed instructions and the debug access master on its memory (R520 – R526). -/
namespace Sys2Proof.Machine

/-! ### Authority over a stall (R508, R512) -/

/-- The device level or the stall's grant gives authority over it. -/
structure Governs (s : State) (k : Nat) (st : Stall) : Prop where
  awake : s.held = false
  found : s.stall? k = some st
  level : 2 ≤ s.get DBG_STATUS_LEVEL ∨ st.l1 = true

namespace Governs
variable {s : State} {k : Nat} {st : Stall} (h : Governs s k st)
include h

theorem mayDebug : s.mayDebug k = true := by
  rw [State.mayDebug, h.found]
  rcases h.level with hlevel | hl1
  · rw [decide_eq_true hlevel, Bool.true_or]
  · dsimp only
    rw [hl1, Bool.or_true]

theorem gate {r : Nat} (hr : dbgNeeds r = 1) (f : State → State) : s.dbgGate r f = f s := by
  refine State.dbgGate_of_reach h.awake ?_ f
  rw [State.dbgReach, hr]
  rcases h.level with hlevel | hl1
  · show (decide (1 ≤ s.get DBG_STATUS_LEVEL) || s.anyL1) = true
    rw [decide_eq_true (by omega), Bool.true_or]
  · have hany : s.anyL1 = true := List.any_eq_true.2 ⟨st, List.mem_of_find?_eq_some h.found, hl1⟩
    show (decide (1 ≤ s.get DBG_STATUS_LEVEL) || s.anyL1) = true
    rw [hany, Bool.or_true]

/-- Naming the stall in DBG_SCTL keeps the authority over it. -/
theorem named : Governs (s.put DBG_SCTL_STALL k) k st where
  awake := h.awake
  found := (State.stall?_congr (State.put_stalls s _ _) k).trans h.found
  level := by rw [State.get_put_apart _ _ _ _ (by decide) (by decide)]; exact h.level

theorem runCtl (f : Stall → State → State) : s.runCtl k f = f st (s.put DBG_SCTL_STALL k) := by
  unfold State.runCtl
  rw [h.gate rfl]
  dsimp only
  rw [h.named.found]
  dsimp only
  rw [if_pos h.named.mayDebug]

/-! ### Run control and fed instructions (R523 – R526) -/

theorem halt_running (force : Bool) (hhalted : st.sched ≠ .halted) (hparked : st.sched ≠ .parked) (hwait : st.sched ≠ .faultWait) :
    dbgSctlHalt k force s = askHalt (s.put DBG_SCTL_STALL k) st force 1 := by
  rw [dbgSctlHalt, h.runCtl, State.halt, if_neg hhalted, if_neg (not_or.2 ⟨hparked, hwait⟩)]

theorem halt_waiting (force : Bool) (hsched : st.sched = .parked ∨ st.sched = .faultWait) : dbgSctlHalt k force s =
    (s.put DBG_SCTL_STALL k).setStall { st with dbgHalt := true, haltWhy := 1, haltPend := if force then some true else st.haltPend } := by
  have hhalted : st.sched ≠ .halted := by rcases hsched with h | h <;> rw [h] <;> decide
  rw [dbgSctlHalt, h.runCtl, State.halt, if_neg hhalted, if_pos hsched]

theorem step_halted (hhalted : st.sched = .halted) : dbgSctlStep k s =
    (s.put DBG_SCTL_STALL k).setStall { st with sched := .runnable, stepping := true, bpSkip := true } := by
  rw [dbgSctlStep, h.runCtl, if_pos hhalted]

end Governs

/-- A fed instruction that nothing holds back. -/
theorem State.feed_of_clear {s : State} {st : Stall} {slot flen : Nat} {i : Inst}
    (hdecode : decodeAt (s.feedCode (s.codeOf st slot) st.cpu.pc.toNat flen).fetch (s.feedCode (s.codeOf st slot) st.cpu.pc.toNat flen).ucs 0
      st.cpu.pc.toNat = .ok i)
    (hlen : i.len ≤ flen) (hflen : flen ≤ 6) (hop : notFeedable i.op = false) (hpermitted : permitted s st = true) (hboundary : boundaryClear s st = true)
    {r : Res} {cost : Nat} (hrun : runInst (s.feedCode (s.codeOf st slot) st.cpu.pc.toNat flen) st.unrepeated s.time i = (r, cost))
    (hagents : agentsClear st (st.tick + ticksOf i r cost) = true) (hhold : holdFor st.unrepeated r (ticksOf i r cost) = .none)
    (haccess : accFails st.unrepeated r = false) :
    s.feed st slot flen = (s.buffer slot st.unrepeated (s.storeHeld slot st.unrepeated r) (st.tick + ticksOf i r cost - 1)
      (instWrites st.unrepeated r)).setStall (st.afterFeed (commit st.unrepeated i r cost)) := by
  unfold State.feed
  dsimp only
  rw [hdecode, State.feedWith]
  rw [if_neg (by rw [hop]; simp; omega), State.fed, hrun]
  dsimp only
  rw [hpermitted, hboundary, hagents, hhold, haccess, if_neg (by simp)]

/-! ### The debug access master on a stall (R520 – R522) -/

/-- An access that waits for no boundary: GO is 0, its space is a stall and its address aligned. -/
theorem Governs.damGo_stall {s : State} {k : Nat} {st : Stall} (h : Governs s k st) (io : Mmio) (host : Option Bytes) (unmapped : Bool)
    (hidle : s.get DAM_CTL_GO = 0) (hspace : s.get DAM_CTL_SPACE = 1) (hk : s.get DAM_CTL_STALL = k) (halign : s.get DAM_ADDR_VALUE % s.damSize = 0) :
    damAccess io host unmapped s = if st.sched = .halted then s.damHalted st unmapped else s.put DAM_CTL_GO 1 := by
  unfold damAccess
  rw [h.gate rfl, if_neg (by omega), State.damGo, if_neg (by omega)]
  dsimp only
  rw [hk, h.mayDebug, if_neg (by decide), if_neg (not_not.2 halign), h.found]

theorem Governs.damStallAccess_halted {s : State} {k : Nat} {st : Stall} (h : Governs s k st) (unmapped : Bool)
    (hgo : s.get DAM_CTL_GO = 1) (hspace : s.get DAM_CTL_SPACE = 1) (hk : s.get DAM_CTL_STALL = k) (hhalted : st.sched = .halted) :
    damStallAccess unmapped s = s.damHalted st unmapped := by
  unfold damStallAccess
  dsimp only
  rw [if_neg (by omega), hk, h.found]
  dsimp only
  rw [h.mayDebug, if_neg (by decide), if_pos hhalted]

section
variable {s : State} {st : Stall}

theorem State.damHalted_of_barred (hwrite : s.get DAM_CTL_WRITE = 1)
    (hmay : damWriteMay st (s.get DAM_ADDR_VALUE % 2 ^ 24) (leBytes s.damSize (s.get DAM_DATA_VALUE)) = false) (unmapped : Bool) :
    s.damHalted st unmapped = s.put DAM_CTL_GO 1 := by
  rw [State.damHalted, if_pos ⟨hwrite, by rw [hmay]; rfl⟩]

theorem State.damHalted_of_room (h : s.get DAM_CTL_WRITE = 0 ∨
    damWriteMay st (s.get DAM_ADDR_VALUE % 2 ^ 24) (leBytes s.damSize (s.get DAM_DATA_VALUE)) = true) (unmapped : Bool) :
    s.damHalted st unmapped = s.damStall st unmapped := by
  rw [State.damHalted, if_neg]
  rintro ⟨hwrite, hmay⟩
  rcases h with h | h
  · omega
  · rw [h] at hmay
    cases hmay

/-- Draining a stall's stores keeps what an access reads of the device. -/
theorem State.damSize_drainOf (s : State) (k : Nat) : (s.drainOf k).damSize = s.damSize := by rw [State.damSize, State.damSize, State.get_drainOf]
theorem State.mode_drainOf (s : State) (k : Nat) : (s.drainOf k).mode = s.mode := rfl
theorem State.time_drainOf (s : State) (k : Nat) : (s.drainOf k).time = s.time := rfl

theorem damBytes_length (cart : Bytes) (st : Stall) (time a n : Nat) : (damBytes cart st time a n).length = n := by
  induction n generalizing a with
  | zero => rfl
  | succ n ih => rw [damBytes, List.length_cons, ih]

theorem leAt_whole (bs : Bytes) : leAt bs 0 bs.length = ofLE bs := by
  rw [leAt, sliceBytes_of_within (by omega), List.drop_zero, List.take_length]

/-- A debugger's write of a stall's memory that translates, outside a locked sequence. -/
theorem State.damStall_write (hmode : s.mode ≠ .conformance) (hwrite : s.get DAM_CTL_WRITE = 1)
    (hmapped : rangeFaulted st (s.get DAM_ADDR_VALUE % 2 ^ 24) s.damSize = false) (hlock : st.cpu.lock = 0) :
    s.damStall st false = ((s.drainOf st.num).setStall (damWrite st (s.get DAM_ADDR_VALUE % 2 ^ 24) (leBytes s.damSize (s.get DAM_DATA_VALUE)))).puts
      [(DAM_CTL_GO, 0), (DAM_STAT_CODE, 0)] := by
  unfold State.damStall
  dsimp only
  rw [State.get_drainOf, State.get_drainOf, State.get_drainOf, State.damSize_drainOf, State.mode_drainOf, if_pos hwrite, if_neg hmode, hmapped,
    if_neg (by decide), if_neg (by omega)]
  rfl

/-- A debugger's read of a stall's memory that translates, without side effects. -/
theorem State.damStall_read (hread : s.get DAM_CTL_WRITE = 0) (hpure : s.get DAM_CTL_SIDEFX = 0)
    (hmapped : readFaulted st (s.get DAM_ADDR_VALUE % 2 ^ 24) s.damSize = false) :
    s.damStall st false = (((s.drainOf st.num).setStall (st.accessed (s.get DAM_ADDR_VALUE % 2 ^ 24) s.damSize)).puts
      [(DAM_CTL_GO, 0), (DAM_STAT_CODE, 0)]).put DAM_DATA_VALUE
        (ofLE (damBytes (s.cartOf st) st s.time (s.get DAM_ADDR_VALUE % 2 ^ 24) s.damSize)) := by
  unfold State.damStall
  dsimp only
  rw [State.get_drainOf, State.get_drainOf, State.get_drainOf, State.get_drainOf, State.damSize_drainOf, State.mode_drainOf, State.cartOf_drainOf,
    State.time_drainOf, if_neg (by omega), hpure, hmapped]
  have hside (b c : Bool) : ((0 == 1 : Bool) && b && c) = false := rfl
  rw [hside, Bool.false_and, if_neg (by decide), if_neg (by decide), if_neg (by decide), State.damEnd, leAt_whole]
  rfl

/-- An access whose page is not mapped. -/
theorem State.damStall_unmapped (hmode : s.mode ≠ .conformance) :
    s.damStall st true = (s.drainOf st.num).puts [(DAM_CTL_GO, 0), (DAM_STAT_CODE, 3)] := by
  have hconf : (s.mode == .conformance) = false := beq_false_of_ne hmode
  unfold State.damStall
  dsimp only
  rw [State.mode_drainOf, hconf, Bool.and_false]
  split
  · rw [if_pos (.inl rfl)]
    rfl
  · rw [if_neg Bool.false_ne_true, if_pos (.inl rfl)]
    rfl

end

/-! ### The rows -/

section
variable (s : State) (k : Nat)

theorem exec_dbgSctlHalt (force : Bool) : exec (.dbgSctlHalt k force) s = .next (dbgSctlHalt k force s) := rfl
theorem exec_dbgSctlResume : exec (.dbgSctlResume k) s = .next (dbgSctlResume k s) := rfl
theorem exec_dbgSctlStep : exec (.dbgSctlStep k) s = .next (dbgSctlStep k s) := rfl
theorem exec_dbgSctlFeed (flen : Nat) : exec (.dbgSctlFeed k flen) s = .next (dbgSctlFeed k flen s) := rfl
theorem exec_damAccess (host : Option Bytes) (unmapped : Bool) : exec (.damAccess host unmapped) s = .next (damAccess mmioBase host unmapped s) := rfl
theorem exec_damStallAccess (unmapped : Bool) : exec (.damStallAccess unmapped) s = .next (damStallAccess unmapped s) := rfl

end

/-- Settles O57: authority over the stall opens the gate of its run control and of the access master. -/
theorem debugAccessComplete : Obligations.DebugAccessComplete := by
  unfold Obligations.DebugAccessComplete
  intro s k st hheld hst hlevel x
  have h : Governs s k st := ⟨hheld, hst, hlevel⟩
  refine ⟨fun force => ⟨fun hhalted hparked hwait => ?halt, fun hsched => ?haltLater⟩, ?resume, fun hhalted => ?step, fun flen slot i => ?feed,
    fun flen hhalted hbad => ?feedBad, fun unmapped host => ?access, fun unmapped hgo hspace hk hhalted => ?stallAccess, ?memory⟩
  case halt => rw [exec_dbgSctlHalt, h.halt_running force hhalted hparked hwait]
  case haltLater => rw [exec_dbgSctlHalt, h.halt_waiting force hsched]
  case resume => rw [exec_dbgSctlResume, dbgSctlResume, h.runCtl, State.put_time]
  case step => rw [exec_dbgSctlStep, h.step_halted hhalted]
  case feed =>
    intro y c hhalted hmode hpos hmax hlive hdecode hlen hop hpermitted hboundary u q n hagents hhold haccess
    have hfeed : y.feed st slot flen = _ := State.feed_of_clear hdecode hlen hmax hop hpermitted hboundary (r := q.1) (cost := q.2) rfl hagents hhold haccess
    rw [exec_dbgSctlFeed, dbgSctlFeed, h.runCtl]
    dsimp only
    rw [if_neg (not_not.2 hhalted), if_neg (by rintro (h | h | h); exacts [hmode h, by omega, by omega]), hlive]
    exact congrArg Host.Outcome.next hfeed
  case feedBad =>
    rw [exec_dbgSctlFeed, dbgSctlFeed, h.runCtl]
    dsimp only
    rw [if_neg (not_not.2 hhalted), if_pos]
    rcases hbad with h | h | h
    exacts [.inr (.inl h), .inr (.inr h), .inl h]
  case access =>
    intro a n hidle hspace hk halign
    have hgo := h.damGo_stall mmioBase host unmapped hidle hspace hk halign
    exact ⟨fun hhalted => by rw [exec_damAccess, hgo, if_pos hhalted], fun hhalted => by rw [exec_damAccess, hgo, if_neg hhalted]⟩
  case stallAccess => rw [exec_damStallAccess, h.damStallAccess_halted unmapped hgo hspace hk hhalted]
  case memory =>
    exact ⟨State.damHalted_of_barred, State.damHalted_of_room, State.damStall_write, State.damStall_read, State.damStall_unmapped⟩

end Sys2Proof.Machine
end

section
/-! SUPPORT. Resets, supplies, clocks and the start of firmware (O54; R440 – R451, R482 – R491, R505, R542 – R549). -/
namespace Sys2Proof.Machine

/-! ### Boots -/

theorem State.tryBoot_of_ready {s : State} (hheld : s.held = true) (hboot : s.bootable = true) (hmode : s.mode = .boot) (mp0 : Bool) :
    s.tryBoot mp0 = s.boot mp0 := by
  rw [State.tryBoot, if_pos ⟨hheld, hboot, hmode⟩]

theorem State.tryBoot_of_blocked {s : State} (h : s.bootable = false) (mp0 : Bool) : s.tryBoot mp0 = s := by
  rw [State.tryBoot, if_neg]
  rintro ⟨_, hboot, _⟩
  rw [h] at hboot
  cases hboot

/-- While RESET_N is low nothing boots. -/
theorem State.bootable_of_resetN {s : State} (h : s.resetN = true) : s.bootable = false := by
  simp [State.bootable, h]

theorem State.awake_iff (s : State) : s.awake = true ↔ s.mode ≠ .off ∧ s.mode ≠ .slumber ∧ s.trip = false := by
  simp [State.awake, and_assoc]

@[simp] theorem State.cause_resetN (s : State) (c : Nat) : (s.cause c).resetN = s.resetN := State.put_resetN _ _ _

theorem State.withRegs_resetN (s : State) (regs : List (Nat × QWord)) : ({ s with regs := regs } : State).resetN = s.resetN := rfl
theorem State.resetBase_resetN (s : State) (link warm : Bool) : (s.resetBase link warm).resetN = s.resetN := rfl

theorem State.afterReset_resetN (s : State) (fstop link warm : Bool) : (s.afterReset fstop link warm).resetN = s.resetN := by
  obtain ⟨regs, h⟩ := s.afterReset_eq fstop link warm
  rw [h, State.withRegs_resetN, State.resetBase_resetN]

/-- The state with RESET_N low. -/
def State.lowReset (s : State) : State := { s with resetN := true }

@[simp] theorem State.lowReset_resetN (s : State) : s.lowReset.resetN = true := rfl

section
variable {s : State} {mp0 : Bool}

/-- VDD_AON applied or lost: the reset state, with what is outside the supply. -/
theorem por_fields (on : Bool) : ∃ t, exec (.por on) s = .next t ∧ t.mode = (if on then .boot else .off) ∧ t.regs = State.reset.regs ∧ t.hbm = [] ∧
    t.stalls = [] ∧ t.keys = [] ∧ t.held = true ∧ t.otpEpoch = s.otpEpoch ∧ t.otpRevoked = s.otpRevoked := by
  refine ⟨por on s, rfl, ?_⟩
  cases on <;> exact ⟨rfl, rfl, rfl, rfl, rfl, rfl, rfl, rfl⟩

theorem devrst_pin (h : s.awake = true) : devrst true mp0 s = (s.lowReset.afterReset false true false).cause 6 := by
  have hlow : ((s.lowReset.afterReset false true false).cause 6).resetN = true := by
    rw [State.cause_resetN, State.afterReset_resetN, State.lowReset_resetN]
  rw [devrst, if_pos rfl, if_pos h]
  exact State.tryBoot_of_blocked (State.bootable_of_resetN hlow) mp0

theorem State.resetWaits_of_due {warm : Bool} {t : Nat} (h : s.rstDue = some (warm, t)) (ht : t + 1000000 ≤ s.time) : s.resetWaits warm = true := by
  rw [State.resetWaits, h]
  simp [ht]

theorem devrst_due {t : Nat} (h : s.rstDue = some (false, t)) (ht : t + 1000000 ≤ s.time) :
    devrst false mp0 s = ((s.afterReset false true false).cause 4).tryBoot mp0 := by
  rw [devrst, if_neg Bool.false_ne_true, if_pos (State.resetWaits_of_due h ht), State.dueReset, h]
  rfl

theorem warmrst_due {t : Nat} (h : s.rstDue = some (true, t)) (ht : t + 1000000 ≤ s.time) (hheld : s.held = false) :
    warmrst mp0 s = ((s.afterReset true true true).cause 7).tryBoot mp0 := by
  rw [warmrst, if_pos (State.resetWaits_of_due h ht), State.dueReset, h]
  dsimp only
  rw [State.warmReset, hheld]
  rfl

theorem perstFull_of_full (h : s.awake = true) (hscope : s.get PERST_SCOPE_SCOPE = 0) :
    perstFull s = { (s.afterReset true false false).cause 2 with perst := true } := by
  rw [perstFull, h, if_neg (by decide), if_pos hscope]

theorem railLoss_of_awake (h : s.awake = true) : railLoss s = { s.afterReset true false false with rails := false, railLost := true } := by
  obtain ⟨hoff, hslumber, htrip⟩ := s.awake_iff.1 h
  rw [railLoss, if_neg hoff, if_neg (by rw [htrip]; simp [hslumber])]

theorem State.stopOrphan_stalls (s : State) : s.stopOrphan.stalls = s.stalls := by
  unfold State.stopOrphan
  show (s.put HOST_ORPHAN_RUNNING 0).stalls = _
  exact State.put_stalls _ _ _

theorem orphanTimeout_of_due {t : Nat} (h : s.orphanAt = some t) (hruns : fwRuns s.mode = true) (hon : 0 < s.get HOST_ORPHAN_SECONDS)
    (hdue : t + 1000000000 * s.get HOST_ORPHAN_SECONDS ≤ s.time) : orphanTimeout s =
      if s.get HOST_ORPHAN_ACTION = 1 then (s.stalls.map (·.num)).foldl (fun s k => s.park k rsnOPERATOR false) s.stopOrphan else s.stopOrphan := by
  rw [orphanTimeout, h]
  dsimp only
  rw [if_pos ⟨hruns, hon, hdue⟩, State.stopOrphan_stalls]

/-- A clock that runs stops. -/
theorem refclkLoss_of_running {clk : Nat} (hclk : clk < 4) (hruns : bitAt s.clocks clk = true) (hheld : s.held = false) (hawake : s.awake = true) :
    refclkLoss clk s = (let x : State := { s with clocks := s.clocks - 2 ^ clk }
      if clk = 0 then { (x.afterReset true false false) with rails := false, railLost := true }
      else if clk = 1 then { (x.afterReset true false false) with rails := false }
      else if clk = 2 then (if x.linkUp then x.portReset else x)
      else x.portsDown) := by
  rw [refclkLoss, hruns, if_neg (by simp; omega)]
  refine if_neg ?_
  rintro (h | h)
  · exact Bool.false_ne_true (hheld.symm.trans h)
  · have hasleep : (!s.awake) = true := h
    rw [hawake] at hasleep
    cases hasleep

end

/-! ### The start of firmware (R447 – R451, R505) -/

theorem packageCheck_of_loading {s : State} {len : Nat} (hmode : s.mode = .load) (hpkg : s.pkg = none) (hlen : s.fwLen = some len) (poison : Nat) :
    packageCheck poison s = (
      let b := s.hbmBytes stagingBase len
      let x : State := { s with fwLen := none }
      if x.pkgCheck b len poison = 0 then ((({ x with pkg := some (pkgOf b) } : State).answerCommit .ok).put MBX_STATE_READY 0)
      else (x.toMode .reject (x.pkgCheck b len poison)).answerCommit { status := eREJECTED, data := [x.pkgCheck b len poison] }) := by
  unfold packageCheck
  rw [hmode, hpkg, hlen]
  dsimp only
  split
  · rename_i h
    rw [if_pos h]
  · rename_i h
    rw [if_neg h]

theorem State.puts_warm (s : State) (l : List (Fld × Nat)) : (s.puts l).warm = s.warm := by rw [State.puts_eq]
theorem State.toMode_warm (s : State) (m : Mode) (detail : Nat) : (s.toMode m detail).warm = s.warm :=
  State.toMode_field (g := State.warm) (fun _ _ _ _ _ _ _ _ => rfl) s m detail

theorem State.enterServe_warm (s : State) : s.enterServe.warm = s.warm := by
  unfold State.enterServe
  split <;> exact State.toMode_warm _ _ _

theorem State.followDegrade_warm (s : State) : s.followDegrade.warm = s.warm := by
  unfold State.followDegrade
  split
  · split
    · rfl
    · exact State.enterServe_warm s
  · split
    · exact State.enterServe_warm s
    · rfl
  · rfl

theorem State.setDegrade_warm (s : State) (f : Fld) (v : Nat) : (s.setDegrade f v).warm = s.warm := by
  rw [State.setDegrade, State.followDegrade_warm, State.put_warm]

theorem State.startBlocks_warm (s : State) (p : Pkg) : (s.startBlocks p).warm = s.warm := by
  unfold State.startBlocks
  rw [foldl_field (g := State.warm) fun t e => State.put_warm t (extFld e) 6, State.puts_warm]

theorem State.placeTables_warm (s : State) (l : List (Fld × Nat)) (a : Nat) : (s.placeTables l a).warm = s.warm := by
  induction l generalizing s a with
  | nil => rfl
  | cons p l ih => rw [State.placeTables, ih, State.put_warm]

theorem State.giveExts_warm (s : State) (l : List Nat) (code : Nat) : (s.giveExts l code).warm = s.warm := by
  rw [State.giveExts, State.puts_warm]

theorem State.startBases_warm (s : State) : s.startBases.warm = s.warm := by
  unfold State.startBases
  rw [State.put_warm, State.placeTables_warm, State.giveExts_warm, State.giveExts_warm]

theorem State.startSlots_warm (s : State) (slots : Nat) (smc : Bool) : (s.startSlots slots smc).warm = s.warm := by
  have hidle (t : State) (l : List Nat) :
      (l.foldl (fun s p => if bitAt slots p then s.put (atSlot STB_STATE_STATE p) 2 else s) t).warm = t.warm :=
    foldl_field (g := State.warm) (fun t p => by split; exacts [State.put_warm _ _ _, rfl]) l t
  have hmap (t : State) (l : List Nat) : (l.foldl (fun s l => match startMap slots l with
      | some p => s.puts [(lmapSlot l, p), (lmapValid l, 1), (atSlot STB_STATE_STATE p, 1), (atSlot STB_STATE_LSTABLE p, l),
          (atSlot STB_STATE_MAPPED p, 1), (atSlot STB_CTL_RUN p, b2n smc), (atSlot RAS_CTL_EN p, 1), (atSlot RAS_CTL_HINT p, 1)]
      | none => s.puts [(lmapValid l, 0), (FLT_DEGRADE_STABLE_LOST, 1)]) t).warm = t.warm :=
    foldl_field (g := State.warm) (fun t l => by split <;> exact State.puts_warm _ _) l t
  unfold State.startSlots
  dsimp only
  rw [State.spareFlag, State.setDegrade_warm]
  generalize hx : (if (!smc) = true then _ else _ : State) = x
  have hwarm : x.warm = s.warm := by
    rw [← hx]
    split
    · exact hidle s _
    · exact hmap s _
  split
  · exact (State.put_warm _ _ _).trans hwarm
  · exact hwarm

theorem State.startCores_warm (s : State) (cores : Nat) : (s.startCores cores).warm = s.warm := by
  unfold State.startCores
  dsimp only
  rw [State.puts_warm, State.put_warm, foldl_field (g := State.warm) fun t c => State.put_warm t (encState c) 2,
    foldl_field (g := State.warm) fun t c => State.put_warm t (encState c) 1]

/-- The blocks, tables, slots and cores that firmware starts. -/
def State.started (s : State) (p : Pkg) (slots cores : Nat) : State :=
  ((s.startBlocks p).startBases.startSlots slots p.smcOk).startCores cores

theorem State.started_warm (s : State) (p : Pkg) (slots cores : Nat) : (s.started p slots cores).warm = s.warm := by
  rw [State.started, State.startCores_warm, State.startSlots_warm, State.startBases_warm, State.startBlocks_warm]

/-- What a start keeps of an earlier one: without a warm reset, nothing but the report of what it disables. -/
theorem firmwareReady_of_cold {s : State} {p : Pkg} {slots cores : Nat} (hmode : s.mode = .load) (hpkg : s.pkg = some p) (hready : s.get MBX_STATE_READY = 0)
    (hwarm : s.warm = false) (hhod : p.hodOk = true) (henc : p.encOk = true) (hsmc : p.smcOk = true) :
    firmwareReady slots cores s = State.enterServe { s.started p slots cores with root := none, warm := false } := by
  have hcold : (s.started p slots cores).warm = false := (s.started_warm p slots cores).trans hwarm
  unfold firmwareReady
  rw [hmode, hpkg]
  dsimp only
  rw [if_neg (by omega), hhod, henc, ← State.started]
  generalize s.started p slots cores = x at hcold ⊢
  rw [hsmc, if_pos (show b2n (!true) + 2 * b2n (!true) + 4 * b2n (!true) = 0 from rfl), hcold, if_pos rfl]
  cases x.root with
  | none => rfl
  | some r =>
    dsimp only
    rw [if_neg fun h => Bool.false_ne_true h.1, if_neg Bool.false_ne_true]

theorem firmwareReady_of_service {s : State} {p : Pkg} {slots cores : Nat} (hmode : s.mode = .load) (hpkg : s.pkg = some p)
    (hready : s.get MBX_STATE_READY = 0) (hsmc : p.smcOk = false) : ∃ x : State, firmwareReady slots cores s = x.toMode .service 0x10 := by
  unfold firmwareReady
  rw [hmode, hpkg]
  dsimp only
  rw [if_neg (by omega)]
  split
  · rename_i h
    rw [hsmc] at h
    cases h
  · exact ⟨_, rfl⟩

/-! ### The rows -/

section
variable (s : State) (mp0 : Bool)

theorem exec_resetRelease : exec (.resetRelease mp0) s = .next (resetRelease mp0 s) := rfl
theorem exec_devrst (pin : Bool) : exec (.devrst pin mp0) s = .next (devrst pin mp0 s) := rfl
theorem exec_warmrst : exec (.warmrst mp0) s = .next (warmrst mp0 s) := rfl
theorem exec_resetNRelease : exec (.resetNRelease mp0) s = .next (resetNRelease mp0 s) := rfl
theorem exec_testEnAssert : exec .testEnAssert s = .next (testEnAssert s) := rfl
theorem exec_perstFull : exec .perstFull s = .next (perstFull s) := rfl
theorem exec_perstDeassert : exec (.perstDeassert mp0) s = .next (perstDeassert mp0 s) := rfl
theorem exec_portReset (kind : Nat) : exec (.portReset kind) s = .next (portResetCmd kind s) := rfl
theorem exec_pcieLinkUp : exec .pcieLinkUp s = .next (pcieLinkUp s) := rfl
theorem exec_orphanTimeout : exec .orphanTimeout s = .next (orphanTimeout s) := rfl
theorem exec_railLoss : exec .railLoss s = .next (railLoss s) := rfl
theorem exec_refclkLoss (clk : Nat) : exec (.refclkLoss clk) s = .next (refclkLoss clk s) := rfl
theorem exec_slumberWake (pin : Nat) : exec (.slumberWake pin) s = .next (slumberWake pin s) := rfl
theorem exec_slumberExitReset : exec (.slumberExitReset mp0) s = .next (slumberExitReset mp0 s) := rfl
theorem exec_packageCheck (poison : Nat) : exec (.packageCheck poison) s = .next (packageCheck poison s) := rfl
theorem exec_firmwareReady (slots cores : Nat) : exec (.firmwareReady slots cores) s = .next (firmwareReady slots cores s) := rfl

end

/-- Settles O54: each clause is the case of its command that its hypotheses select. -/
theorem resetsComplete : Obligations.ResetsComplete := by
  unfold Obligations.ResetsComplete
  refine ⟨fun s mp0 => ⟨por_fields, ?release, fun hawake => ?pin, fun t hdue ht => ?devrst, fun t hdue ht hheld => ?warmrst, ?releaseN,
    fun hmode htrip => ?testEn, fun hawake hscope => ?perst, fun hperst hmode => ?wakePerst, ?bootPerst, fun hheld hawake => ?port,
    fun t horphan hruns hon ht => ?orphan, fun hawake => ?rail, fun clk hclk hruns hheld hawake => ?clock, fun pin hmode hpin hen => ?wake,
    fun hmode hwaking => ?exit⟩, fun s => ⟨fun len poison hmode hpkg hlen => ?check, fun p slots cores hmode hpkg hready hwarm hhod henc => ?firmware⟩⟩
  case release =>
    intro x hheld hlost hawake hboot hmode
    rw [exec_resetRelease, resetRelease, if_pos ⟨hheld, by rw [hlost]; rfl, hawake⟩, State.tryBoot_of_ready (s := x) hheld hboot hmode]
  case pin => exact congrArg Host.Outcome.next (devrst_pin hawake)
  case devrst => rw [exec_devrst, devrst_due hdue ht]
  case warmrst => rw [exec_warmrst, warmrst_due hdue ht hheld]
  case releaseN =>
    intro x hheld hboot hmode
    rw [exec_resetNRelease, resetNRelease, State.tryBoot_of_ready (s := x) hheld hboot hmode]
  case testEn => rw [exec_testEnAssert, testEnAssert, if_neg (by rw [htrip]; simp [hmode])]
  case perst => rw [exec_perstFull, perstFull_of_full hawake hscope]
  case wakePerst =>
    rw [exec_perstDeassert, perstDeassert, hperst, if_neg (by decide)]
    exact congrArg Host.Outcome.next (if_pos hmode)
  case bootPerst =>
    intro x hperst hheld hboot hmode
    rw [exec_perstDeassert, perstDeassert, hperst, if_neg (by decide)]
    refine congrArg Host.Outcome.next ((if_neg ?_).trans (State.tryBoot_of_ready (s := x) hheld hboot hmode mp0))
    exact fun h : s.mode = .slumber => by rw [hmode] at h; cases h
  case port =>
    refine ⟨fun hscope => ?_, fun kind hlink hlow hhigh => ?_, fun hperst hlink => ?_⟩
    · rw [exec_portReset, portResetCmd, if_neg (by rw [hheld, hawake]; decide), if_pos rfl, if_pos hscope]
      rfl
    · rw [exec_portReset, portResetCmd, if_neg (by rw [hheld, hawake]; decide), if_neg (by omega), if_pos ⟨by omega, hlink⟩]
    · rw [exec_pcieLinkUp, pcieLinkUp, if_neg (by rw [hheld, hawake, hperst, hlink]; decide)]
  case orphan =>
    intro x
    have hcmd := orphanTimeout_of_due horphan hruns hon ht
    exact ⟨fun hpark => by rw [exec_orphanTimeout, hcmd, if_neg hpark]; rfl, fun hpark => by rw [exec_orphanTimeout, hcmd, if_pos hpark]; rfl⟩
  case rail => rw [exec_railLoss, railLoss_of_awake hawake]
  case clock =>
    intro x
    have hcmd := refclkLoss_of_running hclk hruns hheld hawake
    refine ⟨fun h0 => ?_, fun h1 => ?_, fun h2 hlink => ?_, fun h3 => ?_⟩
    · rw [exec_refclkLoss, hcmd, if_pos h0]
    · rw [exec_refclkLoss, hcmd, if_neg (by omega), if_pos h1]
    · rw [exec_refclkLoss, hcmd, if_neg (by omega), if_neg (by omega), if_pos h2]
      exact congrArg Host.Outcome.next (if_pos hlink)
    · rw [exec_refclkLoss, hcmd, if_neg (by omega), if_neg (by omega), if_neg (by omega)]
  case wake => rw [exec_slumberWake, slumberWake, if_pos ⟨hmode, hpin, hen⟩]
  case exit =>
    rw [exec_slumberExitReset, slumberExitReset, if_pos (.inl ⟨hmode, hwaking⟩)]
  case check =>
    intro b x
    have hcmd := packageCheck_of_loading hmode hpkg hlen poison
    refine ⟨fun hok => ?_, fun n hn hbad => ?_⟩
    · rw [exec_packageCheck, hcmd]
      exact congrArg Host.Outcome.next (if_pos hok)
    · subst hbad
      rw [exec_packageCheck, hcmd]
      exact congrArg Host.Outcome.next (if_neg hn)
  case firmware =>
    intro x
    refine ⟨fun hsmc => ?_, fun hsmc => ?_⟩
    · rw [exec_firmwareReady, firmwareReady_of_cold hmode hpkg hready hwarm hhod henc hsmc]
      rfl
    · obtain ⟨y, hy⟩ := firmwareReady_of_service (slots := slots) (cores := cores) hmode hpkg hready hsmc
      exact ⟨_, congrArg Host.Outcome.next hy, State.toMode_mode .., State.toMode_detail ..⟩

end Sys2Proof.Machine
end

section
/-! SUPPORT. CAD_TIME, PTP, detaching and the messages of a migration (O46; R401, R402, R412 – R416). -/
namespace Sys2Proof.Machine

/-! ### A PTP exchange (R401) -/

/-- The offset counts towards the lock. -/
def ptpSmall (o : Int) : Bool := decide (-1000 < o) && decide (o < 1000)

/-- Good exchanges in a row after one that measures `o`. -/
def State.ptpCount (s : State) (o : Int) : Nat := if ptpSmall o then s.ptpGood + 1 else 0

/-- The state with the count of good exchanges, and with the fields of PTP_STAT. -/
def State.withPtpGood (s : State) (good : Nat) : State := { s with ptpGood := good }
def State.ptpNoted (s : State) (o : Int) : State :=
  (s.withPtpGood (s.ptpCount o)).puts [(PTP_STAT_OFFSET, ptpOffset o), (PTP_STAT_STATE, if 16 ≤ s.ptpCount o then 2 else 1)]

/-- The clock is stepped forward, or corrected by a free value. -/
def State.stepped (s : State) (ns : Nat) : State := { s with time := s.time + ns }
def State.slewed (s : State) : State := { (s.draw 201).2 with slew := ((s.draw 201).1 : Int) - 100 }

theorem State.stepped_regs (s : State) (ns : Nat) : (s.stepped ns).regs = s.regs := rfl
theorem State.stepped_time (s : State) (ns : Nat) : (s.stepped ns).time = s.time + ns := rfl
theorem State.stepped_ptpGood (s : State) (ns : Nat) : (s.stepped ns).ptpGood = s.ptpGood := rfl
theorem State.slewed_regs (s : State) : s.slewed.regs = s.regs := rfl
theorem State.slewed_time (s : State) : s.slewed.time = s.time := rfl
theorem State.slewed_ptpGood (s : State) : s.slewed.ptpGood = s.ptpGood := rfl
theorem State.slewed_slew (s : State) : s.slewed.slew = ((Config.freeValue s.free % 201 : Nat) : Int) - 100 := rfl
theorem State.raise_time (s : State) (n : Nat) : (s.raise n).time = s.time := rfl
theorem State.raise_ptpGood (s : State) (n : Nat) : (s.raise n).ptpGood = s.ptpGood := rfl
theorem State.raise_slew (s : State) (n : Nat) : (s.raise n).slew = s.slew := rfl
theorem State.puts_ptpGood (s : State) (l : List (Fld × Nat)) : (s.puts l).ptpGood = s.ptpGood := by rw [State.puts_eq]
theorem State.puts_nets (s : State) (l : List (Fld × Nat)) : (s.puts l).nets = s.nets := by rw [State.puts_eq]
theorem State.withPtpGood_ptpGood (s : State) (n : Nat) : (s.withPtpGood n).ptpGood = n := rfl
theorem State.withPtpGood_time (s : State) (n : Nat) : (s.withPtpGood n).time = s.time := rfl
theorem State.withPtpGood_stalls (s : State) (n : Nat) : (s.withPtpGood n).stalls = s.stalls := rfl
theorem State.withPtpGood_nets (s : State) (n : Nat) : (s.withPtpGood n).nets = s.nets := rfl

/-- A correction by frequency, with FAR and its event beyond a millisecond. -/
def State.corrected (s : State) (o : Int) : State := if o < -1000000 ∨ 1000000 < o then (s.slewed.put PTP_STAT_FAR 1).raise 0x07D else s.slewed

section
variable {s : State} {o : Int}

theorem State.ptpNoted_stalls (s : State) (o : Int) : (s.ptpNoted o).stalls = s.stalls := by
  rw [State.ptpNoted, State.puts_stalls, State.withPtpGood_stalls]

theorem State.ptpNoted_time (s : State) (o : Int) : (s.ptpNoted o).time = s.time := by
  rw [State.ptpNoted, State.puts_time, State.withPtpGood_time]

theorem State.ptpNoted_ptpGood (s : State) (o : Int) : (s.ptpNoted o).ptpGood = s.ptpCount o := by
  rw [State.ptpNoted, State.puts_ptpGood, State.withPtpGood_ptpGood]

theorem State.ptpNoted_streamsOn (s : State) (o : Int) : (s.ptpNoted o).streamsOn = s.streamsOn := by
  rw [State.streamsOn, State.ptpNoted, State.puts_nets, State.withPtpGood_nets, State.streamsOn]

theorem State.get_ptpNoted (s : State) (o : Int) : (s.ptpNoted o).get PTP_STAT_STATE = if 16 ≤ s.ptpCount o then 2 else 1 := by
  rw [State.ptpNoted, State.get_puts_of_mem (p := (PTP_STAT_STATE, if 16 ≤ s.ptpCount o then 2 else 1)) ?_ ?_ (by simp)]
  · show (if 16 ≤ s.ptpCount o then 2 else 1) % 2 ^ 2 = _
    split <;> rfl
  · simp only [List.forall_mem_cons, List.not_mem_nil, false_imp_iff, implies_true, and_true]
    decide
  · simp only [List.pairwise_cons, List.mem_singleton, forall_eq, List.not_mem_nil, false_imp_iff, implies_true, List.Pairwise.nil, and_true]
    decide

theorem State.ptpExchange_fst (s : State) (o : Int) : (s.ptpExchange o).1 =
    if s.stalls = [] ∧ s.streamsOn = false then (s.ptpNoted o).stepped (max 0 (-o)).toNat else (s.ptpNoted o).corrected o := by
  have hunfold : (s.ptpExchange o).1 = if (s.ptpNoted o).stalls.isEmpty ∧ !(s.ptpNoted o).streamsOn then (s.ptpNoted o).stepped (max 0 (-o)).toNat
      else (s.ptpNoted o).corrected o := by
    unfold State.ptpExchange State.ptpNoted State.corrected State.stepped State.slewed State.withPtpGood State.ptpCount ptpSmall
    rfl
  rw [hunfold, State.ptpNoted_stalls, State.ptpNoted_streamsOn]
  simp only [List.isEmpty_iff, Bool.not_eq_true']

theorem State.ptpExchange_still (hstalls : s.stalls = []) (hstreams : s.streamsOn = false) :
    (s.ptpExchange o).1 = (s.ptpNoted o).stepped (max 0 (-o)).toNat := by
  rw [State.ptpExchange_fst, if_pos ⟨hstalls, hstreams⟩]

theorem State.ptpExchange_busy (h : s.stalls ≠ [] ∨ s.streamsOn = true) : (s.ptpExchange o).1 = (s.ptpNoted o).corrected o := by
  rw [State.ptpExchange_fst, if_neg]
  rintro ⟨hstalls, hstreams⟩
  exact h.elim (fun h => h hstalls) fun h => Bool.noConfusion (hstreams.symm.trans h)

theorem State.corrected_time (s : State) (o : Int) : (s.corrected o).time = s.time := by
  unfold State.corrected
  split
  · rw [State.raise_time, State.put_time, State.slewed_time]
  · rw [State.slewed_time]

theorem State.corrected_ptpGood (s : State) (o : Int) : (s.corrected o).ptpGood = s.ptpGood := by
  unfold State.corrected
  split
  · rw [State.raise_ptpGood, State.put_ptpGood, State.slewed_ptpGood]
  · rw [State.slewed_ptpGood]

/-- The correction is at most ±100 ppm. -/
theorem State.corrected_slew_le (s : State) (o : Int) : (s.corrected o).slew.natAbs ≤ 100 := by
  have hslew : (s.corrected o).slew = s.slewed.slew := by
    unfold State.corrected
    split
    · rw [State.raise_slew, State.put_slew]
    · rfl
  rw [hslew, State.slewed_slew]
  have := Nat.mod_lt (Config.freeValue s.free) (show 0 < 201 by decide)
  omega

theorem State.get_corrected_state (s : State) (o : Int) : (s.corrected o).get PTP_STAT_STATE = s.get PTP_STAT_STATE := by
  unfold State.corrected
  split
  · rw [State.get_raise_apart _ (by decide) (by decide), State.get_put_apart _ _ _ _ (by decide) (by decide), State.get_congr s.slewed_regs]
  · rw [State.get_congr s.slewed_regs]

theorem State.get_corrected_far (s : State) (h : 1000000 < o.natAbs) : (s.corrected o).get PTP_STAT_FAR = 1 := by
  rw [State.corrected, if_pos (by omega), State.get_raise_apart _ (by decide) (by decide), State.get_put _ _ _ (by decide)]
  rfl

/-- What an exchange leaves whether the clock may be stepped or not. -/
theorem State.ptpExchange_counts (s : State) (o : Int) : (s.ptpExchange o).1.ptpGood = s.ptpCount o ∧
    (s.ptpExchange o).1.get PTP_STAT_STATE = if 16 ≤ s.ptpCount o then 2 else 1 := by
  rw [State.ptpExchange_fst]
  split
  · rw [State.stepped_ptpGood, State.ptpNoted_ptpGood, State.get_congr (State.stepped_regs _ _), State.get_ptpNoted]
    exact ⟨rfl, rfl⟩
  · rw [State.corrected_ptpGood, State.ptpNoted_ptpGood, State.get_corrected_state, State.get_ptpNoted]
    exact ⟨rfl, rfl⟩

theorem State.ptpCount_of_small (h : -1000 < o ∧ o < 1000) : s.ptpCount o = s.ptpGood + 1 := by
  simp [State.ptpCount, ptpSmall, h]

theorem State.ptpCount_of_large (h : ¬(-1000 < o ∧ o < 1000)) : s.ptpCount o = 0 := by
  simpa [State.ptpCount, ptpSmall] using h

theorem State.ptpExchange_small (h : -1000 < o ∧ o < 1000) : (s.ptpExchange o).1.ptpGood = s.ptpGood + 1 ∧
    (s.ptpExchange o).1.get PTP_STAT_STATE = if 15 ≤ s.ptpGood then 2 else 1 := by
  obtain ⟨hgood, hstate⟩ := s.ptpExchange_counts o
  rw [State.ptpCount_of_small h] at hgood hstate
  refine ⟨hgood, hstate.trans ?_⟩
  simp only [show 16 ≤ s.ptpGood + 1 ↔ 15 ≤ s.ptpGood by omega]

theorem State.ptpExchange_large (h : ¬(-1000 < o ∧ o < 1000)) : (s.ptpExchange o).1.ptpGood = 0 ∧ (s.ptpExchange o).1.get PTP_STAT_STATE = 1 := by
  obtain ⟨hgood, hstate⟩ := s.ptpExchange_counts o
  rw [State.ptpCount_of_large h] at hgood hstate
  exact ⟨hgood, hstate⟩

theorem State.ptpExchange_busy_fields (h : s.stalls ≠ [] ∨ s.streamsOn = true) : (s.ptpExchange o).1.time = s.time ∧
    (s.ptpExchange o).1.slew.natAbs ≤ 100 ∧ (1000000 < o.natAbs → (s.ptpExchange o).1.get PTP_STAT_FAR = 1) := by
  rw [State.ptpExchange_busy h, State.corrected_time, State.ptpNoted_time]
  exact ⟨rfl, State.corrected_slew_le _ _, State.get_corrected_far _⟩

theorem State.ptpExchange_still_time (hstalls : s.stalls = []) (hstreams : s.streamsOn = false) : (s.ptpExchange o).1.time = s.time + (-o).toNat := by
  rw [State.ptpExchange_still hstalls hstreams, State.stepped_time, State.ptpNoted_time]
  congr 1
  omega

/-- The clock never steps backwards. -/
theorem State.time_le_ptpExchange (s : State) (o : Int) : s.time ≤ (s.ptpExchange o).1.time := by
  by_cases h : s.stalls = [] ∧ s.streamsOn = false
  · rw [State.ptpExchange_still_time h.1 h.2]
    exact Nat.le_add_right _ _
  · rw [(State.ptpExchange_busy_fields (by simpa [imp_iff_not_or] using h)).1]

theorem ptpSync_of_runs (hen : s.get PTP_CTL_EN = 1) (hruns : fwRuns s.mode = true) : ptpSync o s = (
    let s' : State := { s with ingress := s.ingress.filter fun x => x.kind != 0 }
    if (s'.ptpExchange o).2 then (s'.ptpExchange o).1.clockLost else (s'.ptpExchange o).1) := by
  unfold ptpSync
  rw [if_neg (by rw [hen, hruns]; decide)]
  dsimp only
  generalize State.ptpExchange _ o = e
  obtain ⟨t, lost⟩ := e
  cases lost <;> rfl

/-! ### Holdover and detaching (R401, R415) -/

theorem ptpHoldover_of_acquiring (hen : s.get PTP_CTL_EN = 1) (hst : s.get PTP_STAT_STATE = 1) :
    ptpHoldover s = { (s.put PTP_STAT_STATE 3).raise evPtpHoldover with ptpGood := 0 } := by
  unfold ptpHoldover
  rw [hst]
  dsimp only
  rw [if_pos ⟨hen, Or.inl rfl⟩, if_neg (by decide)]

theorem ptpHoldover_of_locked (hen : s.get PTP_CTL_EN = 1) (hst : s.get PTP_STAT_STATE = 2) :
    ptpHoldover s = State.clockLost { (s.put PTP_STAT_STATE 3).raise evPtpHoldover with ptpGood := 0 } := by
  unfold ptpHoldover
  rw [hst]
  dsimp only
  rw [if_pos ⟨hen, Or.inr rfl⟩, if_pos rfl]

theorem yrdDetach_peers (hattach : s.get YRD_CTL_ATTACH = 1) (hruns : fwRuns s.mode = true) : (yrdDetach s).peers = [] := by
  unfold yrdDetach
  rw [if_pos ⟨hattach, hruns⟩]

/-! ### The messages of a migration (R412 – R414) -/

/-- A final record above 32 MiB puts the park off. -/
theorem migrationPark_of_large {k : Nat} {m : Mig} {st : Stall} (hdue : s.migDue k = some m) (hst : s.stall? k = some st)
    (hsize : 33554432 < recordSize st) : migrationPark k s = (
      let m' : Mig := { m with attempt := m.attempt + 1, tried := st.ckptBound }
      if 8 ≤ m'.attempt then (s.setMig m').endMig eDIRTY false m' else s.setMig m') := by
  unfold migrationPark
  rw [hdue, hst]
  dsimp only
  rw [if_pos hsize]

theorem State.writeBack_mode (s : State) (st : Stall) : (s.writeBack st).mode = s.mode := by
  unfold State.writeBack State.areaWrite
  dsimp only
  split
  · rfl
  · exact foldl_field (g := State.mode) (fun t _ => t.hbmWrite_mode _ _) _ _

theorem State.park_mode (s : State) (k r : Nat) : (s.park k r false).mode = s.mode := by
  unfold State.park
  rw [if_neg Bool.false_ne_true]
  split
  · rw [State.setParked, State.setStall_mode]
    split
    · exact s.writeBack_mode _
    · rfl
  · rfl

theorem migrateReady_of_parked {k y v : Nat} {snap : Bytes} {room : Bool} {image : Option Bytes} {m : Mig} (hm : s.mig? k true = some m)
    (hparked : m.parked = true) (hready : m.ready = false) (hdoubt : m.doubt = false) : migrateReady true k y v snap room image s =
      if v = 0 then (s.setMig { m with ready := true }).sendControl m.yard 2 m.dest else s.endMig v false m := by
  unfold migrateReady
  rw [if_pos rfl, hm]
  dsimp only
  rw [if_pos (by simp [hparked, hready, hdoubt])]

theorem migrateCommit_of_found {k : Nat} {m : Mig} (hm : s.mig? k false = some m) :
    migrateCommit k s = (((s.dropMig m).unpark k rsnMIGRATE).raise evMigrateDone).sendControl m.yard 3 m.dest := by
  rw [migrateCommit, hm]

theorem commitAck_of_ready {k : Nat} {m : Mig} (hm : s.mig? k true = some m) (hready : m.ready = true) (hdoubt : m.doubt = false) :
    commitAck k s = (((((s.dropMig m).destroyStall k true).enforceLevel).raise evMigrateDone).notice nMigrateDone k m.yard m.dest) := by
  rw [commitAck, hm]
  dsimp only
  rw [if_pos (by simp [hready, hdoubt])]

end

/-! ### O46 -/

/-- Settles O46: the clock, holdover, detaching, and each message of a migration. -/
theorem clockAndMigrationComplete : Obligations.ClockAndMigrationComplete := by
  unfold Obligations.ClockAndMigrationComplete
  intro s
  refine ⟨rfl, ?_, ?_, ?_, ?_, ?_, ?_, ?_, ?_, ?_, ?_⟩
  · intro o hen hruns
    exact congrArg Host.Outcome.next (ptpSync_of_runs hen hruns)
  · intro o
    exact ⟨State.ptpExchange_small, State.ptpExchange_large, s.time_le_ptpExchange o, State.ptpExchange_busy_fields, State.ptpExchange_still_time⟩
  · intro hen hst
    exact congrArg Host.Outcome.next (ptpHoldover_of_acquiring hen hst)
  · intro hen hst
    exact congrArg Host.Outcome.next (ptpHoldover_of_locked hen hst)
  · intro hattach hruns
    exact ⟨_, rfl, yrdDetach_peers hattach hruns⟩
  · intro k m st hdue hst hsize
    exact congrArg Host.Outcome.next (migrationPark_of_large hdue hst hsize)
  · intro k m st hdue hst hsize
    refine congrArg Host.Outcome.next (?_ : migrationPark k s = _)
    unfold migrationPark
    rw [hdue, hst]
    dsimp only
    rw [if_neg (Nat.not_lt.2 hsize)]
    refine congrArg (fun c => State.forwardFlows c k m.yard m.dest) ?_
    have hmode : (s.park k rsnMIGRATE false).mode = s.mode := State.park_mode _ _ _
    revert hmode
    generalize (s.park k rsnMIGRATE false).mode = mode
    rintro rfl
    generalize State.setMig _ _ = b
    generalize (b.stall? k).bind newestComplete = c
    generalize b.stall? k = st'
    cases c <;> cases st' <;> rfl
  · intro k y snap room image m hm hparked hready hdoubt
    have hanswer (v : Nat) := migrateReady_of_parked (y := y) (v := v) (snap := snap) (room := room) (image := image) hm hparked hready hdoubt
    exact ⟨congrArg Host.Outcome.next ((hanswer 0).trans (if_pos rfl)), fun v hv => congrArg Host.Outcome.next ((hanswer v).trans (if_neg hv))⟩
  · intro k m hm
    exact congrArg Host.Outcome.next (migrateCommit_of_found hm)
  · intro k m hm hready hdoubt
    exact congrArg Host.Outcome.next (commitAck_of_ready hm hready hdoubt)

end Sys2Proof.Machine
end

section
/-! SUPPORT. The yard transport, HELLOs and routes (O45; R391, R402 – R408). -/
namespace Sys2Proof.Machine

/-! ### What sending leaves alone -/

theorem State.emit_eq (s : State) (o : Out) : ∃ out, s.emit o = { s with out := out } := by
  unfold State.emit
  split
  · exact ⟨s.out, rfl⟩
  · exact ⟨_, rfl⟩

theorem State.emit_of_free {s : State} (h : s.pinsHeld = false) (o : Out) : (s.emit o).out = s.out ++ [o] := by
  rw [State.emit, h, Bool.and_false, if_neg Bool.false_ne_true]

/-- Sending to a peer spends a packet number and a turn of it, and emits. -/
theorem State.ySend_eq (s : State) (p : Peer) (ty cls seq : Nat) (data : Bytes) : ∃ txPn turn out,
    s.ySend p ty cls seq data = ({ p with txPn := txPn, turn := turn }, { s with out := out }) := by
  unfold State.ySend State.ySendTo
  split
  · exact ⟨p.txPn, p.turn, s.out, rfl⟩
  · dsimp only
    obtain ⟨out, hout⟩ := s.emit_eq (.packet _ _)
    exact ⟨_, _, out, Prod.ext rfl hout⟩

section
variable (s : State) (p : Peer) (ty cls seq : Nat) (data : Bytes)

theorem State.ySend_ingress : (s.ySend p ty cls seq data).2.ingress = s.ingress := by
  obtain ⟨txPn, turn, out, h⟩ := s.ySend_eq p ty cls seq data
  rw [h]

theorem State.ySend_rxHeld : (s.ySend p ty cls seq data).1.rxHeld = p.rxHeld := by
  obtain ⟨txPn, turn, out, h⟩ := s.ySend_eq p ty cls seq data
  rw [h]

theorem State.ySend_rxExp : (s.ySend p ty cls seq data).1.rxExp = p.rxExp := by
  obtain ⟨txPn, turn, out, h⟩ := s.ySend_eq p ty cls seq data
  rw [h]

end

theorem State.setPeer_ingress (s : State) (p : Peer) : (s.setPeer p).ingress = s.ingress := rfl

theorem State.sendAck_ingress (s : State) (p : Peer) : (s.sendAck p).ingress = s.ingress :=
  State.ySend_ingress s { p with rxDue := 0 } 2 0 p.rxExp []

theorem State.sendNak_ingress (s : State) (p : Peer) (top : Nat) : (s.sendNak p top).ingress = s.ingress :=
  State.ySend_ingress s { p with nakAt := some s.time } 3 0 p.rxExp _

/-! ### Delivery in order (R407) -/

/-- A delivered control message, as it waits for its handling. -/
def controlItem (y time : Nat) (data : Bytes) : Ingress := { kind := 4, port := 0, who := y, mac := 0, data := data, at_ := time }

theorem State.deliverData_control (s : State) (y : Nat) {d : YData} (h : d.cls = 0) :
    s.deliverData y d = { s with ingress := s.ingress ++ [controlItem y s.time d.data] } := by
  rw [State.deliverData, h]
  rfl

theorem State.latchInput_ingress (s : State) (k player seq : Nat) (data : Bytes) : (s.latchInput k player seq data).ingress = s.ingress := by
  unfold State.latchInput State.latchAt
  split
  · rfl
  · split
    · rfl
    · split
      · exact State.put_ingress _ _ _
      · rfl

theorem State.latchInput_time (s : State) (k player seq : Nat) (data : Bytes) : (s.latchInput k player seq data).time = s.time := by
  unfold State.latchInput State.latchAt
  split
  · rfl
  · split
    · rfl
    · split
      · exact State.put_time _ _ _
      · rfl

theorem State.latchEarly_ingress (s : State) (k player seq : Nat) (data : Bytes) : (s.latchEarly k player seq data).ingress = s.ingress := by
  unfold State.latchEarly
  split
  · exact State.put_ingress _ _ _
  · rfl

theorem State.latchEarly_time (s : State) (k player seq : Nat) (data : Bytes) : (s.latchEarly k player seq data).time = s.time := by
  unfold State.latchEarly
  split
  · exact State.put_time _ _ _
  · rfl

theorem State.deliverData_ingress (s : State) (y : Nat) {d : YData} (h : d.cls ≠ 0) : (s.deliverData y d).ingress = s.ingress := by
  unfold State.deliverData
  split
  · contradiction
  · rfl
  · dsimp only
    split
    · exact s.latchInput_ingress _ _ _ _
    · exact s.latchEarly_ingress _ _ _ _
  · rfl

theorem State.deliverData_time (s : State) (y : Nat) (d : YData) : (s.deliverData y d).time = s.time := by
  unfold State.deliverData
  split
  · rfl
  · rfl
  · dsimp only
    split
    · exact s.latchInput_time _ _ _ _
    · exact s.latchEarly_time _ _ _ _
  · rfl

/-- A peer from which the next packet in order has been delivered, with nothing held. -/
def Peer.inOrder (p : Peer) (time : Nat) : Peer :=
  { p with rxExp := p.rxExp + 1, rxHeld := [], rxDue := p.rxDue + 1, rxSince := if p.rxDue = 0 then time else p.rxSince }

/-- A peer from which one packet above those delivered has come. -/
def Peer.holding (p : Peer) (d : YData) : Peer := { p with rxHeld := p.rxHeld ++ [d] }

section
variable {s : State} {p : Peer} {d : YData}

theorem State.deliverNext_few (hheld : p.rxHeld = []) (hdue : p.rxDue < 15) :
    s.deliverNext (p.holding d) d = (s.deliverData p.yard d, p.inOrder s.time) := by
  unfold State.deliverNext
  dsimp only
  rw [if_neg (by show ¬16 ≤ p.rxDue + 1; omega), State.deliverData_time]
  simp [Peer.holding, Peer.inOrder, hheld]

theorem State.deliverNext_due (hheld : p.rxHeld = []) (hdue : 15 ≤ p.rxDue) : s.deliverNext (p.holding d) d =
    ((s.deliverData p.yard d).ySend { p.inOrder s.time with rxDue := 0 } 2 0 (p.rxExp + 1) []).swap := by
  unfold State.deliverNext
  dsimp only
  rw [if_pos (by show 16 ≤ p.rxDue + 1; omega), State.deliverData_time]
  simp [Peer.holding, Peer.inOrder, hheld, Prod.swap]

theorem State.drainHeld_of_empty (n : Nat) (h : p.rxHeld = []) : State.drainHeld n s p = (s, p) := by
  cases n with
  | zero => rfl
  | succ n => rw [State.drainHeld, h, List.find?_nil]

theorem State.drainHeld_next (n : Nat) (hheld : p.rxHeld = []) (hseq : d.seq = p.rxExp) {t : State} {q : Peer}
    (hnext : s.deliverNext (p.holding d) d = (t, q)) (hq : q.rxHeld = []) : State.drainHeld (n + 1) s (p.holding d) = (t, q) := by
  have hfind : (p.holding d).rxHeld.find? (fun x => x.seq == (p.holding d).rxExp) = some d := by simp [Peer.holding, hheld, hseq]
  rw [State.drainHeld, hfind]
  dsimp only
  rw [hnext]
  exact State.drainHeld_of_empty n hq

end

/-! ### Reception of DATA, ACK and NAK (R403, R407) -/

section
variable {s s' : State} {p : Peer} {seq cls : Nat} {pt : Bytes}

theorem yardDataTake_again (h : s.yardTake 1 = (some (p, seq, cls, pt), s'))
    (hold : seq < p.rxExp ∨ p.rxHeld.any (fun d => d.seq == seq) = true) : yardDataTake s = s'.sendAck p := by
  unfold yardDataTake
  rw [h]
  exact if_pos hold

theorem yardDataTake_far (h : s.yardTake 1 = (some (p, seq, cls, pt), s')) (hnew : p.rxHeld.any (fun d => d.seq == seq) = false)
    (hfar : p.rxExp + 64 ≤ seq) : yardDataTake s = s'.sendNak p seq := by
  unfold yardDataTake
  rw [h]
  refine (if_neg ?_).trans (if_pos hfar)
  rw [hnew]
  rintro (hlt | hheld)
  · omega
  · cases hheld

theorem yardDataTake_next (h : s.yardTake 1 = (some (p, seq, cls, pt), s')) (hheld : p.rxHeld = []) (hseq : seq = p.rxExp) {t : State} {q : Peer}
    (hnext : s'.deliverNext (p.holding { seq := seq, cls := cls, data := pt, at_ := s'.time }) { seq := seq, cls := cls, data := pt, at_ := s'.time } = (t, q))
    (hq : q.rxHeld = []) (hexp : q.rxExp ≠ p.rxExp) : yardDataTake s = t.setPeer { q with nakAt := none } := by
  have hdrain := State.drainHeld_next 64 hheld hseq hnext hq
  unfold yardDataTake
  rw [h]
  refine (if_neg ?_).trans ((if_neg (by omega)).trans ?_)
  · rw [hheld, hseq]
    simp
  · unfold Peer.holding at hdrain
    dsimp only
    rw [hdrain]
    dsimp only
    rw [if_neg hexp]

/-- Without a control message delivered there is nothing more to do. -/
theorem yardDataReceive_of_quiet {t : State} (h : yardDataTake s = t) (hquiet : (t.ingress.filter fun x => x.kind == 4) = []) :
    yardDataReceive s = t := by
  rw [yardDataReceive, h, hquiet, List.foldl_nil]

/-- The one control message that was delivered is acted on. -/
theorem yardDataReceive_of_control {t : State} {x : Ingress} {l : List Ingress} (h : yardDataTake s = t) (hin : t.ingress = l ++ [x])
    (hx : x.kind = 4) (hquiet : (l.filter fun x => x.kind == 4) = []) :
    yardDataReceive s = State.controlIn { t with ingress := l } x := by
  have hnot : x ∉ l := fun hmem => by
    have : x ∈ l.filter fun x => x.kind == 4 := List.mem_filter.2 ⟨hmem, by simp [hx]⟩
    rw [hquiet] at this
    cases this
  have hone : (t.ingress.filter fun x => x.kind == 4) = [x] := by simp [hin, hquiet, hx]
  have herase : t.ingress.erase x = l := by rw [hin, List.erase_append_right _ hnot, List.erase_cons_head, List.append_nil]
  rw [yardDataReceive, h, hone, List.foldl_cons, List.foldl_nil, herase]

variable (h : s.yardTake 1 = (some (p, seq, cls, pt), s')) (hquiet : (s'.ingress.filter fun x => x.kind == 4) = [])
include h hquiet

theorem yardDataReceive_again (hold : seq < p.rxExp ∨ p.rxHeld.any (fun d => d.seq == seq) = true) : yardDataReceive s = s'.sendAck p :=
  yardDataReceive_of_quiet (yardDataTake_again h hold) (by rw [State.sendAck_ingress, hquiet])

theorem yardDataReceive_far (hnew : p.rxHeld.any (fun d => d.seq == seq) = false) (hfar : p.rxExp + 64 ≤ seq) :
    yardDataReceive s = s'.sendNak p seq :=
  yardDataReceive_of_quiet (yardDataTake_far h hnew hfar) (by rw [State.sendNak_ingress, hquiet])

section
variable (hheld : p.rxHeld = []) (hseq : seq = p.rxExp)
include hheld hseq

theorem yardDataReceive_few (hdue : p.rxDue < 15) (hcls : cls ≠ 0) : yardDataReceive s =
    (s'.deliverData p.yard { seq := seq, cls := cls, data := pt, at_ := s'.time }).setPeer { p.inOrder s'.time with nakAt := none } :=
  yardDataReceive_of_quiet
    (yardDataTake_next h hheld hseq (State.deliverNext_few hheld hdue) rfl (Nat.succ_ne_self _))
    (by rw [State.setPeer_ingress, State.deliverData_ingress _ _ hcls, hquiet])

theorem yardDataReceive_control (hdue : p.rxDue < 15) (hcls : cls = 0) : yardDataReceive s =
    (s'.setPeer { p.inOrder s'.time with nakAt := none }).controlIn (controlItem p.yard s'.time pt) := by
  have hdata := s'.deliverData_control p.yard (d := { seq := seq, cls := cls, data := pt, at_ := s'.time }) hcls
  have htake := yardDataTake_next h hheld hseq (State.deliverNext_few hheld hdue) rfl (Nat.succ_ne_self _)
  rw [hdata] at htake
  exact yardDataReceive_of_control htake rfl rfl hquiet

theorem yardDataReceive_due (hdue : 15 ≤ p.rxDue) (hcls : cls ≠ 0) : yardDataReceive s = (
    let a := (s'.deliverData p.yard { seq := seq, cls := cls, data := pt, at_ := s'.time }).ySend { p.inOrder s'.time with rxDue := 0 } 2 0 (p.rxExp + 1) []
    a.2.setPeer { a.1 with nakAt := none }) :=
  yardDataReceive_of_quiet
    (yardDataTake_next h hheld hseq (State.deliverNext_due hheld hdue) (State.ySend_rxHeld _ _ _ _ _ _)
      (by rw [State.ySend_rxExp]; exact Nat.succ_ne_self _))
    (by rw [State.setPeer_ingress, State.ySend_ingress, State.deliverData_ingress _ _ hcls, hquiet])

end
end

section
variable {s s' : State} {p : Peer} {seq cls y : Nat} {pt : Bytes}

theorem yardAckReceive_of_advance (h : s.yardTake 2 = (some (p, seq, cls, pt), s'))
    (hleft : (p.unacked.filter fun d => decide (seq ≤ d.seq)).length < p.unacked.length) : yardAckReceive s =
      s'.pumpPeer { p with unacked := p.unacked.filter fun d => decide (seq ≤ d.seq), advAt := s'.time, resentAt := s'.time } := by
  unfold yardAckReceive
  rw [h]
  exact if_pos hleft

theorem yardNakReceive_of_taken (h : s.yardTake 3 = (some (p, seq, cls, pt), s')) : yardNakReceive s = s'.resend p (p.unacked.filter fun d =>
    d.seq == seq || (decide (seq < d.seq) && decide (d.seq - seq - 1 < 64) && bitAt (beAt pt 0 8) (d.seq - seq - 1))) := by
  unfold yardNakReceive
  rw [h]

theorem ackTimer_of_due (hp : s.peer? y = some p) (hatt : s.attached = true) (hdue : 0 < p.rxDue) (ht : p.rxSince + 20000 ≤ s.time) :
    ackTimer y s = s.sendAck p := by
  rw [ackTimer, hp]
  exact if_pos ⟨hatt, hdue, ht⟩

theorem nakTimer_of_due {t : Nat} (hp : s.peer? y = some p) (hatt : s.attached = true) (hgap : p.gapAt = some t) (ht : t + 20000 ≤ s.time)
    (hnak : p.nakAt = none) : nakTimer y s = s.sendNak p (p.rxHeld.foldl (fun m d => max m d.seq) 0) := by
  rw [nakTimer, hp]
  dsimp only
  rw [hgap]
  exact if_pos ⟨hatt, ht, by rw [hnak]; rfl⟩

theorem retransmitTimeout_of_due (hp : s.peer? y = some p) (hatt : s.attached = true) (hout : p.unacked ≠ [])
    (ht : max p.advAt p.resentAt + 200000 ≤ s.time) : retransmitTimeout y s = s.resend { p with resentAt := s.time } p.unacked := by
  rw [retransmitTimeout, hp]
  exact if_pos ⟨hatt, by simpa using hout, ht⟩

theorem peerUnreachable_of_stale (hp : s.peer? y = some p) (hstale : peerStale s.time p = true) : peerUnreachable y s =
    (((s.raise evPeerLost).linkLost (linksTo p)).setPeer
      { p with up := false, unacked := [], queued := [], rxHeld := [], rxDue := 0, nakAt := none }).endMigs eUNREACHABLE true
        fun m => m.yard == y := by
  rw [peerUnreachable, hp]
  exact if_pos hstale

end

/-! ### HELLOs (R404) -/

/-- The payload and the packet of a HELLO. -/
def State.helloPay (s : State) (port : Nat) : Bytes :=
  let left := nthD s.leaving port 0
  let n := nthD s.hellos port 0 + 1
  let list := if n % 1000 = 0 then s.heardYards.take 32 else []
  let own := if 0 < left then s.leaveYard else s.get YRD_NUMBER_YARD
  beBytes 4 (own + b2n (decide (0 < left)) * 2 ^ 20 + b2n (n % 1000 == 0) * 2 ^ 21) ++
    beBytes 1 port ++ beBytes 1 list.length ++ beBytes 2 0 ++ list.flatMap fun y => beBytes 4 y

def State.helloPacket (s : State) (port : Nat) : Bytes :=
  s.yPacket (if 0 < nthD s.leaving port 0 then s.leaveYard else s.get YRD_NUMBER_YARD) 4 0 0 yBROADCAST s.mcastPn 0 (s.helloPay port)

/-- The counters of a port's HELLOs once one more has left. -/
def State.helloCounted (s : State) (port : Nat) : State where
  __ := s
  mcastPn := s.mcastPn + 1
  hellos := setNth s.hellos port (nthD s.hellos port 0 + 1)
  helloAt := setNth s.helloAt port s.time
  leaving := setNth s.leaving port (nthD s.leaving port 0 - 1)

theorem State.ySendTo_eq (s : State) (port mac : Nat) (dst data : Bytes) : ∃ out, s.ySendTo port mac dst data = { s with out := out } :=
  s.emit_eq _

theorem State.ySendTo_of_free {s : State} (h : s.pinsHeld = false) (port mac : Nat) (dst data : Bytes) :
    ∃ w : Wire, (s.ySendTo port mac dst data).out = s.out ++ [.packet port w] ∧ w.dst = dst ∧ w.mac = mac :=
  ⟨_, State.emit_of_free h _, rfl, rfl⟩

theorem helloSend_of_due {s : State} {port : Nat} (hport : port < 8) (hup : s.portUp port = true) (hen : s.get YRD_CTL_EN = 1)
    (ht : nthD s.helloAt port 0 + 100000 ≤ s.time) (hpn : s.mcastPn < 2 ^ 56) (hin : s.attached = true ∨ 0 < nthD s.leaving port 0) :
    helloSend port s = (s.ySendTo port yardGroupMac yardGroup (s.helloPacket port)).helloCounted port := by
  unfold helloSend
  refine (if_neg ?_).trans ?_
  · rintro (h | h | h | h | ⟨hatt, hleft⟩ | h)
    · omega
    · rw [hup] at h
      cases h
    · omega
    · omega
    · rcases hin with hin | hin
      · rw [hin] at hatt
        cases hatt
      · omega
    · omega
  · obtain ⟨out, hout⟩ := s.ySendTo_eq port yardGroupMac yardGroup (s.helloPacket port)
    unfold State.helloPacket State.helloPay at hout ⊢
    dsimp only at hout ⊢
    rw [hout]
    rfl

/-- The stalls, the streams on the wire and the devices heard directly are those of another state. -/
def SameHeard (s t : State) : Prop := t.stalls = s.stalls ∧ t.nets = s.nets ∧ t.heard = s.heard

theorem SameHeard.refl (s : State) : SameHeard s s := ⟨rfl, rfl, rfl⟩
theorem SameHeard.trans {s t u : State} (h : SameHeard s t) (h' : SameHeard t u) : SameHeard s u :=
  ⟨h'.1.trans h.1, h'.2.1.trans h.2.1, h'.2.2.trans h.2.2⟩

theorem SameHeard.foldl {α : Type} {f : State → α → State} (hf : ∀ s a, SameHeard s (f s a)) (l : List α) (s : State) : SameHeard s (l.foldl f s) := by
  induction l generalizing s with
  | nil => exact SameHeard.refl s
  | cons a l ih => exact (hf s a).trans (ih (f s a))

theorem State.put_sameHeard (s : State) (f : Fld) (v : Nat) : SameHeard s (s.put f v) := 
  ⟨State.put_stalls _ _ _, State.put_nets _ _ _, State.put_heard _ _ _⟩
theorem State.notePaths_sameHeard (s : State) : SameHeard s s.notePaths := ⟨rfl, rfl, rfl⟩
theorem State.notePeers_sameHeard (s : State) (port : Nat) : SameHeard s (s.notePeers port) := s.put_sameHeard _ _

/-- Writing route entries to HBM. -/
theorem SameHeard.writes (s : State) (bs : YRoute → Bytes) (l : List YRoute) :
    SameHeard s (l.foldl (fun (s : State) r => s.hbmWrite (s.routeAddr r.entry) (bs r)) s) := by
  refine SameHeard.foldl (fun t r => ?_) l s
  exact ⟨t.hbmWrite_stalls _ _, t.hbmWrite_nets _ _, t.hbmWrite_heard _ _⟩

theorem State.setRoutes_sameHeard (s : State) (l : List YRoute) : SameHeard s (s.setRoutes l) := by
  unfold State.setRoutes
  have hset : SameHeard s { s with routes := l } := ⟨rfl, rfl, rfl⟩
  exact (hset.trans (SameHeard.writes _ (fun _ => List.replicate 48 0) _)).trans (SameHeard.writes _ YRoute.bytes _)

theorem State.dropPaths_sameHeard (s : State) (bad : YRoute → YPath → Bool) : SameHeard s (s.dropPaths bad) :=
  (s.setRoutes_sameHeard _).trans (State.notePaths_sameHeard _)

theorem State.learn_sameHeard (s : State) (y : Nat) (q : YPath) : SameHeard s (s.learn y q) := by
  unfold State.learn
  split
  · exact s.setRoutes_sameHeard _
  · split
    · exact s.setRoutes_sameHeard _
    · exact SameHeard.refl s

theorem State.peerUp_sameHeard (s : State) (y : Nat) : SameHeard s (s.peerUp y) := by
  unfold State.peerUp
  split
  · split
    · exact SameHeard.refl s
    · exact State.put_sameHeard _ _ _
  · exact ⟨rfl, rfl, rfl⟩

/-- The state without an item of the ingress queue. -/
def State.without (s : State) (x : Ingress) : State := { s with ingress := s.ingress.erase x }

/-- The packet numbers of HELLOs accepted from a device. -/
def State.helloSeen (s : State) (src : Nat) : List Nat := (lookupN src s.helloPns).getD []
def State.acceptHello (s : State) (src pn : Nat) : State := { s with helloPns := insertN src (pnInsert (s.helloSeen src) pn) s.helloPns }

/-- A device is heard directly on a port. -/
def State.hears (s : State) (src : Nat) (x : Ingress) : State :=
  { s with heard := (s.heard.filter fun h => !(h.yard == src && h.port == x.port)) ++ [⟨x.port, src, x.mac, s.time⟩] }

/-- What hardware routing learns of a HELLO: the 1-hop path and, from a list, the 2-hop paths. -/
def State.learnList (s : State) (src own : Nat) (x : Ingress) (pt : Bytes) : State :=
  if bitAt (beAt pt 0 4) 21 then
    let ns := (upto (min 32 (beAt pt 5 1))).map fun i => beAt pt (8 + 4 * i) 4 % 2 ^ 20
    let s := s.dropPaths fun r p => p.hops == 2 && p.via == src && p.port == x.port && !ns.contains r.yard
    (ns.filter fun y => y != own).foldl (fun s y => s.learn y { mac := x.mac, port := x.port, hops := 2, heard := s.time, via := src }) s
  else s

def State.learnHello (s : State) (src own : Nat) (x : Ingress) (pt : Bytes) : State :=
  if !s.learns then s
  else ((s.learn src { mac := x.mac, port := x.port, hops := 1, heard := s.time, via := 0 }).learnList src own x pt).notePaths

theorem State.learnList_sameHeard (s : State) (src own : Nat) (x : Ingress) (pt : Bytes) : SameHeard s (s.learnList src own x pt) := by
  unfold State.learnList
  split
  · exact (s.dropPaths_sameHeard _).trans (SameHeard.foldl (fun _ _ => State.learn_sameHeard _ _ _) _ _)
  · exact SameHeard.refl s

theorem State.learnHello_sameHeard (s : State) (src own : Nat) (x : Ingress) (pt : Bytes) : SameHeard s (s.learnHello src own x pt) := by
  unfold State.learnHello
  split
  · exact SameHeard.refl s
  · exact ((s.learn_sameHeard _ _).trans (State.learnList_sameHeard _ _ _ _ _)).trans (State.notePaths_sameHeard _)

section
variable {s : State} {x : Ingress} {pt : Bytes} (hx : s.takeYard 4 = some x) (hatt : s.attached = true)
include hx hatt

theorem helloReceive_bad (hopen : (s.without x).yardOpen x.data = none) : helloReceive s = (s.without x).inc YRD_YARD_DROP_AUTH := by
  unfold helloReceive
  rw [hx]
  refine (if_neg (show ¬(!(s.without x).attached) = true from ?_)).trans ?_
  · rw [show (s.without x).attached = true from hatt]
    decide
  · unfold State.without at hopen
    rw [hopen]
    rfl

variable (hopen : (s.without x).yardOpen x.data = some pt)
include hopen

theorem helloReceive_conflict (hsrc : beAt x.data 4 4 = (s.without x).get YRD_NUMBER_YARD) (hmac : x.mac ≠ portMac x.port)
    (hother : (upto 8).any (fun n => portMac n == x.mac) = false) :
    helloReceive s = ((s.without x).put YRD_NUMBER_CONFLICT 1).raise 0x079 := by
  unfold helloReceive
  rw [hx]
  refine (if_neg (show ¬(!(s.without x).attached) = true from ?_)).trans ?_
  · rw [show (s.without x).attached = true from hatt]
    decide
  · unfold State.without at hopen
    rw [hopen]
    exact (if_pos hsrc).trans (if_pos ⟨hmac, by rw [hother]; rfl⟩)

theorem helloReceive_replayed (hsrc : beAt x.data 4 4 ≠ (s.without x).get YRD_NUMBER_YARD)
    (hseen : pnSeen ((s.without x).helloSeen (beAt x.data 4 4)) (beAt x.data 12 8) = true) :
    helloReceive s = (s.without x).inc YRD_YARD_DROP_AUTH := by
  unfold helloReceive
  rw [hx]
  refine (if_neg (show ¬(!(s.without x).attached) = true from ?_)).trans ?_
  · rw [show (s.without x).attached = true from hatt]
    decide
  · unfold State.without at hopen
    rw [hopen]
    exact (if_neg hsrc).trans (if_pos hseen)

theorem helloReceive_new (hsrc : beAt x.data 4 4 ≠ (s.without x).get YRD_NUMBER_YARD)
    (hseen : pnSeen ((s.without x).helloSeen (beAt x.data 4 4)) (beAt x.data 12 8) = false) (hstays : bitAt (beAt pt 0 4) 20 = false)
    (hlearns : s.learns = true) : helloReceive s =
      ((((s.without x).acceptHello (beAt x.data 4 4) (beAt x.data 12 8)).peerUp (beAt x.data 4 4)).hears (beAt x.data 4 4) x |>.notePeers x.port).learnHello
        (beAt x.data 4 4) ((s.without x).get YRD_NUMBER_YARD) x pt := by
  unfold helloReceive
  rw [hx]
  refine (if_neg (show ¬(!(s.without x).attached) = true from ?_)).trans ?_
  · rw [show (s.without x).attached = true from hatt]
    decide
  · unfold State.without at hopen
    rw [hopen]
    refine (if_neg hsrc).trans ((if_neg (show ¬pnSeen ((s.without x).helloSeen (beAt x.data 4 4)) (beAt x.data 12 8) = true by rw [hseen]; decide)).trans ?_)
    refine (if_neg (show ¬bitAt (beAt pt 0 4) 20 = true by rw [hstays]; decide)).trans ?_
    have hlearns' : ((s.without x).acceptHello (beAt x.data 4 4) (beAt x.data 12 8)).learns = true := hlearns
    unfold State.acceptHello State.without State.helloSeen at hlearns'
    rw [if_pos hlearns']
    rfl

end

theorem routeTimeout_of_due {s : State} {port y : Nat} {h : Heard} (hh : s.heard.find? (fun h => h.port == port && h.yard == y) = some h)
    (ht : h.at_ + 300000 ≤ s.time) : routeTimeout port y s = (
      let s' : State := { s with heard := s.heard.erase h }
      (if s'.learns then s'.dropNeighbour y port else s').notePeers port) := by
  rw [routeTimeout, hh]
  exact if_pos ht

theorem yrdLoad_of_serving {s : State} (table i : Nat) (h : blocksServe s.mode = true) :
    yrdLoad table i s = (s.puts [(YRD_LOAD_INDEX, i), (YRD_LOAD_TABLE, table)]).loadEntry (table % 4) (i % 2 ^ 14) := by
  rw [yrdLoad, h]
  rfl

/-! ### O45 -/

/-- What a DATA packet does, as O45 says it. -/
theorem yardDataReceive_acts {s s' : State} {p : Peer} {seq cls : Nat} {pt : Bytes} (h : s.yardTake 1 = (some (p, seq, cls, pt), s'))
    (hquiet : (s'.ingress.filter fun x => x.kind == 4) = []) (hheld : p.rxHeld = []) (hseq : seq = p.rxExp) :
    let u := s'.deliverData p.yard { seq := seq, cls := cls, data := pt, at_ := s'.time }
    let q := p.inOrder s'.time
    (p.rxDue < 15 → cls ≠ 0 → yardDataReceive s = u.setPeer { q with nakAt := none }) ∧
    (p.rxDue < 15 → cls = 0 → yardDataReceive s = (s'.setPeer { q with nakAt := none }).controlIn (controlItem p.yard s'.time pt)) ∧
    (15 ≤ p.rxDue → cls ≠ 0 → yardDataReceive s =
      (let a := u.ySend { q with rxDue := 0 } 2 0 q.rxExp []
       a.2.setPeer { a.1 with nakAt := none })) :=
  ⟨yardDataReceive_few h hquiet hheld hseq, yardDataReceive_control h hquiet hheld hseq, yardDataReceive_due h hquiet hheld hseq⟩

theorem helloSend_acts {s : State} {port : Nat} (hport : port < 8) (hup : s.portUp port = true) (hen : s.get YRD_CTL_EN = 1)
    (ht : nthD s.helloAt port 0 + 100000 ≤ s.time) (hpn : s.mcastPn < 2 ^ 56) (hin : s.attached = true ∨ 0 < nthD s.leaving port 0) :
    ∃ t, exec (.helloSend port) s = .next t ∧ t.mcastPn = s.mcastPn + 1 ∧ t.helloAt = setNth s.helloAt port s.time ∧
      t.hellos = setNth s.hellos port (nthD s.hellos port 0 + 1) ∧ t.leaving = setNth s.leaving port (nthD s.leaving port 0 - 1) ∧
      (s.pinsHeld = false → ∃ w, t.out = s.out ++ [.packet port w] ∧ w.dst = yardGroup ∧ w.mac = yardGroupMac) := by
  have hsent := helloSend_of_due hport hup hen ht hpn hin
  refine ⟨_, congrArg Host.Outcome.next hsent, ?_⟩
  have hout (h : s.pinsHeld = false) := State.ySendTo_of_free h port yardGroupMac yardGroup (s.helloPacket port)
  obtain ⟨out, heq⟩ := s.ySendTo_eq port yardGroupMac yardGroup (s.helloPacket port)
  rw [heq] at hout ⊢
  exact ⟨rfl, rfl, rfl, rfl, hout⟩

theorem helloReceive_hears {s : State} {x : Ingress} {pt : Bytes} (hx : s.takeYard 4 = some x) (hatt : s.attached = true)
    (hopen : (s.without x).yardOpen x.data = some pt) (hsrc : beAt x.data 4 4 ≠ (s.without x).get YRD_NUMBER_YARD)
    (hseen : pnSeen ((s.without x).helloSeen (beAt x.data 4 4)) (beAt x.data 12 8) = false) (hstays : bitAt (beAt pt 0 4) 20 = false)
    (hlearns : s.learns = true) : (helloReceive s).stalls = s.stalls ∧
      ((helloReceive s).heard.any fun h => h.yard == beAt x.data 4 4 && h.port == x.port) = true := by
  rw [helloReceive_new hx hatt hopen hsrc hseen hstays hlearns]
  obtain ⟨hstalls, _, hheard⟩ := (State.notePeers_sameHeard ((((s.without x).acceptHello (beAt x.data 4 4) (beAt x.data 12 8)).peerUp
    (beAt x.data 4 4)).hears (beAt x.data 4 4) x) x.port).trans
      (State.learnHello_sameHeard _ (beAt x.data 4 4) ((s.without x).get YRD_NUMBER_YARD) x pt)
  refine ⟨hstalls.trans (State.peerUp_sameHeard _ _).1, ?_⟩
  rw [hheard]
  simp [State.hears]

/-- Settles O45: each message and timer of the transport, HELLOs, a neighbour that is gone, and loads. -/
theorem yardTransportComplete : Obligations.YardTransportComplete := by
  unfold Obligations.YardTransportComplete
  refine ⟨fun s s' p seq cls pt => ⟨fun h hquiet => ⟨fun hold => ?_, fun hnew hfar => ?_, fun hheld hseq => ?_⟩, fun h hleft => ?_, fun h => ?_,
    fun y hp hatt => ⟨fun hdue ht => ?_, fun t hgap ht hnak => ?_, fun hout ht => ?_⟩, fun y hp hstale => ?_⟩,
    fun s => ⟨fun port hport hup hen ht hpn hin => ?_, fun x hx hatt => ?_, fun port y h hh ht => ?_, fun table i hserve => ?_⟩⟩
  · exact congrArg Host.Outcome.next (yardDataReceive_again h hquiet hold)
  · exact congrArg Host.Outcome.next (yardDataReceive_far h hquiet hnew hfar)
  · obtain ⟨hfew, hcontrol, hdue⟩ := yardDataReceive_acts h hquiet hheld hseq
    exact ⟨fun hd hc => congrArg Host.Outcome.next (hfew hd hc), fun hd hc => congrArg Host.Outcome.next (hcontrol hd hc),
      fun hd hc => congrArg Host.Outcome.next (hdue hd hc)⟩
  · exact congrArg Host.Outcome.next (yardAckReceive_of_advance h hleft)
  · exact congrArg Host.Outcome.next (yardNakReceive_of_taken h)
  · exact congrArg Host.Outcome.next (ackTimer_of_due hp hatt hdue ht)
  · exact congrArg Host.Outcome.next (nakTimer_of_due hp hatt hgap ht hnak)
  · exact congrArg Host.Outcome.next (retransmitTimeout_of_due hp hatt hout ht)
  · exact congrArg Host.Outcome.next (peerUnreachable_of_stale hp hstale)
  · exact helloSend_acts hport hup hen ht hpn hin
  · refine ⟨fun hopen => congrArg Host.Outcome.next (helloReceive_bad hx hatt hopen), fun pt hopen => ⟨fun hsrc hmac hother => ?_,
      fun hsrc hseen => ?_, fun hsrc hseen hstays hroute => ?_⟩⟩
    · exact congrArg Host.Outcome.next (helloReceive_conflict hx hatt hopen hsrc hmac hother)
    · exact congrArg Host.Outcome.next (helloReceive_replayed hx hatt hopen hsrc hseen)
    · exact ⟨_, rfl, helloReceive_hears hx hatt hopen hsrc hseen hstays (by rw [State.learns, hroute]; rfl)⟩
  · exact congrArg Host.Outcome.next (routeTimeout_of_due hh ht)
  · exact congrArg Host.Outcome.next (yrdLoad_of_serving table i hserve)

end Sys2Proof.Machine
end

section
/-! SUPPORT. Ports, frames, input datagrams, RTCP and media packets (O44; R384 – R398). -/
namespace Sys2Proof.Machine

/-! ### Ports (R384, R385) -/

theorem portTrained_of_enabled {s : State} {n : Nat} (hn : n < 8) (hen : s.get (portCtl n YRD_PORT_CTL_EN) = 1)
    (hst : s.get (portCtl n YRD_PORT_STAT_STATE) ≠ 2) : portTrained n s =
      (s.put (portCtl n YRD_PORT_STAT_STATE) (if s.get (portCtl n YRD_PORT_STAT_STATE) = 3 then 1 else 2)).notePorts :=
  if_pos ⟨hn, hen, hst⟩

theorem State.toMode_sameHeard (s : State) (m : Mode) (detail : Nat) : SameHeard s (s.toMode m detail) :=
  ⟨State.toMode_stalls _ _ _, State.toMode_field (g := State.nets) (fun _ _ _ _ _ _ _ _ => rfl) s m detail,
    State.toMode_field (g := State.heard) (fun _ _ _ _ _ _ _ _ => rfl) s m detail⟩

theorem State.followDegrade_sameHeard (s : State) : SameHeard s s.followDegrade := by
  have hserve : SameHeard s s.enterServe := by
    unfold State.enterServe
    split <;> exact State.toMode_sameHeard _ _ _
  unfold State.followDegrade
  split
  · split
    · exact SameHeard.refl s
    · exact hserve
  · split
    · exact hserve
    · exact ⟨rfl, rfl, rfl⟩
  · exact SameHeard.refl s

theorem State.notePorts_sameHeard (s : State) : SameHeard s s.notePorts := (s.put_sameHeard _ _).trans (State.followDegrade_sameHeard _)

theorem State.puts_sameHeard (s : State) (l : List (Fld × Nat)) : SameHeard s (s.puts l) := SameHeard.foldl (fun _ _ => State.put_sameHeard _ _ _) l s

theorem State.recordFault_sameHeard (s : State) (kind unit : Nat) : SameHeard s (s.recordFault kind unit) :=
  (s.puts_sameHeard _).trans (State.put_sameHeard _ _ _)

/-- The streams leave a port, and what was heard there is forgotten. -/
def State.leavePort (s : State) (n : Nat) : State := { s with nets := s.nets.map (moveOff n), heard := s.heard.filter fun h => h.port != n }

/-- The port fails: recorded, FAILED, and its paths dropped. -/
def State.portLost (s : State) (n : Nat) : State :=
  ((((s.recordFault 5 n).put (portCtl n YRD_PORT_STAT_STATE) 3).raise evPortDown).dropPaths fun _ p => p.port == n)

theorem State.portLost_sameHeard (s : State) (n : Nat) : SameHeard s (s.portLost n) :=
  ((s.recordFault_sameHeard 5 n).trans ((State.put_sameHeard _ _ _).trans (State.put_sameHeard _ _ _))).trans (State.dropPaths_sameHeard _ _)

theorem portFail_of_up {s : State} {n : Nat} (hn : n < 8) (hup : s.portUp n = true) :
    portFail n s = (((s.portLost n).leavePort n).notePeers n).notePorts := if_pos ⟨hn, hup⟩

theorem portFail_fields {s : State} {n : Nat} (hn : n < 8) (hup : s.portUp n = true) : (portFail n s).stalls = s.stalls ∧
    (portFail n s).nets = s.nets.map (moveOff n) ∧ (portFail n s).heard = s.heard.filter fun h => h.port != n := by
  obtain ⟨hstalls, hnets, hheard⟩ := s.portLost_sameHeard n
  obtain ⟨hstalls', hnets', hheard'⟩ := (((s.portLost n).leavePort n).notePeers_sameHeard n).trans (State.notePorts_sameHeard _)
  rw [portFail_of_up hn hup, hstalls', hnets', hheard', ← hstalls, ← hnets, ← hheard]
  exact ⟨rfl, rfl, rfl⟩

/-! ### Frames (R384, R386) -/

/-- The uncorrectable codewords of a port are counted. -/
def State.noteUncorr (s : State) (n lost : Nat) : State :=
  s.put (portCtl n YRD_PORT_STAT_UNCORR) (min 0xFFFF (s.get (portCtl n YRD_PORT_STAT_UNCORR) + lost))

/-- Give a parsed packet to its destination; what does not parse is a miss. -/
def State.ipIn (s : State) (port : Nat) (f : Bytes) (k : Option IpPkt) : State :=
  match k with
  | some k => s.classify port f k
  | none => s.miss port f

/-- What becomes of a frame's payload of a type, and of a frame that has come in. -/
def State.payloadIn (s : State) (port : Nat) (f : Bytes) (ty : Nat) (p : Bytes) : State :=
  if ty = 0x8808 then s.inc (portCtl port YRD_PORT_DROP_PAUSE)
  else if ty = 0x0806 ∧ s.service false (sliceBytes p 24 4) then s.answered port f
  else s.ipIn port f (ipParse ty p)

def State.frameIn (s : State) (port : Nat) (f : Bytes) : State :=
  if 8 ≤ port ∨ !s.portUp port ∨ s.get YRD_CTL_EN = 0 ∨ !macTakes port (beAt f 0 6) then s
  else if 9216 < f.length + 4 then s.inc (portCtl port YRD_PORT_DROP_LONG)
  else match etherPayload f with
    | none => s
    | some (ty, p) => s.payloadIn port f ty p

theorem frameReceive_of_up {s : State} {n : Nat} (hn : n < 8) (hup : s.portUp n = true) (lost : Nat) (f : Bytes) :
    frameReceive n lost f s = (s.noteUncorr n lost).frameIn n f := by
  unfold frameReceive
  dsimp only
  rw [if_pos (show n < 8 ∧ s.portUp n = true from ⟨hn, hup⟩)]
  rfl

theorem State.noteUncorr_portUp {s : State} {n : Nat} (hn : n < 8) (hup : s.portUp n = true) (lost : Nat) : (s.noteUncorr n lost).portUp n = true := by
  have hapart : ∀ n < 8, (portCtl n YRD_PORT_STAT_UNCORR).fits = true ∧
      (portCtl n YRD_PORT_STAT_UNCORR).apart (portCtl n YRD_PORT_STAT_STATE) = true := by decide
  obtain ⟨hfits, happ⟩ := hapart n hn
  unfold State.portUp State.noteUncorr at *
  rw [State.get_put_apart _ _ _ _ hfits happ, hup]

theorem State.get_noteUncorr_en {s : State} {n : Nat} (hn : n < 8) (lost : Nat) : (s.noteUncorr n lost).get YRD_CTL_EN = s.get YRD_CTL_EN := by
  have hapart : ∀ n < 8, (portCtl n YRD_PORT_STAT_UNCORR).fits = true ∧ (portCtl n YRD_PORT_STAT_UNCORR).apart YRD_CTL_EN = true := by decide
  exact State.get_put_apart _ _ _ _ (hapart n hn).1 (hapart n hn).2

theorem State.frameIn_other {s : State} {n : Nat} {f : Bytes} (hmac : macTakes n (beAt f 0 6) = false) : s.frameIn n f = s :=
  if_pos (Or.inr (Or.inr (Or.inr (by rw [hmac]; rfl))))

section
variable {s : State} {n : Nat} {f : Bytes} (hn : n < 8) (hup : s.portUp n = true) (hen : s.get YRD_CTL_EN = 1)
  (hmac : macTakes n (beAt f 0 6) = true)
include hn hup hen hmac

/-- The port takes the frame. -/
theorem State.frameIn_gate : ¬(8 ≤ n ∨ (!s.portUp n) = true ∨ s.get YRD_CTL_EN = 0 ∨ (!macTakes n (beAt f 0 6)) = true) := by
  rw [hup, hen, hmac]
  simp
  exact hn

theorem State.frameIn_long (hlen : 9212 < f.length) : s.frameIn n f = s.inc (portCtl n YRD_PORT_DROP_LONG) :=
  (if_neg (State.frameIn_gate hn hup hen hmac)).trans (if_pos (by omega))

variable (hlen : f.length ≤ 9212) {ty : Nat} {p : Bytes} (hpay : etherPayload f = some (ty, p))
include hlen hpay

theorem State.frameIn_payload : s.frameIn n f = s.payloadIn n f ty p := by
  refine (if_neg (State.frameIn_gate hn hup hen hmac)).trans ((if_neg (by omega)).trans ?_)
  rw [hpay]

end

section
variable (s : State) (n : Nat) (f p : Bytes) {ty : Nat}

theorem State.payloadIn_pause (h : ty = 0x8808) : s.payloadIn n f ty p = s.inc (portCtl n YRD_PORT_DROP_PAUSE) := if_pos h

theorem State.payloadIn_arp (h : ty = 0x0806) (hown : s.service false (sliceBytes p 24 4) = true) : s.payloadIn n f ty p = s.answered n f :=
  (if_neg (by omega)).trans (if_pos ⟨h, hown⟩)

theorem State.payloadIn_ip (hpause : ty ≠ 0x8808) (harp : ty ≠ 0x0806) : s.payloadIn n f ty p = s.ipIn n f (ipParse ty p) :=
  (if_neg hpause).trans (if_neg fun h => harp h.1)

end

/-- What a frame does at a port that is up, as O44 says it. -/
theorem frameReceive_acts {s : State} {n : Nat} {f : Bytes} (hn : n < 8) (lost : Nat) (hup : s.portUp n = true) (hen : s.get YRD_CTL_EN = 1) :
    let u := s.noteUncorr n lost
    (macTakes n (beAt f 0 6) = false → frameReceive n lost f s = u) ∧
    (macTakes n (beAt f 0 6) = true → 9212 < f.length → frameReceive n lost f s = u.inc (portCtl n YRD_PORT_DROP_LONG)) ∧
    (∀ ty p, macTakes n (beAt f 0 6) = true → f.length ≤ 9212 → etherPayload f = some (ty, p) → frameReceive n lost f s = u.payloadIn n f ty p) := by
  intro u
  have hup' : u.portUp n = true := State.noteUncorr_portUp hn hup lost
  have hen' : u.get YRD_CTL_EN = 1 := (State.get_noteUncorr_en hn lost).trans hen
  rw [frameReceive_of_up hn hup]
  exact ⟨State.frameIn_other, State.frameIn_long hn hup' hen', fun ty p hmac hlen => State.frameIn_payload hn hup' hen' hmac hlen⟩

/-! ### What waits in the ingress queue (R388, R398) -/

section
variable {s : State} {x : Ingress}

theorem State.takeIngress_of_found {kind : Nat} {ok : Ingress → Bool} (h : s.ingress.find? (fun y => y.kind == kind) = some x) (hok : ok x = true) :
    s.takeIngress kind ok = some (x, s.without x) := by
  rw [State.takeIngress, h]
  exact if_pos hok

section
variable {f : Flow} (hx : s.ingress.find? (fun y => y.kind == 2) = some x) (hf : s.flows.find? (fun f => f.num == x.who) = some f)
include hx hf

theorem inputDatagram_bad {c : Fld} (hcheck : (s.without x).checkInput f x.data = .error c) : inputDatagram s = (s.without x).inc c := by
  rw [inputDatagram, State.takeIngress_of_found hx rfl]
  dsimp only
  rw [show (s.without x).flows.find? (fun f => f.num == x.who) = some f from hf]
  dsimp only
  rw [hcheck]

theorem inputDatagram_good {seq : Nat} {p : Bytes} (hcheck : (s.without x).checkInput f x.data = .ok (seq, p)) (hver : beAt x.data 1 1 = 1)
    (haction : flowAction f.desc ≠ 1) : inputDatagram s =
      ((s.without x).setFlow f 48 (leBytes 8 seq ++ leBytes 4 (leAt f.desc 56 4 + 1))).latchInput (f.num / 4) (f.num % 4) seq (sliceBytes p 0 16) := by
  rw [inputDatagram, State.takeIngress_of_found hx rfl]
  dsimp only
  rw [show (s.without x).flows.find? (fun f => f.num == x.who) = some f from hf]
  dsimp only
  rw [hcheck]
  exact (if_neg (not_not_intro hver)).trans (if_neg haction)

end

theorem State.emit_streams (s : State) (o : Out) : (s.emit o).streams = s.streams := by
  unfold State.emit
  split <;> rfl

theorem State.sendRtcp_streams (s : State) (t : NetStream) (p : Bytes) : (s.sendRtcp t p).streams = s.streams := by
  unfold State.sendRtcp
  split
  · rfl
  · exact State.emit_streams _ _

variable (hx : s.ingress.find? (fun y => y.kind == 3) = some x)
include hx

theorem rtcpReport_of_found {t : NetStream} {y : Stream} {b : Nat × Nat} {r : List (Nat × Nat)} (hkind : rtcpKind x.data = 1)
    (ht : s.net? x.who = some t) (hy : s.stream? x.who = some y) (hb : (reportBlocks x.data).filter (fun b => b.1 == leAt t.desc 4 4) = b :: r) :
    rtcpReport s = (s.without x).setStream { y with esd := { y.esd with loss := b.2 } } := by
  rw [rtcpReport, State.takeIngress_of_found hx (by rw [hkind]; rfl)]
  dsimp only
  rw [show (s.without x).net? x.who = some t from ht, show (s.without x).stream? x.who = some y from hy]
  dsimp only
  rw [hb]

theorem pliFir_of_found {y : Stream} (hkind : rtcpKind x.data = 3) (hy : s.stream? x.who = some y) :
    pliFir s = (s.without x).setStream { y with esd := { y.esd with keyreq := true } } := by
  rw [pliFir, State.takeIngress_of_found hx (by rw [hkind]; rfl)]
  dsimp only
  rw [show (s.without x).stream? x.who = some y from hy]

theorem tmmbr_stream {t : NetStream} {y : Stream} {g : Bytes} {r : List Bytes} (hkind : rtcpKind x.data = 2)
    (ht : s.net? x.who = some t) (hy : s.stream? x.who = some y)
    (hg : (((upto ((x.data.length - 12) / 8)).map fun j => sliceBytes x.data (12 + 8 * j) 8).filter fun f => beAt f 0 4 == leAt t.desc 4 4) = g :: r) :
    (tmmbr s).stream? x.who = some { y with
      esd := { y.esd with cap := (beAt g 4 4 / 512 % 2 ^ 17) * 2 ^ (beAt g 4 4 / 2 ^ 26) / 1000 % 2 ^ 32 } } := by
  rw [tmmbr, State.takeIngress_of_found hx (by rw [hkind]; rfl)]
  dsimp only
  rw [show (s.without x).net? x.who = some t from ht, show (s.without x).stream? x.who = some y from hy]
  dsimp only
  rw [hg]
  dsimp only
  rw [State.stream?_congr (State.sendRtcp_streams _ _ _)]
  have hnum : y.num = x.who := by simpa using List.find?_some hy
  exact State.stream?_setStream (show (s.without x).stream? x.who = some y from hy) hnum

end

/-! ### Packets that leave (R393 – R398) -/

section
variable {s : State} {n : Nat} {x : NetStream} (hx : s.net? n = some x) (hen : s.get YRD_CTL_EN = 1) (hup : s.portUp x.port = true)
  (hmode : stallsExecute s.mode = true) (haway : s.movedAway (n / 4) = false)
include hx hen hup hmode haway

theorem packetSend_of_up (audio : Bool) : packetSend n audio s = (if audio then s.sendAudio x else s.sendVideo x).pumpAll := by
  rw [packetSend, hx]
  refine if_neg ?_
  rw [hen, hup, hmode, haway]
  simp

theorem rtcpSrSend_of_due (hnd : ndEn x.desc = true) (hsplit : s.split spSTREAM = false) (ht : x.srAt + 1000000000 ≤ s.time) :
    ∃ p, rtcpSrSend n s = (s.setNet { x with srAt := s.time }).sendRtcp { x with srAt := s.time } p := by
  rw [rtcpSrSend, hx]
  refine ⟨_, if_neg ?_⟩
  rw [hen, hup, hmode, haway, hnd, hsplit]
  simp
  exact ht

end

section
variable {s : State} {x : NetStream} {p : TxPkt} {r : List TxPkt} {k : KeySlot}

/-- A stream whose next audio packet has left. -/
def NetStream.audioSent (x : NetStream) (p : TxPkt) (r : List TxPkt) : NetStream :=
  let i := x.arec.length - x.aq.length
  { x with aq := r, arec := if r.isEmpty then [] else x.arec, anum := max x.anum (i + 1), count := (x.count.1, x.count.2 + 1)
           octets := (x.octets.1, x.octets.2 + if x.anum ≤ i then p.data.length else 0) }

/-- A stream whose next video packet has left, with `b` in its bucket before. -/
def NetStream.videoSent (x : NetStream) (p : TxPkt) (r : List TxPkt) (b time : Nat) : NetStream :=
  let i := x.vrec.length - x.vq.length
  { x with bucket := b - p.size * 1000000000, fillAt := time, vq := r, vrec := if r.isEmpty then [] else x.vrec
           vnum := max x.vnum (i + 1), count := (x.count.1 + 1, x.count.2)
           octets := (x.octets.1 + (if x.vnum ≤ i then p.data.length else 0), x.octets.2) }

section
variable (hq : x.aq = p :: r) (hk : x.akey = some k)
include hq hk

theorem State.sendAudio_stale (h : x.arec.length - x.aq.length = 0 ∧ x.anum = 0 ∧ x.adone + 20000000 < s.time) :
    s.sendAudio x = ((s.setNet { x with aq := [], arec := [] }).audioDone (x.num / 4) x.ard).inc YRD_STALE_COUNT := by
  cases x
  cases hq
  cases hk
  exact if_pos h

theorem State.sendAudio_next (h : ¬(x.arec.length - x.aq.length = 0 ∧ x.anum = 0 ∧ x.adone + 20000000 < s.time)) : s.sendAudio x =
    (let t := ((s.setNet (x.audioSent p r)).sendMedia (x.audioSent p r) true k x.anum (x.arec.length - x.aq.length) p).countSent x.num
     if r = [] then t.audioDone (x.num / 4) x.ard else t) := by
  simp only [← List.isEmpty_iff (l := r)]
  cases x
  cases hq
  cases hk
  exact if_neg h

end

section
variable (hq : x.vq = p :: r) (hk : x.vkey = some k) (haudio : s.audioWaits x.port = false)
include hq hk haudio

/-- Without audio on the port a stream's next video packet is considered. -/
theorem State.sendVideo_turn : s.sendVideo x =
    if x.vrec.length - x.vq.length = 0 ∧ x.vnum = 0 ∧ x.vdone + 33300000 < s.time then
      ((s.setNet { x with vq := [], vrec := [] }).videoDone x.num x.vrd true).inc YRD_STALE_COUNT
    else
      let b := bucketNow x (s.maxOf x.num) s.time
      if b < p.size * 1000000000 then s.setNet { x with bucket := b, fillAt := s.time }
      else
        let t := ((s.setNet (x.videoSent p r b s.time)).sendMedia (x.videoSent p r b s.time) false k x.vnum (x.vrec.length - x.vq.length) p).countSent x.num
        if r = [] then t.videoDone x.num x.vrd false else t := by
  simp only [← List.isEmpty_iff (l := r)]
  cases x
  cases hq
  cases hk
  exact if_neg (by rw [haudio]; decide)

end

end

theorem leAt_pair_lt (d : Bytes) (o o' : Nat) : leAt d o 2 + 65536 * leAt d o' 4 < 2 ^ 48 := by
  have h2 := leAt_lt d o 2
  have h4 := leAt_lt d o' 4
  norm_num at h2 h4 ⊢
  omega

theorem State.netPut_out (s : State) (n o : Nat) (bs : Bytes) : (s.netPut n o bs).out = s.out := by
  unfold State.netPut
  split
  · rw [State.hbmWrite_out]
    rfl
  · rfl

/-- The offsets of SEQ and ROC in a descriptor, and of the payload type and the SSRC, of audio or video (R392). -/
def seqOff (audio : Bool) : Nat := if audio then 62 else 60
def rocOff (audio : Bool) : Nat := if audio then 68 else 64
def ptOff (audio : Bool) : Nat := if audio then 3 else 2
def ssrcOff (audio : Bool) : Nat := if audio then 8 else 4

/-- A new packet takes its stream's next number and goes out on its port. -/
theorem State.sendMedia_new {s : State} (x : NetStream) (audio : Bool) (k : KeySlot) {num i : Nat} (p : TxPkt) (hfree : s.pinsHeld = false)
    (hnew : num ≤ i) : (s.sendMedia x audio k num i p).out = s.out ++ [.packet x.port (mediaWire x
      (srtp k (b2n p.m) (leAt x.desc (ptOff audio) 1) (leAt x.desc (seqOff audio) 2) p.ts (leAt x.desc (ssrcOff audio) 4)
        (leAt x.desc (rocOff audio) 4) p.data))] := by
  have hlt := leAt_pair_lt x.desc (seqOff audio) (rocOff audio)
  have hseq := leAt_lt x.desc (seqOff audio) 2
  have hnum : (leAt x.desc (seqOff audio) 2 + 65536 * leAt x.desc (rocOff audio) 4 + 2 ^ 48 - (num - i)) % 2 ^ 48 =
      leAt x.desc (seqOff audio) 2 + 65536 * leAt x.desc (rocOff audio) 4 := by omega
  have hlow : (leAt x.desc (seqOff audio) 2 + 65536 * leAt x.desc (rocOff audio) 4) % 65536 = leAt x.desc (seqOff audio) 2 := by omega
  have hhigh : (leAt x.desc (seqOff audio) 2 + 65536 * leAt x.desc (rocOff audio) 4) / 65536 = leAt x.desc (rocOff audio) 4 := by omega
  unfold State.sendMedia
  dsimp only
  rw [if_neg (Nat.not_lt.2 hnew), State.netPut_out, State.netPut_out, State.emit_of_free hfree]
  unfold seqOff rocOff at hnum hlow hhigh
  rw [hnum, hlow, hhigh]
  rfl

/-! ### Records that are read (R397) -/

section
variable {s : State} {n : Nat} {y : Stream} {o : Nat} {h pay : Bytes} {e : Nat}

theorem recordRead_of_runs (hmode : stallsExecute s.mode = true) {audio : Bool} (haway : s.movedAway (if audio then n else n / 4) = false) :
    recordRead audio n s = if audio then s.readAudio n else s.readVideo n := by
  refine if_neg ?_
  rw [hmode, haway]
  decide

/-- RD of a stream's encoder ring goes on, and a key frame is asked for. -/
def Stream.passed (y : Stream) (e : Nat) (key : Bool) : Stream :=
  { y with esd := { y.esd with rd := ringWrap e y.esd.outSize, keyreq := y.esd.keyreq || key } }

theorem Stream.passed_true (y : Stream) (e : Nat) : y.passed e true = { y with esd := { y.esd with rd := ringWrap e y.esd.outSize, keyreq := true } } := by
  rw [Stream.passed, Bool.or_true]

theorem Stream.passed_false (y : Stream) (e : Nat) : y.passed e false = { y with esd := { y.esd with rd := ringWrap e y.esd.outSize } } := by
  rw [Stream.passed, Bool.or_false]

/-- A stream's record is in progress. -/
def State.videoBusy (s : State) (n : Nat) : Bool :=
  match s.net? n with
  | some t => !t.vrec.isEmpty
  | none => false

theorem State.videoBusy_false (h : ∀ t, s.net? n = some t → t.vrec = []) : s.videoBusy n = false := by
  unfold State.videoBusy
  split
  · rename_i t ht
    rw [h t ht]
    rfl
  · rfl

/-- A record of stream n is offered to its packets: skipped when stale, or formed. -/
def State.videoIn (s : State) (n : Nat) (y : Stream) (h pay : Bytes) (e : Nat) : Option NetStream → State
  | none => s
  | some t =>
    if !ndEn t.desc ∨ s.get YRD_CTL_EN = 0 ∨ s.videoBusy n then s
    else if leAt h 16 8 + 33300000 < s.time then (s.setStream (y.passed e true)).inc YRD_STALE_COUNT
    else if !s.portUp t.port then s
    else match s.txKey n fun f => decide (f ≤ leAt h 4 4) with
      | none => s
      | some k =>
        let l := formPackets t (bitAt (leAt h 3 1) 1) (leAt t.desc 72 4 + 1500 * leAt h 4 4)
          (payloads (leAt h 2 1) (leAt h 3 1) (leAt t.desc 56 2 - pktOver (netIpv6 t.desc)) 0 pay)
        if l.isEmpty then s.setStream (y.passed e false)
        else s.setNet { t with vq := l, vrec := l, vnum := 0, vkey := some k, vdone := leAt h 16 8, vrd := ringWrap e y.esd.outSize }

theorem State.readVideo_of_record (hy : s.stream? n = some y) (hring : s.ringNext y.esd.outAddr y.esd.wr y.esd.rd 12 = some (o, h, pay, e)) :
    s.readVideo n =
      if s.split spSTREAM then (if s.videoBusy n then s else (s.setStream (y.passed e false)).capture 2 n (h ++ pay))
      else s.videoIn n y h pay e (s.net? n) := by
  unfold State.readVideo
  rw [hy]
  dsimp only
  rw [hring]
  dsimp only
  rw [hy]
  rfl

/-- The stream takes records of its own. -/
theorem State.videoIn_gate {t : NetStream} (ht : s.net? n = some t) (hnd : ndEn t.desc = true) (hen : s.get YRD_CTL_EN = 1) (hidle : t.vrec = []) :
    ¬((!ndEn t.desc) = true ∨ s.get YRD_CTL_EN = 0 ∨ s.videoBusy n = true) := by
  have hbusy : s.videoBusy n = false := State.videoBusy_false fun t' ht' => by
    obtain rfl : t = t' := Option.some.inj (ht.symm.trans ht')
    exact hidle
  rw [hnd, hen, hbusy]
  decide

section
variable (hmode : stallsExecute s.mode = true) (haway : s.movedAway (n / 4) = false) (hy : s.stream? n = some y)
  (hring : s.ringNext y.esd.outAddr y.esd.wr y.esd.rd 12 = some (o, h, pay, e))
include hmode haway hy hring

theorem recordRead_video : recordRead false n s =
    if s.split spSTREAM then (if s.videoBusy n then s else (s.setStream (y.passed e false)).capture 2 n (h ++ pay))
    else s.videoIn n y h pay e (s.net? n) :=
  (recordRead_of_runs (audio := false) hmode haway).trans (State.readVideo_of_record hy hring)

/-- With the split the record goes to the host. -/
theorem recordRead_captured (hsplit : s.split spSTREAM = true) (hidle : ∀ t, s.net? n = some t → t.vrec = []) :
    recordRead false n s = (s.setStream { y with esd := { y.esd with rd := ringWrap e y.esd.outSize } }).capture 2 n (h ++ pay) := by
  rw [recordRead_video hmode haway hy hring, if_pos hsplit, State.videoBusy_false hidle, if_neg Bool.false_ne_true, Stream.passed_false]

section
variable {t : NetStream} (hsplit : s.split spSTREAM = false) (ht : s.net? n = some t) (hnd : ndEn t.desc = true) (hen : s.get YRD_CTL_EN = 1)
  (hidle : t.vrec = [])
include hsplit ht hnd hen hidle

theorem recordRead_stale (hold : leAt h 16 8 + 33300000 < s.time) : recordRead false n s =
    (s.setStream { y with esd := { y.esd with rd := ringWrap e y.esd.outSize, keyreq := true } }).inc YRD_STALE_COUNT := by
  rw [recordRead_video hmode haway hy hring, hsplit, if_neg Bool.false_ne_true, ht]
  exact (if_neg (State.videoIn_gate ht hnd hen hidle)).trans ((if_pos hold).trans (by rw [Stream.passed_true]))

theorem recordRead_formed (hup : s.portUp t.port = true) (hnew : s.time ≤ leAt h 16 8 + 33300000) {k : KeySlot}
    (hk : s.txKey n (fun f => decide (f ≤ leAt h 4 4)) = some k) :
    let l := formPackets t (bitAt (leAt h 3 1) 1) (leAt t.desc 72 4 + 1500 * leAt h 4 4)
      (payloads (leAt h 2 1) (leAt h 3 1) (leAt t.desc 56 2 - pktOver (netIpv6 t.desc)) 0 pay)
    l ≠ [] → recordRead false n s =
      s.setNet { t with vq := l, vrec := l, vnum := 0, vkey := some k, vdone := leAt h 16 8, vrd := ringWrap e y.esd.outSize } := by
  intro l hl
  rw [recordRead_video hmode haway hy hring, hsplit, if_neg Bool.false_ne_true, ht]
  refine (if_neg (State.videoIn_gate ht hnd hen hidle)).trans ((if_neg (by omega)).trans ((if_neg ?_).trans ?_))
  · rw [hup]
    decide
  · rw [hk]
    exact if_neg (by simpa using hl)

end
end
end

section
variable {s : State} {k : Nat} {st : Stall} {l : Lane} {o : Nat} {h pay : Bytes} {e : Nat} (hmode : stallsExecute s.mode = true)
  (haway : s.movedAway k = false) (hst : s.stall? k = some st) (hlane : st.lane = some l)
  (hring : s.ringNext l.outAddr l.wr l.rd 16 = some (o, h, pay, e))
  (hidle : (s.nets.any fun x => x.num / 4 == k && !x.arec.isEmpty) = false)
include hmode haway hst hlane hring hidle

/-- The next audio record of a lane: to the host by either split, skipped, or to the streams whose ports are up. -/
theorem recordRead_audio : recordRead true k s =
    (let rd := ringWrap e l.outSize
     let past := s.laneRd k rd fun a => a == o
     let ts := (s.laneStreams k l).filter fun t => s.portUp t.port
     if l.pcm.contains o then past.capture 4 k (h ++ pay)
     else if s.split spSTREAM then past.capture 2 k (h ++ pay)
     else if s.get YRD_CTL_EN = 0 then s
     else if leAt h 20 8 + 20000000 < s.time then past.inc YRD_STALE_COUNT
     else if ts.isEmpty then s
     else (ts.foldl (fun u t => u.queueAudio (st.f0.getD 0) l.channels (leAt h 2 1) (leAt h 4 4) (leAt h 20 8) rd pay t) s).audioDone k rd) := by
  refine (recordRead_of_runs (audio := true) hmode haway).trans ?_
  unfold State.readAudio
  rw [hst]
  dsimp only
  rw [hlane]
  dsimp only
  rw [hring]
  exact if_neg (show ¬(s.nets.any fun x => x.num / 4 == k && !x.arec.isEmpty) = true by rw [hidle]; decide)

theorem recordRead_pcm (hpcm : l.pcm.contains o = true) :
    recordRead true k s = (s.laneRd k (ringWrap e l.outSize) fun a => a == o).capture 4 k (h ++ pay) :=
  (recordRead_audio hmode haway hst hlane hring hidle).trans (if_pos hpcm)

variable (hpcm : l.pcm.contains o = false)
include hpcm

theorem recordRead_audio_captured (hsplit : s.split spSTREAM = true) :
    recordRead true k s = (s.laneRd k (ringWrap e l.outSize) fun a => a == o).capture 2 k (h ++ pay) :=
  (recordRead_audio hmode haway hst hlane hring hidle).trans ((if_neg (by rw [hpcm]; decide)).trans (if_pos hsplit))

variable (hsplit : s.split spSTREAM = false) (hen : s.get YRD_CTL_EN = 1)
include hsplit hen

theorem recordRead_audio_live : recordRead true k s =
    (let rd := ringWrap e l.outSize
     let ts := (s.laneStreams k l).filter fun t => s.portUp t.port
     if leAt h 20 8 + 20000000 < s.time then (s.laneRd k rd fun a => a == o).inc YRD_STALE_COUNT
     else if ts.isEmpty then s
     else (ts.foldl (fun u t => u.queueAudio (st.f0.getD 0) l.channels (leAt h 2 1) (leAt h 4 4) (leAt h 20 8) rd pay t) s).audioDone k rd) :=
  (recordRead_audio hmode haway hst hlane hring hidle).trans
    ((if_neg (by rw [hpcm]; decide)).trans ((if_neg (by rw [hsplit]; decide)).trans (if_neg (by omega))))

/-- What an audio record does with the split off, as O44 says it. -/
theorem recordRead_audio_acts :
    let rd := ringWrap e l.outSize
    let ts := (s.laneStreams k l).filter fun t => s.portUp t.port
    (leAt h 20 8 + 20000000 < s.time → recordRead true k s = (s.laneRd k rd fun a => a == o).inc YRD_STALE_COUNT) ∧
    (s.time ≤ leAt h 20 8 + 20000000 → ts = [] → recordRead true k s = s) ∧
    (s.time ≤ leAt h 20 8 + 20000000 → ts ≠ [] → recordRead true k s = (ts.foldl
      (fun u t => u.queueAudio (st.f0.getD 0) l.channels (leAt h 2 1) (leAt h 4 4) (leAt h 20 8) rd pay t) s).audioDone k rd) := by
  intro rd ts
  have hlive := recordRead_audio_live hmode haway hst hlane hring hidle hpcm hsplit hen
  refine ⟨fun hold => hlive.trans (if_pos hold), fun hnew hts => ?_, fun hnew hts => ?_⟩
  · exact hlive.trans ((if_neg (by omega)).trans (if_pos (List.isEmpty_iff.2 hts)))
  · exact hlive.trans ((if_neg (by omega)).trans (if_neg fun h => hts (List.isEmpty_iff.1 h)))

end

/-! ### O44 -/

/-- Settles O44: ports, frames, input datagrams and RTCP, packets that leave, and records that are read. -/
theorem portsAndPacketsComplete : Obligations.PortsAndPacketsComplete := by
  unfold Obligations.PortsAndPacketsComplete
  refine ⟨fun s n f hn => ⟨fun hen hst => ?_, fun hup => ?_, fun lost hup hen => ?frames⟩, fun s x => ⟨fun f hx hf => ⟨fun c hcheck => ?_,
    fun seq p hcheck hver haction => ?_⟩, fun hx => ⟨fun t y b r hkind ht hy hb => ?_, fun y hkind hy => ?_, fun t y g r hkind ht hy hg => ?_⟩⟩,
    fun s n x hx hen hup hmode haway => ⟨fun p r k hq hk => ?audio, fun p r k hq hk haudio => ?video, fun hnd hsplit ht => ?report,
      fun y o h pay e hy hring hsplit hnd hidle hold => ?stale⟩, fun s x k num i p hfree hnew => ?_,
    fun s n y o h pay e hmode haway hy hring => ⟨fun hsplit hidle => ?_, fun t f hsplit ht hnd hen hidle hup hnew hf => ?formed⟩,
    fun s k st l o h pay e hmode haway hst hlane hring hidle => ⟨fun hpcm => ?_, fun hpcm hsplit => ?_, fun hpcm hsplit hen => ?lane⟩⟩
  · exact congrArg Host.Outcome.next (portTrained_of_enabled hn hen hst)
  · exact ⟨_, rfl, portFail_fields hn hup⟩
  case frames =>
    obtain ⟨hother, hlong, hpay⟩ := frameReceive_acts (f := f) hn lost hup hen
    refine ⟨fun hmac => congrArg Host.Outcome.next (hother hmac), fun hmac hlen => congrArg Host.Outcome.next (hlong hmac hlen),
      fun ty p hmac hlen hp => ⟨fun hty => ?_, fun hty hown => ?_, fun k hpause harp hk => ?_, fun hpause harp hk => ?_⟩⟩
    · exact congrArg Host.Outcome.next ((hpay ty p hmac hlen hp).trans (State.payloadIn_pause _ _ _ _ hty))
    · exact congrArg Host.Outcome.next ((hpay ty p hmac hlen hp).trans (State.payloadIn_arp _ _ _ _ hty hown))
    · exact congrArg Host.Outcome.next ((hpay ty p hmac hlen hp).trans ((State.payloadIn_ip _ _ _ _ hpause harp).trans (by rw [hk]; rfl)))
    · exact congrArg Host.Outcome.next ((hpay ty p hmac hlen hp).trans ((State.payloadIn_ip _ _ _ _ hpause harp).trans (by rw [hk]; rfl)))
  · exact congrArg Host.Outcome.next (inputDatagram_bad hx hf hcheck)
  · exact congrArg Host.Outcome.next (inputDatagram_good hx hf hcheck hver haction)
  · exact congrArg Host.Outcome.next (rtcpReport_of_found hx hkind ht hy hb)
  · exact congrArg Host.Outcome.next (pliFir_of_found hx hkind hy)
  · exact ⟨_, _, rfl, tmmbr_stream hx hkind ht hy hg, rfl⟩
  case audio =>
    have hsend : exec (.packetSend true n) s = .next (s.sendAudio x).pumpAll :=
      congrArg Host.Outcome.next (packetSend_of_up hx hen hup hmode haway true)
    exact ⟨fun h => hsend.trans (by rw [State.sendAudio_stale hq hk h]), fun h => hsend.trans (by rw [State.sendAudio_next hq hk h]; rfl)⟩
  case video =>
    have hsend : exec (.packetSend false n) s = .next (s.sendVideo x).pumpAll :=
      congrArg Host.Outcome.next (packetSend_of_up hx hen hup hmode haway false)
    have hturn := State.sendVideo_turn hq hk haudio
    refine ⟨fun h => ?_, fun h hb => ?_, fun h hb => ?_⟩
    · exact hsend.trans (congrArg (Host.Outcome.next ∘ State.pumpAll) (hturn.trans (if_pos h)))
    · exact hsend.trans (congrArg (Host.Outcome.next ∘ State.pumpAll) (hturn.trans ((if_neg h).trans (if_pos hb))))
    · exact hsend.trans (congrArg (Host.Outcome.next ∘ State.pumpAll) (hturn.trans ((if_neg h).trans (if_neg (Nat.not_lt.2 hb)))))
  case report =>
    obtain ⟨p, hp⟩ := rtcpSrSend_of_due hx hen hup hmode haway hnd hsplit ht
    exact ⟨p, congrArg Host.Outcome.next hp⟩
  case stale => exact congrArg Host.Outcome.next (recordRead_stale hmode haway hy hring hsplit hx hnd hen hidle hold)
  · exact ⟨⟨_, State.sendMedia_new x false k p hfree hnew, rfl⟩, ⟨_, State.sendMedia_new x true k p hfree hnew, rfl⟩⟩
  · exact congrArg Host.Outcome.next (recordRead_captured hmode haway hy hring hsplit hidle)
  case formed =>
    intro l hl
    exact congrArg Host.Outcome.next (recordRead_formed hmode haway hy hring hsplit ht hnd hen hidle hup hnew hf hl)
  · exact congrArg Host.Outcome.next (recordRead_pcm hmode haway hst hlane hring hidle hpcm)
  · exact congrArg Host.Outcome.next (recordRead_audio_captured hmode haway hst hlane hring hidle hpcm hsplit)
  case lane =>
    obtain ⟨hold, hnone, hsome⟩ := recordRead_audio_acts hmode haway hst hlane hring hidle hpcm hsplit hen
    exact ⟨fun h => congrArg Host.Outcome.next (hold h), fun h hts => congrArg Host.Outcome.next (hnone h hts),
      fun h hts => congrArg Host.Outcome.next (hsome h hts)⟩

end Sys2Proof.Machine
end

section
/-! SUPPORT. TO_DEVICE while the memory controllers do not serve (O52; R383, R430). -/
namespace Sys2Proof.Machine

/-- The job that is the oldest running one of its opcode. -/
def oldestRunning (op : Nat) (j : Job) : Bool := j.running && j.op == op

section
variable {s : State} {r op : Nat} {x : Ring} {j : Job} (hruns : fwRuns s.mode = true) (hring : s.ring? r = some x)
  (hj : x.jobs.find? (oldestRunning op) = some j)
include hruns hring hj

/-- A step of a job that leaves its pair in place replaces the job. -/
theorem State.onJob_of_found {f : Job → State → Job × State} (hkept : (f j s).2.ring? r = some x) :
    s.onJob r op f = (f j s).2.setRing { x with jobs := onFirst (oldestRunning op) (fun _ => (f j s).1) x.jobs } := by
  unfold oldestRunning at hj
  unfold State.onJob State.onRing
  rw [if_pos hruns, hring]
  dsimp only
  rw [hj]
  dsimp only
  rw [hkept]
  rfl

end

/-- While the memory controllers do not serve, a TO_DEVICE job waits as it is (R383). -/
theorem toDevice_of_waiting {s : State} {r : Nat} {x : Ring} {j : Job} {a n off : Nat} (hruns : fwRuns s.mode = true) (hring : s.ring? r = some x)
    (hj : x.jobs.find? (oldestRunning 0x10) = some j) (helem : elemAt j.elems j.moved = some (a, n, off)) (hserves : s.memServes = false)
    (data : Bytes) : toDevice r data s = s.setRing { x with jobs := onFirst (oldestRunning 0x10) (fun _ => j) x.jobs } := by
  have hstep (f : Job → State → Job × State) (hf : f j s = (j, s)) :
      s.onJob r 0x10 f = s.setRing { x with jobs := onFirst (oldestRunning 0x10) (fun _ => j) x.jobs } := by
    rw [State.onJob_of_found hruns hring hj (by rw [hf]; exact hring), hf]
  refine hstep _ ?_
  rw [helem]
  exact if_pos (by rw [hserves]; rfl)

/-! ### A job that waits -/

/-- A running TO_DEVICE job of 64 bytes, its pair, and a device that serves rings with MEM_CTL.EN = 0. -/
def waitingJob : Job :=
  { tag := 1, fence := false, op := 0x10, param := 0, data := [], elems := [(0, 64)], phase := .running, open_ := false, moved := 0, since := 0 }
def waitingRing : Ring :=
  { num := 1, sqLog := 4, cqLog := 4, vec := 0, cls := 0, sqBase := 0, cqBase := 0, jobs := [waitingJob], chain := [], armed := false
    fetching := false, pollAt := 0 }
def waitingDevice : State := { State.reset with mode := .service, linkUp := true, rings := [waitingRing] }

theorem waitingDevice_ring : waitingDevice.ring? 1 = some waitingRing := rfl
theorem waitingDevice_memServes : waitingDevice.memServes = false := by decide +kernel

/-- How many bytes each job of each pair has moved. -/
def State.movedBytes (s : State) : List (List Nat) := s.rings.map fun x => x.jobs.map Job.moved

/-- Refutes O52: O52 has a TO_DEVICE job with the link up move its bytes at every state, but while MEM_CTL.EN is 0 the memory controllers do not serve
it (R383), and the job waits with nothing moved. -/
theorem not_ringsComplete : ¬ Obligations.RingsComplete := by
  unfold Obligations.RingsComplete
  rintro ⟨hjobs, -, -⟩
  obtain ⟨-, -, -, -, htoDevice, -⟩ := hjobs waitingDevice 1 waitingRing waitingDevice_ring (by decide) rfl
  have hmoves := htoDevice waitingJob (List.replicate 64 0) 0 64 0 rfl rfl rfl
  have hwaits : exec (.toDevice 1 (List.replicate 64 0)) waitingDevice =
      .next (waitingDevice.setRing { waitingRing with jobs := onFirst (oldestRunning 0x10) (fun _ => waitingJob) waitingRing.jobs }) :=
    congrArg Host.Outcome.next (toDevice_of_waiting rfl waitingDevice_ring rfl rfl waitingDevice_memServes _)
  have hmoved : ([[0]] : List (List Nat)) = [[64]] := congrArg State.movedBytes (Host.Outcome.next.inj (hwaits.symm.trans hmoves))
  exact absurd hmoved (by decide)

end Sys2Proof.Machine
end
